-- ==== Sys2Proof/Word.lean ====
section
/-! DEFINITION. The word types of the Yarys model, in one place. -/

namespace Sys2Proof

/-- One byte of memory. -/
abbrev Byte := BitVec 8
/-- One 32-bit register or core-store word. -/
abbrev Word := BitVec 32
/-- A 64-bit register pair, an instruction word. -/
abbrev DWord := BitVec 64
/-- The bits of an IEEE 754 binary32 value (Table 8-1, FP32). -/
abbrev F32 := BitVec 32
/-- The bits of an IEEE 754 binary64 value (Table 8-1, FP64). -/
abbrev F64 := BitVec 64

end Sys2Proof
end

