-- ==== Sys2Proof/Syntax.lean ====
section
/-! DEFINITION. The commands of the block: one constructor of `Instr` per row of spec/opcode_table.json, and the
structures their operands are made of. A command is one whole step of 95_what_each_step_holds.md; its operands are
what reaches the block from outside (a frame, a packet, a reading, a level) or a choice the spec leaves open. -/

namespace Sys2Proof

/-- A thread group's place: logical core, quarter 0 to 3, group slot 0 to 11 (R170, R171). -/
structure Gid where
  core : Nat
  quarter : Nat
  slot : Nat
deriving DecidableEq, Repr

/-- A network address: IPv4 as a number, IPv6 as its 16 bytes in the order of the wire. -/
inductive IpAddr where
  | v4 (a : Nat)
  | v6 (a : List Byte)
deriving DecidableEq, Repr

/-- An ODP request (Tables 4-7, 4-8): the interface (0 Ethernet 0, 1 Ethernet 1, 2 T1S), session ID, source address and port,
sequence number, object, type code and value bytes, destination address and UDP port, flags and tag. `block` holds offset and
total size when the request is a READ_BLOCK or WRITE_BLOCK segment. `bad` is 0 for a frame of a known opcode with a payload of
its length, 1 for an unknown opcode, which `ty` then holds, 2 for a payload length that does not match the opcode (Table 4-6);
where it is not 0, `data` is the whole payload. -/
structure OdpReq where
  iface : Nat
  sid : Nat
  src : Nat
  sport : Nat
  seq : Nat
  index : Nat
  sub : Nat
  ty : Nat
  data : List Byte
  block : Option (Nat × Nat)
  bad : Nat
  dst : IpAddr
  dport : Nat
  flags : Nat
  tag : List Byte
deriving DecidableEq, Repr

/-- An OPEN frame (Table 4-8). `claimKey` is the enclosed Ed448 key of a claim (key slot 0xFF). -/
structure OpenReq where
  iface : Nat
  src : Nat
  sport : Nat
  role : Nat
  keySlot : Nat
  nonce : List Byte
  x448 : List Byte
  claimKey : List Byte
  dst : IpAddr
  dport : Nat
deriving DecidableEq, Repr

/-- A PROVE frame (Table 4-10, step 3). -/
structure ProveReq where
  iface : Nat
  sid : Nat
  src : Nat
  sport : Nat
  seq : Nat
  sig : List Byte
  dst : IpAddr
  dport : Nat
  flags : Nat
  tag : List Byte
deriving DecidableEq, Repr

/-- One power and temperature sample: VIN48 in mV, input current in mA, input power in mW averaged over the sample, and the
fifteen temperatures of 0x2020 (compute die, stacks 0 to 7, PE0 to PE5) as binary32. -/
structure PowerReading where
  mv : Nat
  ma : Nat
  milliwatts : Nat
  temps : List F32
deriving DecidableEq, Repr

/-- What FW_VERIFY finds outside the flash contents held in State: the PUF (0 sound, 1 not reconstructed, 2 certificate
mismatch, R660), the manufacturing record (0 sound, 1 signature, 2 serial, R90) and the floor tag (R662). -/
structure FwReading where
  puf : Nat
  recordFault : Nat
  floorTagOk : Bool
deriving DecidableEq, Repr

/-- The memory self test of CLOCK_START (R94): bit s of `sliceFail` for a failing slice s, with the failing array; and the
unit code and array of another failing uncore unit (0 for none). -/
structure UncoreReading where
  sliceFail : Nat
  sliceArray : Nat
  uncoreUnit : Nat
  uncoreArray : Nat
deriving DecidableEq, Repr

/-- Self test of one site: its Table 3-3 result and the spare elements selected beyond the record. -/
structure SiteReading where
  result : Nat
  spares : Nat
deriving DecidableEq, Repr

/-- A fabric packet (Table 13-4) with its payload. `src` and `dst` are the 17-bit fabric IDs (or the group of a
multicast), `part` the source partition. -/
structure Pkt where
  kind : Nat
  flags : Nat
  status : Nat
  op : Nat
  ty : Nat
  dst : Nat
  src : Nat
  part : Nat
  seq : Nat
  key : Nat
  window : Nat
  len : Nat
  offset : Nat
  payload : List Byte
deriving DecidableEq, Repr

/-- One credit return field of a flit header (Table 12-5). -/
structure CreditRet where
  vc : Nat
  lane : Nat
  pool : Bool
  valid : Bool
  flits : Nat
deriving DecidableEq, Repr

/-- A flit (Tables 12-4 and 12-5). `reservedBits` holds the header's reserved bits, `ty` 0 NULL, 1 DATA, 2 TRAIN. -/
structure Flit where
  ty : Nat
  vc : Nat
  sop : Bool
  eop : Bool
  lane : Nat
  pool : Bool
  seq : Nat
  ackSeq : Nat
  ackValid : Bool
  nak : Bool
  credit0 : CreditRet
  credit1 : CreditRet
  reservedBits : Nat
  payload : List Byte
deriving DecidableEq, Repr

/-- A flit as a port received it: its fields, whether its codeword pair was correctable, and the CRC that it carried. -/
structure FlitRx where
  port : Nat
  flit : Flit
  fecOk : Bool
  crc : Nat
deriving DecidableEq, Repr

/-- What the far end's TRAIN flits carry (Table 12-6), with the measured round trip in router cycles. -/
structure TrainFar where
  incarnation : Nat
  mask : Nat
  lastSeq : Nat
  lastValid : Bool
  roundTrip : Nat
deriving DecidableEq, Repr

/-- A hello payload (Table 14-5). -/
structure Hello where
  version : Nat
  port : Nat
  role : Nat
  serial : List Byte
  fabricWord : Nat
  incarnation : Nat
  plan : Nat
deriving DecidableEq, Repr

/-- One port of a polled member as the block manager reads it: port table state and width, whether the port's bit is in
the member's routing mask, its observed status and the far serial and far port. -/
structure PortView where
  state : Nat
  width : Nat
  routed : Bool
  observed : Nat
  farSerial : List Byte
  farPort : Nat
deriving DecidableEq, Repr

/-- A member's answers to one poll (R525): serial, role, fabric word, the sixteen ports, and each failed logical core with
its remap status. -/
structure PollAnswer where
  serial : List Byte
  role : Nat
  fabricWord : Nat
  ports : List PortView
  failed : List (Nat × Nat)
deriving DecidableEq, Repr

/-- What an arriving frame carries to an address (Table 17-1): an ARP request or a neighbour solicitation for it, an echo request
to it, or UDP to it (ODP and RoCEv2); `other` carries no network address. -/
inductive FrameNet where
  | ask (a : IpAddr)
  | echo (a : IpAddr)
  | udp (a : IpAddr)
  | other
deriving DecidableEq, Repr

/-- An arriving Ethernet frame as R597 and R598 see it: FCS sound, length, VLAN ID, destination (0 own unicast address,
1 another unicast address, 2 group), whether all it carries is supported by Table 17-1, priority, and whether it carries a
PFC pause. -/
structure FrameIn where
  fcsOk : Bool
  len : Nat
  vlan : Nat
  dest : Nat
  supported : Bool
  priority : Nat
  net : FrameNet
deriving DecidableEq, Repr

/-- A detected fault (Table 18-1): unit code and instance; for a unit of a core, the logical core and the group whose work it
hit; for the matrix array also the tile as `line` and the element of it, row × 65536 + column, as `idx`; for memory, the stack and line;
for attributed units, the partition, ring and ring position of the command. The instance is the
stack or slice, the queue pair of a transport engine, the place of the packet in the router; for rails 0 an always-on rail, 1
the rail of the site that `core` holds, else another unit's; for clocks 0 to 7 the stack interfaces, 8 the core
domain, 9 the router, 10 the management island, 16 to 33 the ports, 40 to 47 the Kettle dies (Table 1-4). -/
structure FaultIn where
  unit : Nat
  inst : Nat
  core : Nat
  group : Option Gid
  stack : Nat
  line : Nat
  part : Option Nat
  ring : Option Nat
  idx : Nat
deriving DecidableEq, Repr

/-- One sampling of every ageing monitor (Table 18-11), in the order of 0x2200. -/
structure AgeingReading where
  slack : List Int
  ringOsc : List Int
  eye : List (Nat × Nat)
  bias : List Int
deriving DecidableEq, Repr

/-- The commands of the block, one constructor per row of spec/opcode_table.json, in the table's
order, those without an operand last (Lean compiles at most 244 constructors that have operands). -/
inductive Instr where
  /-- VIN48_START (R42): VIN48 rising to 42.0 V starts the power stages, with input current limited to 10 A during the ramp. -/
  | vin48Start (mv : Nat)
  /-- VIN48_UNDERVOLTAGE_STOP (R42): VIN48 falling to 40.0 V stops the power stages, removes every rail and abandons bring-up. -/
  | vin48UndervoltageStop (mv : Nat)
  /-- VIN48_OVERVOLTAGE_STOP (R43): VIN48 exceeding 58.0 V stops the power stages. -/
  | vin48OvervoltageStop (mv : Nat)
  /-- VIN48_OVERVOLTAGE_CLEAR (R43): VIN48 falling below 57.0 V after an overvoltage stop restarts the stages with a power-on reset. -/
  | vin48OvervoltageClear (mv : Nat)
  /-- MANAGEMENT_RAIL_UP (R74): The management rail reaching regulation samples the straps and arms the THERMTRIP_N comparator. -/
  | managementRailUp (slotId : Nat) (bootMode : Nat)
  /-- RESET_N_LOW (R71): RESET_N held low for 10 µs or more performs a device reset, returning outputs to rest and abandoning bring-up. -/
  | resetNLow (ns : Nat)
  /-- RESET_N_RISE (R79): The rising edge of RESET_N resamples the straps and restarts bring-up from firmware verification. -/
  | resetNRise (slotId : Nat) (bootMode : Nat)
  /-- DEVICE_RESET (R588): A write of 1 to 0x8020 performs a device reset once the response has been sent. -/
  | deviceReset (req : OdpReq)
  /-- POWER_SAMPLE (R52): Every 4,000 management cycles the input power is sampled, the power-cap step may drop, and the applied step is recomputed. -/
  | powerSample (r : PowerReading)
  /-- THERMAL_TRIP (R59): A sensor at 115 °C or more pulls THERMTRIP_N low within 10 µs and latches it. -/
  | thermalTrip (sensor : Nat) (celsius : F32)
  /-- LASER_LINE_LOSS (R700): A continuous-wave line falling below its minimum takes every port of its engine down and back to LASER_WAIT. -/
  | laserLineLoss (engine : Nat) (line : Nat) (microwatts : Nat)
  /-- LASER_LINE_RESTORED (R700): The last line of an engine reaching its minimum level starts the 1 ms laser hold. -/
  | laserLineRestored (engine : Nat) (line : Nat) (microwatts : Nat)
  /-- LASER_HOLD_EXPIRY (R63): After 1 ms of laser input at its operating level, the ports of the engine leave LASER_WAIT and begin training. -/
  | laserHoldExpiry (engine : Nat)
  /-- FW_VERIFY_DONE (R83): The boot ROM finishes verifying images, the firmware starts, replays the journal and verifies the manufacturing record. -/
  | fwVerifyDone (r : FwReading)
  /-- CLOCK_START_DONE (R94): PLLs lock and memory self test of slices, router, Whisk and sequencer ends CLOCK_START. -/
  | clockStartDone (r : UncoreReading)
  /-- HOLD_RELEASE (R114): A manager write of 1 to 0x2101 in HOLD continues bring-up at STACK_TRAIN. -/
  | holdRelease (req : OdpReq)
  /-- STACK_TRAINED (R95): A stack completes all five training steps, including the zero fill and start of scrub. -/
  | stackTrained (stack : Nat) (rowsAdded : Nat)
  /-- CORE_TEST_ROW (R103): Self test of one grid row completes and records each site's result. -/
  | coreTestRow (row : Nat) (results : List SiteReading)
  /-- POWER_WAVE (R111): A power wave powers the assigned sites of one row once the previous rail is in regulation and 1 ms has passed. -/
  | powerWave (wave : Nat)
  /-- ODP_DATAGRAM_DISCARD (R153): An oversized, malformed, sessionless or badly tagged datagram, or one beyond the 64-datagram queue, is discarded and counted. -/
  | odpDatagramDiscard (iface : Nat)
  /-- OPEN (R156): An OPEN assigns a session slot and ID and answers with a signed CHALLENGE. -/
  | odpOpen (o : OpenReq)
  /-- PROVE (R157): A PROVE verifies the client signature and opens the session, or frees the slot. -/
  | odpProve (p : ProveReq)
  /-- CLOSE (R159): A CLOSE ends the session and discards its pending sets. -/
  | odpClose (req : OdpReq)
  /-- READ (R129): A READ returns one value of a sub-index after the checks of Table 4-4. -/
  | odpRead (req : OdpReq)
  /-- WRITE (R131): A WRITE to an object without behaviour of its own is checked and applied. -/
  | odpWrite (req : OdpReq)
  /-- READ_BLOCK (R130): A READ_BLOCK returns one segment of a DOMAIN snapshot. -/
  | odpReadBlock (req : OdpReq)
  /-- WRITE_BLOCK (R154): A WRITE_BLOCK stores one segment of a DOMAIN write, applying it when the last segment arrives. -/
  | odpWriteBlock (req : OdpReq)
  /-- SESSION_IDLE_TIMEOUT (R159): A session's idle timeout passes with no valid frame and the session ends. -/
  | sessionIdleTimeout (slot : Nat)
  /-- COUPLED_MEMBER_WRITE (R135): A write to an RWC member is checked and placed in the group's pending set, taking ownership. -/
  | coupledMemberWrite (req : OdpReq)
  /-- GROUP_COMMIT (R138): A write of 1 to a commit object checks the whole set against the group's rules and applies it or rejects it. -/
  | groupCommit (req : OdpReq)
  /-- GROUP_DISCARD (R141): A write of 0 to a commit object discards the pending set and releases ownership. -/
  | groupDiscard (req : OdpReq)
  /-- JOURNAL_RECORD_VALID (R145): A journal record becomes valid in flash and the waiting write is answered and takes effect. -/
  | journalRecordValid (failures : Nat)
  /-- JOURNAL_COMPACTION (R145): The active journal area reaching 75 % is compacted into the other area. -/
  | journalCompaction (failures : Nat)
  /-- EXPERT_UNLOCK (R163): An expert session writing 1 to 0xF010 sub 0x01 unlocks itself and event 0x0801 is written. -/
  | expertUnlock (req : OdpReq)
  /-- ROLE_KEY_WRITE (R159): A write to a role key slot replaces its key and ends every session opened with that slot. -/
  | roleKeyWrite (req : OdpReq)
  /-- LAUNCH (R176): A LAUNCH command is checked and its grid's blocks become ready for placement. -/
  | launch (ring : Nat) (idx : Nat)
  /-- BLOCK_PLACE (R172): A block is placed on a core with room and its code image is copied into the instruction store. -/
  | blockPlace (grid : Nat) (core : Nat) (slots : List Nat)
  /-- BLOCK_END (R177): A block whose threads have exited and whose outstanding operations completed frees its resources. -/
  | blockEnd (block : Nat)
  /-- OPERAND_READ (R185): Each register bank grants one source read per core cycle to the oldest collector. -/
  | operandRead (core : Nat) (quarter : Nat)
  /-- LANE_DISPATCH (R187): An instruction dispatches to its lanes after its last source read once the lanes are free. -/
  | laneDispatch (g : Gid)
  /-- RESULT_WRITEBACK (R188): A result leaving the lanes is written to its bank, or waits one cycle on a bank conflict. -/
  | resultWriteback (core : Nat) (quarter : Nat)
  /-- ADD (R210): add computes A + B. -/
  | add (g : Gid)
  /-- SUB (R210): sub computes A − B. -/
  | sub (g : Gid)
  /-- MUL (R210): mul computes the product A × B. -/
  | mul (g : Gid)
  /-- MULHI (R210): mulhi computes the high half of the double-width product. -/
  | mulhi (g : Gid)
  /-- MAD (R210): mad computes the low half of A × B + C. -/
  | mad (g : Gid)
  /-- FMA (R210): fma computes A × B + C rounded once. -/
  | fma (g : Gid)
  /-- MIN (R210): min returns the lesser operand. -/
  | min (g : Gid)
  /-- MAX (R210): max returns the greater operand. -/
  | max (g : Gid)
  /-- AND (R210): and computes a bitwise AND. -/
  | and (g : Gid)
  /-- OR (R210): or computes a bitwise OR. -/
  | or (g : Gid)
  /-- XOR (R210): xor computes a bitwise XOR. -/
  | xor (g : Gid)
  /-- NOT (R210): not computes the bitwise complement. -/
  | not (g : Gid)
  /-- SHL (R210): shl shifts A left by B mod width. -/
  | shl (g : Gid)
  /-- SHR (R210): shr shifts A right, logically or arithmetically by type. -/
  | shr (g : Gid)
  /-- POPC (R210): popc counts the set bits of A. -/
  | popc (g : Gid)
  /-- CLZ (R210): clz counts the leading zero bits of A. -/
  | clz (g : Gid)
  /-- ABS (R210): abs returns the magnitude of A. -/
  | abs (g : Gid)
  /-- NEG (R210): neg returns −A. -/
  | neg (g : Gid)
  /-- RCP (R310): rcp computes 1 / A rounded once. -/
  | rcp (g : Gid)
  /-- SQRT (R310): sqrt computes the square root rounded once. -/
  | sqrt (g : Gid)
  /-- DIV (R310): div computes A / B rounded once. -/
  | div (g : Gid)
  /-- EX2 (R311): ex2 computes 2 raised to A within 2 ulp. -/
  | ex2 (g : Gid)
  /-- LG2 (R311): lg2 computes log2 A within 2 ulp. -/
  | lg2 (g : Gid)
  /-- SIN (R311): sin computes the sine of A within 2 ulp. -/
  | sin (g : Gid)
  /-- COS (R311): cos computes the cosine of A within 2 ulp. -/
  | cos (g : Gid)
  /-- CVT (R289): cvt converts A between formats, rounding once. -/
  | cvt (g : Gid)
  /-- SETP (R210): setp sets a predicate from a comparison of A and B. -/
  | setp (g : Gid)
  /-- SELP (R210): selp selects A or B by a predicate. -/
  | selp (g : Gid)
  /-- PLOG (R210): plog combines two predicates. -/
  | plog (g : Gid)
  /-- MOV (R210): mov copies A or an immediate to D. -/
  | mov (g : Gid)
  /-- MOVHI (R210): movhi writes an immediate into bits 31:16 of D. -/
  | movhi (g : Gid)
  /-- RDSR (R210): rdsr reads a lane, group, quarter, core or cycle count value. -/
  | rdsr (g : Gid)
  /-- VOTE (R210): vote computes any, all or ballot over the active threads. -/
  | vote (g : Gid)
  /-- SHFL (R210): shfl reads register A of another lane. -/
  | shfl (g : Gid)
  /-- LD_C (R222): ld.c loads bytes from the core store. -/
  | ldC (g : Gid)
  /-- ST_C (R222): st.c stores bytes to the core store. -/
  | stC (g : Gid)
  /-- LD_G (R213): ld.g translates and loads bytes from Shofel memory through the slice. -/
  | ldG (g : Gid)
  /-- ST_G (R228): st.g translates and stores bytes to Shofel memory through the slice. -/
  | stG (g : Gid)
  /-- BRA (R189): bra branches, pushing two reconvergence entries when it diverges. -/
  | bra (g : Gid)
  /-- CALL (R210): call saves the return index and jumps to the target. -/
  | call (g : Gid)
  /-- RET (R210): ret continues at the index held in A. -/
  | ret (g : Gid)
  /-- EXIT (R191): exit removes the thread from every mask and may complete a waiting barrier. -/
  | exit (g : Gid)
  /-- NOP (R210): nop does nothing. -/
  | nop (g : Gid)
  /-- DMA_CS (R239): dma.cs checks and starts an asynchronous copy between Shofel memory and the core store. -/
  | dmaCs (g : Gid)
  /-- DMA_COPY_COMPLETE (R243): A copy completes and adds 1 to its arrival counter, releasing any arr.wait it satisfies. -/
  | dmaCopyComplete (copy : Nat)
  /-- ARR_WAIT (R246): arr.wait holds the group until each counter reaches its target. -/
  | arrWait (g : Gid)
  /-- MXA_ISSUE (R259): mxa.issue reads and checks an issue descriptor and enters the matrix queue. -/
  | mxaIssue (g : Gid)
  /-- MXA_DRAIN (R260): mxa.drain reads and checks a drain descriptor and enters the matrix queue. -/
  | mxaDrain (g : Gid)
  /-- MXA_WAIT (R272): mxa.wait holds the group until earlier operations on the tile complete. -/
  | mxaWait (g : Gid)
  /-- MXA_OPERATION_COMPLETE (R272): An issue operation writes its last totals and checksums into its tile. -/
  | mxaOperationComplete (core : Nat)
  /-- MXA_DRAIN_COMPLETE (R270): The drain unit reads a tile, checks checksums, converts, writes output and counts statistics. -/
  | mxaDrainComplete (core : Nat)
  /-- FENCE_GRP (R231): fence.grp orders the thread's accesses at group scope. -/
  | fenceGrp (g : Gid)
  /-- FENCE_BLK (R231): fence.blk orders the thread's accesses at block scope. -/
  | fenceBlk (g : Gid)
  /-- FENCE_DEV (R231): fence.dev orders the thread's accesses at device scope. -/
  | fenceDev (g : Gid)
  /-- FENCE_SYS (R232): fence.sys orders accesses at system scope, including entry of fab operations. -/
  | fenceSys (g : Gid)
  /-- BLK_JOIN (R194): blk.join makes the active predicated threads arrive at a barrier. -/
  | blkJoin (g : Gid)
  /-- ATOM_G (R197): atom.g applies an atomic to Shofel memory at the slice in lane order. -/
  | atomG (g : Gid)
  /-- ATOM_C (R197): atom.c applies an atomic to the core store in lane order. -/
  | atomC (g : Gid)
  /-- KILL_COMPLETE (R204): A context kill ends, its resources are freed and its event record is written. -/
  | killComplete (ring : Nat)
  /-- PROGRESS_STALLED (R196): A group waiting longer than the progress watchdog budget writes event 0x0110 once. -/
  | progressStalled (g : Gid)
  /-- SLICE_MISS_FILL (R23): A line fill from DRAM arrives at its slice and serves the waiting access. -/
  | sliceMissFill (stack : Nat) (line : Nat) (ecc : Nat)
  /-- SLICE_STORE_ACCEPT (R228): A store is accepted at its slice and becomes visible to every observer. -/
  | sliceStoreAccept (k : Nat)
  /-- SCRUB_LINE (R332): Each scrub interval, patrol scrub reads and corrects one line directly at DRAM. -/
  | scrubLine (stack : Nat) (ecc : Nat)
  /-- KETTLE_DESCRIPTOR_START (R339): A Kettle descriptor starts once earlier descriptors it is ordered behind have completed. -/
  | kettleDescriptorStart (task : Nat)
  /-- KETTLE_TURN_END (R342): A turn of 4,096 Kettle cycles ends and the engine may suspend and switch partition. -/
  | kettleTurnEnd (stack : Nat) (engine : Nat)
  /-- GEMV_DESCRIPTOR_COMPLETE (R347): A GEMV descriptor finishes its products and writes its status word. -/
  | gemvDescriptorComplete (task : Nat)
  /-- SCALE_PASS_DESCRIPTOR_COMPLETE (R351): A Scale pass descriptor finishes converting and counting and writes its status. -/
  | scalePassDescriptorComplete (task : Nat)
  /-- UPDATE_DESCRIPTOR_COMPLETE (R396): An update descriptor finishes writing the alternate bank and writes its status. -/
  | updateDescriptorComplete (task : Nat)
  /-- ROOT_ATTEMPT (R355): A root attempt ends in success, which writes R, or failure, which may retry with more damping. -/
  | rootAttempt (task : Nat)
  /-- TARGET_RED (R359): The target-side executor applies a reduction to a line and then replies. -/
  | targetRed (stack : Nat)
  /-- TARGET_ATOM (R359): The target-side executor applies one atomic and returns the old value. -/
  | targetAtom (stack : Nat)
  /-- GEMV_LIST (R338): A GEMV command with operation 1 checks and runs a list of GEMV descriptors. -/
  | gemvList (ring : Nat) (idx : Nat)
  /-- DECODE_OPEN (R365): A GEMV command with operation 2 checks a binding and opens a decode queue. -/
  | decodeOpen (ring : Nat) (idx : Nat)
  /-- DECODE_CLOSE (R366): A GEMV command with operation 3 closes a decode queue and releases waiting takes with N = 0. -/
  | decodeClose (ring : Nat) (idx : Nat)
  /-- DQ_PUSH (R369): dq.push reads a vector and offers it to a decode queue. -/
  | dqPush (g : Gid)
  /-- DQ_TAKE (R368): dq.take requests the next released batch of a decode queue. -/
  | dqTake (g : Gid)
  /-- PUSH_ACCEPT (R371): The router accepts a pushed vector into the queue and increments the push counter. -/
  | pushAccept (queue : Nat)
  /-- BATCH_BUDGET_EXPIRY (R371): The batch budget expires and releases the batch. -/
  | batchBudgetExpiry (queue : Nat)
  /-- TAKE_CLAIM (R373): A take claims the oldest released batch and its work begins on the Kettle or array path. -/
  | takeClaim (queue : Nat)
  /-- TAKE_HEADER_WRITE (R376): After the batch results are written, the take header is written and the take counter incremented. -/
  | takeHeaderWrite (queue : Nat) (take : Nat)
  /-- COPY_LOCAL (R621): COPY operation 1 copies between two device ranges. -/
  | copyLocal (ring : Nat) (idx : Nat)
  /-- COPY_SCALE_PASS (R621): COPY operation 2 runs a list of Scale pass descriptors. -/
  | copyScalePass (ring : Nat) (idx : Nat)
  /-- COPY_FABRIC (R621): COPY operation 3 executes one fabric descriptor. -/
  | copyFabric (ring : Nat) (idx : Nat)
  /-- COPY_HOST_WRITE (R621): COPY operation 4 RDMA-writes device bytes to host memory. -/
  | copyHostWrite (ring : Nat) (idx : Nat)
  /-- COPY_HOST_READ (R621): COPY operation 5 RDMA-reads host bytes into device memory. -/
  | copyHostRead (ring : Nat) (idx : Nat)
  /-- UPDATE_STEP (R390): An UPDATE in step mode is checked for its group slot and target epoch. -/
  | updateStep (ring : Nat) (idx : Nat)
  /-- UPDATE_PUBLISH (R390): An UPDATE in publish mode is checked to multicast the active bank again. -/
  | updatePublish (ring : Nat) (idx : Nat)
  /-- UPDATE_START (R391): A waiting UPDATE begins once its slot's epoch machine is IDLE. -/
  | updateStart (ring : Nat) (idx : Nat)
  /-- VOTE_BUDGET_EXPIRY (R409): The vote budget expires at a block manager with a vote missing, giving a FAILED block vote. -/
  | voteBudgetExpiry (slot : Nat)
  /-- COORDINATOR_BUDGET_EXPIRY (R410): Twice the vote budget expires at the coordinator with a block vote missing, giving ABORT. -/
  | coordinatorBudgetExpiry (slot : Nat)
  /-- EPOCH_IN_DOUBT (R412): An owner in VOTED with no decision within the report time writes event 0x0502 once. -/
  | epochInDoubt (slot : Nat)
  /-- PUBLISH_COMPLETE (R413): Every publish segment is acknowledged and the UPDATE completion record is written. -/
  | publishComplete (slot : Nat)
  /-- RESOLVE (R417): A write to 0x7402 in VOTED acts as a decision with reason 4. -/
  | resolve (req : OdpReq)
  /-- EPOCH_LOAD (R418): A write to 0x7403 in IDLE sets the committed epoch and clears the publish incomplete flag. -/
  | epochLoad (req : OdpReq)
  /-- CTRL_PACKET (R478): A CTRL packet reaches the management island, is recorded at most once and acknowledged. -/
  | ctrlPacket (p : Pkt)
  /-- CTRL_RESEND (R478): A CTRL packet with no ACK within the resend delay is sent again. -/
  | ctrlResend (k : Nat)
  /-- LOCK_COMPLETE (R425): Signal detect and clock recovery finish and training moves to ALIGN. -/
  | lockComplete (port : Nat) (mask : Nat)
  /-- ALIGN_COMPLETE (R425): Deskew and codeword-pair alignment finish and training moves to NEGOTIATE. -/
  | alignComplete (port : Nat) (mask : Nat)
  /-- NEGOTIATE_COMPLETE (R426): TRAIN flit exchange settles the width and wavelengths and training moves to VERIFY. -/
  | negotiateComplete (port : Nat) (far : TrainFar)
  /-- VERIFY_WINDOW_END (R427): The 18,000,000-cycle verify window ends, passing to DONE or repeating NEGOTIATE. -/
  | verifyWindowEnd (port : Nat) (failMask : Nat) (uncorrectable : Bool)
  /-- TRAINING_STATE_TIMEOUT (R425): A training state exceeding its maximum returns the machine to LOCK after 1 ms. -/
  | trainingStateTimeout (port : Nat)
  /-- DATA_FLIT_RECEIVE (R434): A received DATA flit is accepted in sequence or discarded with a NAK. -/
  | dataFlitReceive (port : Nat) (f : Flit) (fecOk : Bool) (crc : Nat)
  /-- NULL_FLIT_RECEIVE (R444): A received NULL flit delivers acknowledgements and credit returns. -/
  | nullFlitReceive (port : Nat) (f : Flit) (fecOk : Bool) (crc : Nat)
  /-- TRAIN_FLIT_RECEIVE (R429): A TRAIN flit on an UP or UNACCEPTED port takes it down with reason 5. -/
  | trainFlitReceive (rx : FlitRx)
  /-- FLIT_TRANSMIT (R451): Each flit slot the transmitter sends a DATA flit chosen by TC0 priority and deficit round robin, or a NULL flit. -/
  | flitTransmit (port : Nat)
  /-- LINK_REPLAY_TIMEOUT (R436): An unacknowledged flit held past round trip plus 1,800 cycles triggers replay, and eight fruitless replays take the port down. -/
  | linkReplayTimeout (port : Nat)
  /-- SIGNAL_LOST (R456): Loss of received signal on a used wavelength takes the port down with reason 1. -/
  | signalLost (port : Nat)
  /-- PORT_DEGRADED (R458): At the end of each 1 s window a ratio rising above the threshold writes event 0x0303. -/
  | portDegraded (port : Nat) (ratio : F32)
  /-- ACCEPT (R459): A write of 1 to Accept moves an UNACCEPTED port to UP. -/
  | portAccept (req : OdpReq)
  /-- PORT_ENABLE_WRITE (R460): A write to Port enable disables ports within 10 µs or starts their machines. -/
  | portEnableWrite (req : OdpReq)
  /-- HELLO_SEND (R519): Every hello interval an UP or UNACCEPTED port sends a hello on VC11. -/
  | helloSend (port : Nat)
  /-- HELLO_RECEIVE (R522): A received hello is compared with the plan, ending DONE into UP, UNACCEPTED or QUARANTINED. -/
  | helloReceive (port : Nat) (h : Hello)
  /-- FAB_GET (R472): fab.get reads a fabric descriptor and issues a remote get. -/
  | fabGet (g : Gid)
  /-- FAB_PUT (R472): fab.put issues a remote store. -/
  | fabPut (g : Gid)
  /-- FAB_MPUT (R472): fab.mput issues a multicast store. -/
  | fabMput (g : Gid)
  /-- FAB_RED (R472): fab.red issues a remote reduction. -/
  | fabRed (g : Gid)
  /-- FAB_ATOM (R472): fab.atom issues a remote atomic. -/
  | fabAtom (g : Gid)
  /-- FAB_PUT_FLAG (R481): fab.put.flag issues a flag store that leaves only after earlier sequenced packets are acknowledged. -/
  | fabPutFlag (g : Gid)
  /-- FAB_FENCE (R482): fab.fence counts once every earlier sequenced packet of the partition is acknowledged. -/
  | fabFence (g : Gid)
  /-- PACKET_ROUTE (R513): A router chooses the output of an arriving or injected packet from the routing group. -/
  | packetRoute (k : Nat)
  /-- GET_PACKET (R480): A GET at its target is checked and answered with DATA. -/
  | getPacket (p : Pkt)
  /-- PUT_PACKET (R480): A PUT at its target is checked, written and acknowledged. -/
  | putPacket (p : Pkt)
  /-- MPUT_PACKET (R496): An MPUT is forwarded on its tree, delivered locally, and acknowledged when all branches answer. -/
  | mputPacket (p : Pkt)
  /-- RED_PACKET (R480): A RED at its target is checked and passed to the executor. -/
  | redPacket (p : Pkt)
  /-- ATOM_PACKET (R480): An ATOM at its target is checked against its replay slot and executed or answered from the record. -/
  | atomPacket (p : Pkt)
  /-- FLAG_PACKET (R480): A FLAG at its target writes its 8-byte value and is acknowledged. -/
  | flagPacket (p : Pkt)
  /-- COMBINED_PACKET (R494): A COMBINED packet is checked once, applied once and given a replay slot per constituent. -/
  | combinedPacket (p : Pkt)
  /-- DATA_REPLY (R472): A DATA reply delivers get data at the source. -/
  | dataReply (p : Pkt)
  /-- ACK_REPLY (R472): An ACK acknowledges its sequence and may complete its operation. -/
  | ackReply (p : Pkt)
  /-- RESULT_REPLY (R472): A RESULT writes an atomic's old value and completes it. -/
  | resultReply (p : Pkt)
  /-- NAK_REPLY (R473): A NAK sets the operation status or, for PATH_FAILED, schedules a resend. -/
  | nakReply (p : Pkt)
  /-- RESEND_DELAY_EXPIRY (R490): The resend delay after a request's last transmission expires and a pending resend is sent. -/
  | resendDelayExpiry (k : Nat)
  /-- FABRIC_TIMEOUT (R499): An operation outstanding past the operation timeout writes event 0x0305 once. -/
  | fabricTimeout (op : Nat)
  /-- WINDOW_SET (R463): A write to 0x6501 sets or clears a window entry. -/
  | windowSet (req : OdpReq)
  /-- REPLAY_AREA_WRITE (R502): A write to 0x6502 sets a partition's replay area and clears its directory. -/
  | replayAreaWrite (req : OdpReq)
  /-- MULTICAST_SET (R497): A write to 0x6601 sets a multicast table entry. -/
  | multicastSet (req : OdpReq)
  /-- BLOCK_MANAGER_POLL (R525): Each poll interval a block manager polls its members and acts under its armed policies. -/
  | blockManagerPoll (member : Nat) (answer : Option PollAnswer)
  /-- CIRCUIT_ACKNOWLEDGE (R512): A write to 0x6411 acknowledges the oldest circuit request, resuming or ending the splice. -/
  | circuitAcknowledge (req : OdpReq)
  /-- COLLECTIVE (R541): A COLLECTIVE command is checked for its descriptor, slot and ranges. -/
  | collective (ring : Nat) (idx : Nat)
  /-- COLLECTIVE_START (R542): A collective starts once earlier commands of its slot have completed, raising the sequence. -/
  | collectiveStart (ring : Nat) (idx : Nat)
  /-- SEGMENT_SEND (R548): A contribution segment is sent to an owner within its admission window, compressed if set. -/
  | segmentSend (slot : Nat) (owner : Nat)
  /-- SEGMENT_INGRESS (R546): A collective segment is consumed once at ingress, forming tree nodes and writing the shard. -/
  | segmentIngress (p : Pkt)
  /-- ALL_GATHER_SEGMENT (R564): An all-gather segment is written at the receiver's result address and acknowledged. -/
  | allGatherSegment (p : Pkt)
  /-- STRAGGLER_BUDGET_EXPIRY (R560): The bounded-wait budget expires and ranks with no segment become missing. -/
  | stragglerBudgetExpiry (slot : Nat)
  /-- COLLECTIVE_STALLED (R559): A collective waiting past the stall report time writes event 0x0401 once. -/
  | collectiveStalled (slot : Nat)
  /-- COLLECTIVE_COMPLETE (R565): A collective whose segments are acknowledged and written completes with its status. -/
  | collectiveComplete (slot : Nat)
  /-- PARTITION_RESET (R589): A write to 0x8021 starts the partition reset sequence, stopping rings, windows, contexts and operations. -/
  | partitionReset (req : OdpReq)
  /-- PARTITION_RESET_APPLY (R589): Once earlier checked requests have executed, step 5 takes any waiting set and zeroes counters, then events are written. -/
  | partitionResetApply (part : Nat)
  /-- EVENT_RING_POLL (R585): Every 4,000 management cycles the consumed value is read and EVENTS_LOST is written when room appears. -/
  | eventRingPoll (part : Nat)
  /-- CLEAR_SETS (R321): A write to 0x5201 zeroes the named statistics sets at one instant. -/
  | clearSets (req : OdpReq)
  /-- THRESHOLD_WRITE (R318): A write to 0x5210 sets threshold records and clears crossed bits. -/
  | thresholdWrite (req : OdpReq)
  /-- ETH_PORT_STATE (R596): An Ethernet port entering or leaving UP is logged and its status updated. -/
  | ethPortState (port : Nat) (up : Bool)
  /-- FRAME_RECEIVE (R597): A received Ethernet frame is checked and passed on or discarded and counted. -/
  | frameReceive (port : Nat) (f : FrameIn)
  /-- PFC_PAUSE_RECEIVE (R598): A received PFC pause stops the paused priority within 1 µs. -/
  | pfcPauseReceive (port : Nat) (priority : Nat) (quanta : Nat)
  /-- PFC_XOFF_REPEAT (R598): Every 20 µs while a priority buffer is above 512 KiB an XOFF is sent again. -/
  | pfcXoffRepeat (port : Nat) (priority : Nat)
  /-- CNP_RECEIVE (R599): A congestion notification packet cuts the queue pair's send rate. -/
  | cnpReceive (qp : Nat)
  /-- RATE_INCREASE (R599): An increase interval with no CNP raises the queue pair's rate by the step. -/
  | rateIncrease (qp : Nat)
  /-- RDMA_WRITE_RECEIVE (R604): An incoming RDMA write is checked against key, access and translation and written. -/
  | rdmaWriteReceive (qp : Nat) (addr : Nat) (rkey : Nat) (data : List Byte) (ce : Bool)
  /-- RDMA_READ_REQUEST (R604): An incoming RDMA read request is checked and answered with device data. -/
  | rdmaReadRequest (qp : Nat) (addr : Nat) (rkey : Nat) (len : Nat)
  /-- SEND_RECEIVE (R606): An incoming SEND is placed in a receive slot with its trailer, or refused with RNR NAK. -/
  | sendReceive (qp : Nat) (data : List Byte)
  /-- INVALID_REQUEST (R605): An unsupported opcode or oversize SEND is NAKed and the queue pair enters error. -/
  | invalidRequest (qp : Nat)
  /-- RDMA_RETRANSMIT_TIMEOUT (R607): The queue pair timeout retransmits, and exhausted retries put the queue pair in error. -/
  | rdmaRetransmitTimeout (qp : Nat)
  /-- QP_RECORD_WRITE (R603): A write of a queue pair record moves it to ready or to reset. -/
  | qpRecordWrite (req : OdpReq)
  /-- DOORBELL_NOTICE (R613): An RDMA write covering a doorbell's first 24 bytes notifies the sequencer. -/
  | doorbellNotice (ring : Nat)
  /-- COMMAND_READ (R614): The sequencer reads the next command up to the producer and checks it. -/
  | commandRead (ring : Nat)
  /-- COMMAND_START (R615): A read command starts once its predecessor has started and its after flag is satisfied. -/
  | commandStart (ring : Nat)
  /-- FENCE_RING (R623): A FENCE of scope 0 completes when earlier commands of the ring have completed. -/
  | fenceRing (ring : Nat) (idx : Nat)
  /-- FENCE_PARTITION (R623): A FENCE of scope 1 also waits for started commands of the partition's other rings. -/
  | fencePartition (ring : Nat) (idx : Nat)
  /-- EVENT_SIGNAL (R624): EVENT signal writes a value at sys scope after earlier commands complete. -/
  | eventSignal (ring : Nat) (idx : Nat)
  /-- EVENT_WAIT (R624): EVENT wait holds its ring until the word reaches the value. -/
  | eventWait (ring : Nat) (idx : Nat)
  /-- EVENT_WAIT_SAMPLE (R624): Every 2,700 core cycles a waiting EVENT samples its word. -/
  | eventWaitSample (ring : Nat)
  /-- COMPLETION_RECORD_WRITE (R626): A completed command gets the next sequence and its record is written when the queue has room. -/
  | completionRecordWrite (ring : Nat)
  /-- MASKED_FAULT (R634): A fault masked by its unit is counted with no event; `retriesFailed` on a stack link whose eighth retry failed. -/
  | maskedFault (unit : Nat) (inst : Nat) (retriesFailed : Bool)
  /-- MASKED_SUMMARY (R634): Each 1 s period in which a masked counter changed enters one summary log entry. -/
  | maskedSummary (unit : Nat)
  /-- DETECTED_FAULT (R630): A detected fault produces its outcome: kill, packet discard, unit stop or poison. -/
  | detectedFault (f : FaultIn)
  /-- CORE_QUARANTINE (R644): A write to 0xA200 kills the core's contexts and marks it failed. -/
  | coreQuarantine (req : OdpReq)
  /-- REMAP_CANCEL (R649): A remap request with action 0 cancels a pending remap. -/
  | remapCancel (req : OdpReq)
  /-- REMAP_SPARE (R645): A remap request with action 1 starts testing a spare site for a failed number. -/
  | remapSpare (req : OdpReq)
  /-- REMAP_ABSENT (R647): A remap request with action 2 commits the number as absent and enters state 2. -/
  | remapAbsent (req : OdpReq)
  /-- REMAP_RETEST (R646): A remap request with action 3 starts retesting the failed site. -/
  | remapRetest (req : OdpReq)
  /-- REMAP_TEST_COMPLETE (R646): The remap self test ends, committing the record and state 2, or refusing with event 0x0703. -/
  | remapTestComplete (core : Nat) (result : Nat)
  /-- AGEING_SAMPLE (R651): Each ageing interval the monitors are sampled and a margin plan is proposed. -/
  | ageingSample (r : AgeingReading)
  /-- SAMPLE_NOW (R651): A write to Sample now samples the monitors and computes a proposal at once. -/
  | sampleNow (req : OdpReq) (r : AgeingReading)
  /-- IMAGE_WRITE (R664): The completing segment of an image write programs, reads back and verifies the target slot. -/
  | imageWrite (req : OdpReq)
  /-- ACTIVATE (R665): A write to Activate marks a valid slot active, measures it and writes event 0x0802. -/
  | activate (req : OdpReq)
  /-- FLOOR_COMMIT (R666): A write to Floor commit sets the security floor for the next bring-up. -/
  | floorCommit (req : OdpReq)
  /-- ATTESTATION_NONCE (R668): A nonce write builds and signs an attestation report for the session. -/
  | attestationNonce (req : OdpReq)
  /-- SEAL (R669): A seal request encrypts plaintext under the seal key into a blob. -/
  | seal (req : OdpReq)
  /-- UNSEAL (R669): An unseal request checks and decrypts a blob and returns it under the transfer key. -/
  | unseal (req : OdpReq)
  /-- UNLOCK_TOKEN (R672): A manager token write is checked, draws a new challenge and starts the erasure when accepted. -/
  | unlockToken (req : OdpReq) (saltErased : Bool)
  /-- BYPASS (R69): The TAP BYPASS instruction selects the 1-bit bypass register. -/
  | tapBypass (tdi : Bool)
  /-- SAMPLE_PRELOAD (R677): The TAP SAMPLE/PRELOAD instruction captures or loads the boundary register. -/
  | samplePreload (pins : Nat) (preload : Nat)
  /-- EXTEST (R677): The TAP EXTEST instruction drives the land-grid signals from the boundary register. -/
  | tapExtest (pins : Nat)
  /-- MGMT_HALT (R677): The TAP MGMT_HALT instruction halts or releases the management core. -/
  | mgmtHalt (halt : Bool)
  /-- MGMT_MEM (R677): The TAP MGMT_MEM instruction reads or writes management memory, masking the key area. -/
  | mgmtMem (wr : Bool) (addr : Nat) (data : Nat)
  /-- SITE_SCAN (R677): The TAP SITE_SCAN instruction shifts a scan chain segment of one site. -/
  | siteScan (site : Nat) (segment : Nat)
  /-- RDMA_RESPONSE_RECEIVE (R607): An RDMA read response, ACK or NAK arrives for a request that Yarys issued as requester on a completion queue pair, freeing an outstanding read slot, placing read data and completing the waiting COPY operation 4 or 5 or completion-record write. -/
  | rdmaResponseReceive (qp : Nat) (kind : Nat) (data : List Byte)
  /-- STACK_TRAIN_STEP_FAILED (R95): A stack's training state machine fails one of its five steps, such as PLL lock, channel training, serial compare, Kettle self test or zero fill, and the stack becomes untrained with that step's reason code. -/
  | stackTrainStepFailed (stack : Nat) (reason : Nat)
  /-- ALWAYS_ON_RAILS_UP (R70): All always-on rails in regulation with RESET_N high drives PGOOD high and starts bring-up. -/
  | alwaysOnRailsUp
  /-- REFCLK_VALID (R73): REFCLK becoming valid lets CLOCK_START lock its PLLs and proceed. -/
  | refclkValid
  /-- REFCLK_LATE (R93): 50 ms after PGOOD with no valid REFCLK, discrepancy REFCLK_LATE is recorded and the wait continues. -/
  | refclkLate
  /-- RAISE_WINDOW_END (R52): At the end of each raise window the power-cap and thermal steps may rise by one. -/
  | raiseWindowEnd
  /-- STACK_TRAIN_TIMEOUT (R95): The stack training timeout expires with a stack still untrained. -/
  | stackTrainTimeout
  /-- LINK_TRAIN_DEADLINE (R98): The link training deadline expires and ends LINK_TRAIN. -/
  | linkTrainDeadline
  /-- CORE_ASSIGN_COMMIT (R107): The assignment record is committed, clearing any pending assignment reset, and the device enters READY. -/
  | coreAssignCommit
  /-- OWNER_VOTE_RECEIVE (R409): A block manager records an owner vote and sends its block vote when complete or failed. -/
  | ownerVoteReceive
  /-- BLOCK_VOTE_RECEIVE (R410): The coordinator records a block vote and decides COMMIT or ABORT. -/
  | blockVoteReceive
  /-- DECISION_RECEIVE (R412): An owner receiving a decision commits or aborts its epoch, and a block manager relays it. -/
  | decisionReceive
  /-- SPLICE_TRAINING_TIMEOUT (R528): The training timeout of step 5 passes before all splice ports are UP. -/
  | spliceTrainingTimeout
  /-- EVENT_RECORD_WRITE (R584): An event record from the event record queue is written to its ring or counted as lost. -/
  | eventRecordWrite
  /-- DOORBELL_POLL (R613): Every 27,000 core cycles the sequencer reads every doorbell page in effect. -/
  | doorbellPoll
  /-- MGMT_STOP (R635): A management core lockstep mismatch halts it and forces throttle step 8. -/
  | mgmtStop
  /-- IDCODE (R677): The TAP IDCODE instruction returns the 32-bit identification code. -/
  | tapIdcode
deriving DecidableEq, Repr

end Sys2Proof
end

