-- ==== Sys2Proof/Config.lean ====
section
/-! DEFINITION. The free values of the model: constants without a body, for every value the spec leaves open. Nothing can
prove a value of one. Those that take the counter `State.freeCtr` give a fresh value each time one is drawn. The
cryptographic functions are uninterpreted: the spec names a published algorithm and uses its result as opaque bytes. -/

namespace Sys2Proof.Config

/-- A natural number the spec does not fix, drawn at counter value `n` (log entry 2). -/
opaque freeNat (n : Nat) : Nat
/-- A byte the spec does not fix, drawn at counter value `n` (log entry 2). -/
opaque freeByte (n : Nat) : Byte
/-- A choice between two outcomes the spec allows, drawn at counter value `n` (log entry 2). -/
opaque freeBool (n : Nat) : Bool
/-- How far an FP32 special function (0 ex2, 1 lg2, 2 sin, 3 cos) lies from its reference value, in units in the last
place; the same for the same input (R311). Only its value modulo 5 is used (log entry 3). -/
opaque sfuUlp (fn : Nat) (x : F32) : Nat
/-- How far a root unit's power result lies from the reference value (R355); only its value modulo 3 is used. -/
opaque rootUlp (p : Nat) (x : DWord) : Nat
/-- How far the FP64 power β^t lies from its reference value where it has no exact FP64 value, since the spec does not say how
it is formed (R398); only its value modulo 3 is used (log entry 19). -/
opaque powUlp (beta : F32) (t : Nat) : Nat
/-- The quotient of a finite value by a scale that is zero, infinite or NaN, which R296 does not state: the FP32 code it
converts as, from the FP32 codes of both (log entry 32). -/
opaque freeQuotient (v s : F32) : F32
/-- SHA-3 SHAKE256 of a message, `n` bytes out. -/
opaque shake256 (n : Nat) (msg : List Byte) : List Byte
/-- SHA3-512 of a message (R667, image digests). -/
opaque sha3 (msg : List Byte) : List Byte
/-- KMAC256 under a key with a label. -/
opaque kmac256 (n : Nat) (key msg label : List Byte) : List Byte
/-- An Ed448 signature of a message under the device's identity key. -/
opaque ed448Sign (key msg : List Byte) : List Byte
/-- Whether an Ed448 signature verifies. -/
opaque ed448Verify (pub msg sig : List Byte) : Bool
/-- X448: the public value of a private key, and the shared secret. -/
opaque x448Public (priv : List Byte) : List Byte
opaque x448Shared (priv pub : List Byte) : List Byte
/-- AES-256-GCM: ciphertext with tag, and the plaintext where the tag verifies. -/
opaque gcmSeal (key nonce aad plain : List Byte) : List Byte
opaque gcmOpen (key nonce aad blob : List Byte) : Option (List Byte)
/-- The Oaquin keys held in the boot ROM, for firmware images and for unlock tokens (Tables 19-2, 19-8). -/
opaque firmwareKey : List Byte
opaque debugKey : List Byte

end Sys2Proof.Config
end

