-- ==== Sys2Proof/Machine/Num.lean ====
section
/-! DEFINITION. Arithmetic on the formats of 08_numerics.md: exact values, the one rounding (R289), conversion with its
outcome (Table 8-2, R291), and the FP32 and FP64 operations of R310 to R313. Codes are natural numbers. -/

namespace Sys2Proof.Num

/-- A floating-point format of Table 8-1. `nanKind` 0: all-ones exponent encodes infinity and NaN; 1: E4M3, one NaN code
and no infinity; 2: neither. -/
structure Fmt where
  ebits : Nat
  fbits : Nat
  bias : Nat
  nanKind : Nat
  subnormals : Bool
deriving DecidableEq, Repr

def fp64 : Fmt := ⟨11, 52, 1023, 0, true⟩
def fp32 : Fmt := ⟨8, 23, 127, 0, true⟩
def a20 : Fmt := ⟨8, 11, 127, 0, false⟩
def bf16 : Fmt := ⟨8, 7, 127, 0, true⟩
def fp16 : Fmt := ⟨5, 10, 15, 0, true⟩
def e4m3 : Fmt := ⟨4, 3, 7, 1, true⟩
def e5m2 : Fmt := ⟨5, 2, 15, 0, true⟩
def e3m2 : Fmt := ⟨3, 2, 3, 2, true⟩
def e2m3 : Fmt := ⟨2, 3, 1, 2, true⟩
def e2m1 : Fmt := ⟨2, 1, 1, 2, true⟩

/-- The value a code stands for: NaN, a signed infinity, or (-1)^neg * m * 2^e. -/
inductive Val where
  | nan
  | inf (neg : Bool)
  | fin (neg : Bool) (m : Nat) (e : Int)
deriving DecidableEq, Repr

def Fmt.signBit (f : Fmt) : Nat := 2 ^ (f.ebits + f.fbits)
def Fmt.expOnes (f : Fmt) : Nat := 2 ^ f.ebits - 1
/-- The magnitude code of the largest finite value. -/
def Fmt.maxCode (f : Fmt) : Nat :=
  match f.nanKind with
  | 0 => f.expOnes * 2 ^ f.fbits - 1
  | 1 => 2 ^ (f.ebits + f.fbits) - 2
  | _ => 2 ^ (f.ebits + f.fbits) - 1
/-- The magnitude code of infinity, where there is one. -/
def Fmt.infCode (f : Fmt) : Nat := f.expOnes * 2 ^ f.fbits
/-- The canonical NaN (Table 8-1); in the formats with none, what Table 8-2 gives: the largest finite, positive. -/
def Fmt.nanCode (f : Fmt) : Nat :=
  match f.nanKind with
  | 0 => f.infCode + 2 ^ (f.fbits - 1)
  | 1 => 2 ^ (f.ebits + f.fbits) - 1
  | _ => f.maxCode
/-- The exponent of the smallest quantum: the step of the subnormal range. -/
def Fmt.minExp (f : Fmt) : Int := 1 - (f.bias : Int) - (f.fbits : Int)

/-- The value of a code (R284, R288). -/
def decode (f : Fmt) (code : Nat) : Val :=
  let neg := decide (code / f.signBit % 2 = 1)
  let mag := code % f.signBit
  let ex := mag / 2 ^ f.fbits
  let fr := mag % 2 ^ f.fbits
  if f.nanKind = 0 ∧ ex = f.expOnes then (if fr = 0 then .inf neg else .nan)
  else if f.nanKind = 1 ∧ mag = f.nanCode then .nan
  else if ex = 0 then (if f.subnormals then .fin neg fr f.minExp else .fin neg 0 f.minExp)
  else .fin neg (2 ^ f.fbits + fr) (f.minExp + (ex : Int) - 1)

/-- `m * 2^-sh` rounded to an integer, ties to even (R289); `sticky` says that a non-zero part below `m` was dropped. -/
def rneShift (m : Nat) (sh : Int) (sticky : Bool) : Nat :=
  if sh ≤ 0 then m * 2 ^ (-sh).toNat
  else
    let n := sh.toNat
    let q := m / 2 ^ n
    let r := m % 2 ^ n
    let half := 2 ^ (n - 1)
    if r > half ∨ (r = half ∧ (sticky = true ∨ q % 2 = 1)) then q + 1 else q

/-- ⌊log₂ of m·2^e⌋ for m > 0. -/
def floorLog (m : Nat) (e : Int) : Int := (Nat.log2 m : Int) + e

/-- The counter an element adds to in a conversion (Table 8-2). -/
inductive Count where
  | none | zeros | saturations | flushes | nonfinite
deriving DecidableEq, Repr

def withSign (f : Fmt) (neg : Bool) (mag : Nat) : Nat := if neg then f.signBit + mag else mag

/-- The magnitude code of RNE of a positive m·2^e (with a dropped part when `sticky`), before overflow is considered. -/
def roundMag (f : Fmt) (m : Nat) (e : Int) (sticky : Bool) : Nat :=
  if f.subnormals then
    let q := max (floorLog m e - (f.fbits : Int)) f.minExp
    let r := rneShift m (q - e) sticky
    (q - f.minExp).toNat * 2 ^ f.fbits + r
  else
    -- A20 (R298): rounded with an unbounded exponent, then a result below the smallest normal is 0
    let q := floorLog m e - (f.fbits : Int)
    let r := rneShift m (q - e) sticky
    if q ≥ f.minExp then (q - f.minExp).toNat * 2 ^ f.fbits + r
    else if q = f.minExp - 1 ∧ r = 2 ^ (f.fbits + 1) then 2 ^ f.fbits
    else 0

/-- Table 8-2 for a finite value (-1)^neg·(m + part)·2^e, the part non-zero when `sticky`. -/
def roundFin (f : Fmt) (neg : Bool) (m : Nat) (e : Int) (sticky : Bool) : Nat × Count :=
  if m = 0 ∧ sticky = false then (withSign f neg 0, .zeros)
  else if m = 0 then (withSign f neg 0, .flushes)
  else
    let c := roundMag f m e sticky
    if c = 0 then (withSign f neg 0, .flushes)
    else if c > f.maxCode then
      if f.nanKind = 0 then (withSign f neg f.infCode, .nonfinite)
      else (withSign f neg f.maxCode, .saturations)
    else (withSign f neg c, .none)

/-- Conversion of a value to a floating-point format: result and counter (R290, Table 8-2, R292). -/
def convert (f : Fmt) : Val → Nat × Count
  | .nan => (f.nanCode, .nonfinite)
  | .inf neg => if f.nanKind = 0 then (withSign f neg f.infCode, .nonfinite) else (withSign f neg f.maxCode, .nonfinite)
  | .fin neg m e => roundFin f neg m e false

/-- The code alone. -/
def round (f : Fmt) (v : Val) : Nat := (convert f v).1

/-- Rounding of a finite signed value to an integer, ties to even. -/
def toInt (neg : Bool) (m : Nat) (e : Int) : Int :=
  let r := (rneShift m (-e) false : Int)
  if neg then -r else r

/-- Conversion to INT8 (R291): the two's complement byte and the counter. -/
def convertInt8 : Val → Nat × Count
  | .nan => (0, .nonfinite)
  | .inf neg => (if neg then 128 else 127, .nonfinite)
  | .fin neg m e =>
    if m = 0 then (0, .zeros)
    else
      let r := toInt neg m e
      if r > 127 then (127, .saturations)
      else if r < -128 then (128, .saturations)
      else if r = 0 then (0, .flushes)
      else ((r % 256).toNat, .none)

/-- Conversion of a value to an integer of `w` bits, clamped to its range; NaN gives 0 (R313 with R291). -/
def convertInt (signed : Bool) (w : Nat) : Val → Nat
  | .nan => 0
  | .inf neg =>
    if signed then (if neg then 2 ^ (w - 1) else 2 ^ (w - 1) - 1) else (if neg then 0 else 2 ^ w - 1)
  | .fin neg m e =>
    let r := toInt neg m e
    let lo : Int := if signed then -(2 ^ (w - 1) : Nat) else 0
    let hi : Int := if signed then (2 ^ (w - 1) - 1 : Nat) else (2 ^ w - 1 : Nat)
    let c := if r < lo then lo else if r > hi then hi else r
    (c % (2 ^ w : Nat)).toNat

def ofInt (n : Int) : Val := .fin (decide (n < 0)) n.natAbs 0

/-! ## Exact operations on values -/

def Val.neg : Val → Val
  | .nan => .nan
  | .inf n => .inf (!n)
  | .fin n m e => .fin (!n) m e

def Val.abs : Val → Val
  | .nan => .nan
  | .inf _ => .inf false
  | .fin _ m e => .fin false m e

def Val.isFinite : Val → Bool
  | .fin _ _ _ => true
  | _ => false

def Val.isZero : Val → Bool
  | .fin _ 0 _ => true
  | _ => false

def signedInt (neg : Bool) (m : Nat) : Int := if neg then -(m : Int) else m

/-- Exact sum; a zero sum of opposite signs is +0, as round-to-nearest gives. -/
def Val.add : Val → Val → Val
  | .nan, _ => .nan
  | _, .nan => .nan
  | .inf a, .inf b => if a = b then .inf a else .nan
  | .inf a, _ => .inf a
  | _, .inf b => .inf b
  | .fin na ma ea, .fin nb mb eb =>
    let e := min ea eb
    let x := signedInt na (ma * 2 ^ (ea - e).toNat) + signedInt nb (mb * 2 ^ (eb - e).toNat)
    if x = 0 then .fin (na && nb) 0 e else .fin (decide (x < 0)) x.natAbs e

def Val.mul : Val → Val → Val
  | .nan, _ => .nan
  | _, .nan => .nan
  | .inf a, .inf b => .inf (a != b)
  | .inf a, .fin nb mb _ => if mb = 0 then .nan else .inf (a != nb)
  | .fin na ma _, .inf b => if ma = 0 then .nan else .inf (na != b)
  | .fin na ma ea, .fin nb mb eb => .fin (na != nb) (ma * mb) (ea + eb)

/-- 2^k as a value. -/
def pow2 (k : Int) : Val := .fin false 1 k

/-- Exact comparison of two finite values: -1, 0 or 1. -/
def cmpFin (na : Bool) (ma : Nat) (ea : Int) (nb : Bool) (mb : Nat) (eb : Int) : Int :=
  let e := min ea eb
  let x := signedInt na (ma * 2 ^ (ea - e).toNat)
  let y := signedInt nb (mb * 2 ^ (eb - e).toNat)
  if x < y then -1 else if x = y then 0 else 1

/-- Comparison; none when one operand is NaN. -/
def Val.cmp : Val → Val → Option Int
  | .nan, _ => none
  | _, .nan => none
  | .inf a, .inf b => some (if a = b then 0 else if a then -1 else 1)
  | .inf a, _ => some (if a then -1 else 1)
  | _, .inf b => some (if b then 1 else -1)
  | .fin na ma ea, .fin nb mb eb => some (cmpFin na ma ea nb mb eb)

/-- Magnitude order of two finite values, as amax needs it. -/
def maxMag (a b : Val) : Val :=
  match a.abs.cmp b.abs with
  | some 1 => a.abs
  | some _ => b.abs
  | none => a.abs

/-- Quotient rounded once (R310). -/
def divRound (f : Fmt) : Val → Val → Nat
  | .nan, _ => f.nanCode
  | _, .nan => f.nanCode
  | .inf _, .inf _ => f.nanCode
  | .inf a, .fin nb _ _ => withSign f (a != nb) f.infCode
  | .fin na _ _, .inf b => withSign f (na != b) 0
  | .fin na ma ea, .fin nb mb eb =>
    let s := na != nb
    if mb = 0 then (if ma = 0 then f.nanCode else withSign f s f.infCode)
    else if ma = 0 then withSign f s 0
    else
      let k := f.fbits + 4 + Nat.log2 mb
      let n := ma * 2 ^ k
      (roundFin f s (n / mb) (ea - eb - (k : Int)) (decide (n % mb ≠ 0))).1

/-- One halving step of the bitwise square root: `bit` runs down over the result's bits. -/
def isqrtLoop : Nat → Nat → Nat → Nat
  | 0, _, r => r
  | b + 1, n, r =>
    let t := r + 2 ^ b
    isqrtLoop b n (if t * t ≤ n then t else r)

/-- The integer square root, structurally recursive on the result's bit count. -/
def isqrt (n : Nat) : Nat := isqrtLoop (Nat.log2 n / 2 + 1) n 0

/-- Square root rounded once (R310); of a negative non-zero value the canonical NaN. -/
def sqrtRound (f : Fmt) : Val → Nat
  | .nan => f.nanCode
  | .inf true => f.nanCode
  | .inf false => f.infCode
  | .fin n m e =>
    if m = 0 then withSign f n 0
    else if n then f.nanCode
    else
      let k := 2 * (f.fbits + 4) + (if e % 2 = 0 then 0 else 1)
      let x := m * 2 ^ k
      let r := isqrt x
      (roundFin f false r ((e - (k : Int)) / 2) (decide (r * r ≠ x))).1

/-! ## FP32 and FP64 operations on codes -/

def addF (f : Fmt) (a b : Nat) : Nat := round f ((decode f a).add (decode f b))
def subF (f : Fmt) (a b : Nat) : Nat := round f ((decode f a).add (decode f b).neg)
def mulF (f : Fmt) (a b : Nat) : Nat := round f ((decode f a).mul (decode f b))
/-- A × B + C, rounded once (R310). -/
def fmaF (f : Fmt) (a b c : Nat) : Nat := round f (((decode f a).mul (decode f b)).add (decode f c))
def divF (f : Fmt) (a b : Nat) : Nat := divRound f (decode f a) (decode f b)
def sqrtF (f : Fmt) (a : Nat) : Nat := sqrtRound f (decode f a)

/-- Whether code `a` orders below code `b`, with −0 below +0, both not NaN (R312). -/
def ltZ (f : Fmt) (a b : Nat) : Bool :=
  match (decode f a).cmp (decode f b) with
  | some (-1) => true
  | some 0 => decide (a / f.signBit % 2 = 1) && decide (b / f.signBit % 2 = 0)
  | _ => false

/-- Vector min (R312). -/
def minF (f : Fmt) (a b : Nat) : Nat :=
  match decode f a, decode f b with
  | .nan, .nan => f.nanCode
  | .nan, _ => b
  | _, .nan => a
  | _, _ => if ltZ f b a then b else a

/-- Vector max (R312). -/
def maxF (f : Fmt) (a b : Nat) : Nat :=
  match decode f a, decode f b with
  | .nan, .nan => f.nanCode
  | .nan, _ => b
  | _, .nan => a
  | _, _ => if ltZ f a b then b else a

/-! ## Special functions (R311): a fixed-point reference, and a free distance from it -/

/-- π, ln 2 as fixed-point integers with 300 fraction bits (PRESUMED: mathematical constants). -/
def piFx : Nat := 6399537258350533404498902296276095619968599404742382956244570183135712832137875919436931981
def ln2Fx : Nat := 1411965743695424507508857192728570223734551239724995589061361292466257174357546532574725854

/-- Fraction bits of the reference evaluations. -/
def fxBits : Nat := 300
def fxOne : Nat := 2 ^ fxBits

/-- Σ terms of a power series: `term` the current term, `x` the step factor, `n` its index; exp(x) when started at 1, 1. -/
def expSeries : Nat → Nat → Nat → Nat → Nat
  | 0, _, _, acc => acc
  | fuel + 1, x, term, acc =>
    let n := 100 - fuel
    let t := term * x / fxOne / n
    expSeries fuel x t (acc + t)

/-- exp of a fixed-point x in [0, 1). -/
def expFx (x : Nat) : Nat := expSeries 100 x fxOne fxOne

/-- Sine or cosine series of a fixed-point x in [0, 2π): next term is −term·x²/((n+1)(n+2)). -/
def trigSeries : Nat → Nat → Nat → Int → Int → Int
  | 0, _, _, _, acc => acc
  | fuel + 1, x2, n, term, acc =>
    let t := -(term * (x2 : Int) / (fxOne : Int) / (((n + 1) * (n + 2) : Nat) : Int))
    trigSeries fuel x2 (n + 2) t (acc + t)

def sinFx (x : Nat) : Int := trigSeries 100 (x * x / fxOne) 1 (x : Int) (x : Int)
def cosFx (x : Nat) : Int := trigSeries 100 (x * x / fxOne) 0 (fxOne : Int) (fxOne : Int)

/-- Σ z^(2k+1)/(2k+1): the inverse hyperbolic tangent of a fixed-point z in [0, 1/3]. -/
def atanhSeries : Nat → Nat → Nat → Nat → Nat → Nat
  | 0, _, _, _, acc => acc
  | fuel + 1, z2, n, p, acc => atanhSeries fuel z2 (n + 2) (p * z2 / fxOne) (acc + p / n)

/-- log₂ of 1 + fr/2^23, in fixed point. -/
def lg2Fx (fr : Nat) : Nat :=
  let z := fr * fxOne / (2 ^ 24 + fr)
  let at_ := atanhSeries 110 (z * z / fxOne) 1 z 0
  2 * at_ * fxOne / ln2Fx

/-- A signed fixed-point number as a value. -/
def ofFx (x : Int) : Val := .fin (decide (x < 0)) x.natAbs (-(fxBits : Int))

/-- How often 2 divides `m`, up to the first argument. -/
def trailing : Nat → Nat → Nat
  | 0, _ => 0
  | n + 1, m => if m % 2 = 1 then 0 else trailing n (m / 2) + 1

/-- The exponent of the unit in the last place of format `f` at a finite value m·2^e. -/
def ulpExp (f : Fmt) (m : Nat) (e : Int) : Int :=
  if m = 0 then f.minExp else max (floorLog m e - (f.fbits : Int)) f.minExp

/-- Whether the value of `code` lies within `n` units in the last place of the exact value `v`. -/
def within (f : Fmt) (n : Nat) (v : Val) (code : Nat) : Bool :=
  match decode f code, v with
  | .fin na ma ea, .fin nb mb eb =>
    let u := ulpExp f mb eb
    let e := min ea (min eb u)
    let x := signedInt na (ma * 2 ^ (ea - e).toNat)
    let y := signedInt nb (mb * 2 ^ (eb - e).toNat)
    decide ((x - y).natAbs ≤ n * 2 ^ (u - e).toNat)
  | _, _ => false

/-- A result within `n` units in the last place of the exact value `v`: the code of its sign that lies `k` modulo 2n + 1,
less n, places from the rounded value `ref`, where that is within the bound, else `ref`. Every result of that sign within the
bound is met by some `k`. -/
def nudge (f : Fmt) (n : Nat) (v : Val) (ref k : Nat) : Nat :=
  let c := ref / f.signBit * f.signBit + (ref % f.signBit + k % (2 * n + 1) - n)
  if within f n v c then c else ref

/-- The largest exponent argument whose power is finite, and the special functions' exact cases. Where the result is exact
(a power of two from an integer, the logarithm of a power of two, sine of ±0, cosine of 0) R311's bound still leaves two
units; the model keeps them free as the spec does. -/
def ex2F (a : Nat) : Nat :=
  match decode fp32 a with
  | .nan => fp32.nanCode
  | .inf true => 0
  | .inf false => fp32.infCode
  | .fin n m e =>
    if m = 0 then nudge fp32 2 (pow2 0) (round fp32 (pow2 0)) (Config.sfuUlp 0 (BitVec.ofNat 32 a))
    else if floorLog m e ≥ 9 then (if n then 0 else fp32.infCode)
    else
      -- x as fixed point, split into integer and fraction
      let x : Int := signedInt n (m * 2 ^ ((fxBits : Int) + e).toNat)
      let i := x / (fxOne : Int)
      let fr := (x % (fxOne : Int)).toNat
      let v := expFx (fr * ln2Fx / fxOne)
      let r := roundFin fp32 false v (i - (fxBits : Int)) true
      nudge fp32 2 (.fin false v (i - (fxBits : Int))) r.1 (Config.sfuUlp 0 (BitVec.ofNat 32 a))

def lg2F (a : Nat) : Nat :=
  match decode fp32 a with
  | .nan => fp32.nanCode
  | .inf true => fp32.nanCode
  | .inf false => fp32.infCode
  | .fin n m e =>
    if m = 0 then withSign fp32 true fp32.infCode
    else if n then fp32.nanCode
    else
      let k := floorLog m e
      let fr := (m * 2 ^ (23 - Nat.log2 m)) - 2 ^ 23
      let v := ofFx (k * (fxOne : Int) + (lg2Fx fr : Int))
      nudge fp32 2 v (round fp32 v) (Config.sfuUlp 1 (BitVec.ofNat 32 a))

/-- |x| reduced modulo 2π in fixed point. -/
def reduceFx (m : Nat) (e : Int) : Nat :=
  (rneShift m (-(e + (fxBits : Int))) false) % (2 * piFx)

def sinF (a : Nat) : Nat :=
  match decode fp32 a with
  | .nan => fp32.nanCode
  | .inf _ => fp32.nanCode
  | .fin n m e =>
    if m = 0 then nudge fp32 2 (.fin n 0 0) (withSign fp32 n 0) (Config.sfuUlp 2 (BitVec.ofNat 32 a))
    else
      let s := sinFx (reduceFx m e)
      let v := ofFx (if n then -s else s)
      nudge fp32 2 v (round fp32 v) (Config.sfuUlp 2 (BitVec.ofNat 32 a))

def cosF (a : Nat) : Nat :=
  match decode fp32 a with
  | .nan => fp32.nanCode
  | .inf _ => fp32.nanCode
  | .fin _ m e =>
    let v := ofFx (cosFx (reduceFx m e))
    nudge fp32 2 v (round fp32 v) (Config.sfuUlp 3 (BitVec.ofNat 32 a))

/-! ## Scales (R286, R295 to R297) -/

/-- The value of an E8M0 byte (R286). -/
def e8m0 (b : Nat) : Val := if b = 255 then .nan else pow2 ((b : Int) - 127)

/-- A narrow element format of the scaled layouts, with E_max and F_max. -/
structure Narrow where
  fmt : Option Fmt
  emax : Nat
  fmax : Val
deriving DecidableEq, Repr

def narrowE4m3 : Narrow := ⟨some e4m3, 8, .fin false 448 0⟩
def narrowE5m2 : Narrow := ⟨some e5m2, 15, .fin false 57344 0⟩
def narrowE3m2 : Narrow := ⟨some e3m2, 4, .fin false 28 0⟩
def narrowE2m3 : Narrow := ⟨some e2m3, 2, .fin false 15 (-1)⟩
def narrowE2m1 : Narrow := ⟨some e2m1, 2, .fin false 6 0⟩
def narrowInt8 : Narrow := ⟨none, 0, .fin false 127 0⟩

def Narrow.convert (n : Narrow) (v : Val) : Nat × Count :=
  match n.fmt with
  | some f => Num.convert f v
  | none => convertInt8 v

/-- amax of a list of values: the largest finite magnitude (R296). -/
def amax (vs : List Val) : Val :=
  vs.foldl (fun a v => if v.isFinite then maxMag a v else a) (.fin false 0 0)

/-- The Microscaling scale byte of R296. -/
def mxScale (n : Narrow) (h : Nat) : Val → Nat
  | .fin _ m e =>
    if m = 0 then 127
    else
      let s := floorLog m e - (n.emax : Int) + (h : Int) + 127
      (max 0 (min 254 s)).toNat
  | _ => 255

/-- The FP32 scale of R296: amax × 2^h / F_max rounded to FP32, or 1.0. -/
def f32Scale (n : Narrow) (h : Nat) (am : Val) : Nat :=
  if am.isZero then round fp32 (pow2 0) else divRound fp32 (am.mul (pow2 (h : Int))) n.fmax

/-- The conversion of a quotient that R296 does not state (log entry 32). -/
def freeConv (n : Narrow) (v s : Val) : Nat × Count :=
  n.convert (decode fp32 (Config.freeQuotient (BitVec.ofNat 32 (round fp32 v)) (BitVec.ofNat 32 (round fp32 s))).toNat)

/-- v / S converted once to a narrow format (R296); a non-finite v converts by Table 8-2, and a finite one over a scale that
is zero or not finite gives a free value (log entry 32). -/
def convScaled (n : Narrow) (v s : Val) : Nat × Count :=
  match v, s with
  | .fin na ma ea, .fin nb mb eb =>
    if mb = 0 then freeConv n v s
    else if ma = 0 then n.convert (.fin (na != nb) 0 0)
    else
      let k := 80 + Nat.log2 mb
      let q := ma * 2 ^ k / mb
      let st := decide (ma * 2 ^ k % mb ≠ 0)
      -- the dropped part is kept as one more bit below the quotient
      n.convert (.fin (na != nb) (2 * q + (if st then 1 else 0)) (ea - eb - (k : Int) - 1))
  | .fin _ _ _, _ => freeConv n v s
  | .inf a, .fin b _ _ => n.convert (.inf (a != b))
  | .inf a, .inf b => n.convert (.inf (a != b))
  | v, _ => n.convert v

/-- The counts of one block under R297's NaN-block rule or under conversion: codes with their counters. -/
def convBlock (n : Narrow) (s : Val) (nanBlock : Bool) (vs : List Val) : List (Nat × Count) :=
  if nanBlock then vs.map (fun v => (0, if !v.isFinite then .nonfinite else if v.isZero then .zeros else .none))
  else vs.map (fun v => convScaled n v s)

end Sys2Proof.Num
end

