-- ==== Sys2Proof/Machine/Maps.lean ====
section
/-! DEFINITION. Sparse maps as sorted lists in one canonical form, and bytes of little-endian fields (R4). An entry equal to
what an unlisted key reads as (0) is never listed, so equal maps are equal lists. -/

namespace Sys2Proof.Machine

/-- A sparse map of numbers: strictly rising keys, no zero value; an unlisted key reads as 0. -/
abbrev NMap := List (Nat × Nat)

def NMap.get : NMap → Nat → Nat
  | [], _ => 0
  | (k, v) :: t, i => if k = i then v else NMap.get t i

def NMap.set : NMap → Nat → Nat → NMap
  | [], i, x => if x = 0 then [] else [(i, x)]
  | (k, v) :: t, i, x =>
    if i < k then (if x = 0 then (k, v) :: t else (i, x) :: (k, v) :: t)
    else if i = k then (if x = 0 then t else (i, x) :: t)
    else (k, v) :: NMap.set t i x

/-- Whether a sparse map is in canonical form. -/
def NMap.wf : NMap → Bool
  | [] => true
  | [(_, v)] => v != 0
  | (k, v) :: (k', v') :: t => v != 0 && decide (k < k') && NMap.wf ((k', v') :: t)

/-- The byte at a key; an unlisted key reads as 0 (R96: zero fill). -/
def cellGet : List Host.Cell → Nat → Byte
  | [], _ => 0
  | (k, v) :: t, i => if k = i then v else cellGet t i

/-- Write one byte, keeping the canonical form. -/
def cellSet : List Host.Cell → Nat → Byte → List Host.Cell
  | [], i, x => if x = 0 then [] else [(i, x)]
  | (k, v) :: t, i, x =>
    if i < k then (if x = 0 then (k, v) :: t else (i, x) :: (k, v) :: t)
    else if i = k then (if x = 0 then t else (i, x) :: t)
    else (k, v) :: cellSet t i x

/-- The canonical form of a byte memory: strictly rising addresses, no entry equal to 0. -/
def cellsWf : List Host.Cell → Bool
  | [] => true
  | [(_, v)] => v != 0
  | (k, v) :: (k', v') :: t => v != 0 && decide (k < k') && cellsWf ((k', v') :: t)

/-- Write a run of bytes from a key on. -/
def cellsWrite (m : List Host.Cell) : Nat → List Byte → List Host.Cell
  | _, [] => m
  | a, b :: bs => cellsWrite (cellSet m a b) (a + 1) bs

/-- Read a run of bytes. -/
def cellsRead (m : List Host.Cell) (a n : Nat) : List Byte :=
  (List.range n).map (fun i => cellGet m (a + i))

/-- The number a little-endian byte string stands for (R4). -/
def leNat : List Byte → Nat
  | [] => 0
  | b :: bs => b.toNat + 256 * leNat bs

/-- `n` bytes of a number, least significant first (R4). -/
def natLe : Nat → Nat → List Byte
  | 0, _ => []
  | n + 1, x => BitVec.ofNat 8 x :: natLe n (x / 256)

/-- The little-endian field of `n` bytes at an offset of a structure. -/
def field (bs : List Byte) (off n : Nat) : Nat := leNat ((bs.drop off).take n)

/-- Bits [hi:lo] of a number. -/
def bits (x hi lo : Nat) : Nat := x / 2 ^ lo % 2 ^ (hi - lo + 1)

def bit (x i : Nat) : Bool := decide (x / 2 ^ i % 2 = 1)

/-- Zero bytes. -/
def zeros (n : Nat) : List Byte := List.replicate n 0

/-- Whether every byte of a part of a structure is 0 (a reserved field, R8). -/
def resZero (bs : List Byte) (off n : Nat) : Bool := ((bs.drop off).take n).all (fun b => b == 0)

/-- A number of `w` bits read as signed. -/
def toSigned (w x : Nat) : Int := if x % 2 ^ w < 2 ^ (w - 1) then (x % 2 ^ w : Nat) else (x % 2 ^ w : Nat) - (2 ^ w : Nat)

/-- An integer as `w` bits. -/
def ofSigned (w : Nat) (x : Int) : Nat := (x % (2 ^ w : Nat)).toNat

/-- The i-th element or a default. -/
def nth (l : List Nat) (i : Nat) : Nat := l.getD i 0

/-- Replace the i-th element of a list. -/
def setNth {α : Type} : List α → Nat → α → List α
  | [], _, _ => []
  | _ :: t, 0, y => y :: t
  | x :: t, i + 1, y => x :: setNth t i y

/-- Apply a function to the i-th element. -/
def modNth {α : Type} : List α → Nat → (α → α) → List α
  | [], _, _ => []
  | x :: t, 0, f => f x :: t
  | x :: t, i + 1, f => x :: modNth t i f

/-- Add `d` to the i-th counter of a list; a U64 counter stops at its largest value (R316). -/
def addAt (l : List Nat) (i d : Nat) : List Nat := modNth l i (fun x => min (x + d) (2 ^ 64 - 1))

/-- Remove the i-th element. -/
def dropNth {α : Type} : List α → Nat → List α
  | [], _ => []
  | _ :: t, 0 => t
  | x :: t, i + 1 => x :: dropNth t i

def rep0 (n : Nat) : List Nat := List.replicate n 0

end Sys2Proof.Machine
end

