-- ==== Sys2Proof/Machine/ObjTable.lean ====
section
/-! DEFINITION. The object table: one row per row of the chapters' object tables (Table 0-4 gives the columns), in order of
index. Type codes are those of Table 4-2. -/

namespace Sys2Proof.Machine

/-- What the object's description says its values are (Table 4-4 step 7, R699): anything of its type; a range; a range
with a step; a list; an F32 above 0 and at most a code. -/
inductive ObjRange where
  | any
  | rng (lo hi : Nat)
  | stp (lo hi step : Nat)
  | lst (vals : List Nat)
  | flt (hi : Nat)
deriving DecidableEq, Repr

/-- One row: first and last index, first and last sub-index, type code, access (0 CONST, 1 RO, 2 RW, 3 WO, 4 RWC), whether
level E, whether P, whether the chapter names the manager role, the values, the length of a DOMAIN of fixed layout (0: any),
and the default. -/
structure ObjRow where
  ilo : Nat
  ihi : Nat
  lo : Nat
  hi : Nat
  ty : Nat
  acc : Nat
  expert : Bool
  persist : Bool
  manager : Bool
  range : ObjRange
  len : Nat
  dflt : List Byte
deriving DecidableEq, Repr

/-- The stock plan (R653): 2,700 MHz, every offset 0; its trims are those of the manufacturing record (log entry 6). -/
def stockPlan : List Byte := zeros 8 ++ natLe 2 2700 ++ zeros 54

def objRows1 : List ObjRow := [
  ⟨0x1000, 0x1000, 0x01, 0x01, 4, 0, false, false, false, .any, 0, (natLe 4 196617)⟩,
  ⟨0x1008, 0x1008, 0x01, 0x01, 9, 2, false, true, false, .any, 0, []⟩,
  ⟨0x1018, 0x1018, 0x01, 0x01, 4, 0, false, false, false, .any, 0, (natLe 4 2652)⟩,
  ⟨0x1018, 0x1018, 0x02, 0x02, 4, 0, false, false, false, .any, 0, (natLe 4 65545)⟩,
  ⟨0x1018, 0x1018, 0x03, 0x03, 4, 0, false, false, false, .any, 0, (natLe 4 197121)⟩,
  ⟨0x1018, 0x1018, 0x04, 0x04, 9, 0, false, false, false, .any, 0, []⟩,
  ⟨0x1018, 0x1018, 0x05, 0x05, 9, 0, false, false, false, .any, 0, [0x4F, 0x51, 0x43, 0x2D, 0x59, 0x39, 0x41]⟩,
  ⟨0x1018, 0x1018, 0x06, 0x06, 5, 0, false, false, false, .any, 0, (zeros 8)⟩,
  ⟨0x1018, 0x1018, 0x07, 0x07, 4, 1, false, false, false, .any, 0, (zeros 4)⟩]

def objRows2a : List ObjRow := [
  ⟨0x2000, 0x2000, 0x01, 0x01, 4, 1, false, false, false, .any, 0, (zeros 4)⟩,
  ⟨0x2000, 0x2000, 0x02, 0x02, 4, 1, false, false, false, .any, 0, (zeros 4)⟩,
  ⟨0x2000, 0x2000, 0x03, 0x03, 4, 1, false, false, false, .any, 0, (zeros 4)⟩,
  ⟨0x2000, 0x2000, 0x04, 0x04, 4, 1, false, false, false, .any, 0, (zeros 4)⟩,
  ⟨0x2010, 0x2010, 0x01, 0x01, 4, 2, false, true, false, (.rng 1000 2600), 0, (natLe 4 2600)⟩,
  ⟨0x2010, 0x2010, 0x02, 0x02, 4, 2, true, true, false, (.stp 4000 40000000 4000), 0, (natLe 4 400000)⟩,
  ⟨0x2010, 0x2010, 0x03, 0x03, 4, 0, false, false, false, .any, 0, (natLe 4 4000)⟩,
  ⟨0x2010, 0x2010, 0x04, 0x04, 2, 1, false, false, false, .any, 0, (natLe 1 32)⟩,
  ⟨0x2010, 0x2010, 0x05, 0x05, 2, 1, false, false, false, .any, 0, (natLe 1 32)⟩,
  ⟨0x2010, 0x2010, 0x06, 0x06, 2, 1, false, false, false, .any, 0, (natLe 1 32)⟩,
  ⟨0x2010, 0x2010, 0x07, 0x07, 5, 1, false, false, false, .any, 0, (zeros 8)⟩,
  ⟨0x2010, 0x2010, 0x08, 0x08, 5, 1, false, false, false, .any, 0, (zeros 8)⟩,
  ⟨0x2020, 0x2020, 0x01, 0x01, 7, 1, false, false, false, .any, 0, (zeros 4)⟩,
  ⟨0x2020, 0x2020, 0x02, 0x09, 7, 1, false, false, false, .any, 0, (zeros 4)⟩,
  ⟨0x2020, 0x2020, 0x0A, 0x0F, 7, 1, false, false, false, .any, 0, (zeros 4)⟩,
  ⟨0x2021, 0x2021, 0x01, 0x01, 7, 0, false, false, false, .any, 0, (natLe 4 0x42C80000)⟩,
  ⟨0x2021, 0x2021, 0x02, 0x02, 7, 0, false, false, false, .any, 0, (natLe 4 0x42C20000)⟩,
  ⟨0x2021, 0x2021, 0x03, 0x03, 7, 0, false, false, false, .any, 0, (natLe 4 0x42E60000)⟩,
  ⟨0x2021, 0x2021, 0x04, 0x04, 5, 1, false, false, false, .any, 0, (zeros 8)⟩,
  ⟨0x2030, 0x2030, 0x01, 0x06, 2, 1, false, false, false, .any, 0, (zeros 1)⟩,
  ⟨0x2031, 0x2031, 0x01, 0x06, 4, 1, false, false, false, .any, 0, (zeros 4)⟩,
  ⟨0x2031, 0x2031, 0x07, 0x0C, 4, 1, false, false, false, .any, 0, (zeros 4)⟩,
  ⟨0x2040, 0x2040, 0x01, 0x01, 2, 1, false, false, false, .any, 0, (zeros 1)⟩,
  ⟨0x2040, 0x2040, 0x02, 0x02, 2, 1, false, false, false, .any, 0, (zeros 1)⟩,
  ⟨0x2100, 0x2100, 0x01, 0x01, 2, 1, false, false, false, .any, 0, (zeros 1)⟩,
  ⟨0x2100, 0x2100, 0x02, 0x02, 2, 1, false, false, false, .any, 0, (zeros 1)⟩,
  ⟨0x2100, 0x2100, 0x03, 0x03, 4, 1, false, true, false, .any, 0, (zeros 4)⟩,
  ⟨0x2100, 0x2100, 0x04, 0x04, 3, 1, false, false, false, .any, 0, (zeros 2)⟩,
  ⟨0x2100, 0x2100, 0x05, 0x05, 10, 1, false, false, false, .any, 0, []⟩,
  ⟨0x2100, 0x2100, 0x06, 0x06, 2, 1, false, false, false, .any, 0, (zeros 1)⟩,
  ⟨0x2100, 0x2100, 0x07, 0x07, 2, 1, false, false, false, .any, 0, (zeros 1)⟩,
  ⟨0x2100, 0x2100, 0x08, 0x08, 3, 1, false, false, false, .any, 0, (zeros 2)⟩,
  ⟨0x2100, 0x2100, 0x09, 0x09, 2, 1, false, false, false, .any, 0, (zeros 1)⟩,
  ⟨0x2100, 0x2100, 0x0A, 0x0A, 2, 1, false, false, false, .any, 0, (zeros 1)⟩,
  ⟨0x2100, 0x2100, 0x0B, 0x0B, 2, 1, false, false, false, .any, 0, (zeros 1)⟩,
  ⟨0x2100, 0x2100, 0x0C, 0x13, 5, 1, false, false, false, .any, 0, (zeros 8)⟩,
  ⟨0x2101, 0x2101, 0x01, 0x01, 1, 3, false, false, true, .any, 0, (zeros 1)⟩,
  ⟨0x2102, 0x2102, 0x01, 0x01, 4, 2, false, true, false, (.rng 40000000 4000000000), 0, (natLe 4 800000000)⟩,
  ⟨0x2102, 0x2102, 0x02, 0x02, 2, 2, false, true, false, (.rng 0 1), 0, (natLe 1 1)⟩,
  ⟨0x2110, 0x2110, 0x01, 0x01, 10, 1, false, true, false, .any, 0, []⟩]

def objRows2b : List ObjRow := [
  ⟨0x2110, 0x2110, 0x02, 0x02, 1, 3, true, true, false, .any, 0, (zeros 1)⟩,
  ⟨0x2120, 0x2120, 0x01, 0x01, 3, 0, false, false, false, .any, 0, (zeros 2)⟩,
  ⟨0x2120, 0x2120, 0x02, 0x02, 10, 0, false, false, false, .any, 0, []⟩,
  ⟨0x2120, 0x2120, 0x03, 0x03, 4, 0, false, false, false, .any, 0, (zeros 4)⟩,
  ⟨0x2120, 0x2120, 0x04, 0x04, 10, 0, false, false, false, .any, 0, []⟩,
  ⟨0x2121, 0x2121, 0x01, 0x01, 10, 1, false, false, false, .any, 0, []⟩,
  ⟨0x2200, 0x2200, 0x01, 0x01, 10, 1, false, false, false, .any, 0, []⟩,
  ⟨0x2200, 0x2200, 0x02, 0x02, 10, 1, false, false, false, .any, 0, []⟩,
  ⟨0x2200, 0x2200, 0x03, 0x03, 10, 1, false, false, false, .any, 0, []⟩,
  ⟨0x2200, 0x2200, 0x04, 0x04, 10, 1, false, false, false, .any, 0, []⟩,
  ⟨0x2200, 0x2200, 0x05, 0x05, 5, 1, false, false, false, .any, 0, (zeros 8)⟩,
  ⟨0x2210, 0x2210, 0x01, 0x01, 5, 2, false, true, false, (.rng 40000000000 34560000000000), 0, (natLe 8 1440000000000)⟩,
  ⟨0x2210, 0x2210, 0x02, 0x02, 3, 2, true, true, false, (.rng 10 100), 0, (natLe 2 25)⟩,
  ⟨0x2210, 0x2210, 0x03, 0x03, 3, 2, true, true, false, (.rng 30 200), 0, (natLe 2 60)⟩,
  ⟨0x2210, 0x2210, 0x04, 0x04, 1, 3, false, false, true, .any, 0, (zeros 1)⟩]

def objRows3 : List ObjRow := [
  ⟨0x3000, 0x3000, 0x01, 0x01, 10, 1, false, false, false, .any, 0, []⟩,
  ⟨0x3000, 0x3000, 0x02, 0x02, 10, 1, false, false, false, .any, 0, []⟩,
  ⟨0x3010, 0x3010, 0x01, 0x01, 10, 1, false, false, false, .any, 0, []⟩,
  ⟨0x3010, 0x3010, 0x02, 0x02, 2, 1, false, false, false, .any, 0, (zeros 1)⟩,
  ⟨0x3020, 0x3020, 0x01, 0x01, 5, 1, false, false, false, .any, 0, (zeros 8)⟩,
  ⟨0x3020, 0x3020, 0x02, 0x02, 5, 1, false, false, false, .any, 0, (zeros 8)⟩,
  ⟨0x3020, 0x3020, 0x03, 0x0A, 5, 1, false, false, false, .any, 0, (zeros 8)⟩,
  ⟨0x3030, 0x3030, 0x01, 0x10, 5, 2, false, true, false, (.rng 27000000 2700000000000), 0, (natLe 8 2700000000)⟩,
  ⟨0x3031, 0x3031, 0x01, 0x01, 5, 1, false, false, false, .any, 0, (zeros 8)⟩,
  ⟨0x3040, 0x3040, 0x01, 0x01, 2, 2, true, false, false, (.rng 0 1), 0, (zeros 1)⟩,
  ⟨0x3050, 0x3050, 0x01, 0x01, 4, 0, false, false, false, .any, 0, (natLe 4 65536)⟩,
  ⟨0x3050, 0x3050, 0x02, 0x02, 2, 0, false, false, false, .any, 0, (natLe 1 12)⟩,
  ⟨0x3050, 0x3050, 0x03, 0x03, 4, 0, false, false, false, .any, 0, (natLe 4 16384)⟩,
  ⟨0x3050, 0x3050, 0x04, 0x04, 4, 0, false, false, false, .any, 0, (natLe 4 524288)⟩]

def objRows4a : List ObjRow := [
  ⟨0x4000, 0x4000, 0x01, 0x01, 2, 0, false, false, false, .any, 0, (natLe 1 64)⟩,
  ⟨0x4000, 0x4000, 0x02, 0x02, 3, 0, false, false, false, .any, 0, (natLe 2 256)⟩,
  ⟨0x4000, 0x4000, 0x03, 0x03, 4, 0, false, false, false, .any, 0, (natLe 4 524288)⟩,
  ⟨0x4000, 0x4000, 0x04, 0x04, 2, 0, false, false, false, .any, 0, (natLe 1 64)⟩,
  ⟨0x4000, 0x4000, 0x05, 0x05, 4, 0, false, false, false, .any, 0, (natLe 4 9437184)⟩,
  ⟨0x4000, 0x4000, 0x06, 0x06, 2, 0, false, false, false, .any, 0, (natLe 1 18)⟩,
  ⟨0x4000, 0x4000, 0x07, 0x07, 3, 0, false, false, false, .any, 0, (natLe 2 1024)⟩,
  ⟨0x4008, 0x4008, 0x01, 0x08, 5, 1, false, false, false, .any, 0, (zeros 8)⟩,
  ⟨0x4008, 0x4008, 0x09, 0x10, 5, 1, false, false, false, .any, 0, (zeros 8)⟩,
  ⟨0x4008, 0x4008, 0x11, 0x18, 5, 1, false, false, false, .any, 0, (zeros 8)⟩,
  ⟨0x4008, 0x4008, 0x19, 0x20, 5, 1, false, false, false, .any, 0, (zeros 8)⟩,
  ⟨0x4010, 0x4010, 0x01, 0x10, 5, 1, false, false, false, .any, 0, (zeros 8)⟩,
  ⟨0x4010, 0x4010, 0x11, 0x20, 5, 1, false, false, false, .any, 0, (zeros 8)⟩,
  ⟨0x4100, 0x4100, 0x01, 0x01, 2, 0, false, false, false, .any, 0, (natLe 1 32)⟩,
  ⟨0x4100, 0x4100, 0x02, 0x02, 5, 0, false, false, false, .any, 0, (natLe 8 68719476736)⟩,
  ⟨0x4100, 0x4100, 0x03, 0x0A, 1, 1, false, false, false, .any, 0, (zeros 1)⟩,
  ⟨0x4110, 0x4110, 0x01, 0x08, 5, 1, false, false, false, .any, 0, (zeros 8)⟩,
  ⟨0x4110, 0x4110, 0x09, 0x10, 5, 1, false, false, false, .any, 0, (zeros 8)⟩,
  ⟨0x4110, 0x4110, 0x11, 0x18, 5, 1, false, false, false, .any, 0, (zeros 8)⟩,
  ⟨0x4110, 0x4110, 0x19, 0x20, 5, 1, false, false, false, .any, 0, (zeros 8)⟩,
  ⟨0x4120, 0x4120, 0x01, 0x01, 4, 2, true, true, false, (.rng 1600 16000000), 0, (natLe 4 128000)⟩,
  ⟨0x4120, 0x4120, 0x02, 0x09, 5, 1, false, false, false, .any, 0, (zeros 8)⟩,
  ⟨0x4120, 0x4120, 0x0A, 0x11, 5, 1, false, false, false, .any, 0, (zeros 8)⟩,
  ⟨0x4200, 0x4200, 0x01, 0x08, 5, 1, false, false, false, .any, 0, (zeros 8)⟩,
  ⟨0x4200, 0x4200, 0x09, 0x10, 5, 1, false, false, false, .any, 0, (zeros 8)⟩,
  ⟨0x4200, 0x4200, 0x11, 0x18, 5, 1, false, false, false, .any, 0, (zeros 8)⟩,
  ⟨0x4200, 0x4200, 0x19, 0x20, 5, 1, false, false, false, .any, 0, (zeros 8)⟩,
  ⟨0x4201, 0x4201, 0x01, 0x10, 5, 1, false, false, false, .any, 0, (zeros 8)⟩,
  ⟨0x4202, 0x4202, 0x01, 0x01, 3, 0, false, false, false, .any, 0, (natLe 2 4096)⟩,
  ⟨0x4202, 0x4202, 0x02, 0x02, 3, 0, false, false, false, .any, 0, (natLe 2 16384)⟩,
  ⟨0x4202, 0x4202, 0x03, 0x03, 3, 0, false, false, false, .any, 0, (natLe 2 2048)⟩,
  ⟨0x4210, 0x4210, 0x01, 0x01, 7, 2, true, true, false, (.flt 0x3F800000), 0, (natLe 4 0x358637BD)⟩,
  ⟨0x4210, 0x4210, 0x02, 0x02, 2, 0, false, false, false, .any, 0, (natLe 1 10)⟩,
  ⟨0x4210, 0x4210, 0x03, 0x03, 2, 0, false, false, false, .any, 0, (natLe 1 30)⟩,
  ⟨0x4210, 0x4210, 0x04, 0x04, 5, 1, false, false, false, .any, 0, (zeros 8)⟩,
  ⟨0x4300, 0x4300, 0x01, 0x01, 5, 2, false, true, false, .any, 0, (natLe 8 18446744073709420544)⟩,
  ⟨0x4300, 0x4300, 0x02, 0x02, 2, 2, false, true, false, (.rng 1 64), 0, (natLe 1 64)⟩,
  ⟨0x4300, 0x4300, 0x03, 0x03, 4, 2, false, true, false, (.rng 1800 1800000000), 0, (natLe 4 36000)⟩,
  ⟨0x4301, 0x4301, 0x01, 0x01, 4, 0, false, false, false, .any, 0, (natLe 4 4194304)⟩,
  ⟨0x4301, 0x4301, 0x02, 0x02, 2, 0, false, false, false, .any, 0, (natLe 1 16)⟩]

def objRows4b : List ObjRow := [
  ⟨0x4310, 0x4310, 0x01, 0x10, 10, 1, false, false, false, .any, 0, []⟩,
  ⟨0x4311, 0x4311, 0x01, 0x10, 5, 1, false, false, false, .any, 0, (zeros 8)⟩,
  ⟨0x4311, 0x4311, 0x11, 0x20, 5, 1, false, false, false, .any, 0, (zeros 8)⟩,
  ⟨0x4311, 0x4311, 0x21, 0x30, 5, 1, false, false, false, .any, 0, (zeros 8)⟩,
  ⟨0x4320, 0x4320, 0x01, 0x01, 5, 1, false, false, false, .any, 0, (zeros 8)⟩]

def objRows5 : List ObjRow := [
  ⟨0x5000, 0x5000, 0x01, 0x01, 2, 4, false, true, false, (.lst [4, 8, 16]), 0, (natLe 1 8)⟩,
  ⟨0x5000, 0x5000, 0x02, 0x02, 2, 4, true, true, false, (.rng 0 3), 0, (zeros 1)⟩,
  ⟨0x5000, 0x5000, 0xFE, 0xFE, 2, 3, false, false, false, .any, 0, (zeros 1)⟩,
  ⟨0x5000, 0x5000, 0xFF, 0xFF, 4, 1, false, false, false, .any, 0, (natLe 4 65280)⟩,
  ⟨0x5010, 0x5010, 0x01, 0x01, 5, 1, false, false, false, .any, 0, (zeros 8)⟩,
  ⟨0x5010, 0x5010, 0x02, 0x02, 5, 1, false, false, false, .any, 0, (zeros 8)⟩,
  ⟨0x5010, 0x5010, 0x03, 0x03, 5, 1, false, false, false, .any, 0, (zeros 8)⟩,
  ⟨0x5100, 0x5100, 0x01, 0x01, 2, 0, false, false, false, .any, 0, (natLe 1 64)⟩,
  ⟨0x5100, 0x5100, 0x02, 0x02, 4, 0, false, false, false, .any, 0, (natLe 4 262144)⟩,
  ⟨0x5100, 0x5100, 0x03, 0x03, 3, 0, false, false, false, .any, 0, (natLe 2 1024)⟩,
  ⟨0x5100, 0x5100, 0x04, 0x04, 2, 0, false, false, false, .any, 0, (natLe 1 24)⟩,
  ⟨0x5100, 0x5100, 0x05, 0x05, 3, 0, false, false, false, .any, 0, (natLe 2 132)⟩,
  ⟨0x5100, 0x5100, 0x06, 0x06, 3, 0, false, false, false, .any, 0, (natLe 2 69)⟩,
  ⟨0x5110, 0x5110, 0x01, 0x01, 5, 1, false, false, false, .any, 0, (zeros 8)⟩,
  ⟨0x5110, 0x5110, 0x02, 0x02, 5, 1, false, false, false, .any, 0, (zeros 8)⟩,
  ⟨0x5110, 0x5110, 0x03, 0x03, 5, 1, false, false, false, .any, 0, (zeros 8)⟩,
  ⟨0x5110, 0x5110, 0x04, 0x04, 5, 1, false, false, false, .any, 0, (zeros 8)⟩,
  ⟨0x5110, 0x5110, 0x05, 0x05, 5, 1, false, false, false, .any, 0, (zeros 8)⟩,
  ⟨0x5110, 0x5110, 0x06, 0x06, 5, 1, false, false, false, .any, 0, (zeros 8)⟩,
  ⟨0x5110, 0x5110, 0x07, 0x07, 5, 1, false, false, false, .any, 0, (zeros 8)⟩,
  ⟨0x5120, 0x5120, 0x01, 0x01, 2, 2, true, true, false, (.rng 4 8), 0, (natLe 1 6)⟩,
  ⟨0x5200, 0x5200, 0x01, 0x10, 10, 1, false, false, false, .any, 0, []⟩,
  ⟨0x5201, 0x5201, 0x01, 0x10, 5, 3, false, false, false, .any, 0, (zeros 8)⟩,
  ⟨0x5210, 0x5210, 0x01, 0x10, 10, 2, false, false, false, .any, 3072, (zeros 3072)⟩]

def objRows6a : List ObjRow := [
  ⟨0x6000, 0x6000, 0x01, 0x10, 10, 1, false, false, false, .any, 0, []⟩,
  ⟨0x6001, 0x6001, 0x01, 0x01, 2, 0, false, false, false, .any, 0, (natLe 1 16)⟩,
  ⟨0x6001, 0x6001, 0x02, 0x02, 3, 0, false, false, false, .any, 0, (natLe 2 2048)⟩,
  ⟨0x6001, 0x6001, 0x03, 0x03, 3, 0, false, false, false, .any, 0, (natLe 2 1024)⟩,
  ⟨0x6001, 0x6001, 0x04, 0x04, 2, 0, false, false, false, .any, 0, (natLe 1 8)⟩,
  ⟨0x6001, 0x6001, 0x05, 0x05, 4, 0, false, false, false, .any, 0, (natLe 4 18000000)⟩,
  ⟨0x6010, 0x6010, 0x01, 0x01, 3, 4, false, true, false, .any, 0, (natLe 2 72)⟩,
  ⟨0x6010, 0x6010, 0x02, 0x0C, 3, 4, false, true, false, .any, 0, (natLe 2 36)⟩,
  ⟨0x6010, 0x6010, 0x0D, 0x0D, 3, 4, false, true, false, (.rng 0 2048), 0, (natLe 2 1580)⟩,
  ⟨0x6010, 0x6010, 0xFE, 0xFE, 2, 3, false, false, false, .any, 0, (zeros 1)⟩,
  ⟨0x6010, 0x6010, 0xFF, 0xFF, 4, 1, false, false, false, .any, 0, (natLe 4 65280)⟩,
  ⟨0x6012, 0x6012, 0x01, 0x01, 3, 1, false, true, false, .any, 0, (zeros 2)⟩,
  ⟨0x6020, 0x6020, 0x01, 0x10, 1, 3, false, false, false, .any, 0, (zeros 1)⟩,
  ⟨0x6021, 0x6021, 0x01, 0x01, 3, 2, false, false, false, .any, 0, (natLe 2 65535)⟩,
  ⟨0x6030, 0x6030, 0x01, 0x02, 2, 2, false, true, false, (.rng 1 64), 0, (natLe 1 4)⟩,
  ⟨0x6030, 0x6030, 0x03, 0x03, 2, 2, false, true, false, (.rng 1 64), 0, (natLe 1 2)⟩,
  ⟨0x6030, 0x6030, 0x04, 0x0B, 2, 2, false, true, false, (.rng 1 64), 0, (natLe 1 4)⟩,
  ⟨0x6030, 0x6030, 0x0C, 0x0C, 2, 2, false, true, false, (.rng 1 64), 0, (natLe 1 1)⟩,
  ⟨0x6031, 0x6031, 0x01, 0x01, 3, 2, true, true, false, (.rng 10 200), 0, (natLe 2 50)⟩,
  ⟨0x6031, 0x6031, 0x02, 0x02, 3, 2, true, true, false, (.rng 16 1024), 0, (natLe 2 64)⟩,
  ⟨0x6040, 0x6040, 0x01, 0x10, 10, 1, false, false, false, .any, 0, []⟩,
  ⟨0x6041, 0x6041, 0x01, 0x01, 7, 2, false, true, false, (.flt 0x3A83126F), 0, (natLe 4 0x3727C5AC)⟩,
  ⟨0x6100, 0x6100, 0x01, 0x10, 10, 4, false, true, false, .any, 32, (zeros 32)⟩,
  ⟨0x6100, 0x6100, 0x11, 0x11, 4, 4, false, true, false, .any, 0, (zeros 4)⟩,
  ⟨0x6100, 0x6100, 0xFE, 0xFE, 2, 3, false, false, false, .any, 0, (zeros 1)⟩,
  ⟨0x6100, 0x6100, 0xFF, 0xFF, 4, 1, false, false, false, .any, 0, (natLe 4 65280)⟩,
  ⟨0x6110, 0x6110, 0x01, 0x01, 2, 4, false, true, false, (.rng 0 3), 0, (zeros 1)⟩,
  ⟨0x6110, 0x6110, 0x02, 0x02, 2, 4, false, true, false, (.rng 0 63), 0, (zeros 1)⟩,
  ⟨0x6110, 0x6110, 0x03, 0x03, 2, 4, false, true, false, (.rng 0 63), 0, (zeros 1)⟩,
  ⟨0x6110, 0x6110, 0x04, 0x04, 2, 4, false, true, false, (.rng 0 31), 0, (zeros 1)⟩,
  ⟨0x6110, 0x6110, 0x05, 0x05, 1, 4, false, true, false, .any, 0, (zeros 1)⟩,
  ⟨0x6110, 0x6110, 0xFE, 0xFE, 2, 3, false, false, false, .any, 0, (zeros 1)⟩,
  ⟨0x6110, 0x6110, 0xFF, 0xFF, 4, 1, false, false, false, .any, 0, (natLe 4 65280)⟩,
  ⟨0x6111, 0x6111, 0x01, 0x01, 4, 1, false, false, false, .any, 0, (zeros 4)⟩,
  ⟨0x6200, 0x6200, 0x01, 0x10, 10, 1, false, false, false, .any, 0, []⟩,
  ⟨0x6201, 0x6201, 0x01, 0x01, 4, 0, false, false, false, .any, 0, (natLe 4 400000000)⟩,
  ⟨0x6202, 0x6202, 0x01, 0x01, 5, 1, false, false, false, .any, 0, (zeros 8)⟩,
  ⟨0x6202, 0x6202, 0x02, 0x02, 5, 1, false, false, false, .any, 0, (zeros 8)⟩,
  ⟨0x6202, 0x6202, 0x03, 0x03, 5, 1, false, false, false, .any, 0, (zeros 8)⟩,
  ⟨0x6300, 0x6300, 0x01, 0x01, 10, 4, false, false, false, .any, 64, (zeros 64)⟩]

def objRows6b : List ObjRow := [
  ⟨0x6300, 0x6300, 0x02, 0x02, 10, 4, false, false, false, .any, 64, (zeros 64)⟩,
  ⟨0x6300, 0x6300, 0x03, 0x03, 10, 4, false, false, false, .any, 32, (zeros 32)⟩,
  ⟨0x6300, 0x6300, 0x04, 0x04, 10, 4, false, false, false, .any, 12, (zeros 12)⟩,
  ⟨0x6300, 0x6300, 0x05, 0x05, 3, 4, false, false, false, .any, 0, (zeros 2)⟩,
  ⟨0x6300, 0x6300, 0x06, 0x06, 3, 4, false, false, false, .any, 0, (zeros 2)⟩,
  ⟨0x6300, 0x6300, 0x07, 0x07, 10, 4, false, false, false, .any, 0, []⟩,
  ⟨0x6300, 0x6300, 0xFE, 0xFE, 2, 3, false, false, false, .any, 0, (zeros 1)⟩,
  ⟨0x6300, 0x6300, 0xFF, 0xFF, 4, 1, false, false, false, .any, 0, (natLe 4 65280)⟩,
  ⟨0x6301, 0x6301, 0x01, 0x01, 4, 1, false, false, false, .any, 0, (zeros 4)⟩,
  ⟨0x6301, 0x6301, 0x02, 0x02, 5, 1, false, false, false, .any, 0, (zeros 8)⟩,
  ⟨0x6400, 0x6400, 0x01, 0x01, 2, 2, false, true, false, (.lst [0, 2, 4, 6]), 0, (zeros 1)⟩,
  ⟨0x6400, 0x6400, 0x02, 0x02, 2, 2, false, true, false, (.rng 0 2), 0, (zeros 1)⟩,
  ⟨0x6400, 0x6400, 0x03, 0x03, 2, 2, false, true, false, (.rng 0 1), 0, (zeros 1)⟩,
  ⟨0x6400, 0x6400, 0x04, 0x04, 4, 2, false, true, false, (.rng 4000000 4000000000), 0, (natLe 4 40000000)⟩,
  ⟨0x6400, 0x6400, 0x05, 0x05, 2, 2, false, true, false, (.rng 1 16), 0, (natLe 1 3)⟩,
  ⟨0x6400, 0x6400, 0x06, 0x06, 10, 2, false, true, false, .any, 0, []⟩,
  ⟨0x6400, 0x6400, 0x07, 0x07, 4, 2, false, true, false, .any, 0, (natLe 4 400000000)⟩,
  ⟨0x6400, 0x6400, 0x08, 0x08, 2, 2, false, true, false, (.rng 0 2), 0, (zeros 1)⟩,
  ⟨0x6401, 0x6401, 0x01, 0x01, 10, 1, false, false, false, .any, 0, []⟩,
  ⟨0x6401, 0x6401, 0x02, 0x02, 5, 1, false, false, false, .any, 0, (zeros 8)⟩,
  ⟨0x6410, 0x6410, 0x01, 0x01, 10, 1, false, false, false, .any, 0, []⟩,
  ⟨0x6411, 0x6411, 0x01, 0x01, 10, 3, false, false, false, .any, 8, []⟩,
  ⟨0x6500, 0x6500, 0x01, 0x01, 10, 1, false, false, false, .any, 0, []⟩,
  ⟨0x6501, 0x6501, 0x01, 0x01, 10, 3, false, false, false, .any, 34, []⟩,
  ⟨0x6502, 0x6502, 0x01, 0x10, 10, 2, false, false, false, .any, 16, (zeros 16)⟩,
  ⟨0x6503, 0x6503, 0x01, 0x01, 3, 0, false, false, false, .any, 0, (natLe 2 4096)⟩,
  ⟨0x6503, 0x6503, 0x02, 0x02, 4, 0, false, false, false, .any, 0, (natLe 4 67110912)⟩,
  ⟨0x6504, 0x6504, 0x01, 0x01, 5, 2, false, true, false, (.rng 1800000 180000000000), 0, (natLe 8 1800000000)⟩,
  ⟨0x6504, 0x6504, 0x02, 0x02, 4, 2, true, true, false, (.rng 1800 180000000), 0, (natLe 4 18000)⟩,
  ⟨0x6504, 0x6504, 0x03, 0x03, 2, 0, false, false, false, .any, 0, (natLe 1 64)⟩,
  ⟨0x6505, 0x6505, 0x01, 0x01, 1, 2, false, true, false, .any, 0, (natLe 1 1)⟩,
  ⟨0x6510, 0x6510, 0x01, 0x10, 10, 1, false, false, false, .any, 0, []⟩,
  ⟨0x6511, 0x6511, 0x01, 0x01, 5, 1, false, false, false, .any, 0, (zeros 8)⟩,
  ⟨0x6511, 0x6511, 0x02, 0x02, 5, 1, false, false, false, .any, 0, (zeros 8)⟩,
  ⟨0x6511, 0x6511, 0x03, 0x03, 5, 1, false, false, false, .any, 0, (zeros 8)⟩,
  ⟨0x6600, 0x6600, 0x01, 0x01, 10, 1, false, false, false, .any, 0, []⟩,
  ⟨0x6601, 0x6601, 0x01, 0x01, 10, 3, false, false, false, .any, 6, []⟩]

def objRows7a : List ObjRow := [
  ⟨0x7000, 0x7000, 0x01, 0x08, 10, 4, false, false, false, .any, 64, (zeros 64)⟩,
  ⟨0x7000, 0x7000, 0x09, 0x10, 10, 4, true, false, false, .any, 32, (zeros 32)⟩,
  ⟨0x7000, 0x7000, 0xFE, 0xFE, 2, 3, false, false, false, .any, 0, (zeros 1)⟩,
  ⟨0x7000, 0x7000, 0xFF, 0xFF, 4, 1, false, false, false, .any, 0, (natLe 4 65280)⟩,
  ⟨0x7001, 0x7001, 0x01, 0x08, 10, 1, false, false, false, .any, 0, []⟩,
  ⟨0x7002, 0x7002, 0x01, 0x01, 4, 0, false, false, false, .any, 0, (natLe 4 33554432)⟩,
  ⟨0x7002, 0x7002, 0x02, 0x02, 4, 0, false, false, false, .any, 0, (natLe 4 29360128)⟩,
  ⟨0x7010, 0x7010, 0x01, 0x01, 5, 1, false, false, false, .any, 0, (zeros 8)⟩,
  ⟨0x7010, 0x7010, 0x02, 0x02, 5, 1, false, false, false, .any, 0, (zeros 8)⟩,
  ⟨0x7010, 0x7010, 0x03, 0x03, 5, 1, false, false, false, .any, 0, (zeros 8)⟩,
  ⟨0x7010, 0x7010, 0x04, 0x04, 5, 1, false, false, false, .any, 0, (zeros 8)⟩,
  ⟨0x7010, 0x7010, 0x05, 0x05, 5, 1, false, false, false, .any, 0, (zeros 8)⟩,
  ⟨0x7010, 0x7010, 0x06, 0x06, 5, 1, false, false, false, .any, 0, (zeros 8)⟩,
  ⟨0x7010, 0x7010, 0x07, 0x07, 5, 1, false, false, false, .any, 0, (zeros 8)⟩,
  ⟨0x7010, 0x7010, 0x08, 0x08, 5, 1, false, false, false, .any, 0, (zeros 8)⟩,
  ⟨0x7010, 0x7010, 0x09, 0x09, 5, 1, false, false, false, .any, 0, (zeros 8)⟩,
  ⟨0x7020, 0x7020, 0x01, 0x01, 5, 2, false, true, false, (.rng 1800000 1800000000000), 0, (natLe 8 18000000000)⟩,
  ⟨0x7100, 0x7100, 0x01, 0x01, 7, 4, true, true, false, .any, 0, (natLe 4 0x3F666666)⟩,
  ⟨0x7100, 0x7100, 0x02, 0x02, 7, 4, true, true, false, .any, 0, (natLe 4 0x3F7FBE77)⟩,
  ⟨0x7100, 0x7100, 0x03, 0x03, 7, 4, true, true, false, .any, 0, (natLe 4 0x322BCC77)⟩,
  ⟨0x7100, 0x7100, 0x04, 0x04, 7, 4, true, true, false, .any, 0, (natLe 4 0x3F666666)⟩,
  ⟨0x7100, 0x7100, 0x05, 0x05, 7, 4, true, true, false, .any, 0, (natLe 4 0x0DA24260)⟩,
  ⟨0x7100, 0x7100, 0x06, 0x06, 7, 4, true, true, false, .any, 0, (natLe 4 0x3F7FBE77)⟩,
  ⟨0x7100, 0x7100, 0xFE, 0xFE, 2, 3, true, false, false, .any, 0, (zeros 1)⟩,
  ⟨0x7100, 0x7100, 0xFF, 0xFF, 4, 1, false, false, false, .any, 0, (natLe 4 65280)⟩,
  ⟨0x7110, 0x7110, 0x01, 0x01, 4, 2, false, true, false, (.rng 1 1000000), 0, (natLe 4 100)⟩,
  ⟨0x7400, 0x7400, 0x01, 0x08, 5, 1, false, false, false, .any, 0, (zeros 8)⟩,
  ⟨0x7401, 0x7401, 0x01, 0x08, 10, 1, false, false, false, .any, 0, []⟩,
  ⟨0x7402, 0x7402, 0x01, 0x08, 10, 3, false, false, false, .any, 16, []⟩,
  ⟨0x7403, 0x7403, 0x01, 0x08, 5, 3, false, false, false, .any, 0, (zeros 8)⟩,
  ⟨0x7410, 0x7410, 0x01, 0x01, 5, 2, false, true, false, (.rng 4000000 40000000000), 0, (natLe 8 400000000)⟩,
  ⟨0x7410, 0x7410, 0x02, 0x02, 5, 2, false, true, false, (.rng 4000000 400000000000), 0, (natLe 8 4000000000)⟩,
  ⟨0x7411, 0x7411, 0x01, 0x08, 10, 1, false, false, false, .any, 0, []⟩,
  ⟨0x7412, 0x7412, 0x01, 0x01, 4, 2, false, true, false, .any, 0, (zeros 4)⟩,
  ⟨0x7420, 0x7420, 0x01, 0x01, 5, 1, false, false, false, .any, 0, (zeros 8)⟩,
  ⟨0x7420, 0x7420, 0x02, 0x02, 5, 1, false, false, false, .any, 0, (zeros 8)⟩,
  ⟨0x7420, 0x7420, 0x03, 0x03, 5, 1, false, false, false, .any, 0, (zeros 8)⟩,
  ⟨0x7420, 0x7420, 0x04, 0x04, 5, 1, false, false, false, .any, 0, (zeros 8)⟩,
  ⟨0x7420, 0x7420, 0x05, 0x05, 5, 1, false, false, false, .any, 0, (zeros 8)⟩,
  ⟨0x7420, 0x7420, 0x06, 0x06, 5, 1, false, false, false, .any, 0, (zeros 8)⟩]

def objRows7b : List ObjRow := [
  ⟨0x7420, 0x7420, 0x07, 0x07, 5, 1, false, false, false, .any, 0, (zeros 8)⟩]

def objRows8 : List ObjRow := [
  ⟨0x8000, 0x8000, 0x01, 0x10, 10, 4, false, false, false, .any, 64, (zeros 64)⟩,
  ⟨0x8000, 0x8000, 0x11, 0x20, 10, 4, false, false, false, .any, 8192, (zeros 8192)⟩,
  ⟨0x8000, 0x8000, 0xFE, 0xFE, 2, 3, false, false, false, .any, 0, (zeros 1)⟩,
  ⟨0x8000, 0x8000, 0xFF, 0xFF, 4, 1, false, false, false, .any, 0, (natLe 4 65280)⟩,
  ⟨0x8001, 0x8001, 0x01, 0x10, 10, 1, false, false, false, .any, 0, []⟩,
  ⟨0x8010, 0x8010, 0x01, 0x10, 10, 4, false, false, false, .any, 16, [1, 1, 32, 0, 1, 1, 1, 1, 1, 1, 1, 1, 1, 1, 1, 1]⟩,
  ⟨0x8010, 0x8010, 0xFE, 0xFE, 2, 3, false, false, false, .any, 0, (zeros 1)⟩,
  ⟨0x8010, 0x8010, 0xFF, 0xFF, 4, 1, false, false, false, .any, 0, (natLe 4 65280)⟩,
  ⟨0x8011, 0x8011, 0x01, 0x10, 5, 1, false, false, false, .any, 0, (zeros 8)⟩,
  ⟨0x8011, 0x8011, 0x11, 0x20, 5, 1, false, false, false, .any, 0, (zeros 8)⟩,
  ⟨0x8020, 0x8020, 0x01, 0x01, 1, 3, false, false, false, .any, 0, (zeros 1)⟩,
  ⟨0x8021, 0x8021, 0x01, 0x10, 1, 3, false, false, false, .any, 0, (zeros 1)⟩]

def objRows9 : List ObjRow := [
  ⟨0x9000, 0x9000, 0x01, 0x02, 5, 0, false, false, false, .any, 0, (zeros 8)⟩,
  ⟨0x9001, 0x9001, 0x01, 0x01, 4, 4, false, true, false, .any, 0, (zeros 4)⟩,
  ⟨0x9001, 0x9001, 0x02, 0x02, 2, 4, false, true, false, .any, 0, (natLe 1 24)⟩,
  ⟨0x9001, 0x9001, 0x03, 0x03, 10, 4, false, true, false, .any, 16, (zeros 16)⟩,
  ⟨0x9001, 0x9001, 0x04, 0x04, 2, 4, false, true, false, .any, 0, (natLe 1 64)⟩,
  ⟨0x9001, 0x9001, 0x05, 0x05, 3, 4, false, true, false, .any, 0, (zeros 2)⟩,
  ⟨0x9001, 0x9001, 0x06, 0x06, 4, 4, false, true, false, .any, 0, (zeros 4)⟩,
  ⟨0x9001, 0x9001, 0x07, 0x07, 2, 4, false, true, false, .any, 0, (natLe 1 24)⟩,
  ⟨0x9001, 0x9001, 0x08, 0x08, 10, 4, false, true, false, .any, 16, (zeros 16)⟩,
  ⟨0x9001, 0x9001, 0x09, 0x09, 2, 4, false, true, false, .any, 0, (natLe 1 64)⟩,
  ⟨0x9001, 0x9001, 0x0A, 0x0A, 3, 4, false, true, false, .any, 0, (zeros 2)⟩,
  ⟨0x9001, 0x9001, 0xFE, 0xFE, 2, 3, false, false, false, .any, 0, (zeros 1)⟩,
  ⟨0x9001, 0x9001, 0xFF, 0xFF, 4, 1, false, false, false, .any, 0, (natLe 4 65280)⟩,
  ⟨0x9002, 0x9002, 0x01, 0x01, 2, 2, false, true, false, .any, 0, (natLe 1 24)⟩,
  ⟨0x9003, 0x9003, 0x01, 0x01, 7, 2, true, true, false, (.flt 0x3F400000), 0, (natLe 4 0x3E800000)⟩,
  ⟨0x9003, 0x9003, 0x02, 0x02, 4, 2, true, true, false, (.rng 2700 270000000), 0, (natLe 4 148500)⟩,
  ⟨0x9003, 0x9003, 0x03, 0x03, 4, 2, true, true, false, (.rng 1 800), 0, (natLe 4 5)⟩,
  ⟨0x9003, 0x9003, 0x04, 0x04, 4, 2, true, true, false, (.rng 1 800), 0, (natLe 4 1)⟩,
  ⟨0x9003, 0x9003, 0x05, 0x05, 4, 2, true, true, false, (.rng 2700 27000000), 0, (natLe 4 135000)⟩,
  ⟨0x9010, 0x9010, 0x01, 0x02, 10, 1, false, false, false, .any, 0, []⟩,
  ⟨0x9011, 0x9011, 0x01, 0x02, 10, 1, false, false, false, .any, 0, []⟩,
  ⟨0x9100, 0x9100, 0x01, 0x40, 10, 4, false, false, false, .any, 64, (zeros 64)⟩,
  ⟨0x9100, 0x9100, 0xFE, 0xFE, 2, 3, false, false, false, .any, 0, (zeros 1)⟩,
  ⟨0x9100, 0x9100, 0xFF, 0xFF, 4, 1, false, false, false, .any, 0, (natLe 4 65280)⟩,
  ⟨0x9101, 0x9101, 0x01, 0x40, 10, 1, false, false, false, .any, 0, []⟩,
  ⟨0x9200, 0x92FF, 0x01, 0x10, 10, 2, false, false, false, .any, 64, (zeros 64)⟩,
  ⟨0x9300, 0x9300, 0x01, 0x10, 10, 1, false, false, false, .any, 0, []⟩]

def objRowsA : List ObjRow := [
  ⟨0xA000, 0xA000, 0x01, 0x01, 10, 1, false, false, false, .any, 0, []⟩,
  ⟨0xA000, 0xA000, 0x02, 0x02, 5, 1, false, false, false, .any, 0, (zeros 8)⟩,
  ⟨0xA000, 0xA000, 0x03, 0x03, 5, 1, false, false, false, .any, 0, (zeros 8)⟩,
  ⟨0xA010, 0xA010, 0x01, 0x1D, 5, 1, false, false, false, .any, 0, (zeros 8)⟩,
  ⟨0xA011, 0xA011, 0x01, 0x1D, 5, 1, false, false, false, .any, 0, (zeros 8)⟩,
  ⟨0xA100, 0xA100, 0x01, 0x01, 2, 2, false, true, false, (.rng 1 16), 0, (natLe 1 1)⟩,
  ⟨0xA101, 0xA101, 0x01, 0x01, 10, 1, false, false, false, .any, 0, []⟩,
  ⟨0xA102, 0xA102, 0x01, 0x01, 10, 1, false, false, false, .any, 0, []⟩,
  ⟨0xA200, 0xA200, 0x01, 0x01, 2, 3, false, false, true, (.rng 0 143), 0, (zeros 1)⟩,
  ⟨0xA210, 0xA210, 0x01, 0x01, 10, 3, false, false, true, .any, 8, []⟩,
  ⟨0xA211, 0xA211, 0x01, 0x01, 10, 1, false, false, false, .any, 0, []⟩,
  ⟨0xA400, 0xA400, 0x01, 0x01, 10, 4, false, true, true, .any, 64, stockPlan⟩,
  ⟨0xA400, 0xA400, 0xFE, 0xFE, 2, 3, false, false, true, .any, 0, (zeros 1)⟩,
  ⟨0xA400, 0xA400, 0xFF, 0xFF, 4, 1, false, false, false, .any, 0, (natLe 4 65280)⟩,
  ⟨0xA401, 0xA401, 0x01, 0x01, 10, 1, false, false, false, .any, 0, []⟩,
  ⟨0xA401, 0xA401, 0x02, 0x02, 10, 1, false, false, false, .any, 0, []⟩,
  ⟨0xA401, 0xA401, 0x03, 0x03, 4, 1, false, false, false, .any, 0, (zeros 4)⟩]

def objRowsB : List ObjRow := [
  ⟨0xB000, 0xB000, 0x01, 0x01, 10, 3, false, false, false, .any, 32, []⟩,
  ⟨0xB000, 0xB000, 0x02, 0x02, 10, 1, false, false, false, .any, 0, []⟩,
  ⟨0xB010, 0xB010, 0x01, 0x01, 10, 1, false, false, false, .any, 0, []⟩,
  ⟨0xB010, 0xB010, 0x02, 0x02, 10, 0, false, false, false, .any, 0, []⟩,
  ⟨0xB020, 0xB020, 0x01, 0x01, 2, 1, false, true, false, .any, 0, (zeros 1)⟩,
  ⟨0xB021, 0xB021, 0x01, 0x01, 10, 3, false, false, false, .any, 0, []⟩,
  ⟨0xB022, 0xB022, 0x01, 0x01, 4, 2, false, true, false, .any, 0, (zeros 4)⟩,
  ⟨0xB022, 0xB022, 0x02, 0x02, 4, 1, false, false, false, .any, 0, (zeros 4)⟩,
  ⟨0xB023, 0xB023, 0x01, 0x01, 2, 3, false, false, false, (.rng 0 1), 0, (zeros 1)⟩,
  ⟨0xB024, 0xB024, 0x01, 0x02, 10, 1, false, false, false, .any, 0, []⟩,
  ⟨0xB030, 0xB030, 0x01, 0x01, 10, 1, false, false, false, .any, 0, []⟩,
  ⟨0xB030, 0xB030, 0x02, 0x02, 10, 1, false, false, false, .any, 0, []⟩,
  ⟨0xB040, 0xB040, 0x01, 0x01, 10, 3, false, false, false, .any, 0, []⟩,
  ⟨0xB040, 0xB040, 0x02, 0x02, 10, 1, false, false, false, .any, 0, []⟩,
  ⟨0xB041, 0xB041, 0x01, 0x01, 4, 1, false, true, false, .any, 0, (zeros 4)⟩,
  ⟨0xB050, 0xB050, 0x01, 0x01, 10, 1, false, false, false, .any, 0, []⟩,
  ⟨0xB050, 0xB050, 0x02, 0x02, 10, 3, false, false, false, .any, 0, []⟩,
  ⟨0xB051, 0xB051, 0x01, 0x01, 2, 1, false, false, false, .any, 0, (zeros 1)⟩,
  ⟨0xB051, 0xB051, 0x02, 0x02, 4, 1, false, true, false, .any, 0, (zeros 4)⟩,
  ⟨0xB052, 0xB052, 0x01, 0x01, 10, 0, false, false, false, .any, 0, []⟩]

def objRowsF : List ObjRow := [
  ⟨0xF000, 0xF000, 0x01, 0x01, 2, 1, false, false, false, .any, 0, (zeros 1)⟩,
  ⟨0xF000, 0xF000, 0x02, 0x02, 2, 1, false, false, false, .any, 0, (zeros 1)⟩,
  ⟨0xF000, 0xF000, 0x03, 0x03, 2, 1, false, false, false, .any, 0, (zeros 1)⟩,
  ⟨0xF000, 0xF000, 0x04, 0x04, 10, 1, false, false, false, .any, 0, []⟩,
  ⟨0xF000, 0xF000, 0x05, 0x05, 5, 2, false, true, false, (.rng 400000000 240000000000), 0, (natLe 8 12000000000)⟩,
  ⟨0xF010, 0xF010, 0x01, 0x01, 1, 3, false, false, false, .any, 0, (zeros 1)⟩,
  ⟨0xF010, 0xF010, 0x02, 0x02, 3, 2, true, false, false, .any, 0, (zeros 2)⟩,
  ⟨0xF010, 0xF010, 0x03, 0x03, 4, 1, false, true, false, .any, 0, (zeros 4)⟩,
  ⟨0xF020, 0xF020, 0x01, 0x10, 10, 2, false, true, false, .any, 0, []⟩,
  ⟨0xF030, 0xF030, 0x01, 0x01, 1, 4, false, true, false, .any, 0, (natLe 1 1)⟩,
  ⟨0xF030, 0xF030, 0x02, 0x02, 1, 4, false, true, false, .any, 0, (natLe 1 1)⟩,
  ⟨0xF030, 0xF030, 0xFE, 0xFE, 2, 3, false, false, false, .any, 0, (zeros 1)⟩,
  ⟨0xF030, 0xF030, 0xFF, 0xFF, 4, 1, false, false, false, .any, 0, (natLe 4 65280)⟩,
  ⟨0xF040, 0xF040, 0x01, 0x01, 5, 1, false, false, false, .any, 0, (zeros 8)⟩,
  ⟨0xF040, 0xF040, 0x02, 0x02, 4, 1, false, true, false, .any, 0, (zeros 4)⟩,
  ⟨0xF040, 0xF040, 0x03, 0x03, 4, 1, false, false, false, .any, 0, (zeros 4)⟩,
  ⟨0xF040, 0xF040, 0x04, 0x04, 4, 1, false, true, false, .any, 0, (zeros 4)⟩,
  ⟨0xF040, 0xF040, 0x05, 0x05, 4, 1, false, true, false, .any, 0, (zeros 4)⟩]

/-- The object table. -/
def objTable : List ObjRow :=
  objRows1 ++ objRows2a ++ objRows2b ++ objRows3 ++ objRows4a ++ objRows4b ++ objRows5 ++ objRows6a ++ objRows6b ++ objRows7a ++ objRows7b ++ objRows8 ++ objRows9 ++ objRowsA ++ objRowsB ++ objRowsF

/-- The row of an index and sub-index. -/
def objRow (i sub : Nat) : Option ObjRow :=
  objTable.find? (fun r => decide (r.ilo ≤ i ∧ i ≤ r.ihi ∧ r.lo ≤ sub ∧ sub ≤ r.hi))

/-- Whether an index is defined. -/
def objDefined (i : Nat) : Bool := objTable.any (fun r => decide (r.ilo ≤ i ∧ i ≤ r.ihi))

/-- Sub-index 0x00: the highest sub-index in use below 0xFE (R123). -/
def objHighest (i : Nat) : Nat :=
  objTable.foldl (fun m r => if r.ilo ≤ i ∧ i ≤ r.ihi ∧ r.hi < 0xFE then max m r.hi else m) 0

/-- The default of an object. -/
def objDefault (i sub : Nat) : List Byte :=
  match objRow i sub with
  | some r => r.dflt
  | none => []

end Sys2Proof.Machine
end

