-- ==== Sys2Proof/Machine/StateCore.lean ====
section
/-! DEFINITION. The state of the cores: blocks, groups, collectors and results in flight, copies, the matrix array
(05_cores_thread_groups.md, 06_memory_model.md, 07_matrix_array.md). Plain data. -/

namespace Sys2Proof.Machine

/-- A path of a group: an address, a mask and a stop address; an entry of the reconvergence stack or a parked path
(R189, R194). -/
structure Path where
  addr : Nat
  mask : BitVec 32
  stop : Option Nat
deriving DecidableEq, Repr

/-- What a group waits for (R179, R246, R272). -/
inductive Wait where
  | none
  | join
  /-- per lane: lane, counter address, target -/
  | arr (conds : List (Nat × Nat × Nat))
  /-- the matrix operations awaited -/
  | mxa (ops : List Nat)
deriving DecidableEq, Repr

/-- A resident thread group. `regs` is keyed lane × 256 + register; `busy` holds registers (256 + p for predicate p) that
await a result; `preds` the masks of p0 to p6. -/
structure Group where
  gid : Gid
  block : Nat
  gidx : Nat
  pc : Nat
  mask : BitVec 32
  live : BitVec 32
  stop : Option Nat
  stack : List Path
  parked : List Path
  wait : Wait
  reported : Bool
  regs : NMap
  preds : List (BitVec 32)
  busy : List Nat
  lastIssue : Nat
  /-- the instruction a wait began at -/
  wpc : Nat
deriving DecidableEq, Repr

/-- The tag of an accumulator granule (R258): first granule, format (0 FP32, 1 compensated pair, 2 INT32), shape. -/
structure AccTag where
  granule : Nat
  first : Nat
  fmt : Nat
  m : Nat
  n : Nat
deriving DecidableEq, Repr

/-- The checksums of a tile (R276) and its accumulation flush count (R301). Values are FP32 codes, or 32-bit integers for
INT32 tiles. `corrupt` is the element, as row and column, whose total a PE
fault has changed (Table 18-1, unit 0x09). -/
structure TileSums where
  first : Nat
  rowS : List Nat
  rowG : List Nat
  colS : List Nat
  colG : List Nat
  flushes : Nat
  corrupt : Option (Nat × Nat)
deriving DecidableEq, Repr

/-- A resident block. `store` is its core store allocation, `acc` its accumulator words keyed granule × 256 + word. -/
structure Block where
  id : Nat
  /-- the `uid` of the LAUNCH command -/
  uid : Nat
  part : Nat
  ring : Nat
  cmd : Nat
  core : Nat
  bidx : Nat
  threads : Nat
  regsPer : Nat
  csBytes : Nat
  accN : Nat
  code : List DWord
  store : List Host.Cell
  acc : NMap
  tags : List AccTag
  sums : List TileSums
  barrier : Option Nat
deriving DecidableEq, Repr

/-- A launched grid (R176, R177): its LAUNCH command and the blocks not yet placed and not yet ended. -/
structure Grid where
  uid : Nat
  part : Nat
  ring : Nat
  cmd : Nat
  codeAddr : Nat
  codeBytes : Nat
  blocks : Nat
  threads : Nat
  regsPer : Nat
  csBytes : Nat
  accN : Nat
  argAddr : Nat
  nextBlock : Nat
  ended : Nat
  /-- the code image as copied into the instruction store of each core that received a block (R176) -/
  images : List (Nat × List DWord)
deriving DecidableEq, Repr

/-- An instruction in an operand collector (R185): source reads still to be granted, registers it will write, the
lanes it needs (0 FP32 lanes, 1 special-function lanes, 2 load, store and asynchronous unit, 3 none), and the values it will write:
by lane × 256 + register, and by 8,192 + predicate a predicate's mask. -/
structure Collector where
  gid : Gid
  reads : List Nat
  dests : List Nat
  unit : Nat
  vals : List (Nat × Nat)
deriving DecidableEq, Repr

/-- A result on its way to its bank (R188), in dispatch order, with the values it writes. -/
structure Result where
  gid : Gid
  dests : List Nat
  vals : List (Nat × Nat)
deriving DecidableEq, Repr

/-- An atomic on one location (R197): operation, type, destination register (none with no-return), and each lane with its operand and
compare value, in lane order. -/
structure AtomWork where
  op : Nat
  ty : Nat
  dest : Option Nat
  args : List (Nat × Nat × Nat)
deriving DecidableEq, Repr

/-- What a core store access does: a load into a register, a store, an atomic (R197). -/
inductive CsWork where
  | load (sext : Bool) (dest : Nat)
  | store (data : List Byte)
  | atom (w : AtomWork)
deriving DecidableEq, Repr

/-- A core store access of a thread, or an atomic of several, that has issued and has not yet taken effect (R229): `ordered` where a
fence has put it before later accesses of its group. -/
structure CsAcc where
  gid : Gid
  lanes : List Nat
  block : Nat
  addr : Nat
  size : Nat
  work : CsWork
  ordered : Bool
deriving DecidableEq, Repr

/-- A load waiting for its line (R23). -/
structure PLoad where
  gid : Gid
  lane : Nat
  seq : Nat
  stack : Nat
  addr : Nat
  size : Nat
  sext : Bool
  dest : Nat
  /-- where the instruction stood in the code image -/
  pc : Nat
deriving DecidableEq, Repr

/-- A store or atomic not yet accepted at its slice (R228). `vis` is the widest scope at which a fence has ordered it, or an atomic
acquires: 0 none, 1 group, 2 block, 3 device. An atomic's `data` has its size in bytes. -/
structure PStore where
  gid : Gid
  lanes : List Nat
  block : Nat
  part : Nat
  ring : Nat
  /-- the LAUNCH command's `uid` -/
  uid : Nat
  seq : Nat
  stack : Nat
  addr : Nat
  data : List Byte
  vis : Nat
  atom : Option AtomWork
  /-- where the instruction stood in the code image -/
  pc : Nat
deriving DecidableEq, Repr

/-- An asynchronous copy in flight (R239 to R245). `todo` lists the byte offsets moved only at completion. -/
structure Copy where
  id : Nat
  gid : Gid
  lane : Nat
  block : Nat
  part : Nat
  toShofel : Bool
  noAlloc : Bool
  cs : Nat
  ga : Nat
  len : Nat
  counter : Nat
  seq : Nat
  pc : Nat
  /-- the source bytes as they stood at issue -/
  snap : List Byte
  todo : List Nat
deriving DecidableEq, Repr

/-- An operation in a core's matrix queue (R266): the descriptor's 64 bytes, the core store when it issued (R271), the
chunk size and headroom defaults in force at its descriptor read, and of a drain under way the tensor scale it reads and the bytes it
writes (R270). -/
structure MxOp where
  id : Nat
  core : Nat
  block : Nat
  gid : Gid
  /-- where the instruction stood in the code image -/
  pc : Nat
  drain : Bool
  desc : List Byte
  snap : List Host.Cell
  chunk : Nat
  headroom : Nat
  out : Option (Nat × List (Nat × Byte))
deriving DecidableEq, Repr

/-- A context being killed (R204 to R207): event code, source and detail of the first fault. -/
structure Kill where
  part : Nat
  ring : Nat
  code : Nat
  source : Nat
  detail : List Byte
  silent : Bool
deriving DecidableEq, Repr

structure CoreState where
  blocks : List Block
  groups : List Group
  grids : List Grid
  collectors : List Collector
  results : List Result
  loads : List PLoad
  stores : List PStore
  csPend : List CsAcc
  copies : List Copy
  mq : List MxOp
  kills : List Kill
  /-- next identifier of a block, copy, matrix operation or memory access -/
  nextId : Nat
  /-- core cycles since READY (R9, Table 5-9 rdsr) -/
  cycles : Nat
  /-- 0x3010: logical cores marked failed since READY -/
  failed : List Nat
  /-- 0x3020: context kills, suppressed faults, faults of codes 0x0101 to 0x0108 -/
  nKills : Nat
  nSuppressed : Nat
  nFaults : List Nat
  /-- 0x3031 -/
  nWatchdog : Nat
  /-- 0x5110 sub 0x01 to 0x07 -/
  mxCounts : List Nat
  /-- 0x5010 sub 0x01 -/
  accFlushes : Nat
  /-- 0x4320 -/
  sieveRows : Nat
  /-- 0x4010: translation faults by partition, then copy faults by partition -/
  transFaults : List Nat
  copyFaults : List Nat
deriving DecidableEq, Repr

def CoreState.reset : CoreState where
  blocks := []
  groups := []
  grids := []
  collectors := []
  results := []
  loads := []
  stores := []
  csPend := []
  copies := []
  mq := []
  kills := []
  nextId := 0
  cycles := 0
  failed := []
  nKills := 0
  nSuppressed := 0
  nFaults := rep0 8
  nWatchdog := 0
  mxCounts := rep0 7
  accFlushes := 0
  sieveRows := 0
  transFaults := rep0 16
  copyFaults := rep0 16

end Sys2Proof.Machine
end

