-- ==== Sys2Proof/Machine/StateMem.lean ====
section
/-! DEFINITION. Shofel memory and the stack-side cache (01_organisation.md, 06_memory_model.md, 09_shofel_kettle.md). Plain
data. -/

namespace Sys2Proof.Machine

/-- A line held by a slice: its number L / 64, its 64 bytes and its marks (R225, R329). -/
structure SliceLine where
  line : Nat
  dirty : Bool
  poison : Bool
  data : List Byte
deriving DecidableEq, Repr

/-- The slice of one stack, its lines most recently used first, and the counters of 0x4008. -/
structure Slice where
  lines : List SliceLine
  hits : Nat
  misses : Nat
  writebacks : Nat
  invalidations : Nat
deriving DecidableEq, Repr

/-- The DRAM of one stack: byte cells keyed by stack-local address, poisoned lines, the counters of 0x4110 and 0x4120, and
the scrub position. `trained` is 0x4100 sub 0x03 to 0x0A. -/
structure Stack where
  trained : Bool
  cells : List Host.Cell
  poisoned : List Nat
  corrected : Nat
  uncorrectable : Nat
  poisonedReads : Nat
  lostPartial : Nat
  scrubPos : Nat
  scrubPasses : Nat
  scrubCorrections : Nat
deriving DecidableEq, Repr

structure Mem where
  dram : List Stack
  slices : List Slice
deriving DecidableEq, Repr

def Slice.reset : Slice := ⟨[], 0, 0, 0, 0⟩
def Stack.reset : Stack := ⟨false, [], [], 0, 0, 0, 0, 0, 0, 0⟩
def Mem.reset : Mem := ⟨List.replicate 8 Stack.reset, List.replicate 8 Slice.reset⟩

/-- A slice holds each line once, each of 64 bytes. -/
def Slice.wf (c : Slice) : Bool :=
  c.lines.all (fun l => l.data.length == 64) && decide ((c.lines.map SliceLine.line).Nodup)

/-- The canonical form of memory: every stack's cells rise strictly and list no zero byte; every slice is well formed. -/
def Mem.wf (m : Mem) : Bool :=
  m.dram.all (fun t => cellsWf t.cells) && m.slices.all Slice.wf

end Sys2Proof.Machine
end

