-- ==== Sys2Proof/Machine/StateHost.lean ====
section
/-! DEFINITION. The state of partitions and events, command rings, queue pairs and Ethernet ports, Kettle engines and decode
queues, and tensor statistics (08, 09, 10, 16 and 17). Plain data. -/

namespace Sys2Proof.Machine

/-- An association list's entry, or a default. -/
def assoc {α : Type} (l : List (Nat × α)) (k : Nat) (d : α) : α :=
  match l with
  | [] => d
  | (i, x) :: t => if i = k then x else assoc t k d

/-- Set an entry of an association list, keeping keys in rising order. -/
def assocSet {α : Type} : List (Nat × α) → Nat → α → List (Nat × α)
  | [], k, y => [(k, y)]
  | (i, x) :: t, k, y =>
    if k < i then (k, y) :: (i, x) :: t else if i = k then (k, y) :: t else (i, x) :: assocSet t k y

/-! ## Partitions and events (16_partitions.md) -/

/-- A set of a partition: its entry (Table 16-2, 64 bytes) and its stage-two table (entry number to Table 6-1 word). -/
structure PartSet where
  entry : List Byte
  s2 : NMap
deriving DecidableEq, Repr

/-- A partition: the set in force, a set waiting for its boundary (R575), the reset step in progress (0 none; Table 16-10),
whether the reset took a set, and its event ring's sequences and counters (R582 to R585). -/
structure Partition where
  inForce : PartSet
  waiting : Option PartSet
  resetStep : Nat
  resets : Nat
  nextSeq : Nat
  /-- lost events since READY (0x8001), those told by EVENTS_LOST since the ring took effect (Table 16-5), and those not yet told -/
  lost : Nat
  lostTotal : Nat
  lostSince : Nat
  /-- 0x8011: bytes charged at the slices, flits injected -/
  sliceBytes : Nat
  flits : Nat
  /-- 0x4201 -/
  kettleCycles : Nat
deriving DecidableEq, Repr

/-- A record on its way to an event ring (Table 16-6). -/
structure EvRec where
  part : Nat
  code : Nat
  source : Nat
  detail : List Byte
deriving DecidableEq, Repr

/-! ## Tensor statistics (08_numerics.md) -/

/-- Table 8-4: elements, zeros, saturations, flushes, non-finite, accumulation flushes; amax; crossed bits. -/
structure StatSet where
  counts : List Nat
  amax : Nat
  crossed : Nat
deriving DecidableEq, Repr

/-- Table 8-5: the five counter thresholds and the amax threshold. -/
structure Threshold where
  counts : List Nat
  amax : Nat
deriving DecidableEq, Repr

/-! ## Command rings (17_host_ethernet.md) -/

/-- A command read from a ring and neither completed nor abandoned: phase 0 read and not started, 1 started. `uid` tells it
from every other command ever read; `expert` is its partition's expert enable bit as it stood at the read (R165); `begun`
whether the row of its kind has begun its work; `checked` whether an UPDATE has passed R390 and waits for its slot; `roots` whether its
root descriptors execute (R392). -/
structure RCmd where
  idx : Nat
  uid : Nat
  bytes : List Byte
  expert : Bool
  phase : Nat
  begun : Bool
  checked : Bool
  roots : Bool
  /-- a COLLECTIVE's descriptor as its check read it -/
  desc : List Byte
  /-- the commands of other rings a scope-1 FENCE waits for, by `uid` (R623) -/
  waits : List Nat
deriving DecidableEq, Repr

/-- A completion record that waits for room (R626). -/
structure CRec where
  seq : Nat
  uid : Nat
  tag : Nat
  idx : Nat
  status : Nat
  kind : Nat
  detail : Nat
deriving DecidableEq, Repr

/-- A command ring's progress. The record in force is in the dictionary (0x9100). `state` is 4 while the ring is stopped and
`stop` the reason of the last stop (Table 17-4); `producer` and `consumed` are the values read last; `shown` is what
Yarys wrote last to offsets 24 to 41 of the doorbell page. -/
structure Ring where
  inEffect : Bool
  readIdx : Nat
  producer : Nat
  consumed : Nat
  complSeq : Nat
  state : Nat
  stop : Nat
  cmds : List RCmd
  records : List CRec
  shown : List Nat
  /-- 0x9101: commands read, MALFORMED completions, records discarded, stops -/
  counts : List Nat
deriving DecidableEq, Repr

/-! ## Queue pairs and ports -/

/-- A request Yarys has issued on a completion queue pair and not yet seen answered (R607): an RDMA write (of a completion
record when `cmd` is none) or an RDMA read. -/
structure QpReq where
  read : Bool
  hostAddr : Nat
  rkey : Nat
  data : List Byte
  len : Nat
  ring : Nat
  cmd : Option Nat
  /-- partition address the read data goes to -/
  dest : Nat
deriving DecidableEq, Repr

/-- A queue pair: its record (Table 17-2), its PSNs, the requests outstanding, retries used since the last answer, messages
received since the move to ready, its send rate in Gb/s, and as responder the last answer (Table 17-1: 0 none, 1 ACK,
2 NAK for invalid request, 3 NAK for remote access error, 4 NAK for remote operational error, 5 RNR NAK, 6 read data) with
its data. -/
structure Qp where
  record : List Byte
  psnOut : Nat
  psnIn : Nat
  outstanding : List QpReq
  retries : Nat
  /-- resends after an RNR NAK (R607) -/
  rnrs : Nat
  sends : Nat
  rate : Num.Val
  lastReply : Nat
  lastData : List Byte
deriving DecidableEq, Repr

/-- An Ethernet port (R596 to R598). `fill` and `pausedRx` are per priority: bytes in the receive buffer, and whether a
pause of ours is in force; `pausedTx` whether the far end has paused us, and `heldTx` the frames that wait for its end. -/
structure EthPort where
  up : Bool
  entriesUp : Nat
  entriesDown : Nat
  /-- 0x9011 -/
  counts : List Nat
  fill : List Nat
  xoff : List Bool
  pausedTx : List Bool
  heldTx : List Nat
deriving DecidableEq, Repr

/-! ## Kettle engines (09_shofel_kettle.md) -/

/-- A descriptor handed to a Kettle engine. `owner` is 0 for a command, whose `uid` it carries, and 1 for a claimed batch of
decode queue `queue`, whose take is `uid`. `phase` is 0 pending, 1 running, 2 suspended at the end of a turn, 3 completed. -/
structure KTask where
  id : Nat
  owner : Nat
  part : Nat
  ring : Nat
  idx : Nat
  uid : Nat
  queue : Nat
  /-- place in its command's list -/
  order : Nat
  stack : Nat
  kind : Nat
  barrier : Bool
  /-- partition address of the descriptor -/
  addr : Nat
  desc : List Byte
  /-- the shard and coefficient records as checked; headroom (Scale pass) or ε (root) in force at the check -/
  shard : List Byte
  coef : List Byte
  setting : Nat
  /-- target epoch of an update step -/
  target : Nat
  /-- vectors of a decode batch group, and the first one's number in its batch -/
  vectors : List (List Byte)
  firstVec : Nat
  phase : Nat
  attempts : Nat
  status : Nat
  /-- what the engine found in its source ranges when it started: (address, bytes) -/
  snap : List (Nat × List Byte)
  /-- what stood at its destinations once its first lines were written: (address, bytes) -/
  under : List (Nat × List Byte)
deriving DecidableEq, Repr

/-- A target-side operation queued for a stack's executor (R345, R358): the packet, the partition and base of its window. -/
structure ExecOp where
  pkt : Pkt
  part : Nat
  base : Nat
deriving DecidableEq, Repr

/-! ## Decode queues (10_thin_shapes_sieve.md) -/

structure PushVec where
  tag : Nat
  data : List Byte
deriving DecidableEq, Repr

/-- A `dq.push` not yet accepted (R369). -/
structure Push where
  id : Nat
  gid : Gid
  block : Nat
  part : Nat
  cs : Nat
  counter : Nat
  tag : Nat
  data : List Byte
deriving DecidableEq, Repr

/-- A `dq.take` (R373). -/
structure Take where
  id : Nat
  gid : Gid
  block : Nat
  part : Nat
  buf : Nat
  counter : Nat
deriving DecidableEq, Repr

/-- A released batch: its sequence, release cause (Table 10-3), vectors. -/
structure Batch where
  seq : Nat
  release : Nat
  vecs : List PushVec
deriving DecidableEq, Repr

/-- A claimed batch: its take, path (0 Kettle, 1 array), results gathered for the take buffer, as (offset, bytes), and the queue's
binding and rows R as they stood at the claim. -/
structure Claimed where
  take : Take
  batch : Batch
  path : Nat
  parts : Nat
  results : List (Nat × List Byte)
  binding : List Byte
  rows : Nat
deriving DecidableEq, Repr

structure DecodeQueue where
  isOpen : Bool
  part : Nat
  t : Nat
  b : Nat
  binding : List Byte
  /-- (stack, descriptor) copies of R365 -/
  descs : List (Nat × List Byte)
  table : Nat
  takeSize : Nat
  rows : Nat
  batchSeq : Nat
  cur : List PushVec
  released : List Batch
  claimed : List Claimed
  /-- a close, as ring and command `uid`, that waits for the batches claimed before it (R366), with the takes of those batches -/
  closing : List (Nat × Nat × List Nat)
  pushes : List Push
  takes : List Take
  /-- 0x4311: batches by threshold, by budget, Kettle-path batches -/
  nThreshold : Nat
  nBudget : Nat
  nKettle : Nat
deriving DecidableEq, Repr

structure HostState where
  parts : List Partition
  events : List EvRec
  stats : List (Nat × StatSet)
  thresholds : List (Nat × Threshold)
  /-- 0x5010 sub 0x02 and 0x03 -/
  statUpdates : Nat
  statEvents : Nat
  rings : List Ring
  /-- the next command's `uid` -/
  nextCmd : Nat
  qps : List (Nat × Qp)
  eth : List EthPort
  /-- 0x9300 by partition: writes served, reads served, NAKs sent, queue pair errors -/
  rdma : List (List Nat)
  tasks : List KTask
  /-- the next descriptor's `id` -/
  nextTask : Nat
  execQ : List (List ExecOp)
  /-- 0x4200: GEMV, Scale pass, root and remote operations, by stack -/
  kCounts : List (List Nat)
  /-- 0x4210 sub 0x04 -/
  rootsHeld : Nat
  queues : List DecodeQueue
  /-- the last frame answered under R151 or R600: interface, and the ask or echo it carried -/
  netReply : Option (Nat × FrameNet)
deriving DecidableEq, Repr

def entryZero : List Byte := zeros 64
def Partition.reset : Partition := ⟨⟨entryZero, []⟩, none, 0, 0, 1, 0, 0, 0, 0, 0, 0⟩
def StatSet.zero : StatSet := ⟨rep0 6, 0, 0⟩
def Threshold.zero : Threshold := ⟨rep0 5, 0⟩
def Ring.reset : Ring := ⟨false, 0, 0, 0, 0, 0, 0, [], [], rep0 4, rep0 4⟩
def Qp.reset : Qp := ⟨zeros 64, 0, 0, [], 0, 0, 0, .fin false 0 0, 0, []⟩
def EthPort.reset : EthPort :=
  ⟨false, 0, 0, rep0 8, rep0 8, List.replicate 8 false, List.replicate 8 false, rep0 8⟩
def DecodeQueue.reset : DecodeQueue :=
  ⟨false, 0, 0, 0, [], [], 0, 0, 0, 0, [], [], [], [], [], [], 0, 0, 0⟩

def HostState.reset : HostState where
  parts := List.replicate 16 Partition.reset
  events := []
  stats := []
  thresholds := []
  statUpdates := 0
  statEvents := 0
  rings := List.replicate 64 Ring.reset
  nextCmd := 0
  qps := []
  eth := [EthPort.reset, EthPort.reset]
  rdma := List.replicate 16 (rep0 4)
  tasks := []
  nextTask := 0
  execQ := List.replicate 8 []
  kCounts := List.replicate 4 (rep0 8)
  rootsHeld := 0
  queues := List.replicate 16 DecodeQueue.reset
  netReply := none

end Sys2Proof.Machine
end

