-- ==== Sys2Proof/Machine/StateFab.lean ====
section
/-! DEFINITION. The state of the Pogil ports, the fabric router, topology and the block-manager function, Whisk's collective
slots and the epoch machines (11 to 15). Plain data. -/

namespace Sys2Proof.Machine

/-! ## Ports (12_pogil_links.md) -/

/-- A packet in a port's transmit queue. `hello` holds the payload of the single VC11 flit of R518, and is empty for a
packet. `origin` is the arrival port, 16 for this device. -/
structure TxPkt where
  pkt : Pkt
  vc : Nat
  lane : Nat
  origin : Nat
  hello : List Byte
deriving DecidableEq, Repr

/-- The packet a transmitter is in the middle of: remaining flit payloads, VC, lane, credit source (R443). -/
structure TxCur where
  rest : List (List Byte)
  first : Bool
  vc : Nat
  lane : Nat
  pool : Bool
deriving DecidableEq, Repr

/-- A packet being received, flit by flit, on one VC and lane. -/
structure RxPart where
  vc : Nat
  lane : Nat
  bytes : List Byte
  flits : Nat
deriving DecidableEq, Repr

structure Port where
  /-- Table 12-12 -/
  state : Nat
  width : Nat
  txMask : Nat
  rxMask : Nat
  lastDown : Nat
  lastTrain : Nat
  allocCommit : Nat
  /-- the shared cap and the pool of the allocation set in force (R448) -/
  sharedCap : Nat
  pool : Nat
  roundTrip : Nat
  farInc : Nat
  entriesUp : Nat
  entriesDown : Nat
  lastChange : Nat
  /-- training state in progress (Table 12-3; 0 the machine has not started, 7 ended) -/
  train : Nat
  good : Nat
  farGood : Nat
  reps : Nat
  incChanged : Bool
  trainedOnce : Bool
  helloIn : Bool
  /-- sender side of link retry (R434 to R438) -/
  nextSeq : Nat
  replay : List Flit
  replayPos : Nat
  replays : Nat
  /-- receiver side: next sequence expected, whether any was received, whether a NAK is due or was sent -/
  expSeq : Nat
  rxValid : Bool
  nakSent : Bool
  nakDue : Bool
  returns : List CreditRet
  parts : List RxPart
  /-- credits held as transmitter: 24 lane counters (2·VC + lane), the pool, shared counts per VC -/
  laneCredits : List Nat
  poolCredits : Nat
  shared : List Nat
  txQ : List TxPkt
  cur : Option TxCur
  /-- a packet begun on another VC than 11, while the port carries none but that (R455) -/
  parked : Option TxCur
  deficits : List Nat
  /-- the VC that deficit round robin serves (R451) -/
  servedVc : Nat
  tokens : Nat
  /-- Table 12-13 -/
  counts : List Nat
  windowOver : Bool
  /-- the flit sent last; the flits of the codeword pair being formed, its count, and the symbols dealt before it, modulo 24
  (R432, R433) -/
  out : Option Flit
  pair : List Flit
  pairCount : Nat
  dealt : Nat
  /-- place of the next received flit in its codeword pair, and whether that pair was uncorrectable -/
  rxPos : Nat
  pairBad : Bool
  /-- the far end's echo token (Table 12-6) -/
  echo : Nat
deriving DecidableEq, Repr

/-! ## Fabric (13_fabric_operations.md) -/

/-- A remote operation outstanding. `owner` says whom it belongs to: 0 a thread, 1 a COPY command, 2 a collective segment (to
owner rank `idx` of `slot`, segment `descAddr`), 3 a publish of `slot`. `uid` is the command's. `left` counts the packets not yet
answered, `status` the largest status among the answers (R473). -/
structure FabOp where
  id : Nat
  owner : Nat
  part : Nat
  gid : Gid
  block : Nat
  pc : Nat
  counter : Nat
  descAddr : Nat
  ring : Nat
  idx : Nat
  uid : Nat
  slot : Nat
  kind : Nat
  noReturn : Bool
  localShofel : Bool
  localAddr : Nat
  left : Nat
  status : Nat
  timedOut : Bool
deriving DecidableEq, Repr

/-- A request of an operation: its packet, where its data comes from or goes to, and its sending state. `phase` 0 in the
request queue, 1 sent and unacknowledged, 2 a resend with R clear waits (R490). `gen` is the route generation of its last
transmission, `snap` the source bytes as they stood when it entered the queue (R475). -/
structure FabReq where
  uid : Nat
  op : Nat
  part : Nat
  vc : Nat
  pkt : Pkt
  phase : Nat
  gen : Nat
  /-- local address of the packet's data (source of a put, destination of a get) -/
  addr : Nat
  snap : List Byte
deriving DecidableEq, Repr

/-- A stream's numbering (R481, R483): key is destination, with 2^20 added for a multicast group. -/
structure Stream where
  part : Nat
  key : Nat
  next : Nat
  unacked : List Nat
deriving DecidableEq, Repr

/-- A `fab.fence` or a FENCE command with the fabric flag: what it still waits for, as (stream key, sequence). -/
structure FabFence where
  id : Nat
  part : Nat
  gid : Gid
  block : Nat
  counter : Nat
  ring : Nat
  idx : Nat
  isCmd : Bool
  needs : List (Nat × Nat)
deriving DecidableEq, Repr

/-- A window entry (Table 13-1). -/
structure Window where
  state : Nat
  part : Nat
  perms : Nat
  key : Nat
  base : Nat
  size : Nat
deriving DecidableEq, Repr

/-- A replay slot's content (R484) and a stream's record, the records most recently used first (R486). -/
structure ReplaySlot where
  slot : Nat
  seq : Nat
  status : Nat
  value : Nat
deriving DecidableEq, Repr

structure ReplayRec where
  src : Nat
  srcPart : Nat
  group : Nat
  slots : List ReplaySlot
deriving DecidableEq, Repr

structure ReplayDir where
  addr : Nat
  records : Nat
  recs : List ReplayRec
deriving DecidableEq, Repr

/-- A packet at the router: arrived on `origin` (16: injected here); `pool` where its flits hold shared credits. -/
structure RPkt where
  pkt : Pkt
  vc : Nat
  lane : Nat
  origin : Nat
  pool : Bool
deriving DecidableEq, Repr

/-- An MPUT in progress on its tree (R496): the port it arrived on, the ports not yet acknowledged, the largest status. -/
structure MputRec where
  pkt : Pkt
  origin : Nat
  ports : List Nat
  status : Nat
deriving DecidableEq, Repr

/-- A COMBINED packet awaiting its reply (R493 to R495): its sequence, and its constituents in arrival order. -/
structure CombRec where
  seq : Nat
  items : List Pkt
deriving DecidableEq, Repr

/-! ## Topology (14_topology.md) -/

/-- An observed entry (Table 14-7). -/
structure Observed where
  status : Nat
  farPort : Nat
  farRole : Nat
  farSerial : List Byte
  fabricWord : Nat
  farInc : Nat
  planVersion : Nat
  count : Nat
deriving DecidableEq, Repr

/-- An action log entry (0x6401). -/
structure BmAction where
  action : Nat
  member : Nat
  port : Nat
  fabricId : Nat
  abort : Nat
  count : Nat
deriving DecidableEq, Repr

/-- A circuit request (Table 14-4). -/
structure Circuit where
  seq : Nat
  action : Nat
  aBlock : Nat
  aMember : Nat
  aPort : Nat
  bBlock : Nat
  bMember : Nat
  bPort : Nat
deriving DecidableEq, Repr

/-- An ODP request a block manager sends to a device (R524): a member of its block (`block` 0) or, for the six neighbours of R528, a
member of the adjacent block in direction `block - 1`. -/
structure BmReq where
  block : Nat
  member : Nat
  index : Nat
  sub : Nat
  data : List Byte
deriving DecidableEq, Repr

/-- The procedure of R528 in progress: its step, the failed member, the position it holds, the spare (none to reclose), the
requests not yet acknowledged. -/
structure Splice where
  member : Nat
  place : Nat
  spare : Option Nat
  step : Nat
  waiting : List Nat
  /-- the ends of each circuit, as (block, member, port) -/
  ends : List ((Nat × Nat × Nat) × (Nat × Nat × Nat))
  /-- Port enable and routing mask as last written, by (block, member) of each neighbour -/
  masks : List ((Nat × Nat) × (Nat × Nat))
deriving DecidableEq, Repr

/-! ## Collectives (15_whisk_collectives.md) -/

/-- A segment received and not yet acknowledged: rank, collective sequence, index, packet, whether ingress has consumed it, and
the duplicates held with it (R546). -/
structure Seg where
  rank : Nat
  seq : Nat
  j : Nat
  pkt : Pkt
  taken : Bool
  dups : List Pkt
deriving DecidableEq, Repr

/-- A late contribution held under defer mode (R561): rank, sequence, elements E, FP32 values by segment, and whether every
segment has arrived. -/
structure Held where
  rank : Nat
  seq : Nat
  e : Nat
  segs : List (Nat × List Nat)
  /-- counts and amax of its elements (R316) -/
  tally : List Nat
  complete : Bool
deriving DecidableEq, Repr

/-- The collective a slot is executing: its command, kind (1 reduce-scatter, 2 all-gather), descriptor address and fields.
`nextSeg` and `unacked` are by owner rank; `written` the (rank, segment) pairs written, the own rank's in a reduce-scatter;
`heldUse` the held contributions it adds (R562); `tally` counts and amax by rank until its last segment (R316); `snap` the source and the
error memory as they stood at the start, empty where a line of it was poisoned (R543). -/
structure Coll where
  ring : Nat
  idx : Nat
  uid : Nat
  kind : Nat
  desc : Nat
  e : Nat
  src : Nat
  res : Nat
  err : Nat
  record : Nat
  nextSeg : List (Nat × Nat)
  unacked : List (Nat × Nat)
  written : List (Nat × Nat)
  missing : List Nat
  mismatched : List Nat
  heldUse : List Held
  nonfinite : Nat
  replaced : Nat
  status : Nat
  expired : Bool
  stalled : Bool
  tally : List (Nat × List Nat)
  snap : List Byte × List Byte
deriving DecidableEq, Repr

/-- A group slot of Whisk. `consumed` holds (rank, sequence, segment) of the current and the previous sequence, `bad` the
mismatched (rank, sequence) pairs of both; `missedBy` (rank, sequence, E) of ranks missing under bounded wait, `dropped` the
contributions told by event 0x0403; `lateDropped` counts discards since the last step record. -/
structure Slot where
  seq : Nat
  nfFlag : Bool
  ownRank : Nat
  ranks : List Nat
  running : Option Coll
  staged : List Seg
  consumed : List (Nat × Nat × Nat)
  bad : List (Nat × Nat)
  heldLate : List Held
  missedBy : List (Nat × Nat × Nat)
  dropped : List (Nat × Nat)
  lateDropped : Nat
  seqEventFor : Option Nat
deriving DecidableEq, Repr

/-! ## Epoch machines (11_parameter_update.md) -/

/-- The epoch machine of a group slot (Table 11-10; 0x7401). `state` is 0 IDLE, 1 STAGING, 2 VOTED, 3 PUBLISHING; `attempt` the
attempt of the step begun last and `nextAttempt` the number the next step takes (R706); `part`, `ring`, `idx` and `uid` name
the UPDATE command it serves. -/
structure Epoch where
  state : Nat
  committed : Nat
  target : Nat
  attempt : Nat
  nextAttempt : Nat
  lastDecision : Nat
  lastReason : Nat
  incomplete : Bool
  /-- management-cycle count on entry to the state -/
  entry : Nat
  inDoubt : Bool
  part : Nat
  ring : Nat
  idx : Nat
  uid : Nat
  /-- a descriptor failed its checks, an ABORT arrived in STAGING, the context was killed, the partition was reset -/
  bad : Bool
  aborted : Bool
  killed : Bool
  wasReset : Bool
  /-- flags of the vote (R404, R401) and status of the descriptors (R341) -/
  nonfinite : Bool
  held : Bool
  status : Nat
  /-- what is to be published: elements and shard record of each update descriptor -/
  pubs : List (Nat × List Byte)
deriving DecidableEq, Repr

/-- Votes gathered at a block manager, or block votes at the coordinator, for one slot, target and attempt. -/
structure Gather where
  slot : Nat
  target : Nat
  attempt : Nat
  votes : List (Nat × List Byte)
  sent : Bool
deriving DecidableEq, Repr

/-- A CTRL packet sent and not yet acknowledged (R478). -/
structure CtrlOut where
  dest : Nat
  seq : Nat
  ctype : Nat
  slot : Nat
  target : Nat
  attempt : Nat
  payload : List Byte
  /-- the sender's own machine for the slot when it sent the record: state, target epoch and attempt (R478) -/
  machine : Nat × Nat × Nat
deriving DecidableEq, Repr

/-- A CTRL record recorded by the management island and not yet acted on. -/
structure CtrlIn where
  src : Nat
  ctype : Nat
  payload : List Byte
deriving DecidableEq, Repr

structure FabState where
  ports : List Port
  incarnation : Nat
  ops : List FabOp
  reqs : List FabReq
  /-- request queue order of each entry (uids), all partitions -/
  queue : List Nat
  streams : List Stream
  fences : List FabFence
  windows : List (Nat × Window)
  multicast : NMap
  replay : List ReplayDir
  router : List RPkt
  deliver : List RPkt
  mputs : List MputRec
  combined : List CombRec
  combSeq : Nat
  /-- deficits of the request queues by VC × 16 + partition, and by VC the partition being served (R578) -/
  injDeficit : NMap
  injAt : NMap
  nextUid : Nat
  /-- 0x6510 by partition, 0x6511 -/
  pcounts : List (List Nat)
  ccounts : List Nat
  observed : List Observed
  /-- hellos in the fabric control queue, by port -/
  hellos : List (Nat × Hello)
  helloCounts : List Nat
  routeGen : Nat
  unroutable : Nat
  missed : NMap
  actions : List BmAction
  nActions : Nat
  circuits : List Circuit
  circuitSeq : Nat
  splice : Option Splice
  bmOut : List BmReq
  polls : List (Nat × PollAnswer)
  /-- failed members whose position R528 has been started for; positions held by a spare; the bypass ports that serve a direction
  of a device, by (block, member) and direction (R528) -/
  handled : List Nat
  places : List (Nat × Nat)
  served : List (((Nat × Nat) × Nat) × List Nat)
  slots : List Slot
  /-- 0x7010 sub 0x01 to 0x09 -/
  wcounts : List Nat
  epochs : List Epoch
  ownerVotes : List Gather
  blockVotes : List Gather
  /-- 0x7411: the coordinator's decision log, newest first -/
  decisions : List (List Byte)
  ctrlOut : List CtrlOut
  ctrlIn : List CtrlIn
  /-- (source, type, slot, target, attempt) acted on (R478) -/
  ctrlSeen : List (Nat × Nat × Nat × Nat × Nat)
  ctrlSeq : NMap
  /-- 0x7420 -/
  ucounts : List Nat
deriving DecidableEq, Repr

def Port.reset : Port where
  state := 1
  width := 0
  txMask := 0
  rxMask := 0
  lastDown := 0
  lastTrain := 0
  allocCommit := 0
  sharedCap := 0
  pool := 0
  roundTrip := 0
  farInc := 0
  entriesUp := 0
  entriesDown := 0
  lastChange := 0
  train := 0
  good := 0
  farGood := 0
  reps := 0
  incChanged := false
  trainedOnce := false
  helloIn := false
  nextSeq := 0
  replay := []
  replayPos := 0
  replays := 0
  expSeq := 0
  rxValid := false
  nakSent := false
  nakDue := false
  returns := []
  parts := []
  laneCredits := rep0 24
  poolCredits := 0
  shared := rep0 12
  txQ := []
  cur := none
  parked := none
  deficits := rep0 12
  servedVc := 0
  tokens := 0
  counts := rep0 8
  windowOver := false
  out := none
  pair := []
  pairCount := 0
  dealt := 0
  rxPos := 0
  pairBad := false
  echo := 0

def Observed.reset : Observed := ⟨0, 0, 0, zeros 16, 0, 0, 0, 0⟩
def Slot.reset : Slot := ⟨0, false, 0, [], none, [], [], [], [], [], [], 0, none⟩
def Epoch.reset : Epoch :=
  ⟨0, 0, 0, 0, 0, 0, 0, false, 0, false, 0, 0, 0, 0, false, false, false, false, false, false, 0, []⟩
def Window.invalid : Window := ⟨0, 0, 0, 0, 0, 0⟩

def FabState.reset : FabState where
  ports := List.replicate 16 Port.reset
  incarnation := 0
  ops := []
  reqs := []
  queue := []
  streams := []
  fences := []
  windows := []
  multicast := []
  replay := List.replicate 16 ⟨0, 0, []⟩
  router := []
  deliver := []
  mputs := []
  combined := []
  combSeq := 0
  injDeficit := []
  injAt := []
  nextUid := 0
  pcounts := List.replicate 16 (rep0 8)
  ccounts := rep0 3
  observed := List.replicate 16 Observed.reset
  hellos := []
  helloCounts := rep0 3
  routeGen := 0
  unroutable := 0
  missed := []
  actions := []
  nActions := 0
  circuits := []
  circuitSeq := 0
  splice := none
  bmOut := []
  polls := []
  handled := []
  places := []
  served := []
  slots := List.replicate 8 Slot.reset
  wcounts := rep0 9
  epochs := List.replicate 8 Epoch.reset
  ownerVotes := []
  blockVotes := []
  decisions := []
  ctrlOut := []
  ctrlIn := []
  ctrlSeen := []
  ctrlSeq := []
  ucounts := rep0 7

end Sys2Proof.Machine
end

