-- ==== Sys2Proof/Machine/StateMgmt.lean ====
section
/-! DEFINITION. The state of the management island: the dictionary with its journal and sessions, bring-up, power and
signals, reliability and ageing, identity and debug access (02, 03, 04, 18 and 19). Plain data. -/

namespace Sys2Proof.Machine

/-! ## Dictionary, journal, sessions (04_object_dictionary.md) -/

/-- What a session has open: the slot's key, role and address, its sequence, its last response, its snapshot (R130) and the
DOMAIN write in progress (R154). Phase 0 free, 1 challenge sent, 2 open. -/
structure Session where
  phase : Nat
  sid : Nat
  role : Nat
  iface : Nat
  src : Nat
  sport : Nat
  keySlot : Nat
  lastSeq : Nat
  unlocked : Bool
  transcript : List Byte
  key : List Byte
  lastResp : List Byte
  snapKey : Nat
  snap : List Byte
  wrKey : Nat
  wrTotal : Nat
  wrData : List Byte
  nonce : List Byte
  report : List Byte
  sealOut : List Byte
deriving DecidableEq, Repr

/-- The pending set of a coupled group (R135, R136): the session slot that owns it, the values by sub-index, and the last
result of Table 4-5. -/
structure Pending where
  owner : Option Nat
  values : List (Nat × List Byte)
  last : Nat
deriving DecidableEq, Repr

/-- A write or commit whose journal record is not yet valid (R145): the request, the values the record holds, keyed
index × 256 + sub, and for a commit the group's index. -/
structure JPending where
  req : OdpReq
  slot : Nat
  values : List (Nat × List Byte)
  group : Option Nat
deriving DecidableEq, Repr

/-- A datagram as the management core takes it up (R128, R162). -/
inductive Datagram where
  | openReq (o : OpenReq)
  | prove (p : ProveReq)
  | close (r : OdpReq)
  | read (r : OdpReq)
  | readBlock (r : OdpReq)
  | write (r : OdpReq) (reading : Option AgeingReading) (erased : Bool)
deriving DecidableEq, Repr

/-- A UDP datagram that left: interface, ports, the address it went to, and its bytes (R149). -/
structure TxFrame where
  iface : Nat
  sport : Nat
  dst : Nat
  dport : Nat
  bytes : List Byte
deriving DecidableEq, Repr

structure DictState where
  /-- values that differ from their defaults, keyed index × 256 + sub -/
  values : List (Nat × List Byte)
  /-- the journalled store: committed values of P objects -/
  store : List (Nat × List Byte)
  journalSeq : Nat
  journalUsed : Nat
  area : Nat
  /-- whether the area was compacted since its last record (R145) -/
  compacted : Bool
  compactions : Nat
  flashFailures : Nat
  pending : List (Nat × Pending)
  jpending : Option JPending
  sessions : List Session
  /-- datagrams that await the management core, oldest first (R128, R162) -/
  held : List Datagram
  /-- datagrams sent since the last one was received or the last journal record ended -/
  tx : List TxFrame
  discarded : Nat
  unlockCount : Nat
deriving DecidableEq, Repr

def Session.free : Session :=
  ⟨0, 0, 0, 0, 0, 0, 0, 0, false, [], [], [], 0, [], 0, 0, [], [], [], []⟩
def Pending.none : Pending := ⟨Option.none, [], 0⟩

def DictState.reset : DictState where
  values := []
  store := []
  journalSeq := 0
  journalUsed := 0
  area := 0
  compacted := false
  compactions := 0
  flashFailures := 0
  pending := []
  jpending := Option.none
  sessions := List.replicate 16 Session.free
  held := []
  tx := []
  discarded := 0
  unlockCount := 0

/-! ## Bring-up (03_bring_up.md) -/

/-- A discrepancy entry (Table 3-4). -/
structure Discrepancy where
  phase : Nat
  kind : Nat
  unit : Nat
  detail : Nat
  count : Nat
deriving DecidableEq, Repr

structure BringUp where
  /-- Table 3-1 code; 0 before FW_VERIFY has started -/
  phase : Nat
  /-- 0 in progress, 1 complete, 2 waiting, 3 stopped -/
  status : Nat
  nBringUps : Nat
  discCount : Nat
  discs : List Discrepancy
  runningImage : Nat
  portsTrained : Nat
  ethTrained : Nat
  phaseEnds : List Nat
  /-- the manufacturing record: version, good sites, SRAM repairs, stack serials -/
  recVersion : Nat
  good : List Bool
  sramRepairs : Nat
  stackSerials : List (List Byte)
  /-- 0x2110 sub 0x01: the assignment record (none: never committed) -/
  assignment : Option (List Nat)
  results : List Nat
  rowsTested : Nat
  wavesDone : Nat
  /-- logical number to site, 65535 absent -/
  coreMap : List Nat
  spares : List Nat
  powered : List Nat
  /-- stack training failures seen in this bring-up, as reason codes by stack (0 none) -/
  stackReason : List Nat
  stackDone : List Bool
  /-- what this bring-up uses of 0x2102 sub 0x02 and 0x2110 sub 0x02: their values when it started (R120) -/
  spareSub : Bool
  freshAssign : Bool
  /-- 0x2110 sub 0x02 was written since then, for the next bring-up -/
  resetWritten : Bool
deriving DecidableEq, Repr

def BringUp.reset : BringUp where
  phase := 0
  status := 0
  nBringUps := 0
  discCount := 0
  discs := []
  runningImage := 255
  portsTrained := 0
  ethTrained := 0
  phaseEnds := rep0 8
  recVersion := 1
  good := List.replicate 160 true
  sramRepairs := 0
  stackSerials := List.replicate 8 (zeros 16)
  assignment := Option.none
  results := rep0 160
  rowsTested := 0
  wavesDone := 0
  coreMap := List.replicate 144 65535
  spares := []
  powered := []
  stackReason := rep0 8
  stackDone := List.replicate 8 false
  spareSub := true
  freshAssign := false
  resetWritten := false

/-! ## Power, temperature, lasers and signals (02_package_power_signals.md) -/

structure PowerState where
  /-- whether the power stages run (R42), and whether an overvoltage stopped them (R43) -/
  stages : Bool
  overvolt : Bool
  /-- management rail in regulation: straps sampled and the comparator armed (R74, R89) -/
  mgmtRail : Bool
  /-- input current limited to 10 A during the ramp (R46) -/
  rampLimit : Bool
  /-- every always-on rail in regulation (R70) -/
  rails : Bool
  pgood : Bool
  thermtripLow : Bool
  resetLow : Bool
  refclk : Bool
  slotId : Nat
  bootMode : Nat
  /-- 0x2000: last sample mV, mA; average and peak mW of the last window -/
  mv : Nat
  ma : Nat
  avgMw : Nat
  peakMw : Nat
  /-- the window in progress: total in mW, samples, highest sample in mW, whether every reading was below 97 °C -/
  total : Nat
  samples : Nat
  peakNow : Nat
  cool : Bool
  capStep : Nat
  thermStep : Nat
  capEventSent : Bool
  /-- the sample that ends the window in progress has been taken (R52) -/
  windowDue : Bool
  /-- whether the window before had the thermal step below 32 (R58) -/
  wasThrottled : Bool
  nThrottled : Nat
  nCapUnmet : Nat
  nThermal : Nat
  temps : List F32
  /-- per engine PE0 to PE5: power of each line in µW, line status bits, losses, whether the 1 ms hold has passed -/
  lineUw : List (List Nat)
  lineUp : List Nat
  laserLoss : List Nat
  laserHeld : List Bool
deriving DecidableEq, Repr

/-- Samples and straps show 0 before they are first taken (DESIGN CHOICE, log entry 36). -/
def PowerState.reset : PowerState where
  stages := false
  overvolt := false
  mgmtRail := false
  rampLimit := false
  rails := false
  pgood := false
  thermtripLow := false
  resetLow := false
  refclk := false
  slotId := 0
  bootMode := 0
  mv := 0
  ma := 0
  avgMw := 0
  peakMw := 0
  total := 0
  samples := 0
  peakNow := 0
  cool := true
  capStep := 32
  thermStep := 32
  capEventSent := false
  windowDue := false
  wasThrottled := false
  nThrottled := 0
  nCapUnmet := 0
  nThermal := 0
  temps := List.replicate 15 0
  lineUw := List.replicate 6 (rep0 8)
  lineUp := rep0 6
  laserLoss := rep0 6
  laserHeld := List.replicate 6 false

/-! ## Reliability and ageing (18_reliability_ageing.md) -/

/-- An error log entry (Table 18-4). -/
structure LogEntry where
  seq : Nat
  count : Nat
  kind : Nat
  unit : Nat
  part : Nat
  cls : Nat
  detail : List Byte
deriving DecidableEq, Repr

/-- A failure record (0xA102) of a logical core. -/
structure FailRec where
  site : Nat
  reason : Nat
  cause : Nat
  errors : Nat
  count : Nat
deriving DecidableEq, Repr

/-- A remap request's status (0xA211, Table 18-9). `prev` is the record's site before the request; `testing` is whether
the self test runs, which a cancel does not end (R649). -/
structure Remap where
  state : Nat
  action : Nat
  site : Nat
  result : Nat
  prev : Nat
  testing : Bool
deriving DecidableEq, Repr

/-- A margin plan (Table 18-12), its fields. -/
structure MarginPlan where
  number : Nat
  source : Nat
  mhz : Nat
  rows : List Nat
  soffs : List Nat
  trims : List Nat
deriving DecidableEq, Repr

structure RelState where
  log : List LogEntry
  nextSeq : Nat
  overwritten : Nat
  masked : List Nat
  maskedChanged : List Bool
  detected : List Nat
  siteErrors : List Nat
  failRecs : List (Nat × FailRec)
  remaps : List (Nat × Remap)
  /-- management core halted by a lockstep mismatch, and the latched mismatch count (R635) -/
  mgmtStopped : Bool
  mismatch : Option Nat
  /-- stopped units, as (unit code, instance) (Table 18-2) -/
  stopped : List (Nat × Nat)
  slack : List Int
  ringOsc : List Int
  eye : List (Nat × Nat)
  bias : List Int
  lastSample : Nat
  proposed : Option MarginPlan
  planInForce : MarginPlan
  proposals : Nat
  /-- cores whose kills must complete before the site is powered down and event 0x0701 written (R642) -/
  failing : List Nat
deriving DecidableEq, Repr

def FailRec.zero : FailRec := ⟨0, 0, 0, 0, 0⟩
def Remap.none : Remap := ⟨0, 0, 0, 0, 65535, false⟩
/-- The stock plan (R653); the trims of the manufacturing record are those State.reset names. -/
def MarginPlan.stock : MarginPlan := ⟨0, 0, 2700, rep0 16, rep0 8, rep0 6⟩

def RelState.reset : RelState where
  log := []
  nextSeq := 1
  overwritten := 0
  masked := rep0 30
  maskedChanged := List.replicate 30 false
  detected := rep0 30
  siteErrors := rep0 160
  failRecs := []
  remaps := []
  mgmtStopped := false
  mismatch := Option.none
  stopped := []
  slack := List.replicate 160 32767
  ringOsc := List.replicate 28 0
  eye := List.replicate 8 (0, 0)
  bias := List.replicate 6 0
  lastSample := 0
  proposed := Option.none
  planInForce := MarginPlan.stock
  proposals := 0
  failing := []

/-! ## Identity, firmware, debug access (19_security.md) -/

/-- An image slot: its 256-byte header and its body, the first of steps 1 to 3 of Table 19-3 that its bytes fail (0 none),
and the slot status of 0xB024. -/
structure ImageSlot where
  header : List Byte
  body : List Byte
  contentStep : Nat
  valid : Bool
  failedStep : Nat
  programming : Bool
deriving DecidableEq, Repr

/-- A measurement log entry (Table 19-4). -/
structure Measure where
  typ : Nat
  detail : Nat
  digest : List Byte
deriving DecidableEq, Repr

structure SecState where
  /-- the PUF secret S (R659) and the device's serial -/
  secret : List Byte
  serial : List Byte
  identityPub : List Byte
  certChain : List Byte
  /-- digests of the boot ROM and of the manufacturing record (Table 19-4) -/
  romDigest : List Byte
  recordDigest : List Byte
  /-- no FW_VERIFY has ended since power-on (R671) -/
  freshPower : Bool
  mgmtMac : Nat
  ethMacs : List Nat
  images : List ImageSlot
  mfgFloor : Nat
  floor : Nat
  measures : List Measure
  chain : List Byte
  salt : Option (List Byte)
  challenge : List Byte
  debugOpen : Bool
  scope : Nat
  openings : Nat
  /-- the instruction register, bypass bit, boundary register, management halt, and site scan chains by site -/
  ir : Nat
  bypass : Bool
  boundary : Nat
  extest : Bool
  halted : Bool
  /-- what the last command of the port captured and shifted out on TDO -/
  tdo : Nat
  mgmtMem : List (Nat × Nat)
  keyBase : Nat
  keyLen : Nat
  chains : List (Nat × Nat)
deriving DecidableEq, Repr

/-- The image a part leaves manufacture with (log entry 5): header of Table 19-2 with firmware version 1.0, security version
1 and a body of 16 bytes, whose signature and digest pass. -/
def ImageSlot.factory : ImageSlot :=
  ⟨natLe 4 0x4F51494D ++ natLe 2 1 ++ zeros 2 ++ natLe 4 0x00010000 ++ natLe 4 1 ++ natLe 4 16 ++ natLe 4 0x00030009
    ++ zeros 232, zeros 16, 0, true, 0, false⟩

def SecState.reset : SecState where
  secret := zeros 32
  serial := zeros 16
  identityPub := zeros 57
  certChain := []
  romDigest := zeros 64
  recordDigest := zeros 64
  freshPower := true
  mgmtMac := 0
  ethMacs := [0, 0]
  images := [ImageSlot.factory, ImageSlot.factory]
  mfgFloor := 1
  floor := 1
  measures := []
  chain := zeros 64
  salt := Option.none
  challenge := zeros 32
  debugOpen := false
  scope := 0
  openings := 0
  ir := 255
  bypass := false
  boundary := 0
  extest := false
  halted := false
  tdo := 0
  mgmtMem := []
  keyBase := 0
  keyLen := 4096
  chains := []

structure MgmtState where
  dict : DictState
  bring : BringUp
  power : PowerState
  rel : RelState
  sec : SecState
  /-- the management-cycle count from the island's own start (R31) -/
  cycles : Nat
deriving DecidableEq, Repr

def MgmtState.reset : MgmtState where
  dict := DictState.reset
  bring := BringUp.reset
  power := PowerState.reset
  rel := RelState.reset
  sec := SecState.reset
  cycles := 0

end Sys2Proof.Machine
end

