-- ==== Sys2Proof/Machine/State.lean ====
section
/-! DEFINITION. The machine's state, as plain data, the reasons a step can stop, and the state after reset. -/

namespace Sys2Proof.Machine

/-- Why a step stops with a fault. -/
inductive Fault where
  /-- Raised by VIN48_OVERVOLTAGE_STOP above 60.0 V, where R44 and R2 leave the behaviour unspecified; safe. -/
  | beyondAbsoluteMaximum
deriving DecidableEq, Repr

/-- Why a step gives no meaning. -/
inductive Refusal where
  /-- Raised by an arm of `exec` whose command has no meaning yet; safe. -/
  | notModelled (mnemonic : String)
deriving DecidableEq, Repr

/-- Everything but Shofel memory and the queue. `freeCtr` counts the free values drawn (log entry 2). -/
structure Sys where
  core : CoreState
  host : HostState
  fab : FabState
  mgmt : MgmtState
  freeCtr : Nat
deriving DecidableEq, Repr

/-- The device: Shofel memory with its slices, and all other state. -/
structure Dev where
  mem : Mem
  sys : Sys
deriving DecidableEq, Repr

/-- The block's state: the device, and the queue of waiting commands. -/
structure State where
  dev : Dev
  pending : List Instr
deriving DecidableEq, Repr

def Sys.reset : Sys := ⟨CoreState.reset, HostState.reset, FabState.reset, MgmtState.reset, 0⟩
def Dev.reset : Dev := ⟨Mem.reset, Sys.reset⟩

/-- The block before VIN48 has reached its start threshold: every object at its default, nothing powered (R42, R588). -/
def State.reset : State := ⟨Dev.reset, []⟩

end Sys2Proof.Machine
end

