-- ==== Sys2Proof/Machine/Ops.lean ====
section
/-! DEFINITION. The operations every family shares: lifting an effect to a command's outcome, reading the dictionary's values
in force, drawing free values, partitions in force, the error log, and events. -/

namespace Sys2Proof.Machine

open Sys2Proof

/-! ## Outcomes -/

/-- A command that changes the device and leaves the queue's rest as it is. -/
def onDev (f : Dev → Dev) (s : State) : Host.Outcome State Fault Refusal := .next { s with dev := f s.dev }

/-- A command that leaves Shofel memory and its slices as they are. -/
def onSys (f : Sys → Sys) (s : State) : Host.Outcome State Fault Refusal :=
  .next { s with dev := { s.dev with sys := f s.dev.sys } }

/-- An effect on everything but memory, as an effect on the device. -/
def liftSys (f : Sys → Sys) (d : Dev) : Dev := { d with sys := f d.sys }

/-- Run `f` where a condition holds; a command whose preconditions do not hold changes nothing (log entry 4). -/
def guarded {α : Type} (c : Bool) (f : α → α) (x : α) : α := if c then f x else x

/-- Apply a function to each element of a list in turn. -/
def runAll {α β : Type} (f : β → α → α) : List β → α → α
  | [], x => x
  | b :: bs, x => runAll f bs (f b x)

/-! ## Parts of the state -/

def Sys.onCore (f : CoreState → CoreState) (s : Sys) : Sys := { s with core := f s.core }
def Sys.onHost (f : HostState → HostState) (s : Sys) : Sys := { s with host := f s.host }
def Sys.onFab (f : FabState → FabState) (s : Sys) : Sys := { s with fab := f s.fab }
def Sys.onMgmt (f : MgmtState → MgmtState) (s : Sys) : Sys := { s with mgmt := f s.mgmt }
def Sys.onDict (f : DictState → DictState) (s : Sys) : Sys := { s with mgmt := { s.mgmt with dict := f s.mgmt.dict } }
def Sys.onBring (f : BringUp → BringUp) (s : Sys) : Sys := { s with mgmt := { s.mgmt with bring := f s.mgmt.bring } }
def Sys.onPower (f : PowerState → PowerState) (s : Sys) : Sys := { s with mgmt := { s.mgmt with power := f s.mgmt.power } }
def Sys.onRel (f : RelState → RelState) (s : Sys) : Sys := { s with mgmt := { s.mgmt with rel := f s.mgmt.rel } }
def Sys.onSec (f : SecState → SecState) (s : Sys) : Sys := { s with mgmt := { s.mgmt with sec := f s.mgmt.sec } }

/-! ## Free values (log entry 2) -/

/-- Draw a number, a byte or a choice the spec leaves open: the counter moves on so that the next draw is another. -/
def Sys.drew (s : Sys) (n : Nat) : Sys := { s with freeCtr := s.freeCtr + n }
def Sys.freeNat (s : Sys) : Nat := Config.freeNat s.freeCtr
def Sys.freeBool (s : Sys) : Bool := Config.freeBool s.freeCtr
def Sys.freeBytes (s : Sys) (n : Nat) : List Byte := (List.range n).map (fun i => Config.freeByte (s.freeCtr + i))

/-- Where two values of each byte are possible, each byte takes one of them (R27, R245, R340). -/
def mixBytes (ctr : Nat) : List Byte → List Byte → List Byte
  | a :: as, b :: bs => (if Config.freeBool ctr then a else b) :: mixBytes (ctr + 1) as bs
  | _, _ => []

/-! ## The dictionary's values in force -/

/-- The committed value of an object: what was written last, else its default (R137, Table 0-4). -/
def Sys.cfg (s : Sys) (i sub : Nat) : List Byte := assoc s.mgmt.dict.values (i * 256 + sub) (objDefault i sub)
def Sys.cfgN (s : Sys) (i sub : Nat) : Nat := leNat (s.cfg i sub)
/-- Set a committed value. -/
def Sys.setCfg (s : Sys) (i sub : Nat) (v : List Byte) : Sys :=
  s.onDict (fun d => { d with values := assocSet d.values (i * 256 + sub) v })

/-! ## Device conditions -/

/-- Bring-up has ended in READY (Table 3-1, phase 0x08). -/
def Sys.ready (s : Sys) : Bool := s.mgmt.bring.phase == 8
/-- A unit stopped by a fault (Table 18-2). -/
def Sys.unitStopped (s : Sys) (u inst : Nat) : Bool := s.mgmt.rel.stopped.contains (u, inst)
/-- The core domain's clock runs: cores, network, slices, sequencer and Ethernet engines (Table 1-4, unit 0x1B of Table 18-1). -/
def Sys.coreClock (s : Sys) : Bool := !s.unitStopped 0x1B 8
/-- Units of the core domain work. -/
def Sys.coreRuns (s : Sys) : Bool := s.ready && s.coreClock
/-- The engines of a Kettle die work: neither they, their clock, the stack's link nor its interface has stopped. -/
def Sys.kettleRuns (s : Sys) (st : Nat) : Bool :=
  !s.unitStopped 0x16 st && !s.unitStopped 0x1B (40 + st) && !s.unitStopped 0x02 st && !s.unitStopped 0x1B st
/-- The management core runs: its island is powered and clocked, bring-up has begun, and no lockstep mismatch has halted it (R635). -/
def Sys.mgmtUp (s : Sys) : Bool :=
  s.mgmt.bring.phase != 0 && !s.mgmt.rel.mgmtStopped && !s.mgmt.sec.halted && !s.unitStopped 0x1B 10
/-- The throttle step in force (R52); 8 while the management core is halted by a mismatch (R635). -/
def Sys.appliedStep (s : Sys) : Nat :=
  if s.mgmt.rel.mgmtStopped then 8 else min s.mgmt.power.capStep s.mgmt.power.thermStep

/-! ## Partitions in force (Table 16-2) -/

def Partition.enabled (p : Partition) : Bool := field p.inForce.entry 0 1 == 1
def Partition.nRings (p : Partition) : Nat := field p.inForce.entry 1 1
def Partition.nQps (p : Partition) : Nat := field p.inForce.entry 2 2
def Partition.quota (p : Partition) : Nat := field p.inForce.entry 4 2
def coreBit (entry : List Byte) (n : Nat) : Bool := bit (field entry (8 + n / 8) 1) (n % 8)
def Partition.hasCore (p : Partition) (n : Nat) : Bool := coreBit p.inForce.entry n
def Partition.evAddr (p : Partition) : Nat := field p.inForce.entry 32 8
def Partition.evEntries (p : Partition) : Nat := field p.inForce.entry 40 4

def Sys.part (s : Sys) (p : Nat) : Partition := s.host.parts.getD p Partition.reset
def Sys.onPart (s : Sys) (p : Nat) (f : Partition → Partition) : Sys :=
  s.onHost (fun h => { h with parts := modNth h.parts p f })
def Sys.partEnabled (s : Sys) (p : Nat) : Bool := decide (p < 16) && (s.part p).enabled
def Sys.enabledParts (s : Sys) : List Nat := (List.range 16).filter s.partEnabled
/-- Whether the partition's expert enable bit is set (R164). -/
def Sys.expertOn (s : Sys) (p : Nat) : Bool := bit (s.cfgN 0xF010 2) p
/-- The QoS record in force (Table 16-4). -/
def Sys.qos (s : Sys) (p : Nat) : List Byte := s.cfg 0x8010 (p + 1)
/-- Whether a partition is in steps 1 to 5 of its reset (Table 16-10). -/
def Sys.resetting (s : Sys) (p : Nat) : Bool := (s.part p).resetStep != 0

/-- The global ring number of a partition's ring r is the ring record's; rings of a partition are those its records name. -/
def Sys.ringRec (s : Sys) (r : Nat) : List Byte := s.cfg 0x9100 (r + 1)
def Sys.ringPart (s : Sys) (r : Nat) : Nat := field (s.ringRec r) 1 1
def Sys.ringEnabled (s : Sys) (r : Nat) : Bool := decide (r < 64) && field (s.ringRec r) 0 1 == 1

/-! ## The error log (R638 to R640) -/

/-- Append an entry; the 4,097th overwrites the oldest (R638). Nothing is recorded while the management core is halted
(R635). -/
def Sys.log (s : Sys) (kind unit part cls : Nat) (detail : List Byte) : Sys :=
  if s.mgmt.rel.mgmtStopped then s
  else
    s.onRel (fun r =>
      let e : LogEntry := ⟨r.nextSeq, s.mgmt.cycles, kind, unit, part, cls, (detail ++ zeros 16).take 16⟩
      { r with
        log := if r.log.length ≥ 4096 then r.log.drop 1 ++ [e] else r.log ++ [e]
        nextSeq := r.nextSeq + 1
        overwritten := if r.log.length ≥ 4096 then r.overwritten + 1 else r.overwritten })

/-- The class of an event in the log (Table 18-4; DEDUCED, log entry 7): the codes that report a detected fault. -/
def eventClass (code : Nat) : Nat :=
  if (0x0101 ≤ code ∧ code ≤ 0x0108) ∨ (0x0202 ≤ code ∧ code ≤ 0x0204) ∨ code = 0x0701 ∨ code = 0x0705 ∨ code = 0x0706
  then 2 else 0

/-- An event of one partition enters the event record queue and the error log (R29, R585). A partition disabled in force
has no events written for it (R572); none is recorded while the management core is halted (R635). -/
def Sys.raise (s : Sys) (p code source : Nat) (detail : List Byte) : Sys :=
  if s.mgmt.rel.mgmtStopped then s
  else
    let s := s.log code source (if s.partEnabled p then p else 255) (eventClass code) detail
    if s.partEnabled p then s.onHost (fun h => { h with events := h.events ++ [⟨p, code, source, (detail ++ zeros 16).take 16⟩] })
    else s

/-- An event for every enabled partition; with none it is entered in the log alone (R641). -/
def Sys.raiseAll (s : Sys) (code source : Nat) (detail : List Byte) : Sys :=
  if s.enabledParts = [] then s.log code source 255 (eventClass code) detail
  else runAll (fun p s => s.raise p code source detail) s.enabledParts s

/-- Kind ACTION of the actions of Table 18-10 to which Table 18-5 gives no code: their code is free (R650; log entry 130). -/
def Sys.actionOther (s : Sys) (slot : Nat) : Sys :=
  (s.drew 1).log 0x0907 0 255 3 (natLe 1 s.freeNat ++ zeros 4 ++ natLe 1 slot)

/-! ## Fault counters (0xA010, 0xA011) -/

/-- A masked fault of a unit is counted; nothing is recorded while the management core is halted (R634, R635). -/
def Sys.maskedCount (s : Sys) (u : Nat) : Sys :=
  if s.mgmt.rel.mgmtStopped then s
  else s.onRel (fun r => { r with
    masked := modNth r.masked u (fun n => min (n + 1) (2 ^ 64 - 1)), maskedChanged := modNth r.maskedChanged u (fun _ => true) })

/-- A detected fault of a unit is counted. -/
def Sys.detectedCount (s : Sys) (u : Nat) : Sys :=
  if s.mgmt.rel.mgmtStopped then s
  else s.onRel (fun r => { r with detected := modNth r.detected u (fun n => min (n + 1) (2 ^ 64 - 1)) })

/-! ## Laser input (R17, R62) -/

/-- The engine of a port, 16 and 17 being the Ethernet ports, and how many lines it has (R17, Table 2-3). -/
def engineOf (port : Nat) : Nat := if port < 16 then port / 4 else port - 12
def engineLines (e : Nat) : Nat := if e < 4 then 8 else 2
/-- Every line of an engine is at its minimum level or above (R62). -/
def PowerState.lit (p : PowerState) (e : Nat) : Bool := (List.range (engineLines e)).all (bit (nth p.lineUp e))

/-! ## Time -/

/-- With no command waiting the domain clocks run on by unspecified amounts (log entry 1). -/
def Sys.tick (s : Sys) : Sys :=
  let c := s.freeNat
  let m := Config.freeNat (s.freeCtr + 1)
  ((s.onCore (fun k => { k with cycles := if s.ready then k.cycles + c else k.cycles })).onMgmt
    (fun g => { g with cycles := if s.mgmt.power.mgmtRail then g.cycles + m else g.cycles })).drew 2

/-- What `step` does on an empty queue. -/
def idle (s : State) : State := { s with dev := { s.dev with sys := s.dev.sys.tick } }

end Sys2Proof.Machine
end

