-- ==== Sys2Proof/Machine/Flags.lean ====
section
/-! DEFINITION. Flags: the comparisons behind predicates (Table 5-9), tensor statistics with their crossed bits
(R314 to R321), and the first status of a command (R341). -/

namespace Sys2Proof.Machine

open Sys2Proof

/-- Whether a comparison code holds for a sign of (A − B): 0 eq, 1 ne, 2 lt, 3 le, 4 gt, 5 ge. -/
def cmpSign (code : Nat) (sgn : Int) : Bool :=
  match code with
  | 0 => sgn == 0
  | 1 => sgn != 0
  | 2 => decide (sgn < 0)
  | 3 => decide (sgn ≤ 0)
  | 4 => decide (sgn > 0)
  | _ => decide (sgn ≥ 0)

/-- `setp`: A compared with B as type `ty`; with a NaN only ne and unordered hold (Table 5-9). -/
def cmpHolds (code ty a b : Nat) : Bool :=
  if ty = 4 ∨ ty = 5 then
    let f := if ty = 4 then Num.fp32 else Num.fp64
    match (Num.decode f a).cmp (Num.decode f b) with
    | none => code == 1 || code == 7
    | some s => if code = 6 then true else if code = 7 then false else cmpSign code s
  else
    let w := 32 * (if ty < 2 then 1 else 2)
    let v (x : Nat) : Int := if ty = 1 ∨ ty = 3 then toSigned w x else (x % 2 ^ w : Nat)
    cmpSign code (v a - v b)

/-! ## Tensor statistics -/

def Sys.statSet (s : Sys) (p i : Nat) : StatSet := assoc s.host.stats (p * 64 + i) StatSet.zero
def Sys.threshold (s : Sys) (p i : Nat) : Threshold := assoc s.host.thresholds (p * 64 + i) Threshold.zero

/-- The larger of two finite non-negative FP32 magnitudes. -/
def f32Max (a b : Nat) : Nat := if a ≥ b then a else b

/-- The crossed bits an update sets (R319): bit 0 zeros to 4 accumulation flushes, bit 5 amax. A threshold of 0 checks
nothing (R318); a bit already set gives nothing further (R320). -/
def crossings (old new : StatSet) (t : Threshold) : List Nat :=
  ((List.range 5).filter (fun b =>
    let th := nth t.counts b
    th != 0 && decide (nth old.counts (b + 1) < th ∧ th ≤ nth new.counts (b + 1)) && !bit old.crossed b))
  ++ (if t.amax % 2 ^ 31 ≠ 0 ∧ old.amax ≤ t.amax ∧ t.amax < new.amax ∧ bit old.crossed 5 = false then [5] else [])

/-- One indivisible update of a set (R316): `counts` in the order of Table 8-4, and an amax; crossings set their bits and
write one event each with the source's code (R319). -/
def Sys.statsAdd (s : Sys) (p i : Nat) (counts : List Nat) (amax code source : Nat) : Sys :=
  let old := s.statSet p i
  let new : StatSet :=
    { counts := (List.range 6).map (fun k => min (nth old.counts k + nth counts k) (2 ^ 64 - 1))
      amax := f32Max old.amax amax
      crossed := old.crossed }
  let bs := crossings old new (s.threshold p i)
  let new := { new with crossed := bs.foldl (fun c b => c ||| 2 ^ b) new.crossed }
  let s := s.onHost (fun h => { h with
    stats := assocSet h.stats (p * 64 + i) new
    statUpdates := h.statUpdates + 1
    statEvents := h.statEvents + bs.length })
  runAll (fun b s => s.raise p code source [BitVec.ofNat 8 i, BitVec.ofNat 8 b]) bs s

/-- The counts of a list of converted elements, in the order of Table 8-4 (R315): elements, zeros, saturations, flushes,
non-finite, accumulation flushes. -/
def tally (cs : List Num.Count) (accFlushes : Nat) : List Nat :=
  [cs.length, cs.countP (fun c => c == .zeros), cs.countP (fun c => c == .saturations),
   cs.countP (fun c => c == .flushes), cs.countP (fun c => c == .nonfinite), accFlushes]

/-- The FP32 code of the largest finite magnitude among values (Table 8-4, Amax). -/
def amaxCode (vs : List Num.Val) : Nat := Num.round Num.fp32 (Num.amax vs)

/-- The status of a command over the statuses of its descriptors in list order: the first that is not OK (R341). -/
def firstStatus (l : List Nat) : Nat :=
  match l.find? (fun x => x != 0) with
  | some x => x
  | none => 0

end Sys2Proof.Machine
end

