-- ==== Sys2Proof/Machine/Memory.lean ====
section
/-! DEFINITION. Shofel memory: translation (R214 to R217, R21, R22), the slices (R23, R224), the stacks' DRAM with poison
(R327 to R334), and the Kettle engines' direct view (R25, R26, R230). -/

namespace Sys2Proof.Machine

open Sys2Proof

/-! ## Translation -/

/-- Whether every stack is trained (R22). -/
def Mem.allTrained (m : Mem) : Bool := m.dram.all Stack.trained
def Mem.stack (m : Mem) (i : Nat) : Stack := m.dram.getD i Stack.reset
def Mem.slice (m : Mem) (i : Nat) : Slice := m.slices.getD i Slice.reset

/-- Whether a chunk is not a bad address under R21, R22 or R97. -/
def Mem.chunkOk (m : Mem) (chunk : Nat) : Bool :=
  if chunk < 512 then m.allTrained
  else decide (1024 ≤ chunk ∧ chunk < 1536) && (m.stack ((chunk - 1024) / 64)).trained

/-- Table 1-3: the stack and stack-local address of byte `off` of a chunk. -/
def physical (chunk off : Nat) : Nat × Nat :=
  let pa := chunk * 2 ^ 30 + off
  if chunk < 512 then (bits pa 14 12, bits pa 38 15 * 4096 + bits pa 11 0) else (bits pa 38 36, bits pa 35 0)

/-- A stage-two entry (Table 6-1): its chunk, and whether it is valid and writable. -/
def s2Valid (e : Nat) : Bool := bit e 0
def s2Write (e : Nat) : Bool := bit e 1
def s2Chunk (e : Nat) : Nat := bits e 40 30

/-- Whether one entry of a table permits an access (R216). -/
def Mem.entryOk (m : Mem) (tbl : NMap) (k : Nat) (w : Bool) : Bool :=
  let e := NMap.get tbl k
  s2Valid e && (!w || s2Write e) && m.chunkOk (s2Chunk e)

/-- Whether `n` bytes from partition address `a` translate through a table (R216); no byte is named by an empty range. -/
def Mem.rangeOkT (m : Mem) (tbl : NMap) (a n : Nat) (w : Bool) : Bool :=
  n == 0 ||
    (decide (a + n ≤ 2 ^ 40) &&
      (List.range ((a + n - 1) / 2 ^ 30 - a / 2 ^ 30 + 1)).all (fun k => m.entryOk tbl (a / 2 ^ 30 + k) w))

def Dev.table (d : Dev) (p : Nat) : NMap := (d.sys.part p).inForce.s2
def Dev.rangeOk (d : Dev) (p a n : Nat) (w : Bool) : Bool := d.mem.rangeOkT (d.table p) a n w

/-- The stack and stack-local address of a partition address (R214). -/
def Dev.locate (d : Dev) (p a : Nat) : Nat × Nat := physical (s2Chunk (NMap.get (d.table p) (a / 2 ^ 30))) (a % 2 ^ 30)

/-- Count an access refused for a partition (0x4010, R217). -/
def Sys.transFault (s : Sys) (p : Nat) : Sys := s.onCore (fun c => { c with transFaults := addAt c.transFaults p 1 })

/-- The parts of a range, each within one 64-byte line. -/
def pieces : Nat → Nat → Nat → List (Nat × Nat)
  | 0, _, _ => []
  | f + 1, a, n =>
    if n = 0 then [] else
      let k := min n (64 - a % 64)
      (a, k) :: pieces f (a + k) (n - k)

def rangePieces (a n : Nat) : List (Nat × Nat) := pieces (n / 64 + 2) a n

/-- The partition whose stage-two table maps a line of a stack, 255 when none does (R329, R219). -/
def Dev.ownerOf (d : Dev) (st line : Nat) : Nat :=
  let maps (p : Nat) : Bool :=
    (d.table p).any (fun kv => s2Valid kv.2 &&
      (if s2Chunk kv.2 < 512 then decide (line * 64 / 2 ^ 27 = s2Chunk kv.2)
       else decide (s2Chunk kv.2 = 1024 + 64 * st + line * 64 / 2 ^ 30)))
  match (List.range 16).find? maps with
  | some p => p
  | none => 255

/-! ## DRAM and slices -/

def Mem.onStack (m : Mem) (i : Nat) (f : Stack → Stack) : Mem := { m with dram := modNth m.dram i f }
def Mem.onSlice (m : Mem) (i : Nat) (f : Slice → Slice) : Mem := { m with slices := modNth m.slices i f }

/-- The 64 bytes of a line in DRAM. -/
def Stack.lineData (t : Stack) (line : Nat) : List Byte := cellsRead t.cells (line * 64) 64
def Stack.isPoisoned (t : Stack) (line : Nat) : Bool := t.poisoned.contains line

def markPoison (l : List Nat) (line : Nat) (p : Bool) : List Nat :=
  if p then (if l.contains line then l else line :: l) else l.filter (fun x => x != line)

/-- Write a whole line to DRAM with its poison mark (R329, R331). -/
def Stack.putLine (t : Stack) (line : Nat) (data : List Byte) (poison : Bool) : Stack :=
  { t with cells := cellsWrite t.cells (line * 64) data, poisoned := markPoison t.poisoned line poison }

def Slice.find (c : Slice) (line : Nat) : Option SliceLine := c.lines.find? (fun l => l.line == line)
def Slice.drop (c : Slice) (line : Nat) : Slice := { c with lines := c.lines.filter (fun l => l.line != line) }

/-- Put a line first in use order in place of its old copy. -/
def Slice.put (c : Slice) (l : SliceLine) : Slice :=
  { c with lines := { l with data := (l.data ++ zeros 64).take 64 } :: (c.drop l.line).lines }

/-- A dirty line goes back to DRAM (R25, R329) and stays in the slice clean. -/
def Mem.writeBack (m : Mem) (st line : Nat) : Mem :=
  match (m.slice st).find line with
  | none => m
  | some l =>
    if l.dirty then
      (m.onStack st (fun t => t.putLine line l.data l.poison)).onSlice st
        (fun c => { c with
          lines := c.lines.map (fun x => if x.line == line then { x with dirty := false } else x)
          writebacks := c.writebacks + 1 })
    else m

/-- The line of the same set used least recently, when the set's 18 ways are full. -/
def Slice.victim (c : Slice) (line : Nat) : Option Nat :=
  let set := c.lines.filter (fun l => l.line % 8192 == line % 8192)
  if set.length < 18 then none else set.getLast?.map SliceLine.line

/-- Make room for a line: the victim is written back where dirty, and leaves. -/
def Mem.makeRoom (m : Mem) (st line : Nat) : Mem :=
  match (m.slice st).victim line with
  | none => m
  | some v => (m.writeBack st v).onSlice st (fun c => c.drop v)

/-- Fill a line from DRAM into its slice (R23), counted as a miss. -/
def Mem.fill (m : Mem) (st line : Nat) : Mem :=
  let m := m.makeRoom st line
  let t := m.stack st
  m.onSlice st (fun c => { c.put ⟨line, false, t.isPoisoned line, t.lineData line⟩ with misses := c.misses + 1 })

/-- An access that finds its line in the slice, or fills it first; the line becomes the most recently used. -/
def Mem.touch (m : Mem) (st line : Nat) : Mem :=
  match (m.slice st).find line with
  | none => m.fill st line
  | some l => m.onSlice st (fun c => { c.put l with hits := c.hits + 1 })

/-- The content of a line as an access through the slice finds it. -/
def Mem.lineOf (m : Mem) (st line : Nat) : SliceLine :=
  match (m.slice st).find line with
  | some l => l
  | none => ⟨line, false, (m.stack st).isPoisoned line, (m.stack st).lineData line⟩

/-- Replace bytes within a list. -/
def splice (l : List Byte) (off : Nat) (bs : List Byte) : List Byte := l.take off ++ bs ++ l.drop (off + bs.length)

/-- Channel and stack-local address of a line, as log entries give them (Table 18-5). -/
def lineDetail (st line : Nat) : List Byte := [BitVec.ofNat 8 st, BitVec.ofNat 8 (line * 64 / 256 % 32), 0, 0] ++ natLe 8 (line * 64)

/-- The loss of a partial write to a poisoned line (R331). -/
def Dev.partialLost (d : Dev) (st line : Nat) : Dev :=
  { mem := d.mem.onStack st (fun t => { t with lostPartial := t.lostPartial + 1 })
    sys := d.sys.log 0x0904 1 (d.ownerOf st line) 2 (lineDetail st line) }

/-- A poisoned line: its log entry and count (R329). -/
def Dev.poisonNote (d : Dev) (st line : Nat) : Dev :=
  { mem := d.mem.onStack st (fun t => { t with uncorrectable := t.uncorrectable + 1 })
    sys := d.sys.log 0x0903 1 (d.ownerOf st line) 2 (lineDetail st line) }

/-- A write to part of one line through its slice (R23, R228, R331). -/
def Dev.writePiece (d : Dev) (st L : Nat) (bs : List Byte) : Dev :=
  let line := L / 64
  let m := d.mem.touch st line
  let l := m.lineOf st line
  if l.poison && bs.length != 64 then Dev.partialLost { d with mem := m } st line
  else { d with mem := m.onSlice st (fun c => c.put ⟨line, true, false, splice l.data (L % 64) bs⟩) }

/-- Charge slice bytes to a partition (R577). -/
def Sys.charge (s : Sys) (p n : Nat) : Sys := s.onPart p (fun q => { q with sliceBytes := q.sliceBytes + n })

/-- A write of bytes at a partition address through the slices. -/
def Dev.writeRange (d : Dev) (p a : Nat) (bs : List Byte) : Dev :=
  let d := runAll (fun (pc : Nat × Nat) d =>
    let (st, L) := d.locate p pc.1
    d.writePiece st L ((bs.drop (pc.1 - a)).take pc.2)) (rangePieces a bs.length) d
  { d with sys := d.sys.charge p bs.length }

/-- A read of bytes at a partition address through the slices: the device after it, the bytes, and the first poisoned line
met, as (stack, line). -/
structure ReadRes where
  dev : Dev
  data : List Byte
  poison : Option (Nat × Nat)

def ReadRes.step (p : Nat) (pc : Nat × Nat) (r : ReadRes) : ReadRes :=
  let (st, L) := r.dev.locate p pc.1
  let m := r.dev.mem.touch st (L / 64)
  let l := m.lineOf st (L / 64)
  let bs := (l.data.drop (L % 64)).take pc.2
  if l.poison then
    ⟨{ r.dev with mem := m.onStack st (fun t => { t with poisonedReads := t.poisonedReads + 1 }) }, r.data ++ zeros pc.2,
      match r.poison with
      | none => some (st, L / 64)
      | some x => some x⟩
  else ⟨{ r.dev with mem := m }, r.data ++ bs, r.poison⟩

def Dev.readRange (d : Dev) (p a n : Nat) : ReadRes :=
  let r := runAll (ReadRes.step p) (rangePieces a n) ⟨d, [], none⟩
  { r with dev := { r.dev with sys := r.dev.sys.charge p n } }

/-- The bytes a read would give, with no line moved: what a check looks at. -/
def Dev.peek (d : Dev) (p a n : Nat) : List Byte :=
  ((rangePieces a n).map (fun pc =>
    let (st, L) := d.locate p pc.1
    ((d.mem.lineOf st (L / 64)).data.drop (L % 64)).take pc.2)).flatten

/-- The first poisoned line of a range, as (stack, line). -/
def Dev.poisonIn (d : Dev) (p a n : Nat) : Option (Nat × Nat) :=
  ((rangePieces a n).map (fun pc => let (st, L) := d.locate p pc.1; (st, L / 64))).find?
    (fun x => (d.mem.lineOf x.1 x.2).poison)

/-- A poisoned line that a check meets is a read refused (0x4110, R330). -/
def Dev.refuse (d : Dev) (at_ : Nat × Nat) : Dev :=
  { d with mem := d.mem.onStack at_.1 (fun t => { t with poisonedReads := t.poisonedReads + 1 }) }

/-! ## The Kettle engines' view -/

/-- R25: a line a Kettle engine reads is written back first; then its DRAM bytes. -/
def Mem.kettleFetch (m : Mem) (st line : Nat) : Mem := m.writeBack st line

/-- A write of part of a line by a Kettle engine: earlier dirty bytes go back first, the DRAM bytes change, and the slice's
copy is invalidated (R25, R26, R230). -/
def Dev.kettleWritePiece (d : Dev) (st L : Nat) (bs : List Byte) : Dev :=
  let line := L / 64
  let m := d.mem.writeBack st line
  let inv := ((m.slice st).find line).isSome
  let m := if inv then m.onSlice st (fun c => { c.drop line with invalidations := c.invalidations + 1 }) else m
  let t := m.stack st
  if t.isPoisoned line && bs.length != 64 then Dev.partialLost { d with mem := m } st line
  else { d with mem := m.onStack st (fun t => t.putLine line (splice (t.lineData line) (L % 64) bs) false) }

/-- A write of bytes by the Kettle engine of stack `st` at a partition address. -/
def Dev.kettleWrite (d : Dev) (p a : Nat) (bs : List Byte) : Dev :=
  runAll (fun (pc : Nat × Nat) d =>
    let (st, L) := d.locate p pc.1
    d.kettleWritePiece st L ((bs.drop (pc.1 - a)).take pc.2)) (rangePieces a bs.length) d

def ReadRes.kettleStep (p : Nat) (pc : Nat × Nat) (r : ReadRes) : ReadRes :=
  let (st, L) := r.dev.locate p pc.1
  let m := r.dev.mem.kettleFetch st (L / 64)
  let t := m.stack st
  if t.isPoisoned (L / 64) then
    ⟨{ r.dev with mem := m.onStack st (fun t => { t with poisonedReads := t.poisonedReads + 1 }) }, r.data ++ zeros pc.2,
      match r.poison with
      | none => some (st, L / 64)
      | some x => some x⟩
  else ⟨{ r.dev with mem := m }, r.data ++ ((t.lineData (L / 64)).drop (L % 64)).take pc.2, r.poison⟩

/-- A read of bytes by a Kettle engine at a partition address. -/
def Dev.kettleRead (d : Dev) (p a n : Nat) : ReadRes := runAll (ReadRes.kettleStep p) (rangePieces a n) ⟨d, [], none⟩

/-- Event MEMORY_UNCORRECTABLE (0x0202) or another with a stack and a stack-local address first. -/
def lineEventDetail (line : Nat) : List Byte := natLe 8 (line * 64)

end Sys2Proof.Machine
end

