-- ==== Sys2Proof/Machine/Operands.lean ====
section
/-! DEFINITION. The operand forms of core instructions: the common format (Table 5-3), what each opcode reads and writes, and
which words R202 calls MALFORMED (Tables 5-4, 5-8 to 5-11, 10-2, 13-2). -/

namespace Sys2Proof.Machine

open Sys2Proof

/-- An instruction word's fields (Table 5-3). -/
structure CoreInst where
  op : Nat
  pneg : Bool
  pred : Nat
  d : Nat
  a : Nat
  b : Nat
  c : Nat
  mod : Nat
deriving DecidableEq, Repr

/-- The fields of a word. -/
def CoreInst.ofWord (w : DWord) : CoreInst :=
  let n := w.toNat
  ⟨bits n 63 56, bit n 55, bits n 54 52, bits n 51 44, bits n 43 36, bits n 35 28, bits n 27 20, bits n 19 0⟩

/-- The word of an instruction's fields. -/
def CoreInst.word (i : CoreInst) : DWord :=
  BitVec.ofNat 64 (i.op * 2 ^ 56 + (if i.pneg then 1 else 0) * 2 ^ 55 + i.pred * 2 ^ 52 + i.d * 2 ^ 44 + i.a * 2 ^ 36
    + i.b * 2 ^ 28 + i.c * 2 ^ 20 + i.mod)

/-- Whether every field fits its bits. -/
def CoreInst.fits (i : CoreInst) : Bool :=
  decide (i.op < 256 ∧ i.pred < 8 ∧ i.d < 256 ∧ i.a < 256 ∧ i.b < 256 ∧ i.c < 256 ∧ i.mod < 2 ^ 20)

/-- The opcodes some table lists (R210); any other is undefined. -/
def definedOps : List Nat :=
  [0x00, 0x01, 0x02, 0x03, 0x04, 0x05, 0x06, 0x07, 0x08, 0x09, 0x0A, 0x0B, 0x0C, 0x0D, 0x0E, 0x0F, 0x10, 0x11,
   0x40, 0x41, 0x42, 0x43, 0x44, 0x45, 0x46, 0x48, 0x50, 0x51, 0x52, 0x58, 0x59, 0x5A, 0x5B, 0x5C,
   0x60, 0x61, 0x62, 0x63, 0x70, 0x74, 0x78, 0x79, 0x80, 0x81, 0x88, 0x89, 0x8A, 0x8C, 0x8D,
   0x90, 0x91, 0x92, 0x93, 0x94, 0x95, 0x96, 0xA0, 0xA1, 0xA2, 0xA3, 0xA4]

/-- What an instruction reads and writes: source registers in the order A, B, C; destination registers (256 + p for
predicate p); predicates read; and the unit it needs (0 FP32 lanes, 1 special-function lanes, 2 load, store and
asynchronous unit, 3 none). -/
structure OpInfo where
  reads : List Nat
  dests : List Nat
  preds : List Nat
  unit : Nat
deriving DecidableEq, Repr

/-- The registers an operand of `n` registers at `r` occupies. -/
def regRun (r n : Nat) : List Nat := (List.range n).map (fun k => r + k)

/-- Whether an operand of 1, 2 or 4 registers may lie at `r`: inside the declared registers, pairs even (R183), quads at a
multiple of four (Table 5-10). -/
def regOk (limit r n : Nat) : Bool := decide (r + n ≤ limit) && r % n == 0

def CoreInst.ty (i : CoreInst) : Nat := bits i.mod 18 16
def CoreInst.imm (i : CoreInst) : Bool := bit i.mod 19
/-- Registers of an operand of a type (0 u32, 1 s32, 2 u64, 3 s64, 4 f32, 5 f64). -/
def tyRegs (t : Nat) : Nat := if t = 2 ∨ t = 3 ∨ t = 5 then 2 else 1

/-- The common layout's [19] and [15:0] for an instruction with a source B. -/
def immOk (i : CoreInst) : Bool := if i.imm then i.b == 0 else bits i.mod 15 0 == 0

/-- Table 5-8: the types an opcode permits, its source count, and whether it has a source B. -/
structure AluRow where
  types : List Nat
  srcs : Nat
deriving DecidableEq, Repr

def aluRow (op : Nat) : Option AluRow :=
  if op = 0x00 ∨ op = 0x01 ∨ op = 0x02 ∨ op = 0x06 ∨ op = 0x07 then some ⟨[0, 1, 2, 3, 4, 5], 2⟩
  else if op = 0x03 then some ⟨[0, 1, 2, 3], 2⟩
  else if op = 0x04 then some ⟨[0, 1, 2, 3], 3⟩
  else if op = 0x05 then some ⟨[4, 5], 3⟩
  else if op = 0x08 ∨ op = 0x09 ∨ op = 0x0A ∨ op = 0x0C then some ⟨[0, 2], 2⟩
  else if op = 0x0D then some ⟨[0, 1, 2, 3], 2⟩
  else if op = 0x0B ∨ op = 0x0E ∨ op = 0x0F then some ⟨[0, 2], 1⟩
  else if op = 0x10 ∨ op = 0x11 then some ⟨[1, 3, 4, 5], 1⟩
  else if op = 0x40 ∨ op = 0x41 then some ⟨[4, 5], 1⟩
  else if op = 0x42 then some ⟨[4, 5], 2⟩
  else if 0x43 ≤ op ∧ op ≤ 0x46 then some ⟨[4], 1⟩
  else none

/-- The operands of a Table 5-8 instruction, or none when R202 calls it MALFORMED. -/
def aluInfo (limit : Nat) (row : AluRow) (i : CoreInst) : Option OpInfo :=
  let n := tyRegs i.ty
  -- popc and clz give a u32 (Table 5-8)
  let dn := if i.op = 0x0E ∨ i.op = 0x0F then 1 else n
  let immOkay := if row.srcs = 1 then !i.imm && bits i.mod 15 0 == 0 && i.b == 0 else immOk i
  if row.types.contains i.ty && immOkay && regOk limit i.d dn && regOk limit i.a n
      && (row.srcs == 1 || i.imm || regOk limit i.b n)
      && (if row.srcs = 3 then regOk limit i.c n else i.c == 0) then
    some
      { reads := regRun i.a n ++ (if row.srcs = 1 ∨ i.imm then [] else regRun i.b n)
          ++ (if row.srcs = 3 then regRun i.c n else [])
        dests := regRun i.d dn
        preds := []
        unit := if i.op ≥ 0x40 then 1 else 0 }
  else none

/-- Registers of a conversion format code (Tables 5-9, 7-1), none for a reserved code. -/
def cvtRegs (f : Nat) : Option Nat :=
  if f ≤ 0xA then some 1 else if f ≤ 0xD then some 2 else none

/-- Table 5-9's instructions. -/
def moveInfo (limit : Nat) (i : CoreInst) : Option OpInfo :=
  let n := tyRegs i.ty
  match i.op with
  | 0x48 =>
    match cvtRegs (bits i.mod 3 0), cvtRegs (bits i.mod 7 4) with
    | some sn, some dn =>
      if bits i.mod 19 8 == 0 && bits i.mod 3 0 != bits i.mod 7 4 && i.b == 0 && i.c == 0
          && regOk limit i.a sn && regOk limit i.d dn then
        some ⟨regRun i.a sn, regRun i.d dn, [], 0⟩
      else none
    | _, _ => none
  | 0x50 =>
    if decide (i.d < 7 ∧ i.c < 8 ∧ i.ty < 6) && (decide (i.c < 6) || decide (i.ty ≥ 4)) && immOk i
        && regOk limit i.a n && (i.imm || regOk limit i.b n) then
      some ⟨regRun i.a n ++ (if i.imm then [] else regRun i.b n), [256 + i.d], [], 0⟩
    else none
  | 0x51 =>
    if [0, 2].contains i.ty && decide (i.c < 8) && immOk i && regOk limit i.d n && regOk limit i.a n
        && (i.imm || regOk limit i.b n) then
      some ⟨regRun i.a n ++ (if i.imm then [] else regRun i.b n), regRun i.d n, [i.c], 0⟩
    else none
  | 0x52 =>
    if decide (i.d < 7 ∧ i.a < 8 ∧ i.b < 8) && i.c == 0 && bits i.mod 19 2 == 0
        && (bits i.mod 1 0 != 3 || i.b == 0) then
      some ⟨[], [256 + i.d], (if bits i.mod 1 0 = 3 then [i.a] else [i.a, i.b]), 0⟩
    else none
  | 0x58 =>
    if [0, 2].contains i.ty && i.b == 0 && i.c == 0 && regOk limit i.d n
        && (if i.imm then i.a == 0 else bits i.mod 15 0 == 0 && regOk limit i.a n) then
      some ⟨(if i.imm then [] else regRun i.a n), regRun i.d n, [], 0⟩
    else none
  | 0x59 =>
    if bits i.mod 19 16 == 0 && i.a == 0 && i.b == 0 && i.c == 0 && regOk limit i.d 1 then
      some ⟨[i.d], [i.d], [], 0⟩
    else none
  | 0x5A =>
    if decide (i.mod < 6) && i.a == 0 && i.b == 0 && i.c == 0 && regOk limit i.d 1 then some ⟨[], [i.d], [], 0⟩ else none
  | 0x5B =>
    if decide (i.mod < 3 ∧ i.a < 8) && i.b == 0 && i.c == 0 && regOk limit i.d 1 then some ⟨[], [i.d], [i.a], 0⟩ else none
  | 0x5C =>
    if [0, 2].contains i.ty && immOk i && i.c == 0 && regOk limit i.d n && regOk limit i.a n
        && (i.imm || regOk limit i.b 1) then
      some ⟨regRun i.a n ++ (if i.imm then [] else [i.b]), regRun i.d n, [], 0⟩
    else none
  | _ => none

/-- Bytes and registers of an access size code (Table 5-10). -/
def accBytes (s : Nat) : Nat := 2 ^ s
def accRegs (s : Nat) : Nat := if s = 4 then 4 else if s = 3 then 2 else 1

/-- Table 5-10's instructions. -/
def memInfo (limit : Nat) (i : CoreInst) : Option OpInfo :=
  let sz := bits i.mod 2 0
  let load := i.op == 0x60 || i.op == 0x62
  let an := if i.op = 0x62 ∨ i.op = 0x63 then 2 else 1
  if decide (sz < 5) && (!bit i.mod 3 || (load && decide (sz < 2))) && bits i.mod 19 16 == 0 && i.c == 0
      && regOk limit i.a an && (if load then i.b == 0 && regOk limit i.d (accRegs sz)
        else i.d == 0 && regOk limit i.b (accRegs sz)) then
    some
      { reads := regRun i.a an ++ (if load then [] else regRun i.b (accRegs sz))
        dests := if load then regRun i.d (accRegs sz) else []
        preds := []
        unit := 2 }
  else none

/-- Registers of an atomic's type (0 u32, 1 s32, 2 u64, 3 f32, 4 f64). -/
def atomRegs (t : Nat) : Nat := if t = 2 ∨ t = 4 then 2 else 1

/-- Table 5-4's atomics: operation, type, order, scope and no-return of the modifier. -/
def atomInfo (limit : Nat) (i : CoreInst) : Option OpInfo :=
  let op := bits i.mod 3 0
  let t := bits i.mod 6 4
  let nr := bit i.mod 11
  let n := atomRegs t
  let an := if i.op = 0x78 then 2 else 1
  if decide (op < 8 ∧ t < 5) && (decide (t < 3) || op == 0 || op == 6)
      && (!(op == 3 || op == 4 || op == 5) || t == 0 || t == 2)
      && bits i.mod 19 12 == 0 && (if nr then i.d == 0 else regOk limit i.d n) && regOk limit i.a an && regOk limit i.b n
      && (if op = 7 then regOk limit i.c n else i.c == 0) then
    some
      { reads := regRun i.a an ++ regRun i.b n ++ (if op = 7 then regRun i.c n else [])
        dests := if nr then [] else regRun i.d n
        preds := []
        unit := 2 }
  else none

/-- The remaining rows of Tables 5-4, 5-11, 10-2 and 13-2. -/
def asyncInfo (limit : Nat) (i : CoreInst) : Option OpInfo :=
  match i.op with
  | 0x70 => if i.d == 0 && i.a == 0 && i.b == 0 && i.c == 0 && decide (i.mod < 4) then some ⟨[], [], [], 2⟩ else none
  | 0x74 => if i.d == 0 && i.a == 0 && i.b == 0 && i.c == 0 && decide (i.mod < 16) then some ⟨[], [], [], 3⟩ else none
  | 0x80 =>
    if decide (i.mod < 4) && regOk limit i.d 1 && regOk limit i.a 1 && regOk limit i.b 2 && regOk limit i.c 1 then
      some ⟨[i.a, i.b, i.b + 1, i.c, i.d], [], [], 2⟩
    else none
  | 0x81 =>
    if i.mod == 0 && i.d == 0 && i.c == 0 && regOk limit i.a 1 && regOk limit i.b 1 then some ⟨[i.a, i.b], [], [], 2⟩ else none
  | 0x88 | 0x89 | 0x8A =>
    if i.mod == 0 && i.d == 0 && i.b == 0 && i.c == 0 && regOk limit i.a 1 then some ⟨[i.a], [], [], 2⟩ else none
  | 0x8C =>
    if decide (i.mod < 16) && i.c == 0 && regOk limit i.d 1 && regOk limit i.a 1 && regOk limit i.b 1 then
      some ⟨[i.a, i.b, i.d], [], [], 2⟩
    else none
  | 0x8D =>
    if decide (i.mod < 16) && i.b == 0 && i.c == 0 && regOk limit i.d 1 && regOk limit i.a 1 then
      some ⟨[i.a, i.d], [], [], 2⟩
    else none
  | 0x90 | 0x91 | 0x92 | 0x93 | 0x94 | 0x95 =>
    if i.mod == 0 && i.b == 0 && i.c == 0 && regOk limit i.d 1 && regOk limit i.a 1 then some ⟨[i.a, i.d], [], [], 2⟩ else none
  | 0x96 =>
    if i.mod == 0 && i.a == 0 && i.b == 0 && i.c == 0 && regOk limit i.d 1 then some ⟨[i.d], [], [], 2⟩ else none
  | 0xA0 =>
    if i.b == 0 && i.c == 0 && decide (i.d * 256 + i.a < 8192) && (i.pred != 7 || (i.d == 0 && i.a == 0)) then
      some ⟨[], [], [], 3⟩
    else none
  | 0xA1 => if i.pred == 7 && i.a == 0 && i.b == 0 && i.c == 0 && regOk limit i.d 1 then some ⟨[], [i.d], [], 3⟩ else none
  | 0xA2 =>
    if i.pred == 7 && i.mod == 0 && i.d == 0 && i.b == 0 && i.c == 0 && regOk limit i.a 1 then some ⟨[i.a], [], [], 3⟩ else none
  | 0xA3 | 0xA4 =>
    if i.mod == 0 && i.d == 0 && i.a == 0 && i.b == 0 && i.c == 0 then some ⟨[], [], [], 3⟩ else none
  | _ => none

/-- What an instruction reads and writes, or none when it is MALFORMED (R202); `limit` is the grid's registers per thread.
The guard predicate is read too. -/
def opInfo (limit : Nat) (i : CoreInst) : Option OpInfo :=
  let o :=
    match aluRow i.op with
    | some row => aluInfo limit row i
    | none =>
      if 0x48 ≤ i.op ∧ i.op ≤ 0x5C then moveInfo limit i
      else if 0x60 ≤ i.op ∧ i.op ≤ 0x63 then memInfo limit i
      else if i.op = 0x78 ∨ i.op = 0x79 then atomInfo limit i
      else asyncInfo limit i
  o.map (fun r => { r with preds := r.preds ++ [i.pred] })

/-! ## Registers and predicates of a thread -/

/-- Register `r` of a lane. -/
def Group.reg (g : Group) (lane r : Nat) : Nat := NMap.get g.regs (lane * 256 + r)

/-- The value of an operand of `n` registers, low register first (R183, R4). -/
def Group.regN (g : Group) (lane r : Nat) : Nat → Nat
  | 0 => 0
  | n + 1 => g.reg lane r + 2 ^ 32 * Group.regN g lane (r + 1) n

/-- Write an operand of `n` registers. -/
def Group.setRegN (g : Group) (lane r : Nat) : Nat → Nat → Group
  | 0, _ => g
  | n + 1, v =>
    Group.setRegN { g with regs := NMap.set g.regs (lane * 256 + r) (v % 2 ^ 32) } lane (r + 1) n (v / 2 ^ 32)

/-- Predicate `p` of a lane; p7 always reads true. -/
def Group.predBit (g : Group) (lane p : Nat) : Bool :=
  if p ≥ 7 then true else (g.preds.getD p 0).getLsbD lane

/-- Write predicate `p`; a write to p7 is ignored. -/
def Group.setPred (g : Group) (lane p : Nat) (v : Bool) : Group :=
  { g with preds := modNth g.preds p (fun m => if v then m ||| (1#32 <<< lane) else m &&& ~~~(1#32 <<< lane)) }

/-- The lanes of a mask, in increasing order. -/
def lanes (m : BitVec 32) : List Nat := (List.range 32).filter (fun i => m.getLsbD i)

/-- The active threads whose predicate lets the instruction execute (Table 5-3). -/
def Group.actMask (g : Group) (i : CoreInst) : BitVec 32 :=
  let p := if i.pred = 7 then BitVec.allOnes 32 else g.preds.getD i.pred 0
  g.mask &&& (if i.pneg then ~~~p else p)

/-- The value of an immediate B for a type (R210): sign-extended for an integer type, a BF16 value converted exactly to a
floating-point type. -/
def immValue (i : CoreInst) : Nat :=
  let v := bits i.mod 15 0
  match i.ty with
  | 4 => Num.round Num.fp32 (Num.decode Num.bf16 v)
  | 5 => Num.round Num.fp64 (Num.decode Num.bf16 v)
  | t => ofSigned (32 * tyRegs t) (toSigned 16 v)

/-- Source B of an instruction with the common layout. -/
def Group.srcB (g : Group) (i : CoreInst) (lane : Nat) : Nat :=
  if i.imm then immValue i else g.regN lane i.b (tyRegs i.ty)

/-- The signed offset of a Table 5-10 access, in bytes. -/
def memOffset (i : CoreInst) : Int := toSigned 12 (bits i.mod 15 4) * (accBytes (bits i.mod 2 0) : Nat)

/-- The effective address of an access: A plus the offset, in the width of A's registers (R210; log entry 8). -/
def Group.effAddr (g : Group) (i : CoreInst) (lane : Nat) : Nat :=
  let an := if i.op = 0x62 ∨ i.op = 0x63 then 2 else 1
  ofSigned (32 * an) ((g.regN lane i.a an : Int) + memOffset i)

end Sys2Proof.Machine
end

