-- ==== Sys2Proof/Machine/Groups.lean ====
section
/-! DEFINITION. Thread groups: which group issues (R178 to R181), the scoreboard and collectors (R185 to R188), divergence
and reconvergence (R189 to R191), barriers (R192 to R195, R702), and context kill (R203 to R209). -/

namespace Sys2Proof.Machine

open Sys2Proof

def CoreState.group? (c : CoreState) (g : Gid) : Option Group := c.groups.find? (fun x => x.gid == g)
def CoreState.block? (c : CoreState) (id : Nat) : Option Block := c.blocks.find? (fun b => b.id == id)
def Sys.onGroup (s : Sys) (g : Gid) (f : Group → Group) : Sys :=
  s.onCore (fun c => { c with groups := c.groups.map (fun x => if x.gid == g then f x else x) })
def Sys.onBlock (s : Sys) (id : Nat) (f : Block → Block) : Sys :=
  s.onCore (fun c => { c with blocks := c.blocks.map (fun b => if b.id == id then f b else b) })

/-- Whether the context of a ring is being killed (R204). -/
def Sys.dying (s : Sys) (p ring : Nat) : Bool := s.core.kills.any (fun k => k.part == p && k.ring == ring)

def maskCount (m : BitVec 32) : Nat := (lanes m).length

/-! ## Faults and kills -/

/-- Count a core fault by code (0x3020 sub 0x03 to 0x0A). -/
def CoreState.countFault (c : CoreState) (code : Nat) : CoreState :=
  if 0x0101 ≤ code ∧ code ≤ 0x0108 then { c with nFaults := addAt c.nFaults (code - 0x0101) 1 } else c

/-- A fault of a context starts its kill; one already being killed counts a suppressed fault (R203, R204, R207). -/
def Sys.killContext (s : Sys) (p ring code source : Nat) (detail : List Byte) : Sys :=
  s.onCore (fun c =>
    let c := c.countFault code
    if s.dying p ring then { c with nSuppressed := c.nSuppressed + 1 }
    else { c with kills := c.kills ++ [⟨p, ring, code, source, detail, false⟩], nKills := c.nKills + 1 })

/-- The detail of a core fault (Table 16-7). -/
def coreDetail (g : Gid) (ring cmd pc wait : Nat) : List Byte :=
  [BitVec.ofNat 8 g.quarter, BitVec.ofNat 8 g.slot, BitVec.ofNat 8 ring, BitVec.ofNat 8 wait] ++ natLe 4 cmd ++ natLe 4 (8 * pc)
    ++ zeros 4

/-- A fault of a thread of a group (R203, R206). -/
def Sys.groupFault (s : Sys) (gr : Group) (code : Nat) : Sys :=
  match s.core.block? gr.block with
  | some b => s.killContext b.part b.ring code gr.gid.core (coreDetail gr.gid b.ring b.cmd gr.pc 0)
  | none => s

/-- A fault that work of a thread's earlier instruction, at `pc` of the code image, meets after its issue (R203, R206). -/
def Sys.lateFault (s : Sys) (gid : Gid) (block pc code : Nat) : Sys :=
  match s.core.block? block with
  | some b => s.killContext b.part b.ring code gid.core (coreDetail gid b.ring b.cmd pc 0)
  | none => s

/-! ## Divergence -/

/-- The threads of parked paths (R194). -/
def Group.parkedMask (g : Group) : BitVec 32 := g.parked.foldl (fun m p => m ||| p.mask) 0

/-- The topmost entry that holds a thread which has neither exited nor parked; its parked threads stay in the entry
(DEDUCED from R194; log entry 9). -/
def findEntry (parked live : BitVec 32) : List Path → Option (Path × List Path)
  | [] => none
  | e :: t =>
    let m := e.mask &&& live
    let rest := m &&& parked
    let keep := fun (l : List Path) => if rest = 0 then l else { e with mask := rest } :: l
    if m &&& ~~~parked ≠ 0 then some ({ e with mask := m &&& ~~~parked }, keep t)
    else
      match findEntry parked live t with
      | none => none
      | some (x, t') => some (x, keep t')

/-- Whenever the executing path has no thread left or has reached its stop address, the group pops the top entry (R189,
R191, R194); a group whose threads have all parked waits. -/
def Group.settleN : Nat → Group → Group
  | 0, g => g
  | n + 1, g =>
    if g.mask ≠ 0 ∧ g.stop ≠ some g.pc then g
    else
      match findEntry g.parkedMask g.live g.stack with
      | some (e, t) => Group.settleN n { g with pc := e.addr, mask := e.mask, stop := e.stop, stack := t }
      | none => if g.mask = 0 ∧ g.live ≠ 0 then { g with wait := .join } else g

def Group.settle (g : Group) : Group := Group.settleN (g.stack.length + 1) g

/-- The stack holds at most 32 entries (Table 5-1). -/
def stackDepth : Nat := 32

/-- R189: a diverging branch pushes the reconvergence entry and the fall-through entry and takes the taken path. -/
def Group.diverge (g : Group) (taken : BitVec 32) (target next reconv : Nat) : Group :=
  { g with
    pc := target
    mask := taken
    stack := ⟨next, g.mask &&& ~~~taken, some reconv⟩ :: ⟨reconv, g.mask, g.stop⟩ :: g.stack
    stop := some reconv }

/-! ## Barriers -/

def Sys.blockGroups (s : Sys) (id : Nat) : List Group := s.core.groups.filter (fun g => g.block == id)
/-- Threads of a block arrived at its barrier, and threads that have not exited (R192). -/
def Sys.arrived (s : Sys) (id : Nat) : Nat := ((s.blockGroups id).map (fun g => maskCount g.parkedMask)).sum
def Sys.expected (s : Sys) (id : Nat) : Nat := ((s.blockGroups id).map (fun g => maskCount g.live)).sum

/-- Parked paths that wait at one address under one stop address form one path; the list is kept in rising address order
(R702). -/
def mergePath : List Path → Path → List Path
  | [], p => [p]
  | q :: t, p =>
    if q.addr = p.addr ∧ q.stop = p.stop then { q with mask := q.mask ||| p.mask } :: t
    else if p.addr < q.addr then p :: q :: t
    else q :: mergePath t p

def Group.resumePaths (g : Group) : List Path := g.parked.foldl mergePath []

/-- R702: the group pushes its resumed paths, the highest address first, and pops the top entry. -/
def Group.resume (g : Group) : Group :=
  if g.parked = [] then g
  else
    ({ g with stack := g.resumePaths ++ g.stack, parked := [], wait := .none, reported := false, mask := 0 } : Group).settle

/-- A barrier whose arrived count equals the expected count completes: every waiting group resumes; a push beyond the
stack's depth is a RECONVERGENCE_OVERFLOW fault (R190, R192, R193, R702). -/
def Sys.completeBarrier (s : Sys) (id : Nat) : Sys :=
  if s.arrived id = 0 ∨ s.arrived id ≠ s.expected id then s
  else
    match (s.blockGroups id).find? (fun g => decide (g.stack.length + g.resumePaths.length > stackDepth)) with
    | some g => s.groupFault g 0x0107
    | none =>
      (s.onCore (fun c => { c with groups := c.groups.map (fun g => if g.block == id then g.resume else g) })).onBlock id
        (fun b => { b with barrier := none })

/-! ## Issue -/

/-- What a group's next instruction is: none past the end of the code image. -/
def Sys.nextInst (s : Sys) (g : Group) : Option CoreInst :=
  match s.core.block? g.block with
  | some b => (b.code[g.pc]?).map CoreInst.ofWord
  | none => none

def Sys.limitOf (s : Sys) (g : Group) : Nat :=
  match s.core.block? g.block with
  | some b => b.regsPer
  | none => 0

/-- The operands of a group's next instruction, none when it is MALFORMED or lies past the image. -/
def Sys.nextInfo (s : Sys) (g : Group) : Option OpInfo :=
  match s.nextInst g with
  | some i => if definedOps.contains i.op then opInfo (s.limitOf g) i else none
  | none => none

/-- No register or predicate of an instruction awaits a result (R179). -/
def hazardFree (g : Group) (o : OpInfo) : Bool :=
  (o.reads ++ o.dests ++ (o.preds.filter (fun p => decide (p < 7))).map (fun p => 256 + p)).all (fun r => !g.busy.contains r)

/-- Whether a group could issue in this cycle, its unit apart (R179, R204). -/
def Sys.canIssue (s : Sys) (g : Group) : Bool :=
  s.coreRuns && g.wait == .none && g.mask != 0
    && (match s.core.block? g.block with
        | some b => !s.dying b.part b.ring
        | none => false)
    && decide ((s.core.collectors.filter (fun c => c.gid.core == g.gid.core && c.gid.quarter == g.gid.quarter)).length < 4)
    && (match s.nextInfo g with
        | some o => hazardFree g o
        | none => true)

/-- Whether group `a` goes before group `b` of the same quarter (R180, 0x3040). -/
def Sys.before (s : Sys) (a b : Group) : Bool :=
  if s.cfgN 0x3040 1 = 1 then decide (a.block < b.block ∨ (a.block = b.block ∧ a.gidx < b.gidx))
  else decide (a.lastIssue < b.lastIssue ∨ (a.lastIssue = b.lastIssue ∧ a.gid.slot < b.gid.slot))

/-- An issuing instruction: its group and block as they stand, its fields and operands, and the lanes that execute it. -/
structure Issue where
  grp : Group
  blk : Block
  inst : CoreInst
  info : OpInfo
  act : List Nat
deriving DecidableEq, Repr

/-- Whether an instruction of a row can issue now, faults, or issues. -/
inductive Ready where
  | no
  | fault (g : Group) (code : Nat)
  | go (i : Issue)
deriving DecidableEq, Repr

/-- The issue of the next instruction of group `gid` as the row of opcode `op` (R178, R179, R202); which group of the quarter
issues is Dev.picked's. A group whose next instruction has another defined opcode does not issue under this row. -/
def Sys.prepare (s : Sys) (op : Nat) (gid : Gid) : Ready :=
  match s.core.group? gid with
  | none => .no
  | some g =>
    if s.canIssue g then
      match s.core.block? g.block, s.nextInst g with
      | none, _ => .no
      | some _, none => .fault g 0x0103
      | some b, some i =>
        if definedOps.contains i.op then
          if i.op = op then
            match opInfo b.regsPer i with
            | none => .fault g 0x0103
            | some o => .go ⟨g, b, i, o, lanes (g.actMask i)⟩
          else .no
        else .fault g 0x0103
    else .no

/-- Remove repeated registers: each is read once (R186). -/
def dedup (l : List Nat) : List Nat := l.foldl (fun acc x => if acc.contains x then acc else acc ++ [x]) []

/-- R178, R185: the instruction enters a collector, its destinations await their result, and the group stands at the next
instruction. -/
def Sys.book (s : Sys) (i : Issue) : Sys :=
  let s := s.onGroup i.grp.gid (fun g =>
    { g with pc := g.pc + 1, busy := g.busy ++ i.info.dests.filter (fun r => !g.busy.contains r), lastIssue := s.core.nextId + 1 })
  s.onCore (fun c => { c with
    nextId := c.nextId + 1
    collectors := c.collectors ++ [⟨i.grp.gid, dedup i.info.reads, i.info.dests, i.info.unit, []⟩] })

/-- A group frees its slot and registers when all its threads have exited and its results have been written (R191). -/
def Sys.reap (s : Sys) (gid : Gid) : Sys :=
  s.onCore (fun c => { c with
    groups := c.groups.filter (fun g =>
      !(g.gid == gid && g.live == 0 && g.busy == [] && !c.collectors.any (fun k => k.gid == gid))) })

/-- After the instruction: reconvergence, and the slot of a finished group. -/
def Sys.settle (s : Sys) (gid : Gid) : Sys := (s.onGroup gid Group.settle).reap gid

/-- Issue an instruction of opcode `op` whose effect touches no Shofel memory. -/
def issueSys (op : Nat) (gid : Gid) (body : Issue → Sys → Sys) (s : Sys) : Sys :=
  match s.prepare op gid with
  | .no => s
  | .fault g code => s.groupFault g code
  | .go i => (body i (s.book i)).settle gid

/-- Issue an instruction of opcode `op` that may be held by a condition of its own, and may fault: `ok` says whether its
unit accepts it, and `check` names the fault. -/
def issueDev (op : Nat) (gid : Gid) (ok : Issue → Dev → Bool) (check : Issue → Dev → Option Nat) (body : Issue → Dev → Dev)
    (d : Dev) : Dev :=
  match d.sys.prepare op gid with
  | .no => d
  | .fault g code => liftSys (fun s => s.groupFault g code) d
  | .go i =>
    if ok i d then
      match check i d with
      | some code => liftSys (fun s => s.groupFault i.grp code) d
      | none => liftSys (fun s => s.settle gid) (body i (liftSys (fun s => s.book i) d))
    else d

/-- Values of the instruction of a group that writes `dest`: they wait with it until its result is written (R188). -/
def Sys.hold (s : Sys) (gid : Gid) (dest : Nat) (vals : List (Nat × Nat)) : Sys :=
  s.onCore (fun c => { c with
    collectors := c.collectors.map (fun k => if k.gid == gid && k.dests.contains dest then { k with vals := k.vals ++ vals } else k)
    results := c.results.map (fun k => if k.gid == gid && k.dests.contains dest then { k with vals := k.vals ++ vals } else k) })

/-- The registers of an operand of `n` registers at `r` of a lane, with its value, low register first. -/
def regVals (lane r n v : Nat) : List (Nat × Nat) := (List.range n).map (fun j => (lane * 256 + r + j, v / 2 ^ (32 * j) % 2 ^ 32))

/-- A written result: its registers and predicates take their values. -/
def Group.take (g : Group) (vals : List (Nat × Nat)) : Group :=
  runAll (fun kv g =>
    if kv.1 < 8192 then { g with regs := NMap.set g.regs kv.1 kv.2 }
    else { g with preds := modNth g.preds (kv.1 - 8192) (fun _ => BitVec.ofNat 32 kv.2) }) vals g

/-- A group's own effect, lane by lane, for the lanes that execute the instruction: what its destinations will hold. -/
def perLane (i : Issue) (f : Nat → Group → Group) (s : Sys) : Sys :=
  let g := runAll f i.act i.grp
  match i.info.dests with
  | [] => s
  | r :: _ => s.hold i.grp.gid r (i.info.dests.flatMap (fun d =>
      if d < 256 then i.act.map (fun l => (l * 256 + d, g.reg l d))
      else [(8192 + (d - 256), (g.preds.getD (d - 256) 0).toNat)]))

end Sys2Proof.Machine
end

