-- ==== Sys2Proof/Machine/CoreStore.lean ====
section
/-! DEFINITION. The core store (R220 to R222), arrival counters (R244, R246), and the order of a thread's accesses: core store accesses
that have not yet taken effect, and Shofel accesses not yet served or accepted (R226 to R236). -/

namespace Sys2Proof.Machine

open Sys2Proof

/-! ## Core store (R220 to R222) -/

/-- Whether `n` bytes at a core store address lie in the block's allocation (R220). -/
def Block.csOk (b : Block) (a n : Nat) : Bool := decide (a + n ≤ b.csBytes)
def Block.csRead (b : Block) (a n : Nat) : List Byte := cellsRead b.store a n
def Block.csWrite (b : Block) (a : Nat) (bs : List Byte) : Block := { b with store := cellsWrite b.store a bs }

def Sys.blk (s : Sys) (id : Nat) : Option Block := s.core.block? id
def Sys.csRead (s : Sys) (id a n : Nat) : List Byte :=
  match s.blk id with
  | some b => b.csRead a n
  | none => zeros n
def Sys.csWrite (s : Sys) (id a : Nat) (bs : List Byte) : Sys := s.onBlock id (fun b => b.csWrite a bs)
/-- A 32-bit word of a block's core store. -/
def Sys.csWord (s : Sys) (id a : Nat) : Nat := leNat (s.csRead id a 4)

/-- The counter conditions of R239: 4-byte aligned and inside the allocation. -/
def Block.counterOk (b : Block) (a : Nat) : Bool := a % 4 == 0 && b.csOk a 4

/-- Whether (counter − target) modulo 2³², read as signed, is at least 0 (R246). -/
def reached (counter target : Nat) : Bool := decide ((counter + 2 ^ 32 - target % 2 ^ 32) % 2 ^ 32 < 2 ^ 31)

/-- The groups of a block whose `arr.wait` is satisfied continue (R246). -/
def Sys.wakeArr (s : Sys) (id : Nat) : Sys :=
  s.onCore (fun c => { c with
    groups := c.groups.map (fun g =>
      match g.wait with
      | .arr conds =>
        if g.block = id ∧ conds.all (fun x => reached (s.csWord id x.2.1) x.2.2) = true then
          { g with wait := .none, reported := false }
        else g
      | _ => g) })

/-- A write of core store bytes, with the waits it satisfies. -/
def Sys.csStore (s : Sys) (id a : Nat) (bs : List Byte) : Sys := (s.csWrite id a bs).wakeArr id

/-- Add 1 to an arrival counter, atomically at block scope (R244). -/
def Sys.bumpCounter (s : Sys) (id a : Nat) : Sys := s.csStore id a (natLe 4 (s.csWord id a + 1))

def overlaps (a n b m : Nat) : Bool := decide (a < b + m ∧ b < a + n)

/-! ## Atomic operations (R197 to R199) -/

/-- The new value an atomic leaves: operation (0 add, 1 min, 2 max, 3 and, 4 or, 5 xor, 6 exch, 7 cas), type (0 u32, 1 s32,
2 u64, 3 f32, 4 f64), old value, operand, compare value. -/
def atomNew (op t old b c : Nat) : Nat :=
  let w := if t = 2 ∨ t = 4 then 64 else 32
  let sgn (x : Nat) : Int := if t = 1 then toSigned w x else (x % 2 ^ w : Nat)
  match op with
  | 0 => if t = 3 then Num.addF Num.fp32 old b else if t = 4 then Num.addF Num.fp64 old b else (old + b) % 2 ^ w
  | 1 =>
    if t = 3 then Num.minF Num.fp32 old b else if t = 4 then Num.minF Num.fp64 old b
    else if sgn b < sgn old then b else old
  | 2 =>
    if t = 3 then Num.maxF Num.fp32 old b else if t = 4 then Num.maxF Num.fp64 old b
    else if sgn old < sgn b then b else old
  | 3 => old &&& b
  | 4 => old ||| b
  | 5 => old ^^^ b
  | 6 => b
  | _ => if old = c then b else old

/-- The location's value after the lanes' updates in lane order, and the old value each lane receives (R197). -/
def AtomWork.apply (w : AtomWork) (old : Nat) : Nat × List (Nat × Nat) :=
  w.args.foldl (fun (x : Nat × List (Nat × Nat)) a => (atomNew w.op w.ty x.1 a.2.1 a.2.2, x.2 ++ [(a.1, x.1)])) (old, [])

/-- The lanes' old values wait with their instruction. -/
def Sys.holdAtom (s : Sys) (gid : Gid) (w : AtomWork) (olds : List (Nat × Nat)) : Sys :=
  match w.dest with
  | some d => s.hold gid d (olds.flatMap (fun x => regVals x.1 d (atomRegs w.ty) x.2))
  | none => s

/-! ## Core store accesses that have not yet taken effect (R226, R227, R229)

A core store access takes effect at issue or, since other threads see accesses of a thread to different locations in no order, at a
later moment that the spec leaves open: before the thread's next access of its bytes, its next fence, release or barrier, before its
result is written, and otherwise at some access of the block (log entry 41). -/

/-- A loaded value with the extension of Table 5-10. -/
def extend (sext : Bool) (n v : Nat) : Nat := if sext then ofSigned 32 (toSigned (8 * n) v) else v

/-- An access takes effect. -/
def csDo (a : CsAcc) (s : Sys) : Sys :=
  let old := leNat (s.csRead a.block a.addr a.size)
  match a.work with
  | .load sx d => s.hold a.gid d (a.lanes.flatMap (fun l => regVals l d (max 1 (a.size / 4)) (extend sx a.size old)))
  | .store data => s.csStore a.block a.addr data
  | .atom w => ((s.csStore a.block a.addr (natLe a.size (w.apply old).1))).holdAtom a.gid w (w.apply old).2

def CsAcc.of (a : CsAcc) (gid : Gid) (lns : List Nat) (block : Nat) : Bool :=
  a.block == block && a.gid == gid && a.lanes.any (fun l => lns.contains l)

/-- Whether an access must take effect before a later one: the same thread's to the same bytes, or one that a fence has put before
accesses of its group. -/
def CsAcc.before (a b : CsAcc) : Bool :=
  a.block == b.block && overlaps a.addr a.size b.addr b.size && a.gid == b.gid && (a.ordered || a.lanes.any (fun l => b.lanes.contains l))

/-- The accesses that `p` picks by place, with those that must take effect before them, and the rest. -/
def csDue (p : Nat → CsAcc → Bool) : Nat → List CsAcc → List CsAcc × List CsAcc
  | _, [] => ([], [])
  | k, a :: t =>
    let r := csDue p (k + 1) t
    if p k a || r.1.any (fun b => a.before b) then (a :: r.1, r.2) else (r.1, a :: r.2)

/-- The picked accesses take effect, in order of issue. -/
def Sys.csRun (s : Sys) (p : Nat → CsAcc → Bool) : Sys :=
  let x := csDue p 0 s.core.csPend
  runAll csDo x.1 (s.onCore (fun c => { c with csPend := x.2 }))

/-- Accesses of threads of a block's group take effect. -/
def Sys.csOwn (s : Sys) (gid : Gid) (lns : List Nat) (block : Nat) : Sys := s.csRun (fun _ a => a.of gid lns block)

/-- A fence or release of threads: at group scope their stores stand before later accesses of the group, else they take effect; their
loads and atomics take effect (R231, R233, R235). -/
def Sys.csFence (s : Sys) (gid : Gid) (lns : List Nat) (block scope : Nat) : Sys :=
  if scope = 0 then
    (s.csRun (fun _ a => a.of gid lns block && (match a.work with
      | .store _ => false
      | _ => true))).onCore (fun c => { c with
        csPend := c.csPend.map (fun a => if a.of gid lns block then { a with ordered := true } else a) })
  else s.csOwn gid lns block

/-- New accesses of a group issue: each access of the block, and each new one, takes effect now or later; those that `now` names do. -/
def Sys.csEnter (s : Sys) (block : Nat) (now : Bool) (as : List CsAcc) : Sys :=
  let n := s.core.csPend.length
  let ctr := s.freeCtr
  ((s.drew (n + as.length)).onCore (fun c => { c with csPend := c.csPend ++ as })).csRun (fun k a =>
    a.block == block && (Config.freeBool (ctr + k) || (now && decide (n ≤ k))))

/-- A core cycle: any access of the core may take effect. -/
def Sys.csSome (s : Sys) (core : Nat) : Sys :=
  let ctr := s.freeCtr
  (s.drew s.core.csPend.length).csRun (fun k a => a.gid.core == core && Config.freeBool (ctr + k))

/-- A result is about to be written: the loads and atomics it comes from take effect. -/
def Sys.csResult (s : Sys) (gid : Gid) (dests : List Nat) : Sys :=
  s.csRun (fun _ a => a.gid == gid && (match a.work with
    | .load _ d => dests.contains d
    | .atom w => w.dest.any (fun d => dests.contains d)
    | .store _ => false))

/-! ## Shofel accesses of a thread not yet performed -/

/-- A pending store that overlaps `n` bytes of a stack. -/
def PStore.hits (x : PStore) (st a n : Nat) : Bool := x.stack == st && overlaps x.addr x.data.length a n

def PStore.of (x : PStore) (gid : Gid) (lane block : Nat) : Bool := x.gid == gid && x.lanes.contains lane && x.block == block

/-- Whether an access of a thread must follow a pending store: its own (R226), or one a fence, release, acquire or barrier has
ordered before it at group or block scope (R231, R233, R236). -/
def PStore.bars (x : PStore) (gid : Gid) (lane block : Nat) : Bool :=
  x.block == block && ((x.gid == gid && (x.lanes.contains lane || decide (x.vis ≥ 1))) || decide (x.vis ≥ 2))

/-- No pending store bars an access of a thread to `n` bytes. -/
def Sys.clear (s : Sys) (gid : Gid) (lane block st a n : Nat) : Bool :=
  !s.core.stores.any (fun x => x.bars gid lane block && x.hits st a n)

/-- A thread's own loads have all been served and its atomics accepted; its stores and atomics accepted. -/
def Sys.loadsDone (s : Sys) (gid : Gid) (lane block : Nat) : Bool :=
  !s.core.loads.any (fun l => l.gid == gid && l.lane == lane) && !s.core.stores.any (fun x => x.of gid lane block && x.atom.isSome)
def Sys.storesDone (s : Sys) (gid : Gid) (lane block : Nat) : Bool := !s.core.stores.any (fun x => x.of gid lane block)

/-- A fence of device scope holds every later access of its thread until its earlier stores have been accepted (R231). -/
def Sys.devHeld (s : Sys) (gid : Gid) (lane block : Nat) : Bool :=
  s.core.stores.any (fun x => x.of gid lane block && decide (x.vis ≥ 3))

/-- A fence of device scope holds back a later access of one of an instruction's threads. -/
def fenceHeld (i : Issue) (d : Dev) : Bool := i.act.any (fun l => d.sys.devHeld i.grp.gid l i.blk.id)

/-- Order a thread's pending stores at a scope: 1 group, 2 block, 3 device. -/
def Sys.raiseVis (s : Sys) (gid : Gid) (lns : List Nat) (block vis : Nat) : Sys :=
  s.onCore (fun c => { c with
    stores := c.stores.map (fun x =>
      if x.gid == gid && x.block == block && x.lanes.any (fun l => lns.contains l) then { x with vis := max x.vis vis } else x) })

/-- Whether a lane already waits for the same line: a later load of the thread then waits with it (R227). -/
def Sys.waitsLine (s : Sys) (gid : Gid) (lane st line : Nat) : Bool :=
  s.core.loads.any (fun l => l.gid == gid && l.lane == lane && l.stack == st && l.addr / 64 == line)

/-- Whether a result still waits for bytes of a load, or for an atomic. -/
def Sys.loading (s : Sys) (gid : Gid) (dests : List Nat) : Bool :=
  s.core.loads.any (fun l => l.gid == gid && dests.contains l.dest)
    || s.core.stores.any (fun x => x.gid == gid && x.atom.any (fun w => w.dest.any (fun d => dests.contains d)))

end Sys2Proof.Machine
end

