-- ==== Sys2Proof/Machine/Alu.lean ====
section
/-! DEFINITION. Integer, floating-point, special-function, conversion, predicate, move and control instructions
(Tables 5-8, 5-9 and 5-11), and the cycles of the operand collectors (R185 to R188). -/

namespace Sys2Proof.Machine

open Sys2Proof

/-- The width of a type in bits. -/
def tyBits (t : Nat) : Nat := 32 * tyRegs t
def tySigned (t : Nat) : Bool := t == 1 || t == 3
def tyFloat (t : Nat) : Bool := t == 4 || t == 5
def tyFmt (t : Nat) : Num.Fmt := if t = 5 then Num.fp64 else Num.fp32
/-- An operand read as the integer its type says it is. -/
def tyInt (t x : Nat) : Int := if tySigned t then toSigned (tyBits t) x else ((x % 2 ^ tyBits t : Nat) : Int)
/-- An integer result, wrapped to its type's width (Table 5-8). -/
def wrap (t : Nat) (x : Int) : Nat := ofSigned (tyBits t) x

/-! ## Operations of Table 5-8: type, A, B, C to D -/

def addOp (t a b _c : Nat) : Nat := if tyFloat t then Num.addF (tyFmt t) a b else wrap t ((a : Int) + b)
def subOp (t a b _c : Nat) : Nat := if tyFloat t then Num.subF (tyFmt t) a b else wrap t ((a : Int) - b)
def mulOp (t a b _c : Nat) : Nat := if tyFloat t then Num.mulF (tyFmt t) a b else wrap t ((a : Int) * b)
def mulhiOp (t a b _c : Nat) : Nat := wrap t (tyInt t a * tyInt t b / (2 ^ tyBits t : Nat))
def madOp (t a b c : Nat) : Nat := wrap t ((a : Int) * b + c)
def fmaOp (t a b c : Nat) : Nat := Num.fmaF (tyFmt t) a b c
def minOp (t a b _c : Nat) : Nat := if tyFloat t then Num.minF (tyFmt t) a b else if tyInt t b < tyInt t a then b else a
def maxOp (t a b _c : Nat) : Nat := if tyFloat t then Num.maxF (tyFmt t) a b else if tyInt t a < tyInt t b then b else a
def andOp (_t a b _c : Nat) : Nat := a &&& b
def orOp (_t a b _c : Nat) : Nat := a ||| b
def xorOp (_t a b _c : Nat) : Nat := a ^^^ b
def notOp (t a _b _c : Nat) : Nat := 2 ^ tyBits t - 1 - a % 2 ^ tyBits t
def shlOp (t a b _c : Nat) : Nat := wrap t ((a : Int) * (2 ^ (b % tyBits t) : Nat))
def shrOp (t a b _c : Nat) : Nat := wrap t (tyInt t a / (2 ^ (b % tyBits t) : Nat))
/-- Set bits of the low `n` bits. -/
def popcount : Nat → Nat → Nat
  | 0, _ => 0
  | n + 1, x => x % 2 + popcount n (x / 2)
def popcOp (t a _b _c : Nat) : Nat := popcount (tyBits t) a
def clzOp (t a _b _c : Nat) : Nat :=
  let x := a % 2 ^ tyBits t
  if x = 0 then tyBits t else tyBits t - 1 - Nat.log2 x
def absOp (t a _b _c : Nat) : Nat :=
  if tyFloat t then a % (tyFmt t).signBit else wrap t ((tyInt t a).natAbs : Int)
def negOp (t a _b _c : Nat) : Nat :=
  if tyFloat t then (a + (tyFmt t).signBit) % (2 * (tyFmt t).signBit) else wrap t (-(a : Int))
def rcpOp (t a _b _c : Nat) : Nat := Num.divF (tyFmt t) (Num.round (tyFmt t) (Num.pow2 0)) a
def sqrtOp (t a _b _c : Nat) : Nat := Num.sqrtF (tyFmt t) a
def divOp (t a b _c : Nat) : Nat := Num.divF (tyFmt t) a b
def ex2Op (_t a _b _c : Nat) : Nat := Num.ex2F a
def lg2Op (_t a _b _c : Nat) : Nat := Num.lg2F a
def sinOp (_t a _b _c : Nat) : Nat := Num.sinF a
def cosOp (_t a _b _c : Nat) : Nat := Num.cosF a

/-- The effect of a Table 5-8 instruction on its group: D of each executing lane is the operation of its sources. `dn` is
D's register count, when it differs from the type's. -/
def aluLane (f : Nat → Nat → Nat → Nat → Nat) (dn : Nat → Nat) (i : Issue) (lane : Nat) (g : Group) : Group :=
  let t := i.inst.ty
  let a := g.regN lane i.inst.a (tyRegs t)
  let b := g.srcB i.inst lane
  let c := g.regN lane i.inst.c (tyRegs t)
  g.setRegN lane i.inst.d (dn t) (f t a b c)

def aluBody (f : Nat → Nat → Nat → Nat → Nat) (dn : Nat → Nat) (i : Issue) (s : Sys) : Sys := perLane i (aluLane f dn i) s
/-- An instruction of Table 5-8 whose D has its type's width. -/
def alu (op : Nat) (f : Nat → Nat → Nat → Nat → Nat) (gid : Gid) : Sys → Sys := issueSys op gid (aluBody f tyRegs)

def runAdd (g : Gid) : Dev → Dev := liftSys (alu 0x00 addOp g)
def runSub (g : Gid) : Dev → Dev := liftSys (alu 0x01 subOp g)
def runMul (g : Gid) : Dev → Dev := liftSys (alu 0x02 mulOp g)
def runMulhi (g : Gid) : Dev → Dev := liftSys (alu 0x03 mulhiOp g)
def runMad (g : Gid) : Dev → Dev := liftSys (alu 0x04 madOp g)
def runFma (g : Gid) : Dev → Dev := liftSys (alu 0x05 fmaOp g)
def runMin (g : Gid) : Dev → Dev := liftSys (alu 0x06 minOp g)
def runMax (g : Gid) : Dev → Dev := liftSys (alu 0x07 maxOp g)
def runAnd (g : Gid) : Dev → Dev := liftSys (alu 0x08 andOp g)
def runOr (g : Gid) : Dev → Dev := liftSys (alu 0x09 orOp g)
def runXor (g : Gid) : Dev → Dev := liftSys (alu 0x0A xorOp g)
def runNot (g : Gid) : Dev → Dev := liftSys (alu 0x0B notOp g)
def runShl (g : Gid) : Dev → Dev := liftSys (alu 0x0C shlOp g)
def runShr (g : Gid) : Dev → Dev := liftSys (alu 0x0D shrOp g)
def runPopc (g : Gid) : Dev → Dev := liftSys (issueSys 0x0E g (aluBody popcOp (fun _ => 1)))
def runClz (g : Gid) : Dev → Dev := liftSys (issueSys 0x0F g (aluBody clzOp (fun _ => 1)))
def runAbs (g : Gid) : Dev → Dev := liftSys (alu 0x10 absOp g)
def runNeg (g : Gid) : Dev → Dev := liftSys (alu 0x11 negOp g)
def runRcp (g : Gid) : Dev → Dev := liftSys (alu 0x40 rcpOp g)
def runSqrt (g : Gid) : Dev → Dev := liftSys (alu 0x41 sqrtOp g)
def runDiv (g : Gid) : Dev → Dev := liftSys (alu 0x42 divOp g)
def runEx2 (g : Gid) : Dev → Dev := liftSys (alu 0x43 ex2Op g)
def runLg2 (g : Gid) : Dev → Dev := liftSys (alu 0x44 lg2Op g)
def runSin (g : Gid) : Dev → Dev := liftSys (alu 0x45 sinOp g)
def runCos (g : Gid) : Dev → Dev := liftSys (alu 0x46 cosOp g)

/-! ## Table 5-9 -/

/-- The floating-point format of a conversion code, none for the integer codes (Table 7-1 and Table 5-9). -/
def cvtFmt (c : Nat) : Option Num.Fmt :=
  match c with
  | 0 => some Num.bf16
  | 1 => some Num.fp16
  | 2 => some Num.e4m3
  | 3 => some Num.e5m2
  | 4 => some Num.e3m2
  | 5 => some Num.e2m3
  | 6 => some Num.e2m1
  | 8 => some Num.fp32
  | 0xB => some Num.fp64
  | _ => none

/-- The value of a source of a conversion; a narrow value lies in the low bits of its register. -/
def cvtSource (c x : Nat) : Num.Val :=
  match cvtFmt c with
  | some f => Num.decode f (x % (2 * f.signBit))
  | none =>
    match c with
    | 7 => Num.ofInt (toSigned 8 x)
    | 9 => Num.ofInt (toSigned 32 x)
    | 0xA => Num.ofInt ((x % 2 ^ 32 : Nat) : Int)
    | 0xC => Num.ofInt (toSigned 64 x)
    | _ => Num.ofInt ((x % 2 ^ 64 : Nat) : Int)

/-- A value converted to a target code (R289, R291, R313). -/
def cvtTarget (c : Nat) (v : Num.Val) : Nat :=
  match cvtFmt c with
  | some f => Num.round f v
  | none =>
    match c with
    | 7 => (Num.convertInt8 v).1
    | 9 => Num.convertInt true 32 v
    | 0xA => Num.convertInt false 32 v
    | 0xC => Num.convertInt true 64 v
    | _ => Num.convertInt false 64 v

def cvtWidth (c : Nat) : Nat :=
  match cvtRegs c with
  | some n => n
  | none => 1

def cvtLane (i : Issue) (lane : Nat) (g : Group) : Group :=
  let sc := bits i.inst.mod 3 0
  let dc := bits i.inst.mod 7 4
  g.setRegN lane i.inst.d (cvtWidth dc) (cvtTarget dc (cvtSource sc (g.regN lane i.inst.a (cvtWidth sc))))
def runCvt (g : Gid) : Dev → Dev := liftSys (issueSys 0x48 g (fun i => perLane i (cvtLane i)))

def setpLane (i : Issue) (lane : Nat) (g : Group) : Group :=
  g.setPred lane i.inst.d (cmpHolds i.inst.c i.inst.ty (g.regN lane i.inst.a (tyRegs i.inst.ty)) (g.srcB i.inst lane))
def runSetp (g : Gid) : Dev → Dev := liftSys (issueSys 0x50 g (fun i => perLane i (setpLane i)))

def selpLane (i : Issue) (lane : Nat) (g : Group) : Group :=
  let n := tyRegs i.inst.ty
  g.setRegN lane i.inst.d n (if g.predBit lane i.inst.c then g.regN lane i.inst.a n else g.srcB i.inst lane)
def runSelp (g : Gid) : Dev → Dev := liftSys (issueSys 0x51 g (fun i => perLane i (selpLane i)))

/-- plog's operations: 0 and, 1 or, 2 xor, 3 not A. -/
def plogOp (op : Nat) (a b : Bool) : Bool :=
  match op with
  | 0 => a && b
  | 1 => a || b
  | 2 => a != b
  | _ => !a
def plogLane (i : Issue) (lane : Nat) (g : Group) : Group :=
  g.setPred lane i.inst.d (plogOp (bits i.inst.mod 1 0) (g.predBit lane i.inst.a) (g.predBit lane i.inst.b))
def runPlog (g : Gid) : Dev → Dev := liftSys (issueSys 0x52 g (fun i => perLane i (plogLane i)))

def movLane (i : Issue) (lane : Nat) (g : Group) : Group :=
  let n := tyRegs i.inst.ty
  g.setRegN lane i.inst.d n (if i.inst.imm then immValue i.inst else g.regN lane i.inst.a n)
def runMov (g : Gid) : Dev → Dev := liftSys (issueSys 0x58 g (fun i => perLane i (movLane i)))

def movhiLane (i : Issue) (lane : Nat) (g : Group) : Group :=
  g.setRegN lane i.inst.d 1 (bits i.inst.mod 15 0 * 2 ^ 16 + g.reg lane i.inst.d % 2 ^ 16)
def runMovhi (g : Gid) : Dev → Dev := liftSys (issueSys 0x59 g (fun i => perLane i (movhiLane i)))

/-- rdsr's values (Table 5-9); `cycles` is the core-cycle count since READY. -/
def rdsrValue (cycles sel lane : Nat) (g : Group) : Nat :=
  match sel with
  | 0 => lane
  | 1 => g.gidx
  | 2 => g.gid.quarter
  | 3 => g.gid.core
  | 4 => cycles % 2 ^ 32
  | _ => cycles / 2 ^ 32 % 2 ^ 32
def rdsrLane (cycles : Nat) (i : Issue) (lane : Nat) (g : Group) : Group :=
  g.setRegN lane i.inst.d 1 (rdsrValue cycles (bits i.inst.mod 3 0) lane g)
def runRdsr (g : Gid) : Dev → Dev := liftSys (issueSys 0x5A g (fun i s => perLane i (rdsrLane s.core.cycles i) s))

/-- vote over the active threads of the group (log entry 10: those of the active mask, whatever the instruction's own
predicate): 0 any, 1 all, 2 ballot. -/
def voteValue (op : Nat) (g : Group) (p : Nat) : Nat :=
  let m := g.mask &&& (if p ≥ 7 then BitVec.allOnes 32 else g.preds.getD p 0)
  match op with
  | 0 => if m = 0 then 0 else 1
  | 1 => if m = g.mask then 1 else 0
  | _ => m.toNat
def voteLane (i : Issue) (lane : Nat) (g : Group) : Group :=
  g.setRegN lane i.inst.d 1 (voteValue (bits i.inst.mod 1 0) i.grp i.inst.a)
def runVote (g : Gid) : Dev → Dev := liftSys (issueSys 0x5B g (fun i => perLane i (voteLane i)))

/-- shfl: the lane B names gives its A; a thread whose source lane is inactive or has exited keeps its own A (Table 5-9). -/
def shflLane (i : Issue) (lane : Nat) (g : Group) : Group :=
  let n := tyRegs i.inst.ty
  let b := (if i.inst.imm then bits i.inst.mod 15 0 else i.grp.reg lane i.inst.b) % 32
  let from_ := if (i.grp.mask &&& i.grp.live).getLsbD b then b else lane
  g.setRegN lane i.inst.d n (i.grp.regN from_ i.inst.a n)
def runShfl (g : Gid) : Dev → Dev := liftSys (issueSys 0x5C g (fun i => perLane i (shflLane i)))

/-! ## Table 5-11 -/

/-- The target of a branch or call: an offset in instructions from the next one. -/
def branchTarget (i : Issue) : Int := (i.grp.pc : Int) + 1 + toSigned 20 i.inst.mod

/-- A target at or beyond the end of the code image, or before its start, is a MALFORMED_INSTRUCTION fault (R210). -/
def targetOk (i : Issue) (t : Int) : Bool := decide (0 ≤ t ∧ t < (i.blk.code.length : Int))

/-- `bra` (R189, R190): a branch that no executing thread takes falls through; one that all take moves the path; one that
some take diverges. -/
def braBody (i : Issue) (s : Sys) : Sys :=
  let taken := i.grp.actMask i.inst
  if taken = 0 then s
  else if targetOk i (branchTarget i) = false then s.groupFault i.grp 0x0103
  else if taken = i.grp.mask then s.onGroup i.grp.gid (fun g => { g with pc := (branchTarget i).toNat })
  else if i.grp.stack.length + 2 > stackDepth then s.groupFault i.grp 0x0107
  else s.onGroup i.grp.gid (fun g => g.diverge taken (branchTarget i).toNat g.pc (i.inst.d * 256 + i.inst.a))
def runBra (g : Gid) : Dev → Dev := liftSys (issueSys 0xA0 g braBody)

/-- `call`: D receives the index of the next instruction, and the path goes to the target. -/
def callBody (i : Issue) (s : Sys) : Sys :=
  if i.act = [] then s
  else if targetOk i (branchTarget i) = false then s.groupFault i.grp 0x0103
  else
    (perLane i (fun lane g => g.setRegN lane i.inst.d 1 (i.grp.pc + 1)) s).onGroup i.grp.gid
      (fun g => { g with pc := (branchTarget i).toNat })
def runCall (g : Gid) : Dev → Dev := liftSys (issueSys 0xA1 g callBody)

/-- `ret`: every active thread must hold the same index, inside the image. -/
def retBody (i : Issue) (s : Sys) : Sys :=
  match i.act with
  | [] => s
  | l :: ls =>
    let t := i.grp.reg l i.inst.a
    if ls.all (fun x => i.grp.reg x i.inst.a == t) && targetOk i t then s.onGroup i.grp.gid (fun g => { g with pc := t })
    else s.groupFault i.grp 0x0103
def runRet (g : Gid) : Dev → Dev := liftSys (issueSys 0xA2 g retBody)

/-- `exit` (R191, R193): the threads leave the active mask and, having exited, every stack entry; a barrier of the block
may complete. -/
def exitBody (i : Issue) (s : Sys) : Sys :=
  let m := i.grp.actMask i.inst
  (s.onGroup i.grp.gid (fun g => ({ g with live := g.live &&& ~~~m, mask := g.mask &&& ~~~m } : Group).settle)).completeBarrier
    i.grp.block
def runExit (g : Gid) : Dev → Dev := liftSys (issueSys 0xA3 g exitBody)

def runNop (g : Gid) : Dev → Dev := liftSys (issueSys 0xA4 g (fun _ s => s))

/-! ## Operand collectors, lanes and results -/

/-- One core cycle of a bank: the oldest collector that still needs a register of it is granted its first such read
(R185). -/
def grantBank (core quarter bank : Nat) : List Collector → List Collector
  | [] => []
  | c :: t =>
    if c.gid.core = core ∧ c.gid.quarter = quarter then
      match c.reads.find? (fun r => r % 4 == bank) with
      | some r => { c with reads := c.reads.erase r } :: t
      | none => c :: grantBank core quarter bank t
    else c :: grantBank core quarter bank t

def operandRead (core quarter : Nat) (s : Sys) : Sys :=
  s.onCore (fun c => { c with
    collectors := runAll (fun b l => grantBank core quarter b l) [0, 1, 2, 3] c.collectors })
def execOperandRead (core quarter : Nat) := onSys (fun s => guarded s.coreClock (operandRead core quarter) s)

/-- R187: the oldest instruction of a group whose sources have all been read leaves its collector; its result, if it has
one, is on its way to its bank. A load's result follows once its last line has arrived. -/
def laneDispatch (gid : Gid) (s : Sys) : Sys :=
  match s.core.collectors.find? (fun c => c.gid == gid && c.reads == []) with
  | none => s
  | some c =>
    (s.onCore (fun k => { k with
      collectors := k.collectors.erase c
      results := if c.dests = [] then k.results else k.results ++ [⟨gid, c.dests, c.vals⟩] })).reap gid
def execLaneDispatch (g : Gid) := onSys (fun s => guarded s.coreClock (laneDispatch g) s)

/-- The results of a quarter that write this cycle: in dispatch order, each unless an earlier one writes the same bank
(R188). Predicates lie in no bank. A result whose load still waits for a line has not left the unit. -/
def writers (s : Sys) (core quarter : Nat) : List Nat → List Result → List Result
  | _, [] => []
  | banks, r :: t =>
    if r.gid.core = core ∧ r.gid.quarter = quarter ∧ s.loading r.gid r.dests = false then
      let bs := (r.dests.filter (fun x => decide (x < 256))).map (fun x => x % 4)
      if bs.any (fun b => banks.contains b) then writers s core quarter banks t
      else r :: writers s core quarter (banks ++ bs) t
    else writers s core quarter banks t

/-- One result is written to its banks: its registers take their values and no longer hold back later instructions. -/
def writeResult (r : Result) (s : Sys) : Sys :=
  let s := s.csResult r.gid r.dests
  let vals := ((s.core.results.find? (fun x => x.gid == r.gid && x.dests == r.dests)).map Result.vals).getD []
  ((s.onCore (fun k => { k with results := k.results.filter (fun x => !(x.gid == r.gid && x.dests == r.dests)) })).onGroup r.gid
    (fun g => { g.take vals with busy := g.busy.filter (fun x => !r.dests.contains x) })).reap r.gid

/-- One core cycle of a quarter's write ports (R188), in which core store accesses of the core may take effect. -/
def resultWriteback (core quarter : Nat) (s : Sys) : Sys :=
  (runAll writeResult (writers s core quarter [] s.core.results) s).csSome core
def execResultWriteback (core quarter : Nat) := onSys (fun s => guarded s.coreClock (resultWriteback core quarter) s)

end Sys2Proof.Machine
end

