-- ==== Sys2Proof/Machine/CoreFail.lean ====
section
/-! DEFINITION. A core that fails after start-up: error counts by site, the failure threshold, and marking a logical core
failed (R642 to R644). -/

namespace Sys2Proof.Machine

open Sys2Proof

/-- The site a logical number holds (0x3000); 65,535 absent. -/
def Sys.siteOf (s : Sys) (core : Nat) : Nat := s.mgmt.bring.coreMap.getD core 65535

/-- Contexts with a block on a core, as (partition, ring), each once. -/
def Sys.contextsOn (s : Sys) (core : Nat) : List (Nat × Nat) :=
  (s.core.blocks.filter (fun b => b.core == core)).foldl
    (fun acc b => if acc.contains (b.part, b.ring) then acc else acc ++ [(b.part, b.ring)]) []

/-- The detail of event 0x0108 of a context: its lowest group slot on the withdrawn core (Table 16-8). -/
def Sys.withdrawnDetail (s : Sys) (core part ring : Nat) : List Byte :=
  let gs := s.core.groups.filter (fun g => g.gid.core == core &&
    (match s.core.block? g.block with
     | some b => b.part == part && b.ring == ring
     | none => false))
  let best := gs.foldl (fun (a : Option Group) g =>
    match a with
    | none => some g
    | some x => if g.gid.slot < x.gid.slot then some g else some x) none
  match best with
  | some g =>
    match s.core.block? g.block with
    | some b => coreDetail g.gid b.ring b.cmd g.pc 0
    | none => []
  | none =>
    match s.core.blocks.find? (fun b => b.core == core && b.part == part && b.ring == ring) with
    | some b => coreDetail ⟨core, 0, 0⟩ ring b.cmd 0 0
    | none => []

/-- Event 0x0701 of a failed core goes to the partition that holds it, else to the log (R641, R642). -/
def Sys.coreFailedEvent (s : Sys) (core : Nat) : Sys :=
  let r := assoc s.mgmt.rel.failRecs core FailRec.zero
  let detail := natLe 2 r.site ++ [BitVec.ofNat 8 r.reason, BitVec.ofNat 8 r.cause] ++ natLe 2 r.errors
  match (List.range 16).find? (fun p => s.partEnabled p && (s.part p).hasCore core) with
  | some p => s.raise p 0x0701 core detail
  | none => s.log 0x0701 core 255 2 detail

/-- Step 3's end and step 4 of R642: once no context of the core is being killed, its site is powered down and event 0x0701
follows. -/
def Sys.finishFailing (s : Sys) : Sys :=
  let done := s.mgmt.rel.failing.filter (fun n => (s.contextsOn n).isEmpty)
  runAll (fun n s =>
    ((s.onRel (fun r => { r with failing := r.failing.filter (fun x => x != n) })).onBring
      (fun b => { b with powered := b.powered.filter (fun x => x != s.siteOf n) })).coreFailedEvent n) done s

/-- Marking a logical core failed (R642): its fail bit, its failure record, the kill of every context with a block on it
that is not already being killed (event 0x0108), and at the end the power-down and event 0x0701. -/
def Sys.markFailed (s : Sys) (core reason cause : Nat) : Sys :=
  if s.core.failed.contains core ∨ s.siteOf core = 65535 then s
  else
    let site := s.siteOf core
    let r : FailRec := ⟨site, reason, cause, nth s.mgmt.rel.siteErrors site, s.mgmt.cycles⟩
    let s := s.onCore (fun c => { c with failed := c.failed ++ [core] })
    let s := s.onRel (fun k => { k with failRecs := assocSet k.failRecs core r, failing := k.failing ++ [core] })
    let s := runAll (fun (x : Nat × Nat) s =>
      if s.dying x.1 x.2 then s else s.killContext x.1 x.2 0x0108 core (s.withdrawnDetail core x.1 x.2)) (s.contextsOn core) s
    s.finishFailing

/-- An error of causes 1 to 6 (units 0x06 to 0x0B of Table 18-1) counts against the site, and at the failure threshold the core is marked failed (R642,
0xA100, 0xA101). -/
def Sys.siteError (s : Sys) (core cause : Nat) : Sys :=
  let s := s.detectedCount (5 + cause)
  let site := s.siteOf core
  if site = 65535 then s
  else
    let s := s.onRel (fun r => { r with siteErrors := modNth r.siteErrors site (fun x => min (x + 1) 65535) })
    if nth s.mgmt.rel.siteErrors site ≥ s.cfgN 0xA100 1 then s.markFailed core 1 cause else s

/-- A DATAPATH_ERROR of a thread (R203): its context's kill, and the count against the site. -/
def Sys.datapathFault (s : Sys) (part ring core cause : Nat) (detail : List Byte) : Sys :=
  (s.killContext part ring 0x0106 core detail).siteError core cause

end Sys2Proof.Machine
end

