-- ==== Sys2Proof/Machine/Matrix.lean ====
section
/-! DEFINITION. The matrix array and the Sieve: descriptors and their checks (R259 to R264), the matrix queue (R266 to
R273), chunked accumulation (R254, R255, R298 to R303), tiles and tags (R256 to R258, R704), checksums (R276 to R278),
drains (R270, R295 to R297, R315) and ranking (R379 to R383). -/

namespace Sys2Proof.Machine

open Sys2Proof

/-! ## Formats (Tables 7-1, 7-7) -/

/-- Bits of an operand or output element of a format code. -/
def mxBits (f : Nat) : Nat :=
  match f with
  | 0 | 1 => 16
  | 2 | 3 | 7 => 8
  | 4 | 5 => 6
  | 6 => 4
  | 0xA => 64
  | _ => 32

/-- The operand classes of R251: 0 BF16 and FP16, 1 FP8 and FP6, 2 FP4, 3 INT8, 4 FP32; 5 none. -/
def mxClass (f : Nat) : Nat :=
  match f with
  | 0 | 1 => 0
  | 2 | 3 | 4 | 5 => 1
  | 6 => 2
  | 7 => 3
  | 8 => 4
  | _ => 5

def mxFmt (f : Nat) : Num.Fmt :=
  match f with
  | 0 => Num.bf16
  | 1 => Num.fp16
  | 2 => Num.e4m3
  | 3 => Num.e5m2
  | 4 => Num.e3m2
  | 5 => Num.e2m3
  | 6 => Num.e2m1
  | _ => Num.fp32

/-- The value of an element's code. -/
def mxVal (f code : Nat) : Num.Val := if f = 7 then Num.ofInt (toSigned 8 code) else Num.decode (mxFmt f) code

/-- The passes P of a permitted shape (Table 7-7), none for any other. -/
def shapeP (m n : Nat) : Option Nat :=
  if (m, n) ∈ [(64, 64), (256, 16), (16, 256), (128, 32), (32, 128), (64, 32), (32, 64), (64, 16), (16, 64), (32, 32), (16, 16)]
  then some 1
  else if (m, n) ∈ [(128, 64), (64, 128)] then some 2
  else if (m, n) ∈ [(128, 128), (256, 64), (64, 256)] then some 4
  else none

/-- Granules of a tile of elements of `e` bytes (R256). -/
def tileGranules (m n e : Nat) : Nat := (m * n * e + 1023) / 1024
/-- Bytes of an element of a tile format: 0 FP32, 1 compensated pair, 2 INT32. -/
def tileBytes (fmt : Nat) : Nat := if fmt = 1 then 8 else 4

/-! ## Descriptor fields -/

structure IssueD where
  aFmt : Nat
  bFmt : Nat
  stat : Nat
  aMode : Nat
  bMode : Nat
  chunk : Nat
  init : Bool
  tile : Nat
  pair : Bool
  split : Bool
  m : Nat
  n : Nat
  k : Nat
  a : Nat
  aStr : Nat
  b : Nat
  bStr : Nat
  aSc : Nat
  aScStr : Nat
  bSc : Nat
  bScStr : Nat
deriving DecidableEq, Repr

def IssueD.of (d : List Byte) : IssueD :=
  let c := field d 0 4
  ⟨bits c 7 4, bits c 11 8, bits c 13 12, bits c 15 14, bits c 17 16, bits c 19 18, bit c 20, bits c 29 22, bit c 30,
    bit c 31 && bits c 7 4 == 8,
    field d 4 2, field d 6 2, field d 8 4, field d 12 4, field d 16 4, field d 20 4, field d 24 4, field d 28 4, field d 32 4,
    field d 36 4, field d 40 4⟩

/-- The tile format of an operation: 0 FP32, 1 compensated pair, 2 INT32. -/
def IssueD.fmt (x : IssueD) : Nat := if x.aFmt = 7 then 2 else if x.pair then 1 else 0
def IssueD.granules (x : IssueD) : Nat := tileGranules x.m x.n (tileBytes x.fmt)

structure DrainD where
  out : Nat
  tile : Nat
  clear : Bool
  mode : Nat
  sieve : Bool
  sk : Nat
  merge : Bool
  nanHigh : Bool
  m : Nat
  n : Nat
  dst : Nat
  dstStr : Nat
  sc : Nat
  scStr : Nat
  sv : Nat
  si : Nat
  base : Nat
  set : Nat
deriving DecidableEq, Repr

def DrainD.of (d : List Byte) : DrainD :=
  let c := field d 0 4
  ⟨bits c 7 4, bits c 15 8, bit c 16, bits c 18 17, bit c 19, bits c 24 20, bit c 25, bit c 26,
    field d 4 2, field d 6 2, field d 8 4, field d 12 4, field d 16 4, field d 20 4, field d 24 4, field d 28 4, field d 32 4,
    field d 36 1⟩

/-- The tile format an output code names by itself (R704). -/
def DrainD.fmt0 (x : DrainD) : Nat := if x.out = 9 then 2 else if x.out = 0xA then 1 else 0

/-! ## Checks (R251, R256, R263, R264) -/

def scaleModeOk (f mode : Nat) : Bool :=
  match mxClass f with
  | 0 => mode == 0 || mode == 2
  | 1 | 2 => decide (mode < 3)
  | _ => mode == 0

/-- One operand's scale fields: reserved in mode 0, and the stride outside mode 1. -/
def scaleResOk (mode sc str : Nat) : Bool :=
  if mode = 0 then sc == 0 && str == 0 else if mode = 1 then true else str == 0

/-- A stride of `rows` scale rows of `n` bytes; the stride holds at least one row (R263). -/
def scaleStrideOk (mode str n : Nat) : Bool := mode != 1 || decide (str ≥ n)

/-- Whether an issue descriptor is well formed in a partition (R263); `gran` is the block's accumulator allocation. -/
def issueWf (expert : Bool) (gran : Nat) (d : List Byte) : Bool :=
  let x := IssueD.of d
  let c := field d 0 4
  bits c 3 0 == 1 && !bit c 21 && resZero d 44 20
    && decide (x.aFmt < 9 ∧ x.bFmt < 9 ∧ x.aMode < 3 ∧ x.bMode < 3)
    && mxClass x.aFmt == mxClass x.bFmt && (mxClass x.aFmt != 4 || x.split)
    && scaleModeOk x.aFmt x.aMode && scaleModeOk x.bFmt x.bMode
    && scaleResOk x.aMode x.aSc x.aScStr && scaleResOk x.bMode x.bSc x.bScStr
    && (shapeP x.m x.n).isSome && decide (32 ≤ x.k ∧ x.k ≤ 65536) && x.k % 32 == 0
    && decide (x.aStr ≥ x.k * mxBits x.aFmt / 8 ∧ x.bStr ≥ x.k * mxBits x.bFmt / 8)
    && scaleStrideOk x.aMode x.aScStr (x.k / 32) && scaleStrideOk x.bMode x.bScStr (x.k / 32)
    && !(x.pair && x.aFmt == 7) && ((!x.pair && !bit c 31) || expert)
    && x.tile % x.granules == 0 && decide (x.tile + x.granules ≤ gran)

/-- Rows of `n` bytes at a stride lie in the allocation, and address and stride are multiples of 16 (R264). -/
def rowsOk (b : Block) (a str rows n : Nat) : Bool := a % 16 == 0 && str % 16 == 0 && b.csOk (a + str * (rows - 1)) n

def scaleRangeOk (b : Block) (mode a str rows n : Nat) : Bool :=
  match mode with
  | 1 => rowsOk b a str rows n
  | 2 => a % 16 == 0 && b.csOk a 4
  | _ => true

def issueRanges (b : Block) (d : List Byte) : Bool :=
  let x := IssueD.of d
  rowsOk b x.a x.aStr x.m (x.k * mxBits x.aFmt / 8) && rowsOk b x.b x.bStr x.n (x.k * mxBits x.bFmt / 8)
    && scaleRangeOk b x.aMode x.aSc x.aScStr x.m (x.k / 32) && scaleRangeOk b x.bMode x.bSc x.bScStr x.n (x.k / 32)

def drainWf (expert : Bool) (gran : Nat) (d : List Byte) : Bool :=
  let x := DrainD.of d
  let c := field d 0 4
  let g := tileGranules x.m x.n (tileBytes x.fmt0)
  bits c 3 0 == 2 && bits c 31 27 == 0 && resZero d 37 27
    && decide ((x.out ≤ 6 ∨ x.out = 8 ∨ x.out = 9 ∨ x.out = 0xA) ∧ x.mode < 3 ∧ x.set < 64)
    && (x.mode != 1 || (decide (2 ≤ x.out ∧ x.out ≤ 6) && x.n % 32 == 0)) && (x.mode != 2 || decide (x.out ≤ 6))
    && (shapeP x.m x.n).isSome
    && decide (x.dstStr ≥ x.n * mxBits x.out / 8) && scaleStrideOk x.mode x.scStr (x.n / 32)
    && scaleResOk x.mode x.sc x.scStr
    && (if x.sieve then decide (1 ≤ x.sk ∧ x.sk ≤ 16) && x.out != 9
        else x.sk == 0 && x.sv == 0 && x.si == 0 && x.base == 0)
    && (!x.nanHigh || expert)
    && x.tile % g == 0 && decide (x.tile + g ≤ gran)

def drainRangesOk (b : Block) (d : List Byte) : Bool :=
  let x := DrainD.of d
  rowsOk b x.dst x.dstStr x.m (x.n * mxBits x.out / 8) && scaleRangeOk b x.mode x.sc x.scStr x.m (x.n / 32)
    && (!x.sieve || (b.csOk x.sv (4 * x.sk * x.m) && b.csOk x.si (4 * x.sk * x.m)))

/-! ## mxa.issue, mxa.drain, mxa.wait -/

/-- Register A of the lowest-numbered active thread (R261). -/
def leadReg (i : Issue) (r : Nat) : Nat :=
  match i.act with
  | l :: _ => i.grp.reg l r
  | [] => 0

def queueLen (s : Sys) (core : Nat) : Nat := (s.core.mq.filter (fun o => o.core == core)).length

/-- R266: the instruction waits while the queue of the core is full. -/
def mxReady (i : Issue) (d : Dev) : Bool := i.act == [] || (!fenceHeld i d && decide (queueLen d.sys i.grp.gid.core < 24))

/-- Whether a tile that operations `before` leave is a compensated pair of shape m × n: the last of them on the tile, else its tag. -/
def pairTile (b : Block) (before : List MxOp) (t m n : Nat) : Bool :=
  match (before.filter (fun q => !q.drain && q.block == b.id && (IssueD.of q.desc).tile == t)).getLast? with
  | some q => let y := IssueD.of q.desc; y.fmt == 1 && y.m == m && y.n == n
  | none => b.tags.any (fun x => x.granule == t && x.first == t && x.fmt == 1 && x.m == m && x.n == n)

/-- Operations of a core ahead of one in its queue. -/
def ahead (s : Sys) (o : MxOp) : List MxOp := (s.core.mq.filter (fun q => q.core == o.core)).takeWhile (fun q => q.id != o.id)

/-- The granules an operation covers, as (first, count); a drain's by the tile that the operations ahead of it leave (R704). -/
def Sys.mxCover (s : Sys) (o : MxOp) : Nat × Nat :=
  if o.drain then
    let x := DrainD.of o.desc
    let pair := (s.blk o.block).any (fun b => pairTile b (ahead s o) x.tile x.m x.n)
    (x.tile, tileGranules x.m x.n (tileBytes (if x.fmt0 = 0 ∧ pair = true then 1 else x.fmt0)))
  else
    let x := IssueD.of o.desc
    (x.tile, x.granules)

def coversOverlap (a b : Nat × Nat) : Bool := overlaps a.1 a.2 b.1 b.2

/-- The granules of a named tile: granule t, the tile whose tag t carries, and what queued operations on tile t cover. -/
def Sys.tileExtent (s : Sys) (b : Block) (ops : List MxOp) (t : Nat) : Nat :=
  let tagged := match b.tags.find? (fun x => x.granule == t && x.first == t) with
    | some x => tileGranules x.m x.n (tileBytes x.fmt)
    | none => 1
  ops.foldl (fun m o => if (s.mxCover o).1 = t then max m (s.mxCover o).2 else m) tagged

/-- An operation has left the queue: waits that awaited only such operations end (R272). -/
def Sys.mxLeave (s : Sys) (id : Nat) : Sys :=
  s.onCore (fun c =>
    let mq := c.mq.filter (fun o => o.id != id)
    { c with
      mq := mq
      groups := c.groups.map (fun g =>
        match g.wait with
        | .mxa ops =>
          let left := ops.filter (fun x => x != id)
          if left = [] then { g with wait := .none, reported := false } else { g with wait := .mxa left }
        | _ => g) })

/-! ## Operand bytes -/

/-- A core store byte as an operation reads it: the value at issue or the value now (R271), the same at each use. -/
def opByte (ctr : Nat) (snap cur : List Host.Cell) (a : Nat) : Nat :=
  (if Config.freeBool (ctr + a) then cellGet snap a else cellGet cur a).toNat

/-- A little-endian field of `n` bytes through a byte reader. -/
def rdLe (rd : Nat → Nat) (a : Nat) : Nat → Nat
  | 0 => 0
  | n + 1 => rd a + 256 * rdLe rd (a + 1) n

/-- Element `k` of a packed row (R287). -/
def packedElem (rd : Nat → Nat) (f base k : Nat) : Nat :=
  match mxBits f with
  | 16 => rdLe rd (base + 2 * k) 2
  | 8 => rd (base + k)
  | 6 => rdLe rd (base + 3 * (k / 4)) 3 / 2 ^ (6 * (k % 4)) % 64
  | 4 => rd (base + k / 2) / 2 ^ (4 * (k % 2)) % 16
  | _ => rdLe rd (base + 4 * k) 4

/-- Pack one row of codes (R287). -/
def packRow (f : Nat) (codes : List Nat) : List Byte :=
  match mxBits f with
  | 16 => (codes.map (natLe 2)).flatten
  | 8 => codes.map (fun c => BitVec.ofNat 8 c)
  | 6 => (List.range (codes.length * 6 / 8)).map (fun j =>
      let g := j / 3
      let w := nth codes (4 * g) + 2 ^ 6 * nth codes (4 * g + 1) + 2 ^ 12 * nth codes (4 * g + 2) + 2 ^ 18 * nth codes (4 * g + 3)
      BitVec.ofNat 8 (w / 2 ^ (8 * (j % 3))))
  | 4 => (List.range (codes.length / 2)).map (fun j => BitVec.ofNat 8 (nth codes (2 * j) + 16 * nth codes (2 * j + 1)))
  | _ => (codes.map (natLe 4)).flatten

/-- The scale factor of row `r` at element `k` (R299). -/
def scaleVal (rd : Nat → Nat) (mode a str r k : Nat) : Num.Val :=
  match mode with
  | 1 => Num.e8m0 (rd (a + r * str + k / 32))
  | 2 => Num.decode Num.fp32 (rdLe rd a 4)
  | _ => Num.pow2 0

/-! ## Accumulation (R254, R298 to R303) -/

/-- A product or sum rounded to A20, with whether it flushed (R298). -/
def a20Round (v : Num.Val) : Num.Val × Nat :=
  let r := Num.convert Num.a20 v
  (Num.decode Num.a20 r.1, if r.2 = .flushes then 1 else 0)

/-- One level of the pairwise tree: adjacent pairs are added and rounded. -/
def treeLevel : List Num.Val → List Num.Val × Nat
  | a :: b :: t =>
    let (v, f) := a20Round (a.add b)
    let (vs, fs) := treeLevel t
    (v :: vs, f + fs)
  | l => (l, 0)

/-- The pairwise tree of a chunk; `n` levels (R298). -/
def treeSum : Nat → List Num.Val → Nat → Num.Val × Nat
  | 0, l, f => (l.headD (Num.pow2 0), f)
  | n + 1, l, f =>
    let (l', f') := treeLevel l
    treeSum n l' (f + f')

/-- One chunk sum from its C products. -/
def chunkSum (levels : Nat) (ps : List (Num.Val × Num.Val)) : Num.Val × Nat :=
  let r := ps.map (fun p => a20Round (p.1.mul p.2))
  treeSum levels (r.map Prod.fst) (r.map Prod.snd).sum

/-- An element of a tile in progress: FP32 total and error codes, and flushes. -/
structure Elem where
  total : Nat
  error : Nat
  flushes : Nat
deriving DecidableEq, Repr

def val32 (c : Nat) : Num.Val := Num.decode Num.fp32 c
def rnd32 (v : Num.Val) : Nat := Num.round Num.fp32 v

/-- Promotion of a chunk sum into a plain tile (R300) or a compensated pair (R302). -/
def promote (pair : Bool) (e : Elem) (cs sigma : Num.Val) (fl : Nat) : Elem :=
  if pair then
    let p := rnd32 (cs.mul sigma)
    let t := Num.addF Num.fp32 e.total p
    let d :=
      if (val32 t).isFinite then
        let b1 := Num.subF Num.fp32 t e.total
        let a1 := Num.subF Num.fp32 t b1
        Num.addF Num.fp32 (Num.subF Num.fp32 e.total a1) (Num.subF Num.fp32 p b1)
      else 0
    ⟨t, Num.addF Num.fp32 e.error d, e.flushes + fl⟩
  else ⟨rnd32 ((val32 e.total).add (cs.mul sigma)), e.error, e.flushes + fl⟩

/-- The promotions of one sweep over K for one element, chunk by chunk. -/
def sweep (pair : Bool) (c k : Nat) (a b : Nat → Num.Val) (sigma : Nat → Num.Val) (e : Elem) : Elem :=
  (List.range (k / c)).foldl (fun e j =>
    let (s, f) := chunkSum (Nat.log2 c) ((List.range c).map (fun i => (a (j * c + i), b (j * c + i))))
    promote pair e s (sigma (j * c)) f) e

/-- The two BF16 parts of an FP32 element under the split (R281). -/
def splitHi (x : Nat) : Num.Val :=
  match val32 x with
  | .fin n m e =>
    let r := Num.round Num.bf16 (.fin n m e)
    if Num.decode Num.bf16 r = .inf n then Num.decode Num.bf16 (Num.withSign Num.bf16 n Num.bf16.maxCode) else Num.decode Num.bf16 r
  | v => v
def splitLo (x : Nat) : Num.Val :=
  match val32 x with
  | .fin n m e => Num.decode Num.bf16 (Num.round Num.bf16 ((Num.Val.fin n m e).add (splitHi x).neg))
  | _ => .fin false 0 0

/-- The operand readers of an operation: element (row, k) codes and scale factors of A and B. -/
structure Operand where
  fmt : Nat
  base : Nat
  str : Nat
  mode : Nat
  sc : Nat
  scStr : Nat
deriving DecidableEq, Repr

def IssueD.opA (x : IssueD) : Operand := ⟨x.aFmt, x.a, x.aStr, x.aMode, x.aSc, x.aScStr⟩
def IssueD.opB (x : IssueD) : Operand := ⟨x.bFmt, x.b, x.bStr, x.bMode, x.bSc, x.bScStr⟩
def Operand.code (o : Operand) (rd : Nat → Nat) (r k : Nat) : Nat := packedElem rd o.fmt (o.base + r * o.str) k
def Operand.scale (o : Operand) (rd : Nat → Nat) (r k : Nat) : Num.Val := scaleVal rd o.mode o.sc o.scStr r k

/-- σ of a chunk (R299): the exact product of the two factors, rounded once to FP32 when both are per-tensor. -/
def sigmaOf (x : IssueD) (rd : Nat → Nat) (m n k : Nat) : Num.Val :=
  let v := (x.opA.scale rd m k).mul (x.opB.scale rd n k)
  if x.aMode = 2 ∧ x.bMode = 2 then val32 (rnd32 v) else v

/-- The sweeps of an operation, each a pair of readers of values (R281: three for the split). -/
def sweeps (x : IssueD) (rd : Nat → Nat) : List ((Nat → Nat → Num.Val) × (Nat → Nat → Num.Val)) :=
  if x.split then
    let ah (m k : Nat) := splitHi (x.opA.code rd m k)
    let al (m k : Nat) := splitLo (x.opA.code rd m k)
    let bh (n k : Nat) := splitHi (x.opB.code rd n k)
    let bl (n k : Nat) := splitLo (x.opB.code rd n k)
    [(al, bh), (ah, bl), (ah, bh)]
  else [(fun m k => mxVal x.aFmt (x.opA.code rd m k), fun n k => mxVal x.bFmt (x.opB.code rd n k))]

/-- One floating-point element after an operation. -/
def elemF (x : IssueD) (rd : Nat → Nat) (c m n : Nat) (e : Elem) : Elem :=
  (sweeps x rd).foldl (fun e w => sweep x.pair c x.k (w.1 m) (w.2 n) (fun k => sigmaOf x rd m n k) e) e

/-- One INT32 element after an INT8 operation (R255). -/
def elemI (x : IssueD) (rd : Nat → Nat) (m n t : Nat) : Nat :=
  ofSigned 32 ((List.range x.k).foldl (fun (s : Int) k =>
    s + toSigned 8 (x.opA.code rd m k) * toSigned 8 (x.opB.code rd n k)) (toSigned 32 t))

/-! ## Checksums (R276, R277) -/

/-- Accumulate FP32 from a list of exact terms, one rounding a step (log entry 11). -/
def sum32 (start : Nat) (ts : List Num.Val) : Nat := ts.foldl (fun s t => rnd32 ((val32 s).add t)) start
def exactSum (vs : List Num.Val) : Num.Val := vs.foldl Num.Val.add (.fin false 0 0)

/-- The terms of S or, with magnitudes, G: for each k, one operand's element times the sum over the other's rows. -/
def checkTerms (mag : Bool) (k rows : Nat) (one : Nat → Num.Val) (other : Nat → Nat → Num.Val) : List Num.Val :=
  let f (v : Num.Val) := if mag then v.abs else v
  (List.range k).map (fun i => (f (one i)).mul (exactSum ((List.range rows).map (fun r => f (other r i)))))

/-- A tile's sums after one floating-point operation. -/
def sumsF (x : IssueD) (rd : Nat → Nat) (t : TileSums) : TileSums :=
  (sweeps x rd).foldl (fun t w =>
    let a (m k : Nat) := (w.1 m k).mul (x.opA.scale rd m k)
    let b (n k : Nat) := (w.2 n k).mul (x.opB.scale rd n k)
    { t with
      rowS := (List.range x.m).map (fun m => sum32 (nth t.rowS m) (checkTerms false x.k x.n (a m) b))
      rowG := (List.range x.m).map (fun m => sum32 (nth t.rowG m) (checkTerms true x.k x.n (a m) b))
      colS := (List.range x.n).map (fun n => sum32 (nth t.colS n) (checkTerms false x.k x.m (b n) a))
      colG := (List.range x.n).map (fun n => sum32 (nth t.colG n) (checkTerms true x.k x.m (b n) a)) }) t

/-- A tile's sums after one INT8 operation, modulo 2³². -/
def sumsI (x : IssueD) (rd : Nat → Nat) (t : TileSums) : TileSums :=
  let a (m k : Nat) := toSigned 8 (x.opA.code rd m k)
  let b (n k : Nat) := toSigned 8 (x.opB.code rd n k)
  let dot (k rows : Nat) (one : Nat → Int) (other : Nat → Nat → Int) : Int :=
    ((List.range k).map (fun i => one i * ((List.range rows).map (fun r => other r i)).sum)).sum
  { t with
    rowS := (List.range x.m).map (fun m => ofSigned 32 ((nth t.rowS m : Int) + dot x.k x.n (a m) b))
    colS := (List.range x.n).map (fun n => ofSigned 32 ((nth t.colS n : Int) + dot x.k x.m (b n) a)) }

/-! ## Tiles in a block -/

def TileSums.zero (first m n : Nat) : TileSums := ⟨first, rep0 m, rep0 m, rep0 n, rep0 n, 0, none⟩
def Block.tag (b : Block) (g : Nat) : Option AccTag := b.tags.find? (fun t => t.granule == g)
def Block.sumsOf (b : Block) (first m n : Nat) : TileSums :=
  match b.sums.find? (fun t => t.first == first) with
  | some t => t
  | none => TileSums.zero first m n
def Block.granuleList (first count : Nat) : List Nat := (List.range count).map (fun i => first + i)

/-- Whether every granule of a tile is empty or carries the tile's own tag (R258, R704). -/
def Block.tagsOk (b : Block) (first count fmt m n : Nat) : Bool :=
  (Block.granuleList first count).all (fun g =>
    match b.tag g with
    | none => true
    | some t => t.first == first && t.fmt == fmt && t.m == m && t.n == n)
def Block.allEmpty (b : Block) (first count : Nat) : Bool := (Block.granuleList first count).all (fun g => (b.tag g).isNone)

/-- Word `w` of a tile. -/
def Block.accWord (b : Block) (first w : Nat) : Nat := NMap.get b.acc (first * 256 + w)
def accSet (m : NMap) (first w v : Nat) : NMap := NMap.set m (first * 256 + w) v

/-- Forget the words of granules: they read as zeros (R257). -/
def clearWords (m : NMap) (first count : Nat) : NMap :=
  m.filter (fun kv => !decide (first * 256 ≤ kv.1 ∧ kv.1 < (first + count) * 256))

/-- Tag the granules of a tile: all of them at an initialisation, else the empty ones (R258). -/
def Block.retag (b : Block) (first count fmt m n : Nat) : Block :=
  let tags := b.tags.filter (fun t => !decide (first ≤ t.granule ∧ t.granule < first + count))
      ++ (Block.granuleList first count).map (fun g => ⟨g, first, fmt, m, n⟩)
  { b with tags := tags, sums := b.sums.filter (fun t => tags.any (fun g => g.first == t.first)) }

/-- The granules of a tile become empty, and the sums of a tile that no granule carries any more are gone (R257, R276). -/
def Block.emptyTile (b : Block) (first count : Nat) : Block :=
  let tags := b.tags.filter (fun t => !decide (first ≤ t.granule ∧ t.granule < first + count))
  { b with acc := clearWords b.acc first count, tags := tags, sums := b.sums.filter (fun t => tags.any (fun g => g.first == t.first)) }

/-- The tile after an issue operation, with its sums and the flushes the operation made. -/
def Block.applyIssue (b : Block) (x : IssueD) (rd : Nat → Nat) (c : Nat) : Block × Nat :=
  let fresh := x.init || b.allEmpty x.tile x.granules
  let acc0 := if x.init then clearWords b.acc x.tile x.granules else b.acc
  let b0 := { b with acc := acc0 }
  let old := if fresh then TileSums.zero x.tile x.m x.n else b.sumsOf x.tile x.m x.n
  let cells := (List.range x.m).flatMap (fun m => (List.range x.n).map (fun n => (m, n)))
  if x.fmt = 2 then
    let acc := cells.foldl (fun a mn =>
      accSet a x.tile (mn.1 * x.n + mn.2) (elemI x rd mn.1 mn.2 (b0.accWord x.tile (mn.1 * x.n + mn.2)))) acc0
    let t := sumsI x rd old
    (({ b0 with acc := acc, sums := b0.sums.filter (fun (u : TileSums) => u.first != x.tile) ++ [t] } : Block).retag x.tile x.granules x.fmt x.m x.n, 0)
  else
    let w := if x.pair then 2 else 1
    let (acc, fl) := cells.foldl (fun (p : NMap × Nat) mn =>
      let i := (mn.1 * x.n + mn.2) * w
      let e := elemF x rd c mn.1 mn.2 ⟨b0.accWord x.tile i, if x.pair then b0.accWord x.tile (i + 1) else 0, 0⟩
      let a := accSet p.1 x.tile i e.total
      (if x.pair then accSet a x.tile (i + 1) e.error else a, p.2 + e.flushes)) (acc0, 0)
    let t := sumsF x rd old
    let t := { t with flushes := t.flushes + fl }
    (({ b0 with acc := acc, sums := b0.sums.filter (fun (u : TileSums) => u.first != x.tile) ++ [t] } : Block).retag x.tile x.granules x.fmt x.m x.n, fl)

/-! ## Modes and chaining (R252, R275) -/

/-- K / r in core cycles, six times K for the split. -/
def IssueD.kc (x : IssueD) : Nat :=
  if x.split then 6 * x.k else x.k / (match mxClass x.aFmt with
    | 0 => 1
    | 2 => 4
    | _ => 2)
def IssueD.passes (x : IssueD) : Nat := (shapeP x.m x.n).getD 1
def ceilDiv (a b : Nat) : Nat := (a + b - 1) / b
def IssueD.workC (x : IssueD) : Nat := x.passes * x.kc + (x.passes - 1) * 69
def IssueD.passB (x : IssueD) : Nat := ceilDiv x.kc 64 * ceilDiv x.n 64
def IssueD.passA (x : IssueD) : Nat := ceilDiv x.kc 64 * ceilDiv x.m 64
def IssueD.timeC (x : IssueD) : Nat := 132 + x.workC
def IssueD.timeB (x : IssueD) : Nat := 196 + x.passB * max x.m 64
def IssueD.timeA (x : IssueD) : Nat := 196 + x.passA * max x.n 64

/-- The stationary mode used: 1 A, 2 B, 3 C (R252). -/
def IssueD.mode (x : IssueD) : Nat :=
  if x.stat ≠ 0 then x.stat
  else if x.timeC ≤ x.timeB ∧ x.timeC ≤ x.timeA then 3
  else if x.timeB ≤ x.timeA then 2 else 1

def chunkSize (field_ dflt : Nat) : Nat :=
  match field_ with
  | 1 => 4
  | 2 => 8
  | 3 => 16
  | _ => dflt

/-- Whether operation `b`, directly behind `a` in the queue, chains onto it (R275). -/
def chains (a b : MxOp) : Bool :=
  let x := IssueD.of a.desc
  let y := IssueD.of b.desc
  !a.drain && !b.drain && a.block == b.block && x.tile == y.tile && x.m == y.m && x.n == y.n && x.passes == 1 && x.mode == 3
    && y.mode == 3 && x.fmt == y.fmt && chunkSize x.chunk a.chunk == chunkSize y.chunk b.chunk && !y.init

/-- Core cycles in which PE row 0 performs products: its streams, one product column or row a cycle (DEDUCED, log
entry 12). -/
def IssueD.streamCycles (x : IssueD) : Nat :=
  match x.mode with
  | 3 => x.passes * x.kc
  | 2 => x.passB * x.m
  | _ => x.passA * x.n

/-! ## MXA_OPERATION_COMPLETE -/

/-- The context of an operation. -/
def Sys.mxContext (s : Sys) (o : MxOp) : Option (Nat × Nat) := (s.blk o.block).map (fun b => (b.part, b.ring))

/-- A fault of the thread that issued an operation. -/
def Sys.mxFault (s : Sys) (o : MxOp) (code : Nat) : Sys :=
  match s.blk o.block with
  | some b => s.killContext b.part b.ring code o.core (coreDetail o.gid b.ring b.cmd o.pc 0)
  | none => s

/-- The next issue operation behind one in its queue, unless a drain of the tile lies between them (R275). -/
def behind (s : Sys) (o : MxOp) : Option MxOp :=
  let rest := ((s.core.mq.filter (fun q => q.core == o.core)).dropWhile (fun q => q.id != o.id)).drop 1
  (rest.dropWhile (fun q => q.drain && !(q.block == o.block && (DrainD.of q.desc).tile == (IssueD.of o.desc).tile))).head?

/-- An issue operation completes: its totals, tags, flush count and checksums (R254, R258, R272, R276). It waits for an
earlier drain of its granules (R269); a tag of another tile is a MALFORMED_DESCRIPTOR fault. -/
def mxOpComplete (core : Nat) (s : Sys) : Sys :=
  match s.core.mq.find? (fun o => o.core == core && !o.drain) with
  | none => s
  | some o =>
    match s.blk o.block with
    | none => s.mxLeave o.id
    | some b =>
      if s.dying b.part b.ring then s.mxLeave o.id
      else if (ahead s o).any (fun q => q.drain && q.block == o.block && coversOverlap (s.mxCover q) (s.mxCover o)) then s
      else
        let x := IssueD.of o.desc
        if !x.init && !b.tagsOk x.tile x.granules x.fmt x.m x.n then (s.mxFault o 0x0104).mxLeave o.id
        else
          let rd := opByte s.freeCtr o.snap b.store
          let (b', fl) := b.applyIssue x rd (chunkSize x.chunk o.chunk)
          let ch := match behind s o with
            | some q => if chains o q then 1 else 0
            | none => 0
          let s := (s.drew 524288).onBlock o.block (fun _ => b')
          let s := s.onCore (fun c => { c with
            accFlushes := c.accFlushes + fl
            mxCounts := addAt (addAt (addAt c.mxCounts 0 1) 2 x.streamCycles) 6 ch })
          s.mxLeave o.id
def execMxaOperationComplete (core : Nat) := onSys (fun s => guarded s.coreClock (mxOpComplete core) s)

/-! ## Drains -/

/-- The tile format a drain reads (R704). -/
def Block.drainFmt (b : Block) (x : DrainD) : Nat :=
  if x.out = 9 then 2 else if x.out = 0xA then 1
  else
    match b.tag x.tile with
    | some t => if t.first = x.tile ∧ t.fmt = 1 ∧ t.m = x.m ∧ t.n = x.n then 1 else 0
    | none => 0

/-- The words of one element: total and error (error 0 outside pairs). -/
def Block.elemAt (b : Block) (fmt : Nat) (x : DrainD) (m n : Nat) : Nat × Nat :=
  let i := m * x.n + n
  if fmt = 1 then (b.accWord x.tile (2 * i), b.accWord x.tile (2 * i + 1)) else (b.accWord x.tile i, 0)

/-- The FP32 code a drain converts and the Sieve ranks (R260, R302). -/
def drainCode (fmt : Nat) (e : Nat × Nat) : Nat := if fmt = 1 then Num.addF Num.fp32 e.1 e.2 else e.1

/-- Whether a row or column compare fails (R277): sums against S, exactly, beyond 2⁻ᵗ × G; not compared with a non-finite
value. -/
def compareFails (t : Nat) (vals : List Num.Val) (S G : Nat) : Bool :=
  if vals.all Num.Val.isFinite && (val32 S).isFinite && (val32 G).isFinite then
    match ((exactSum vals).add (val32 S).neg).abs.cmp ((val32 G).mul (Num.pow2 (-(t : Int)))) with
    | some 1 => true
    | _ => false
  else false

/-- The words of a tile read as values for its row and column sums. -/
def Block.rowFails (b : Block) (fmt t : Nat) (x : DrainD) (m : Nat) : Bool :=
  let su := b.sumsOf x.tile x.m x.n
  let ws := (List.range x.n).map (fun n => (b.elemAt fmt x m n).1)
  let hit := su.corrupt.any (fun e => e.1 == m)
  if fmt = 2 then (ws.foldl (fun a w => a + w) 0) % 2 ^ 32 != nth su.rowS m % 2 ^ 32 || hit
  else compareFails t (ws.map val32) (nth su.rowS m) (nth su.rowG m) || hit
def Block.colFails (b : Block) (fmt t : Nat) (x : DrainD) (n : Nat) : Bool :=
  let su := b.sumsOf x.tile x.m x.n
  let ws := (List.range x.m).map (fun m => (b.elemAt fmt x m n).1)
  let hit := su.corrupt.any (fun e => e.2 == n)
  if fmt = 2 then (ws.foldl (fun a w => a + w) 0) % 2 ^ 32 != nth su.colS n % 2 ^ 32 || hit
  else compareFails t (ws.map val32) (nth su.colS n) (nth su.colG n) || hit

/-- The narrow format of an output code for scale selection. -/
def narrowOf (out : Nat) : Num.Narrow :=
  match out with
  | 2 => Num.narrowE4m3
  | 3 => Num.narrowE5m2
  | 4 => Num.narrowE3m2
  | 5 => Num.narrowE2m3
  | 6 => Num.narrowE2m1
  | _ => Num.narrowInt8

/-- Blocks of 32 elements. -/
def blocks32 : Nat → List Num.Val → List (List Num.Val)
  | 0, _ => []
  | f + 1, l => if l = [] then [] else l.take 32 :: blocks32 f (l.drop 32)

/-- One output row: its bytes, its Microscaling scale bytes, and the outcomes counted (R290, R296, R297, R315). -/
structure RowOut where
  bytes : List Byte
  scales : List Byte
  counts : List Num.Count
  vals : List Num.Val
deriving DecidableEq, Repr

/-- How an output that performs no conversion counts an element (R315). -/
def plainCount (v : Num.Val) : Num.Count :=
  if v.isZero then .zeros else if v.isFinite then .none else .nonfinite

def drainRow (x : DrainD) (fmt headroom : Nat) (tensorScale : Num.Val) (es : List (Nat × Nat)) : RowOut :=
  let codes := es.map (drainCode fmt)
  let vals := codes.map val32
  if x.out = 9 then
    ⟨(es.map (fun e => natLe 4 e.1)).flatten, [], es.map (fun e => if e.1 = 0 then .zeros else .none), []⟩
  else if x.out = 0xA then
    ⟨(es.map (fun e => natLe 4 e.1 ++ natLe 4 e.2)).flatten, [], es.map (fun e => plainCount (val32 e.1)), es.map (fun e => val32 e.1)⟩
  else if x.out = 8 then ⟨(codes.map (natLe 4)).flatten, [], vals.map plainCount, vals⟩
  else if x.mode = 1 then
    let nf := narrowOf x.out
    let bs := (blocks32 (x.n / 32 + 1) vals).map (fun vs =>
      let bad := vs.any (fun v => !v.isFinite)
      let sb := if bad then 255 else Num.mxScale nf headroom (Num.amax vs)
      (sb, Num.convBlock nf (Num.e8m0 sb) bad vs))
    let rs := (bs.map Prod.snd).flatten
    ⟨packRow x.out (rs.map Prod.fst), bs.map (fun b => BitVec.ofNat 8 b.1), rs.map Prod.snd, vals⟩
  else
    let f := mxFmt x.out
    let rs := vals.map (fun v => if x.mode = 2 then Num.convScaled ⟨some f, 0, Num.pow2 0⟩ v tensorScale else Num.convert f v)
    ⟨packRow x.out (rs.map Prod.fst), [], rs.map Prod.snd, vals⟩

/-! ## The Sieve (R379 to R383) -/

/-- A candidate: FP32 code and index. -/
abbrev Cand := Nat × Nat

/-- An order on FP32 codes with −0 below +0 (R380), as an integer. -/
def rankKey (c : Nat) : Int := if c / 2 ^ 31 % 2 = 1 then -((c % 2 ^ 31 : Nat) : Int) - 1 else ((c % 2 ^ 31 : Nat) : Int)
def isNan32 (c : Nat) : Bool := match val32 c with
  | .nan => true
  | _ => false

/-- Whether a candidate ranks above another; with NaN high a NaN ranks above every other value (R382). -/
def outranks (a b : Cand) : Bool :=
  if isNan32 a.1 && isNan32 b.1 then decide (a.2 < b.2)
  else if isNan32 a.1 then true
  else if isNan32 b.1 then false
  else decide (rankKey b.1 < rankKey a.1) || (decide (rankKey a.1 = rankKey b.1) && decide (a.2 < b.2))

def insertCand (a : Cand) : List Cand → List Cand
  | [] => [a]
  | b :: t => if outranks a b then a :: b :: t else b :: insertCand a t

/-- The k highest-ranked candidates of a row (R379, R381, R382). -/
def sieveRow (k : Nat) (nanHigh : Bool) (cands : List Cand) : List Cand :=
  let cs := if nanHigh then cands.map (fun c => if isNan32 c.1 then (0x7FC00000, c.2) else c)
    else cands.filter (fun c => !isNan32 c.1)
  let sorted := (cs.foldr insertCand []).take k
  sorted ++ List.replicate (k - sorted.length) (0xFF800000, 0xFFFFFFFF)

/-- Entries stored for a row (merge). -/
def sieveStored (s : Sys) (id : Nat) (x : DrainD) (m : Nat) : List Cand :=
  (List.range x.sk).map (fun j => (s.csWord id (x.sv + 4 * (m * x.sk + j)), s.csWord id (x.si + 4 * (m * x.sk + j))))

/-! ## MXA_DRAIN_COMPLETE -/

/-- One output row as bytes at addresses: output, scales, and Sieve entries with those that `s` holds where the drain merges. -/
def rowWrites (s : Sys) (id : Nat) (x : DrainD) (m : Nat) (r : RowOut) (codes : List Nat) : List (Nat × Byte) :=
  let at_ := fun (a : Nat) (bs : List Byte) => bs.zipIdx.map (fun y => (a + y.2, y.1))
  at_ (x.dst + m * x.dstStr) r.bytes ++ (if x.mode = 1 then at_ (x.sc + m * x.scStr) r.scales else []) ++
    (if x.sieve then
      let cands := ((List.range x.n).map (fun n => (nth codes n, (x.base + n) % 2 ^ 32)))
        ++ (if x.merge then sieveStored s id x m else [])
      let best := sieveRow x.sk x.nanHigh cands
      at_ (x.sv + 4 * x.sk * m) ((best.map (fun c => natLe 4 c.1)).flatten) ++ at_ (x.si + 4 * x.sk * m) ((best.map (fun c => natLe 4 c.2)).flatten)
    else [])

/-- The rows of a drain, with the FP32 codes the Sieve ranks. -/
def Block.drainOuts (b : Block) (o : MxOp) (scale : Nat) : List (Nat × RowOut × List Nat) :=
  let x := DrainD.of o.desc
  let fmt := b.drainFmt x
  (List.range x.m).map (fun m =>
    let es := (List.range x.n).map (fun n => b.elemAt fmt x m n)
    (m, drainRow x fmt o.headroom (val32 scale) es, es.map (drainCode fmt)))

/-- Rows whose compare fails: none of them is written (R278). -/
def Sys.badRows (s : Sys) (b : Block) (x : DrainD) : List Nat :=
  (List.range x.m).filter (fun m => b.rowFails (b.drainFmt x) (s.cfgN 0x5120 1) x m)

/-- The first drain of a core's queue begins to read its tile (R268, R270): no issue operation ahead covers a granule of it, its tags
agree, and its tensor scale and the bytes it writes are fixed. -/
def Sys.drainBegins (s : Sys) (o : MxOp) : Option (Block × List (Nat × Byte) × Nat) :=
  match s.blk o.block with
  | none => none
  | some b =>
    let x := DrainD.of o.desc
    let cnt := tileGranules x.m x.n (tileBytes (b.drainFmt x))
    if (ahead s o).any (fun q => !q.drain && q.block == o.block && coversOverlap (s.mxCover q) (x.tile, cnt)) then none
    else
      match o.out with
      | some w => some (b, w.2, w.1)
      | none =>
        let scale := rdLe (opByte s.freeCtr o.snap b.store) x.sc 4
        let bad := s.badRows b x
        let outs := (b.drainOuts o scale).filter (fun r => !bad.contains r.1)
        some (b, outs.flatMap (fun r => rowWrites s o.block x r.1 r.2.1 r.2.2), scale)

/-- Bytes that a drain writes: a byte that another access has changed since the drain issued holds one of the two values (R271). What
an earlier drain writes is no other access to the drains behind it (R270, R383). -/
def Sys.drainWrite (s : Sys) (o : MxOp) (ws : List (Nat × Byte)) : Sys :=
  let ctr := s.freeCtr
  let out := ws.zipIdx.map (fun w =>
    let cur := (s.csRead o.block w.1.1 1).headD 0
    (w.1.1, if cur != cellGet o.snap w.1.1 && Config.freeBool (ctr + w.2) then cur else w.1.2))
  let later := fun (q : MxOp) => q.drain && q.block == o.block && !(ahead s o).any (fun y => y.id == q.id)
  let s := runAll (fun (w : Nat × Byte) s => s.csWrite o.block w.1 [w.2]) out (s.drew ws.length)
  s.onCore (fun c => { c with mq := c.mq.map (fun q =>
    if later q then { q with snap := runAll (fun (w : Nat × Byte) m => cellsWrite m w.1 [w.2]) out q.snap } else q) })

/-- The drain under way in a block has written some of its bytes by now; which ones is open (R271). -/
def Sys.drainProgress (s : Sys) (id : Nat) : Sys :=
  match s.blk id with
  | none => s
  | some b =>
    match s.core.mq.find? (fun o => o.core == b.core && o.drain) with
    | none => s
    | some o =>
      if o.block ≠ id ∨ s.dying b.part b.ring = true then s
      else
        let x := DrainD.of o.desc
        match s.drainBegins o with
        | none => s
        | some (b, ws, scale) =>
          let fmt := b.drainFmt x
          if b.tagsOk x.tile (tileGranules x.m x.n (tileBytes fmt)) fmt x.m x.n then
            let ctr := s.freeCtr
            let now := (ws.zipIdx.filter (fun w => Config.freeBool (ctr + w.2))).map Prod.fst
            let s := (s.drew (ws.length + 524288)).onCore (fun c => { c with
              mq := c.mq.map (fun q => if q.id == o.id then { q with out := some (scale, ws) } else q) })
            s.drainWrite o now
          else s

/-- The drain unit executes the first drain of its core's queue (R268, R270): tag check, row compares before any row is
written, conversion and counts, column compares, and the clear. -/
def mxDrainComplete (core : Nat) (s : Sys) : Sys :=
  match s.core.mq.find? (fun o => o.core == core && o.drain) with
  | none => s
  | some o =>
    match s.blk o.block with
    | none => s.mxLeave o.id
    | some b =>
      if s.dying b.part b.ring then s.mxLeave o.id
      else
        match s.drainBegins o with
        | none => s
        | some (_, ws, scale) =>
          let x := DrainD.of o.desc
          let fmt := b.drainFmt x
          let cnt := tileGranules x.m x.n (tileBytes fmt)
          if !b.tagsOk x.tile cnt fmt x.m x.n then (s.mxFault o 0x0104).mxLeave o.id
          else
            let bad := s.badRows b x
            let badCols := (List.range x.n).filter (fun n => b.colFails fmt (s.cfgN 0x5120 1) x n)
            let outs := b.drainOuts o scale
            let s := (s.drew 524288).drainWrite o ws
            let s := if x.sieve then s.onCore (fun c => { c with sieveRows := c.sieveRows + (x.m - bad.length) }) else s
            if bad ≠ [] ∨ badCols ≠ [] then
              let s := s.onCore (fun c => { c with mxCounts := addAt c.mxCounts 3 (bad.length + badCols.length) })
              (s.datapathFault b.part b.ring core 4 (coreDetail o.gid b.ring b.cmd o.pc 0)).mxLeave o.id
            else
              let fl := (b.sumsOf x.tile x.m x.n).flushes
              let cs := (outs.map (fun r => r.2.1.counts)).flatten
              let s := s.statsAdd b.part x.set (tally cs fl) (amaxCode ((outs.map (fun r => r.2.1.vals)).flatten)) 0x0120 core
              let s := s.onBlock o.block (fun b => if x.clear then b.emptyTile x.tile cnt
                else { b with sums := b.sums.map (fun t => if t.first == x.tile then { t with flushes := 0 } else t) })
              let s := s.onCore (fun c => { c with mxCounts := addAt c.mxCounts 1 1 })
              (s.mxLeave o.id).wakeArr o.block
def execMxaDrainComplete (core : Nat) := onSys (fun s => guarded s.coreClock (mxDrainComplete core) s)

/-! ## Instructions that reach the core store -/

/-- Issue an instruction that reads or writes the core store other than by `ld.c`, `st.c` and `atom.c`: its threads' own accesses have
taken effect, and a drain under way may have written some of its bytes (R226, R242, R262, R271). -/
def issueCs (op : Nat) (gid : Gid) (ok : Issue → Dev → Bool) (check : Issue → Dev → Option Nat) (body : Issue → Dev → Dev) (d : Dev) : Dev :=
  match d.sys.prepare op gid with
  | .no => d
  | .fault g code => liftSys (fun s => s.groupFault g code) d
  | .go i =>
    if ok i d then
      let d := liftSys (fun s => (s.csOwn gid i.act i.blk.id).drainProgress i.blk.id) d
      let i := { i with blk := (d.sys.blk i.blk.id).getD i.blk }
      match check i d with
      | some code => liftSys (fun s => s.groupFault i.grp code) d
      | none => liftSys (fun s => s.settle gid) (body i (liftSys (fun s => s.book i) d))
    else d

/-- The fault a matrix descriptor raises at its read (R263, R264). -/
def mxBad (drain : Bool) (i : Issue) (d : Dev) : Option Nat :=
  if i.act = [] then none
  else
    let a := leadReg i i.inst.a
    if a % 64 ≠ 0 ∨ i.blk.csOk a 64 = false then some 0x0101
    else
      let ds := i.blk.csRead a 64
      let e := d.sys.expertOn i.blk.part
      if (if drain then drainWf e i.blk.accN ds else issueWf e i.blk.accN ds) = false then some 0x0104
      else if (if drain then drainRangesOk i.blk ds else issueRanges i.blk ds) = false then some 0x0101
      else none

/-- The operation enters its core's matrix queue (R266) with the descriptor as read (R262). -/
def mxBody (drain : Bool) (i : Issue) (s : Sys) : Sys :=
  if i.act = [] then s
  else
    let ds := i.blk.csRead (leadReg i i.inst.a) 64
    s.onCore (fun c => { c with
      nextId := c.nextId + 1
      mq := c.mq ++ [⟨c.nextId, i.grp.gid.core, i.blk.id, i.grp.gid, i.grp.pc, drain, ds, i.blk.store, s.cfgN 0x5000 1, s.cfgN 0x5000 2, none⟩] })
def runMxaIssue (g : Gid) : Dev → Dev := issueCs 0x88 g mxReady (mxBad false) (fun i => liftSys (mxBody false i))
def runMxaDrain (g : Gid) : Dev → Dev := issueCs 0x89 g mxReady (mxBad true) (fun i => liftSys (mxBody true i))

/-- mxa.wait (R272, R273): the group waits for the operations of its block queued before it that cover a granule of the
tile. -/
def mxWaitBad (i : Issue) (_ : Dev) : Option Nat :=
  if i.act ≠ [] ∧ leadReg i i.inst.a ≥ i.blk.accN then some 0x0103 else none
def mxWaitReady (i : Issue) (d : Dev) : Bool := !fenceHeld i d
def mxWaitBody (i : Issue) (s : Sys) : Sys :=
  if i.act = [] then s
  else
    let t := leadReg i i.inst.a
    let mine := s.core.mq.filter (fun o => o.block == i.blk.id)
    let ops := (mine.filter (fun o => coversOverlap (s.mxCover o) (t, s.tileExtent i.blk mine t))).map MxOp.id
    if ops = [] then s
    else s.onGroup i.grp.gid (fun g => { g with wait := .mxa ops, wpc := i.grp.pc, reported := false })
def runMxaWait (g : Gid) : Dev → Dev := issueCs 0x8A g mxWaitReady mxWaitBad (fun i => liftSys (mxWaitBody i))

end Sys2Proof.Machine
end

