-- ==== Sys2Proof/Machine/CoreMem.lean ====
section
/-! DEFINITION. Loads, stores, fences, barriers, atomics, asynchronous copies and arrival counters
(05_cores_thread_groups.md, 06_memory_model.md), and what happens to an access at its slice. -/

namespace Sys2Proof.Machine

open Sys2Proof

/-! ## ld.c and st.c -/

def accSize (i : CoreInst) : Nat := accBytes (bits i.mod 2 0)

/-- A core store access: aligned and inside the allocation (R220, Table 5-10). -/
def csBad (i : Issue) (_ : Dev) : Option Nat :=
  if i.act.all (fun l => let a := i.grp.effAddr i.inst l; a % accSize i.inst == 0 && i.blk.csOk a (accSize i.inst)) then none
  else some 0x0101

def csReady (i : Issue) (d : Dev) : Bool := !fenceHeld i d

/-- A lane's core store access: two eight-byte halves for a sixteen-byte one (Table 5-10); `work` gives what the half at an offset does. -/
def csHalves (i : Issue) (lane : Nat) (work : Nat → Nat → CsWork) : List CsAcc :=
  let n := accSize i.inst
  let a := i.grp.effAddr i.inst lane
  let half (o k : Nat) : CsAcc := ⟨i.grp.gid, [lane], i.blk.id, a + o, k, work o k, false⟩
  if n = 16 then [half 0 8, half 8 8] else [half 0 n]

/-- New core store accesses of an instruction, with what a drain under way has written by now (R229, R271). -/
def enterCs (i : Issue) (now : Bool) (as : List CsAcc) (s : Sys) : Sys := (s.drainProgress i.blk.id).csEnter i.blk.id now as

def ldCLane (i : Issue) (lane : Nat) : List CsAcc :=
  csHalves i lane (fun o _ => .load (bit i.inst.mod 3) (i.inst.d + o / 4))
def ldCBody (i : Issue) : Sys → Sys := enterCs i false (i.act.flatMap (ldCLane i))
def runLdC (g : Gid) : Dev → Dev := issueDev 0x60 g csReady csBad (fun i => liftSys (ldCBody i))

/-- Insert a lane by its key. -/
def insertKey (key : Nat → Nat) (x : Nat) : List Nat → List Nat
  | [] => [x]
  | y :: t => if key x ≤ key y then x :: y :: t else y :: insertKey key x t

/-- The lanes in an order the spec does not fix. -/
def freeOrder (ctr : Nat) (l : List Nat) : List Nat := l.foldr (insertKey (fun x => Config.freeNat (ctr + x))) []

/-- The bytes a lane stores. -/
def storeData (i : Issue) (lane : Nat) : List Byte :=
  natLe (accSize i.inst) (i.grp.regN lane i.inst.b (accRegs (bits i.inst.mod 2 0)))

/-- `st.c`: two lanes that name one location store in no specified order. -/
def stCBody (i : Issue) (s : Sys) : Sys :=
  enterCs i false ((freeOrder s.freeCtr i.act).flatMap (fun l => csHalves i l (fun o k => .store (((storeData i l).drop o).take k))))
    (s.drew 32)
def runStC (g : Gid) : Dev → Dev := issueDev 0x61 g csReady csBad (fun i => liftSys (stCBody i))

/-! ## ld.g and st.g -/

/-- An access to Shofel memory by a kernel (R216, Table 5-10): none when it is a bad address. -/
def gOk (i : Issue) (d : Dev) (lane size : Nat) (w : Bool) : Bool :=
  let a := i.grp.effAddr i.inst lane
  a % size == 0 && d.rangeOk i.blk.part a size w

/-- The place of a lane's access. -/
def gPlace (i : Issue) (d : Dev) (lane : Nat) : Nat × Nat := d.locate i.blk.part (i.grp.effAddr i.inst lane)

/-- An instruction whose lanes access `size` bytes at `addr`: a lane's address that is misaligned or does not translate faults before any
order is waited for, and each access that does not translate is counted (R216, 0x4010). -/
def issueG (op : Nat) (gid : Gid) (addr : Issue → Nat → Nat) (size : Issue → Nat) (w : Bool) (ready : Issue → Dev → Bool)
    (body : Issue → Dev → Dev) (d : Dev) : Dev :=
  issueDev op gid ready (fun _ _ => none)
    (fun i d =>
      if i.act.all (fun l => addr i l % size i == 0 && d.rangeOk i.blk.part (addr i l) (size i) w) then body i d
      else
        let n := (i.act.filter (fun l => !d.rangeOk i.blk.part (addr i l) (size i) w)).length
        { d with sys := runAll (fun _ s => s.transFault i.blk.part) (List.range n) (d.sys.groupFault i.grp 0x0101) }) d

/-- A lane's load may not pass what R226, R231, R233 and R236 put before it. -/
def ldGOk (i : Issue) (d : Dev) : Bool :=
  !fenceHeld i d && i.act.all (fun l => let p := gPlace i d l; d.sys.clear i.grp.gid l i.blk.id p.1 p.2 (accSize i.inst))
def ldGReady (i : Issue) (d : Dev) : Bool := i.act.any (fun l => !gOk i d l (accSize i.inst) false) || ldGOk i d

/-- Serve a load from its slice line: a poisoned line is a DATAPATH_ERROR fault of the context (R330, cause 7); otherwise
the bytes wait with the load's result. -/
def Dev.serve (d : Dev) (ld : PLoad) : Dev :=
  let l := d.mem.lineOf ld.stack (ld.addr / 64)
  match d.sys.core.group? ld.gid with
  | none => d
  | some g =>
    if l.poison then
      { mem := d.mem.onStack ld.stack (fun t => { t with poisonedReads := t.poisonedReads + 1 })
        sys := d.sys.lateFault ld.gid g.block ld.pc 0x0106 }
    else
      let v := leNat ((l.data.drop (ld.addr % 64)).take ld.size)
      { d with sys := d.sys.hold ld.gid ld.dest (regVals ld.lane ld.dest (max 1 (ld.size / 4)) (extend ld.sext ld.size v)) }

/-- One part of a lane's load: served now from the slice, or waiting for its line. A load whose line is in the slice may
still be served later, since two accesses of a thread to different locations have no order (R229). -/
def loadPart (ld : PLoad) (d : Dev) : Dev :=
  let line := ld.addr / 64
  let late := ((d.mem.slice ld.stack).find line).isNone || d.sys.waitsLine ld.gid ld.lane ld.stack line || d.sys.freeBool
  let d := { d with sys := (d.sys.drew 1).onCore (fun c => { c with nextId := c.nextId + 1 }) }
  if late then { d with sys := d.sys.onCore (fun c => { c with loads := c.loads ++ [{ ld with seq := c.nextId }] }) }
  else ({ d with mem := d.mem.touch ld.stack line } : Dev).serve ld

/-- The parts of a lane's load: a sixteen-byte access is two eight-byte halves in no specified order (Table 5-10). -/
def loadParts (i : Issue) (d : Dev) (lane : Nat) : List PLoad :=
  let (st, L) := gPlace i d lane
  let n := accSize i.inst
  let sx := bit i.inst.mod 3
  if n = 16 then [⟨i.grp.gid, lane, 0, st, L, 8, false, i.inst.d, i.grp.pc⟩, ⟨i.grp.gid, lane, 0, st, L + 8, 8, false, i.inst.d + 2, i.grp.pc⟩]
  else [⟨i.grp.gid, lane, 0, st, L, n, sx, i.inst.d, i.grp.pc⟩]

def ldGBody (i : Issue) (d : Dev) : Dev :=
  let ps := (i.act.map (loadParts i d)).flatten
  let d := { d with sys := d.sys.charge i.blk.part (i.act.length * accSize i.inst) }
  runAll loadPart ps d
def runLdG (g : Gid) : Dev → Dev :=
  issueG 0x62 g (fun i l => i.grp.effAddr i.inst l) (fun i => accSize i.inst) false ldGReady ldGBody

/-- A store of an instruction's lanes, not yet accepted at its slice. -/
def newStore (i : Issue) (lns : List Nat) (st a : Nat) (data : List Byte) (vis : Nat) (w : Option AtomWork) : PStore :=
  ⟨i.grp.gid, lns, i.blk.id, i.blk.part, i.blk.ring, i.blk.uid, 0, st, a, data, vis, w, i.grp.pc⟩

/-- The stores of a lane, not yet accepted at their slice (R228). -/
def storeParts (i : Issue) (d : Dev) (lane : Nat) : List PStore :=
  let (st, L) := gPlace i d lane
  let bs := storeData i lane
  let mk (a : Nat) (b : List Byte) : PStore := newStore i [lane] st a b 0 none
  if accSize i.inst = 16 then [mk L (bs.take 8), mk (L + 8) (bs.drop 8)] else [mk L bs]

/-- A store follows the thread's own earlier loads of the line (R226). -/
def stGOk (i : Issue) (d : Dev) : Bool :=
  !fenceHeld i d && i.act.all (fun l => let p := gPlace i d l; !d.sys.waitsLine i.grp.gid l p.1 (p.2 / 64))
def stGReady (i : Issue) (d : Dev) : Bool := i.act.any (fun l => !gOk i d l (accSize i.inst) true) || stGOk i d

def stGBody (i : Issue) (d : Dev) : Dev :=
  let ps := (i.act.map (storeParts i d)).flatten
  { d with sys := d.sys.onCore (fun c => { c with stores := c.stores ++ ps }) }
def runStG (g : Gid) : Dev → Dev :=
  issueG 0x63 g (fun i l => i.grp.effAddr i.inst l) (fun i => accSize i.inst) true stGReady stGBody

/-- Whether the slice, its translation, its clock, and the link and interface of a stack still accept work (Table 18-2). -/
def Dev.stackUp (d : Dev) (st : Nat) : Bool :=
  (d.mem.stack st).trained && d.sys.coreClock && !d.sys.unitStopped 0x02 st && !d.sys.unitStopped 0x04 st && !d.sys.unitStopped 0x05 st
    && !d.sys.unitStopped 0x1B st

/-- An atomic's updates of one location at its slice (R197, R230); a poisoned line is a fault of its context (R330). -/
def Dev.atomDo (d : Dev) (x : PStore) (w : AtomWork) : Dev :=
  let m := d.mem.touch x.stack (x.addr / 64)
  let l := m.lineOf x.stack (x.addr / 64)
  if l.poison then
    { mem := m.onStack x.stack (fun t => { t with poisonedReads := t.poisonedReads + 1 })
      sys := d.sys.lateFault x.gid x.block x.pc 0x0106 }
  else
    let n := x.data.length
    let r := w.apply (leNat ((l.data.drop (x.addr % 64)).take n))
    let d := Dev.writePiece { d with mem := m } x.stack x.addr (natLe n r.1)
    { d with sys := (d.sys.charge x.part (n * w.args.length)).holdAtom x.gid w r.2 }

/-- A store or atomic takes effect at its slice. -/
def Dev.perform (d : Dev) (x : PStore) : Dev :=
  match x.atom with
  | some w => d.atomDo x w
  | none =>
    let d := d.writePiece x.stack x.addr x.data
    { d with sys := d.sys.charge x.part x.data.length }

/-- The stores of a list before position `k` that must be accepted first: overlapping ones of its threads, and those
ordered before it. -/
def earlierStore (l : List PStore) (k : Nat) (x : PStore) : Bool :=
  (l.take k).any (fun y => x.lanes.any (fun n => y.bars x.gid n x.block) && y.hits x.stack x.addr x.data.length)

/-- SLICE_STORE_ACCEPT: the k-th pending store or atomic is accepted at its slice and visible to every observer (R228). -/
def storeAccept (k : Nat) (d : Dev) : Dev :=
  match d.sys.core.stores[k]? with
  | none => d
  | some x =>
    if earlierStore d.sys.core.stores k x || !d.stackUp x.stack then d
    else liftSys (fun s => s.onCore (fun c => { c with stores := dropNth c.stores k })) (d.perform x)
def execSliceStoreAccept (k : Nat) := onDev (storeAccept k)

/-! ## SLICE_MISS_FILL (R23) and SCRUB_LINE (R332) -/

/-- An ECC finding at a DRAM read of a line: 1 corrected (R328), 2 uncorrectable (R329). -/
def Dev.eccAt (d : Dev) (st line ecc : Nat) : Dev :=
  if (d.mem.stack st).isPoisoned line then d
  else if ecc = 1 then
    { mem := d.mem.onStack st (fun t => { t with corrected := t.corrected + 1 }), sys := d.sys.maskedCount 0x01 }
  else if ecc = 2 then
    Dev.poisonNote { mem := d.mem.onStack st (fun t => { t with poisoned := markPoison t.poisoned line true }), sys := d.sys.detectedCount 0x01 }
      st line
  else d

/-- Serve every load that waits for a line; `hit` where the slice held it (R249). -/
def serveLine (st line : Nat) (hit : Bool) (d : Dev) : Dev :=
  let ls := d.sys.core.loads.filter (fun l => l.stack == st && l.addr / 64 == line)
  let d := { d with sys := d.sys.onCore (fun c => { c with loads := c.loads.filter (fun l => !(l.stack == st && l.addr / 64 == line)) }) }
  runAll (fun l d => Dev.serve (if hit then { d with mem := d.mem.touch st line } else d) l) ls d

/-- A line fill arrives at its slice and serves the loads that wait for it. -/
def missFill (st line ecc : Nat) (d : Dev) : Dev :=
  if d.sys.core.loads.any (fun l => l.stack == st && l.addr / 64 == line) && d.stackUp st then
    let hit := ((d.mem.slice st).find line).isSome
    serveLine st line hit (if hit then d else (fun d : Dev => { d with mem := d.mem.fill st line }) (d.eccAt st line ecc))
  else d
def execSliceMissFill (stack line ecc : Nat) := onDev (missFill stack line ecc)

/-- Patrol scrub reads the next line of a trained stack at DRAM and wraps from the last (R332 to R334); a line poisoned before decodes
as uncorrectable again (R329, Table 9-2). -/
def scrubLine (st ecc : Nat) (d : Dev) : Dev :=
  let t := d.mem.stack st
  if t.trained && !d.sys.unitStopped 0x02 st && !d.sys.unitStopped 0x1B st && decide (st < 8) then
    let line := t.scrubPos
    let was := t.isPoisoned line
    let d := d.eccAt st line ecc
    let next := if line + 1 = 2 ^ 30 then 0 else line + 1
    let d := { d with mem := d.mem.onStack st (fun t => { t with
      scrubPos := next
      scrubPasses := if next = 0 then t.scrubPasses + 1 else t.scrubPasses
      scrubCorrections := if ecc = 1 ∧ was = false then t.scrubCorrections + 1 else t.scrubCorrections }) }
    if ecc = 2 ∨ was = true then
      let p := d.ownerOf st line
      if p < 16 then { d with sys := d.sys.raise p 0x0203 st (lineEventDetail line) } else d
    else d
  else d
def execScrubLine (stack ecc : Nat) := onDev (scrubLine stack ecc)

/-! ## Fences (R231, R232) and blk.join -/

def fenceScope (i : CoreInst) : Nat := bits i.mod 1 0

/-- Whether what a fence or release of a scope waits for has come about for a thread: its earlier loads and atomics have their values,
and for `wait` its earlier stores have been accepted. -/
def pastDone (wait : Bool) (i : Issue) (d : Dev) : Bool :=
  !fenceHeld i d && i.act.all (fun l => d.sys.loadsDone i.grp.gid l i.blk.id && (!wait || d.sys.storesDone i.grp.gid l i.blk.id))

/-- A fence of scope S issues under the row of its scope. Only `fence.sys` must wait here until the thread's earlier stores have been
accepted (R232): behind `fence.dev` the thread's later accesses wait instead (R231), and a `fab.*` operation does not (R248). -/
def fenceOk (scope : Nat) (i : Issue) (d : Dev) : Bool := fenceScope i.inst == scope && pastDone (scope == 3) i d

def fenceBody (scope : Nat) (i : Issue) (s : Sys) : Sys :=
  let s := s.csFence i.grp.gid i.act i.blk.id scope
  if scope < 3 then s.raiseVis i.grp.gid i.act i.blk.id (scope + 1) else s
def fence (scope : Nat) (g : Gid) : Dev → Dev :=
  issueDev 0x70 g (fenceOk scope) (fun _ _ => none) (fun i => liftSys (fenceBody scope i))
def runFenceGrp (g : Gid) : Dev → Dev := fence 0 g
def runFenceBlk (g : Gid) : Dev → Dev := fence 1 g
def runFenceDev (g : Gid) : Dev → Dev := fence 2 g
def runFenceSys (g : Gid) : Dev → Dev := fence 3 g

/-- blk.join (R194, R195, R236). -/
def joinBody (i : Issue) (s : Sys) : Sys :=
  let id := bits i.inst.mod 3 0
  let m := i.grp.actMask i.inst
  if m = 0 then s
  else
    match (s.blk i.blk.id).bind Block.barrier with
    | some b => if b = id then arrive id m i s else s.groupFault i.grp 0x0105
    | none => arrive id m i s
where
  /-- The arriving threads park at the next instruction; the others go on, or the group pops or waits. -/
  arrive (id : Nat) (m : BitVec 32) (i : Issue) (s : Sys) : Sys :=
    let s := (s.csOwn i.grp.gid i.act i.blk.id).raiseVis i.grp.gid i.act i.blk.id 2
    let s := s.onGroup i.grp.gid (fun g =>
      ({ g with parked := g.parked ++ [⟨g.pc, m, g.stop⟩], mask := g.mask &&& ~~~m, wpc := i.grp.pc, reported := false } : Group).settle)
    (s.onBlock i.blk.id (fun b => { b with barrier := some id })).completeBarrier i.blk.id

def joinOk (i : Issue) (d : Dev) : Bool := i.act.all (fun l => d.sys.loadsDone i.grp.gid l i.blk.id)
def runBlkJoin (g : Gid) : Dev → Dev := issueDev 0x74 g joinOk (fun _ _ => none) (fun i => liftSys (joinBody i))

/-! ## Atomics (R197 to R200, R230, R233 to R235)

The active lanes that name one location are one operation. A relaxed operation, and an acquire whose scope does not reach the device,
may be applied after later accesses of its thread: other observers see no order between them (R229), and a release that reaches further
than the acquire does not synchronise with it (R234). -/

def atomOp (i : CoreInst) : Nat := bits i.mod 3 0
def atomTy (i : CoreInst) : Nat := bits i.mod 6 4
def atomOrder (i : CoreInst) : Nat := bits i.mod 8 7
def atomScope (i : CoreInst) : Nat := bits i.mod 10 9
def atomSize (i : CoreInst) : Nat := 4 * atomRegs (atomTy i)
def acquires (i : CoreInst) : Bool := bit (atomOrder i) 0
def releases (i : CoreInst) : Bool := bit (atomOrder i) 1
/-- The scope of an atomic: for `atom.c` dev and sys act as blk (R235). -/
def atomReach (core : Bool) (i : CoreInst) : Nat := if core then min (atomScope i) 1 else atomScope i

/-- A release waits as a fence does; of dev and sys scope until the thread's earlier stores have been accepted (R233). -/
def atomOk (core : Bool) (i : Issue) (d : Dev) : Bool :=
  !fenceHeld i d && (!releases i.inst || pastDone (decide (2 ≤ atomReach core i.inst)) i d)

/-- A release orders the thread's pending accesses at its scope. -/
def atomRelease (core : Bool) (i : Issue) (s : Sys) : Sys :=
  if releases i.inst then
    let sc := atomReach core i.inst
    (s.csFence i.grp.gid i.act i.blk.id sc).raiseVis i.grp.gid i.act i.blk.id (min 2 (sc + 1))
  else s

/-- The locations that lanes name, each with its lanes in lane order (R197). -/
def byPlace {α : Type} [DecidableEq α] (place : Nat → α) (lns : List Nat) : List (α × List Nat) :=
  lns.foldl (fun acc l => if acc.any (fun x => x.1 == place l) then acc else acc ++ [(place l, lns.filter (fun k => place k == place l))]) []

/-- The work of an atomic's lanes at one location. -/
def atomWork (i : Issue) (lns : List Nat) : AtomWork :=
  let n := atomRegs (atomTy i.inst)
  ⟨atomOp i.inst, atomTy i.inst, if bit i.inst.mod 11 then none else some i.inst.d,
    lns.map (fun l => (l, i.grp.regN l i.inst.b n, i.grp.regN l i.inst.c n))⟩

def atomCBody (i : Issue) (s : Sys) : Sys :=
  let acq := acquires i.inst
  let grp := atomReach true i.inst == 0
  enterCs i (acq && !grp) ((byPlace (fun l => i.grp.reg l i.inst.a) i.act).map (fun x =>
    ⟨i.grp.gid, x.2, i.blk.id, x.1, atomSize i.inst, .atom (atomWork i x.2), acq && grp⟩)) (atomRelease true i s)
def atomCBad (i : Issue) (_ : Dev) : Option Nat :=
  if i.act.all (fun l => let a := i.grp.reg l i.inst.a; a % atomSize i.inst == 0 && i.blk.csOk a (atomSize i.inst)) then none
  else some 0x0101
def runAtomC (g : Gid) : Dev → Dev := issueDev 0x79 g (atomOk true) atomCBad (fun i => liftSys (atomCBody i))

def atomAddr (i : Issue) (lane : Nat) : Nat := i.grp.regN lane i.inst.a 2
def atomPlace (i : Issue) (d : Dev) (lane : Nat) : Nat × Nat := d.locate i.blk.part (atomAddr i lane)

/-- An atomic that must be applied before later accesses of its thread: an acquire whose scope reaches the device (R233). -/
def atomNow (i : CoreInst) : Bool := acquires i && decide (2 ≤ atomScope i)

/-- Whether the slice may apply an atomic of some lanes at once. -/
def atomFree (i : Issue) (d : Dev) (x : (Nat × Nat) × List Nat) : Bool :=
  x.2.all (fun l => d.sys.clear i.grp.gid l i.blk.id x.1.1 x.1.2 (atomSize i.inst)) && d.stackUp x.1.1

def atomGOk (i : Issue) (d : Dev) : Bool :=
  atomOk false i d && i.act.all (fun l => let p := atomPlace i d l; !d.sys.waitsLine i.grp.gid l p.1 (p.2 / 64))
    && (!atomNow i.inst || (byPlace (atomPlace i d) i.act).all (atomFree i d))

/-- One location: applied now, or waiting at its slice in the free cases; a waiting acquire stands before later accesses of its scope. -/
def atomGPlace (i : Issue) (x : (Nat × Nat) × List Nat) (d : Dev) : Dev :=
  let p := newStore i x.2 x.1.1 x.1.2 (zeros (atomSize i.inst)) (if acquires i.inst then atomScope i.inst + 1 else 0) (some (atomWork i x.2))
  let now := atomNow i.inst || (atomFree i d x && d.sys.freeBool)
  let d := liftSys (fun s => s.drew 1) d
  if now then d.perform p else liftSys (fun s => s.onCore (fun c => { c with stores := c.stores ++ [p] })) d

def atomGBody (i : Issue) (d : Dev) : Dev :=
  let d := liftSys (atomRelease false i) d
  runAll (atomGPlace i) (byPlace (atomPlace i d) i.act) d
/-- A lane whose address does not translate faults before any order is waited for. -/
def atomGReady (i : Issue) (d : Dev) : Bool :=
  i.act.any (fun l => let a := atomAddr i l; !(a % atomSize i.inst == 0 && d.rangeOk i.blk.part a (atomSize i.inst) true))
    || atomGOk i d
def runAtomG (g : Gid) : Dev → Dev := issueG 0x78 g atomAddr (fun i => atomSize i.inst) true atomGReady atomGBody

/-! ## Asynchronous copies (R239 to R247) -/

def copyLen (i : Issue) (l : Nat) : Nat := i.grp.reg l i.inst.c
def copyCs (i : Issue) (l : Nat) : Nat := i.grp.reg l i.inst.a
def copyGa (i : Issue) (l : Nat) : Nat := i.grp.regN l i.inst.b 2
def copyCounter (i : Issue) (l : Nat) : Nat := i.grp.reg l i.inst.d
def copyToShofel (i : CoreInst) : Bool := bit i.mod 0

/-- R239 and R241: whether a lane's copy may start. -/
def copyOk (i : Issue) (d : Dev) (l : Nat) : Bool :=
  let n := copyLen i l
  let cs := copyCs i l
  let k := copyCounter i l
  i.blk.counterOk k && (n == 0 ||
    (cs % 16 == 0 && copyGa i l % 16 == 0 && n % 16 == 0 && decide (n ≤ 524288) && i.blk.csOk cs n
      && d.rangeOk i.blk.part (copyGa i l) n (copyToShofel i.inst) && !overlaps k 4 cs n))

/-- Copies, fabric operations, pushes and takes outstanding in a quarter, or a core (R247, R370, R471). -/
def Sys.asyncIn (s : Sys) (f : Gid → Bool) : Nat :=
  s.core.copies.countP (fun c => f c.gid) + s.fab.ops.countP (fun o => o.owner == 0 && f o.gid)
    + s.fab.fences.countP (fun x => !x.isCmd && f x.gid) + (s.host.queues.map (fun q => q.pushes.countP (fun x => f x.gid) + q.takes.countP (fun x => f x.gid)
        + q.claimed.countP (fun x => f x.take.gid))).sum

/-- Whether `n` more fit the limits of R247. -/
def Sys.asyncRoom (s : Sys) (g : Gid) (n : Nat) : Bool :=
  decide (s.asyncIn (fun x => x.core == g.core && x.quarter == g.quarter) + n ≤ 64 ∧ s.asyncIn (fun x => x.core == g.core) + n ≤ 256)

/-- R242, R226: no earlier access of the thread to the copy's Shofel bytes is still pending. -/
def copyClear (i : Issue) (d : Dev) (l : Nat) : Bool :=
  (rangePieces (copyGa i l) (copyLen i l)).all (fun pc =>
    let (st, L) := d.locate i.blk.part pc.1
    !d.sys.core.stores.any (fun x => x.of i.grp.gid l i.blk.id && x.hits st L pc.2)
      && !d.sys.waitsLine i.grp.gid l st (L / 64))

def dmaReady (i : Issue) (d : Dev) : Bool :=
  i.act.any (fun l => !copyOk i d l) || (!fenceHeld i d && d.sys.asyncRoom i.grp.gid i.act.length && i.act.all (copyClear i d))

/-- Lines of a range that a slice does not hold: under no-allocate they leave again (R224). -/
def absentLines (d : Dev) (p a n : Nat) : List (Nat × Nat) :=
  ((rangePieces a n).map (fun pc => let (st, L) := d.locate p pc.1; (st, L / 64))).filter
    (fun x => ((d.mem.slice x.1).find x.2).isNone)
def releaseLines (ls : List (Nat × Nat)) (d : Dev) : Dev :=
  { d with mem := runAll (fun (x : Nat × Nat) m => (m.writeBack x.1 x.2).onSlice x.1 (fun c => c.drop x.2)) ls d.mem }

/-- Read a copy's Shofel bytes under its slice hint. -/
def copyRead (p a n : Nat) (noAlloc : Bool) (d : Dev) : ReadRes :=
  let ab := if noAlloc then absentLines d p a n else []
  let r := d.readRange p a n
  { r with dev := releaseLines ab r.dev }
def copyWrite (p a : Nat) (bs : List Byte) (noAlloc : Bool) (d : Dev) : Dev :=
  let ab := if noAlloc then absentLines d p a bs.length else []
  releaseLines ab (d.writeRange p a bs)

/-- Bytes `offs` of one line of a copy's Shofel destination: all of a piece in one write, else byte by byte. -/
def copyPiece (c : Copy) (val : Nat → Byte) (offs : List Nat) (pc : Nat × Nat) (d : Dev) : Dev :=
  let os := (List.range pc.2).map (fun k => pc.1 - c.ga + k)
  if os.all (fun o => offs.contains o) then copyWrite c.part pc.1 (os.map val) c.noAlloc d
  else runAll (fun o d => copyWrite c.part (c.ga + o) [val o] c.noAlloc d) (os.filter (fun o => offs.contains o)) d

/-- Bytes `offs` of a copy move to its destination: `val` gives the byte of an offset. -/
def copyMove (c : Copy) (val : Nat → Byte) (offs : List Nat) (d : Dev) : Dev :=
  if c.toShofel then runAll (copyPiece c val offs) (rangePieces c.ga c.len) d
  else { d with sys := runAll (fun o s => s.csWrite c.block (c.cs + o) [val o]) offs d.sys }

/-- A fault of a copy's thread on a poisoned source line (R330). -/
def poisonFault (gid : Gid) (block pc : Nat) (d : Dev) : Dev := { d with sys := d.sys.lateFault gid block pc 0x0106 }

/-- A copy starts: each byte moves now, or at completion from the source as it was or as it is then (R245). -/
def startCopy (i : Issue) (l : Nat) (d : Dev) : Dev :=
  let n := copyLen i l
  let id := d.sys.core.nextId
  let tos := copyToShofel i.inst
  let noAlloc := bits i.inst.mod 2 1 == 1
  let ctr := d.sys.freeCtr
  let r : ReadRes := if tos then ⟨d, d.sys.csRead i.blk.id (copyCs i l) n, none⟩
    else copyRead i.blk.part (copyGa i l) n noAlloc d
  let d := r.dev
  let d := { d with sys := (d.sys.drew n).onCore (fun c => { c with nextId := c.nextId + 1 }) }
  if r.poison.isSome then poisonFault i.grp.gid i.blk.id i.grp.pc d
  else
    -- bytes of a poisoned destination line wait for the whole write (R331)
    let bad (o : Nat) : Bool := tos && (let (st, L) := d.locate i.blk.part (copyGa i l + o); (d.mem.lineOf st (L / 64)).poison)
    let now := (List.range n).filter (fun o => Config.freeBool (ctr + o) && !bad o)
    let c : Copy := ⟨id, i.grp.gid, l, i.blk.id, i.blk.part, tos, noAlloc, copyCs i l, copyGa i l, n, copyCounter i l, id, i.grp.pc, r.data,
      (List.range n).filter (fun o => !now.contains o)⟩
    let d := copyMove c (fun o => r.data.getD o 0) now d
    { d with sys := d.sys.onCore (fun k => { k with copies := k.copies ++ [c] }) }

def dmaBody (i : Issue) (d : Dev) : Dev :=
  let bad := i.act.filter (fun l => !copyOk i d l)
  if bad ≠ [] then
    { d with sys := (d.sys.groupFault i.grp 0x0101).onCore (fun c => { c with copyFaults := addAt c.copyFaults i.blk.part bad.length }) }
  else runAll (startCopy i) i.act d
def runDmaCs (g : Gid) : Dev → Dev := issueCs 0x80 g dmaReady (fun _ _ => none) dmaBody

/-- DMA_COPY_COMPLETE: the remaining bytes move, then the counter rises and waits may end (R243, R244). -/
def copyComplete (id : Nat) (d : Dev) : Dev :=
  match d.sys.core.copies.find? (fun c => c.id == id) with
  | none => d
  | some c =>
    if d.sys.dying c.part ((d.sys.blk c.block).map Block.ring |>.getD 64) then d
    else
      let d := liftSys (fun s => s.drainProgress c.block) d
      let r : ReadRes := if c.toShofel then ⟨d, d.sys.csRead c.block c.cs c.len, none⟩
        else if c.todo = [] then ⟨d, c.snap, none⟩ else copyRead c.part c.ga c.len c.noAlloc d
      let d := r.dev
      let drop (s : Sys) : Sys := s.onCore (fun k => { k with copies := k.copies.filter (fun x => x.id != id) })
      if r.poison.isSome then poisonFault c.gid c.block c.pc { d with sys := drop d.sys }
      else
        let vals := mixBytes d.sys.freeCtr c.snap r.data
        let d := copyMove c (fun o => vals.getD o 0) c.todo { d with sys := d.sys.drew c.len }
        { d with sys := (drop d.sys).bumpCounter c.block c.counter }
def execDmaCopyComplete (copy : Nat) := onDev (fun d => guarded d.sys.coreClock (copyComplete copy) d)

/-- arr.wait (R246): the group is held until every active thread's counter reaches its target. -/
def arrBad (i : Issue) (_ : Dev) : Option Nat :=
  if i.act.all (fun l => i.blk.counterOk (i.grp.reg l i.inst.a)) then none else some 0x0101
def arrBody (i : Issue) (s : Sys) : Sys :=
  if i.act = [] then s
  else
    (s.onGroup i.grp.gid (fun g => { g with
      wait := .arr (i.act.map (fun l => (l, i.grp.reg l i.inst.a, i.grp.reg l i.inst.b))), wpc := i.grp.pc, reported := false })).wakeArr
      i.blk.id
def runArrWait (g : Gid) : Dev → Dev := issueCs 0x81 g csReady arrBad (fun i => liftSys (arrBody i))

/-! ## PROGRESS_STALLED (R196) -/

def waitKind : Wait → Nat
  | .none => 0
  | .join => 1
  | .arr _ => 2
  | .mxa _ => 3

/-- A group that has waited longer than its partition's budget writes event 0x0110 once per wait. -/
def progressStalled (gid : Gid) (s : Sys) : Sys :=
  match s.core.group? gid with
  | none => s
  | some g =>
    match s.blk g.block with
    | none => s
    | some b =>
      if g.wait = .none ∨ g.reported = true ∨ s.dying b.part b.ring = true then s
      else
        ((s.onGroup gid (fun g => { g with reported := true })).onCore (fun c => { c with nWatchdog := c.nWatchdog + 1 })).raise
          b.part 0x0110 gid.core (coreDetail gid b.ring b.cmd g.wpc (waitKind g.wait))
def execProgressStalled (g : Gid) := onSys (progressStalled g)

end Sys2Proof.Machine
end

