-- ==== Sys2Proof/Machine/Rings.lean ====
section
/-! DEFINITION. Command rings (17_host_ethernet.md, R609 to R626, R707): the doorbell page, reading, checking and starting
commands, completion records, and the stop of a ring. -/

namespace Sys2Proof.Machine

open Sys2Proof

/-! ## Records in force -/

def Sys.ring (s : Sys) (r : Nat) : Ring := s.host.rings.getD r Ring.reset
def Sys.onRing (s : Sys) (r : Nat) (f : Ring → Ring) : Sys := s.onHost (fun h => { h with rings := modNth h.rings r f })

def ringAddr (rec_ : List Byte) : Nat := field rec_ 8 8
def ringEntries (rec_ : List Byte) : Nat := field rec_ 4 4
def ringQp (rec_ : List Byte) : Nat := field rec_ 2 2

/-- The enabled rings whose records name a partition, in number order; the partition's command-ring count keeps the lowest
(R609, R576). -/
def Sys.ringsOf (s : Sys) (p : Nat) : List Nat :=
  ((List.range 64).filter (fun r => s.ringEnabled r && s.ringPart r == p)).take (s.part p).nRings
/-- Whether a ring's record puts it in effect (R609). -/
def Sys.ringShould (s : Sys) (r : Nat) : Bool :=
  s.partEnabled (s.ringPart r) && (s.ringsOf (s.ringPart r)).contains r

def Ring.cmd? (g : Ring) (idx : Nat) : Option RCmd := g.cmds.find? (fun c => c.idx == idx)
def RCmd.kind (c : RCmd) : Nat := field c.bytes 0 1
def RCmd.op (c : RCmd) : Nat := field c.bytes 16 1
def RCmd.tag (c : RCmd) : Nat := field c.bytes 8 8
def Ring.started (g : Ring) : List RCmd := g.cmds.filter (fun c => c.phase == 1)

/-- A started FENCE, a started EVENT wait and an UPDATE that waits for its slot hold their ring (R391, R623, R624). -/
def Ring.held (g : Ring) : Bool :=
  g.cmds.any (fun c => c.phase == 1 &&
    (c.kind == 6 || (c.kind == 7 && c.op == 2) || (c.kind == 4 && !c.begun)))

/-- The state of Table 17-4 (log entry 13). -/
def Ring.code (g : Ring) : Nat :=
  if !g.inEffect then 0 else if g.state = 4 then 4
  else if g.held || g.cmds.any (fun c => c.phase == 0) then 3
  else if g.cmds = [] then 1 else 2

/-! ## Queue pairs -/

def Sys.qp (s : Sys) (i : Nat) : Qp := assoc s.host.qps i Qp.reset
def Sys.onQp (s : Sys) (i : Nat) (f : Qp → Qp) : Sys := s.onHost (fun h => { h with qps := assocSet h.qps i (f (s.qp i)) })
def Qp.st (q : Qp) : Nat := field q.record 0 1
def Qp.part (q : Qp) : Nat := field q.record 1 1
def Qp.port (q : Qp) : Nat := field q.record 2 1
/-- The priority of its frames: the PCP of its VLAN field (Table 17-2). -/
def Qp.prio (q : Qp) : Nat := field q.record 40 2 / 2 ^ 13
def Qp.mtu (q : Qp) : Nat := 128 * 2 ^ field q.record 3 1
/-- The completion queue pair of a ring is in state 1 (R608). -/
def Sys.ringQpReady (s : Sys) (r : Nat) : Bool := (s.qp (ringQp (s.ringRec r))).st == 1

/-! ## The doorbell page (R611, Table 17-4) -/

/-- Write offsets 24 to 41 of a page whose fields have changed. -/
def Dev.syncRing (r : Nat) (d : Dev) : Dev :=
  let g := d.sys.ring r
  let now := [g.readIdx, g.complSeq, g.code, g.stop]
  let p := d.sys.ringPart r
  let a := ringAddr (d.sys.ringRec r)
  if g.inEffect && now != g.shown && d.rangeOk p a 4096 true then
    let d := { d with sys := d.sys.onRing r (fun g => { g with shown := now }) }
    d.writeRange p (a + 24) (natLe 8 g.readIdx ++ natLe 8 g.complSeq ++ natLe 1 g.code ++ natLe 1 g.stop)
  else d

def Dev.syncRings (d : Dev) : Dev := runAll Dev.syncRing (List.range 64) d

/-- A command whose effect may move rings: the pages follow it (log entry 14). -/
def onRings (f : Dev → Dev) (s : State) : Host.Outcome State Fault Refusal := onDev (fun d => (f d).syncRings) s

/-- A ring takes effect: its page is written as zero and its indexes start at 0 (R611). -/
def Dev.ringTakes (r : Nat) (d : Dev) : Dev :=
  let p := d.sys.ringPart r
  let a := ringAddr (d.sys.ringRec r)
  let d := { d with sys := d.sys.onRing r (fun g => { Ring.reset with inEffect := true, counts := g.counts }) }
  if d.rangeOk p a 4096 true then d.writeRange p a (zeros 4096) else d

/-- A ring that is no longer in effect reads nothing and its commands end without a record. -/
def Sys.ringLeaves (s : Sys) (r : Nat) : Sys := s.onRing r (fun g => { Ring.reset with counts := g.counts })

/-- Rings enter and leave effect as records, partitions and ring counts change (R609, R576). -/
def Dev.ringEffects (d : Dev) : Dev :=
  runAll (fun r d =>
    if d.sys.ringShould r == (d.sys.ring r).inEffect then d
    else if d.sys.ringShould r then d.ringTakes r
    else { d with sys := d.sys.ringLeaves r }) (List.range 64) d

/-! ## Completion and stops -/

/-- A command completes: it takes the ring's next sequence, and its record waits for room (R626). A command that was
abandoned completes nothing. -/
def Sys.completeUid (s : Sys) (r uid status detail : Nat) : Sys :=
  match (s.ring r).cmds.find? (fun c => c.uid == uid) with
  | none => s
  | some c =>
    s.onRing r (fun g => { g with
      cmds := g.cmds.filter (fun x => x.uid != uid)
      complSeq := g.complSeq + 1
      counts := if status = 1 then addAt g.counts 1 1 else g.counts
      records := g.records ++ [⟨g.complSeq + 1, uid, c.tag, c.idx, status, c.kind, detail⟩] })

/-- A command known by its position completes. -/
def Sys.completeCmd (s : Sys) (r idx status detail : Nat) : Sys :=
  match (s.ring r).cmd? idx with
  | some c => s.completeUid r c.uid status detail
  | none => s

/-- A command ends without a record. -/
def Sys.dropCmd (s : Sys) (r idx : Nat) : Sys :=
  s.onRing r (fun g => { g with cmds := g.cmds.filter (fun c => c.idx != idx) })

/-- What a stop abandons (R617): LAUNCH, FENCE and EVENT commands, commands read and not started, an UPDATE that still waits for its
slot (R391; log entry 129), and COPY 4 and 5 whose completion queue pair is not ready; a partition reset ends every command. -/
def stopKeeps (reason : Nat) (qpReady : Bool) (c : RCmd) : Bool :=
  reason != 2 && c.phase == 1 &&
    (if c.kind = 2 then c.op != 4 && c.op != 5 || qpReady
     else if c.kind = 4 then c.begun
     else c.kind == 3 || c.kind == 5)

/-- A ring stops (R617); a ring already stopped keeps its reason (log entry 15). -/
def Sys.stopRing (s : Sys) (r reason : Nat) : Sys :=
  let ready := s.ringQpReady r
  s.onRing r (fun g =>
    if !g.inEffect then g
    else
      { g with
        cmds := g.cmds.filter (stopKeeps reason ready)
        records := if reason = 2 then [] else g.records
        counts := if g.state = 4 then g.counts else addAt g.counts 3 1
        stop := if g.state = 4 then g.stop else reason
        state := 4 })

/-- The detail of MEMORY_UNCORRECTABLE (Table 16-8). -/
def memDetail (line ring idx : Nat) : List Byte := natLe 8 (line * 64) ++ [BitVec.ofNat 8 ring, 0, 0, 0] ++ natLe 4 idx

/-- A command's work meets a poisoned line: its context is killed with event 0x0202 and the command ends at once
(Table 9-2). -/
def Sys.poisonKill (s : Sys) (r idx : Nat) (at_ : Nat × Nat) : Sys :=
  (s.killContext (s.ringPart r) r 0x0202 at_.1 (memDetail at_.2 r idx)).dropCmd r idx

/-- A queue pair enters state 2: its rings stop with reason 4 and it is counted (R608, 0x9300). -/
def Sys.qpError (s : Sys) (i : Nat) : Sys :=
  if (s.qp i).st = 1 then
    let p := (s.qp i).part
    let s := s.onQp i (fun q => { q with record := 2 :: q.record.drop 1, outstanding := [] })
    let s := s.onHost (fun h => { h with rdma := modNth h.rdma p (fun c => addAt c 3 1) })
    runAll (fun r s => if (s.ring r).inEffect && ringQp (s.ringRec r) == i then s.stopRing r 4 else s) (List.range 64) s
  else s

/-! ## Reading the page (R613, R618, R707) -/

/-- A page or a slot that cannot be read stops the ring with reason 5; a poisoned line is reported (R707). -/
def Sys.unreadable (s : Sys) (r : Nat) (poison : Option (Nat × Nat)) : Sys :=
  if (s.ring r).state = 4 then s
  else
    let s := match poison with
      | some x => s.raise (s.ringPart r) 0x0202 x.1 (memDetail x.2 r (s.ring r).readIdx)
      | none => s
    s.stopRing r 5

/-- Whether the sequencer serves a ring: READY, in effect, the unit running, its partition not in reset (R87, R589). -/
def Sys.serves (s : Sys) (r : Nat) : Bool :=
  s.coreRuns && decide (r < 64) && (s.ring r).inEffect && !s.unitStopped 0x0F 0 && !s.resetting (s.ringPart r)

/-- R618: a stopped ring none of whose commands runs resumes at a restart value in range. -/
def Dev.restart (r val : Nat) (d : Dev) : Dev :=
  let g := d.sys.ring r
  let p := d.sys.ringPart r
  if g.state = 4 ∧ val ≠ 0 ∧ g.cmds = [] ∧ d.sys.dying p r = false ∧ (g.stop = 4 → d.sys.ringQpReady r = true) then
    let d := d.writeRange p (ringAddr (d.sys.ringRec r) + 16) (zeros 8)
    if g.readIdx ≤ (val - 1) + ringEntries (d.sys.ringRec r) ∧ val - 1 ≤ g.producer then
      { d with sys := d.sys.onRing r (fun g => { g with readIdx := val - 1, state := 1 }) }
    else d
  else d

/-- The word an EVENT wait of a ring watches reaches its value, or not yet (R624). -/
def eventReached (word value : Nat) : Bool := decide (0 ≤ toSigned 64 ((word + 2 ^ 64 - value % 2 ^ 64) % 2 ^ 64))

/-- Sample the word of a ring's EVENT wait. -/
def Dev.sampleEvent (r : Nat) (d : Dev) : Dev :=
  match (d.sys.ring r).cmds.find? (fun c => c.phase == 1 && c.begun && c.kind == 7 && c.op == 2) with
  | none => d
  | some c =>
    let p := d.sys.ringPart r
    let a := field c.bytes 24 8
    if d.rangeOk p a 8 false then
      let x := d.readRange p a 8
      match x.poison with
      | some at_ => { x.dev with sys := x.dev.sys.poisonKill r c.idx at_ }
      | none =>
        if eventReached (leNat x.data) (field c.bytes 32 8) then { x.dev with sys := x.dev.sys.completeCmd r c.idx 0 0 }
        else x.dev
    else d

/-- The sequencer reads a ring's doorbell page (R613). -/
def Dev.readPage (r : Nat) (d : Dev) : Dev :=
  if d.sys.serves r then
    let p := d.sys.ringPart r
    let a := ringAddr (d.sys.ringRec r)
    if d.rangeOk p a 4096 true then
      let x := d.readRange p a 24
      match x.poison with
      | some _ => { x.dev with sys := x.dev.sys.unreadable r x.poison }
      | none =>
        let d := { x.dev with sys := x.dev.sys.onRing r (fun g => { g with
          producer := field x.data 0 8, consumed := field x.data 8 8 }) }
        d.restart r (field x.data 16 8)
    else { d with sys := d.sys.unreadable r none }
  else d

def execDoorbellNotice (ring : Nat) := onRings (fun d =>
  if d.sys.serves ring && !d.sys.dying (d.sys.ringPart ring) ring then (d.readPage ring).sampleEvent ring else d.readPage ring)
def execDoorbellPoll := onRings (runAll Dev.readPage (List.range 64))

/-! ## Checks at the read (R616) -/

def pow2In (n lo hi : Nat) : Bool := decide (lo ≤ n ∧ n ≤ hi) && n &&& (n - 1) == 0

/-- A list of `n` descriptors of 64 bytes (Table 17-7). -/
def Dev.listOk (d : Dev) (p a n : Nat) : Bool := decide (n ≤ 4096) && a % 64 == 0 && d.rangeOk p a (64 * n) false

def launchFieldsOk (d : Dev) (p : Nat) (c : List Byte) : Bool :=
  let a := field c 16 8
  let n := field c 24 4
  let regs := field c 34 2
  let cs := field c 36 4
  a % 64 == 0 && decide (8 ≤ n ∧ n ≤ 65536) && n % 8 == 0 && d.rangeOk p a n false
    && decide (1 ≤ field c 32 2 ∧ field c 32 2 ≤ 1024) && decide (8 ≤ regs ∧ regs ≤ 256) && regs % 8 == 0
    && decide (cs ≤ 524288) && cs % 4096 == 0 && decide (field c 40 2 ≤ 256) && resZero c 42 6 && resZero c 56 8

def copyFieldsOk (d : Dev) (p : Nat) (c : List Byte) : Bool :=
  let op := field c 16 1
  let a := field c 24 8
  let b := field c 32 8
  let n := field c 40 8
  resZero c 17 7 && resZero c 52 12 &&
    (if op = 1 then
       resZero c 48 4 && decide (n ≤ 2 ^ 40) && n % 16 == 0 && d.rangeOk p a n false && d.rangeOk p b n true
         && (n == 0 || !overlaps a n b n)
     else if op = 2 then b == 0 && resZero c 48 4 && d.listOk p a n
     else if op = 3 then b == 0 && n == 0 && resZero c 48 4 && a % 64 == 0 && d.rangeOk p a 64 false
     else if op = 4 then decide (n ≤ 2 ^ 31) && d.rangeOk p a n false
     else if op = 5 then decide (n ≤ 2 ^ 31) && d.rangeOk p b n true
     else false)

def gemvFieldsOk (d : Dev) (p : Nat) (c : List Byte) : Bool :=
  let op := field c 16 1
  let q := field c 17 1
  let a := field c 24 8
  resZero c 18 6 && resZero c 36 28 &&
    (if op = 1 then q == 0 && d.listOk p a (field c 32 4)
     else if op = 2 then decide (q < 16) && resZero c 32 4 && a % 64 == 0 && d.rangeOk p a 128 false
     else if op = 3 then decide (q < 16) && a == 0 && resZero c 32 4
     else false)

/-- The header, field domains and named ranges of a command (R8, R12, R616, R619, Tables 17-5 to 17-7). What a descriptor
holds is checked by the row of the command's kind. -/
def Dev.commandOk (d : Dev) (p : Nat) (c : List Byte) : Bool :=
  let kind := field c 0 1
  field c 1 1 / 2 == 0 && resZero c 2 6 &&
    (if kind = 1 then launchFieldsOk d p c
     else if kind = 2 then copyFieldsOk d p c
     else if kind = 3 then resZero c 16 8 && resZero c 32 32 && field c 24 8 % 64 == 0 && d.rangeOk p (field c 24 8) 64 false
     else if kind = 4 then
       decide (field c 16 1 < 8) && (field c 17 1 == 1 || field c 17 1 == 2) && resZero c 18 6 && resZero c 44 20
         && d.listOk p (field c 32 8) (field c 40 4)
     else if kind = 5 then gemvFieldsOk d p c
     else if kind = 6 then decide (field c 16 1 ≤ 1) && decide (field c 17 1 ≤ 1) && resZero c 18 46
     else if kind = 7 then
       let op := field c 16 1
       (op == 1 || op == 2) && resZero c 17 7 && resZero c 40 24 && field c 24 8 % 8 == 0
         && d.rangeOk p (field c 24 8) 8 (op == 1)
     else false)

/-! ## COMMAND_READ and COMMAND_START -/

/-- The lowest index not yet completed or abandoned (R614). -/
def Ring.oldest (g : Ring) : Nat := g.cmds.foldl (fun m c => min m c.idx) g.readIdx

/-- The next command of a ring is read and checked (R614 to R616, R608, R707). -/
def commandRead (r : Nat) (d : Dev) : Dev :=
  let g := d.sys.ring r
  let rec_ := d.sys.ringRec r
  let p := d.sys.ringPart r
  if d.sys.serves r && g.state != 4 && !d.sys.dying p r && !g.held && decide (g.started.length < 64) then
    if g.producer < g.readIdx ∨ g.producer > g.oldest + ringEntries rec_ then liftSys (fun s => s.stopRing r 3) d
    else if g.producer = g.readIdx then d
    else if !d.sys.ringQpReady r then liftSys (fun s => s.stopRing r 4) d
    else
      let a := ringAddr rec_ + 4096 + 64 * (g.readIdx % ringEntries rec_)
      if d.rangeOk p a 64 true then
        let x := d.readRange p a 64
        match x.poison with
        | some _ => liftSys (fun s => s.unreadable r x.poison) x.dev
        | none =>
          let c : RCmd := ⟨g.readIdx, d.sys.host.nextCmd, x.data, d.sys.expertOn p, 0, false, false, false, [], []⟩
          let s := (x.dev.sys.onHost (fun h => { h with nextCmd := h.nextCmd + 1 })).onRing r (fun g => { g with
            readIdx := g.readIdx + 1, cmds := g.cmds ++ [c], counts := addAt g.counts 0 1 })
          { x.dev with sys := if x.dev.commandOk p x.data then s else s.completeUid r c.uid 1 0 }
      else liftSys (fun s => s.unreadable r none) d
  else d
def execCommandRead (ring : Nat) := onRings (commandRead ring)

/-- The sequenced packets of a partition not yet acknowledged, as (stream, sequence) (R482). -/
def Sys.fenceNeeds (s : Sys) (p : Nat) : List (Nat × Nat) :=
  ((s.fab.streams.filter (fun t => t.part == p)).map (fun t => t.unacked.map (fun q => (t.key, q)))).flatten

/-- The commands of a partition's other rings that have started (R623). -/
def Sys.otherStarted (s : Sys) (p r : Nat) : List Nat :=
  ((List.range 64).filter (fun k => k != r && (s.ring k).inEffect && s.ringPart k == p)).flatMap
    (fun k => (s.ring k).started.map RCmd.uid)

/-- The group slot a COLLECTIVE's descriptor names, or an UPDATE's (R542). -/
def Dev.slotOf (d : Dev) (p : Nat) (c : RCmd) : Option Nat :=
  if c.kind = 4 then some c.op
  else if c.kind = 3 then
    let a := field c.bytes 24 8
    if c.desc != [] then some (bits (field c.desc 0 4) 7 4)
    else if d.rangeOk p a 4 false && (d.poisonIn p a 4).isNone then some (bits (leNat (d.peek p a 4)) 7 4)
    else none
  else none

/-- R615, R542, R624: what a command's start waits for beside its predecessor's. -/
def Dev.startWaits (d : Dev) (p : Nat) (earlier : List RCmd) (c : RCmd) : Bool :=
  ((bit (field c.bytes 1 1) 0 || (c.kind == 7 && c.op == 1)) && !earlier.isEmpty)
    || (c.kind == 3 && (d.slotOf p c).isSome && earlier.any (fun x => d.slotOf p x == d.slotOf p c))

/-- A read command starts (R615). -/
def commandStart (r : Nat) (d : Dev) : Dev :=
  let g := d.sys.ring r
  let p := d.sys.ringPart r
  if d.sys.serves r && g.state != 4 && !d.sys.dying p r && !g.held && decide (g.started.length < 64) then
    match g.cmds.find? (fun c => c.phase == 0) with
    | none => d
    | some c =>
      let earlier := g.cmds.takeWhile (fun x => x.uid != c.uid)
      if d.startWaits p earlier c then d
      else if c.kind = 2 ∧ (c.op = 4 ∨ c.op = 5) ∧ d.sys.ringQpReady r = false then liftSys (fun s => s.stopRing r 4) d
      else
        let waits := if c.kind = 6 ∧ c.op = 1 then d.sys.otherStarted p r else []
        let s := d.sys.onRing r (fun g => { g with
          cmds := g.cmds.map (fun x => if x.uid == c.uid then { x with phase := 1, waits := waits } else x) })
        let s := if c.kind = 6 ∧ bit (field c.bytes 17 1) 0 = true then
            s.onFab (fun f => { f with fences := f.fences ++ [⟨f.nextUid, p, ⟨0, 0, 0⟩, 0, 0, r, c.idx, true, s.fenceNeeds p⟩]
                                       nextUid := f.nextUid + 1 })
          else s
        { d with sys := s }
  else d
def execCommandStart (ring : Nat) := onRings (commandStart ring)

/-- A started command of a kind and operation whose row has not begun its work. `op` 0 takes any operation. -/
def Sys.startedCmd (s : Sys) (r idx kind op : Nat) : Option RCmd :=
  match (s.ring r).cmd? idx with
  | some c =>
    if s.serves r && c.phase == 1 && !c.begun && c.kind == kind && (op == 0 || c.op == op)
        && (!s.dying (s.ringPart r) r || (kind != 1 && kind != 6 && kind != 7)) then some c
    else none
  | none => none

/-- The row of a command's kind has begun its work. -/
def Sys.begin (s : Sys) (r uid : Nat) : Sys :=
  s.onRing r (fun g => { g with cmds := g.cmds.map (fun x => if x.uid == uid then { x with begun := true } else x) })

/-! ## FENCE and EVENT (R623, R624) -/

/-- Commands of other rings still running, of those a FENCE waits for. -/
def Sys.uidsLive (s : Sys) (l : List Nat) : Bool := s.host.rings.any (fun g => g.cmds.any (fun c => l.contains c.uid))

/-- A FENCE completes when what it waits for has ended. -/
def fenceRow (scope r idx : Nat) (s : Sys) : Sys :=
  match s.startedCmd r idx 6 0 with
  | none => s
  | some c =>
    let first := (s.ring r).cmds.head? == some c
    let fab := s.fab.fences.any (fun f => f.isCmd && f.ring == r && f.idx == idx && f.needs != [])
    if c.op = scope ∧ first = true ∧ fab = false ∧ s.uidsLive c.waits = false then
      (s.completeUid r c.uid 0 0).onFab (fun f => { f with fences := f.fences.filter (fun x => !(x.isCmd && x.ring == r && x.idx == idx)) })
    else s
def execFenceRing (ring idx : Nat) := onRings (liftSys (fenceRow 0 ring idx))
def execFencePartition (ring idx : Nat) := onRings (liftSys (fenceRow 1 ring idx))

/-- EVENT signal writes its value at sys scope, then completes. -/
def eventSignal (r idx : Nat) (d : Dev) : Dev :=
  match d.sys.startedCmd r idx 7 1 with
  | none => d
  | some c =>
    let p := d.sys.ringPart r
    let a := field c.bytes 24 8
    if d.rangeOk p a 8 true then
      liftSys (fun s => s.completeUid r c.uid 0 0) (d.writeRange p a (natLe 8 (field c.bytes 32 8)))
    else d
def execEventSignal (ring idx : Nat) := onRings (eventSignal ring idx)

/-- EVENT wait begins to hold its ring, and samples its word at once. -/
def eventWait (r idx : Nat) (d : Dev) : Dev :=
  match d.sys.startedCmd r idx 7 2 with
  | none => d
  | some c => (liftSys (fun s => s.begin r c.uid) d).sampleEvent r
def execEventWait (ring idx : Nat) := onRings (eventWait ring idx)
def execEventWaitSample (ring : Nat) := onRings (fun d =>
  if d.sys.serves ring && !d.sys.dying (d.sys.ringPart ring) ring then d.sampleEvent ring else d)

/-! ## COMPLETION_RECORD_WRITE (R625, R626, R35) -/

/-- The 32 bytes of a completion record (Table 17-8). -/
def recordBytes (r part : Nat) (c : CRec) : List Byte :=
  natLe 8 c.tag ++ natLe 8 c.idx ++ natLe 1 c.status ++ natLe 1 c.kind ++ natLe 1 r ++ natLe 1 part ++ natLe 4 c.detail
    ++ natLe 8 c.seq

/-- Packets of a message on a queue pair's path (one for no data). -/
def Qp.packets (q : Qp) (n : Nat) : Nat := max 1 ((n + q.mtu - 1) / q.mtu)

/-- `n` frames of a priority go out at an Ethernet port: a paused priority holds them (R598), and a port that is down sends nothing
(R64). -/
def EthPort.send (e : EthPort) (prio n : Nat) : EthPort :=
  if !e.up then e
  else if e.pausedTx.getD prio false then { e with heldTx := addAt e.heldTx prio n }
  else { e with counts := addAt e.counts 1 n }
def Sys.ethSend (s : Sys) (port prio n : Nat) : Sys := s.onHost (fun h => { h with eth := modNth h.eth port (fun e => e.send prio n) })

/-- Enter a request on a queue pair (R607): its packets take the next PSNs; a read's responses are those of its length. -/
def Sys.qpSend (s : Sys) (i : Nat) (m : QpReq) : Sys :=
  (s.onQp i (fun q => { q with outstanding := q.outstanding ++ [m], psnOut := (q.psnOut + q.packets m.len) % 2 ^ 24 })).ethSend
    (s.qp i).port (s.qp i).prio (if m.read then 1 else (s.qp i).packets m.len)

/-- The oldest waiting record goes to its slot when the completion queue has room; with its queue pair not ready it is
discarded and counted and the ring stops. A LAUNCH's record follows the acceptance of its grid's stores (R35). -/
def completionRecordWrite (r : Nat) (s : Sys) : Sys :=
  let g := s.ring r
  match g.records with
  | [] => s
  | c :: rest =>
    let rec_ := s.ringRec r
    if s.coreRuns && g.inEffect && !s.unitStopped 0x0F 0 && decide (c.seq ≤ g.consumed + field rec_ 28 4)
        && !s.core.stores.any (fun x => x.uid == c.uid) then
      if s.ringQpReady r then
        let bs := recordBytes r (s.ringPart r) c
        (s.onRing r (fun g => { g with records := rest })).qpSend (ringQp rec_)
          ⟨false, field rec_ 16 8 + 32 * ((c.seq - 1) % field rec_ 28 4), field rec_ 24 4, bs, 32, r, none, 0⟩
      else (s.onRing r (fun g => { g with records := rest, counts := addAt g.counts 2 1 })).stopRing r 4
    else s
def execCompletionRecordWrite (ring : Nat) := onRings (liftSys (completionRecordWrite ring))

/-! ## COPY operations 1, 4 and 5 (R621) -/

/-- A copy that ends at a poisoned source line: bytes before its end may have been written, none from a poisoned line
(Table 9-2). -/
def Dev.partCopy (d : Dev) (p a b n : Nat) : List Byte :=
  (List.range n).map (fun i =>
    let old := (d.peek p (b + i) 1).headD 0
    if (d.poisonIn p (a + i) 1).isSome then old
    else if Config.freeBool (d.sys.freeCtr + i) then (d.peek p (a + i) 1).headD 0 else old)

def copyLocal (r idx : Nat) (d : Dev) : Dev :=
  match d.sys.startedCmd r idx 2 1 with
  | none => d
  | some c =>
    let p := d.sys.ringPart r
    let a := field c.bytes 24 8
    let b := field c.bytes 32 8
    let n := field c.bytes 40 8
    if d.rangeOk p a n false && d.rangeOk p b n true then
      let x := d.readRange p a n
      match x.poison with
      | none => liftSys (fun s => s.completeUid r c.uid 0 0) (x.dev.writeRange p b x.data)
      | some at_ => liftSys (fun s => (s.poisonKill r idx at_).drew n) (x.dev.writeRange p b (x.dev.partCopy p a b n))
    else d
def execCopyLocal (ring idx : Nat) := onRings (copyLocal ring idx)

/-- COPY operation 4 enters its RDMA write; it completes once its last packet has been entered. -/
def copyHostWrite (r idx : Nat) (d : Dev) : Dev :=
  match d.sys.startedCmd r idx 2 4 with
  | none => d
  | some c =>
    let p := d.sys.ringPart r
    let a := field c.bytes 24 8
    let n := field c.bytes 40 8
    let q := ringQp (d.sys.ringRec r)
    if !d.sys.ringQpReady r then liftSys (fun s => s.dropCmd r idx) d
    else if d.rangeOk p a n false then
      let x := d.readRange p a n
      match x.poison with
      | some at_ => liftSys (fun s => s.poisonKill r idx at_) x.dev
      | none =>
        let send := fun (s : Sys) =>
          if n = 0 then s else s.qpSend q ⟨false, field c.bytes 32 8, field c.bytes 48 4, x.data, n, r, some idx, 0⟩
        liftSys (fun s => (send s).completeUid r c.uid 0 0) x.dev
    else d
def execCopyHostWrite (ring idx : Nat) := onRings (copyHostWrite ring idx)

/-- COPY operation 5 enters its RDMA read when fewer than 16 are outstanding (R607); the data arrive with the response. -/
def copyHostRead (r idx : Nat) (s : Sys) : Sys :=
  match s.startedCmd r idx 2 5 with
  | none => s
  | some c =>
    let n := field c.bytes 40 8
    let q := ringQp (s.ringRec r)
    if !s.ringQpReady r then s.dropCmd r idx
    else if n = 0 then s.completeUid r c.uid 0 0
    else if ((s.qp q).outstanding.filter QpReq.read).length < 16 then
      (s.begin r c.uid).qpSend q ⟨true, field c.bytes 24 8, field c.bytes 48 4, [], n, r, some idx, field c.bytes 32 8⟩
    else s
def execCopyHostRead (ring idx : Nat) := onRings (liftSys (copyHostRead ring idx))

end Sys2Proof.Machine
end

