-- ==== Sys2Proof/Machine/Host.lean ====
section
/-! DEFINITION. Ethernet ports and queue pairs (17_host_ethernet.md, R595 to R608). -/

namespace Sys2Proof.Machine

open Sys2Proof

/-! ## Addresses (R149 to R151, R600) -/

/-- The IPv6 link-local address of a MAC address by modified EUI-64: fe80::/64, the first three octets with the universal bit
inverted, ff fe, and the last three (R151). -/
def linkLocal (mac : Nat) : List Byte :=
  let o := fun k => BitVec.ofNat 8 (mac / 2 ^ (8 * (5 - k)) % 256)
  [0xFE, 0x80] ++ zeros 6 ++ [o 0 ^^^ 2, o 1, o 2, 0xFF, 0xFE, o 3, o 4, o 5]

/-- Whether an address is Yarys's own on an interface: those of 0x9001 on an Ethernet port, zero meaning none, and on T1S only the
link-local one. -/
def Sys.ownAddr (s : Sys) (iface : Nat) (a : IpAddr) : Bool :=
  match a with
  | .v4 n => decide (iface < 2) && n != 0 && s.cfgN 0x9001 (5 * iface + 1) == n
  | .v6 b =>
    if iface = 2 then b == linkLocal s.mgmt.sec.mgmtMac
    else decide (iface < 2) && b != zeros 16 && s.cfg 0x9001 (5 * iface + 3) == b

/-! ## Ports (R596 to R600) -/

def Sys.eth (s : Sys) (i : Nat) : EthPort := s.host.eth.getD i EthPort.reset
def Sys.onEth (s : Sys) (i : Nat) (f : EthPort → EthPort) : Sys := s.onHost (fun h => { h with eth := modNth h.eth i f })
def Sys.ethCount (s : Sys) (i k n : Nat) : Sys := s.onEth i (fun e => { e with counts := addAt e.counts k n })

/-- An Ethernet port waits for light: its engine's laser input has not held its level for 1 ms since it was last dark (R63,
R700). -/
def Sys.ethLaserWait (s : Sys) (port : Nat) : Bool :=
  !((s.mgmt.power.laserHeld.getD (port + 4) false) && s.mgmt.power.lit (port + 4))

/-- ETH_PORT_STATE: the change is logged and the port status updated (R596). A port that waits for light does not come up
(R18, R63, R700). -/
def ethPortState (port : Nat) (up : Bool) (s : Sys) : Sys :=
  if decide (port < 2) && decide (4 ≤ s.mgmt.bring.phase ∧ s.mgmt.bring.phase ≤ 8) && (s.eth port).up != up
      && !(up && s.ethLaserWait port) then
    (s.onEth port (fun e => { e with
      up := up
      entriesUp := if up then e.entriesUp + 1 else e.entriesUp
      entriesDown := if up then e.entriesDown else e.entriesDown + 1 })).log 0x0901 port 255 0
        [BitVec.ofNat 8 port, if up then 1 else 0]
  else s

/-- Whether PFC is on for a priority (0x9002). -/
def Sys.pfcOn (s : Sys) (prio : Nat) : Bool := decide (prio < 8) && bit (s.cfgN 0x9002 1) prio

/-- The VLAN ID is the port's own or that of a ready queue pair on the port (R597, R600). -/
def Sys.vlanOk (s : Sys) (port vlan : Nat) : Bool :=
  vlan == s.cfgN 0x9001 (5 * port + 5) ||
    s.host.qps.any (fun q => q.2.st == 1 && q.2.port == port && bits (field q.2.record 40 2) 11 0 == vlan)

def kib (n : Nat) : Nat := 1024 * n

/-- Since the last look a receive buffer has drained by an amount the spec does not fix; falling below 512 KiB ends its
XOFF with an XON (R598). -/
def Sys.ethDrain (s : Sys) (port prio : Nat) : Sys :=
  let e := s.eth port
  let now := s.freeNat % (nth e.fill prio + 1)
  let off := e.xoff.getD prio false
  let s := (s.onEth port (fun e => { e with fill := setNth e.fill prio now })).drew 1
  if off && decide (now < kib 512) then
    (s.onEth port (fun e => { e with xoff := setNth e.xoff prio false })).ethCount port 5 1
  else s

/-- A frame to a network address is for one of the port's own (R600). -/
def Sys.netOk (s : Sys) (iface : Nat) : FrameNet → Bool
  | .ask a | .echo a | .udp a => s.ownAddr iface a
  | .other => true

/-- ARP requests, neighbour solicitations and echo requests are answered (R151, R600). -/
def Sys.netAnswer (s : Sys) (iface : Nat) (n : FrameNet) : Sys :=
  match n with
  | .ask _ | .echo _ => (if iface < 2 then s.ethCount iface 1 1 else s).onHost (fun h => { h with netReply := some (iface, n) })
  | _ => s

/-- T1S answers neighbour solicitations for its link-local address, and no IPv4 (R151). -/
def Sys.t1sFrame (s : Sys) (f : FrameIn) : Sys :=
  if s.mgmtUp && f.fcsOk && s.netOk 2 f.net then s.netAnswer 2 f.net else s

/-- FRAME_RECEIVE: the checks of R597, then the buffer of the frame's priority (R598). -/
def frameReceive (port : Nat) (f : FrameIn) (s : Sys) : Sys :=
  if port = 2 then s.t1sFrame f
  else if decide (port < 2) && (s.eth port).up then
    let s := (s.ethCount port 0 1).ethDrain port f.priority
    let full := (s.pfcOn f.priority == false) && decide (nth (s.eth port).fill f.priority + f.len > kib 256)
    if f.fcsOk = false ∨ f.len < 64 ∨ f.len > 9216 ∨ s.vlanOk port f.vlan = false ∨ f.dest = 1 ∨ f.supported = false
        ∨ s.netOk port f.net = false ∨ full = true then
      s.ethCount port 4 1
    else
      let fill := nth (s.eth port).fill f.priority + f.len
      let s := s.onEth port (fun e => { e with fill := setNth e.fill f.priority fill })
      if s.pfcOn f.priority && decide (fill > kib 768) && !(s.eth port).xoff.getD f.priority false then
        ((s.onEth port (fun e => { e with xoff := setNth e.xoff f.priority true })).ethCount port 5 1).netAnswer port f.net
      else s.netAnswer port f.net
  else s
def execFrameReceive (port : Nat) (f : FrameIn) := onSys (frameReceive port f)

/-- A priority is paused, or resumes and sends what it held. -/
def EthPort.pause (e : EthPort) (prio : Nat) (stop : Bool) : EthPort :=
  let e := { e with pausedTx := setNth e.pausedTx prio stop }
  if stop then e else { e.send prio (nth e.heldTx prio) with heldTx := setNth e.heldTx prio 0 }

/-- PFC_PAUSE_RECEIVE: a pause of an enabled priority stops its transmission, quanta 0 resumes it; others are ignored
(R598). -/
def pfcPause (port prio quanta : Nat) (s : Sys) : Sys :=
  if decide (port < 2) && (s.eth port).up then
    let s := s.ethCount port 6 1
    if s.pfcOn prio then s.onEth port (fun e => e.pause prio (quanta != 0)) else s
  else s
def execPfcPauseReceive (port priority quanta : Nat) := onSys (pfcPause port priority quanta)

/-- PFC_XOFF_REPEAT: above 512 KiB the XOFF is sent again (R598). -/
def pfcRepeat (port prio : Nat) (s : Sys) : Sys :=
  if decide (port < 2) && (s.eth port).up && (s.eth port).xoff.getD prio false then
    let s := s.ethDrain port prio
    if nth (s.eth port).fill prio > kib 512 then s.ethCount port 5 1 else s
  else s
def execPfcXoffRepeat (port priority : Nat) := onSys (pfcRepeat port priority)

/-! ## Rates (R599) -/

def f32Val (bs : List Byte) : Num.Val := Num.decode Num.fp32 (leNat bs)
def maxVal (a b : Num.Val) : Num.Val := if a.cmp b = some (-1) then b else a
def minVal (a b : Num.Val) : Num.Val := if a.cmp b = some 1 then b else a
def lineRate : Num.Val := Num.ofInt 800

/-- A queue pair that is ready on a port that is up. -/
def Sys.qpLive (s : Sys) (i : Nat) : Bool :=
  s.coreRuns && decide (i < 4096) && (s.qp i).st == 1 && (s.eth (s.qp i).port).up && !s.unitStopped 0x10 (s.qp i).port

/-- A CNP cuts the send rate, not below the minimum. -/
def cnpReceive (i : Nat) (s : Sys) : Sys :=
  if s.qpLive i then
    let keep := (Num.ofInt 1).add (f32Val (s.cfg 0x9003 1)).neg
    s.onQp i (fun q => { q with rate := maxVal (Num.ofInt (s.cfgN 0x9003 4)) (q.rate.mul keep) })
  else s
def execCnpReceive (qp : Nat) := onSys (cnpReceive qp)

/-- An increase interval without a CNP raises the rate by the step, not above the line rate. -/
def rateIncrease (i : Nat) (s : Sys) : Sys :=
  if s.qpLive i then s.onQp i (fun q => { q with rate := minVal lineRate (q.rate.add (Num.ofInt (s.cfgN 0x9003 3))) }) else s
def execRateIncrease (qp : Nat) := onSys (rateIncrease qp)

/-- A CE-marked packet of a ready queue pair: a CNP goes out unless one was sent within the CNP interval, which the model
does not time (log entry 16). -/
def Sys.congestion (s : Sys) (i : Nat) (ce : Bool) : Sys :=
  if ce then
    let send := s.freeBool
    let s := s.drew 1
    if send then s.ethCount (s.qp i).port 7 1 else s
  else s

/-! ## Responder (R604 to R606) -/

/-- An answer of the responder. -/
def Sys.qpReply (s : Sys) (i kind : Nat) (data : List Byte) : Sys :=
  let p := (s.qp i).part
  let nak := decide (2 ≤ kind ∧ kind ≤ 5)
  let s := s.onQp i (fun q => { q with lastReply := kind, lastData := data })
  let s := s.ethSend (s.qp i).port (s.qp i).prio (if kind = 6 then (s.qp i).packets data.length else 1)
  if nak then s.onHost (fun h => { h with rdma := modNth h.rdma p (fun c => addAt c 2 1) }) else s
def Sys.rdmaCount (s : Sys) (p k : Nat) : Sys := s.onHost (fun h => { h with rdma := modNth h.rdma p (fun c => addAt c k 1) })
def Sys.qpTook (s : Sys) (i n : Nat) : Sys := s.onQp i (fun q => { q with psnIn := (q.psnIn + q.packets n) % 2 ^ 24 })

def Qp.rkey (q : Qp) : Nat := field q.record 44 4
def Qp.access (q : Qp) (b : Nat) : Bool := bit (field q.record 48 1) b

/-- An access that the key, the access bit or R216 refuses: NAK for remote access error, counted under R217. -/
def Sys.qpRefuse (s : Sys) (i : Nat) : Sys := (s.transFault (s.qp i).part).qpReply i 3 []

/-- Every stack an access touches still accepts work. -/
def Dev.rangeUp (d : Dev) (p a n : Nat) : Bool := (rangePieces a n).all (fun x => d.stackUp (d.locate p x.1).1)

/-- RDMA_WRITE_RECEIVE: one write message is checked and written; its lines become visible before the next message's
(R604, R238). -/
def rdmaWrite (i addr rkey : Nat) (data : List Byte) (ce : Bool) (d : Dev) : Dev :=
  if d.sys.qpLive i then
    let q := d.sys.qp i
    let d := liftSys (fun s => s.congestion i ce) d
    if q.access 0 = false ∨ rkey ≠ q.rkey ∨ d.rangeOk q.part addr data.length true = false then
      liftSys (fun s => s.qpRefuse i) d
    else if d.rangeUp q.part addr data.length then
      liftSys (fun s => ((s.rdmaCount q.part 0).qpTook i data.length).qpReply i 1 []) (d.writeRange q.part addr data)
    else d
  else d
def execRdmaWriteReceive (qp addr rkey : Nat) (data : List Byte) (ce : Bool) := onDev (rdmaWrite qp addr rkey data ce)

/-- RDMA_READ_REQUEST: device bytes answer a read; a poisoned line ends it with a NAK and event 0x0202 (R604, Table 9-2). -/
def rdmaRead (i addr rkey len : Nat) (d : Dev) : Dev :=
  if d.sys.qpLive i then
    let q := d.sys.qp i
    if q.access 1 = false ∨ rkey ≠ q.rkey ∨ d.rangeOk q.part addr len false = false then liftSys (fun s => s.qpRefuse i) d
    else if d.rangeUp q.part addr len then
      let x := d.readRange q.part addr len
      match x.poison with
      | some at_ =>
        let p := x.dev.ownerOf at_.1 at_.2
        liftSys (fun s => (if p < 16 then s.raise p 0x0202 at_.1 (memDetail at_.2 255 0) else s).qpReply i 4 []) x.dev
      | none => liftSys (fun s => ((s.rdmaCount q.part 1).qpTook i len).qpReply i 6 x.data) x.dev
    else d
  else d
def execRdmaReadRequest (qp addr rkey len : Nat) := onDev (rdmaRead qp addr rkey len)

/-- INVALID_REQUEST: NAK for invalid request, and the queue pair enters state 2 (R605). -/
def invalidRequest (i : Nat) (s : Sys) : Sys := if s.qpLive i then (s.qpReply i 2 []).qpError i else s
def execInvalidRequest (qp : Nat) := onRings (liftSys (invalidRequest qp))

def Qp.slots (q : Qp) : Nat := field q.record 52 4
def Qp.area (q : Qp) : Nat := field q.record 56 8

/-- SEND_RECEIVE: the message with number u goes to its slot, its trailer after its payload; a full area is an RNR NAK
(R606). A SEND longer than 4,096 bytes is an invalid request (R605). -/
def sendReceive (i : Nat) (data : List Byte) (d : Dev) : Dev :=
  if d.sys.qpLive i then
    let q := d.sys.qp i
    let bytes := 64 + 4160 * q.slots
    if data.length > 4096 then liftSys (fun s => (s.qpReply i 2 []).qpError i) d
    else if q.access 2 = false then liftSys (fun s => s.qpRefuse i) d
    else if q.slots = 0 then liftSys (fun s => s.qpReply i 5 []) d
    else if d.rangeOk q.part q.area bytes true = false then liftSys (fun s => s.qpRefuse i) d
    else if d.rangeUp q.part q.area bytes then
      let x := d.readRange q.part q.area 8
      let u := q.sends + 1
      match x.poison with
      | some at_ =>
        let p := x.dev.ownerOf at_.1 at_.2
        liftSys (fun s => (if p < 16 then s.raise p 0x0202 at_.1 (memDetail at_.2 255 0) else s).qpReply i 4 []) x.dev
      | none =>
        if u > leNat x.data + q.slots then liftSys (fun s => s.qpReply i 5 []) x.dev
        else
          let a := q.area + 64 + 4160 * ((u - 1) % q.slots)
          let d := (x.dev.writeRange q.part a data).writeRange q.part (a + 4096) (natLe 4 data.length)
          let d := d.writeRange q.part (a + 4104) (natLe 8 u)
          liftSys (fun s => ((s.onQp i (fun q => { q with sends := u })).qpTook i data.length).qpReply i 1 []) d
    else d
  else d
def execSendReceive (qp : Nat) (data : List Byte) := onRings (sendReceive qp data)

/-! ## Requester (R607, R608) -/

/-- The oldest request is sent again; a masked fault (Table 18-1). While the port is down its transmit fibre is dark and nothing is
sent (R64). -/
def Sys.qpAgain (s : Sys) (i : Nat) : Sys :=
  let q := s.qp i
  if (s.eth q.port).up then (s.ethSend q.port q.prio 1).maskedCount 0x10 else s

/-- RDMA_RETRANSMIT_TIMEOUT: an unanswered request is sent again; the exhausted retry count is an error (R607). -/
def retransmit (i : Nat) (s : Sys) : Sys :=
  let q := s.qp i
  if s.coreRuns && !s.unitStopped 0x10 q.port && q.st == 1 && q.outstanding != [] then
    if q.retries ≥ bits (field q.record 49 1) 2 0 then s.qpError i
    else (s.onQp i (fun q => { q with retries := q.retries + 1 })).qpAgain i
  else s
def execRdmaRetransmitTimeout (qp : Nat) := onRings (liftSys (retransmit qp))

/-- An RNR NAK: sent again under the RNR retry count, of which 7 is unlimited (Table 17-2, R607). -/
def receiverNotReady (i : Nat) (s : Sys) : Sys :=
  let n := bits (field (s.qp i).record 49 1) 6 4
  if n ≠ 7 ∧ (s.qp i).rnrs ≥ n then s.qpError i
  else (s.onQp i (fun q => { q with rnrs := q.rnrs + 1 })).qpAgain i

/-- The oldest request is answered: it leaves the list and the retry counts start again. -/
def Sys.qpAnswered (s : Sys) (i : Nat) : Sys := s.onQp i (fun q => { q with outstanding := q.outstanding.drop 1, retries := 0, rnrs := 0 })

/-- RDMA_RESPONSE_RECEIVE: kind 0 an ACK, 1 read data, 2 a NAK for a sequence error, which asks for a resend, 4 an RNR
NAK, 3 any other NAK (PRESUMED of RoCEv2: it ends the connection; log entry 17). Read data are placed and complete their COPY (R607,
R621). -/
def rdmaResponse (i kind : Nat) (data : List Byte) (d : Dev) : Dev :=
  let q := d.sys.qp i
  if d.sys.qpLive i then
    match q.outstanding with
    | [] => d
    | m :: _ =>
      if kind = 0 ∧ m.read = false then liftSys (fun s => s.qpAnswered i) d
      else if kind = 1 ∧ m.read = true ∧ data.length = m.len then
        let p := d.sys.ringPart m.ring
        if d.rangeOk p m.dest m.len true && d.rangeUp p m.dest m.len then
          let d := liftSys (fun s => s.qpAnswered i) d
          match m.cmd with
          | some idx =>
            if ((d.sys.ring m.ring).cmd? idx).isSome then
              liftSys (fun s => s.completeCmd m.ring idx 0 0) (d.writeRange p m.dest data)
            else d
          | none => d
        else d
      else if kind = 2 then liftSys (retransmit i) d
      else if kind = 4 then liftSys (receiverNotReady i) d
      else if kind = 3 then liftSys (fun s => s.qpError i) d
      else d
  else d
def execRdmaResponseReceive (qp kind : Nat) (data : List Byte) := onRings (rdmaResponse qp kind data)

/-! ## Queue pair records (R602, R603) -/

/-- The field domains of Table 17-2, for a record in state 1. -/
def qpDomains (b : List Byte) : Bool :=
  let vlan := field b 40 2
  let slots := field b 52 4
  decide (field b 1 1 < 16 ∧ field b 2 1 < 2 ∧ 1 ≤ field b 3 1 ∧ field b 3 1 ≤ 5 ∧ field b 4 4 < 2 ^ 24 ∧ field b 8 4 < 2 ^ 24
      ∧ field b 12 4 < 2 ^ 24 ∧ field b 32 8 < 2 ^ 48 ∧ field b 42 1 < 64 ∧ 1 ≤ field b 43 1 ∧ field b 48 1 < 8
      ∧ 1 ≤ field b 50 1 ∧ field b 50 1 ≤ 31)
    && !bit vlan 12 && !bit (field b 49 1) 3 && !bit (field b 49 1) 7 && resZero b 51 1
    && (slots == 0 || pow2In slots 1 4096) && field b 56 8 % 4096 == 0

def Sys.readyQps (s : Sys) (p : Nat) : Nat := (s.host.qps.filter (fun q => q.2.st == 1 && q.2.part == p)).length

/-- What a write of queue pair record `i` is rejected with (R602, R603); a state other than 0 and 1 in a record in state 0 is a field
outside its domain (log entry 98). -/
def Sys.qpWriteAbort (s : Sys) (i : Nat) (b : List Byte) : Option Nat :=
  let old := (s.qp i).st
  let new := field b 0 1
  if new = 0 then none
  else if old ≠ 0 then some 0x00030105
  else if new ≠ 1 then some 0x00030002
  else if qpDomains b = false then some 0x00030002
  else
    let p := field b 1 1
    let count := if s.partEnabled p then (s.part p).nQps else 0
    if s.readyQps p + 1 > count then some 0x00030104 else none

/-- A move to 0 discards what is outstanding; a move to 1 starts both PSNs from the record, and the send rate at a value
the spec does not give (log entry 2). -/
def Sys.qpWrite (s : Sys) (i : Nat) (b : List Byte) : Sys :=
  if field b 0 1 = 0 then s.onQp i (fun _ => { Qp.reset with record := b })
  else
    let rate := Num.ofInt ((s.freeNat % 800 + 1 : Nat) : Int)
    (s.onQp i (fun _ => { Qp.reset with record := b, psnOut := field b 8 4, psnIn := field b 12 4, rate := rate })).drew 1

/-- A fault of a transport engine puts a queue pair into state 2 (Table 18-1). A count that falls releases the partition's
highest-numbered ready queue pairs (R576). -/
def Sys.releaseQps (s : Sys) (p : Nat) : Sys :=
  let mine := (s.host.qps.filter (fun q => q.2.st == 1 && q.2.part == p)).map Prod.fst
  let keep := if s.partEnabled p then (s.part p).nQps else 0
  runAll (fun i s => s.onQp i (fun q => { Qp.reset with record := 0 :: q.record.drop 1 })) (mine.drop keep) s

end Sys2Proof.Machine
end

