-- ==== Sys2Proof/Machine/FabBase.lean ====
section
/-! DEFINITION. Remote operations at their source (13_fabric_operations.md): the request queue with its streams (R479 to
R483), answers and the completion of operations (R472, R473), the fabric fence (R482), and CTRL packets (R477, R478). -/

namespace Sys2Proof.Machine

open Sys2Proof

/-! ## Identity -/

def Sys.fidValid (s : Sys) : Bool := s.cfgN 0x6110 5 == 1
/-- The fabric ID that coordinates give (R505). -/
def fidOf (x y z : Nat) : Nat := z * 4096 + y * 64 + x
def Sys.fid (s : Sys) : Nat := fidOf (s.cfgN 0x6110 2) (s.cfgN 0x6110 3) (s.cfgN 0x6110 4)
def Sys.role (s : Sys) : Nat := s.cfgN 0x6110 1

/-! ## Packets (Tables 13-4 and 13-5) -/

def kGet : Nat := 1
def kPut : Nat := 2
def kMput : Nat := 3
def kRed : Nat := 4
def kAtom : Nat := 5
def kFlag : Nat := 6
def kCombined : Nat := 7
def kCtrl : Nat := 8
def kData : Nat := 0x81
def kAck : Nat := 0x82
def kResult : Nat := 0x83
def kNak : Nat := 0x84

def isReply (p : Pkt) : Bool := decide (p.kind ≥ 0x80)
def isMcast (p : Pkt) : Bool := bit p.flags 2
/-- Kinds whose packets a stream numbers (Table 13-7). -/
def sequenced (kind : Nat) : Bool := decide (2 ≤ kind ∧ kind ≤ 6)
/-- Flits of a packet: 32 header bytes and its payload in 240-byte flits (R443). -/
def pktFlits (p : Pkt) : Nat := (32 + p.payload.length + 239) / 240

/-- A reply: source and destination exchanged, the request's sequence; the offset and operation are the request's, which
tells replies of different streams apart (log entry 22). -/
def replyTo (p : Pkt) (kind status : Nat) (payload : List Byte) : Pkt :=
  { p with kind := kind, flags := p.flags &&& 12, status := status, dst := p.src, src := p.dst, key := 0, window := 0,
           len := payload.length, payload := payload }

/-- Hand a packet of this device to its router. -/
def Sys.inject (s : Sys) (p : Pkt) (vc : Nat) : Sys :=
  s.onFab (fun f => { f with router := f.router ++ [⟨p, vc, 0, 16, false⟩] })

/-! ## Streams -/

/-- A stream's key: its destination, or its group above 2^20. -/
def streamKey (p : Pkt) : Nat := if isMcast p then 2 ^ 20 + p.dst else p.dst

def streamOf (l : List Stream) (part key : Nat) : Stream :=
  (l.find? (fun t => t.part == part && t.key == key)).getD ⟨part, key, 0, []⟩
def streamSet (l : List Stream) (t : Stream) : List Stream :=
  if l.any (fun x => x.part == t.part && x.key == t.key) then
    l.map (fun x => if x.part == t.part && x.key == t.key then t else x)
  else l ++ [t]

/-- A packet of operation `o` enters the request queue: a sequenced kind takes its stream's next number (R483), a GET a
number of its own (log entry 22). -/
def FabState.enter (f : FabState) (o part vc : Nat) (pkt : Pkt) (addr : Nat) (snap : List Byte) : FabState :=
  let t := streamOf f.streams part (streamKey pkt)
  let sq := sequenced pkt.kind
  let pkt := { pkt with part := part, seq := if sq then t.next else f.nextUid % 2 ^ 32 }
  { f with
    streams := if sq then streamSet f.streams { t with next := (t.next + 1) % 2 ^ 32, unacked := t.unacked ++ [t.next] } else f.streams
    reqs := f.reqs ++ [⟨f.nextUid, o, part, vc, pkt, 0, f.routeGen, addr, snap⟩]
    queue := f.queue ++ [f.nextUid]
    nextUid := f.nextUid + 1 }

/-- Segments of `n` bytes at each 4,096-byte boundary of the remote offset, as (bytes from the start, length); no bytes still
give one packet (R472, R479). -/
def cutSegs : Nat → Nat → Nat → Nat → List (Nat × Nat)
  | 0, _, _, _ => []
  | f + 1, off, done, n =>
    if n = 0 then []
    else
      let k := min n (4096 - off % 4096)
      (done, k) :: cutSegs f (off + k) (done + k) (n - k)
def segments (off n : Nat) : List (Nat × Nat) := if n = 0 then [(0, 0)] else cutSegs (n / 4096 + 2) off 0 n

/-! ## Completion -/

/-- A counter of 0x6510. -/
def Sys.pcount (s : Sys) (p k : Nat) : Sys := s.onFab (fun f => { f with pcounts := modNth f.pcounts p (fun c => addAt c k 1) })

/-- The fences of threads whose packets have all been acknowledged count (R482). -/
def Sys.fenceDone (x : FabFence) (s : Sys) : Sys :=
  if x.isCmd || x.needs != [] then s
  else (s.onFab (fun f => { f with fences := f.fences.filter (fun y => y.id != x.id) })).bumpCounter x.block x.counter
def Sys.fencesDone (s : Sys) : Sys := runAll Sys.fenceDone s.fab.fences s

/-- A sequence of a stream is acknowledged. -/
def Sys.ackSeq (s : Sys) (part key seq : Nat) : Sys :=
  (s.onFab (fun f =>
    let t := streamOf f.streams part key
    { f with
      streams := streamSet f.streams { t with unacked := t.unacked.filter (fun q => q != seq) }
      fences := f.fences.map (fun x => if x.part == part then { x with needs := x.needs.filter (fun n => n != (key, seq)) } else x) })).fencesDone

def Sys.dropOp (s : Sys) (id : Nat) : Sys := s.onFab (fun f => { f with ops := f.ops.filter (fun o => o.id != id) })
def Sys.onOp (s : Sys) (id : Nat) (g : FabOp → FabOp) : Sys :=
  s.onFab (fun f => { f with ops := f.ops.map (fun o => if o.id == id then g o else o) })
def Sys.op? (s : Sys) (id : Nat) : Option FabOp := s.fab.ops.find? (fun o => o.id == id)

/-- The collective of a slot counts a segment's answer (R548, R566). -/
def Sys.segAnswered (s : Sys) (slot owner uid status : Nat) : Sys :=
  s.onFab (fun f => { f with slots := modNth f.slots slot (fun x => { x with
    running := x.running.map (fun c =>
      if c.uid = uid then
        { c with status := max c.status status, unacked := assocSet c.unacked owner (assoc c.unacked owner 0 - 1) }
      else c) }) })

/-- Whether the context of an operation is being killed. -/
def Sys.opDying (s : Sys) (o : FabOp) : Bool := o.owner == 0 && s.dying o.part o.ring

/-- An operation all of whose packets have been answered completes (R472, R473). -/
def Sys.opDone (s : Sys) (o : FabOp) : Sys :=
  let dead := s.opDying o
  let s := s.dropOp o.id
  if o.owner = 0 then
    if dead then s
    else ((s.csWrite o.block (o.descAddr + 56) (natLe 4 o.status)).bumpCounter o.block o.counter).pcount o.part 0
  else if o.owner = 1 then (s.pcount o.part 0).completeUid o.ring o.uid o.status 0
  else if o.owner = 2 then s.segAnswered o.slot o.idx o.uid o.status
  else s.pcount o.part 0

/-- The logical core of a thread's operation, 0xFFFF for a command (events 0x0304 and 0x0305). -/
def FabOp.source (o : FabOp) : Nat := if o.owner = 0 then o.gid.core else 0xFFFF

/-- The first KEY_MISMATCH of a thread's operation is a fault (R473); the first OUTCOME_UNKNOWN writes event 0x0304 (R488). -/
def Sys.opStatus (s : Sys) (o : FabOp) (r : FabReq) (status : Nat) : Sys :=
  let s := s.onOp o.id (fun x => { x with status := max x.status status })
  let s :=
    if status = 2 ∧ o.owner = 0 ∧ o.status < 2 ∧ s.opDying o = false then
      s.killContext o.part o.ring 0x0102 o.gid.core (coreDetail o.gid o.ring o.idx o.pc 0)
    else s
  if status = 5 ∧ o.status ≠ 5 then
    (s.pcount o.part 3).raise o.part 0x0304 o.source (natLe 4 r.pkt.dst ++ natLe 2 r.pkt.window ++ natLe 2 0 ++ natLe 4 r.pkt.seq)
  else s

/-- A request is answered: it leaves the source, its stream and its operation count it. -/
def Sys.answered (s : Sys) (r : FabReq) (status : Nat) : Sys :=
  let s := s.onFab (fun f => { f with reqs := f.reqs.filter (fun x => x.uid != r.uid), queue := f.queue.filter (fun u => u != r.uid) })
  let s := if sequenced r.pkt.kind then s.ackSeq r.part (streamKey r.pkt) r.pkt.seq else s
  match s.op? r.op with
  | none => s
  | some o =>
    let s := (s.opStatus o r status).onOp o.id (fun x => { x with left := x.left - 1 })
    match s.op? r.op with
    | none => s
    | some o => if o.left = 0 then s.opDone o else s

/-- A request that is discarded before its transmission counts as acknowledged (R705). -/
def Sys.discardReq (r : FabReq) (s : Sys) : Sys :=
  let s := s.onFab (fun f => { f with reqs := f.reqs.filter (fun x => x.uid != r.uid), queue := f.queue.filter (fun u => u != r.uid) })
  if sequenced r.pkt.kind then s.ackSeq r.part (streamKey r.pkt) r.pkt.seq else s

/-! ## CTRL packets -/

/-- Where a slot's epoch machine stands. -/
def Sys.machine (s : Sys) (g : Nat) : Nat × Nat × Nat :=
  let e := s.fab.epochs.getD g Epoch.reset
  (e.state, e.target, e.attempt)

/-- Send a vote or decision record to a fabric ID; the sender numbers its CTRL stream to each destination (R477). -/
def Sys.sendCtrl (s : Sys) (dest ctype slot target attempt : Nat) (payload : List Byte) : Sys :=
  let seq := NMap.get s.fab.ctrlSeq dest
  let s := s.onFab (fun f => { f with
    ctrlSeq := NMap.set f.ctrlSeq dest ((seq + 1) % 2 ^ 32)
    ctrlOut := f.ctrlOut ++ [⟨dest, seq, ctype, slot, target, attempt, payload, s.machine slot⟩] })
  s.inject ⟨kCtrl, 0, 0, 0, 0, dest, s.fid, 0, seq, 0, 0, 32, ctype, payload⟩ 0

/-- A vote record (Table 11-8). -/
def voteBytes (slot vote flags voters target fid attempt : Nat) : List Byte :=
  natLe 1 slot ++ natLe 1 vote ++ natLe 1 flags ++ [0] ++ natLe 4 voters ++ natLe 8 target ++ natLe 4 fid ++ natLe 4 attempt
    ++ zeros 8
/-- A decision record (Table 11-9). -/
def decisionBytes (slot decision reason fid target attempt : Nat) : List Byte :=
  natLe 1 slot ++ natLe 1 decision ++ natLe 1 reason ++ [0] ++ natLe 4 fid ++ natLe 8 target ++ natLe 4 attempt ++ zeros 12

end Sys2Proof.Machine
end

