-- ==== Sys2Proof/Machine/Epoch.lean ====
section
/-! DEFINITION. The owner's epoch machine (11_parameter_update.md, Table 11-10): its states, the vote (R404, R406, R408) and
the end of an UPDATE command (R414). -/

namespace Sys2Proof.Machine

open Sys2Proof

def Sys.epoch (s : Sys) (g : Nat) : Epoch := s.fab.epochs.getD g Epoch.reset
def Sys.onEpoch (s : Sys) (g : Nat) (f : Epoch → Epoch) : Sys := s.onFab (fun b => { b with epochs := modNth b.epochs g f })
def Sys.slot (s : Sys) (g : Nat) : Slot := s.fab.slots.getD g Slot.reset
def Sys.onSlot (s : Sys) (g : Nat) (f : Slot → Slot) : Sys := s.onFab (fun b => { b with slots := modNth b.slots g f })

/-- The machine of a slot enters a state (0x7401). -/
def Sys.enterEpoch (s : Sys) (g st : Nat) : Sys :=
  s.onEpoch g (fun e => { e with state := st, entry := s.mgmt.cycles, inDoubt := false })

/-- The block manager object names a fabric ID (0x7412). -/
def Sys.bmValid (s : Sys) : Bool := bit (s.cfgN 0x7412 1) 31
def Sys.bmFid (s : Sys) : Nat := bits (s.cfgN 0x7412 1) 16 0

/-- VOTE_SEND: STAGED or FAILED with the non-finite bit (R404, R557) and the root-held bit; the machine is then VOTED. -/
def Sys.castVote (s : Sys) (g : Nat) (staged : Bool) : Sys :=
  let e := s.epoch g
  let nf := e.nonfinite || (s.slot g).nfFlag
  let flags := (if nf then 1 else 0) + (if e.held then 2 else 0)
  let s := (s.onSlot g (fun x => { x with nfFlag := false })).enterEpoch g 2
  if s.bmValid then
    s.sendCtrl s.bmFid 1 g e.target e.attempt (voteBytes g (if staged then 1 else 2) flags 1 e.target s.fid e.attempt)
  else s

/-- The machine returns to IDLE; the UPDATE command completes unless its context was killed or its partition reset
(R414, Table 17-8). -/
def Sys.finishEpoch (s : Sys) (g status : Nat) : Sys :=
  let e := s.epoch g
  let s := s.enterEpoch g 0
  if e.killed || e.wasReset then s.onRing e.ring (fun r => { r with cmds := r.cmds.filter (fun c => c.uid != e.uid) })
  else s.completeUid e.ring e.uid status (e.committed % 2 ^ 32)

/-- The descriptors of a step have ended with a status (R408); a step aborted meanwhile casts no vote (Table 11-10). -/
def Sys.stepEnded (s : Sys) (g status : Nat) : Sys :=
  let e := s.epoch g
  if e.state = 1 then
    let s := s.onEpoch g (fun e => { e with status := status })
    if e.aborted then s.finishEpoch g (if e.bad then 1 else 9)
    else s.castVote g ((status == 0 || status == 7 || status == 8) && !e.killed)
  else s

/-- The slot whose running step belongs to a command. -/
def Sys.slotOfUid (s : Sys) (uid : Nat) : Option Nat :=
  (List.range 8).find? (fun g => (s.epoch g).state != 0 && (s.epoch g).uid == uid)

end Sys2Proof.Machine
end

