-- ==== Sys2Proof/Machine/KettleCheck.lean ====
section
/-! DEFINITION. What the command sequencer checks of a Kettle descriptor (09_shofel_kettle.md, R336 to R338, R344; Tables 9-6
to 9-11; 11_parameter_update.md, R393 to R395, R399). -/

namespace Sys2Proof.Machine

open Sys2Proof

/-- An address range a descriptor names: the offset of the field that names it, its address, bytes, and whether it is
written. -/
structure KRange where
  off : Nat
  addr : Nat
  len : Nat
  out : Bool
deriving DecidableEq, Repr

/-- The stack of a range in direct-aperture chunks of one stack; a range of zero bytes counts as its first byte (R337). -/
def Dev.directStack (d : Dev) (p : Nat) (r : KRange) : Option Nat :=
  let n := max 1 r.len
  let chunks := (List.range ((r.addr + n - 1) / 2 ^ 30 - r.addr / 2 ^ 30 + 1)).map
    (fun k => s2Chunk (NMap.get (d.table p) (r.addr / 2 ^ 30 + k)))
  match chunks with
  | [] => none
  | c :: _ => if chunks.all (fun x => decide (1024 ≤ x) && (x - 1024) / 64 == (c - 1024) / 64) then some ((c - 1024) / 64) else none

def Dev.kRangeOk (d : Dev) (p : Nat) (r : KRange) : Bool := d.rangeOk p r.addr (max 1 r.len) r.out

/-- The first of a list of conditions that fails, as the byte offset of its field (Table 9-5). -/
def firstFail : List (Bool × Nat) → Option Nat
  | [] => none
  | (ok, off) :: t => if ok then firstFail t else some off

/-- A descriptor's check: the detail of its failure, its stack, and the records read with it. -/
structure KCheck where
  fail : Option Nat
  stack : Nat
  shard : List Byte
  coef : List Byte
  faults : Nat
deriving DecidableEq, Repr

/-- The ranges of a descriptor: each aligned, translating, and in direct chunks of one stack (R337; a failed translation has
detail 0xFFFF, another range its field's offset, log entry 18). -/
def Dev.placeRanges (d : Dev) (p : Nat) (rs : List KRange) : Option Nat × Nat × Nat :=
  let stack := (rs.head?.bind (d.directStack p)).getD 0
  let bad := rs.find? (fun r => !(r.addr % 16 == 0 && d.kRangeOk p r && d.directStack p r == some stack))
  let faults := (rs.filter (fun r => !d.kRangeOk p r)).length
  match bad with
  | none => (none, stack, faults)
  | some r => (some (if r.addr % 16 = 0 ∧ d.kRangeOk p r = false then 0xFFFF else r.off), stack, faults)

/-! ## Fields -/

/-- Bytes of one row of K elements of a weight format (R287). -/
def rowBytes (f k : Nat) : Nat := (k * mxBits f + 7) / 8

/-- `count` rows of `len` bytes at a stride. -/
def strided (off a count str len : Nat) (out : Bool) : List KRange :=
  if count = 0 then [⟨off, a, 0, out⟩] else (List.range count).map (fun n => ⟨off, a + n * str, len, out⟩)

structure GemvD where
  v : Nat
  fmt : Nat
  mode : Nat
  src : Nat
  dst : Nat
  bf16 : Bool
  rows : Nat
  k : Nat
  w : Nat
  wStr : Nat
  sStr : Nat
  sc : Nat
  vec : Nat
  out : Nat
  oStr : Nat
deriving DecidableEq, Repr

/-- Tables 9-6 and 9-7. -/
def GemvD.of (b : List Byte) : GemvD where
  v := bits (field b 0 4) 11 8
  fmt := bits (field b 0 4) 15 12
  mode := bits (field b 0 4) 17 16
  src := bits (field b 0 4) 18 18
  dst := bits (field b 0 4) 19 19
  bf16 := bit (field b 0 4) 20
  rows := field b 4 4
  k := field b 8 4
  w := field b 16 8
  wStr := field b 24 4
  sStr := field b 28 4
  sc := field b 32 8
  vec := field b 40 8
  out := field b 48 8
  oStr := field b 56 4

def GemvD.esz (g : GemvD) : Nat := if g.bf16 then 2 else 4

/-- The domains of a GEMV descriptor; `decode` for a descriptor of a decode queue (R365), else vector source and
destination are 0 (R622). -/
def gemvFail (decode : Bool) (b : List Byte) : Option Nat :=
  let g := GemvD.of b
  let c := field b 0 4
  firstFail [
    (bits c 3 0 == 1 && bits c 7 5 == 0 && bits c 31 21 == 0 && decide (1 ≤ g.v ∧ g.v ≤ 8) && [0, 2, 3, 4, 5, 6].contains g.fmt
      && g.mode != 3 && !(g.fmt == 0 && g.mode == 1) && (if decode then g.src == 1 else g.src == 0 && g.dst == 0), 0),
    (decide (g.rows ≤ 16777216), 4),
    (decide (32 ≤ g.k ∧ g.k ≤ 16384) && g.k % 32 == 0, 8),
    (resZero b 12 4, 12),
    (g.w % 16 == 0, 16),
    (g.wStr % 16 == 0 && decide (rowBytes g.fmt g.k ≤ g.wStr), 24),
    (if g.mode = 1 then g.sStr % 16 == 0 else g.sStr == 0, 28),
    (if g.mode = 0 then g.sc == 0 else g.sc % 16 == 0, 32),
    (if g.src = 0 then g.vec % 16 == 0 else g.vec == 0, 40),
    (if g.dst = 0 then g.out % 16 == 0 else g.out == 0, 48),
    (if g.dst = 0 then g.oStr % 16 == 0 && decide (g.rows * g.esz ≤ g.oStr) else g.oStr == 0, 56)]

def GemvD.scaleRanges (g : GemvD) : List KRange :=
  if g.mode = 1 then strided 32 g.sc g.rows g.sStr (g.k / 32) false
  else if g.mode = 2 then [⟨32, g.sc, 4, false⟩] else []
def GemvD.reads (g : GemvD) : List KRange :=
  strided 16 g.w g.rows g.wStr (rowBytes g.fmt g.k) false ++ g.scaleRanges
    ++ (if g.src = 0 then [⟨40, g.vec, g.v * 2 * g.k, false⟩] else [])
def GemvD.writes (g : GemvD) : List KRange :=
  if g.dst = 0 then (List.range g.v).map (fun v => ⟨48, g.out + v * g.oStr, g.rows * g.esz, true⟩) else []

structure ScaleD where
  src : Nat
  tgt : Nat
  layout : Nat
  pass : Nat
  headroom : Nat
  set : Nat
  n : Nat
  a : Nat
  b : Nat
  sc : Nat
  am : Nat
deriving DecidableEq, Repr

/-- Tables 9-9 and 9-10. -/
def ScaleD.of (b : List Byte) : ScaleD where
  src := bits (field b 0 4) 11 8
  tgt := bits (field b 0 4) 15 12
  layout := bits (field b 0 4) 17 16
  pass := bits (field b 0 4) 19 18
  headroom := bits (field b 0 4) 22 20
  set := bits (field b 0 4) 28 23
  n := field b 4 4
  a := field b 8 8
  b := field b 16 8
  sc := field b 24 8
  am := field b 32 8

/-- Bytes of one source element. -/
def ScaleD.esz (x : ScaleD) : Nat := if x.src = 8 then 4 else 2

def scaleFail (expert : Bool) (b : List Byte) : Option Nat :=
  let x := ScaleD.of b
  let c := field b 0 4
  let tgts := if x.layout = 3 then [2, 3, 7] else [2, 3, 4, 5, 6]
  firstFail [
    (bits c 3 0 == 2 && bits c 7 5 == 0 && bits c 31 29 == 0 && [0, 1, 8].contains x.src && x.layout != 0
      && tgts.contains x.tgt && x.pass != 3 && (x.pass == 0 || x.layout == 2) && decide (x.headroom ≤ 4)
      && (expert || x.headroom == 0), 0),
    (x.layout != 1 || x.n % 32 == 0, 4),
    (x.a % 16 == 0, 8),
    (if x.pass = 1 then x.b == 0 else x.b % 16 == 0, 16),
    (if x.pass = 1 then x.sc == 0 else x.sc % 16 == 0, 24),
    (if x.pass = 0 then x.am == 0 else x.am % 16 == 0, 32),
    (resZero b 40 20, 40)]

def ScaleD.scaleBytes (x : ScaleD) : Nat :=
  if x.layout = 1 then x.n / 32 else if x.layout = 2 then 4 else 4 * ((x.n + 127) / 128)
def ScaleD.reads (x : ScaleD) : List KRange :=
  [⟨8, x.a, x.n * x.esz, false⟩] ++ (if x.pass = 2 then [⟨32, x.am, 4, false⟩] else [])
def ScaleD.writes (x : ScaleD) : List KRange :=
  if x.pass = 1 then [⟨32, x.am, 4, true⟩]
  else [⟨16, x.b, rowBytes x.tgt x.n, true⟩, ⟨24, x.sc, x.scaleBytes, true⟩]

structure RootD where
  p : Nat
  m : Nat
  eps : Nat
  g : Nat
  r : Nat
deriving DecidableEq, Repr

/-- Table 9-11. -/
def RootD.of (b : List Byte) : RootD where
  p := bits (field b 0 4) 11 8
  m := bits (field b 0 4) 21 12
  eps := field b 4 4
  g := field b 8 8
  r := field b 16 8

/-- An FP32 code that is finite. -/
def finite32 (c : Nat) : Bool := (val32 c).isFinite
def pos32 (c : Nat) : Bool := decide ((val32 c).cmp (Num.ofInt 0) = some 1)
def atMost32 (c : Nat) (n : Int) : Bool := decide ((val32 c).cmp (Num.ofInt n) ≠ some 1)

def rootFail (expert : Bool) (b : List Byte) : Option Nat :=
  let x := RootD.of b
  let c := field b 0 4
  firstFail [
    (bits c 3 0 == 4 && bits c 7 5 == 0 && [1, 2, 4, 8].contains x.p && decide (1 ≤ x.m ∧ x.m ≤ 512) && bits c 31 22 == 0, 0),
    (x.eps % 2 ^ 31 == 0 || (expert && finite32 x.eps && pos32 x.eps && atMost32 x.eps 1), 4),
    (x.g % 16 == 0, 8),
    (x.r % 16 == 0, 16),
    (resZero b 24 36, 24)]

def RootD.reads (x : RootD) : List KRange := [⟨8, x.g, 4 * x.m * x.m, false⟩]
def RootD.writes (x : RootD) : List KRange := [⟨16, x.r, 4 * x.m * x.m, true⟩]

structure UpdD where
  rule : Nat
  bf16 : Bool
  f1 : Nat
  f2 : Nat
  remOff : Bool
  n : Nat
  shard : Nat
  grad : Nat
  coef : Nat
  lr : Nat
  wd : Nat
  gs : Nat
deriving DecidableEq, Repr

/-- Tables 11-1 and 11-2. -/
def UpdD.of (b : List Byte) : UpdD where
  rule := bits (field b 0 4) 10 8
  bf16 := bit (field b 0 4) 11
  f1 := bits (field b 0 4) 13 12
  f2 := bits (field b 0 4) 15 14
  remOff := bit (field b 0 4) 16
  n := field b 4 4
  shard := field b 8 8
  grad := field b 16 8
  coef := field b 24 8
  lr := field b 32 4
  wd := field b 36 4
  gs := field b 40 4

/-- The coefficients a descriptor uses, as F32 codes (Tables 11-5 and 11-6): flags, β1, β2, ε, μ, ε1, preconditioner β. -/
structure Coefs where
  flags : Nat
  b1 : Nat
  b2 : Nat
  eps : Nat
  mu : Nat
  eps1 : Nat
  pb : Nat
deriving DecidableEq, Repr

def Coefs.of (b : List Byte) : Coefs where
  flags := field b 0 4
  b1 := field b 4 4
  b2 := field b 8 4
  eps := field b 12 4
  mu := field b 16 4
  eps1 := field b 20 4
  pb := field b 24 4

/-- The coefficient record that the rule defaults amount to (0x7100); rule 3 takes β1 as 0 (Table 11-5). -/
def Sys.defaultCoefs (s : Sys) (rule : Nat) : List Byte :=
  zeros 4 ++ (if rule = 3 then zeros 4 else s.cfg 0x7100 1) ++ s.cfg 0x7100 2 ++ s.cfg 0x7100 3 ++ s.cfg 0x7100 4
    ++ s.cfg 0x7100 5 ++ s.cfg 0x7100 6 ++ zeros 36

/-- A β: finite, from 0 up to but not including 1. −0 counts as 0. -/
def betaOk (c : Nat) : Bool :=
  finite32 c && decide ((val32 c).cmp (Num.ofInt 0) ≠ some (-1)) && decide ((val32 c).cmp (Num.ofInt 1) = some (-1))

def coefsOk (b : List Byte) : Bool :=
  let c := Coefs.of b
  decide (c.flags < 8) && resZero b 28 36 && betaOk c.b1 && betaOk c.b2 && betaOk c.pb && finite32 c.mu
    && finite32 c.eps && pos32 c.eps && finite32 c.eps1 && pos32 c.eps1

/-- A bank pair of a shard record: its offset, and bytes of each bank. -/
structure Pair where
  off : Nat
  len : Nat
deriving DecidableEq, Repr

/-- The pairs a rule uses (Table 11-4). -/
def UpdD.pairs (u : UpdD) (shard : List Byte) (b1 : Nat) : List Pair :=
  let cols := field shard 0 4
  let rows := if cols = 0 then 0 else u.n / cols
  let br := field shard 4 2
  let bc := field shard 6 2
  let blocks := if br = 0 ∨ bc = 0 then 0 else (rows / br) * (cols / bc)
  let sc := 4 * ((u.n + 127) / 128)
  [⟨16, 2 * u.n⟩]
    ++ (if u.remOff then [] else [⟨32, u.n⟩, ⟨48, sc⟩])
    ++ (if u.rule = 3 ∧ b1 % 2 ^ 31 = 0 then [] else [⟨64, u.n⟩, ⟨80, sc⟩])
    ++ (if u.rule = 2 then [⟨96, u.n⟩, ⟨112, sc⟩] else [])
    ++ (if u.rule = 3 then [⟨96, 4 * rows⟩, ⟨112, 4 * cols⟩] else [])
    ++ (if u.rule = 4 then [⟨128, 4 * br * br * blocks⟩, ⟨144, 4 * bc * bc * blocks⟩, ⟨160, 4 * br * br * blocks⟩,
          ⟨176, 4 * bc * bc * blocks⟩] else [])

/-- The domains of a shard record (R394, R395). Block rows and columns have a use under rule 4 alone; under rules 1 to 3 no table
calls them reserved, and they are ignored (DESIGN CHOICE, log entry 131). -/
def shardOk (u : UpdD) (sh : List Byte) (b1 : Nat) : Bool :=
  let cols := field sh 0 4
  let br := field sh 4 2
  let bc := field sh 6 2
  let used := u.pairs sh b1
  resZero sh 8 8 && resZero sh 208 48
    && (if u.rule = 3 ∨ u.rule = 4 then decide (1 ≤ cols ∧ cols ≤ 65536) && u.n % cols == 0 else cols == 0)
    && (if u.rule = 4 then decide (1 ≤ br ∧ br ≤ 512 ∧ 1 ≤ bc ∧ bc ≤ 512) && u.n / cols % br == 0 && cols % bc == 0
        else true)
    && (List.range 11).all (fun k =>
        let off := 16 + 16 * k
        let a := field sh off 8
        let b := field sh (off + 8) 8
        match used.find? (fun p => p.off == off) with
        | none => a == 0 && b == 0
        | some p => p.len == 0 || !overlaps a p.len b p.len)
    && decide (field sh 192 2 < 4096) && (decide (field sh 194 2 < 4096) || field sh 194 2 == 0xFFFF)

/-- The fields of an update descriptor itself. -/
def updFail (expert : Bool) (b : List Byte) : Option Nat :=
  let u := UpdD.of b
  let c := field b 0 4
  firstFail [
    (bits c 3 0 == 3 && bits c 7 5 == 0 && decide (1 ≤ u.rule ∧ u.rule ≤ 4) && decide (u.f1 ≤ 2 ∧ u.f2 ≤ 2)
      && (expert || (u.f1 == 0 && u.f2 == 0 && !u.remOff)) && bits c 31 17 == 0, 0),
    (u.shard % 64 == 0, 8),
    (u.grad % 16 == 0, 16),
    (u.coef == 0 || (expert && u.coef % 64 == 0), 24),
    (finite32 u.lr, 32),
    (finite32 u.wd && decide ((val32 u.wd).cmp (Num.ofInt 0) ≠ some (-1)), 36),
    (finite32 u.gs, 40),
    (resZero b 44 16, 44)]

def UpdD.recRanges (u : UpdD) : List KRange :=
  [⟨8, u.shard, 256, false⟩] ++ (if u.coef = 0 then [] else [⟨24, u.coef, 64, false⟩])
def UpdD.gradRange (u : UpdD) : KRange := ⟨16, u.grad, u.n * (if u.bf16 then 2 else 4), false⟩
/-- Both banks of every used pair (R395). -/
def UpdD.bankRanges (u : UpdD) (sh : List Byte) (b1 : Nat) : List KRange :=
  (u.pairs sh b1).flatMap (fun p => [⟨8, field sh p.off 8, p.len, true⟩, ⟨8, field sh (p.off + 8) 8, p.len, true⟩])

/-! ## The check of one descriptor (R338) -/

def badCheck (off faults : Nat) : KCheck := ⟨some off, 0, [], [], faults⟩

def Dev.checkRanges (d : Dev) (p : Nat) (rs : List KRange) (sh co : List Byte) : KCheck :=
  let r := d.placeRanges p rs
  ⟨r.1, r.2.1, sh, co, r.2.2⟩

/-- Whether a coefficient record is read when the first field of the descriptor itself that fails stands at `off`. -/
def Dev.coefRead (d : Dev) (p : Nat) (u : UpdD) (off : Nat) : Bool :=
  u.coef != 0 && decide (24 < off) && (d.placeRanges p u.recRanges).1 == none

/-- An update descriptor with its shard and coefficient records. -/
def Dev.checkUpdate (d : Dev) (p : Nat) (expert : Bool) (b : List Byte) : KCheck :=
  let u := UpdD.of b
  let r := d.placeRanges p u.recRanges
  match (match updFail expert b with
    | some off => some (off, 0)
    | none => r.1.map (fun off => (off, r.2.2))) with
  | some (off, faults) =>
    -- a record that fails is named at the descriptor field that names it, where that field stands before `off`
    let co := if d.coefRead p u off then d.peek p u.coef 64 else d.sys.defaultCoefs u.rule
    if 8 < off ∧ (d.placeRanges p (u.recRanges.take 1)).1 = none ∧ shardOk u (d.peek p u.shard 256) (Coefs.of co).b1 = false then
      badCheck 8 faults
    else if d.coefRead p u off = true ∧ coefsOk co = false then badCheck 24 faults
    else badCheck off faults
  | none =>
    let sh := d.peek p u.shard 256
    let co := if u.coef = 0 then d.sys.defaultCoefs u.rule else d.peek p u.coef 64
    let b1 := (Coefs.of co).b1
    if shardOk u sh b1 = false then badCheck 8 0
    else if u.coef ≠ 0 ∧ coefsOk co = false then badCheck 24 0
    else d.checkRanges p (u.recRanges.take 1 ++ u.bankRanges sh b1 ++ [u.gradRange] ++ u.recRanges.drop 1) sh co

/-- The records that the check of an update descriptor reads, as (address, bytes). -/
def Dev.recordsRead (d : Dev) (p : Nat) (expert : Bool) (b : List Byte) : List (Nat × Nat) :=
  let u := UpdD.of b
  let off := (updFail expert b).getD 64
  (if 8 < off ∧ (d.placeRanges p (u.recRanges.take 1)).1 = none then [(u.shard, 256)] else [])
    ++ (if d.coefRead p u off then [(u.coef, 64)] else [])

/-- One descriptor of a command that permits the kinds listed. -/
def Dev.checkDesc (d : Dev) (p : Nat) (expert decode : Bool) (kinds : List Nat) (b : List Byte) : KCheck :=
  let kind := bits (field b 0 4) 3 0
  if kinds.contains kind = false then badCheck 0 0
  else if kind = 1 then
    match gemvFail decode b with
    | some off => badCheck off 0
    | none => d.checkRanges p ((GemvD.of b).reads ++ (GemvD.of b).writes) [] []
  else if kind = 2 then
    match scaleFail expert b with
    | some off => badCheck off 0
    | none =>
      let rs := (ScaleD.of b).reads ++ (ScaleD.of b).writes
      -- in the order of their fields
      d.checkRanges p (rs.filter (fun r => decide (r.off < 32)) ++ rs.filter (fun r => decide (32 ≤ r.off))) [] []
  else if kind = 3 then d.checkUpdate p expert b
  else
    match rootFail expert b with
    | some off => badCheck off 0
    | none => d.checkRanges p ((RootD.of b).reads ++ (RootD.of b).writes) [] []

/-- The first poisoned line of what the sequencer reads to check a list: descriptors, then their records (R338). -/
def Dev.listPoison (d : Dev) (p : Nat) (expert : Bool) (a n : Nat) : Option (Nat × Nat) :=
  match d.poisonIn p a (64 * n) with
  | some x => some x
  | none =>
    (List.range n).findSome? (fun i =>
      let b := d.peek p (a + 64 * i) 64
      if bits (field b 0 4) 3 0 = 3 then (d.recordsRead p expert b).findSome? (fun x => d.poisonIn p x.1 x.2) else none)

end Sys2Proof.Machine
end

