-- ==== Sys2Proof/Machine/KettleMath.lean ====
section
/-! DEFINITION. What the Kettle engines compute: GEMV products (R347), Scale passes (R351 to R353), update rules (R396 to
R400, R403) and matrix roots (R355, R356). Inputs are read through `rd`, the byte at an address. -/

namespace Sys2Proof.Machine

open Sys2Proof

/-! ## GEMV (R347) -/

/-- One level of the pairwise FP32 tree: adjacent pairs are added and rounded. -/
def f32Level : List Num.Val → List Num.Val
  | a :: b :: t => val32 (rnd32 (a.add b)) :: f32Level t
  | l => l
def f32Tree : Nat → List Num.Val → Num.Val
  | 0, l => l.headD (Num.ofInt 0)
  | n + 1, l => f32Tree n (f32Level l)

def bf16Val (c : Nat) : Num.Val := Num.decode Num.bf16 c

/-- Vectors of a descriptor: from Shofel memory, or the batch's (as bytes). -/
def GemvD.x (g : GemvD) (rd : Nat → Nat) (vecs : List (List Byte)) (v k : Nat) : Num.Val :=
  if g.src = 0 then bf16Val (rdLe rd (g.vec + v * 2 * g.k + 2 * k) 2) else bf16Val (field (vecs.getD v []) (2 * k) 2)

/-- The running total over the blocks of 32. -/
def GemvD.total (g : GemvD) (rd : Nat → Nat) (vecs : List (List Byte)) (v n : Nat) : Num.Val :=
  (List.range (g.k / 32)).foldl (fun total b =>
    let ps := (List.range 32).map (fun i =>
      let k := 32 * b + i
      val32 (rnd32 ((mxVal g.fmt (packedElem rd g.fmt (g.w + n * g.wStr) k)).mul (g.x rd vecs v k))))
    let sigma := if g.mode = 1 then Num.e8m0 (rd (g.sc + n * g.sStr + b)) else Num.ofInt 1
    val32 (rnd32 (total.add ((f32Tree 5 ps).mul sigma)))) (Num.ofInt 0)

/-- The bytes of output element (v, n). -/
def GemvD.elem (g : GemvD) (rd : Nat → Nat) (vecs : List (List Byte)) (v n : Nat) : List Byte :=
  let t := g.total rd vecs v n
  let y := if g.mode = 2 then val32 (rnd32 (t.mul (val32 (rdLe rd g.sc 4)))) else t
  if g.bf16 then natLe 2 (Num.round Num.bf16 y) else natLe 4 (rnd32 y)

/-- Outputs to Shofel memory, one run of rows per vector. -/
def GemvD.outs (g : GemvD) (rd : Nat → Nat) (vecs : List (List Byte)) (nv : Nat) : List (Nat × List Byte) :=
  (List.range nv).map (fun v => (g.out + v * g.oStr, ((List.range g.rows).map (g.elem rd vecs v)).flatten))

/-! ## Scale pass (R296, R297, R308, R309, R351 to R353) -/

def srcVal (f c : Nat) : Num.Val := Num.decode (if f = 0 then Num.bf16 else if f = 1 then Num.fp16 else Num.fp32) c
def ScaleD.vals (x : ScaleD) (rd : Nat → Nat) : List Num.Val :=
  (List.range x.n).map (fun i => srcVal x.src (rdLe rd (x.a + x.esz * i) x.esz))

/-- Consecutive blocks of `k` elements. -/
def blocksOf (k : Nat) : Nat → List Num.Val → List (List Num.Val)
  | 0, _ => []
  | f + 1, l => if l = [] then [] else l.take k :: blocksOf k f (l.drop k)

/-- A row of codes packed, with a short last group filled by zero codes that are not stored. -/
def packRun (f : Nat) (codes : List Nat) : List Byte := (packRow f (codes ++ [0, 0, 0])).take (rowBytes f codes.length)

structure ScaleOut where
  status : Nat
  detail : Nat
  writes : List (Nat × List Byte)
  counts : List Nat
  amax : Nat
deriving DecidableEq, Repr

/-- A block's FP32 scale and codes in the block-scaled layout (R296, R297). -/
def scaledBlock (nf : Num.Narrow) (h : Nat) (vs : List Num.Val) : Nat × List (Nat × Num.Count) :=
  let bad := vs.any (fun v => !v.isFinite)
  let sc := if bad then Num.fp32.nanCode else Num.f32Scale nf h (Num.amax vs)
  (sc, Num.convBlock nf (val32 sc) bad vs)

/-- The result of a Scale pass descriptor; `h` the headroom. -/
def ScaleD.run (x : ScaleD) (rd : Nat → Nat) (h : Nat) : ScaleOut :=
  let vs := x.vals rd
  let am := Num.amax vs
  let nf := narrowOf x.tgt
  if x.pass = 1 then ⟨0, 0, [(x.am, natLe 4 (rnd32 am))], rep0 6, rnd32 am⟩
  else
    let given := val32 (rdLe rd x.am 4)
    if x.pass = 2 ∧ (given.isFinite = false ∨ given.cmp (Num.ofInt 0) = some (-1)) then ⟨1, 32, [], rep0 6, 0⟩
    else
      let (sb, rs) :=
        if x.layout = 1 then
          let bs := (blocksOf 32 (x.n / 32 + 1) vs).map (fun b =>
            let bad := b.any (fun v => !v.isFinite)
            let sb := if bad then 255 else Num.mxScale nf h (Num.amax b)
            (sb, Num.convBlock nf (Num.e8m0 sb) bad b))
          (bs.map (fun b => BitVec.ofNat 8 b.1), (bs.map Prod.snd).flatten)
        else if x.layout = 2 then
          let sc := Num.f32Scale nf h (if x.pass = 2 then given else am)
          (natLe 4 sc, vs.map (fun v => Num.convScaled nf v (val32 sc)))
        else
          let bs := (blocksOf 128 (x.n / 128 + 1) vs).map (scaledBlock nf h)
          ((bs.map (fun b => natLe 4 b.1)).flatten, (bs.map Prod.snd).flatten)
      let cs := rs.map Prod.snd
      let status := if cs.any (fun c => c == .nonfinite) then 7 else 0
      ⟨status, 0, [(x.b, packRun x.tgt (rs.map Prod.fst)), (x.sc, sb)], tally cs 0, rnd32 am⟩

/-! ## Update rules (R396 to R400) -/

def fadd : Nat → Nat → Nat := Num.addF Num.fp32
def fsub : Nat → Nat → Nat := Num.subF Num.fp32
def fmul : Nat → Nat → Nat := Num.mulF Num.fp32
def fdiv : Nat → Nat → Nat := Num.divF Num.fp32
def fsqrt : Nat → Nat := Num.sqrtF Num.fp32
def dadd : Nat → Nat → Nat := Num.addF Num.fp64
def dsub : Nat → Nat → Nat := Num.subF Num.fp64
def dmul : Nat → Nat → Nat := Num.mulF Num.fp64
def ddiv : Nat → Nat → Nat := Num.divF Num.fp64
def dsqrt : Nat → Nat := Num.sqrtF Num.fp64
def val64 (c : Nat) : Num.Val := Num.decode Num.fp64 c
def toF64 (c : Nat) : Nat := Num.round Num.fp64 (val32 c)
def toF32 (c : Nat) : Nat := rnd32 (val64 c)
def f64 (n : Int) : Nat := Num.round Num.fp64 (Num.ofInt n)
def f32 (n : Int) : Nat := rnd32 (Num.ofInt n)
/-- A condition on an FP code: greater than 0. -/
def isPos64 (c : Nat) : Bool := decide ((val64 c).cmp (Num.ofInt 0) = some 1)

/-- x^t in FP64 by squaring, on the bits of t. -/
def dpow : Nat → Nat → Nat → Nat → Nat
  | 0, _, _, acc => acc
  | n + 1, x, t, acc => dpow n (dmul x x) (t / 2) (if t % 2 = 1 then dmul acc x else acc)

/-- 1 − β rounded once to F32 (R398). -/
def oneMinus (b : Nat) : Nat := toF32 (dsub (f64 1) (toF64 b))
/-- Whether β^t is an FP64 value: t is 0 or 1, β is 0, or the odd part of β has a power of at most 53 bits. -/
def exactPow (b t : Nat) : Bool :=
  match Num.decode Num.fp32 b with
  | .fin _ m _ =>
    decide (t ≤ 1 ∨ m = 0) || (decide (t ≤ 53) && decide ((m / 2 ^ Num.trailing 24 m) ^ t < 2 ^ 53))
      || decide (m / 2 ^ Num.trailing 24 m = 1)
  | _ => true
/-- 1 − β^t, formed in FP64 and rounded once to F32; where β^t is no FP64 value, its last place is open (log entry 19). -/
def biasCorr (b t : Nat) : Nat :=
  let p := dpow 64 (toF64 b) t (f64 1)
  let q := if exactPow b t then p else p + Config.powUlp (BitVec.ofNat 32 b) t % 3 - 1
  toF32 (dsub (f64 1) q)

/-- INT8, E4M3 or E5M2 as mxVal's format codes: 7, 2, 3; headroom 1 for E5M2 (R397). -/
def firstFmt (f : Nat) : Nat := if f = 0 then 7 else if f = 1 then 2 else 3
def secondFmt (f : Nat) : Nat := if f = 0 then 2 else if f = 1 then 7 else 3
def momentHead (fmt : Nat) : Nat := if fmt = 3 then 1 else 0

/-- The addresses of a pair's active and alternate banks for a target epoch (R387). -/
structure Banks where
  act : Nat
  alt : Nat
deriving DecidableEq, Repr

def banksOf (sh : List Byte) (target off : Nat) : Banks :=
  let a := field sh off 8
  let b := field sh (off + 8) 8
  if target % 2 = 1 then ⟨a, b⟩ else ⟨b, a⟩

/-- q × S of a block-scaled tensor, exact. -/
def scaledVal (rd : Nat → Nat) (fmt el sc i : Nat) : Num.Val :=
  (mxVal fmt (rd (el + i))).mul (val32 (rdLe rd (sc + 4 * (i / 128)) 4))

/-- What an update descriptor works on: its fields, coefficients, shard record, target epoch. -/
structure UpdIn where
  u : UpdD
  c : Coefs
  sh : List Byte
  t : Nat
deriving DecidableEq, Repr

def UpdIn.bank (x : UpdIn) (off : Nat) : Banks := banksOf x.sh x.t off
def UpdIn.gradRaw (x : UpdIn) (rd : Nat → Nat) (i : Nat) : Nat :=
  if x.u.bf16 then rdLe rd (x.u.grad + 2 * i) 2 * 2 ^ 16 else rdLe rd (x.u.grad + 4 * i) 4
def UpdIn.g (x : UpdIn) (rd : Nat → Nat) (i : Nat) : Nat := fmul (x.gradRaw rd i) x.u.gs
/-- The working weight (R396). -/
def UpdIn.w (x : UpdIn) (rd : Nat → Nat) (i : Nat) : Nat :=
  let W := bf16Val (rdLe rd ((x.bank 16).act + 2 * i) 2)
  if x.u.remOff then rnd32 W else rnd32 (W.add (scaledVal rd 7 (x.bank 32).act (x.bank 48).act i))
def UpdIn.m1 (x : UpdIn) (rd : Nat → Nat) (i : Nat) : Nat :=
  rnd32 (scaledVal rd (firstFmt x.u.f1) (x.bank 64).act (x.bank 80).act i)
def UpdIn.m2 (x : UpdIn) (rd : Nat → Nat) (i : Nat) : Nat :=
  rnd32 (scaledVal rd (secondFmt x.u.f2) (x.bank 96).act (x.bank 112).act i)
def UpdIn.cols (x : UpdIn) : Nat := field x.sh 0 4
def UpdIn.rows (x : UpdIn) : Nat := x.u.n / x.cols

/-- An element's new values: weight before rounding, first and second moment. -/
structure NewElem where
  w : Nat
  m : Nat
  v : Nat
deriving DecidableEq, Repr

/-- w − lr × (d + wd × w). -/
def stepW (u : UpdD) (w d : Nat) : Nat := fsub w (fmul u.lr (fadd d (fmul u.wd w)))

def rule1 (x : UpdIn) (rd : Nat → Nat) (i : Nat) : NewElem :=
  let g := x.g rd i
  let m := fadd (fmul x.c.mu (x.m1 rd i)) g
  let d := if bit x.c.flags 0 then fadd g (fmul x.c.mu m) else m
  ⟨stepW x.u (x.w rd i) d, m, 0⟩

def rule2 (x : UpdIn) (rd : Nat → Nat) (i : Nat) : NewElem :=
  let g := x.g rd i
  let off := bit x.c.flags 1
  let m := fadd (fmul x.c.b1 (x.m1 rd i)) (fmul (oneMinus x.c.b1) g)
  let v := fadd (fmul x.c.b2 (x.m2 rd i)) (fmul (oneMinus x.c.b2) (fmul g g))
  let c1 := if off then f32 1 else biasCorr x.c.b1 x.t
  let c2 := if off then f32 1 else biasCorr x.c.b2 x.t
  let u := fdiv (fdiv m c1) (fadd (fsqrt (fdiv v c2)) x.c.eps)
  ⟨stepW x.u (x.w rd i) u, m, v⟩

/-- Row statistic a and column statistic j of the active bank (rule 3). -/
def UpdIn.rowStat (x : UpdIn) (rd : Nat → Nat) (a : Nat) : Nat := rdLe rd ((x.bank 96).act + 4 * a) 4
def UpdIn.colStat (x : UpdIn) (rd : Nat → Nat) (j : Nat) : Nat := rdLe rd ((x.bank 112).act + 4 * j) 4
/-- The mean of the row statistics: FP64 sum in index order, rounded to the FP32 the rule runs in (log entry 20). -/
def UpdIn.rmean (x : UpdIn) (rd : Nat → Nat) : Nat :=
  toF32 (ddiv ((List.range x.rows).foldl (fun s a => dadd s (toF64 (x.rowStat rd a))) 0) (f64 x.rows))

def rule3 (x : UpdIn) (rd : Nat → Nat) (rmean i : Nat) : NewElem :=
  let g := x.g rd i
  let a := i / x.cols
  let j := i % x.cols
  let vf := if pos32 rmean then fdiv (fmul (x.rowStat rd a) (x.colStat rd j)) rmean else fadd (fmul g g) x.c.eps1
  let u := fdiv g (fsqrt (Num.maxF Num.fp32 vf x.c.eps1))
  if x.c.b1 % 2 ^ 31 = 0 then ⟨stepW x.u (x.w rd i) u, 0, 0⟩
  else
    let m := fadd (fmul x.c.b1 (x.m1 rd i)) (fmul (oneMinus x.c.b1) u)
    ⟨stepW x.u (x.w rd i) m, m, 0⟩

/-- g × g + ε1 summed in FP64 over a row's or a column's elements in increasing index. -/
def UpdIn.statSum (x : UpdIn) (rd : Nat → Nat) (is : List Nat) : Nat :=
  is.foldl (fun s i => dadd s (dadd (dmul (toF64 (x.g rd i)) (toF64 (x.g rd i))) (toF64 x.c.eps1))) 0
/-- β2 × old + (1 − β2) × sum / count, rounded to F32. -/
def newStat (x : UpdIn) (old sum count : Nat) : Nat :=
  toF32 (dadd (dmul (toF64 x.c.b2) (toF64 old)) (ddiv (dmul (toF64 (oneMinus x.c.b2)) sum) (f64 count)))
/-- The new row and column statistics (R398); a descriptor of no elements has no data to write (R11). -/
def UpdIn.statOuts (x : UpdIn) (rd : Nat → Nat) : List (Nat × List Byte) :=
  let R := x.rows
  let C := x.cols
  if x.u.n = 0 then [] else
  [((x.bank 96).alt, ((List.range R).map (fun a =>
      natLe 4 (newStat x (x.rowStat rd a) (x.statSum rd ((List.range C).map (fun j => a * C + j))) C))).flatten),
   ((x.bank 112).alt, ((List.range C).map (fun j =>
      natLe 4 (newStat x (x.colStat rd j) (x.statSum rd ((List.range R).map (fun a => a * C + j))) R))).flatten)]

/-! ### Rule 4 (R400) -/

/-- An element (r, c) of a matrix product: FP64 sum of products in increasing index, rounded once to F32. -/
def prodElem (k : Nat) (a b : Nat → Nat) : Nat :=
  toF32 ((List.range k).foldl (fun s i => dadd s (dmul (toF64 (a i)) (toF64 (b i)))) 0)

/-- A parameter block: number, and element (r, c) as an index into the shard. -/
def UpdIn.br (x : UpdIn) : Nat := field x.sh 4 2
def UpdIn.bc (x : UpdIn) : Nat := field x.sh 6 2
def UpdIn.blockIx (x : UpdIn) (b r c : Nat) : Nat :=
  let per := x.cols / x.bc
  (b / per * x.br + r) * x.cols + b % per * x.bc + c
def UpdIn.nBlocks (x : UpdIn) : Nat := (x.rows / x.br) * (x.cols / x.bc)
def UpdIn.blockOf (x : UpdIn) (i : Nat) : Nat := (i / x.cols) / x.br * (x.cols / x.bc) + (i % x.cols) / x.bc

/-- Element (r, c) of matrix `off` (statistics or roots, left br × br or right bc × bc) of a block in the active bank. -/
def UpdIn.mat (x : UpdIn) (rd : Nat → Nat) (off dim b r c : Nat) : Nat :=
  rdLe rd ((x.bank off).act + 4 * (b * dim * dim + r * dim + c)) 4

/-- (Lroot × G) × Rroot at (r, c). -/
def UpdIn.dir0 (x : UpdIn) (rd : Nat → Nat) (b r c : Nat) : Nat :=
  let lg (j : Nat) := prodElem x.br (fun i => x.mat rd 160 x.br b r i) (fun i => x.g rd (x.blockIx b i j))
  prodElem x.bc lg (fun j => x.mat rd 176 x.bc b j c)

/-- Frobenius norm in FP64, row by row. -/
def frob (nr nc : Nat) (e : Nat → Nat → Nat) : Nat :=
  dsqrt ((List.range (nr * nc)).foldl (fun s k =>
    let v := toF64 (e (k / nc) (k % nc))
    dadd s (dmul v v)) 0)

/-- The grafted direction of a block (R400); the ratio is formed in FP64 and each product rounded once to F32
(log entry 20). -/
def UpdIn.dir (x : UpdIn) (rd : Nat → Nat) (b : Nat) : Nat → Nat → Nat :=
  if bit x.c.flags 2 then x.dir0 rd b
  else
    let nd := frob x.br x.bc (x.dir0 rd b)
    let ng := frob x.br x.bc (fun r c => x.g rd (x.blockIx b r c))
    if isPos64 nd then fun r c => rnd32 ((val32 (x.dir0 rd b r c)).mul (val64 (ddiv ng nd)))
    else fun r c => x.g rd (x.blockIx b r c)

def rule4 (x : UpdIn) (rd : Nat → Nat) (i : Nat) : NewElem :=
  let b := x.blockOf i
  let r := i / x.cols % x.br
  let c := i % x.cols % x.bc
  let d := x.dir rd b r c
  let m := fadd (fmul x.c.mu (x.m1 rd i)) d
  ⟨stepW x.u (x.w rd i) m, m, 0⟩

/-- β × L + (1 − β) × (product). -/
def decayed (x : UpdIn) (old prod : Nat) : Nat := fadd (fmul x.c.pb old) (fmul (oneMinus x.c.pb) prod)

/-- Every element of a square matrix per block, as bytes. -/
def matBytes (blocks dim : Nat) (e : Nat → Nat → Nat → Nat) : List Byte :=
  ((List.range blocks).flatMap (fun b => (List.range (dim * dim)).flatMap (fun k => natLe 4 (e b (k / dim) (k % dim)))))

def UpdIn.matOuts (x : UpdIn) (rd : Nat → Nat) : List (Nat × List Byte) :=
  let G (b r c : Nat) := x.g rd (x.blockIx b r c)
  let n := x.nBlocks
  [((x.bank 128).alt, matBytes n x.br (fun b r c => decayed x (x.mat rd 128 x.br b r c) (prodElem x.bc (G b r) (G b c)))),
   ((x.bank 144).alt, matBytes n x.bc (fun b r c =>
      decayed x (x.mat rd 144 x.bc b r c) (prodElem x.br (fun i => G b i r) (fun i => G b i c)))),
   ((x.bank 160).alt, matBytes n x.br (x.mat rd 160 x.br)),
   ((x.bank 176).alt, matBytes n x.bc (x.mat rd 176 x.bc))]

/-! ### The whole descriptor -/

structure UpdOut where
  writes : List (Nat × List Byte)
  nonfinite : Nat
deriving DecidableEq, Repr

/-- A block-scaled tensor's elements and scales (R397). -/
def tensorOuts (fmt h : Nat) (el sc : Nat) (vs : List Nat) : List (Nat × List Byte) :=
  let bs := (blocksOf 128 (vs.length / 128 + 1) (vs.map val32)).map (scaledBlock (narrowOf fmt) h)
  [(el, (bs.flatMap (fun b => b.2.map (fun c => BitVec.ofNat 8 c.1)))), (sc, bs.flatMap (fun b => natLe 4 b.1))]

def UpdIn.elem (x : UpdIn) (rd : Nat → Nat) : Nat → NewElem :=
  let rm := if x.u.rule = 3 then x.rmean rd else 0
  if x.u.rule = 1 then rule1 x rd else if x.u.rule = 2 then rule2 x rd else if x.u.rule = 3 then rule3 x rd rm else rule4 x rd

def UpdIn.run (x : UpdIn) (rd : Nat → Nat) : UpdOut :=
  let es := (List.range x.u.n).map (x.elem rd)
  let hi (e : NewElem) := Num.round Num.bf16 (val32 e.w)
  let rem (e : NewElem) := rnd32 ((val32 e.w).add (bf16Val (hi e)).neg)
  let hasM := !(x.u.rule == 3 && x.c.b1 % 2 ^ 31 == 0)
  let bad := (List.range x.u.n).countP (fun i =>
    let e := es.getD i ⟨0, 0, 0⟩
    !(finite32 (x.gradRaw rd i) && finite32 (x.w rd i) && (bf16Val (hi e)).isFinite && finite32 e.m && finite32 e.v
      && (x.u.remOff || finite32 (rem e))))
  ⟨[((x.bank 16).alt, es.flatMap (fun e => natLe 2 (hi e)))]
    ++ (if x.u.remOff then [] else tensorOuts 7 0 (x.bank 32).alt (x.bank 48).alt (es.map rem))
    ++ (if hasM then tensorOuts (firstFmt x.u.f1) (momentHead (firstFmt x.u.f1)) (x.bank 64).alt (x.bank 80).alt (es.map NewElem.m)
        else [])
    ++ (if x.u.rule = 2 then
          tensorOuts (secondFmt x.u.f2) (momentHead (secondFmt x.u.f2)) (x.bank 96).alt (x.bank 112).alt (es.map NewElem.v) else [])
    ++ (if x.u.rule = 3 then x.statOuts rd else [])
    ++ (if x.u.rule = 4 then x.matOuts rd else []), bad⟩

/-- What the engine reads: the gradient and every used pair's active bank. -/
def UpdIn.reads (x : UpdIn) : List KRange :=
  x.u.gradRange :: (x.u.pairs x.sh x.c.b1).map (fun p => ⟨8, (x.bank p.off).act, p.len, false⟩)

/-! ## Roots (R355, R356) -/

/-- A square matrix of FP64 codes, row by row. -/
abbrev Mat := List (List Nat)
def Mat.at_ (a : Mat) (i j : Nat) : Nat := nth (a.getD i []) j
def Mat.make (m : Nat) (f : Nat → Nat → Nat) : Mat := (List.range m).map (fun i => (List.range m).map (f i))

def dneg (a : Nat) : Nat := Num.round Num.fp64 (val64 a).neg
def dabs (a : Nat) : Nat := Num.round Num.fp64 (val64 a).abs
def isZero64 (a : Nat) : Bool := (val64 a).isZero

/-- Rotate columns i, j of a matrix by (c, s). -/
def rotCols (m : Nat) (a : Mat) (i j c s : Nat) : Mat :=
  Mat.make m (fun r k =>
    if k = i then dsub (dmul c (a.at_ r i)) (dmul s (a.at_ r j))
    else if k = j then dadd (dmul s (a.at_ r i)) (dmul c (a.at_ r j))
    else a.at_ r k)
def transpose (m : Nat) (a : Mat) : Mat := Mat.make m (fun r k => a.at_ k r)

/-- One rotation of a Jacobi sweep: rows and columns i, j of A, columns of V; each product and sum rounds once
(log entry 21). -/
def rotate (m i j : Nat) (av : Mat × Mat) : Mat × Mat :=
  let a := av.1
  if isZero64 (a.at_ i j) then av
  else
    let th := ddiv (dsub (a.at_ j j) (a.at_ i i)) (dmul (f64 2) (a.at_ i j))
    let sg := if (val64 th).cmp (Num.ofInt 0) = some (-1) then f64 (-1) else f64 1
    let t := ddiv sg (dadd (dabs th) (dsqrt (dadd (dmul th th) (f64 1))))
    let c := ddiv (f64 1) (dsqrt (dadd (dmul t t) (f64 1)))
    let s := dmul t c
    let a1 := transpose m (rotCols m (transpose m (rotCols m a i j c s)) i j c s)
    (a1, rotCols m av.2 i j c s)

def sweep1 (m : Nat) (av : Mat × Mat) : Mat × Mat :=
  (List.range (m - 1)).foldl (fun av i => (List.range (m - 1 - i)).foldl (fun av k => rotate m i (i + 1 + k) av) av) av

/-- Σ of squares over the pairs a test admits, in increasing index. -/
def sumSq (m : Nat) (a : Mat) (t : Nat → Nat → Bool) : Nat :=
  (List.range (m * m)).foldl (fun s k =>
    if t (k / m) (k % m) then dadd s (dmul (a.at_ (k / m) (k % m)) (a.at_ (k / m) (k % m))) else s) 0

def converged (m : Nat) (a : Mat) : Bool :=
  let off := val64 (sumSq m a (fun i j => i != j))
  let lim := (val64 (sumSq m a (fun _ _ => true))).mul (Num.pow2 (-104))
  match off.cmp lim with
  | some s => decide (s ≤ 0)
  | none => false

/-- Up to `n` sweeps, ending at convergence. -/
def jacobi (m : Nat) : Nat → Mat × Mat → Option (Mat × Mat)
  | 0, _ => none
  | n + 1, av =>
    let av := sweep1 m av
    if converged m av.1 then some av else jacobi m n av

/-- λ^(−1/p) for p 1, 2, 4 or 8: repeated square roots of 1/λ with 400 fraction bits, rounded once, then within one unit in
the last place (R355). -/
def rootSteps (p : Nat) : Nat := if p = 1 then 0 else if p = 2 then 1 else if p = 4 then 2 else 3
def isqrtN : Nat → Nat → Nat
  | 0, x => x
  | n + 1, x => isqrtN n (Num.isqrt x)
def negRoot (p l : Nat) : Nat :=
  match val64 l with
  | .fin _ m e =>
    -- 1/λ = 2^q / m × 2^(−q−e) with q + e a multiple of 2^steps
    let k : Nat := 2 ^ rootSteps p
    let q : Nat := 3200 + ((-(e : Int)) % (k : Int)).toNat
    let r := isqrtN (rootSteps p) (2 ^ q / m)
    let x : Int := -((q : Int) + e) / (k : Int)
    Num.nudge Num.fp64 1 (.fin false r x) (Num.roundFin Num.fp64 false r x true).1 (Config.rootUlp p (BitVec.ofNat 64 l))
  | _ => Num.fp64.nanCode

/-- The outcome of one attempt: the root's F32 codes, or the reason it failed (Table 9-12). -/
def rootAttemptAt (x : RootD) (rd : Nat → Nat) (eps a : Nat) : Except Nat (List Nat) :=
  let m := x.m
  let G (i j : Nat) := rdLe rd (x.g + 4 * (i * m + j)) 4
  if (List.range (m * m)).any (fun k => !finite32 (G (k / m) (k % m))) then .error 1
  else
    let sym (i j : Nat) := ddiv (dadd (toF64 (G i j)) (toF64 (G j i))) (f64 2)
    let trace := (List.range m).foldl (fun s i => dadd s (sym i i)) 0
    if a ≥ 1 ∧ ((val64 trace).isFinite = false ∨ isPos64 trace = false) then .error 5
    else
      let delta := if a = 0 then 0
        else ddiv (dmul (dmul (toF64 eps) (f64 (2 ^ (a - 1)))) trace) (f64 m)
      let A0 := Mat.make m (fun i j => if i = j then dadd (sym i i) delta else sym i j)
      let V0 := Mat.make m (fun i j => if i = j then f64 1 else 0)
      match jacobi m 30 (A0, V0) with
      | none => .error 3
      | some (A, V) =>
        let ls := (List.range m).map (fun i => A.at_ i i)
        let least := ls.foldl (fun x l => if (val64 l).cmp (val64 x) = some (-1) then l else x) (ls.headD 0)
        let most := ls.foldl (fun x l => if (val64 l).cmp (val64 x) = some 1 then l else x) (ls.headD 0)
        let low := match (val64 least).cmp ((val64 most).mul (Num.pow2 (-24))) with
          | some s => decide (s ≤ 0)
          | none => true
        if isPos64 least = false ∨ low = true then .error 2
        else
          let rs := ls.map (negRoot x.p)
          let R := (List.range (m * m)).map (fun k =>
            toF32 ((List.range m).foldl (fun s q =>
              dadd s (dmul (dmul (V.at_ (k / m) q) (nth rs q)) (V.at_ (k % m) q))) 0))
          if R.all finite32 then .ok R else .error 4

end Sys2Proof.Machine
end

