-- ==== Sys2Proof/Machine/Kettle.lean ====
section
/-! DEFINITION. The Kettle engines at work (09_shofel_kettle.md, R335 to R344, R351 to R357): lists of descriptors, their
start and order, their completion with the status word, and turns. -/

namespace Sys2Proof.Machine

open Sys2Proof

/-! ## Tasks -/

def Sys.task? (s : Sys) (id : Nat) : Option KTask := s.host.tasks.find? (fun t => t.id == id)
def Sys.onTask (s : Sys) (id : Nat) (f : KTask → KTask) : Sys :=
  s.onHost (fun h => { h with tasks := h.tasks.map (fun t => if t.id == id then f t else t) })
/-- Tasks of the same command or batch. -/
def KTask.kin (t x : KTask) : Bool := x.owner == t.owner && x.uid == t.uid && x.queue == t.queue

/-- R339: earlier descriptors of its command on its stack that must have completed first. -/
def Sys.taskReady (s : Sys) (t : KTask) : Bool :=
  s.host.tasks.all (fun x => !(t.kin x && decide (x.order < t.order) && x.stack == t.stack && x.phase != 3
    && (x.kind == t.kind || t.barrier)))
/-- Each engine executes one descriptor at a time (R335), unless it has stopped (Table 18-2). -/
def Sys.engineFree (s : Sys) (stack kind : Nat) : Bool :=
  !s.host.tasks.any (fun x => x.stack == stack && x.kind == kind && x.phase == 1) && s.kettleRuns stack

def KTask.upd (t : KTask) : UpdIn := ⟨UpdD.of t.desc, Coefs.of t.coef, t.shard, t.target⟩
/-- The GEMV descriptor of a task; a batch group's outputs start at its first vector (R374). -/
def KTask.gemv (t : KTask) : GemvD :=
  let g := GemvD.of t.desc
  if t.owner = 1 then { g with v := t.vectors.length, out := g.out + t.firstVec * g.oStr } else g

/-- The ranges an engine reads for a task. -/
def KTask.reads (t : KTask) : List KRange :=
  if t.kind = 1 then t.gemv.reads
  else if t.kind = 2 then (ScaleD.of t.desc).reads
  else if t.kind = 3 then t.upd.reads
  else (RootD.of t.desc).reads

/-- The byte at an address of what was read. -/
def readBack (l : List (Nat × List Byte)) (a : Nat) : Nat :=
  match l.find? (fun r => decide (r.1 ≤ a ∧ a < r.1 + r.2.length)) with
  | some r => (r.2.getD (a - r.1) 0).toNat
  | none => 0

/-- What a task writes to Shofel memory on success, a root excepted. -/
def KTask.outs (t : KTask) (rd : Nat → Nat) : List (Nat × List Byte) :=
  if t.kind = 1 then (if t.gemv.dst = 0 then t.gemv.outs rd t.vectors t.gemv.v else [])
  else if t.kind = 2 then ((ScaleD.of t.desc).run rd t.setting).writes
  else if t.kind = 3 then (t.upd.run rd).writes
  else []

/-- Where a task writes, as (address, bytes). -/
def KTask.dests (t : KTask) (rd : Nat → Nat) : List (Nat × Nat) :=
  if t.kind = 4 then (let x := RootD.of t.desc; [(x.r, 4 * x.m * x.m)]) else (t.outs rd).map (fun w => (w.1, w.2.length))

/-! ## Reading sources -/

/-- The source ranges as an engine reads them now. -/
structure KRead where
  dev : Dev
  poison : Option (Nat × Nat)
  got : List (Nat × List Byte)

def KRead.step (p : Nat) (r : KRange) (k : KRead) : KRead :=
  let x := k.dev.kettleRead p r.addr r.len
  ⟨x.dev, (match k.poison with
    | some a => some a
    | none => x.poison), k.got ++ [(r.addr, x.data)]⟩
def Dev.kSources (d : Dev) (t : KTask) : KRead := runAll (KRead.step t.part) t.reads ⟨d, none, []⟩

/-- Each byte is the one found at the start or the one found now (R340); a line poisoned since gives its earlier bytes. -/
def Dev.kMix (d : Dev) (p : Nat) (now : List (Nat × List Byte)) (snap : List (Nat × List Byte)) : List (Nat × List Byte) :=
  (now.zip snap).map (fun x =>
    let a := x.1.1
    let cur := if (d.poisonIn p a x.1.2.length).isSome then
        (List.range x.1.2.length).map (fun i =>
          if (d.poisonIn p (a + i) 1).isSome then x.2.2.getD i 0 else x.1.2.getD i 0)
      else x.1.2
    (a, mixBytes (d.sys.freeCtr + a) x.2.2 cur))

/-- What a running task computes from: its sources as R340 lets them stand. -/
def Dev.kInput (d : Dev) (t : KTask) : KRead :=
  let k := d.kSources t
  { k with got := k.dev.kMix t.part k.got t.snap, dev := liftSys (fun s => s.drew (2 ^ 40)) k.dev }

/-- Some of the lines of a write, by free choice: what an engine at work has written so far (R27, R340). -/
def Dev.kettleWriteSome (p a : Nat) (bs : List Byte) (d : Dev) : Dev :=
  runAll (fun (pc : Nat × Nat) d =>
    let (st, L) := d.locate p pc.1
    let d' := if d.sys.freeBool then d.kettleWritePiece st L ((bs.drop (pc.1 - a)).take pc.2) else d
    liftSys (fun s => s.drew 1) d') (rangePieces a bs.length) d
def Dev.kPartial (t : KTask) (d : Dev) : Dev :=
  let k := d.kInput t
  let ws := (t.outs (readBack k.got)).filter (fun w => t.owner == 0 ||
    (let r := d.placeRanges t.part [⟨0, w.1, w.2.length, true⟩]; r.1 == none && r.2.1 == t.stack))
  runAll (fun (w : Nat × List Byte) d => Dev.kettleWriteSome t.part w.1 w.2 d) ws k.dev

/-! ## Ends -/

/-- Write a status word where the descriptor lies (Table 9-5). -/
def Dev.putStatus (d : Dev) (p a code attempts detail : Nat) : Dev :=
  if d.rangeOk p (a + 60) 4 true then d.writeRange p (a + 60) (natLe 4 (code + 256 * attempts + 65536 * detail)) else d

/-- The last descriptor of a command ends the command (R341, R408). -/
def Sys.tasksEnded (s : Sys) (t : KTask) : Sys :=
  let ts := s.host.tasks.filter t.kin
  if t.owner = 0 ∧ ts.all (fun x => x.phase == 3) = true then
    let status := firstStatus (ts.map KTask.status)
    let s := s.onHost (fun h => { h with tasks := h.tasks.filter (fun x => !t.kin x) })
    match s.slotOfUid t.uid with
    | some g => s.stepEnded g status
    | none => s.completeUid t.ring t.uid status 0
  else s

/-- A descriptor completes with a status: the sequencer writes its status word (R341). -/
def Dev.taskDone (d : Dev) (t : KTask) (code attempts detail : Nat) : Dev :=
  let d := if t.owner = 0 then d.putStatus t.part t.addr code attempts detail else d
  liftSys (fun s =>
    let s := s.onTask t.id (fun x => { x with phase := 3, status := code })
    let s := s.onPart t.part (fun q => { q with kettleCycles := min (q.kettleCycles + s.freeNat % 4096 + 1) (2 ^ 64 - 1) })
    let s := if t.kind = 3 then s else
      s.onHost (fun h => { h with kCounts := modNth h.kCounts (if t.kind = 4 then 2 else t.kind - 1) (fun c => addAt c t.stack 1) })
    (s.drew 1).tasksEnded t) d

/-- The block whose take a batch's task works for. -/
def Sys.taskBlock (s : Sys) (t : KTask) : Option Block :=
  match (s.host.queues.getD t.queue DecodeQueue.reset).claimed.find? (fun c => c.take.id == t.uid) with
  | some c => s.core.block? c.take.block
  | none => none

/-- An engine meets a poisoned line (Table 9-2): the command's context is killed and the command ends at once, a running
descriptor at a line boundary; for a batch the taking block's context is killed (Table 10-4). -/
def Dev.taskPoisoned (d : Dev) (t : KTask) (at_ : Nat × Nat) : Dev :=
  if t.owner = 0 then
    let others := d.sys.host.tasks.filter (fun x => t.kin x && x.phase != 0 && x.phase != 3 && x.id != t.id)
    let d := runAll Dev.kPartial others d
    liftSys (fun s => (s.onHost (fun h => { h with tasks := h.tasks.filter (fun x => !t.kin x) })).poisonKill t.ring t.idx at_) d
  else
    liftSys (fun s =>
      let s := s.onTask t.id (fun x => { x with phase := 3, status := 1 })
      match s.taskBlock t with
      | some b => s.killContext b.part b.ring 0x0202 at_.1 (memDetail at_.2 b.ring b.cmd)
      | none => s) d

/-! ## KETTLE_DESCRIPTOR_START and KETTLE_TURN_END -/

/-- A descriptor starts, or resumes after a turn (R335, R339, R342). -/
def kettleStart (id : Nat) (d : Dev) : Dev :=
  match d.sys.task? id with
  | none => d
  | some t =>
    if (t.phase == 0 || t.phase == 2) && d.sys.ready && d.sys.engineFree t.stack t.kind && d.sys.taskReady t
        && (d.mem.stack t.stack).trained then
      if t.phase = 2 then liftSys (fun s => s.onTask id (fun x => { x with phase := 1 })) d
      else
        let k := d.kSources t
        match k.poison with
        | some at_ => k.dev.taskPoisoned t at_
        | none =>
          let t := { t with phase := 1, snap := k.got }
          let d := Dev.kPartial t (liftSys (fun s => s.onTask id (fun _ => t)) k.dev)
          let under := (t.dests (readBack k.got)).map (fun r => (r.1, d.peek t.part r.1 r.2))
          liftSys (fun s => s.onTask id (fun x => { x with under := under })) d
    else d
def execKettleDescriptorStart (task : Nat) := onRings (kettleStart task)

/-- A turn of 4,096 Kettle cycles ends: it is charged, and where a descriptor of another partition waits for the engine the
running one may be suspended (R342, 0x4201; log entry 23). -/
def kettleTurn (stack engine : Nat) (s : Sys) : Sys :=
  match s.host.tasks.find? (fun t => t.stack == stack && t.kind == engine && t.phase == 1) with
  | none => s
  | some t =>
    let s := s.onPart t.part (fun q => { q with kettleCycles := min (q.kettleCycles + 4096) (2 ^ 64 - 1) })
    let other := s.host.tasks.any (fun x => x.stack == stack && x.kind == engine && x.part != t.part
      && (x.phase == 2 || (x.phase == 0 && s.taskReady x)))
    if other && s.freeBool then (s.onTask t.id (fun x => { x with phase := 2 })).drew 1 else s.drew 1
def execKettleTurnEnd (stack engine : Nat) := onSys (kettleTurn stack engine)

/-! ## Completions -/

/-- A running task of a kind, with its sources as read at its end; a poisoned line may have been met before or after its
read. -/
def Dev.finishTask (d : Dev) (id kind : Nat) (f : KTask → (Nat → Nat) → Dev → Dev) : Dev :=
  match d.sys.task? id with
  | none => d
  | some t =>
    if t.kind == kind && t.phase == 1 && d.sys.ready && d.sys.kettleRuns t.stack then
      let k := d.kInput t
      match k.poison with
      | some at_ =>
        if k.dev.sys.freeBool then (liftSys (fun s => s.drew 1) k.dev).taskPoisoned t at_
        else f t (readBack k.got) (liftSys (fun s => s.drew 1) k.dev)
      | none => f t (readBack k.got) k.dev
    else d

/-- The bytes that an output leaves: a byte that another unit has written since the engine started holds one of the two written
values, which R27 leaves open (log entry 133). -/
def Dev.kBlend (d : Dev) (t : KTask) (w : Nat × List Byte) : Nat × List Byte :=
  let now := d.peek t.part w.1 w.2.length
  let was := ((t.under.find? (fun r => r.1 == w.1)).map Prod.snd).getD now
  (w.1, (List.range w.2.length).map (fun i =>
    if now.getD i 0 != was.getD i (now.getD i 0) && Config.freeBool (d.sys.freeCtr + w.1 + i) then now.getD i 0 else w.2.getD i 0))

/-- Write an engine's whole output. -/
def Dev.kWriteAll (d : Dev) (t : KTask) (ws : List (Nat × List Byte)) : Dev :=
  runAll (fun (w : Nat × List Byte) d => d.kettleWrite t.part w.1 w.2) (ws.map (d.kBlend t)) (liftSys (fun s => s.drew (2 ^ 40)) d)

/-- An output of a batch's vector, whose address the check at open does not reach beyond the descriptor's vector count: a write that does
not translate under R337 is not made and counts in 0x4010 (R217; log entry 124). -/
def Dev.kWriteChecked (t : KTask) (w : Nat × List Byte) (d : Dev) : Dev :=
  let r := d.placeRanges t.part [⟨0, w.1, w.2.length, true⟩]
  if r.1 = none ∧ r.2.1 = t.stack then d.kettleWrite t.part w.1 w.2
  else liftSys (fun s => runAll (fun _ s => s.transFault t.part) (List.range (max 1 r.2.2)) s) d

/-- Results for a take buffer (R374): vector v of the batch, the rows of the stack, at 320 + (v × R + row offset) × e, by the binding as it
stood at the claim. -/
def batchResults (c : Claimed) (t : KTask) (rd : Nat → Nat) : List (Nat × List Byte) :=
  let g := t.gemv
  let off := field c.binding (96 + 4 * t.stack) 4
  (List.range t.vectors.length).map (fun v =>
    (320 + ((t.firstVec + v) * c.rows + off) * g.esz, ((List.range g.rows).map (g.elem rd t.vectors v)).flatten))

def gemvDone (t : KTask) (rd : Nat → Nat) (d : Dev) : Dev :=
  if t.owner = 1 ∧ t.gemv.dst = 1 then
    let put := fun (c : Claimed) => if c.take.id == t.uid then { c with results := c.results ++ batchResults c t rd } else c
    (liftSys (fun s => s.onHost (fun h => { h with
      queues := modNth h.queues t.queue (fun q => { q with claimed := q.claimed.map put }) })) d).taskDone t 0 0 0
  else if t.owner = 1 then (runAll (Dev.kWriteChecked t) ((t.outs rd).map (d.kBlend t)) (liftSys (fun s => s.drew (2 ^ 40)) d)).taskDone t 0 0 0
  else (d.kWriteAll t (t.outs rd)).taskDone t 0 0 0
def execGemvDescriptorComplete (task : Nat) := onRings (fun d => d.finishTask task 1 gemvDone)

/-- A Scale pass writes its elements and scales, counts into its statistics set (R309, R351), and may end NONFINITE_SEEN or
MALFORMED (R352, R353). -/
def scaleDone (t : KTask) (rd : Nat → Nat) (d : Dev) : Dev :=
  let x := ScaleD.of t.desc
  let o := x.run rd t.setting
  let d := d.kWriteAll t o.writes
  let d := if o.status = 1 then d else liftSys (fun s => s.statsAdd t.part x.set o.counts o.amax 0x0220 t.stack) d
  d.taskDone t o.status 0 o.detail
def execScalePassDescriptorComplete (task : Nat) := onRings (fun d => d.finishTask task 2 scaleDone)

/-- An update descriptor writes the alternate bank; non-finite elements are counted and reach the vote (R403, R404). -/
def updateDone (t : KTask) (rd : Nat → Nat) (d : Dev) : Dev :=
  let o := t.upd.run rd
  let d := d.kWriteAll t o.writes
  let d := liftSys (fun s =>
    let s := s.onFab (fun f => { f with ucounts := addAt (addAt f.ucounts 0 1) 3 o.nonfinite })
    match s.slotOfUid t.uid with
    | some g => if o.nonfinite = 0 then s else s.onEpoch g (fun e => { e with nonfinite := true })
    | none => s) d
  d.taskDone t (if o.nonfinite = 0 then 0 else 7) 0 0
def execUpdateDescriptorComplete (task : Nat) := onRings (fun d => d.finishTask task 3 updateDone)

/-- Whether the trace of a root's matrix forbids damping (reason 5 of Table 9-12). -/
def traceBad (x : RootD) (rd : Nat → Nat) : Bool :=
  let G (i j : Nat) := rdLe rd (x.g + 4 * (i * x.m + j)) 4
  let tr := (List.range x.m).foldl (fun s i => dadd s (ddiv (dadd (toF64 (G i i)) (toF64 (G i i))) (f64 2))) 0
  !((val64 tr).isFinite && isPos64 tr)

/-- The root descriptor keeps the previous root: ROOT_HELD with its event (R357). -/
def rootHeld (t : KTask) (attempts reason : Nat) (d : Dev) : Dev :=
  let d := liftSys (fun s =>
    let s := s.onHost (fun h => { h with rootsHeld := h.rootsHeld + 1 })
    let s := match s.slotOfUid t.uid with
      | some g => s.onEpoch g (fun e => { e with held := true })
      | none => s
    s.raise t.part 0x0510 t.stack ([BitVec.ofNat 8 reason, BitVec.ofNat 8 attempts, 0, 0, BitVec.ofNat 8 t.ring, 0, 0, 0]
      ++ natLe 4 t.idx)) d
  d.taskDone t 8 attempts reason

/-- One attempt of the root unit (R355 to R357). -/
def rootStep (t : KTask) (rd : Nat → Nat) (d : Dev) : Dev :=
  let x := RootD.of t.desc
  let a := t.attempts
  match rootAttemptAt x rd t.setting a with
  | .ok codes => (d.kWriteAll t [(x.r, (codes.map (natLe 4)).flatten)]).taskDone t 0 (a + 1) 0
  | .error r =>
    if r = 1 then rootHeld t (a + 1) 1 d
    else if a = 0 ∧ traceBad x rd = true then rootHeld t 1 5 d
    else if a = 9 then rootHeld t 10 r d
    else liftSys (fun s => s.onTask t.id (fun y => { y with attempts := a + 1 })) d
def execRootAttempt (task : Nat) := onRings (fun d => d.finishTask task 4 rootStep)

/-! ## Lists (R336 to R338, R344) -/

/-- What became of a command's list: it ended with a status, its context was killed, or its descriptors are pending. -/
inductive ListEnd where
  | ended (d : Dev) (status : Nat)
  | killed (d : Dev)
  | started (d : Dev)

/-- Write MALFORMED to descriptors (i, detail). -/
def Dev.malformed (d : Dev) (p a : Nat) (bad : List (Nat × Nat)) : Dev :=
  runAll (fun (x : Nat × Nat) d => d.putStatus p (a + 64 * x.1) 1 0 x.2) bad d

/-- The setting in force at a check: the headroom of a Scale pass (R350), the ε of a root (R362). -/
def Sys.taskSetting (s : Sys) (kind : Nat) (desc : List Byte) : Nat :=
  if kind = 2 then (let h := (ScaleD.of desc).headroom; if h = 0 then s.cfgN 0x5000 2 else h - 1)
  else if kind = 4 then (let e := (RootD.of desc).eps; if e % 2 ^ 31 = 0 then s.cfgN 0x4210 1 else e)
  else 0

/-- Enter a descriptor as a task. A root of an UPDATE whose epoch is no multiple of the root interval does not run (R392). -/
def Sys.addTask (s : Sys) (r : Nat) (c : RCmd) (target : Nat) (runRoots : Bool) (p a : Nat) (x : Nat × List Byte × KCheck) : Sys :=
  let kind := bits (field x.2.1 0 4) 3 0
  s.onHost (fun h => { h with
    nextTask := h.nextTask + 1
    tasks := h.tasks ++ [{ id := h.nextTask, owner := 0, part := p, ring := r, idx := c.idx, uid := c.uid, queue := 0, order := x.1,
                           stack := x.2.2.stack, kind := kind, barrier := bit (field x.2.1 0 4) 4, addr := a + 64 * x.1,
                           desc := x.2.1, shard := x.2.2.shard, coef := x.2.2.coef, setting := s.taskSetting kind x.2.1,
                           target := target, vectors := [], firstVec := 0,
                           phase := if kind = 4 ∧ runRoots = false then 3 else 0, attempts := 0, status := 0, snap := [], under := [] }] })

/-- A command's list is checked whole before any descriptor starts (R338, R344). -/
def Dev.startList (d : Dev) (r : Nat) (c : RCmd) (kinds : List Nat) (a n target : Nat) (runRoots : Bool) : ListEnd :=
  let p := d.sys.ringPart r
  if field (d.sys.qos p) 0 1 = 0 then .ended (d.malformed p a ((List.range n).map (fun i => (i, 0xFFFE)))) 1
  else
    match d.listPoison p c.expert a n with
    | some at_ => .killed (liftSys (fun s => s.poisonKill r c.idx at_) (d.refuse at_))
    | none =>
      let d := (d.readRange p a (64 * n)).dev
      let xs := (List.range n).map (fun i =>
        let b := d.peek p (a + 64 * i) 64
        (i, b, d.checkDesc p c.expert false kinds b))
      let bad := xs.filterMap (fun x => x.2.2.fail.map (fun off => (x.1, off)))
      let faults := (xs.map (fun x => x.2.2.faults)).sum
      let d := liftSys (fun s => runAll (fun _ s => s.transFault p) (List.range faults) s) d
      if bad ≠ [] then .ended (d.malformed p a bad) 1
      else if n = 0 then .ended d 0
      else .started (liftSys (fun s => runAll (fun x s => s.addTask r c target runRoots p a x) xs s) d)

/-- A command that runs a list and nothing else: GEMV operation 1 and COPY operation 2 (R338, R621, R622). -/
def listCommand (r idx kind op n : Nat) (kinds : List Nat) (d : Dev) : Dev :=
  match d.sys.startedCmd r idx kind op with
  | none => d
  | some c =>
    let d := liftSys (fun s => s.begin r c.uid) d
    match d.startList r c kinds (field c.bytes 24 8) (field c.bytes n (if n = 32 then 4 else 8)) 0 true with
    | .ended d st => liftSys (fun s => s.completeUid r c.uid st 0) d
    | .killed d => d
    | .started d => d
def execGemvList (ring idx : Nat) := onRings (listCommand ring idx 5 1 32 [1])
def execCopyScalePass (ring idx : Nat) := onRings (listCommand ring idx 2 2 40 [2])

end Sys2Proof.Machine
end

