-- ==== Sys2Proof/Machine/Update.lean ====
section
/-! DEFINITION. The UPDATE command, the owner's epoch machine on decisions, publishing, votes at block managers and the
coordinator, and CTRL packets at their destination (11_parameter_update.md, R390 to R392, R406 to R417, R706; R477, R478). -/

namespace Sys2Proof.Machine

open Sys2Proof

/-! ## Slot records (Table 15-1) -/

def Sys.slotRec (s : Sys) (g : Nat) : List Byte := s.cfg 0x7000 (g + 1)
def Sys.slotOn (s : Sys) (g : Nat) : Bool := decide (g < 8) && field (s.slotRec g) 0 1 == 1
def Sys.slotPart (s : Sys) (g : Nat) : Nat := field (s.slotRec g) 1 1
def Sys.coordinator (s : Sys) (g : Nat) : Nat := bits (field (s.slotRec g) 40 4) 16 0
/-- The fabric IDs of the slot's ranks as read at its commit (R534). -/
def Sys.ranks (s : Sys) (g : Nat) : List Nat := (s.slot g).ranks

/-- The block of a fabric ID: its coordinates over 4 (R505). -/
def blockOf (fid : Nat) : Nat × Nat × Nat := (fid % 64 / 4, fid / 64 % 64 / 4, fid / 4096 / 4)

/-! ## Publishing (R413) -/

/-- The multicast stores of one shard: its n BF16 weights in the active bank. -/
def Dev.publishOne (g : Nat) (x : Nat × List Byte) (d : Dev) : Dev :=
  let e := d.sys.epoch g
  let group := field x.2 194 2
  if group = 0xFFFF then d
  else
    let a := field x.2 (if e.committed % 2 = 0 then 16 else 24) 8
    let off := field x.2 200 8
    let segs := segments off (2 * x.1)
    liftSys (fun s => s.onFab (fun f =>
      let id := f.nextUid
      let f := { f with
        nextUid := id + 1
        ops := f.ops ++ [{ id := id, owner := 3, part := e.part, gid := ⟨0, 0, 0⟩, block := 0, pc := 0, counter := 0, descAddr := 0, ring := e.ring,
                           idx := e.idx, uid := e.uid, slot := g, kind := kMput, noReturn := false, localShofel := true, localAddr := a,
                           left := segs.length, status := 0, timedOut := false }] }
      runAll (fun (y : Nat × Nat) f =>
        f.enter id e.part 2 ⟨kMput, 4, 0, 0, 0, group, s.fid, e.part, 0, field x.2 196 4, field x.2 192 2, y.2, off + y.1, []⟩ (a + y.1)
          (if (d.poisonIn e.part (a + y.1) y.2).isSome then [] else d.peek e.part (a + y.1) y.2)) segs f)) d

/-- The machine enters PUBLISHING. -/
def Dev.startPublish (d : Dev) (g : Nat) : Dev :=
  let d := liftSys (fun s => s.enterEpoch g 3) d
  runAll (Dev.publishOne g) (d.sys.epoch g).pubs d

/-- PUBLISH_COMPLETE: every segment acknowledged (Table 11-10, R418). -/
def publishComplete (g : Nat) (s : Sys) : Sys :=
  if s.ready && (s.epoch g).state == 3 && !s.fab.ops.any (fun o => o.owner == 3 && o.slot == g) then
    (s.onEpoch g (fun e => { e with incomplete := false })).finishEpoch g (s.epoch g).status
  else s
def execPublishComplete (slot : Nat) := onRings (liftSys (publishComplete slot))

/-! ## UPDATE (R390 to R392) -/

/-- R390's conditions on the list: kinds 3 and 4, roots with their barrier. -/
def updateKindsOk (descs : List (List Byte)) : Bool :=
  descs.all (fun b =>
    let k := bits (field b 0 4) 3 0
    k == 3 || (k == 4 && bit (field b 0 4) 4))

/-- UPDATE_STEP and UPDATE_PUBLISH: the check of R390, after which the command waits for its slot. -/
def updateCheck (mode r idx : Nat) (d : Dev) : Dev :=
  match d.sys.startedCmd r idx 4 0 with
  | none => d
  | some c =>
    if field c.bytes 17 1 = mode ∧ c.checked = false then
      let p := d.sys.ringPart r
      let g := c.op
      let a := field c.bytes 32 8
      let n := field c.bytes 40 4
      match d.poisonIn p a (64 * n) with
      | some at_ => liftSys (fun s => s.poisonKill r idx at_) (d.refuse at_)
      | none =>
        let descs := (List.range n).map (fun i => d.peek p (a + 64 * i) 64)
        let e := d.sys.epoch g
        let ok := d.sys.slotOn g && d.sys.slotPart g == p && updateKindsOk descs
          && field c.bytes 24 8 == e.committed + (if mode = 1 then 1 else 0) && (mode == 2 || d.sys.bmValid)
        let roots := decide (field c.bytes 24 8 % (d.sys.cfgN 0x7110 1) = 0)
        liftSys (fun s =>
          if ok then s.onRing r (fun x => { x with cmds := x.cmds.map (fun y => if y.uid == c.uid then { y with checked := true, roots := roots } else y) })
          else s.completeUid r c.uid 1 (e.committed % 2 ^ 32)) d
    else d
def execUpdateStep (ring idx : Nat) := onRings (updateCheck 1 ring idx)
def execUpdatePublish (ring idx : Nat) := onRings (updateCheck 2 ring idx)

/-- The update descriptors of a list, as they are published: elements and shard record. -/
def Dev.pubsOf (d : Dev) (p a n : Nat) : List (Nat × List Byte) :=
  (List.range n).filterMap (fun i =>
    let b := d.peek p (a + 64 * i) 64
    if bits (field b 0 4) 3 0 = 3 then some ((UpdD.of b).n, d.peek p (UpdD.of b).shard 256) else none)

/-- A step begins: its descriptors are checked and start, or it votes at once (R338, R344, R392, R408). Its roots run as the check of the
command found. -/
def Dev.beginStep (d : Dev) (r g : Nat) (c : RCmd) : Dev :=
  let p := d.sys.ringPart r
  let a := field c.bytes 32 8
  let n := field c.bytes 40 4
  let t := field c.bytes 24 8
  let pubs := d.pubsOf p a n
  match d.startList r c [3, 4] a n t c.roots with
  | .ended d st => liftSys (fun s => (s.onEpoch g (fun e => { e with bad := st == 1, pubs := pubs })).stepEnded g st) d
  | .killed d => liftSys (fun s => s.onEpoch g (fun e => { e with killed := true })) d
  | .started d =>
    liftSys (fun s =>
      let s := s.onEpoch g (fun e => { e with pubs := pubs })
      match s.host.tasks.find? (fun x => x.owner == 0 && x.uid == c.uid) with
      | some x => s.tasksEnded x
      | none => s) d

/-- A publish-mode command checks its descriptors and publishes the active bank. -/
def Dev.beginPublish (d : Dev) (r g : Nat) (c : RCmd) : Dev :=
  let p := d.sys.ringPart r
  let a := field c.bytes 32 8
  let n := field c.bytes 40 4
  match d.listPoison p c.expert a n with
  | some at_ => liftSys (fun s => (s.enterEpoch g 0).poisonKill r c.idx at_) (d.refuse at_)
  | none =>
    let xs := (List.range n).map (fun i => (i, d.checkDesc p c.expert false [3, 4] (d.peek p (a + 64 * i) 64)))
    let bad := xs.filterMap (fun x => x.2.fail.map (fun off => (x.1, off)))
    let d := liftSys (fun s => runAll (fun _ s => s.transFault p) (List.range ((xs.map (fun x => x.2.faults)).sum)) s) d
    if bad ≠ [] then liftSys (fun s => s.finishEpoch g 1) (d.malformed p a bad)
    else (liftSys (fun s => s.onEpoch g (fun e => { e with pubs := d.pubsOf p a n })) d).startPublish g

/-- UPDATE_START: the slot's machine is IDLE, and the command begins (R391, R412, R706). -/
def updateStart (r idx : Nat) (d : Dev) : Dev :=
  match d.sys.startedCmd r idx 4 0 with
  | none => d
  | some c =>
    let g := c.op
    let e := d.sys.epoch g
    if c.checked = true ∧ e.state = 0 then
      let d := liftSys (fun s => (s.begin r c.uid).onEpoch g (fun e => { e with
        target := field c.bytes 24 8, attempt := e.nextAttempt, part := s.ringPart r, ring := r, idx := idx, uid := c.uid, bad := false
        aborted := false, killed := false, wasReset := false, nonfinite := false, held := false, status := 0, pubs := [] })) d
      let d := liftSys (fun s => s.enterEpoch g 1) d
      if field c.bytes 17 1 = 1 then d.beginStep r g c else d.beginPublish r g c
    else d
def execUpdateStart (ring idx : Nat) := onRings (updateStart ring idx)

/-! ## Decisions at the owner (Table 11-10) -/

/-- A decision for the slot's target epoch and attempt (R389, R412, R706). -/
def Dev.takeDecision (d : Dev) (g dec reason : Nat) : Dev :=
  let e := d.sys.epoch g
  let note := fun (s : Sys) => s.onEpoch g (fun e => { e with lastDecision := dec, lastReason := reason })
  let abort := fun (s : Sys) =>
    ((note s).onEpoch g (fun e => { e with nextAttempt := max e.nextAttempt (e.attempt + 1) })).onFab (fun f => { f with ucounts := addAt f.ucounts 2 1 })
  if e.state = 1 ∧ dec = 2 ∧ e.aborted = false then
    liftSys (fun s => (abort s).onEpoch g (fun e => { e with aborted := true })) d
  else if e.state = 2 ∧ dec = 2 then
    liftSys (fun s => ((abort s).raise e.part 0x0501 g (natLe 8 e.target ++ natLe 1 reason)).finishEpoch g (if e.bad then 1 else 9)) d
  else if e.state = 2 ∧ dec = 1 then
    let d := liftSys (fun s => ((note s).onEpoch g (fun e => { e with committed := (e.committed + 1) % 2 ^ 64, nextAttempt := 0 })).onFab
      (fun f => { f with ucounts := addAt f.ucounts 1 1 })) d
    if e.wasReset then liftSys (fun s => (s.onEpoch g (fun e => { e with incomplete := true })).finishEpoch g 0) d
    else d.startPublish g
  else d

/-- EPOCH_IN_DOUBT: event 0x0502 once in VOTED (Table 11-10). -/
def epochInDoubt (g : Nat) (s : Sys) : Sys :=
  let e := s.epoch g
  if e.state == 2 && !e.inDoubt then
    (s.onEpoch g (fun e => { e with inDoubt := true })).raise e.part 0x0502 g (natLe 8 e.target)
  else s
def execEpochInDoubt (slot : Nat) := onSys (epochInDoubt slot)

/-! ## CTRL packets at their destination (R406, R478) -/

def recSlot (b : List Byte) : Nat := field b 0 1
def recTarget (b : List Byte) : Nat := field b 8 8
/-- The attempt of a vote record, or of a decision record. -/
def recAttempt (ctype : Nat) (b : List Byte) : Nat := if ctype = 3 then field b 16 4 else field b 20 4

/-- CTRL_PACKET: recorded at most once, answered with an ACK each time. -/
def ctrlPacket (p : Pkt) (s : Sys) : Sys :=
  let ctype := p.offset % 256
  let key := (p.src, ctype, recSlot p.payload, recTarget p.payload, recAttempt ctype p.payload)
  let s := if s.fab.ctrlSeen.contains key then s
    else s.onFab (fun f => { f with ctrlSeen := f.ctrlSeen ++ [key], ctrlIn := f.ctrlIn ++ [⟨p.src, ctype, p.payload⟩] })
  s.inject (replyTo p kAck 0 []) 1

/-- A record that no rule lets the device act on is discarded and counted (0x7420 sub 0x07). -/
def Sys.ctrlDiscard (s : Sys) : Sys := s.onFab (fun f => { f with ucounts := addAt f.ucounts 6 1 })
/-- A late vote (R411). -/
def Sys.lateVote (s : Sys) : Sys := s.onFab (fun f => { f with ucounts := addAt f.ucounts 4 1 })

/-- (target, attempt) not later than the last decided of the slot. -/
def decidedBefore (l : List Gather) (slot t a : Nat) : Bool :=
  l.any (fun x => x.slot == slot && x.sent && (decide (t < x.target) || (t == x.target && decide (a ≤ x.attempt))))

/-- Add a vote to the open gathering of its target and attempt. -/
def addVote (l : List Gather) (slot t a from_ : Nat) (v : List Byte) : List Gather :=
  if l.any (fun x => x.slot == slot && x.target == t && x.attempt == a && !x.sent) then
    l.map (fun x => if x.slot == slot && x.target == t && x.attempt == a && !x.sent then { x with votes := assocSet x.votes from_ v } else x)
  else l ++ [⟨slot, t, a, [(from_, v)], false⟩]

/-- A gathering is decided: it stays only as the mark of R411, beside a mark of a later target or attempt. -/
def sealGather (l : List Gather) (slot t a : Nat) : List Gather :=
  (l.filter (fun x => !(x.slot == slot && ((x.target == t && x.attempt == a)
    || (x.sent && (decide (x.target < t) || (x.target == t && decide (x.attempt < a)))))))) ++ [⟨slot, t, a, [], true⟩]

/-- The owners of a slot's group in this device's block (R406). -/
def Sys.blockOwners (s : Sys) (g : Nat) : List Nat := (s.ranks g).filter (fun f => blockOf f == blockOf s.fid)

/-- The block vote goes to the coordinator, with the OR of the owners' flags (R409). -/
def Sys.sendBlockVote (s : Sys) (x : Gather) (vote : Nat) : Sys :=
  let flags := x.votes.foldl (fun m v => m ||| (field v.2 2 1 &&& 3)) 0
  let voters := (x.votes.map (fun v => field v.2 4 4)).sum
  let s := s.onFab (fun f => { f with ownerVotes := sealGather f.ownerVotes x.slot x.target x.attempt })
  s.sendCtrl (s.coordinator x.slot) 2 x.slot x.target x.attempt (voteBytes x.slot vote flags voters x.target s.fid x.attempt)

/-- The record at the head of the fabric control queue, when it has a control type. -/
def Sys.ctrlHead (s : Sys) (ctype : Nat) : Option CtrlIn :=
  match s.fab.ctrlIn with
  | [] => none
  | c :: _ => if s.mgmtUp && c.ctype == ctype then some c else none
def Sys.ctrlTake (s : Sys) : Sys := s.onFab (fun f => { f with ctrlIn := f.ctrlIn.drop 1 })

/-- OWNER_VOTE_RECEIVE (R406, R409, R411). A record of no control type is discarded here too. -/
def ownerVote (s : Sys) : Sys :=
  match s.fab.ctrlIn with
  | [] => s
  | c :: _ =>
    if s.mgmtUp = true ∧ c.ctype ≠ 2 ∧ c.ctype ≠ 3 then
      let s := s.ctrlTake
      let g := recSlot c.payload
      let t := recTarget c.payload
      let a := recAttempt 1 c.payload
      let v := field c.payload 1 1
      if c.ctype = 1 ∧ s.role = 2 ∧ s.slotOn g = true ∧ (s.blockOwners g).contains c.src = true ∧ (v = 1 ∨ v = 2) then
        if decidedBefore s.fab.ownerVotes g t a then s.lateVote
        else
          let s := s.onFab (fun f => { f with ownerVotes := addVote f.ownerVotes g t a c.src c.payload })
          match s.fab.ownerVotes.find? (fun x => x.slot == g && x.target == t && x.attempt == a && !x.sent) with
          | none => s
          | some x =>
            if v = 2 then s.sendBlockVote x 2
            else if (s.blockOwners g).all (fun f => x.votes.any (fun y => y.1 == f)) then s.sendBlockVote x 1
            else s
      else s.ctrlDiscard
    else s
def execOwnerVoteReceive := onSys ownerVote

/-- VOTE_BUDGET_EXPIRY: a block manager's block vote FAILED with a vote missing (R409, R504). -/
def voteBudget (g : Nat) (s : Sys) : Sys :=
  match s.fab.ownerVotes.find? (fun x => x.slot == g && !x.sent) with
  | some x => if s.mgmtUp = true ∧ s.role = 2 then s.sendBlockVote x 2 else s
  | none => s
def execVoteBudgetExpiry (slot : Nat) := onSys (voteBudget slot)

/-- Whether a slot's non-finite policy in force is skip-step: an expert override replaces the basic policy (Tables 15-1 and 15-2). -/
def Sys.skipStep (s : Sys) (g : Nat) : Bool := field (s.slotRec g) 45 1 == 1 && field (s.cfg 0x7000 (g + 9)) 1 1 != 1

/-- The coordinator decides once, logs the decision (0x7411) and sends it to each sender of a block vote and to every owner of
a block from which none has come (R406, R410). -/
def Sys.coordDecide (s : Sys) (x : Gather) (dec reason : Nat) : Sys :=
  let rec_ := decisionBytes x.slot dec reason s.fid x.target x.attempt
  let heard := x.votes.map (fun v => blockOf v.1)
  let dests := x.votes.map Prod.fst ++ (s.ranks x.slot).filter (fun f => !heard.contains (blockOf f))
  let s := s.onFab (fun f => { f with
    blockVotes := sealGather f.blockVotes x.slot x.target x.attempt
    decisions := rec_ :: f.decisions.filter (fun y => field y 0 1 != x.slot)
      ++ (f.decisions.filter (fun y => field y 0 1 == x.slot)).take 15 })
  runAll (fun dst s => s.sendCtrl dst 3 x.slot x.target x.attempt rec_) dests s

/-- BLOCK_VOTE_RECEIVE (R406, R410, R411). -/
def blockVote (s : Sys) : Sys :=
  match s.ctrlHead 2 with
  | none => s
  | some c =>
    let s := s.ctrlTake
    let g := recSlot c.payload
    let t := recTarget c.payload
    let a := recAttempt 2 c.payload
    let v := field c.payload 1 1
    if s.fidValid = true ∧ s.slotOn g = true ∧ s.coordinator g = s.fid ∧ ((s.ranks g).map blockOf).contains (blockOf c.src) = true
        ∧ (v = 1 ∨ v = 2) then
      if decidedBefore s.fab.blockVotes g t a then s.lateVote
      else
        let s := s.onFab (fun f => { f with blockVotes := addVote f.blockVotes g t a c.src c.payload })
        match s.fab.blockVotes.find? (fun x => x.slot == g && x.target == t && x.attempt == a && !x.sent) with
        | none => s
        | some x =>
          if v = 2 then s.coordDecide x 2 1
          else if field c.payload 2 1 % 2 = 1 ∧ s.skipStep g = true then s.coordDecide x 2 2
          else if (s.ranks g).all (fun f => x.votes.any (fun y => blockOf y.1 == blockOf f)) then s.coordDecide x 1 0
          else s
    else s.ctrlDiscard
def execBlockVoteReceive := onSys blockVote

/-- COORDINATOR_BUDGET_EXPIRY: ABORT with a block vote missing (R410). -/
def coordBudget (g : Nat) (s : Sys) : Sys :=
  match s.fab.blockVotes.find? (fun x => x.slot == g && !x.sent) with
  | some x => if s.mgmtUp then s.coordDecide x 2 3 else s
  | none => s
def execCoordinatorBudgetExpiry (slot : Nat) := onSys (coordBudget slot)

/-- DECISION_RECEIVE: a block manager relays the coordinator's decision to the owners of its block; an owner acts on one from
its block manager or the coordinator for its target epoch and attempt (R406, R412, R416). -/
def decisionReceive (d : Dev) : Dev :=
  match d.sys.ctrlHead 3 with
  | none => d
  | some c =>
    let d := liftSys Sys.ctrlTake d
    let g := recSlot c.payload
    let t := recTarget c.payload
    let a := recAttempt 3 c.payload
    let coord := d.sys.slotOn g && c.src == d.sys.coordinator g
    let mine := coord || (d.sys.bmValid && c.src == d.sys.bmFid)
    if mine then
      let d := if coord && d.sys.role == 2 then
          liftSys (fun s => runAll (fun f s => s.sendCtrl f 3 g t a c.payload) (s.blockOwners g) s) d
        else d
      let e := d.sys.epoch g
      let dec := field c.payload 1 1
      let d := if e.state ≠ 0 ∧ e.target = t ∧ e.attempt = a then d.takeDecision g dec (field c.payload 2 1) else d
      -- an ABORT that finds its owner without a step of that attempt numbers the owner's next step all the same (R706)
      if dec = 2 ∧ t = e.committed + 1 then liftSys (fun s => s.onEpoch g (fun e => { e with nextAttempt := max e.nextAttempt (a + 1) })) d else d
    else liftSys Sys.ctrlDiscard d
def execDecisionReceive := onRings decisionReceive

/-- CTRL_RESEND: an unanswered CTRL packet goes again with its sequence, unless the sender's machine for its slot has left the state
in which it sent the record (R478). -/
def ctrlResend (k : Nat) (s : Sys) : Sys :=
  match s.fab.ctrlOut[k]? with
  | none => s
  | some c =>
    if s.machine c.slot ≠ c.machine then
      s.onFab (fun f => { f with ctrlOut := dropNth f.ctrlOut k })
    else if s.mgmtUp then s.inject ⟨kCtrl, 0, 0, 0, 0, c.dest, s.fid, 0, c.seq, 0, 0, 32, c.ctype, c.payload⟩ 0
    else s
def execCtrlResend (k : Nat) := onSys (ctrlResend k)

end Sys2Proof.Machine
end

