-- ==== Sys2Proof/Machine/FabIssue.lean ====
section
/-! DEFINITION. The issue of remote operations: `fab.*` instructions and COPY operation 3 (13_fabric_operations.md, R466 to
R475, R479 to R482; R621). -/

namespace Sys2Proof.Machine

open Sys2Proof

/-! ## Fabric descriptors (Table 13-3) -/

structure FabD where
  kind : Nat
  vc : Nat
  shofel : Bool
  orderFree : Bool
  noReturn : Bool
  op : Nat
  ty : Nat
  len : Nat
  tgt : Nat
  window : Nat
  key : Nat
  off : Nat
  loc : Nat
  operand : List Byte
  compare : List Byte
deriving DecidableEq, Repr

def FabD.of (b : List Byte) : FabD where
  kind := bits (field b 0 4) 3 0
  vc := bits (field b 0 4) 7 4
  shofel := bit (field b 0 4) 8
  orderFree := bit (field b 0 4) 9
  noReturn := bit (field b 0 4) 10
  op := bits (field b 0 4) 19 16
  ty := bits (field b 0 4) 22 20
  len := field b 4 4
  tgt := field b 8 4
  window := field b 12 2
  key := field b 16 4
  off := field b 24 8
  loc := field b 32 8
  operand := (b.drop 40).take 8
  compare := (b.drop 48).take 8

/-- Bytes of an element of a type (0 u32, 1 s32, 2 u64, 3 f32, 4 f64). -/
def elemBytes (ty : Nat) : Nat := 4 * atomRegs ty

/-- The atomics that Table 5-4 permits. -/
def atomPermitted (op ty : Nat) : Bool :=
  decide (op < 8 ∧ ty < 5) && (decide (ty < 3) || op == 0 || op == 6) && (!(op == 3 || op == 4 || op == 5) || ty == 0 || ty == 2)

/-- R469: whether a descriptor of kind `want` is well formed for a partition. -/
def Sys.fabWf (s : Sys) (p want : Nat) (b : List Byte) : Bool :=
  let x := FabD.of b
  let c := field b 0 4
  x.kind == want && decide (1 ≤ x.kind ∧ x.kind ≤ 6) && bits c 15 11 == 0 && bits c 31 23 == 0 && resZero b 14 2 && resZero b 20 4
    && resZero b 60 4 && decide (x.op < 8 ∧ x.ty < 5) && decide (x.window < 4096) && decide (x.off < 2 ^ 40)
    && decide (x.tgt < (if x.kind = kMput then 2 ^ 12 else 2 ^ 17))
    && (x.vc == 0 || (decide (3 ≤ x.vc ∧ x.vc ≤ 10) && s.slotOn (x.vc - 3) && s.slotPart (x.vc - 3) == p))
    && (!x.orderFree || (x.kind == kAtom && x.op == 0 && decide (3 ≤ x.ty ∧ x.ty ≤ 4))) && (!x.noReturn || x.kind == kAtom)
    && (if x.kind = kRed then decide (x.op ≤ 2 ∧ x.ty < 5) && decide (x.len ≤ 4096) && x.len % elemBytes x.ty == 0
          && x.off % elemBytes x.ty == 0
        else if x.kind = kAtom then atomPermitted x.op x.ty && x.len == 0 && x.off % elemBytes x.ty == 0
          && (x.op == 7 || resZero x.compare 0 8)
        else if x.kind = kFlag then x.len == 0 && x.off % 8 == 0
        else decide (x.len ≤ 2 ^ 24) && x.len % 16 == 0 && x.off % 16 == 0)
    && (x.kind == kAtom || resZero x.compare 0 8)

/-- The local range of an operation: bytes, and whether they are written (R470); none for a flag store or no-return. -/
def FabD.range (x : FabD) : Option (Nat × Bool) :=
  if x.kind = kFlag ∨ x.noReturn then none
  else if x.kind = kAtom then some (elemBytes x.ty, true)
  else some (x.len, x.kind == kGet)

def FabD.aligned (x : FabD) : Bool := x.loc % (if x.kind = kAtom then 8 else 16) == 0

/-- The packets of an operation, as (bytes from its start, packet); a packet's data are read when it is sent (R475). -/
def Sys.fabPackets (s : Sys) (p : Nat) (x : FabD) : List (Nat × Pkt) :=
  let flags := (if x.orderFree then 2 else 0) + (if x.kind = kMput then 4 else 0) + (if x.noReturn then 16 else 0)
  let mk (off len : Nat) (pay : List Byte) : Pkt :=
    ⟨x.kind, flags, 0, x.op, x.ty, x.tgt, s.fid, p, 0, x.key, x.window, len, off, pay⟩
  if x.kind = kAtom then [(0, mk x.off 16 (x.operand ++ x.compare))]
  else if x.kind = kFlag then [(0, mk x.off 8 x.operand)]
  else if x.kind = kRed then [(0, mk x.off x.len [])]
  else (segments x.off x.len).map (fun y => (y.1, mk (x.off + y.1) y.2 []))

/-- The VC of a descriptor: VC2, or a collective slot's. -/
def FabD.chan (x : FabD) : Nat := if x.vc = 0 then 2 else x.vc

/-- An operation enters the request queue with its packets in increasing offset (R479); `read` gives the source bytes as they
stand. -/
def Sys.enterOp (s : Sys) (o : FabOp) (x : FabD) (read : Nat → Nat → List Byte) : Sys :=
  let pks := s.fabPackets o.part x
  s.onFab (fun f =>
    let id := f.nextUid
    let f := { f with
      nextUid := id + 1
      ops := f.ops ++ [{ o with id := id, kind := x.kind, noReturn := x.noReturn, localShofel := x.shofel, localAddr := x.loc,
                                left := pks.length, status := 0, timedOut := false }] }
    runAll (fun (y : Nat × Pkt) f =>
      let src := decide (x.kind = kPut ∨ x.kind = kMput ∨ x.kind = kRed)
      f.enter id o.part x.chan y.2 (x.loc + y.1) (if src then read (x.loc + y.1) y.2.len else [])) pks f)

/-- An operation record to fill in. -/
def FabOp.blank : FabOp :=
  { id := 0, owner := 0, part := 0, gid := ⟨0, 0, 0⟩, block := 0, pc := 0, counter := 0, descAddr := 0, ring := 0, idx := 0, uid := 0, slot := 0,
    kind := 0, noReturn := false, localShofel := false, localAddr := 0, left := 0, status := 0, timedOut := false }

/-! ## `fab.*` (R466 to R471) -/

/-- The descriptor's bytes. -/
def fabDesc (i : Issue) : List Byte := i.blk.csRead (leadReg i i.inst.a) 64

/-- No earlier access of the thread to the operation's local Shofel bytes is pending; its own core store accesses come first. -/
def fabClear (i : Issue) (d : Dev) : Bool :=
  let x := FabD.of ((d.sys.csOwn i.grp.gid i.act i.blk.id).csRead i.blk.id (leadReg i i.inst.a) 64)
  match i.act, x.range with
  | l :: _, some (n, _) =>
    !x.shofel || !d.rangeOk i.blk.part x.loc n false ||
      (rangePieces x.loc n).all (fun pc =>
        let (st, L) := d.locate i.blk.part pc.1
        !d.sys.core.stores.any (fun y => y.of i.grp.gid l i.blk.id && y.hits st L pc.2)
          && !d.sys.waitsLine i.grp.gid l st (L / 64))
  | _, _ => true
def fabReady (i : Issue) (d : Dev) : Bool := i.act == [] || (d.sys.asyncRoom i.grp.gid 1 && fabClear i d)

/-- The fault of a `fab.*` instruction: its addresses, its descriptor (R469), its local range (R470). -/
def fabBad (want : Nat) (i : Issue) (d : Dev) : Option Nat :=
  if i.act = [] then none
  else
    let a := leadReg i i.inst.a
    let k := leadReg i i.inst.d
    if a % 64 ≠ 0 ∨ i.blk.csOk a 64 = false ∨ i.blk.counterOk k = false then some 0x0101
    else
      let b := fabDesc i
      let x := FabD.of b
      if d.sys.fabWf i.blk.part want b = false then some 0x0104
      else
        match x.range with
        | none => none
        | some (n, w) =>
          if x.aligned && (if x.shofel then d.rangeOk i.blk.part x.loc n w else i.blk.csOk x.loc n && !overlaps k 4 x.loc n) then none
          else some 0x0101

/-- The operation of a thread enters the request queue. -/
def fabBody (i : Issue) (d : Dev) : Dev :=
  if i.act = [] then d
  else
    let x := FabD.of (fabDesc i)
    let read := fun a n =>
      if x.shofel then (if (d.poisonIn i.blk.part a n).isSome then [] else d.peek i.blk.part a n) else i.blk.csRead a n
    liftSys (fun s => s.enterOp { FabOp.blank with
      owner := 0, part := i.blk.part, gid := i.grp.gid, block := i.blk.id, pc := i.grp.pc, counter := leadReg i i.inst.d, descAddr := leadReg i i.inst.a
      ring := i.blk.ring, idx := i.blk.cmd, uid := i.blk.uid } x read) d
/-- The issue of a `fab.*` instruction. A fence of device scope does not hold it back (R231, R248). -/
def fab (op want : Nat) (g : Gid) : Dev → Dev := issueCs op g fabReady (fabBad want) fabBody

def runFabGet (g : Gid) : Dev → Dev := fab 0x90 1 g
def runFabPut (g : Gid) : Dev → Dev := fab 0x91 2 g
def runFabMput (g : Gid) : Dev → Dev := fab 0x92 3 g
def runFabRed (g : Gid) : Dev → Dev := fab 0x93 4 g
def runFabAtom (g : Gid) : Dev → Dev := fab 0x94 5 g
def runFabPutFlag (g : Gid) : Dev → Dev := fab 0x95 6 g

/-- `fab.fence`: counts once the partition's sequenced packets entered before it are acknowledged (R482). -/
def fenceBad (i : Issue) (_ : Dev) : Option Nat :=
  if i.act = [] ∨ i.blk.counterOk (leadReg i i.inst.d) = true then none else some 0x0101
def fabFenceReady (i : Issue) (d : Dev) : Bool := i.act == [] || d.sys.asyncRoom i.grp.gid 1
def fabFenceBody (i : Issue) (s : Sys) : Sys :=
  if i.act = [] then s
  else
    let needs := s.fenceNeeds i.blk.part
    (s.onFab (fun f => { f with
      nextUid := f.nextUid + 1
      fences := f.fences ++ [⟨f.nextUid, i.blk.part, i.grp.gid, i.blk.id, leadReg i i.inst.d, i.blk.ring, i.blk.cmd, false, needs⟩] })).fencesDone
def runFabFence (g : Gid) : Dev → Dev :=
  issueCs 0x96 g fabFenceReady fenceBad (fun i => liftSys (fabFenceBody i))

/-! ## COPY operation 3 (R621) -/

/-- COPY_FABRIC: the descriptor is read and checked; its operation completes the command. -/
def copyFabric (r idx : Nat) (d : Dev) : Dev :=
  match d.sys.startedCmd r idx 2 3 with
  | none => d
  | some c =>
    let p := d.sys.ringPart r
    let a := field c.bytes 24 8
    let y := d.readRange p a 64
    match y.poison with
    | some at_ => liftSys (fun s => s.poisonKill r idx at_) y.dev
    | none =>
      let d := liftSys (fun s => s.begin r c.uid) y.dev
      let x := FabD.of y.data
      let rangeOk := match x.range with
        | none => true
        | some (n, w) => x.aligned && d.rangeOk p x.loc n w
      if d.sys.fabWf p x.kind y.data && x.shofel && rangeOk then
        let read := fun a n => if (d.poisonIn p a n).isSome then [] else d.peek p a n
        liftSys (fun s => s.enterOp { FabOp.blank with owner := 1, part := p, descAddr := a, ring := r, idx := idx, uid := c.uid } x read) d
      else liftSys (fun s => (if rangeOk then s else s.transFault p).completeUid r c.uid 1 0) d
def execCopyFabric (ring idx : Nat) := onRings (copyFabric ring idx)

end Sys2Proof.Machine
end

