-- ==== Sys2Proof/Machine/Router.lean ====
section
/-! DEFINITION. The fabric router (R441, R489 to R491, R493 to R495, R508, R513, R514, R578): the choice of an injected packet,
the building of packets at their source, routing, combining, and the return of packets from withdrawn ports. -/

namespace Sys2Proof.Machine

open Sys2Proof

/-! ## Deficit round robin (R451, R578) -/

/-- The class served next among `n`, with the deficits after the choice: `size` gives the flits at the head of a class (none where
it has no eligible packet), `quantum` a class's share. A class keeps its turn while its deficit lasts, and loses what is left
when it has no packet. -/
def drr (n : Nat) (size : Nat → Option Nat) (quantum : Nat → Nat) : Nat → Nat → List Nat → Option (Nat × List Nat)
  | 0, _, _ => none
  | fuel + 1, at_, ds =>
    let next := (at_ + 1) % n
    match size at_ with
    | some k =>
      if k ≤ nth ds at_ then some (at_, modNth ds at_ (fun x => x - k))
      else drr n size quantum fuel next (modNth ds next (fun x => x + quantum next))
    | none => drr n size quantum fuel next (modNth (setNth ds at_ 0) next (fun x => x + quantum next))

/-! ## Packets at their source (R475, R480, R490, R491) -/

/-- An operation whose local source is poisoned sends nothing more and never completes (R475, Table 9-2). -/
def Sys.sourcePoison (s : Sys) (o : FabOp) (r : FabReq) (at_ : Nat × Nat) : Sys :=
  let s := s.onFab (fun f => { f with
    reqs := f.reqs.map (fun x => if x.uid == r.uid then { x with phase := 3 } else x)
    queue := f.queue.filter (fun u => u != r.uid) })
  if o.owner = 0 then s.killContext o.part o.ring 0x0106 o.gid.core (coreDetail o.gid o.ring o.idx o.pc 0)
  else s.poisonKill o.ring o.idx at_

/-- A request goes out with its payload. -/
def Sys.transmit (s : Sys) (r : FabReq) (flagR : Bool) (pay : List Byte) : Sys :=
  let pkt := { r.pkt with payload := pay, flags := r.pkt.flags / 2 * 2 + (if flagR then 1 else 0) }
  (s.onFab (fun f => { f with
    reqs := f.reqs.map (fun x => if x.uid == r.uid then { x with phase := 1, gen := f.routeGen } else x)
    queue := f.queue.filter (fun u => u != r.uid) })).inject pkt r.vc

/-- Whether a request carries bytes of its source. -/
def carries (p : Pkt) : Bool := (p.kind == kPut || p.kind == kMput || p.kind == kRed) && p.len != 0 && p.payload == []

/-- Send a request, its source bytes read now: each may still have the value it had when the operation was issued (R475). The
bytes of a context that is gone are those of the issue. -/
def Dev.sendReq (d : Dev) (r : FabReq) (flagR : Bool) : Dev :=
  if carries r.pkt = false then liftSys (fun s => s.transmit r flagR r.pkt.payload) d
  else
    let blend (now : List Byte) (s : Sys) : Sys :=
      if r.snap.length = now.length then (s.transmit r flagR (mixBytes s.freeCtr r.snap now)).drew now.length
      else s.transmit r flagR now
    match d.sys.op? r.op with
    | none => liftSys (fun s => s.transmit r flagR r.snap) d
    | some o =>
      if o.localShofel then
        let x := d.readRange r.part r.addr r.pkt.len
        match x.poison with
        | some at_ => liftSys (fun s => s.sourcePoison o r at_) x.dev
        | none => liftSys (blend x.data) x.dev
      else liftSys (fun s => blend (s.csRead o.block r.addr r.pkt.len) s) d

/-! ## The choice of the next injected packet (R481, R483, R578) -/

def Sys.req? (s : Sys) (uid : Nat) : Option FabReq := s.fab.reqs.find? (fun r => r.uid == uid)

/-- The sequenced packets of a stream sent and not acknowledged. -/
def Sys.sentUnacked (s : Sys) (part key : Nat) : Nat :=
  (s.fab.reqs.filter (fun x => x.part == part && sequenced x.pkt.kind && x.phase != 0 && streamKey x.pkt == key)).length
/-- The streams of a partition with unacknowledged packets sent. -/
def Sys.sentStreams (s : Sys) (part : Nat) : List Nat :=
  ((s.fab.reqs.filter (fun x => x.part == part && sequenced x.pkt.kind && x.phase != 0)).map (fun x => streamKey x.pkt)).dedup

/-- Whether the head packet of a partition's queue may leave it. -/
def Sys.mayLeave (s : Sys) (r : FabReq) : Bool :=
  let before := s.fab.reqs.filter (fun x => x.part == r.part && decide (x.uid < r.uid))
  let key := streamKey r.pkt
  !before.any (fun x => x.pkt.kind == kFlag && x.phase == 0)
    && (r.pkt.kind != kFlag || !before.any (fun x => sequenced x.pkt.kind))
    && (!sequenced r.pkt.kind ||
      (decide (s.sentUnacked r.part key < 2048) && ((s.sentStreams r.part).contains key || decide ((s.sentStreams r.part).length < 1024))))
    && !s.resetting r.part
    && (match s.op? r.op with
        | some o => !s.opDying o
        | none => false)

/-- The head of a partition's part of the request queue of a VC. -/
def Sys.injHead (s : Sys) (vc part : Nat) : Option FabReq :=
  (s.fab.queue.filterMap s.req?).find? (fun r => r.vc == vc && r.part == part)

/-- A partition's weight for a VC (Table 16-4). -/
def Sys.vcWeight (s : Sys) (part vc : Nat) : Nat := field (s.qos part) (4 + vc) 1

/-- The partition whose head packet of a VC goes next, with the deficits after it. -/
def Sys.injPick (s : Sys) (vc : Nat) : Option (Nat × List Nat) :=
  let size := fun p =>
    match s.injHead vc p with
    | some r => if s.mayLeave r then some (pktFlits { r.pkt with payload := zeros (if r.pkt.kind = kGet then 0 else r.pkt.len) }) else none
    | none => none
  drr 16 size (fun p => 18 * s.vcWeight p vc) 33 (NMap.get s.fab.injAt vc) ((List.range 16).map (fun p => NMap.get s.fab.injDeficit (vc * 16 + p)))

/-! ## Withdrawn ports (R489, R495) -/

/-- A request returns to its source; a reply is discarded and counted. -/
def Sys.pathFailed (s : Sys) (p : Pkt) : Sys :=
  if isReply p then s.onFab (fun f => { f with ccounts := addAt f.ccounts 2 1 }) else s.inject (replyTo p kNak 4 []) 1

/-! ## Combining (R493, R494) -/

/-- Requests that may combine: gets, integer atomics but exch and cas, floating-point adds with ORDER_FREE; never an atomic resent
with R set, whose replay slot must answer it (R492; DEDUCED, log entry 25). -/
def combinable (p : Pkt) : Bool :=
  p.kind == kGet ||
    (p.kind == kAtom && !bit p.flags 0 && decide (p.op ≤ 5) && (decide (p.ty < 3) || bit p.flags 1 || p.op == 1 || p.op == 2))

/-- A constituent's entry in a COMBINED payload. A get's operand holds its length, and operation 15 marks a COMBINED of gets
(log entry 25). -/
def constituent (p : Pkt) : List Byte :=
  natLe 4 (p.src + p.part * 2 ^ 17) ++ natLe 4 p.seq ++ (if p.kind = kGet then natLe 8 p.len else (p.payload ++ zeros 8).take 8)
def combOp (p : Pkt) : Nat := if p.kind = kGet then 15 else p.op

/-- The request `w` waiting in an output queue can take `p` in. -/
def Sys.canJoin (s : Sys) (p : Pkt) (vc : Nat) (w : TxPkt) : Bool :=
  let q := w.pkt
  let same := q.dst == p.dst && q.window == p.window && q.key == p.key && q.offset == p.offset && w.vc == vc
  if w.hello != [] then false
  else if q.kind = kCombined then
    same && q.src == s.fid && q.op == combOp p && q.ty == p.ty && decide (q.payload.length < 128)
      && s.fab.combined.any (fun c => c.seq == q.seq && c.items.all (fun x => x.kind == p.kind && x.len == p.len && (p.ty < 3 || bit x.flags 1 == bit p.flags 1)))
  else
    same && combinable q && q.kind == p.kind && q.op == p.op && q.ty == p.ty && q.len == p.len && (decide (p.ty < 3) || bit q.flags 1 == bit p.flags 1)
      && decide (s.fab.combined.length < 256)

/-- `p` joins the waiting request at place `i` of a port's queue. -/
def Sys.join (s : Sys) (port i : Nat) (w : TxPkt) (p : Pkt) : Sys :=
  let f := s.fab
  let seq := if w.pkt.kind = kCombined then w.pkt.seq else f.combSeq
  let q : Pkt :=
    if w.pkt.kind = kCombined then { w.pkt with len := w.pkt.len + 16, payload := w.pkt.payload ++ constituent p }
    else ⟨kCombined, 8 + w.pkt.flags % 4 / 2 * 2, 0, combOp p, p.ty, p.dst, s.fid, 0, seq, p.key, p.window, 32, p.offset, constituent w.pkt ++ constituent p⟩
  s.onFab (fun f => { f with
    ports := modNth f.ports port (fun t => { t with txQ := setNth t.txQ i { w with pkt := q } })
    combined := if w.pkt.kind = kCombined then f.combined.map (fun c => if c.seq == seq then { c with items := c.items ++ [p] } else c)
      else f.combined ++ [⟨seq, [w.pkt, p]⟩]
    combSeq := if w.pkt.kind = kCombined then f.combSeq else (f.combSeq + 1) % 2 ^ 32
    ccounts := addAt f.ccounts (if p.kind = kGet then 0 else 1) 1 })

/-- The first request of a list that `p` can join, with its place. -/
def firstJoin (ok : TxPkt → Bool) : Nat → List TxPkt → Option (Nat × TxPkt)
  | _, [] => none
  | i, w :: t => if ok w then some (i, w) else firstJoin ok (i + 1) t

/-- A packet enters a port's output queue, or joins a waiting request that arrived at most 64 router cycles before, which the
model does not time. A COMBINED names its router by its fabric ID, so one without a valid ID forms none (R494, R508; DEDUCED,
log entry 25). -/
def Sys.toPort (s : Sys) (port : Nat) (x : RPkt) (lane : Nat) : Sys :=
  let put (s : Sys) : Sys :=
    s.onFab (fun f => { f with ports := modNth f.ports port (fun t => { t with txQ := t.txQ ++ [⟨x.pkt, x.vc, lane, x.origin, []⟩] }) })
  if s.cfgN 0x6505 1 = 1 ∧ combinable x.pkt = true ∧ s.fidValid = true then
    match firstJoin (s.canJoin x.pkt x.vc) 0 (s.fab.ports.getD port Port.reset).txQ with
    | none => put s
    | some (i, w) => if s.freeBool then (s.drew 1).join port i w x.pkt else put (s.drew 1)
  else put s

/-! ## Routing (R508, R513, R514) -/

def Sys.dirPorts (s : Sys) (d : Nat) : Nat := field (s.cfg 0x6300 4) (2 * d) 2
def Sys.routingMask (s : Sys) : Nat := s.cfgN 0x6300 5
def maskPorts (m : Nat) : List Nat := (List.range 16).filter (fun p => bit m p)
/-- The axis whose directions hold a port. -/
def Sys.portAxis (s : Sys) (port : Nat) : Option Nat :=
  ((List.range 6).find? (fun d => decide (port < 16) && bit (s.dirPorts d) port)).map (fun d => d / 2)
def Sys.unreachable (s : Sys) (dst : Nat) : Bool :=
  let l := s.cfg 0x6300 7
  (List.range (l.length / 4)).any (fun i => field l (4 * i) 4 == dst)
/-- The direction that the axis tables give for a destination. -/
def Sys.routeDir (s : Sys) (dst : Nat) : Option Nat :=
  ([(0, dst % 64), (1, dst / 64 % 64), (2, dst / 4096 % 32)].filterMap (fun x =>
    let e := field (s.cfg 0x6300 (x.1 + 1)) x.2 1
    if e = 0 then none else some (2 * x.1 + (e - 1)))).head?

/-- Bits [20:0] of the source field. -/
def sourceField (p : Pkt) : Nat := p.src + p.part * 2 ^ 17

def Sys.unrouted (s : Sys) : Sys := s.onFab (fun f => { f with unroutable := f.unroutable + 1 })

/-- The lane on which a packet leaves a port: 1 where the port is in the dateline mask (R514). -/
def Sys.datelane (s : Sys) (port lane : Nat) : Nat := if bit (s.cfgN 0x6300 6) port then 1 else lane

/-- A packet that takes the ports of its multicast tree: all but a PATH_FAILED NAK, which goes straight back to its source (R489). -/
def onTree (p : Pkt) : Bool := isMcast p && !(p.kind == kNak && p.status == 4)

/-- A packet arrived or injected takes its output. -/
def Sys.route (s : Sys) (x : RPkt) : Sys :=
  let p := x.pkt
  let mine := !onTree p && p.dst == s.fid
  if isReply p = false ∧ s.fidValid = false ∧ (x.origin = 16 ∨ mine = true) then s.unrouted
  else if onTree p || mine then s.onFab (fun f => { f with deliver := f.deliver ++ [x] })
  else if s.unreachable p.dst then s.unrouted
  else
    match s.routeDir p.dst with
    | none => s.unrouted
    | some dir =>
      let usable := maskPorts (s.dirPorts dir &&& s.routingMask)
      match usable[(sourceField p ^^^ p.dst) % usable.length]? with
      | none => s.pathFailed p
      | some port =>
        let lane := if s.portAxis x.origin = some (dir / 2) ∧ x.origin ≠ 16 then x.lane else 0
        s.toPort port x (s.datelane port lane)

/-- The flits of an arrived packet leave the receive buffer of their port, and their credits go back (R444). -/
def creditBack (ports : List Port) (x : RPkt) : List Port :=
  if x.origin < 16 then
    modNth ports x.origin (fun t => { t with returns := t.returns ++ [⟨x.vc, x.lane, x.pool, true, pktFlits x.pkt⟩] })
  else ports

/-- The router works: powered, and neither its control nor its clock stopped. -/
def Sys.routerUp (s : Sys) : Bool := decide (5 ≤ s.mgmt.bring.phase ∧ s.mgmt.bring.phase ≤ 8) && !s.unitStopped 0x13 0 && !s.unitStopped 0x1B 9

/-- The k-th packet at the router may leave its receive buffer: no earlier one of its link, VC and lane waits (R450), and an
UNACCEPTED port lets only VC11 in (R455). -/
def Sys.leavesBuffer (s : Sys) (k : Nat) (x : RPkt) : Bool :=
  x.origin == 16 ||
    ((x.vc == 11 || (s.fab.ports.getD x.origin Port.reset).state != 3)
      && !(s.fab.router.take k).any (fun y => y.origin == x.origin && y.vc == x.vc && y.lane == x.lane))

/-- PACKET_ROUTE: the k-th packet at the router, or past those the head of a VC's request queue that R578 chooses. -/
def packetRoute (k : Nat) (d : Dev) : Dev :=
  let f := d.sys.fab
  if d.sys.routerUp then
    match f.router[k]? with
    | some x =>
      if d.sys.leavesBuffer k x = false then d
      else liftSys (fun s => (s.onFab (fun f => { f with router := dropNth f.router k, ports := creditBack f.ports x })).route x) d
    | none =>
      match (f.queue[k - f.router.length]?).bind d.sys.req? with
      | none => d
      | some r =>
        match d.sys.injPick r.vc with
        | none => d
        | some (p, ds) =>
          if p = r.part ∧ (d.sys.injHead r.vc p).map FabReq.uid = some r.uid then
            let d := liftSys (fun s => (s.onFab (fun f => { f with
              injAt := NMap.set f.injAt r.vc p
              injDeficit := runAll (fun q m => NMap.set m (r.vc * 16 + q) (nth ds q)) (List.range 16) f.injDeficit })).onPart p
                (fun q => { q with flits := q.flits + pktFlits { r.pkt with payload := zeros (if r.pkt.kind = kGet then 0 else r.pkt.len) } })) d
            d.sendReq r false
          else d
  else d
def execPacketRoute (k : Nat) := onRings (packetRoute k)

/-! ## Answers on a multicast tree (R496) -/

def MputRec.same (m : MputRec) (src part seq group : Nat) : Bool :=
  m.pkt.src == src && m.pkt.part == part && m.pkt.seq == seq && m.pkt.dst == group

def Sys.dropMput (s : Sys) (src part seq group : Nat) : Sys :=
  s.onFab (fun f => { f with mputs := f.mputs.filter (fun x => !x.same src part seq group) })

/-- Every branch has answered: one ACK goes back on the arrival port, on that port's lane, or to the source here. -/
def Sys.mputEnd (s : Sys) (m : MputRec) : Sys :=
  let s := s.dropMput m.pkt.src m.pkt.part m.pkt.seq m.pkt.dst
  let r := replyTo m.pkt kAck m.status []
  if m.origin = 16 then s.inject r 1
  else if bit s.routingMask m.origin then s.toPort m.origin ⟨r, 1, 0, 16, false⟩ (s.datelane m.origin 0)
  else s.pathFailed r

/-- A branch answers with a status. -/
def Sys.mputAnswer (s : Sys) (m : MputRec) (port status : Nat) : Sys :=
  let m2 := { m with ports := m.ports.filter (fun q => q != port), status := max m.status status }
  let s := s.onFab (fun f => { f with mputs := f.mputs.map (fun x => if x.same m.pkt.src m.pkt.part m.pkt.seq m.pkt.dst then m2 else x) })
  if m2.ports = [] then s.mputEnd m2 else s

def Sys.mput? (s : Sys) (src part seq group : Nat) : Option MputRec := s.fab.mputs.find? (fun m => m.same src part seq group)

/-! ## A commit of the routing group (R489 to R491, R516) -/

/-- Packets that wait for ports withdrawn from routing return or are discarded. -/
def Sys.withdraw (s : Sys) : Sys :=
  runAll (fun port s =>
    if bit s.routingMask port then s
    else
      let t := s.fab.ports.getD port Port.reset
      let s := s.onFab (fun f => { f with ports := modNth f.ports port (fun t => { t with txQ := t.txQ.filter (fun w => w.hello != []) }) })
      runAll (fun (w : TxPkt) s =>
        if w.hello != [] then s
        else if isMcast w.pkt && !isReply w.pkt then
          match s.mput? w.pkt.src w.pkt.part w.pkt.seq w.pkt.dst with
          | some _ => (s.dropMput w.pkt.src w.pkt.part w.pkt.seq w.pkt.dst).pathFailed w.pkt
          | none => s
        else s.pathFailed w.pkt) t.txQ s) (List.range 16) s

/-- A request is sent again and counted, unless its operation has timed out, which Yarys never retries (R500). -/
def Dev.resendReq (d : Dev) (r : FabReq) (flagR : Bool) : Dev :=
  if (d.sys.op? r.op).any FabOp.timedOut then d
  else
    let d := d.sendReq r flagR
    if (d.sys.req? r.uid).any (fun x => x.phase == 1) then liftSys (fun s => s.pcount r.part 2) d else d

/-- The route generation rises, and requests that wait after PATH_FAILED are resent at once with R clear. -/
def Dev.routesChanged (d : Dev) : Dev :=
  let d := liftSys (fun s => (s.onFab (fun f => { f with routeGen := (f.routeGen + 1) % 2 ^ 32 })).withdraw) d
  runAll (fun r d => d.resendReq r false) (d.sys.fab.reqs.filter (fun r => r.phase == 2)) d

/-- RESEND_DELAY_EXPIRY: the k-th request unanswered is sent again after a PATH_FAILED, or because it was sent under an earlier
generation (R490, R491). -/
def resendDelay (k : Nat) (d : Dev) : Dev :=
  match d.sys.fab.reqs[k]? with
  | none => d
  | some r =>
    if d.sys.routerUp && !d.sys.resetting r.part then
      if r.phase = 2 then d.resendReq r false
      else if r.phase = 1 ∧ r.gen < d.sys.fab.routeGen then d.resendReq r true
      else d
    else d
def execResendDelayExpiry (k : Nat) := onRings (resendDelay k)

/-- FABRIC_TIMEOUT: event 0x0305 once, with the oldest unacknowledged packet of the operation (R499). -/
def fabricTimeout (op : Nat) (s : Sys) : Sys :=
  match s.op? op with
  | none => s
  | some o =>
    if o.timedOut || !s.ready || s.resetting o.part then s
    else
      match s.fab.reqs.find? (fun r => r.op == op) with
      | none => s
      | some r =>
        ((s.onOp op (fun x => { x with timedOut := true })).pcount o.part 4).raise o.part 0x0305 o.source
          (natLe 1 6 ++ zeros 3 ++ natLe 4 r.pkt.dst ++ natLe 2 r.pkt.window ++ zeros 2 ++ natLe 4 r.pkt.seq)
def execFabricTimeout (op : Nat) := onSys (fabricTimeout op)

end Sys2Proof.Machine
end

