-- ==== Sys2Proof/Machine/FabTarget.lean ====
section
/-! DEFINITION. Requests at their target (13_fabric_operations.md, R480 to R488, R494, R496, R498; R358 to R360): the checks of
Table 13-6, the replay table, and the execution of each kind. -/

namespace Sys2Proof.Machine

open Sys2Proof

/-! ## Arrival -/

/-- A packet's fields lie in their domains and its payload has its length (Tables 13-4 and 13-5). -/
def pktWf (p : Pkt) : Bool :=
  decide (p.src < 2 ^ 17 ∧ p.dst < 2 ^ 17 ∧ p.part < 16 ∧ p.seq < 2 ^ 32 ∧ p.key < 2 ^ 32 ∧ p.window < 4096 ∧ p.len ≤ 4096
      ∧ p.offset < 2 ^ 40 ∧ p.flags < 32 ∧ p.status < 256 ∧ p.op < 16 ∧ p.ty < 8)
    && (if p.kind = kGet then p.payload == [] else p.payload.length == p.len)
    && (if p.kind = kMput then isMcast p else !isMcast p || isReply p)
    && (if p.kind = kRed then decide (p.op ≤ 2 ∧ p.ty < 5) && p.len % elemBytes p.ty == 0 && p.offset % elemBytes p.ty == 0
        else if p.kind = kAtom then atomPermitted p.op p.ty && p.len == 16 && p.offset % elemBytes p.ty == 0
        else if p.kind = kFlag then p.len == 8
        else if p.kind = kCtrl then p.len == 32
        else if p.kind = kCombined then decide (32 ≤ p.len ∧ p.len ≤ 128) && p.len % 16 == 0
          && (p.op == 15 || (atomPermitted p.op p.ty && p.offset % elemBytes p.ty == 0))
        else if p.kind = kResult then p.len == 8
        else if p.kind = kAck ∨ p.kind = kNak then p.len == 0
        else p.kind == kGet || p.kind == kPut || p.kind == kMput || p.kind == kData)

/-- The packet a command names, when it is the first of its VC in the fabric delivery queue (R28, R29; log entry 26). -/
def Sys.arrive (s : Sys) (p : Pkt) (kind : Nat) : Option (RPkt × Sys) :=
  if s.ready && s.routerUp && pktWf p && p.kind == kind then
    match s.fab.deliver.find? (fun x => x.pkt == p) with
    | some x =>
      if (s.fab.deliver.filter (fun y => y.vc == x.vc)).head? = some x then
        some (x, s.onFab (fun f => { f with deliver := f.deliver.erase x }))
      else none
    | none => none
  else none

/-! ## Windows (Table 13-1, Table 13-6 steps 1 to 3) -/

def Sys.window (s : Sys) (w : Nat) : Window := assoc s.fab.windows w Window.invalid

/-- The status that steps 1 to 3 give, 0 where they pass; `n` bytes, `perm` the permission bit, `write` the access. -/
def Dev.windowCheck (d : Dev) (p : Pkt) (n perm : Nat) (write : Bool) : Nat × Dev :=
  let w := d.sys.window p.window
  if w.state = 2 ∨ (w.state = 1 ∧ d.sys.resetting w.part = true) then (3, d)
  else if w.state = 0 ∨ w.key ≠ p.key ∨ p.offset + n > w.size ∨ bit w.perms perm = false then
    (2, liftSys (fun s => s.pcount w.part 5) d)
  else if d.rangeOk w.part (w.base + p.offset) n write = false then
    (2, liftSys (fun s => (s.pcount w.part 5).transFault w.part) d)
  else (0, d)

/-! ## The replay table (R484 to R487) -/

/-- What the replay directory says of a request: it executes, it has a recorded reply, its outcome is unknown, or its first copy
is still with the executor. -/
inductive Replay where
  | fresh (s : Sys)
  | recorded (status value : Nat) (s : Sys)
  | unknown (s : Sys)
  | busy

/-- A stream's group in the directory: 0 for a unicast stream (R498). -/
def groupKey (p : Pkt) : Nat := if isMcast p then p.dst + 1 else 0
def ReplayRec.isFor (r : ReplayRec) (src part group : Nat) : Bool := r.src == src && r.srcPart == part && r.group == group
def Sys.onReplay (s : Sys) (q : Nat) (g : ReplayDir → ReplayDir) : Sys := s.onFab (fun f => { f with replay := modNth f.replay q g })

def Sys.replayOf (s : Sys) (q : Nat) (p : Pkt) : Replay :=
  let dir := s.fab.replay.getD q ⟨0, 0, []⟩
  let g := groupKey p
  match dir.recs.find? (fun r => r.isFor p.src p.part g) with
  | some r =>
    let s := s.onReplay q (fun d => { d with recs := r :: d.recs.filter (fun x => !x.isFor p.src p.part g) })
    match r.slots.find? (fun x => x.slot == p.seq % 4096) with
    | none => .fresh s
    | some x =>
      if x.seq = p.seq then (if x.status = 255 then .busy else .recorded x.status x.value (s.pcount q 6))
      else if (x.seq + 2 ^ 32 - p.seq) % 2 ^ 32 < 2 ^ 31 then .unknown s
      else .fresh s
  | none =>
    if bit p.flags 0 then .unknown s
    else if dir.records = 0 then .fresh s
    else
      let full := decide (dir.recs.length ≥ dir.records)
      let s := if full then s.pcount q 7 else s
      .fresh (s.onReplay q (fun d => { d with recs := ⟨p.src, p.part, g, []⟩ :: (if full then d.recs.dropLast else d.recs) }))

/-- Write the slot of a sequence in its stream's record, where it has one. -/
def Sys.recordSlot (s : Sys) (q src part group seq status value : Nat) : Sys :=
  s.onReplay q (fun d => { d with recs := d.recs.map (fun r =>
    if r.isFor src part group then
      { r with slots := ⟨seq % 4096, seq, status, value⟩ :: r.slots.filter (fun x => x.slot != seq % 4096) }
    else r) })
def Sys.recordReply (s : Sys) (q : Nat) (p : Pkt) (status value : Nat) : Sys :=
  s.recordSlot q p.src p.part (groupKey p) p.seq status value

/-- An executor drops an operation: its slot is empty again, and a resend executes (R485). -/
def Sys.unmark (s : Sys) (q src part group seq : Nat) : Sys :=
  s.onReplay q (fun d => { d with recs := d.recs.map (fun r =>
    if r.isFor src part group then { r with slots := r.slots.filter (fun x => !(x.seq == seq && x.status == 255)) } else r) })

/-- The reply to a request with a status and an old value (Table 13-6, Table 13-7). -/
def Sys.reply (s : Sys) (p : Pkt) (status value : Nat) : Sys :=
  if p.kind = kAtom ∧ (status = 5 ∨ (status = 0 ∧ bit p.flags 4 = false)) then s.inject (replyTo p kResult status (natLe 8 value)) 1
  else s.inject (replyTo p (if status = 0 then kAck else kNak) status []) 1

/-! ## Execution -/

/-- The constituents of a COMBINED payload: source fabric ID, source partition, sequence, operand. -/
def constituents (b : List Byte) : List (Nat × Nat × Nat × Nat) :=
  (List.range (b.length / 16)).map (fun i =>
    let w := field b (16 * i) 4
    (w % 2 ^ 17, w / 2 ^ 17 % 16, field b (16 * i + 4) 4, field b (16 * i + 8) 8))

/-- The slots of an operation that the executor of its stack dropped. -/
def Sys.unmarkOp (s : Sys) (o : ExecOp) : Sys :=
  if o.pkt.kind = kCombined then
    runAll (fun (k : Nat × Nat × Nat × Nat) s => s.unmark o.part k.1 k.2.1 0 k.2.2.1) (constituents o.pkt.payload) s
  else s.unmark o.part o.pkt.src o.pkt.part (groupKey o.pkt) o.pkt.seq

/-- Event 0x0204 to the partition that maps a poisoned line; the operation has no reply (Table 9-2). -/
def Dev.remotePoison (d : Dev) (at_ : Nat × Nat) (p : Pkt) : Dev :=
  let q := d.ownerOf at_.1 at_.2
  if q < 16 then liftSys (fun s => s.raise q 0x0204 at_.1 (natLe 8 (at_.2 * 64) ++ natLe 4 p.src)) d else d

/-- A PUT, an MPUT's local delivery or a FLAG: its status and the device after it; none while a stack it needs accepts no
work or its first copy has not ended. -/
def Dev.store (d : Dev) (p : Pkt) (perm : Nat) : Option (Nat × Dev) :=
  let w := d.sys.window p.window
  let c := d.windowCheck p p.len perm true
  if c.1 ≠ 0 then some c
  else
    match c.2.sys.replayOf w.part p with
    | .busy => none
    | .unknown s => some (5, { c.2 with sys := s })
    | .recorded st _ s => some (st, { c.2 with sys := s })
    | .fresh s =>
      if d.rangeUp w.part (w.base + p.offset) p.len then
        let d := Dev.writeRange { c.2 with sys := s } w.part (w.base + p.offset) p.payload
        some (0, liftSys (fun s => s.recordReply w.part p 0 0) d)
      else none

/-- Whether a PUT is a collective segment (R545). -/
def Sys.isSegment (s : Sys) (x : RPkt) : Bool :=
  x.pkt.kind == kPut && decide (3 ≤ x.vc ∧ x.vc ≤ 10) && s.slotOn (x.vc - 3) && field (s.slotRec (x.vc - 3)) 32 2 == x.pkt.window

def storeRow (p : Pkt) (kind perm : Nat) (d : Dev) : Dev :=
  match d.sys.arrive p kind with
  | none => d
  | some (x, s) =>
    if s.isSegment x then d
    else
      match Dev.store { d with sys := s } p perm with
      | none => d
      | some (st, d) => liftSys (fun s => s.reply p st 0) d
def execPutPacket (p : Pkt) := onDev (storeRow p kPut 1)
def execFlagPacket (p : Pkt) := onDev (storeRow p kFlag 1)

/-- GET_PACKET. -/
def getPacket (p : Pkt) (d : Dev) : Dev :=
  match d.sys.arrive p kGet with
  | none => d
  | some (_, s) =>
    let w := s.window p.window
    let c := Dev.windowCheck { d with sys := s } p p.len 0 false
    if c.1 ≠ 0 then liftSys (fun s => s.reply p c.1 0) c.2
    else if d.rangeUp w.part (w.base + p.offset) p.len then
      let x := c.2.readRange w.part (w.base + p.offset) p.len
      match x.poison with
      | some at_ => x.dev.remotePoison at_ p
      | none => liftSys (fun s => s.inject (replyTo p kData 0 x.data) 1) x.dev
    else d
def execGetPacket (p : Pkt) := onDev (getPacket p)

/-- A checked operation joins the executor of the stack of its first line (R345; log entry 27). -/
def Dev.toExecutor (d : Dev) (p : Pkt) (part base : Nat) : Dev :=
  let st := (d.locate part (base + p.offset)).1
  liftSys (fun s => s.onHost (fun h => { h with execQ := modNth h.execQ st (fun q => q ++ [⟨p, part, base⟩]) })) d

/-- RED_PACKET and ATOM_PACKET. A zero-length reduction is answered at once (R472). -/
def executorRow (p : Pkt) (kind n perm : Nat) (d : Dev) : Dev :=
  match d.sys.arrive p kind with
  | none => d
  | some (_, s) =>
    let w := s.window p.window
    let c := Dev.windowCheck { d with sys := s } p n perm true
    if c.1 ≠ 0 then liftSys (fun s => s.reply p c.1 0) c.2
    else
      match c.2.sys.replayOf w.part p with
      | .busy => d
      | .unknown s => liftSys (fun s => s.reply p 5 0) { c.2 with sys := s }
      | .recorded st v s => liftSys (fun s => s.reply p st v) { c.2 with sys := s }
      | .fresh s =>
        if n = 0 then liftSys (fun s => (s.recordReply w.part p 0 0).reply p 0 0) { c.2 with sys := s }
        else Dev.toExecutor { c.2 with sys := s.recordReply w.part p 255 0 } p w.part w.base
def execRedPacket (p : Pkt) := onDev (executorRow p kRed p.len 3)
def execAtomPacket (p : Pkt) := onDev (executorRow p kAtom (elemBytes p.ty) 4)

/-! ## COMBINED (R494) -/

/-- COMBINED_PACKET: checked once under steps 1 to 3; gets are answered with their data, atomics go to the executor with a
record for each constituent's stream. -/
def combinedPacket (p : Pkt) (d : Dev) : Dev :=
  match d.sys.arrive p kCombined with
  | none => d
  | some (_, s) =>
    let w := s.window p.window
    let cs := constituents p.payload
    let gets := p.op == 15
    let n := if gets then (match cs with
      | c :: _ => min c.2.2.2 4096
      | [] => 0) else elemBytes p.ty
    let c := Dev.windowCheck { d with sys := s } p n (if gets then 0 else 4) (!gets)
    if c.1 ≠ 0 then liftSys (fun s => s.reply p c.1 0) c.2
    else if gets then
      if d.rangeUp w.part (w.base + p.offset) n then
        let x := c.2.readRange w.part (w.base + p.offset) n
        match x.poison with
        | some at_ => x.dev.remotePoison at_ p
        | none => liftSys (fun s => s.inject (replyTo p kData 0 x.data) 1) x.dev
      else d
    else
      let d := liftSys (fun s => runAll (fun (k : Nat × Nat × Nat × Nat) s =>
        let q : Pkt := { p with src := k.1, part := k.2.1, seq := k.2.2.1, flags := 0 }
        match s.replayOf w.part q with
        | .fresh s => s.recordReply w.part q 255 0
        | .unknown s => s.recordReply w.part q 255 0
        | .recorded _ _ s => s.recordReply w.part q 255 0
        | .busy => s) cs s) c.2
      d.toExecutor p w.part w.base
def execCombinedPacket (p : Pkt) := onDev (combinedPacket p)

/-! ## The target-side executor (R358 to R360) -/

/-- The bytes that a reduction or atomic leaves over the old ones. -/
def execNew (p : Pkt) (old : List Byte) : List Byte :=
  let k := elemBytes p.ty
  if p.kind = kRed then
    (List.range (p.len / k)).flatMap (fun i => natLe k (atomNew p.op p.ty (field old (k * i) k) (field p.payload (k * i) k) 0))
  else if p.kind = kAtom then
    natLe k (atomNew p.op p.ty (leNat old) (field p.payload 0 k) (field p.payload 8 k))
  else
    match constituents p.payload with
    | [] => old
    | c :: t =>
      let total := t.foldl (fun a x => atomNew p.op p.ty a (x.2.2.2 % 2 ^ (8 * k)) 0) (c.2.2.2 % 2 ^ (8 * k))
      natLe k (atomNew p.op p.ty (leNat old) total 0)

/-- The old values that constituents applied one after another would have found. -/
def seqOld (op ty : Nat) : Nat → List (Nat × Nat × Nat × Nat) → List (Nat × Nat × Nat × Nat)
  | _, [] => []
  | old, c :: t =>
    (c.1, c.2.1, c.2.2.1, old) :: seqOld op ty (atomNew op ty old (c.2.2.2 % 2 ^ (8 * elemBytes ty)) 0) t

/-- The operation at the head of a stack's executor is applied and answered. A poisoned line discards it with no reply
(Table 9-2). -/
def targetExec (st : Nat) (atom : Bool) (d : Dev) : Dev :=
  match d.sys.host.execQ.getD st [] with
  | [] => d
  | o :: rest =>
    let p := o.pkt
    let n := if p.kind = kRed then p.len else elemBytes p.ty
    if (p.kind == kRed) != atom && d.sys.ready && d.sys.kettleRuns st && d.rangeUp o.part (o.base + p.offset) n then
      let d := liftSys (fun s => s.onHost (fun h => { h with execQ := setNth h.execQ st rest })) d
      let x := d.kettleRead o.part (o.base + p.offset) n
      match x.poison with
      | some at_ => (liftSys (fun s => s.unmarkOp o) x.dev).remotePoison at_ p
      | none =>
        let old := leNat (x.data.take (elemBytes p.ty))
        let d := x.dev.kettleWrite o.part (o.base + p.offset) (execNew p x.data)
        liftSys (fun s =>
          let s := (s.charge o.part n).onHost (fun h => { h with kCounts := modNth h.kCounts 3 (fun c => addAt c st 1) })
          if p.kind = kCombined then
            let s := runAll (fun (k : Nat × Nat × Nat × Nat) s => s.recordSlot o.part k.1 k.2.1 0 k.2.2.1 0 k.2.2.2)
              (seqOld p.op p.ty old (constituents p.payload)) s
            s.inject (replyTo p kResult 0 (natLe 8 old)) 1
          else (s.recordReply o.part p 0 (if p.kind = kAtom then old else 0)).reply p 0 old) d
    else d
def execTargetRed (stack : Nat) := onDev (targetExec stack false)
def execTargetAtom (stack : Nat) := onDev (targetExec stack true)

/-! ## Multicast stores (R496, R498) -/

def Sys.mcast (s : Sys) (group : Nat) : Nat := NMap.get s.fab.multicast group

/-- MPUT_PACKET: forwarded to every other port of its tree, delivered here when the local bit is set, and answered when every
branch has answered. One that must leave over a withdrawn port returns whole to its source (R489). A device without a valid ID
discards its own copy (R508), which then never acknowledges. A group with no valid entry discards the packet (log entry 28). -/
def mputPacket (p : Pkt) (d : Dev) : Dev :=
  match d.sys.arrive p kMput with
  | none => d
  | some (x, s) =>
    let e := s.mcast p.dst
    let outs := (maskPorts (e % 2 ^ 16)).filter (fun q => q != x.origin)
    if bit e 17 = false then { d with sys := s.unrouted }
    else if outs.any (fun q => !bit s.routingMask q) then { d with sys := s.pathFailed p }
    else
      let d0 : Dev := { d with sys := s }
      let loc := if bit e 16 = false then some (0, [], d0)
        else if s.fidValid then (Dev.store d0 p 2).map (fun y => (y.1, [], y.2)) else some (0, [16], liftSys Sys.unrouted d0)
      match loc with
      | none => d
      | some (st, mute, d) =>
        liftSys (fun s =>
          let m : MputRec := ⟨p, x.origin, outs ++ mute, st⟩
          let s := (s.dropMput p.src p.part p.seq p.dst).onFab (fun f => { f with mputs := f.mputs ++ [m] })
          let s := runAll (fun q s =>
            let lane := if s.portAxis x.origin = s.portAxis q ∧ x.origin ≠ 16 then x.lane else 0
            s.toPort q ⟨p, x.vc, x.lane, x.origin, false⟩ (s.datelane q lane)) outs s
          if m.ports = [] then s.mputEnd m else s) d
def execMputPacket (p : Pkt) := onDev (mputPacket p)

/-! ## Control packets (R477, R478) -/

def ctrlRow (p : Pkt) (s : Sys) : Sys :=
  match s.arrive p kCtrl with
  | some (_, t) => if s.mgmtUp then ctrlPacket p t else s
  | none => s
def execCtrlPacket (p : Pkt) := onSys (ctrlRow p)

end Sys2Proof.Machine
end

