-- ==== Sys2Proof/Machine/FabReply.lean ====
section
/-! DEFINITION. Replies at the source (R472, R473, R490, R705), at a combining router (R495) and on a multicast tree (R496). -/

namespace Sys2Proof.Machine

open Sys2Proof

/-- The outstanding request that a reply answers; an operation that has timed out takes no more replies (R499, R500). -/
def Sys.answers (s : Sys) (p : Pkt) : Option FabReq :=
  s.fab.reqs.find? (fun r =>
    r.phase != 0 && !(s.op? r.op).any FabOp.timedOut && r.part == p.part && r.pkt.dst == p.src && isMcast r.pkt == isMcast p && r.pkt.seq == p.seq
      && r.pkt.offset == p.offset
      && (if p.kind = kData then r.pkt.kind == kGet
          else if p.kind = kResult then r.pkt.kind == kAtom
          else if p.kind = kAck then r.pkt.kind != kGet
          else true))

/-- A reply to a COMBINED packet of this device: its constituents each get their own (R495). -/
def Sys.comb? (s : Sys) (p : Pkt) : Option CombRec :=
  if bit p.flags 3 && p.dst == s.fid then s.fab.combined.find? (fun c => c.seq == p.seq) else none
def Sys.uncombine (s : Sys) (c : CombRec) (each : Pkt → Sys → Sys) : Sys :=
  runAll each c.items (s.onFab (fun f => { f with combined := f.combined.filter (fun x => x.seq != c.seq) }))

/-- A request is answered; the status word of a COPY operation that completes is written (R472, R473). -/
def Dev.answered (d : Dev) (r : FabReq) (status : Nat) : Dev :=
  let e := liftSys (fun s => s.answered r status) d
  match d.sys.op? r.op with
  | none => e
  | some o =>
    if o.owner = 1 ∧ o.left ≤ 1 ∧ e.rangeOk o.part (o.descAddr + 56) 4 true = true then
      e.writeRange o.part (o.descAddr + 56) (natLe 4 (max o.status status))
    else e

/-- Bytes of a get or an old value reach local memory. -/
def Dev.deliverLocal (d : Dev) (r : FabReq) (bs : List Byte) : Dev :=
  match d.sys.op? r.op with
  | none => d
  | some o =>
    if d.sys.opDying o then d
    else if o.localShofel then d.writeRange r.part r.addr bs
    else liftSys (fun s => s.csStore o.block r.addr bs) d

/-- The stacks that the local destination touches accept work. -/
def Dev.localUp (d : Dev) (r : FabReq) (n : Nat) : Bool :=
  match d.sys.op? r.op with
  | some o => !o.localShofel || d.rangeUp r.part r.addr n
  | none => true

/-- DATA_REPLY. -/
def dataReply (p : Pkt) (d : Dev) : Dev :=
  match d.sys.arrive p kData with
  | none => d
  | some (_, s) =>
    match s.comb? p with
    | some c => { d with sys := s.uncombine c (fun q s => s.inject (replyTo q kData 0 p.payload) 1) }
    | none =>
      match s.answers p with
      | none => { d with sys := s }
      | some r =>
        let bs := (p.payload ++ zeros r.pkt.len).take r.pkt.len
        if d.localUp r r.pkt.len then (Dev.deliverLocal { d with sys := s } r bs).answered r p.status else d
def execDataReply (p : Pkt) := onRings (dataReply p)

/-- RESULT_REPLY: the old value, of the operation's size, is written and the operation completes. -/
def resultReply (p : Pkt) (d : Dev) : Dev :=
  match d.sys.arrive p kResult with
  | none => d
  | some (_, s) =>
    match s.comb? p with
    | some c =>
      let ops := c.items.map (fun q => (q.src, q.part, q.seq, field q.payload 0 8))
      let olds := seqOld p.op p.ty (leNat p.payload) ops
      { d with sys := s.uncombine c (fun q s =>
          match olds.find? (fun o => o.1 == q.src && o.2.1 == q.part && o.2.2.1 == q.seq) with
          | some o => s.reply q p.status o.2.2.2
          | none => s) }
    | none =>
      match s.answers p with
      | none => { d with sys := s }
      | some r =>
        let k := elemBytes r.pkt.ty
        let d' : Dev := { d with sys := s }
        if bit r.pkt.flags 4 then d'.answered r p.status
        else if d.localUp r k then (d'.deliverLocal r (p.payload.take k)).answered r p.status
        else d
def execResultReply (p : Pkt) := onRings (resultReply p)

/-- A CTRL packet's answer names its control type in the echoed offset. -/
def Sys.ctrl? (s : Sys) (p : Pkt) : Option CtrlOut :=
  s.fab.ctrlOut.find? (fun c => c.dest == p.src && c.seq == p.seq && c.ctype == p.offset % 256)
def isCtrlReply (p : Pkt) : Bool := decide (1 ≤ p.offset ∧ p.offset ≤ 3)

/-- The branch of an MPUT in progress here that an answer on a tree port comes from (R496). -/
def Sys.branch? (s : Sys) (x : RPkt) : Option (MputRec × Nat) :=
  let p := x.pkt
  (s.mput? p.dst p.part p.seq p.src).bind (fun m => if m.ports.contains x.origin then some (m, x.origin) else none)

/-- An answer on a tree port counts for its branch once, and never for the whole operation. -/
def Sys.branchAnswer (s : Sys) (x : RPkt) : Sys :=
  match s.branch? x with
  | some (m, port) => s.mputAnswer m port x.pkt.status
  | none => s

/-- ACK_REPLY. -/
def ackReply (p : Pkt) (d : Dev) : Dev :=
  match d.sys.arrive p kAck with
  | none => d
  | some (x, s) =>
    if onTree p && x.origin != 16 then { d with sys := s.branchAnswer x }
    else if isCtrlReply p then
      match s.ctrl? p with
      | some c => { d with sys := s.onFab (fun f => { f with ctrlOut := f.ctrlOut.erase c }) }
      | none => { d with sys := s }
    else
      match s.answers p with
      | some r => Dev.answered { d with sys := s } r p.status
      | none => { d with sys := s }
def execAckReply (p : Pkt) := onRings (ackReply p)

/-- PATH_FAILED: the request waits to be sent again, its context gone or not (R490, Table 5-7); an MPUT's tree starts anew. -/
def Sys.waitResend (s : Sys) (p : Pkt) (r : FabReq) : Sys :=
  let s := if isMcast p then s.dropMput p.dst p.part p.seq p.src else s
  (s.pcount r.part 1).onFab (fun f => { f with reqs := f.reqs.map (fun y => if y.uid == r.uid then { y with phase := 2 } else y) })

/-- NAK_REPLY: PATH_FAILED leads to a resend; any other status acknowledges the sequence. A CTRL packet is resent by
CTRL_RESEND. -/
def nakReply (p : Pkt) (d : Dev) : Dev :=
  match d.sys.arrive p kNak with
  | none => d
  | some (x, s) =>
    if onTree p && x.origin != 16 then { d with sys := s.branchAnswer x }
    else
      match s.comb? p with
      | some c => { d with sys := s.uncombine c (fun q s => s.inject (replyTo q kNak p.status []) 1) }
      | none =>
        match (if isCtrlReply p then none else s.answers p) with
        | none => { d with sys := s }
        | some r => if p.status = 4 then { d with sys := s.waitResend p r } else Dev.answered { d with sys := s } r p.status
def execNakReply (p : Pkt) := onRings (nakReply p)

end Sys2Proof.Machine
end

