-- ==== Sys2Proof/Machine/Fec.lean ====
section
/-! DEFINITION. Flits as bytes (R430, Tables 12-4 to 12-6), their CRC-32C, and the coded stream of a port: pair markers and
RS(544,514) codewords dealt to the used wavelengths (R432, R433). The CRC's and the code's conventions that Yarys's own text leaves
to IEEE 802.3 are PRESUMED (log entry 112). -/

namespace Sys2Proof.Machine

open Sys2Proof

/-! ## Flits (Tables 12-4 to 12-6) -/

/-- One step of CRC-32C, least significant bit first. -/
def crcBit (c : Nat) : Nat := if c % 2 = 1 then (c / 2) ^^^ 0x82F63B78 else c / 2
def crcByte (c : Nat) (b : Byte) : Nat :=
  crcBit (crcBit (crcBit (crcBit (crcBit (crcBit (crcBit (crcBit (c ^^^ b.toNat))))))))
/-- CRC-32C: initial value and final inversion all ones. -/
def crc32c (b : List Byte) : Nat := b.foldl crcByte 0xFFFFFFFF ^^^ 0xFFFFFFFF

def bitN (b : Bool) : Nat := if b then 1 else 0
/-- A credit return field. -/
def creditWord (c : CreditRet) : Nat := c.vc % 16 + 16 * (c.lane % 2) + 32 * bitN c.pool + 64 * bitN c.valid + 128 * (c.flits % 512)

/-- The twelve header bytes; `reservedBits` lie at [7:4] of byte 1, [15:12] of 2, [15:14] of 4 and [15:0] of 10, in that order. -/
def flitHead (f : Flit) : List Byte :=
  let r := f.reservedBits
  natLe 1 (f.ty % 16 + 16 * (f.vc % 16))
    ++ natLe 1 (bitN f.sop + 2 * bitN f.eop + 4 * (f.lane % 2) + 8 * bitN f.pool + 16 * (r % 16))
    ++ natLe 2 (f.seq % 4096 + 4096 * (r / 16 % 16))
    ++ natLe 2 (f.ackSeq % 4096 + 4096 * bitN f.ackValid + 8192 * bitN f.nak + 16384 * (r / 256 % 4))
    ++ natLe 2 (creditWord f.credit0) ++ natLe 2 (creditWord f.credit1) ++ natLe 2 (r / 1024)
/-- The CRC a flit must carry. -/
def flitCrc (f : Flit) : Nat := crc32c (flitHead f ++ f.payload)
/-- The 256 bytes of a flit (Table 12-4). -/
def flitBytes (f : Flit) : List Byte := flitHead f ++ f.payload ++ natLe 4 (flitCrc f)

def noCredit : CreditRet := ⟨0, 0, false, false, 0⟩
def nullFlit : Flit := ⟨0, 0, false, false, 0, false, 0, 0, false, false, noCredit, noCredit, 0, zeros 240⟩

/-- The payload of a TRAIN flit (Table 12-6): the width is in force during VERIFY only. -/
def Port.trainPayload (t : Port) (port incarnation token : Nat) : List Byte :=
  natLe 4 incarnation ++ natLe 1 port ++ natLe 1 t.good ++ natLe 1 (if t.train = 5 then t.width else 0) ++ natLe 1 t.train
    ++ natLe 2 (if t.rxValid then (t.expSeq + 4095) % 4096 + 2 ^ 15 else 0) ++ natLe 2 token ++ natLe 2 t.echo ++ zeros 226

/-! ## RS(544,514) (R432) -/

/-- Multiplication in GF(2^10) by the root of x^10 + x^3 + 1. -/
def gfTwo (a : Nat) : Nat := if a < 512 then 2 * a else (2 * a) ^^^ 0x409
/-- Product in GF(2^10), over the bits of `b` from the lowest of `n`. -/
def gfMul : Nat → Nat → Nat → Nat
  | 0, _, _ => 0
  | n + 1, a, b => (if b % 2 = 1 then a else 0) ^^^ gfMul n (gfTwo a) (b / 2)
/-- (x + r) times a polynomial, highest coefficient first, its leading 1 left out. -/
def polyStep (r : Nat) (p : List Nat) : List Nat :=
  List.zipWith (fun a b => a ^^^ gfMul 10 r b) (p ++ [0]) (1 :: p)
/-- The coefficients of the generator, the product of (x + α^j) for j from 0 to 29, below its leading 1. -/
def rsGenerator : List Nat :=
  ((List.range 30).foldl (fun (x : Nat × List Nat) _ => (gfTwo x.1, polyStep x.1 x.2)) (1, [])).2
/-- The 30 parity symbols of a message. -/
def rsParity (msg : List Nat) : List Nat :=
  msg.foldl (fun reg m =>
    let k := m ^^^ reg.headD 0
    List.zipWith (fun a g => a ^^^ gfMul 10 k g) (reg.drop 1 ++ [0]) rsGenerator) (rep0 30)
def rsEncode (msg : List Nat) : List Nat := msg ++ rsParity msg

/-- The 40-bit marker of a pair: the pattern, and the pair count above it (R433). -/
def pairMarker (count : Nat) : Nat := 0xA55A + 2 ^ 16 * (count % 2 ^ 24)
/-- The 1,028 message symbols of a pair: the marker and five flits, least significant bit first. -/
def pairMessage (count : Nat) (flits : List Flit) : List Nat :=
  let n := pairMarker count + 2 ^ 40 * leNat (flits.flatMap flitBytes)
  (List.range 1028).map (fun k => n / 2 ^ (10 * k) % 1024)
/-- The 1,088 coded symbols of a pair, codewords 0 and 1 in turn. -/
def codedPair (count : Nat) (flits : List Flit) : List Nat :=
  let m := pairMessage count flits
  (List.zipWith (fun a b => [a, b]) (rsEncode (m.take 514)) (rsEncode (m.drop 514))).flatten

/-- The coded symbols of the pair a port has completed, each with the wavelength it goes to: they are dealt in turn to the used
wavelengths in increasing index, on from where the pair before ended. -/
def Port.coded (t : Port) : List (Nat × Nat) :=
  let used := (List.range 8).filter (fun i => bit t.txMask i)
  if t.pair.length = 5 ∧ used ≠ [] then
    (codedPair t.pairCount t.pair).zipIdx.map (fun x => (nth used ((t.dealt + x.2) % used.length), x.1))
  else []

/-- A flit slot: its flit leaves and takes its place in the codeword pair being formed. -/
def Port.emit (t : Port) (f : Flit) : Port :=
  let t := { t with out := some f }
  if t.pair.length < 5 then { t with pair := t.pair ++ [f] }
  else { t with pair := [f], pairCount := (t.pairCount + 1) % 2 ^ 24, dealt := (t.dealt + 1088) % 24 }

end Sys2Proof.Machine
end

