-- ==== Sys2Proof/Machine/Links.lean ====
section
/-! DEFINITION. Pogil ports (12_pogil_links.md): training (R425 to R429), flits, retry and credits (R430 to R444), the choice of
packets (R449 to R452), port states (R455 to R460), and hellos (14_topology.md, R518 to R523). -/

namespace Sys2Proof.Machine

open Sys2Proof

def Sys.port (s : Sys) (i : Nat) : Port := s.fab.ports.getD i Port.reset
def Sys.onPort (s : Sys) (i : Nat) (f : Port → Port) : Sys := s.onFab (fun b => { b with ports := modNth b.ports i f })

/-! ## Port states (R455 to R457) -/

/-- An event of a port for every partition from READY on, before it in the error log alone (R457, Table 18-5). -/
def Sys.portEvent (s : Sys) (code port : Nat) (detail : List Byte) : Sys :=
  if s.ready then s.raiseAll code port detail else s.log code port 255 (eventClass code) detail

def Port.live (t : Port) : Bool := t.state == 3 || t.state == 4

def Sys.setPort (s : Sys) (i st : Nat) : Sys := s.onPort i (fun t => { t with state := st, lastChange := s.mgmt.cycles })

/-- A training starts again: what the last one granted and negotiated is gone, and the replay buffer keeps its flits without the
credits they returned, since DONE grants them all (R440, R442). -/
def Port.relock (t : Port) : Port :=
  { t with
    reps := 0, helloIn := false, laneCredits := rep0 24, poolCredits := 0, shared := rep0 12, returns := [], nakDue := false, nakSent := false
    rxPos := 0, pairBad := false, replay := t.replay.map (fun f => { f with credit0 := noCredit, credit1 := noCredit }) }

/-- A port goes down with a reason (Table 12-10); its machine starts again in a training state. -/
def Sys.portDown (s : Sys) (i reason train : Nat) : Sys :=
  let was := (s.port i).live
  let s := (s.setPort i (if train = 1 then 1 else 2)).onPort i (fun t => { t.relock with
    lastDown := reason, train := train, lastTrain := train, incChanged := false, entriesDown := t.entriesDown + 1 })
  if was then s.portEvent 0x0301 i (natLe 1 reason) else s

/-- A port enters UP or UNACCEPTED. -/
def Sys.portUp (s : Sys) (i st : Nat) : Sys :=
  let s := (s.setPort i st).onPort i (fun t => { t with train := 7, entriesUp := t.entriesUp + 1 })
  s.portEvent 0x0302 i (natLe 1 (s.port i).width ++ natLe 1 st)

/-- The port's machine may run: its domains have power and the port is enabled (R98, R99, R460). -/
def Sys.portRuns (s : Sys) (i : Nat) : Bool :=
  decide (i < 16) && decide (4 ≤ s.mgmt.bring.phase ∧ s.mgmt.bring.phase ≤ 8) && (s.port i).train != 0

/-! ## Training (R425 to R428, R440, R442) -/

/-- The w lowest wavelengths of a mask. -/
def lowest (w m : Nat) : Nat := (((List.range 8).filter (fun i => bit m i)).take w).foldl (fun a i => a + 2 ^ i) 0
def popcount8 (m : Nat) : Nat := ((List.range 8).filter (fun i => bit m i)).length
/-- The width two masks of good wavelengths allow (R426); 0 for none. -/
def widthOf (a b : Nat) : Nat := ([8, 6, 4, 2].find? (fun w => decide (w ≤ min (popcount8 a) (popcount8 b)))).getD 0

def Sys.enterTrain (s : Sys) (i st : Nat) : Sys := s.onPort i (fun t => { t with train := st, lastTrain := st })
/-- The machine returns to LOCK. -/
def Sys.toLock (s : Sys) (i : Nat) : Sys := (s.onPort i Port.relock).enterTrain i 2

/-- LOCK_COMPLETE: the wavelengths that have locked. -/
def lockComplete (i mask : Nat) (s : Sys) : Sys :=
  if s.portRuns i && (s.port i).train == 2 then (s.onPort i (fun t => { t with good := mask % 256 })).enterTrain i 3 else s
def execLockComplete (port mask : Nat) := onSys (lockComplete port mask)

/-- ALIGN_COMPLETE: a wavelength is good when it has locked and aligned. -/
def alignComplete (i mask : Nat) (s : Sys) : Sys :=
  if s.portRuns i && (s.port i).train == 3 then (s.onPort i (fun t => { t with good := t.good &&& mask })).enterTrain i 4 else s
def execAlignComplete (port mask : Nat) := onSys (alignComplete port mask)

/-- The sender resumes after the far end's last sequence, or starts anew where the far end is another incarnation (R440). -/
def Port.resume (t : Port) (far : TrainFar) : Port :=
  if t.farInc = far.incarnation then
    let k := (t.replay.findIdx? (fun f => decide (f.seq = far.lastSeq ∧ far.lastValid = true))).map (fun i => i + 1)
    { t with replay := t.replay.drop (k.getD 0), replayPos := 0 }
  else
    { t with replay := [], replayPos := 0, parts := [], cur := none, parked := none, nextSeq := if far.lastValid then (far.lastSeq + 1) % 4096 else 0
             incChanged := t.incChanged || t.farInc != 0, farInc := far.incarnation }

/-- NEGOTIATE_COMPLETE. -/
def negotiateComplete (i : Nat) (far : TrainFar) (s : Sys) : Sys :=
  let t := s.port i
  if s.portRuns i && t.train == 4 then
    let w := widthOf t.good far.mask
    if w = 0 then s.toLock i
    else (s.onPort i (fun t => { (t.resume far) with
      width := w, dealt := 0, rxMask := lowest w t.good, txMask := lowest w far.mask, farGood := far.mask % 256, roundTrip := far.roundTrip })).enterTrain i 5
  else s
def execNegotiateComplete (port : Nat) (far : TrainFar) := onSys (negotiateComplete port far)

/-- Credit returns of one class, in fields of at most 511 flits. -/
def grantsOf (vc lane : Nat) (pool : Bool) : Nat → Nat → List CreditRet
  | 0, _ => []
  | f + 1, n => if n = 0 then [] else ⟨vc, lane, pool, true, min n 511⟩ :: grantsOf vc lane pool f (n - min n 511)

/-- The shared pool that the dedicated allocations leave. -/
def Sys.poolSize (s : Sys) : Nat := 2048 - ((List.range 12).map (fun v => s.cfgN 0x6010 (v + 1))).sum

/-- The credits this end grants at DONE (R442), which go out as credit returns (log entry 29). -/
def Sys.grants (s : Sys) : List CreditRet :=
  let alloc := fun v => s.cfgN 0x6010 (v + 1)
  (List.range 12).flatMap (fun v => grantsOf v 0 false 3 (alloc v / 2) ++ grantsOf v 1 false 3 (alloc v / 2)) ++ grantsOf 0 0 true 6 s.poolSize

/-- VERIFY_WINDOW_END: DONE with the allocation set then committed (R448), or another negotiation without the wavelengths that failed, three times at most (R427). -/
def verifyWindowEnd (i failMask : Nat) (uncorrectable : Bool) (s : Sys) : Sys :=
  let t := s.port i
  let bad := failMask &&& t.rxMask
  if s.portRuns i && t.train == 5 then
    if bad ≠ 0 then
      if t.reps ≥ 3 then s.toLock i
      else (s.onPort i (fun t => { t with good := t.good - (t.good &&& bad), reps := t.reps + 1 })).enterTrain i 4
    else if uncorrectable then s
    else (s.onPort i (fun t => { t with
      reps := 0, helloIn := false, allocCommit := s.cfgN 0x6012 1, sharedCap := s.cfgN 0x6010 13, pool := s.poolSize
      returns := s.grants, replays := 0, counts := addAt t.counts 7 1 })).enterTrain i 6
  else s
def execVerifyWindowEnd (port failMask : Nat) (uncorrectable : Bool) := onSys (verifyWindowEnd port failMask uncorrectable)

/-- TRAINING_STATE_TIMEOUT: back to LOCK (R425). -/
def trainingTimeout (i : Nat) (s : Sys) : Sys :=
  let t := s.port i
  if s.portRuns i && decide (2 ≤ t.train ∧ t.train ≤ 6) then s.toLock i else s
def execTrainingStateTimeout (port : Nat) := onSys (trainingTimeout port)

/-! ## Observations and the plan (R520 to R523) -/

def Sys.observed (s : Sys) (i : Nat) : Observed := s.fab.observed.getD i Observed.reset

/-- Whether a port's latest observation matches its plan entry (R520). -/
def Sys.matches (s : Sys) (i : Nat) : Bool :=
  let e := s.cfg 0x6100 (i + 1)
  let o := s.observed i
  field e 0 1 == 1 && (e.drop 4).take 16 == o.farSerial && field e 1 1 == o.farPort && bit (field e 2 1) o.farRole

/-- A port whose observation does not match carries nothing (R521). -/
def Sys.quarantine (s : Sys) (i : Nat) : Sys :=
  let s := (s.setPort i 5).onPort i (fun t => { t with train := 7 })
  (s.onFab (fun f => { f with helloCounts := addAt f.helloCounts 2 1 })).portEvent 0x0306 i (s.observed i).farSerial

/-- R428: UP at full width, unless another incarnation answers at a training after the first since READY. -/
def Port.wants (t : Port) : Nat := if t.width = 8 ∧ (t.trainedOnce = false ∨ t.incChanged = false) then 4 else 3

/-- The state that the plan and the last hello give a port that has finished training (R521, R522). -/
def Sys.settlePort (s : Sys) (i : Nat) : Sys :=
  let t := s.port i
  let st := t.wants
  let s := s.onPort i (fun t => { t with trainedOnce := t.trainedOnce || s.ready, incChanged := st == 3 })
  if s.matches i then s.portUp i st else s.quarantine i

/-- A port is compared again with the plan (R522). -/
def Sys.compare (s : Sys) (i : Nat) : Sys :=
  let t := s.port i
  let status := if (s.observed i).status = 0 then 0 else if s.matches i then 1 else 2
  let s := s.onFab (fun f => { f with observed := modNth f.observed i (fun o => { o with status := status }) })
  if t.state = 5 ∧ status = 1 then s.portUp i (if t.width = 8 ∧ t.incChanged = false then 4 else 3)
  else if t.live = true ∧ status = 2 then s.quarantine i
  else s

/-- HELLO_RECEIVE: the hello at the head of the fabric control queue is recorded and compared (R28, R519 to R522). -/
def helloReceive (i : Nat) (h : Hello) (s : Sys) : Sys :=
  let t := s.port i
  if s.mgmtUp && s.fab.hellos.head? == some (i, h) then
    let s := s.onFab (fun f => { f with
      hellos := f.hellos.drop 1
      helloCounts := addAt f.helloCounts 1 1
      observed := modNth f.observed i (fun _ => ⟨1, h.port, h.role, h.serial, h.fabricWord, h.incarnation, h.plan, s.mgmt.cycles⟩) })
    let s := s.onFab (fun f => { f with observed := modNth f.observed i (fun o => { o with status := if s.matches i then 1 else 2 }) })
    if t.train = 6 then (s.onPort i (fun t => { t with helloIn := true })).settlePort i else s.compare i
  else s

/-- The fabric word of 0x6111 and of a hello. -/
def Sys.fabricWord (s : Sys) : Nat := s.fid + (if s.fidValid then 2 ^ 31 else 0)

/-- A hello's 240 bytes (Table 14-5). -/
def Sys.helloBytes (s : Sys) (i : Nat) : List Byte :=
  natLe 1 0xE1 ++ natLe 1 1 ++ natLe 1 i ++ natLe 1 s.role ++ (s.mgmt.sec.serial ++ zeros 16).take 16 ++ natLe 4 s.fabricWord
    ++ natLe 4 s.fab.incarnation ++ natLe 4 (s.cfgN 0x6100 0x11) ++ zeros 208

def helloPkt : Pkt := ⟨0, 0, 0, 0, 0, 0, 0, 0, 0, 0, 0, 0, 0, []⟩

/-- HELLO_SEND: from DONE on, once credits have been granted (R519). -/
def helloSend (i : Nat) (s : Sys) : Sys :=
  let t := s.port i
  if s.mgmtUp && s.portRuns i && (t.live || (t.train == 6 && decide (0 < nth t.laneCredits 22 ∨ 0 < t.poolCredits))) then
    (s.onPort i (fun t => { t with txQ := t.txQ ++ [⟨helloPkt, 11, 0, 16, s.helloBytes i⟩] })).onFab
      (fun f => { f with helloCounts := addAt f.helloCounts 0 1 })
  else s
def execHelloSend (port : Nat) := onSys (helloSend port)

/-- A commit of 0x6100 or 0x6110 sends a hello on every port that is UP or UNACCEPTED (R519). -/
def Sys.helloAll (s : Sys) : Sys :=
  runAll (fun i s => if (s.port i).live then helloSend i s else s) (List.range 16) s

/-- What 0x6200 shows of a port: a planned port that is DISABLED, DOWN or TRAINING is absent (R523). -/
def Sys.observation (s : Sys) (i : Nat) : Observed :=
  let o := s.observed i
  if field (s.cfg 0x6100 (i + 1)) 0 1 = 1 ∧ (s.port i).state ≤ 2 then { o with status := 3 } else o

/-! ## Packets as bytes (Table 13-4, R431) -/

def pktBytes (p : Pkt) : List Byte :=
  natLe 1 p.kind ++ natLe 1 p.flags ++ natLe 1 p.status ++ natLe 1 (p.op + 16 * p.ty) ++ natLe 4 p.dst ++ natLe 4 (sourceField p)
    ++ natLe 4 p.seq ++ natLe 4 p.key ++ natLe 2 p.window ++ natLe 2 p.len ++ natLe 8 p.offset ++ p.payload

/-- The packet that bytes spell; a GET carries no payload. -/
def pktOf (b : List Byte) : Pkt :=
  let kind := field b 0 1
  let n := field b 22 2
  ⟨kind, field b 1 1, field b 2 1, field b 3 1 % 16, field b 3 1 / 16 % 8, field b 4 4 % 2 ^ 17, field b 8 4 % 2 ^ 17, field b 8 4 / 2 ^ 17 % 16,
    field b 12 4, field b 16 4, field b 20 2, n, field b 24 8 % 2 ^ 40, if kind = kGet then [] else (b.drop 32).take n⟩

def knownKind (k : Nat) : Bool := decide ((1 ≤ k ∧ k ≤ 8) ∨ (0x81 ≤ k ∧ k ≤ 0x84))

/-- A packet's flit payloads. -/
def flitsOf : Nat → List Byte → List (List Byte)
  | 0, _ => []
  | n + 1, b => (b ++ zeros 240).take 240 :: flitsOf n (b.drop 240)

/-! ## Receiving (R434, R435, R439, R444) -/

/-- The acknowledgement of a header: entries up to it leave the replay buffer; a NAK replays the rest (R435). -/
def Port.acked (t : Port) (f : Flit) : Port :=
  let k := if f.ackValid then ((t.replay.findIdx? (fun x => x.seq == f.ackSeq)).map (fun i => i + 1)).getD 0 else 0
  let t := { t with replay := t.replay.drop k, replayPos := t.replayPos - k, replays := if k = 0 then t.replays else 0 }
  if f.nak && t.replayPos != 0 then { t with replayPos := 0, replays := t.replays + 1, counts := addAt t.counts 5 1 } else t

/-- One credit return field. -/
def Port.credit (t : Port) (c : CreditRet) : Port :=
  if c.valid = false then t
  else if c.pool then { t with poolCredits := t.poolCredits + c.flits, shared := modNth t.shared c.vc (fun x => x - c.flits) }
  else { t with laneCredits := modNth t.laneCredits (2 * c.vc + c.lane) (fun x => x + c.flits) }

def Port.header (t : Port) (f : Flit) : Port := ((t.acked f).credit f.credit0).credit f.credit1

/-- A discarded flit asks for a replay once (R435). -/
def Port.refuse (t : Port) : Port := if t.nakSent then t else { t with nakSent := true, nakDue := true }

/-- Type and reserved fields are valid (Tables 12-5 and 12-6). -/
def flitTypeOk (f : Flit) : Bool :=
  f.reservedBits == 0 && decide (f.vc < 12 ∧ f.lane < 2) &&
    (f.ty == 1 || (f.vc == 0 && f.seq == 0 &&
      ((f.ty == 0 && f.payload.all (fun b => b == 0)) || (f.ty == 2 && (f.payload.drop 14).all (fun b => b == 0)))))

/-- A flit of a codeword pair: an uncorrectable pair has one or two uncorrectable codewords, which is free. -/
def Sys.codeword (s : Sys) (i : Nat) (fecOk : Bool) : Sys :=
  let t := s.port i
  let seen := decide (t.rxPos ≠ 0) && t.pairBad
  let n := if fecOk || seen then 0 else 1 + s.freeNat % 2
  (s.onPort i (fun t => { t with rxPos := (t.rxPos + 1) % 5, pairBad := seen || !fecOk, counts := addAt t.counts 3 n })).drew 1

/-- The first three checks of R434; a flit that fails one counts, and asks for a replay where it could have been DATA. -/
def flitSound (f : Flit) (fecOk : Bool) (crc : Nat) : Bool := fecOk && crc == flitCrc f && flitTypeOk f
def Sys.flitBad (s : Sys) (i : Nat) (f : Flit) (fecOk : Bool) (crc : Nat) : Sys :=
  (s.onPort i (fun t =>
    { (if !fecOk || crc != flitCrc f || f.ty == 1 then t.refuse else t) with counts := addAt t.counts 4 1 })).maskedCount 0x14

/-- The eighth fruitless replay takes the port down (R437), or back to LOCK while it trains: TRAINING is left for DOWN only under
R18 (R456). -/
def Sys.replayLimit (s : Sys) (i : Nat) : Sys :=
  if (s.port i).replays > 8 then
    (if (s.port i).live then s.portDown i 3 1 else (s.onPort i (fun t => { t with replays := 0 })).toLock i)
  else s

/-- The port hears flits: UP, UNACCEPTED, or from NEGOTIATE to DONE (Table 12-9). -/
def Sys.hears (s : Sys) (i : Nat) : Bool :=
  s.portRuns i && ((s.port i).live || decide (4 ≤ (s.port i).train ∧ (s.port i).train ≤ 6))
/-- The port takes DATA flits: UP, UNACCEPTED, or in DONE. -/
def Sys.carries (s : Sys) (i : Nat) : Bool := s.portRuns i && ((s.port i).live || (s.port i).train == 6)

/-- The flit's bytes join the packet in progress of its VC and lane. -/
def Port.gather (t : Port) (f : Flit) : Port × Option (List Byte) :=
  let rest := t.parts.filter (fun x => !(x.vc == f.vc && x.lane == f.lane))
  let old := if f.sop then none else t.parts.find? (fun x => x.vc == f.vc && x.lane == f.lane)
  match old, f.sop with
  | none, false => (t, none)
  | _, _ =>
    let bs := (old.map RxPart.bytes).getD [] ++ f.payload
    if f.eop then ({ t with parts := rest }, some bs)
    else ({ t with parts := rest ++ [⟨f.vc, f.lane, bs, (old.map RxPart.flits).getD 0 + 1⟩] }, none)

/-- A DATA flit in sequence: the packet it completes goes to the router, a hello to the fabric control queue; bytes that spell
no packet are dropped (log entry 30). -/
def Sys.acceptFlit (s : Sys) (i : Nat) (f : Flit) : Sys :=
  let t := s.port i
  let g := { t with expSeq := (t.expSeq + 1) % 4096, rxValid := true, nakSent := false, nakDue := false, counts := addAt t.counts 1 1 }.gather f
  let back : Port → Port := fun t => { t with returns := t.returns ++ [⟨f.vc, f.lane, f.pool, true, (((List.length (g.2.getD [])) + 239) / 240)⟩] }
  let s := s.onPort i (fun _ => g.1)
  match g.2 with
  | none => s
  | some b =>
    if f.vc = 11 ∧ field b 0 1 = 0xE1 then
      (s.onPort i back).onFab (fun x => { x with
        hellos := x.hellos ++ [(i, ⟨field b 1 1, field b 2 1, field b 3 1, (b.drop 4).take 16, field b 20 4, field b 24 4, field b 28 4⟩)] })
    else if knownKind (field b 0 1) ∧ field b 22 2 ≤ 4096 then
      s.onFab (fun x => { x with router := x.router ++ [⟨pktOf b, f.vc, f.lane, i, f.pool⟩] })
    else s.onPort i back

/-- A flit's acknowledgement and credits count. -/
def Sys.headerIn (s : Sys) (i : Nat) (f : Flit) : Sys := (s.onPort i (fun t => t.header f)).replayLimit i

/-- DATA_FLIT_RECEIVE: a DATA flit, or one of a reserved type, is accepted or discarded whole (R434, R435). -/
def dataFlit (i : Nat) (f : Flit) (fecOk : Bool) (crc : Nat) (s : Sys) : Sys :=
  if s.hears i && f.ty != 0 && f.ty != 2 then
    let s := s.codeword i fecOk
    if flitSound f fecOk crc = false then s.flitBad i f fecOk crc
    else if s.carries i && f.seq == (s.port i).expSeq then
      let s := s.headerIn i f
      if s.carries i then s.acceptFlit i f else s
    else s.onPort i Port.refuse
  else s
def execDataFlitReceive (port : Nat) (f : Flit) (fecOk : Bool) (crc : Nat) := onSys (dataFlit port f fecOk crc)

/-- NULL_FLIT_RECEIVE. -/
def nullFlitIn (i : Nat) (f : Flit) (fecOk : Bool) (crc : Nat) (s : Sys) : Sys :=
  if s.hears i && f.ty == 0 then
    let s := s.codeword i fecOk
    if flitSound f fecOk crc then s.headerIn i f else s.flitBad i f fecOk crc
  else s
def execNullFlitReceive (port : Nat) (f : Flit) (fecOk : Bool) (crc : Nat) := onSys (nullFlitIn port f fecOk crc)

/-- TRAIN_FLIT_RECEIVE: a port that was trained goes down, since its far end trains again (R429); one that trains keeps the echo
token. -/
def trainFlit (i : Nat) (f : Flit) (fecOk : Bool) (crc : Nat) (s : Sys) : Sys :=
  if s.hears i && f.ty == 2 then
    let s := s.codeword i fecOk
    if flitSound f fecOk crc = false then s.flitBad i f fecOk crc
    else if (s.port i).live then s.portDown i 5 2
    else s.onPort i (fun t => { t with echo := field f.payload 10 2 })
  else s
def execTrainFlitReceive (rx : FlitRx) := onSys (trainFlit rx.port rx.flit rx.fecOk rx.crc)

/-! ## Transmitting (R431, R436 to R438, R443, R451, R452) -/

/-- The credit source a packet of `n` flits could start from: false the lane's own, true the pool. -/
def Port.source (t : Port) (vc lane n : Nat) : Option Bool :=
  if nth t.laneCredits (2 * vc + lane) ≥ n then some false
  else if t.poolCredits ≥ n ∧ nth t.shared vc + n ≤ min t.sharedCap t.pool then some true
  else none

def TxPkt.flits (w : TxPkt) : Nat := if w.hello != [] then 1 else pktFlits w.pkt

/-- The oldest packet of a VC whose lane lets it start, with its credit source. -/
def Port.eligible (t : Port) (vc : Nat) : Option (TxPkt × Bool) :=
  if t.state = 4 ∨ vc = 11 then
    (t.txQ.filter (fun w => w.vc == vc)).findSome? (fun w =>
      let first := (t.txQ.find? (fun x => x.vc == vc && x.lane == w.lane)) == some w
      if first then (t.source vc w.lane w.flits).map (fun b => (w, b)) else none)
  else none

/-- Start a packet: its credits are taken and its flits laid out. -/
def Port.start (t : Port) (w : TxPkt) (pool : Bool) : Port :=
  let n := w.flits
  { t with
    txQ := t.txQ.erase w
    cur := some ⟨flitsOf n (if w.hello != [] then w.hello else pktBytes w.pkt), true, w.vc, w.lane, pool⟩
    poolCredits := if pool then t.poolCredits - n else t.poolCredits
    shared := if pool then modNth t.shared w.vc (fun x => x + n) else t.shared
    laneCredits := if pool then t.laneCredits else modNth t.laneCredits (2 * w.vc + w.lane) (fun x => x - n) }

/-- The next packet: the oldest VC0 packet that the token bucket covers, else deficit round robin. Tokens are held in
thousandths. -/
def Sys.choose (s : Sys) (t : Port) : Port :=
  match t.eligible 0 with
  | some (w, b) =>
    if t.tokens ≥ 1000 * w.flits then { (t.start w b) with tokens := t.tokens - 1000 * w.flits } else robin t
  | none => robin t
where
  robin (t : Port) : Port :=
    match drr 12 (fun v => (t.eligible v).map (fun x => x.1.flits)) (fun v => 18 * s.cfgN 0x6030 (v + 1)) 25 t.servedVc t.deficits with
    | none => t
    | some (v, ds) =>
      match t.eligible v with
      | some (w, b) => { (t.start w b) with servedVc := v, deficits := ds }
      | none => t

/-- The acknowledgement and the NAK of a header. -/
def Port.acks (t : Port) (f : Flit) : Flit :=
  { f with ackSeq := if t.rxValid then (t.expSeq + 4095) % 4096 else 0, ackValid := t.rxValid, nak := t.nakDue }
/-- A flit's header: acknowledgement, NAK and up to two credit returns. -/
def Port.dress (t : Port) (f : Flit) : Flit × Port :=
  ({ t.acks f with credit0 := (t.returns[0]?).getD noCredit, credit1 := (t.returns[1]?).getD noCredit },
   { t with nakDue := false, returns := t.returns.drop 2 })

def Port.sendNull (t : Port) : Port := let x := t.dress nullFlit; x.2.emit x.1
/-- A flit is replayed with the credits it returned first, which its receiver discarded with it (R434, R446). -/
def Port.resend (t : Port) (f : Flit) : Port := { (t.emit (t.acks f)) with nakDue := false, replayPos := t.replayPos + 1 }

/-- Send the next flit of the packet in transmission. -/
def Port.sendNext (t : Port) : Port :=
  match t.cur with
  | none => t.sendNull
  | some c =>
    match c.rest with
    | [] => { t.sendNull with cur := none }
    | b :: more =>
      let x := t.dress { nullFlit with ty := 1, vc := c.vc, sop := c.first, eop := more.isEmpty, lane := c.lane, pool := c.pool
                                       seq := t.nextSeq, payload := b }
      let t := x.2.emit x.1
      { t with
        nextSeq := (t.nextSeq + 1) % 4096
        replay := t.replay ++ [x.1]
        replayPos := t.replay.length + 1
        counts := addAt t.counts 0 1
        cur := if more.isEmpty then none else some { c with rest := more, first := false } }

/-- A packet begun on another VC waits while the port carries VC11 alone, and goes on once it is UP (R455). -/
def Port.park (t : Port) : Port :=
  match t.cur with
  | some c => if t.state ≠ 4 ∧ c.vc ≠ 11 then { t with cur := none, parked := some c } else t
  | none => if t.state = 4 then { t with cur := t.parked, parked := none } else t

/-- The DATA or NULL flit of a slot: replays first, none new while the replay buffer is full (R435, R438). -/
def Sys.slotFlit (s : Sys) (t : Port) : Port :=
  let t := ({ t with tokens := min (t.tokens + s.cfgN 0x6031 1) (1000 * s.cfgN 0x6031 2) } : Port).park
  match t.replay[t.replayPos]? with
  | some f => t.resend f
  | none => if t.replay.length ≥ 1024 then t.sendNull else Port.sendNext (if t.cur.isNone then s.choose t else t)

/-- FLIT_TRANSMIT: one flit slot. In NEGOTIATE and VERIFY it holds a TRAIN or a NULL flit, which the spec leaves open, as it does
the token (log entry 122); before them a NULL flit. -/
def flitTransmit (i : Nat) (s : Sys) : Sys :=
  let t := s.port i
  if s.carries i then s.onPort i s.slotFlit
  else if s.portRuns i && decide (2 ≤ t.train ∧ t.train ≤ 5) then
    let f := if t.train ≤ 3 ∨ s.freeBool = true then nullFlit
      else { nullFlit with ty := 2, payload := t.trainPayload i s.fab.incarnation (s.freeNat / 2 % 65536) }
    (s.onPort i (fun t => { t.emit (t.acks f) with nakDue := false })).drew 1
  else s
def execFlitTransmit (port : Nat) := onSys (flitTransmit port)

/-- LINK_REPLAY_TIMEOUT (R436, R437). -/
def replayTimeout (i : Nat) (s : Sys) : Sys :=
  if s.carries i && decide (0 < (s.port i).replayPos) then
    (s.onPort i (fun t => { t with replayPos := 0, replays := t.replays + 1, counts := addAt t.counts 5 1 })).replayLimit i
  else s
def execLinkReplayTimeout (port : Nat) := onSys (replayTimeout port)

/-! ## Losses, degradation, management (R456, R458 to R460) -/

/-- SIGNAL_LOST. -/
def signalLost (i : Nat) (s : Sys) : Sys := if s.portRuns i && decide ((s.port i).state ≥ 3) then s.portDown i 1 1 else s
def execSignalLost (port : Nat) := onSys (signalLost port)

/-- PORT_DEGRADED: a window above the threshold after one at or below it. -/
def portDegraded (i : Nat) (ratio : F32) (s : Sys) : Sys :=
  let t := s.port i
  if s.portRuns i && t.live then
    let above := decide ((val32 ratio.toNat).cmp (val32 (s.cfgN 0x6041 1)) = some 1)
    let s := s.onPort i (fun t => { t with windowOver := above })
    if above && !t.windowOver then s.portEvent 0x0303 i (natLe 4 ratio.toNat) else s
  else s
def execPortDegraded (port : Nat) (ratio : F32) := onSys (portDegraded port ratio)

/-- A write to Accept (R459). -/
def Sys.acceptPort (s : Sys) (i : Nat) : Sys := if (s.port i).state = 3 then s.portUp i 4 else s

/-- A port's bit of Port enable is cleared or set (R460). -/
def Sys.disablePort (s : Sys) (i : Nat) : Sys :=
  let was := (s.port i).live
  let s := (s.setPort i 0).onPort i (fun t => { t.relock with lastDown := 4, train := 0 })
  if was then s.portEvent 0x0301 i (natLe 1 4) else s
def Sys.startPort (s : Sys) (i : Nat) : Sys :=
  (s.setPort i 1).onPort i (fun t => { t.relock with train := 1, lastTrain := 1, incChanged := false, entriesDown := t.entriesDown + 1 })
/-- A port's transmit fibre is dark: its engine not powered and lit, the port disabled or down, or the part in reset (R64, R460). -/
def Sys.txDark (s : Sys) (i : Nat) : Bool :=
  !(s.portRuns i && decide (2 ≤ (s.port i).state) && s.mgmt.power.lit (engineOf i))
def Sys.enablePorts (s : Sys) (mask : Nat) : Sys :=
  runAll (fun i s =>
    if bit mask i then (if (s.port i).state = 0 then s.startPort i else s)
    else if (s.port i).state = 0 then s else s.disablePort i) (List.range 16) s

end Sys2Proof.Machine
end

