-- ==== Sys2Proof/Machine/BringUp.lean ====
section
/-! DEFINITION. Device reset and bring-up (03_bring_up.md, R81 to R121; 16_partitions.md, R588; 19_security.md, R660 to R671):
the phases of Table 3-1, their discrepancies, the assignment of logical numbers and the measurement log. -/

namespace Sys2Proof.Machine

open Sys2Proof

/-! ## Discrepancies (R115 to R117) -/

/-- A discrepancy enters the list and the error log. -/
def Sys.disc (s : Sys) (kind unit detail : Nat) : Sys :=
  let s := s.onBring (fun b => { b with
    discCount := min (b.discCount + 1) 65535
    discs := if b.discs.length < 256 then b.discs ++ [⟨b.phase, kind, unit, detail, s.mgmt.cycles⟩] else b.discs })
  s.log kind unit 255 0 (natLe 4 detail)

/-! ## The journal (R145 to R147) -/

/-- A record of the journal becomes valid; how many bytes it takes is free. -/
def Sys.journal (s : Sys) : Sys :=
  (s.onDict (fun d => { d with
    journalSeq := (d.journalSeq + 1) % 2 ^ 32, journalUsed := d.journalUsed + s.freeNat % 4096 + 1, compacted := false })).drew 1

/-- A P object's value as the journal holds it. -/
def Sys.stored (s : Sys) (i sub : Nat) : List Byte := assoc s.mgmt.dict.store (i * 256 + sub) (objDefault i sub)

def storeAll (l : List (Nat × List Byte)) (vs : List (Nat × List Byte)) : List (Nat × List Byte) :=
  runAll (fun (v : Nat × List Byte) l => assocSet l v.1 v.2) vs l

/-! ## Reset -/

/-- The dictionary through a reset: volatile values, pending sets and sessions are gone (R142, R159); a record in progress is
whole, and takes its `size` from the area, or leaves no trace (R88, R146). -/
def DictState.afterReset (d : DictState) (whole : Bool) (size : Nat) : DictState :=
  let d := match d.jpending with
    | some j =>
      if whole then
        { d with store := storeAll d.store j.values, journalSeq := (d.journalSeq + 1) % 2 ^ 32, journalUsed := d.journalUsed + size,
                 compacted := false }
      else d
    | none => d
  { DictState.reset with
    store := d.store, journalSeq := d.journalSeq, journalUsed := d.journalUsed, area := d.area, compacted := d.compacted,
    compactions := d.compactions, flashFailures := d.flashFailures, unlockCount := d.unlockCount, tx := d.tx }

/-- What bring-up starts from: the manufacturing record, the assignment record and the bring-up count last. -/
def BringUp.afterReset (b : BringUp) : BringUp :=
  { BringUp.reset with
    nBringUps := b.nBringUps, recVersion := b.recVersion, good := b.good, sramRepairs := b.sramRepairs,
    stackSerials := b.stackSerials, assignment := b.assignment }

/-- The error log lasts through a device reset, and the latched mismatch until FW_VERIFY (R635, R639); the plan in force
changes at CLOCK_START (R655). -/
def RelState.afterReset (r : RelState) : RelState :=
  { RelState.reset with
    log := r.log, nextSeq := r.nextSeq, overwritten := r.overwritten, mismatch := r.mismatch, planInForce := r.planInForce }

/-- The loops of R52 and R57 start again; rails, levels, straps and the last samples stay. -/
def PowerState.afterReset (p : PowerState) : PowerState :=
  { p with
    total := 0, samples := 0, peakNow := 0, cool := true, capStep := 32, thermStep := 32, capEventSent := false, windowDue := false, wasThrottled := false
    nThrottled := 0, nCapUnmet := 0, nThermal := 0, laserLoss := rep0 6 }

/-- Each bring-up has a new measurement log; flash, identity and the debug state last (R667, R675). What management memory and the
scan chains hold afterwards is free (log entry 39). -/
def SecState.afterReset (s : SecState) : SecState :=
  { s with measures := [], chain := zeros 64, halted := false, mgmtMem := [], chains := [] }

/-- A device reset (R79, R82, R588): every volatile object and all of memory is gone, and bring-up is abandoned. -/
def Dev.deviceReset (d : Dev) : Dev :=
  let s := d.sys
  let prev := s.fab.incarnation
  ⟨Mem.reset,
    { core := CoreState.reset
      host := HostState.reset
      fab := { FabState.reset with incarnation := prev }
      mgmt := {
        dict := s.mgmt.dict.afterReset s.freeBool (s.freeNat / 2 % 4096 + 1)
        bring := s.mgmt.bring.afterReset
        power := s.mgmt.power.afterReset
        rel := s.mgmt.rel.afterReset
        sec := s.mgmt.sec.afterReset
        cycles := s.mgmt.cycles }
      freeCtr := s.freeCtr + 1 }⟩

/-- The stages stop: every rail goes at once and only flash keeps its contents (R42, R43). The debug state and the port close,
and THERMTRIP_N is released (R59, R639, R675). -/
def Dev.powerLoss (d : Dev) : Dev :=
  let p := d.sys.mgmt.power
  let d := d.deviceReset
  { d with sys := { d.sys with
    mgmt := { d.sys.mgmt with
      power := { PowerState.reset with overvolt := p.overvolt, resetLow := p.resetLow, refclk := p.refclk }
      rel := RelState.reset
      sec := { d.sys.mgmt.sec with
        challenge := zeros 32, debugOpen := false, scope := 0, ir := 255, bypass := false, boundary := 0, extest := false, tdo := 0,
        mgmtMem := [], chains := [], freshPower := true }
      cycles := 0 } } }

/-- BRING_UP_START: phase FW_VERIFY; the bring-up is counted, and the device has a new incarnation: not 0 and not the one
before. -/
def Sys.bringUpStart (s : Sys) : Sys :=
  let n := s.freeNat % (2 ^ 32 - 1) + 1
  let inc := if n = s.fab.incarnation then n % (2 ^ 32 - 1) + 1 else n
  (((s.drew 1).onBring (fun b => { b with phase := 1, status := 0, nBringUps := (b.nBringUps + 1) % 2 ^ 32 })).onFab
    (fun f => { f with incarnation := inc })).journal

/-! ## Phases -/

/-- A phase ends and the next begins (R119). -/
def Sys.nextPhase (s : Sys) (ph status : Nat) : Sys :=
  s.onBring (fun b => { b with phaseEnds := setNth b.phaseEnds (b.phase - 1) s.mgmt.cycles, phase := ph, status := status })

/-- FAILED: bring-up has stopped (R84). -/
def Sys.failUp (s : Sys) : Sys := s.onBring (fun b => { b with phase := 0xFE, status := 3 })

def Sys.inPhase (s : Sys) (ph : Nat) : Bool := s.mgmtUp && s.mgmt.bring.phase == ph

/-! ## FW_VERIFY -/

/-- An entry of the measurement log (R667, Table 19-4). -/
def Sys.measure (s : Sys) (typ detail : Nat) (digest : List Byte) : Sys :=
  s.onSec (fun k => { k with
    measures := k.measures ++ [⟨typ, detail, digest⟩]
    chain := Config.shake256 64 (k.chain ++ natLe 2 typ ++ natLe 4 detail ++ digest) })

/-- Fields of an image header (Table 19-2). -/
def ImageSlot.fwVersion (m : ImageSlot) : Nat := field m.header 8 4
def ImageSlot.secVersion (m : ImageSlot) : Nat := field m.header 12 4
def ImageSlot.digest (m : ImageSlot) : List Byte := (m.header.drop 24).take 64
/-- The first step of Table 19-3 an image fails; 0 for none. -/
def ImageSlot.failStep (m : ImageSlot) (floor : Nat) : Nat :=
  if m.contentStep ≠ 0 then m.contentStep else if m.secVersion < floor then 4 else 0

def Sys.image (s : Sys) (k : Nat) : ImageSlot := s.mgmt.sec.images.getD k ImageSlot.factory
def Sys.onImage (s : Sys) (k : Nat) (f : ImageSlot → ImageSlot) : Sys := s.onSec (fun x => { x with images := modNth x.images k f })

/-- The boot ROM tries an image: one that fails is rejected as a discrepancy, and its slot is marked (R661, 0xB024). -/
def Sys.tryImage (s : Sys) (k : Nat) : Sys × Bool :=
  let n := (s.image k).failStep s.mgmt.sec.floor
  if n = 0 then (s.onImage k (fun m => { m with valid := true }), true)
  else ((s.onImage k (fun m => { m with valid := false, failedStep := n })).disc 2 k n, false)

/-- The security floor (R662). -/
def Sys.takeFloor (s : Sys) (tagOk : Bool) : Sys :=
  let has := s.mgmt.dict.store.any (fun v => v.1 == 0xB022 * 256 + 1)
  let committed := leNat (s.stored 0xB022 1)
  let s := if has && !tagOk then s.disc 7 0 0 else s
  s.onSec (fun k => { k with floor := if has && tagOk then max k.mfgFloor committed else k.mfgFloor })

/-- A salt where the sector holds none, at the first FW_VERIFY after power-on (R671). -/
def Sys.makeSalt (s : Sys) : Sys :=
  let fresh := s.mgmt.sec.freshPower
  let s := s.onSec (fun k => { k with freshPower := false })
  if fresh && s.mgmt.sec.salt.isNone then
    let g := natLe 4 ((leNat (s.stored 0xB041 1) + 1) % 2 ^ 32)
    let salt := s.freeBytes 32
    ((s.drew 32).onSec (fun k => { k with salt := some salt })).onDict (fun d => { d with
      store := assocSet d.store (0xB041 * 256 + 1) g, values := assocSet d.values (0xB041 * 256 + 1) g }) |>.journal
  else s

/-- JOURNAL_REPLAY (R85, R146): the store's values are in force, and this bring-up takes its spare policy and any pending
assignment reset from them (R120); a mismatch latched before the reset is entered in the log (R635). -/
def Sys.replayJournal (s : Sys) : Sys :=
  let s := s.onDict (fun d => { d with values := d.store })
  let s := s.onBring (fun b => { b with
    spareSub := s.cfgN 0x2102 2 == 1, freshAssign := s.cfgN 0x2110 2 == 1, resetWritten := false })
  match s.mgmt.rel.mismatch with
  | some n => (s.onRel (fun r => { r with mismatch := none })).log 0x0908 0 255 2 (natLe 8 n)
  | none => s

/-- The plan that CLOCK_START puts in force (R655). -/
def planOf (b : List Byte) : MarginPlan :=
  ⟨field b 0 4, field b 4 4, field b 8 2, (List.range 16).map (fun i => field b (12 + i) 1), (List.range 8).map (fun i => field b (28 + i) 1),
    (List.range 6).map (fun i => field b (36 + i) 1)⟩
def MarginPlan.bytes (m : MarginPlan) : List Byte :=
  natLe 4 m.number ++ natLe 4 m.source ++ natLe 2 m.mhz ++ zeros 2 ++ ((m.rows.map (natLe 1)).flatten) ++ ((m.soffs.map (natLe 1)).flatten)
    ++ ((m.trims.map (natLe 1)).flatten) ++ zeros 22

/-- FW_VERIFY_DONE. A bring-up that ends here in FAILED makes no measurement entry (DESIGN CHOICE, log entry 128). -/
def fwVerify (r : FwReading) (s : Sys) : Sys :=
  if s.inPhase 1 then
    let p := s.mgmt.power
    let s := if p.bootMode = 3 then s.disc 1 0 3 else s
    let s := s.takeFloor r.floorTagOk
    let active := leNat (s.stored 0xB020 1) % 2
    let first := if p.bootMode = 2 then 1 - active else active
    let x := s.tryImage first
    let y := if x.2 then x else x.1.tryImage (1 - first)
    let s := y.1.replayJournal.makeSalt
    if y.2 then
      let k := if x.2 then first else 1 - first
      let s := s.onBring (fun b => { b with runningImage := k })
      if r.puf ≠ 0 then (s.disc 6 0 r.puf).failUp
      else if r.recordFault ≠ 0 then (s.disc 3 0 r.recordFault).failUp
      else
        let s := ((s.measure 1 0 s.mgmt.sec.romDigest).measure 2 k (s.image k).digest).measure 3 s.mgmt.bring.recVersion s.mgmt.sec.recordDigest
        let s := s.measure 4 p.bootMode (zeros 64)
        (s.onRel (fun q => { q with planInForce := planOf (s.cfg 0xA400 1) })).nextPhase 2 (if p.refclk then 0 else 2)
    else (s.onBring (fun b => { b with runningImage := 255 })).failUp
  else s
def execFwVerifyDone (r : FwReading) := onSys (fwVerify r)

/-! ## Ports at LINK_TRAIN (R98 to R102) -/

/-- A port has trained. -/
def Sys.portTrained (s : Sys) (i : Nat) : Bool := if i < 16 then (s.port i).train == 7 else (s.eth (i - 16)).up

def Sys.notTrained (i : Nat) (s : Sys) : Sys :=
  if s.portTrained i then s
  else if i < 16 then s.disc 0x20 i (s.port i).lastTrain
  else (s.drew 1).disc 0x20 i s.freeNat
def Sys.narrow (i : Nat) (s : Sys) : Sys :=
  if s.portTrained i && decide ((s.port i).width < 8) then s.disc 0x21 i (s.port i).width else s
def Sys.laserLow (e : Nat) (s : Sys) : Sys := if s.mgmt.power.lit e then s else s.disc 0x22 e (nth s.mgmt.power.lineUp e)

/-- The end of LINK_TRAIN and its discrepancies (R100). -/
def Sys.endLinkTrain (s : Sys) : Sys :=
  let mask := fun (l : List Nat) => (l.filter s.portTrained).foldl (fun a i => a + 2 ^ (i % 16)) 0
  let s := s.onBring (fun b => { b with portsTrained := mask (List.range 16), ethTrained := mask [16, 17] })
  let s := runAll Sys.notTrained (List.range 18) s
  let s := runAll Sys.narrow (List.range 16) s
  (runAll Sys.laserLow (List.range 6) s).nextPhase 5 0

/-- LINK_TRAIN ends once every port whose engine has its light has trained (R98). -/
def Sys.linkTrainCheck (s : Sys) : Sys :=
  if s.inPhase 4 && (List.range 18).all (fun i => !s.mgmt.power.lit (engineOf i) || s.portTrained i) then s.endLinkTrain else s

def execHelloReceive (port : Nat) (h : Hello) := onSys (fun s => (helloReceive port h s).linkTrainCheck)
def execEthPortState (port : Nat) (up : Bool) := onSys (fun s => (ethPortState port up s).linkTrainCheck)

/-- LINK_TRAIN_DEADLINE. -/
def linkDeadline (s : Sys) : Sys := if s.inPhase 4 then s.endLinkTrain else s
def execLinkTrainDeadline := onSys linkDeadline

/-- LINK_TRAIN begins: the machine of every enabled port starts (R98, R460). -/
def Sys.beginLinkTrain (s : Sys) : Sys :=
  let s := s.nextPhase 4 0
  let s := runAll (fun i s => if bit (s.cfgN 0x6021 1) i then s.startPort i else s.setPort i 0) (List.range 16) s
  s.linkTrainCheck

/-! ## Stacks (R95 to R97) -/

/-- STACK_TRAIN ends when every stack is trained or has failed. -/
def Sys.stacksCheck (s : Sys) : Sys := if s.mgmt.bring.stackDone.all id then s.beginLinkTrain else s

/-- STACK_UNTRAINED: the stack stays absent until the next bring-up (R97). -/
def Sys.untrained (s : Sys) (st reason : Nat) : Sys :=
  (s.onBring (fun b => { b with stackReason := setNth b.stackReason st reason, stackDone := setNth b.stackDone st true })).disc 0x10 st reason

/-- STACK_TRAIN begins: the stacks whose slice failed its test are untrained at once (R94). -/
def Sys.beginStackTrain (s : Sys) : Sys :=
  let bad := (List.range 8).filter (fun st => nth s.mgmt.bring.stackReason st == 5)
  let s := s.onBring (fun b => { b with phase := 3, status := 0 })
  (runAll (fun st s => s.untrained st 5) bad s).stacksCheck

def Sys.stackOpen (s : Sys) (st : Nat) : Bool := s.inPhase 3 && decide (st < 8) && !(s.mgmt.bring.stackDone.getD st true)

/-- STACK_TRAINED: the stack reads zero everywhere and its scrub starts (R95, R96). -/
def stackTrained (st rows : Nat) (d : Dev) : Dev :=
  if d.sys.stackOpen st then
    let s := if rows = 0 then d.sys else d.sys.disc 0x11 st rows
    ⟨{ d.mem with
        dram := setNth d.mem.dram st { Stack.reset with trained := true }
        slices := setNth d.mem.slices st Slice.reset },
      (s.onBring (fun b => { b with stackDone := setNth b.stackDone st true })).stacksCheck⟩
  else d
def execStackTrained (stack rowsAdded : Nat) := onDev (stackTrained stack rowsAdded)

/-- STACK_TRAIN_STEP_FAILED: one of the five steps of Table 3-2. -/
def stackFailed (st reason : Nat) (s : Sys) : Sys :=
  if s.stackOpen st && [1, 2, 3, 4, 6].contains reason then (s.untrained st reason).stacksCheck else s
def execStackTrainStepFailed (stack reason : Nat) := onSys (stackFailed stack reason)

/-- STACK_TRAIN_TIMEOUT: reason 0x07 for every stack that has not finished. -/
def stackTimeout (s : Sys) : Sys :=
  if s.inPhase 3 then
    (runAll (fun st s => if s.stackOpen st then s.untrained st 7 else s) (List.range 8) s).stacksCheck
  else s
def execStackTrainTimeout := onSys stackTimeout

/-! ## CLOCK_START (R93, R94) and HOLD (R114) -/

def roleTable (s : Sys) : List (List Byte) := (List.range 16).map (fun i => s.cfg 0xF020 (i + 1))

/-- CLOCK_START_DONE: the rest of the measurement log (R667), then STACK_TRAIN, HOLD or FAILED. In HOLD the phase status shows 2,
waiting (DESIGN CHOICE, log entry 134). -/
def clockStart (r : UncoreReading) (s : Sys) : Sys :=
  if s.inPhase 2 && s.mgmt.power.refclk then
    let bad := (List.range 8).filter (bit r.sliceFail)
    let s := runAll (fun st s => (s.onBring (fun b => { b with stackReason := setNth b.stackReason st 5 })).disc 5 0x03 r.sliceArray) bad s
    if r.uncoreUnit ≠ 0 then (s.disc 5 r.uncoreUnit r.uncoreArray).failUp
    else
      let plan := s.mgmt.rel.planInForce
      let keys := roleTable s
      let s := s.measure 5 plan.number (Config.shake256 64 plan.bytes)
      let s := s.measure 6 (if s.mgmt.sec.debugOpen then 1 else 0) (zeros 64)
      let s := s.measure 7 (keys.filter (fun k => k != [])).length (Config.shake256 64 keys.flatten)
      if s.mgmt.power.bootMode % 2 = 1 then s.nextPhase 0x0F 2 else (s.nextPhase 3 0).beginStackTrain
  else s
def execClockStartDone (r : UncoreReading) := onSys (clockStart r)

/-! ## CORE_TEST and the assignment (R103 to R107) -/

/-- One site's result. -/
def Sys.siteResult (row : Nat) (c : Nat) (x : SiteReading) (s : Sys) : Sys :=
  let site := 10 * row + c
  let r := if s.mgmt.bring.good.getD site false then x.result else 0
  let s := s.onBring (fun b => { b with results := setNth b.results site r })
  if 3 ≤ r then s.disc 0x30 site r else if r = 2 then s.disc 0x31 site x.spares else s

def Sys.siteResults (row : Nat) : Nat → List SiteReading → Sys → Sys
  | _, [], s => s
  | c, x :: xs, s => Sys.siteResults row (c + 1) xs (s.siteResult row c x)

/-- The assignment in progress: the sites of numbers, and the passing sites left. -/
structure Assign where
  sites : List Nat
  free : List Nat
deriving DecidableEq, Repr

/-- Keep recorded sites that passed. -/
def Assign.keep (rec_ : List Nat) (n : Nat) (a : Assign) : Assign :=
  let x := nth rec_ n
  if a.free.contains x then ⟨setNth a.sites n x, a.free.filter (fun y => y != x)⟩ else a

def Assign.takeLow (a : Assign) (n : Nat) : Assign := ⟨setNth a.sites n (a.free.headD 65535), a.free.drop 1⟩

/-- A number without a site (R105). -/
def Sys.fillNumber (rec_ : Option (List Nat)) (n : Nat) (x : Assign × Sys) : Assign × Sys :=
  if nth x.1.sites n ≠ 65535 then x
  else
    match rec_ with
    | none => if x.1.free = [] then (x.1, x.2.disc 0x33 n 0xFFFF) else (x.1.takeLow n, x.2)
    | some l =>
      if x.2.mgmt.bring.spareSub = true ∧ x.1.free ≠ [] then
        (x.1.takeLow n, x.2.disc 0x32 n (nth l n + 65536 * x.1.free.headD 65535))
      else (x.1, x.2.disc 0x33 n (nth l n))

/-- LOGICAL_ASSIGN. -/
def Sys.assignNumbers (s : Sys) : Sys :=
  let again := s.mgmt.bring.freshAssign
  let s := if again then s.disc 0x34 0 0 else s
  let rec_ := if again then none else s.mgmt.bring.assignment
  let passing := (List.range 160).filter (fun i => let r := nth s.mgmt.bring.results i; r == 1 || r == 2)
  let a : Assign := ⟨List.replicate 144 65535, passing⟩
  let a := match rec_ with
    | some l => runAll (Assign.keep l) (List.range 144) a
    | none => a
  let x := runAll (Sys.fillNumber rec_) (List.range 144) (a, s)
  x.2.onBring (fun b => { b with coreMap := x.1.sites, spares := x.1.free })

/-- CORE_TEST_ROW: rows are tested in order; after the last one the numbers are assigned. -/
def coreTestRow (row : Nat) (l : List SiteReading) (s : Sys) : Sys :=
  if s.inPhase 5 && row == s.mgmt.bring.rowsTested && l.length == 10 && l.all (fun x => decide (1 ≤ x.result ∧ x.result ≤ 5)) then
    let s := (Sys.siteResults row 0 l s).onBring (fun b => { b with rowsTested := b.rowsTested + 1 })
    if row = 15 then s.assignNumbers.nextPhase 6 0 else s
  else s
def execCoreTestRow (row : Nat) (results : List SiteReading) := onSys (coreTestRow row results)

/-! ## CORE_POWER and CORE_ASSIGN (R107 to R111) -/

/-- POWER_WAVE: the sites of the row that hold a number. -/
def powerWave (w : Nat) (s : Sys) : Sys :=
  if s.inPhase 6 && w == s.mgmt.bring.wavesDone then
    let s := s.onBring (fun b => { b with
      powered := b.powered ++ (b.coreMap.filter (fun x => decide (x / 10 = w ∧ x < 160)))
      wavesDone := b.wavesDone + 1 })
    if w = 15 then s.nextPhase 7 0 else s
  else s
def execPowerWave (wave : Nat) := onSys (powerWave wave)

/-- The key of 0x2110 sub 0x02. -/
def resetKey : Nat := 0x2110 * 256 + 2

/-- The assignment is committed to its record, and the reset that this bring-up used is cleared with it (R107); one written
since this bring-up started stays for the next (R120). -/
def Sys.commitAssign (s : Sys) : Sys :=
  let s := s.onBring (fun b => { b with assignment := some b.coreMap })
  (if s.mgmt.bring.resetWritten then s
    else s.onDict (fun d => { d with
      store := d.store.filter (fun v => v.1 != resetKey), values := d.values.filter (fun v => v.1 != resetKey) })).journal

/-- The counts "since READY" of the object tables start at 0 (Tables 9-15, 12-12, 12-13, 14-10, 17-9 and 18-13), a port's
next training is its first since READY (R428), and the core fail map is empty (R108). -/
def Sys.startCounts (s : Sys) : Sys :=
  let s := s.onRel (fun r => { r with
    masked := rep0 30, maskedChanged := List.replicate 30 false, detected := rep0 30, siteErrors := rep0 160, failRecs := [], remaps := []
    proposals := 0 })
  let s := s.onFab (fun f => { f with
    helloCounts := setNth (setNth f.helloCounts 0 0) 1 0
    ports := f.ports.map (fun p => { p with entriesUp := 0, entriesDown := 0, counts := p.counts.map (fun _ => 0), trainedOnce := false }) })
  let s := s.onHost (fun h => { h with eth := h.eth.map (fun e => { e with entriesUp := 0, entriesDown := 0, counts := e.counts.map (fun _ => 0) }) })
  s.onCore (fun c => { c with cycles := 0, failed := [] })

def Stack.startCounts (x : Stack) : Stack :=
  { x with corrected := 0, uncorrectable := 0, poisonedReads := 0, lostPartial := 0, scrubPasses := 0, scrubCorrections := 0 }

/-- CORE_ASSIGN_COMMIT: the record is committed; READY, where counts start. -/
def coreAssign (d : Dev) : Dev :=
  if d.sys.inPhase 7 then
    ⟨{ d.mem with dram := d.mem.dram.map Stack.startCounts }, (d.sys.commitAssign.startCounts).nextPhase 8 1⟩
  else d
def execCoreAssignCommit := onDev coreAssign

end Sys2Proof.Machine
end

