-- ==== Sys2Proof/Machine/Events.lean ====
section
/-! DEFINITION. Event rings (16_partitions.md, R582 to R586) and the taking of a partition's set (R575, R576). -/

namespace Sys2Proof.Machine

open Sys2Proof

/-! ## Event rings -/

/-- The consumed value of a partition's ring; none when there is no ring or its control block cannot be read. -/
def Dev.evConsumed (d : Dev) (p : Nat) : Dev × Option Nat :=
  let q := d.sys.part p
  if q.enabled && q.evEntries != 0 && d.rangeOk p q.evAddr (64 + 32 * q.evEntries) true then
    let x := d.readRange p q.evAddr 8
    match x.poison with
    | some _ => (x.dev, none)
    | none => (x.dev, some (leNat x.data))
  else (d, none)

/-- Whether the next record fits (R584). -/
def Sys.evFits (s : Sys) (p : Nat) (consumed : Option Nat) : Bool :=
  match consumed with
  | none => false
  | some c => decide ((s.part p).nextSeq ≤ c + (s.part p).evEntries)

/-- The 32 bytes of an event record (Table 16-6). -/
def eventBytes (p code source seq : Nat) (detail : List Byte) : List Byte :=
  natLe 2 code ++ natLe 2 source ++ natLe 1 p ++ zeros 3 ++ natLe 8 seq ++ (detail ++ zeros 16).take 16

/-- Write a record into its slot with one write. -/
def Dev.evPut (d : Dev) (p code source : Nat) (detail : List Byte) : Dev :=
  let q := d.sys.part p
  let d := d.writeRange p (q.evAddr + 64 + 32 * ((q.nextSeq - 1) % q.evEntries)) (eventBytes p code source q.nextSeq detail)
  liftSys (fun s => s.onPart p (fun q => { q with nextSeq := q.nextSeq + 1 })) d

/-- A record discarded for want of room (R585). -/
def Sys.evLose (s : Sys) (p : Nat) : Sys := s.onPart p (fun q => { q with lost := q.lost + 1, lostSince := q.lostSince + 1 })

/-- EVENTS_LOST with the number lost since the last such record, and the total in the control block (R585). -/
def Dev.evTellLost (d : Dev) (p : Nat) : Dev :=
  let n := (d.sys.part p).lostSince
  let d := liftSys (fun s => s.log 0x0601 0 p 0 (natLe 8 n)) d
  let d := d.evPut p 0x0601 0 (natLe 8 n)
  let d := liftSys (fun s => s.onPart p (fun q => { q with lostSince := 0, lostTotal := q.lostTotal + n })) d
  d.writeRange p ((d.sys.part p).evAddr + 8) (natLe 8 (d.sys.part p).lostTotal)

/-- A read of the consumed value that finds room after a loss writes EVENTS_LOST first (R585). -/
def Dev.evCatchUp (d : Dev) (p : Nat) (consumed : Option Nat) : Dev :=
  if (d.sys.part p).lostSince ≠ 0 ∧ d.sys.evFits p consumed = true then d.evTellLost p else d

/-- EVENT_RECORD_WRITE: the oldest record of the queue goes to its partition's ring, or is counted as lost (R584, R585). -/
def eventRecordWrite (d : Dev) : Dev :=
  match d.sys.host.events with
  | [] => d
  | e :: rest =>
    if d.sys.mgmt.rel.mgmtStopped then d
    else
      let d := liftSys (fun s => s.onHost (fun h => { h with events := rest })) d
      if d.sys.partEnabled e.part then
        let x := d.evConsumed e.part
        let d := x.1.evCatchUp e.part x.2
        if (d.sys.part e.part).lostSince = 0 ∧ d.sys.evFits e.part x.2 = true then d.evPut e.part e.code e.source e.detail
        else liftSys (fun s => s.evLose e.part) d
      else d
def execEventRecordWrite := onDev eventRecordWrite

/-- EVENT_RING_POLL: the periodic read of the consumed value (R585). -/
def eventRingPoll (p : Nat) (d : Dev) : Dev :=
  if d.sys.partEnabled p && !d.sys.mgmt.rel.mgmtStopped && d.sys.ready then
    let x := d.evConsumed p
    x.1.evCatchUp p x.2
  else d
def execEventRingPoll (part : Nat) := onDev (eventRingPoll part)

/-! ## Taking a set (R575, R576, R582) -/

/-- Whether a set restarts the event ring. -/
def evRestarts (old new : List Byte) : Bool :=
  field old 32 8 != field new 32 8 || field old 40 4 != field new 40 4 || (field old 0 1 == 0 && field new 0 1 == 1)

/-- A partition takes its entry and stage-two table together; rings, queue pairs and the event ring follow. -/
def Dev.takeSet (d : Dev) (p : Nat) (set : PartSet) : Dev :=
  let old := (d.sys.part p).inForce.entry
  let d := liftSys (fun s => s.onPart p (fun q => { q with inForce := set, waiting := none })) d
  let d := if evRestarts old set.entry then
      let d := liftSys (fun s => s.onPart p (fun q => { q with nextSeq := 1, lostTotal := 0, lostSince := 0 })) d
      let n := 64 + 32 * field set.entry 40 4
      if field set.entry 0 1 = 1 ∧ field set.entry 40 4 ≠ 0 ∧ d.rangeOk p (field set.entry 32 8) n true = true then
        d.writeRange p (field set.entry 32 8) (zeros n)
      else d
    else d
  (liftSys (fun s => s.releaseQps p) d).ringEffects

end Sys2Proof.Machine
end

