-- ==== Sys2Proof/Machine/Queues.lean ====
section
/-! DEFINITION. Decode queues (10_thin_shapes_sieve.md, R363 to R378). -/

namespace Sys2Proof.Machine

open Sys2Proof

def Sys.queue (s : Sys) (q : Nat) : DecodeQueue := s.host.queues.getD q DecodeQueue.reset
def Sys.onQueue (s : Sys) (q : Nat) (f : DecodeQueue → DecodeQueue) : Sys :=
  s.onHost (fun h => { h with queues := modNth h.queues q f })

/-! ## Binding (Table 10-1) -/

def bindMask (b : List Byte) : Nat := field b 0 1
def bindOverride (b : List Byte) : Nat := bits (field b 0 4) 9 8
def bindK (b : List Byte) : Nat := field b 4 4
def bindDesc (b : List Byte) (st : Nat) : Nat := field b (32 + 8 * st) 8
def bindOff (b : List Byte) (st : Nat) : Nat := field b (96 + 4 * st) 4
/-- The stacks of the mask. -/
def bindStacks (b : List Byte) : List Nat := (List.range 8).filter (bit (bindMask b))
def DecodeQueue.k (q : DecodeQueue) : Nat := bindK q.binding

/-- N'(n): the smallest of 16, 32 and 64 that is at least n. -/
def padded (n : Nat) : Nat := if n ≤ 16 then 16 else if n ≤ 32 then 32 else 64
/-- The path of a batch of n vectors (R372): whether it is the array's. -/
def arrayPath (override table n : Nat) : Bool :=
  if n ≤ 8 then false else if n = 64 then true
  else if override = 1 then false else if override = 2 then true else bit table n
def anyArray (override table t : Nat) : Bool := (List.range t).any (fun i => arrayPath override table (i + 1))
/-- Nk: the largest batch up to T on the Kettle path (R364). -/
def largestKettle (override table t : Nat) : Nat :=
  (List.range t).foldl (fun m i => if arrayPath override table (i + 1) then m else i + 1) 0

/-- Staging bytes that open queues hold (R365). -/
def Sys.staged (s : Sys) : Nat := ((s.host.queues.filter DecodeQueue.isOpen).map (fun q => 4 * q.t * q.k)).sum

/-- The fields of a binding (R364). -/
def bindingOk (b : List Byte) (t : Nat) (table : Nat) : Bool :=
  bindMask b != 0 && bindOverride b != 3 && bits (field b 0 4) 31 10 == 0 && decide (32 ≤ bindK b ∧ bindK b ≤ 16384)
    && bindK b % 32 == 0 && decide (field b 8 1 ≤ 64) && resZero b 9 3
    && (field b 12 4 == 0 || decide (1800 ≤ field b 12 4 ∧ field b 12 4 ≤ 1800000000)) && resZero b 24 8
    && (anyArray (bindOverride b) table t || field b 16 8 == 0)
    && (List.range 8).all (fun st => bit (bindMask b) st || (bindDesc b st == 0 && bindOff b st == 0))

/-- Whether two half-open ranges of rows meet. -/
def rowsMeet (a n b m : Nat) : Bool := decide (0 < n ∧ 0 < m ∧ a < b + m ∧ b < a + n)

/-- DECODE_OPEN: the binding and its descriptors are checked, then copied (R365). -/
def decodeOpen (r idx : Nat) (d : Dev) : Dev :=
  match d.sys.startedCmd r idx 5 2 with
  | none => d
  | some c =>
    let p := d.sys.ringPart r
    let d := liftSys (fun s => s.begin r c.uid) d
    let a := field c.bytes 24 8
    let qn := field c.bytes 17 1
    let x := d.readRange p a 128
    match x.poison with
    | some at_ => liftSys (fun s => s.poisonKill r idx at_) x.dev
    | none =>
      let d := x.dev
      let b := x.data
      let sts := bindStacks b
      let named := sts.filter (fun st => bindDesc b st % 64 == 0 && d.rangeOk p (bindDesc b st) 64 false)
      let finish (st : Nat) (d : Dev) := liftSys (fun s => s.completeUid r c.uid st 0) d
      let sayAll (code : Nat) (l : List (Nat × Nat)) (d : Dev) : Dev :=
        runAll (fun (y : Nat × Nat) d => d.putStatus p (bindDesc b y.1) code 0 y.2) l d
      if field (d.sys.qos p) 0 1 = 0 then finish 1 (sayAll 1 (named.map (fun st => (st, 0xFFFE))) d)
      else
        match named.findSome? (fun st => d.poisonIn p (bindDesc b st) 64) with
        | some at_ => liftSys (fun s => s.poisonKill r idx at_) (d.refuse at_)
        | none =>
          let descs := named.map (fun st => (st, d.peek p (bindDesc b st) 64))
          let checks := descs.map (fun y => (y.1, d.checkDesc p c.expert true [1] y.2))
          let bad := checks.filterMap (fun y => y.2.fail.map (fun off => (y.1, off)))
          let d := liftSys (fun s => runAll (fun _ s => s.transFault p) (List.range ((checks.map (fun y => y.2.faults)).sum)) s) d
          let gs := descs.map (fun y => (y.1, GemvD.of y.2))
          let g0 := (gs.map Prod.snd).headD (GemvD.of [])
          let t := if field b 8 1 = 0 then d.sys.cfgN 0x4300 2 else field b 8 1
          let bud := if field b 12 4 = 0 then d.sys.cfgN 0x4300 3 else field b 12 4
          let table := d.sys.cfgN 0x4300 1
          let arr := anyArray (bindOverride b) table t
          let ok := !(d.sys.queue qn).isOpen && bindingOk b t table && named.length == sts.length && bad == []
            && checks.all (fun y => y.2.stack == y.1)
            && gs.all (fun y => y.2.k == bindK b && y.2.fmt == g0.fmt && y.2.mode == g0.mode && y.2.dst == g0.dst && y.2.bf16 == g0.bf16)
            && sts.all (fun st => (d.mem.stack st).trained)
            && gs.all (fun y => gs.all (fun z => y.1 == z.1 || !rowsMeet (bindOff b y.1) y.2.rows (bindOff b z.1) z.2.rows))
            && (!arr || d.rangeOk p (field b 16 8) (padded t * 2 * bindK b) true)
            && decide (4 * t * bindK b + d.sys.staged ≤ 4194304)
          if ok then
            let rows := (gs.map (fun y => bindOff b y.1 + y.2.rows)).foldl max 0
            let nk := largestKettle (bindOverride b) table t
            let take := 320 + (if g0.dst = 1 then nk * rows * g0.esz else 0)
            finish 0 (liftSys (fun s => s.onQueue qn (fun q => { q with
              isOpen := true, part := p, t := t, b := bud, binding := b, descs := descs, table := table, takeSize := take, rows := rows,
              batchSeq := 0, cur := [], released := [] })) d)
          else finish 1 (sayAll 1 bad d)
def execDecodeOpen (ring idx : Nat) := onRings (decodeOpen ring idx)

/-! ## Headers (Table 10-3) -/

def takeHeader (n pad path release seq : Nat) (tags : List Nat) : List Byte :=
  natLe 4 n ++ natLe 4 pad ++ natLe 1 path ++ natLe 1 release ++ zeros 2 ++ natLe 4 seq
    ++ ((List.range 64).map (fun i => natLe 4 (nth tags i))).flatten ++ zeros 48

/-- Hand a header to a take: written to its buffer, then its counter rises (R376). -/
def Sys.deliver (s : Sys) (t : Take) (hdr : List Byte) : Sys := (s.csWrite t.block t.buf hdr).bumpCounter t.block t.counter

/-- A batch has been delivered, or its queue is gone: a close that waited for no other completes (R366). -/
def Sys.closeDone (s : Sys) (qn take : Nat) : Sys :=
  let cs := (s.queue qn).closing.map (fun c => (c.1, c.2.1, c.2.2.filter (fun t => t != take)))
  let s := s.onQueue qn (fun q => { q with closing := cs.filter (fun c => c.2.2 != []) })
  runAll (fun (c : Nat × Nat × List Nat) s => s.completeUid c.1 c.2.1 0 0) (cs.filter (fun c => c.2.2 == [])) s

/-- DECODE_CLOSE (R366): the command completes once each claimed batch has been delivered. A queue of another partition is left as it is (log entry 24). -/
def decodeClose (r idx : Nat) (s : Sys) : Sys :=
  match s.startedCmd r idx 5 3 with
  | none => s
  | some c =>
    let qn := field c.bytes 17 1
    let q := s.queue qn
    let s := s.begin r c.uid
    if q.isOpen then
      if q.part = s.ringPart r then
        let s := runAll (fun t s => s.deliver t (takeHeader 0 0 2 2 0 [])) q.takes s
        let s := s.onQueue qn (fun q => { q with isOpen := false, cur := [], released := [], takes := [] })
        if q.claimed = [] then s.completeUid r c.uid 0 0
        else s.onQueue qn (fun q => { q with closing := q.closing ++ [(r, c.uid, q.claimed.map (fun x => x.take.id))] })
      else s.completeUid r c.uid 1 0
    else s.completeUid r c.uid 0 0
def execDecodeClose (ring idx : Nat) := onRings (liftSys (decodeClose ring idx))

/-! ## dq.push and dq.take -/

def dqNumber (i : Issue) : Nat := i.inst.mod % 16
def dqReady (i : Issue) (d : Dev) : Bool := i.act == [] || (!fenceHeld i d && d.sys.asyncRoom i.grp.gid 1)

/-- The fault of a push or a take (R368): `n` bytes at register A. -/
def dqBad (size : DecodeQueue → Nat) (i : Issue) (d : Dev) : Option Nat :=
  if i.act = [] then none
  else
    let q := d.sys.queue (dqNumber i)
    let a := leadReg i i.inst.a
    let k := leadReg i i.inst.d
    if !(q.isOpen && q.part == i.blk.part) then some 0x0103
    else if a % 16 = 0 ∧ i.blk.csOk a (size q) = true ∧ i.blk.counterOk k = true ∧ overlaps k 4 a (size q) = false then none
    else some 0x0101

def dqPushBody (i : Issue) (s : Sys) : Sys :=
  if i.act = [] then s
  else
    let q := s.queue (dqNumber i)
    let a := leadReg i i.inst.a
    (s.onQueue (dqNumber i) (fun x => { x with
      pushes := x.pushes ++ [⟨s.core.nextId, i.grp.gid, i.blk.id, i.blk.part, a, leadReg i i.inst.d, leadReg i i.inst.b,
        s.csRead i.blk.id a (2 * q.k)⟩] })).onCore (fun c => { c with nextId := c.nextId + 1 })
def runDqPush (g : Gid) : Dev → Dev := issueCs 0x8C g dqReady (dqBad (fun q => 2 * q.k)) (fun i => liftSys (dqPushBody i))

def dqTakeBody (i : Issue) (s : Sys) : Sys :=
  if i.act = [] then s
  else
    (s.onQueue (dqNumber i) (fun x => { x with
      takes := x.takes ++ [⟨s.core.nextId, i.grp.gid, i.blk.id, i.blk.part, leadReg i i.inst.a, leadReg i i.inst.d⟩] })).onCore
        (fun c => { c with nextId := c.nextId + 1 })
def runDqTake (g : Gid) : Dev → Dev := issueCs 0x8D g dqReady (dqBad DecodeQueue.takeSize) (fun i => liftSys (dqTakeBody i))

/-! ## At the router (R371 to R373) -/

/-- The next arrival among waiting requests: each group's own order holds, the order between groups is open (R371, R373). -/
def arrival {α : Type} (gid : α → Gid) (ctr : Nat) (l : List α) : Option α :=
  let heads := (List.range l.length).filterMap (fun i =>
    match l[i]? with
    | some x => if (l.take i).any (fun y => gid y == gid x) then none else some x
    | none => none)
  heads[Config.freeNat ctr % max 1 heads.length]?

/-- Accepted vectors not yet delivered. -/
def DecodeQueue.held (q : DecodeQueue) : Nat :=
  q.cur.length + (q.released.map (fun b => b.vecs.length)).sum + (q.claimed.map (fun c => c.batch.vecs.length)).sum

/-- BATCH_RELEASE with its cause. -/
def DecodeQueue.release (q : DecodeQueue) (cause : Nat) : DecodeQueue :=
  { q with
    released := q.released ++ [⟨q.batchSeq, cause, q.cur⟩]
    cur := []
    batchSeq := (q.batchSeq + 1) % 2 ^ 32
    nThreshold := if cause = 0 then q.nThreshold + 1 else q.nThreshold
    nBudget := if cause = 1 then q.nBudget + 1 else q.nBudget }

/-- PUSH_ACCEPT: the vector joins the batch, each byte as pushed or as it stands now (R369, R245); the T-th releases it. -/
def pushAccept (qn : Nat) (s : Sys) : Sys :=
  let q := s.queue qn
  let live := q.pushes.filter (fun x => x.part == q.part && x.data.length == 2 * q.k
    && (match s.blk x.block with
        | some b => !s.dying b.part b.ring
        | none => false))
  match arrival Push.gid s.freeCtr live with
  | none => s
  | some x =>
    if q.isOpen && s.ready && decide (q.held < 2 * q.t) then
      let data := mixBytes (s.freeCtr + 1) x.data (s.csRead x.block x.cs x.data.length)
      let s := (s.drew (1 + data.length)).onQueue qn (fun q =>
        let q := { q with pushes := q.pushes.filter (fun y => y.id != x.id), cur := q.cur ++ [⟨x.tag, data⟩] }
        if q.cur.length = q.t then q.release 0 else q)
      s.bumpCounter x.block x.counter
    else s
def execPushAccept (queue : Nat) := onSys (pushAccept queue)

/-- BATCH_BUDGET_EXPIRY (R371). -/
def batchBudget (qn : Nat) (s : Sys) : Sys :=
  let q := s.queue qn
  if q.isOpen && s.ready && q.cur != [] then s.onQueue qn (fun q => q.release 1) else s
def execBatchBudgetExpiry (queue : Nat) := onSys (batchBudget queue)

/-- Groups of up to v vectors, with the number of the first of each. -/
def vecGroups (v : Nat) : Nat → Nat → List PushVec → List (Nat × List (List Byte))
  | 0, _, _ => []
  | f + 1, i, l => if l = [] then [] else (i, (l.take v).map PushVec.data) :: vecGroups v f (i + v) (l.drop v)

/-- The tasks of a batch on the Kettle path (R374), in batch order on each stack. -/
def DecodeQueue.batchTasks (q : DecodeQueue) (qn : Nat) (c : Claimed) (first : Nat) : List KTask :=
  let xs := q.descs.flatMap (fun y =>
    (vecGroups (GemvD.of y.2).v (c.batch.vecs.length + 1) 0 c.batch.vecs).map (fun g => (y, g)))
  (List.range xs.length).filterMap (fun i => xs[i]?.map (fun x =>
    { id := first + i, owner := 1, part := q.part, ring := 0, idx := 0, uid := c.take.id, queue := qn, order := x.2.1, stack := x.1.1,
      kind := 1, barrier := false, addr := bindDesc q.binding x.1.1, desc := x.1.2, shard := [], coef := [], setting := 0,
      target := 0, vectors := x.2.2, firstVec := x.2.1, phase := 0, attempts := 0, status := 0, snap := [], under := [] }))

/-- TAKE_CLAIM: a take claims the oldest released batch, and its work begins (R373 to R375). -/
def takeClaim (qn : Nat) (d : Dev) : Dev :=
  let q := d.sys.queue qn
  let takes := q.takes.filter (fun x => match d.sys.blk x.block with
    | some b => !d.sys.dying b.part b.ring
    | none => false)
  match q.released, arrival Take.gid d.sys.freeCtr takes with
  | bt :: rest, some x =>
    if q.isOpen && d.sys.ready then
      let n := bt.vecs.length
      let arr := arrayPath (bindOverride q.binding) q.table n
      let c : Claimed := ⟨x, bt, if arr then 1 else 0, 0, [], q.binding, q.rows⟩
      let d := liftSys (fun s => (s.drew 1).onQueue qn (fun q => { q with
        released := rest
        takes := q.takes.filter (fun y => y.id != x.id)
        claimed := q.claimed ++ [c]
        nKettle := if arr then q.nKettle else q.nKettle + 1 })) d
      if arr then
        let a := field q.binding 16 8
        d.writeRange q.part a ((bt.vecs.map PushVec.data).flatten ++ zeros ((padded n - n) * 2 * q.k))
      else
        liftSys (fun s =>
          let ts := q.batchTasks qn c s.host.nextTask
          s.onHost (fun h => { h with tasks := h.tasks ++ ts, nextTask := h.nextTask + ts.length })) d
    else d
  | _, _ => d
def execTakeClaim (queue : Nat) := onDev (takeClaim queue)

/-- TAKE_HEADER_WRITE: after all results, the header and then the counter (R374, R376). The buffer of a killed block is gone
(Table 10-4). -/
def takeHeaderWrite (qn take : Nat) (s : Sys) : Sys :=
  let q := s.queue qn
  match q.claimed.find? (fun c => c.take.id == take) with
  | none => s
  | some c =>
    let mine := s.host.tasks.filter (fun t => t.owner == 1 && t.queue == qn && t.uid == take)
    let b := s.blk c.take.block
    if s.ready && mine.all (fun t => t.phase == 3) && (mine.all (fun t => t.status == 0) || b.isNone) then
      let n := c.batch.vecs.length
      let hdr := takeHeader n (if c.path = 1 then padded n else 0) c.path c.batch.release c.batch.seq (c.batch.vecs.map PushVec.tag)
      let s := runAll (fun (r : Nat × List Byte) s => s.csWrite c.take.block (c.take.buf + r.1) r.2) c.results s
      let s := s.deliver c.take hdr
      ((s.onHost (fun h => { h with tasks := h.tasks.filter (fun t => !(t.owner == 1 && t.queue == qn && t.uid == take)) })).onQueue qn
        (fun q => { q with claimed := q.claimed.filter (fun x => x.take.id != take) })).closeDone qn take
    else s
def execTakeHeaderWrite (queue take : Nat) := onRings (liftSys (takeHeaderWrite queue take))

end Sys2Proof.Machine
end

