-- ==== Sys2Proof/Machine/Issue.lean ====
section
/-! DEFINITION. Which group of a quarter issues (R179, R180): the meaning of each core instruction's row, which issues only for the group
that the issue policy picks. -/

namespace Sys2Proof.Machine

open Sys2Proof

/-- Whether the unit that an instruction needs can accept it (R179). -/
def unitReady (i : Issue) (d : Dev) : Bool :=
  match i.inst.op with
  | 0x60 | 0x61 | 0x81 => csReady i d
  | 0x62 => ldGReady i d
  | 0x63 => stGReady i d
  | 0x70 => fenceOk (fenceScope i.inst) i d
  | 0x74 => joinOk i d
  | 0x78 => atomGReady i d
  | 0x79 => atomOk true i d
  | 0x80 => dmaReady i d
  | 0x88 | 0x89 => mxReady i d
  | 0x8A => mxWaitReady i d
  | 0x8C | 0x8D => dqReady i d
  | 0x90 | 0x91 | 0x92 | 0x93 | 0x94 | 0x95 => fabReady i d
  | 0x96 => fabFenceReady i d
  | _ => true

/-- Whether a group is eligible to issue (R179): its next instruction could issue, or is no instruction and faults. -/
def Dev.eligible (d : Dev) (g : Group) : Bool :=
  match d.sys.prepare (((d.sys.nextInst g).map CoreInst.op).getD 0) g.gid with
  | .no => false
  | .fault _ _ => true
  | .go i => unitReady i d

/-- Whether the issue policy lets a group issue: no other eligible group of its quarter goes before it (R180). -/
def Dev.picked (d : Dev) (gid : Gid) : Bool :=
  match d.sys.core.group? gid with
  | none => false
  | some g => d.sys.core.groups.all (fun k =>
      k.gid == gid || !(k.gid.core == gid.core && k.gid.quarter == gid.quarter && d.sys.before k g && d.eligible k))

/-- The issue of the next instruction of the picked group. -/
def issuePicked (gid : Gid) (run : Gid → Dev → Dev) (d : Dev) : Dev := if d.picked gid then run gid d else d

/-! ## Tables 5-8, 5-9 and 5-11 -/

def execAdd (g : Gid) := onDev (issuePicked g runAdd)
def execSub (g : Gid) := onDev (issuePicked g runSub)
def execMul (g : Gid) := onDev (issuePicked g runMul)
def execMulhi (g : Gid) := onDev (issuePicked g runMulhi)
def execMad (g : Gid) := onDev (issuePicked g runMad)
def execFma (g : Gid) := onDev (issuePicked g runFma)
def execMin (g : Gid) := onDev (issuePicked g runMin)
def execMax (g : Gid) := onDev (issuePicked g runMax)
def execAnd (g : Gid) := onDev (issuePicked g runAnd)
def execOr (g : Gid) := onDev (issuePicked g runOr)
def execXor (g : Gid) := onDev (issuePicked g runXor)
def execNot (g : Gid) := onDev (issuePicked g runNot)
def execShl (g : Gid) := onDev (issuePicked g runShl)
def execShr (g : Gid) := onDev (issuePicked g runShr)
def execPopc (g : Gid) := onDev (issuePicked g runPopc)
def execClz (g : Gid) := onDev (issuePicked g runClz)
def execAbs (g : Gid) := onDev (issuePicked g runAbs)
def execNeg (g : Gid) := onDev (issuePicked g runNeg)
def execRcp (g : Gid) := onDev (issuePicked g runRcp)
def execSqrt (g : Gid) := onDev (issuePicked g runSqrt)
def execDiv (g : Gid) := onDev (issuePicked g runDiv)
def execEx2 (g : Gid) := onDev (issuePicked g runEx2)
def execLg2 (g : Gid) := onDev (issuePicked g runLg2)
def execSin (g : Gid) := onDev (issuePicked g runSin)
def execCos (g : Gid) := onDev (issuePicked g runCos)
def execCvt (g : Gid) := onDev (issuePicked g runCvt)
def execSetp (g : Gid) := onDev (issuePicked g runSetp)
def execSelp (g : Gid) := onDev (issuePicked g runSelp)
def execPlog (g : Gid) := onDev (issuePicked g runPlog)
def execMov (g : Gid) := onDev (issuePicked g runMov)
def execMovhi (g : Gid) := onDev (issuePicked g runMovhi)
def execRdsr (g : Gid) := onDev (issuePicked g runRdsr)
def execVote (g : Gid) := onDev (issuePicked g runVote)
def execShfl (g : Gid) := onDev (issuePicked g runShfl)
def execBra (g : Gid) := onDev (issuePicked g runBra)
def execCall (g : Gid) := onDev (issuePicked g runCall)
def execRet (g : Gid) := onDev (issuePicked g runRet)
def execExit (g : Gid) := onDev (issuePicked g runExit)
def execNop (g : Gid) := onDev (issuePicked g runNop)

/-! ## Tables 5-4 and 5-10 -/

def execLdC (g : Gid) := onDev (issuePicked g runLdC)
def execStC (g : Gid) := onDev (issuePicked g runStC)
def execLdG (g : Gid) := onDev (issuePicked g runLdG)
def execStG (g : Gid) := onDev (issuePicked g runStG)
def execFenceGrp (g : Gid) := onDev (issuePicked g runFenceGrp)
def execFenceBlk (g : Gid) := onDev (issuePicked g runFenceBlk)
def execFenceDev (g : Gid) := onDev (issuePicked g runFenceDev)
def execFenceSys (g : Gid) := onDev (issuePicked g runFenceSys)
def execBlkJoin (g : Gid) := onDev (issuePicked g runBlkJoin)
def execAtomC (g : Gid) := onDev (issuePicked g runAtomC)
def execAtomG (g : Gid) := onDev (issuePicked g runAtomG)
def execDmaCs (g : Gid) := onDev (issuePicked g runDmaCs)
def execArrWait (g : Gid) := onDev (issuePicked g runArrWait)

/-! ## The matrix array -/

def execMxaIssue (g : Gid) := onDev (issuePicked g runMxaIssue)
def execMxaDrain (g : Gid) := onDev (issuePicked g runMxaDrain)
def execMxaWait (g : Gid) := onDev (issuePicked g runMxaWait)

/-! ## `fab.*` -/

def execFabGet (g : Gid) := onDev (issuePicked g runFabGet)
def execFabPut (g : Gid) := onDev (issuePicked g runFabPut)
def execFabMput (g : Gid) := onDev (issuePicked g runFabMput)
def execFabRed (g : Gid) := onDev (issuePicked g runFabRed)
def execFabAtom (g : Gid) := onDev (issuePicked g runFabAtom)
def execFabPutFlag (g : Gid) := onDev (issuePicked g runFabPutFlag)
def execFabFence (g : Gid) := onDev (issuePicked g runFabFence)

/-! ## Decode queues -/

def execDqPush (g : Gid) := onDev (issuePicked g runDqPush)
def execDqTake (g : Gid) := onDev (issuePicked g runDqTake)

end Sys2Proof.Machine
end

