-- ==== Sys2Proof/Machine/Launch.lean ====
section
/-! DEFINITION. Grids and blocks (05_cores_thread_groups.md, R170 to R177, R620, R708). -/

namespace Sys2Proof.Machine

open Sys2Proof

/-! ## LAUNCH -/

/-- A core of a partition that is present and not failed (R173). -/
def Sys.coreUsable (s : Sys) (p core : Nat) : Bool :=
  decide (core < 144) && (s.part p).hasCore core && s.siteOf core != 65535 && !s.core.failed.contains core

def groupCount (threads : Nat) : Nat := (threads + 31) / 32

/-- Whether a block could be resident on an empty core (R172, R174, Table 5-1). -/
def fitsEmpty (threads regsPer cs acc : Nat) : Bool :=
  let perQuarter := (groupCount threads + 3) / 4
  decide (perQuarter ≤ 12 ∧ perQuarter * 32 * regsPer ≤ 16384 ∧ cs ≤ 524288 ∧ acc ≤ 256)

/-- LAUNCH: the last checks, then the grid's blocks are ready for placement (R174, R175). -/
def launch (r idx : Nat) (s : Sys) : Sys :=
  match s.startedCmd r idx 1 0 with
  | none => s
  | some c =>
    let p := s.ringPart r
    let b := c.bytes
    let fits := fitsEmpty (field b 32 2) (field b 34 2) (field b 36 4) (field b 40 2)
    if field b 28 4 = 0 then s.completeUid r c.uid 0 0
    else if fits = false ∨ (List.range 144).any (s.coreUsable p) = false then s.completeUid r c.uid 1 0
    else (s.begin r c.uid).onCore (fun k => { k with grids := k.grids ++ [
      { uid := c.uid, part := p, ring := r, cmd := idx, codeAddr := field b 16 8, codeBytes := field b 24 4,
        blocks := field b 28 4, threads := field b 32 2, regsPer := field b 34 2, csBytes := field b 36 4,
        accN := field b 40 2, argAddr := field b 48 8, nextBlock := 0, ended := 0, images := [] }] })
def execLaunch (ring idx : Nat) := onRings (liftSys (launch ring idx))

/-! ## BLOCK_PLACE -/

/-- The quarter and slot of each group of a block, from the slots named (R171). -/
def placeOf (core : Nat) (slots : List Nat) : List Gid :=
  (List.range slots.length).map (fun j => ⟨core, j % 4, nth slots j⟩)

/-- The registers of a quarter that its resident groups hold. -/
def Sys.regsUsed (s : Sys) (core q : Nat) : Nat :=
  ((s.core.groups.filter (fun g => g.gid.core == core && g.gid.quarter == q)).map (fun g => 32 * s.limitOf g)).sum

/-- Bytes of a core's instruction store that the grids with a block on it hold. -/
def Sys.codeOn (s : Sys) (uid core : Nat) : Nat :=
  ((s.core.grids.filter (fun g => g.uid != uid && s.core.blocks.any (fun b => b.core == core && b.uid == g.uid))).map Grid.codeBytes).sum

/-- Room for a block on a core (R170, R172, R708): free, distinct slots, registers, core store, granules, block count, and 64 KiB of
instruction store for the images of its grids (Table 5-1). -/
def Sys.roomFor (s : Sys) (g : Grid) (core : Nat) (slots : List Nat) : Bool :=
  let n := groupCount g.threads
  let places := placeOf core slots
  let res := s.core.blocks.filter (fun b => b.core == core)
  slots.length == n && slots.all (fun t => decide (t < 12)) && decide places.Nodup
    && places.all (fun x => !s.core.groups.any (fun k => k.gid == x))
    && (List.range 4).all (fun q =>
        decide (s.regsUsed core q + 32 * g.regsPer * (places.filter (fun x => x.quarter == q)).length ≤ 16384))
    && decide ((res.map Block.csBytes).sum + g.csBytes ≤ 524288) && decide ((res.map Block.accN).sum + g.accN ≤ 256)
    && decide (res.length < 16) && decide (s.codeOn g.uid core + g.codeBytes ≤ 65536)

/-- A thread's registers at its first instruction (R620): lane × 256 + register. -/
def initialRegs (gidx bidx arg core : Nat) : NMap :=
  (List.range 32).foldl (fun m l =>
    ([(0, 32 * gidx + l), (1, bidx), (2, arg % 2 ^ 32), (3, arg / 2 ^ 32), (4, core)] : List (Nat × Nat)).foldl
      (fun m kv => NMap.set m (l * 256 + kv.1) kv.2) m) []

/-- The threads of group `j` of a block that exist (R171). -/
def liveMask (threads j : Nat) : BitVec 32 := BitVec.ofNat 32 (2 ^ min 32 (threads - 32 * j) - 1)

def newGroup (block threads bidx arg : Nat) (gid : Gid) (j : Nat) : Group where
  gid := gid
  block := block
  gidx := j
  pc := 0
  mask := liveMask threads j
  live := liveMask threads j
  stop := none
  stack := []
  parked := []
  wait := .none
  reported := false
  regs := initialRegs j bidx arg gid.core
  preds := List.replicate 7 0
  busy := []
  lastIssue := 0
  wpc := 0

/-- The 64-bit instruction words of a code image. -/
def codeWords (bs : List Byte) : List DWord :=
  (List.range (bs.length / 8)).map (fun k => BitVec.ofNat 64 (field bs (8 * k) 8))

/-- The image on a core: copied by an earlier block of the grid, or read now (R176). -/
def Dev.imageOn (d : Dev) (g : Grid) (core : Nat) : Dev × Option (Nat × Nat) × List DWord :=
  match g.images.find? (fun x => x.1 == core) with
  | some x => (d, none, x.2)
  | none =>
    let x := d.readRange g.part g.codeAddr g.codeBytes
    (x.dev, x.poison, codeWords x.data)

def Sys.onGrid (s : Sys) (uid : Nat) (f : Grid → Grid) : Sys :=
  s.onCore (fun c => { c with grids := c.grids.map (fun g => if g.uid == uid then f g else g) })

/-- A block becomes resident: its store reads as zero and its granules are empty (R221, R257). -/
def Sys.place (s : Sys) (g : Grid) (core : Nat) (slots : List Nat) (code : List DWord) : Sys :=
  let id := s.core.nextId
  let b : Block :=
    { id := id, uid := g.uid, part := g.part, ring := g.ring, cmd := g.cmd, core := core, bidx := g.nextBlock
      threads := g.threads, regsPer := g.regsPer, csBytes := g.csBytes, accN := g.accN, code := code, store := [], acc := []
      tags := [], sums := [], barrier := none }
  let places := placeOf core slots
  let gs := (List.range places.length).map (fun j =>
    newGroup id g.threads g.nextBlock g.argAddr (places.getD j ⟨core, 0, 0⟩) j)
  (s.onCore (fun c => { c with nextId := c.nextId + 1, blocks := c.blocks ++ [b], groups := c.groups ++ gs })).onGrid g.uid
    (fun x => { x with nextBlock := x.nextBlock + 1
                       images := if x.images.any (fun k => k.1 == core) then x.images else x.images ++ [(core, code)] })

/-- BLOCK_PLACE: the grid's next block goes to a core with room (R172, R173, R708). -/
def blockPlace (uid core : Nat) (slots : List Nat) (d : Dev) : Dev :=
  match d.sys.core.grids.find? (fun g => g.uid == uid) with
  | none => d
  | some g =>
    let s := d.sys
    if s.coreRuns && !s.unitStopped 0x0F 0 && !s.resetting g.part && !s.dying g.part g.ring && decide (g.nextBlock < g.blocks)
        && s.coreUsable g.part core && s.roomFor g core slots && d.rangeOk g.part g.codeAddr g.codeBytes false then
      match d.imageOn g core with
      | (d, some at_, _) => liftSys (fun s => s.poisonKill g.ring g.cmd at_) d
      | (d, none, code) => liftSys (fun s => s.place g core slots code) d
    else d
def execBlockPlace (grid core : Nat) (slots : List Nat) := onRings (blockPlace grid core slots)

/-! ## BLOCK_END -/

/-- Every thread has exited, and no copy, matrix, fabric or decode operation of the block is outstanding (R177, R370, R471). -/
def Sys.blockDone (s : Sys) (b : Block) : Bool :=
  !s.core.groups.any (fun g => g.block == b.id) && !s.core.copies.any (fun c => c.block == b.id)
    && !s.core.mq.any (fun o => o.block == b.id)
    && !s.fab.ops.any (fun o => o.owner == 0 && o.block == b.id)
    && !s.fab.fences.any (fun f => !f.isCmd && f.block == b.id)
    && !s.host.queues.any (fun q => q.pushes.any (fun x => x.block == b.id) || q.takes.any (fun x => x.block == b.id)
          || q.claimed.any (fun x => x.take.block == b.id))

/-- BLOCK_END: the block's resources are free, and the last block ends its grid (R177). -/
def blockEnd (id : Nat) (s : Sys) : Sys :=
  match s.core.block? id with
  | none => s
  | some b =>
    if s.coreRuns && !s.dying b.part b.ring && s.blockDone b then
      let s := (s.onCore (fun c => { c with
        blocks := c.blocks.filter (fun x => x.id != id), csPend := c.csPend.filter (fun x => x.block != id) })).onGrid b.uid
        (fun g => { g with ended := g.ended + 1 })
      match s.core.grids.find? (fun g => g.uid == b.uid) with
      | none => s
      | some g =>
        if g.ended = g.blocks then
          (s.onCore (fun c => { c with grids := c.grids.filter (fun x => x.uid != b.uid) })).completeUid b.ring b.uid 0 0
        else s
    else s
def execBlockEnd (block : Nat) := onRings (liftSys (blockEnd block))

end Sys2Proof.Machine
end

