-- ==== Sys2Proof/Machine/Power.lean ====
section
/-! DEFINITION. Power, reset pins, the power-cap and thermal loops and the lasers (02_package_power_signals.md, R41 to R79,
R700; the reference clock, R73 and R93). -/

namespace Sys2Proof.Machine

open Sys2Proof

/-! ## Pins (R66, R70, R79, Table 2-4) -/

/-- The level a signal of Table 2-4 shows: not driven, low or high. -/
inductive Pin where
  | highZ | low | high
deriving DecidableEq, Repr

/-- At rest: unpowered, or with RESET_N held low (R66). -/
def PowerState.atRest (p : PowerState) : Bool := !p.stages || p.resetLow
/-- PGOOD is driven low while powered with an always-on rail out of regulation, and not driven at rest (R70). -/
def PowerState.pgoodPin (p : PowerState) : Pin := if p.atRest then .highZ else if p.pgood then .high else .low
/-- THERMTRIP_N, open drain: pulled low from a trip until the stages stop, RESET_N or not (R59, R689). -/
def PowerState.thermtripPin (p : PowerState) : Pin := if p.thermtripLow then .low else .highZ
/-- Whether MGT_TP and MGT_TN load the mixing segment: not at rest (R66). -/
def PowerState.mgtOnSegment (p : PowerState) : Bool := p.mgmtRail && !p.atRest
/-- The PLCA node ID on the mixing segment, 1 to 64: never the coordinator, node 0 (R75). -/
def PowerState.plcaNode (p : PowerState) : Nat := p.slotId % 64 + 1

/-! ## VIN48 (R42 to R46) -/

/-- VIN48_START: from 42.0 V the stages run, with the input current limited. -/
def vin48Start (mv : Nat) (s : Sys) : Sys :=
  if !s.mgmt.power.stages && !s.mgmt.power.overvolt && decide (42000 ≤ mv ∧ mv ≤ 58000) then
    s.onPower (fun p => { p with stages := true, rampLimit := true })
  else s
def execVin48Start (mv : Nat) := onSys (vin48Start mv)

/-- VIN48_UNDERVOLTAGE_STOP: at 40.0 V the stages stop. -/
def vin48Under (mv : Nat) (d : Dev) : Dev := if d.sys.mgmt.power.stages && decide (mv ≤ 40000) then d.powerLoss else d
def execVin48UndervoltageStop (mv : Nat) := onDev (vin48Under mv)

/-- VIN48_OVERVOLTAGE_STOP: above 58.0 V the stages stop. Above 60.0 V nothing is said of the device (R2, R44). -/
def vin48Over (mv : Nat) (d : Dev) : Dev :=
  if d.sys.mgmt.power.stages && decide (58000 < mv) then
    liftSys (fun s => s.onPower (fun p => { p with overvolt := true })) d.powerLoss
  else d
def execVin48OvervoltageStop (mv : Nat) (s : State) : Host.Outcome State Fault Refusal :=
  if 60000 < mv then .fault .beyondAbsoluteMaximum else onDev (vin48Over mv) s

/-- VIN48_OVERVOLTAGE_CLEAR: below 57.0 V the stages start again from power-on. -/
def vin48Clear (mv : Nat) (s : Sys) : Sys :=
  if s.mgmt.power.overvolt && decide (mv < 57000) then
    s.onPower (fun p => { p with overvolt := false, stages := decide (40000 < mv), rampLimit := decide (40000 < mv) })
  else s
def execVin48OvervoltageClear (mv : Nat) := onSys (vin48Clear mv)

/-! ## Rails, straps and resets (R46, R70 to R79) -/

/-- STRAP_SAMPLE. -/
def PowerState.sample (p : PowerState) (slot boot : Nat) : PowerState := { p with slotId := slot % 64, bootMode := boot % 4 }

/-- MANAGEMENT_RAIL_UP: the island starts, the straps are sampled, and a challenge is drawn (R74, R672). -/
def managementRail (slot boot : Nat) (s : Sys) : Sys :=
  if s.mgmt.power.stages && !s.mgmt.power.mgmtRail then
    let c := s.freeBytes 32
    ((s.drew 32).onSec (fun k => { k with challenge := c })).onPower (fun p => { p.sample slot boot with mgmtRail := true, rampLimit := false })
  else s
def execManagementRailUp (slotId bootMode : Nat) := onSys (managementRail slotId bootMode)

/-- PGOOD goes high and bring-up starts from a device after reset (R70, R82). -/
def Dev.startUp (d : Dev) : Dev :=
  liftSys (fun s => (s.onPower (fun p => { p with pgood := true })).bringUpStart) d.deviceReset

/-- ALWAYS_ON_RAILS_UP; with RESET_N low PGOOD waits (R70). -/
def alwaysOn (d : Dev) : Dev :=
  if d.sys.mgmt.power.mgmtRail && !d.sys.mgmt.power.rails then
    let d := liftSys (fun s => s.onPower (fun p => { p with rails := true })) d
    if d.sys.mgmt.power.resetLow then d else d.startUp
  else d
def execAlwaysOnRailsUp := onDev alwaysOn

/-- RESET_N_LOW: from 10 µs a device reset; below 1 µs nothing; between the two, either (R71, R79). The outputs are at rest
while it lasts (R66). -/
def resetNLow (ns : Nat) (d : Dev) : Dev :=
  let acts := decide (10000 ≤ ns) || (decide (1000 ≤ ns) && d.sys.freeBool)
  let d := liftSys (fun s => s.drew 1) d
  if acts && !d.sys.mgmt.power.resetLow then
    let d := if d.sys.mgmt.power.mgmtRail then d.deviceReset else d
    liftSys (fun s => s.onPower (fun p => { p with resetLow := true, pgood := false })) d
  else d
def execResetNLow (ns : Nat) := onDev (resetNLow ns)

/-- RESET_N_RISE: the straps are sampled again and bring-up starts (R79, R82). -/
def resetNRise (slot boot : Nat) (d : Dev) : Dev :=
  if d.sys.mgmt.power.resetLow then
    let d := liftSys (fun s => s.onPower (fun p => { p with resetLow := false })) d
    if d.sys.mgmt.power.mgmtRail then
      let d := liftSys (fun s => s.onPower (fun p => p.sample slot boot)) d
      if d.sys.mgmt.power.rails then d.startUp else d
    else d
  else d
def execResetNRise (slotId bootMode : Nat) := onDev (resetNRise slotId bootMode)

/-- REFCLK_VALID: the wait of CLOCK_START ends (R73). -/
def refclkValid (s : Sys) : Sys :=
  (s.onPower (fun p => { p with refclk := true })).onBring (fun b =>
    if b.phase = 2 ∧ b.status = 2 then { b with status := 0 } else b)
def execRefclkValid := onSys refclkValid

/-- REFCLK_LATE: once in a bring-up (R93). -/
def refclkLate (s : Sys) : Sys :=
  if s.mgmtUp && s.mgmt.power.pgood && !s.mgmt.power.refclk && !s.mgmt.bring.discs.any (fun x => x.kind == 4) then s.disc 4 0 0 else s
def execRefclkLate := onSys refclkLate

/-! ## The power-cap and thermal loops (R52 to R58) -/

/-- The loops act from the end of CLOCK_START (R89). -/
def Sys.loopsRun (s : Sys) : Bool := s.mgmtUp && (decide (3 ≤ s.mgmt.bring.phase ∧ s.mgmt.bring.phase ≤ 8) || s.mgmt.bring.phase == 0x0F)

def f32At (c : F32) (n : Int) : Bool := (val32 c.toNat).cmp (Num.ofInt n) == some 0 || (val32 c.toNat).cmp (Num.ofInt n) == some 1
def f32Below (c : F32) (n : Int) : Bool := (val32 c.toNat).cmp (Num.ofInt n) == some (-1)

/-- Whether the window in progress has all its samples: the procedure of R52 tests it after it has taken a sample. -/
def Sys.windowFull (s : Sys) : Bool := s.mgmt.power.windowDue

/-- The step of the power cap after a sample of `mw`. At step 8 every sample above the cap is counted and entered in the error
log; the event goes to the rings once in a window (R53). The detail holds whole watts (log entry 117). -/
def Sys.capSample (s : Sys) (mw : Nat) : Sys :=
  let cap := s.cfgN 0x2010 1
  let p := s.mgmt.power
  let det := natLe 4 cap ++ natLe 4 (mw / 1000)
  if mw ≤ 1000 * cap then s
  else if p.capStep > 8 then s.onPower (fun p => { p with capStep := p.capStep - 1 })
  else
    let s := s.onPower (fun p => { p with nCapUnmet := min (p.nCapUnmet + 1) (2 ^ 64 - 1), capEventSent := true })
    if p.capEventSent then s.log 0x0710 0 255 (eventClass 0x0710) det else s.raiseAll 0x0710 0 det

/-- POWER_SAMPLE. -/
def powerSample (r : PowerReading) (s : Sys) : Sys :=
  if s.loopsRun && !s.windowFull && r.temps.length == 15 then
    let s := s.onPower (fun p => { p with
      mv := r.mv, ma := r.ma, temps := r.temps, total := p.total + r.milliwatts, samples := p.samples + 1, peakNow := max p.peakNow r.milliwatts
      windowDue := decide ((p.samples + 1) * 4000 ≥ s.cfgN 0x2010 2)
      cool := p.cool && r.temps.all (fun t => f32Below t 97)
      thermStep := if r.temps.any (fun t => f32At t 100) ∧ p.thermStep > 8 then p.thermStep - 1 else p.thermStep })
    s.capSample r.milliwatts
  else s
def execPowerSample (r : PowerReading) := onSys (powerSample r)

/-- RAISE_WINDOW_END. The average is that of the samples in whole milliwatts, and 0x2000 shows whole watts, rounded down (DESIGN
CHOICE, log entry 117). -/
def raiseWindow (s : Sys) : Sys :=
  let p := s.mgmt.power
  if s.loopsRun && s.windowFull && p.samples != 0 then
    let cap := s.cfgN 0x2010 1
    let hot := decide (p.thermStep < 32)
    let low := decide (s.appliedStep < 32)
    let s := s.onPower (fun p => { p with
      avgMw := p.total / p.samples, peakMw := p.peakNow, total := 0, samples := 0, peakNow := 0, cool := true, capEventSent := false, windowDue := false
      capStep := if p.total ≤ 970 * cap * p.samples ∧ p.capStep < 32 then p.capStep + 1 else p.capStep
      thermStep := if p.cool ∧ p.thermStep < 32 then p.thermStep + 1 else p.thermStep
      wasThrottled := hot
      nThermal := if hot then min (p.nThermal + 1) (2 ^ 64 - 1) else p.nThermal
      nThrottled := if low then min (p.nThrottled + 1) (2 ^ 64 - 1) else p.nThrottled })
    if hot && !p.wasThrottled then s.raiseAll 0x0711 0 (natLe 1 p.thermStep) else s
  else s
def execRaiseWindowEnd := onSys raiseWindow

/-- THERMAL_TRIP: the comparator of a powered island, which needs no firmware (R59, R89). -/
def thermalTrip (sensor : Nat) (celsius : F32) (s : Sys) : Sys :=
  if s.mgmt.power.mgmtRail && decide (sensor < 15) && f32At celsius 115 then s.onPower (fun p => { p with thermtripLow := true }) else s
def execThermalTrip (sensor : Nat) (celsius : F32) := onSys (thermalTrip sensor celsius)

/-! ## Lasers (R62, R63, R700) -/

/-- The minimum level of a line, 17.0 dBm, in whole µW (Table 20-10). -/
def laserMin : Nat := 50119

def Sys.laserLevel (s : Sys) (e line uw : Nat) : Sys :=
  s.onPower (fun p => { p with
    lineUw := modNth p.lineUw e (fun l => setNth l line uw)
    lineUp := modNth p.lineUp e (fun m => m - (if bit m line then 2 ^ line else 0) + (if uw ≥ laserMin then 2 ^ line else 0)) })

def lineKnown (e line : Nat) : Bool := decide (e < 6 ∧ line < engineLines e)

/-- The ports of an engine go down and wait for light (R18, R425, R700). -/
def Sys.engineDark (s : Sys) (e : Nat) : Sys :=
  if e < 4 then
    runAll (fun k s =>
      let i := 4 * e + k
      if s.portRuns i && (s.port i).train != 1 then s.portDown i 2 1 else s) (List.range 4) s
  else ethPortState (e - 4) false s

/-- LASER_LINE_LOSS: a line below its minimum level. -/
def laserLoss (e line uw : Nat) (s : Sys) : Sys :=
  if s.mgmt.power.mgmtRail && lineKnown e line && decide (uw < laserMin) then
    let was := s.mgmt.power.lit e
    let s := s.laserLevel e line uw
    if was then
      ((s.onPower (fun p => { p with laserLoss := modNth p.laserLoss e (fun n => (n + 1) % 2 ^ 32)
                                     laserHeld := setNth p.laserHeld e false })).engineDark e).linkTrainCheck
    else s
  else s
def execLaserLineLoss (engine line microwatts : Nat) := onSys (laserLoss engine line microwatts)

/-- LASER_LINE_RESTORED. -/
def laserRestored (e line uw : Nat) (s : Sys) : Sys :=
  if s.mgmt.power.mgmtRail && lineKnown e line && decide (laserMin ≤ uw) then s.laserLevel e line uw else s
def execLaserLineRestored (engine line microwatts : Nat) := onSys (laserRestored engine line microwatts)

/-- LASER_HOLD_EXPIRY: after 1 ms of light the ports of the engine that wait for it begin training (R63). -/
def laserHold (e : Nat) (s : Sys) : Sys :=
  if s.mgmt.power.mgmtRail && decide (e < 6) && s.mgmt.power.lit e then
    let s := s.onPower (fun p => { p with laserHeld := setNth p.laserHeld e true })
    if e < 4 then
      runAll (fun k s =>
        let i := 4 * e + k
        if s.portRuns i && (s.port i).train == 1 then (s.setPort i 2).enterTrain i 2 else s) (List.range 4) s
    else s
  else s
def execLaserHoldExpiry (engine : Nat) := onSys (laserHold engine)

end Sys2Proof.Machine
end

