-- ==== Sys2Proof/Machine/Whisk.lean ====
section
/-! DEFINITION. Whisk collectives (15_whisk_collectives.md): descriptors and shards (R539 to R543), contribution segments with
sign compression (R544, R548, R553 to R555), ingress with the canonical sum (R545 to R551, R556 to R558), stragglers (R559 to
R563), all-gather (R564) and completion (R565 to R567). -/

namespace Sys2Proof.Machine

open Sys2Proof

/-! ## Slot records (Tables 15-1 and 15-2) and shards (R540) -/

structure SlotCfg where
  part : Nat
  fp32 : Bool
  resBf16 : Bool
  n : Nat
  window : Nat
  credit : Nat
  set : Nat
  key : Nat
  spill : Nat
  compress : Bool
  mode : Nat
  zeroCount : Bool
  limit : Nat

def Sys.slotCfg (s : Sys) (g : Nat) : SlotCfg :=
  let b := s.slotRec g
  let x := s.cfg 0x7000 (g + 9)
  { part := field b 1 1, fp32 := field b 2 1 == 1, resBf16 := field b 3 1 == 1, n := field b 4 4, window := field b 32 2
    credit := field b 34 1, set := field b 35 1, key := field b 36 4, spill := field b 24 8, compress := field b 44 1 == 1
    mode := field x 0 1, zeroCount := field x 1 1 == 1, limit := field x 8 4 }

/-- Bytes of a contribution element and of a result element. -/
def SlotCfg.inBytes (c : SlotCfg) : Nat := if c.fp32 then 4 else 2
def SlotCfg.outBytes (c : SlotCfg) : Nat := if c.resBf16 then 2 else 4
/-- Elements per contribution segment. -/
def SlotCfg.g (c : SlotCfg) : Nat := if c.fp32 && !c.compress then 1024 else 2048

def shardSize (e n : Nat) : Nat := 64 * ceilDiv e (64 * n)
def shardLen (e n r : Nat) : Nat := min (shardSize e n) (e - r * shardSize e n)

/-- Elements or bytes of unit `u` that a sender's contribution to a receiver holds: its total, and the count of segments. -/
def segCount (total unit_ : Nat) : Nat := max 1 (ceilDiv total unit_)
def segLen (total unit_ j : Nat) : Nat := min unit_ (total - j * unit_)

/-- Segments of rank `r`'s contribution or shard at the receiver of rank `t`: count, and wire bytes of segment `j`. -/
def SlotCfg.segs (c : SlotCfg) (kind e r t : Nat) : Nat :=
  if kind = 1 then segCount (shardLen e c.n t) c.g else segCount (shardLen e c.n r * c.outBytes) 4096
def SlotCfg.wire (c : SlotCfg) (kind e r t j : Nat) : Nat :=
  if kind = 1 then
    let k := segLen (shardLen e c.n t) c.g j
    if c.compress then 12 * ceilDiv k 64 else k * c.inBytes
  else segLen (shardLen e c.n r * c.outBytes) 4096 j

/-! ## Segment fields (R544) -/

def segJ (p : Pkt) : Nat := p.offset % 2 ^ 32
def segSeq (p : Pkt) : Nat := bits p.offset 37 32
def segLast (p : Pkt) : Bool := bit p.offset 38
def segGather (p : Pkt) : Bool := bit p.offset 39

/-! ## Values -/

/-- FP32 code of a contribution element, its exact value with a canonical NaN. -/
def leafCode (bf16 : Bool) (code : Nat) : Nat := rnd32 (if bf16 then bf16Val code else val32 code)

/-- The decoded elements of a segment: `m` elements (R554). -/
def SlotCfg.decode (c : SlotCfg) (m : Nat) (b : List Byte) : List Nat :=
  if c.compress then
    (List.range m).map (fun i =>
      let sg := leafCode false (field b (12 * (i / 64)) 4)
      if bit (field b (12 * (i / 64) + 4) 8) (i % 64) = true ∧ (val32 sg) ≠ .nan then (sg + 2 ^ 31) % 2 ^ 32 else sg)
  else (List.range m).map (fun i => leafCode (!c.fp32) (field b (i * c.inBytes) c.inBytes))

/-- Zero-and-count replaces non-finite elements by +0 (R556). -/
def SlotCfg.policy (c : SlotCfg) (x : Nat) : Nat := if c.zeroCount && !(val32 x).isFinite then 0 else x

/-- Table 8-4's counts of decoded elements, with their amax at the end. -/
def leafTally (xs : List Nat) : List Nat := tally (xs.map (fun x => plainCount (val32 x))) 0 ++ [amaxCode (xs.map val32)]
def tallyAdd (a b : List Nat) : List Nat := (List.range 6).map (fun i => nth a i + nth b i) ++ [f32Max (nth a 6) (nth b 6)]

/-- Two nodes of the tree; an absent one gives the other (R550). -/
def joinNode : Option Nat → Option Nat → Option Nat
  | some a, some b => some (fadd a b)
  | some a, none => some a
  | none, y => y
def treeRow : List (Option Nat) → List (Option Nat)
  | a :: b :: t => joinNode a b :: treeRow t
  | l => l
def treeRoot : Nat → List (Option Nat) → Option Nat
  | 0, l => (l.head?).getD none
  | f + 1, l => treeRoot f (treeRow l)

/-! ## COLLECTIVE (R539 to R541) -/

structure CollD where
  kind : Nat
  slot : Nat
  e : Nat
  src : Nat
  res : Nat
  err : Nat
  record : Nat
  size : Nat
def CollD.of (b : List Byte) : CollD :=
  ⟨bits (field b 0 4) 3 0, bits (field b 0 4) 6 4, field b 8 8, field b 16 8, field b 24 8, field b 32 8, field b 40 8, field b 48 4⟩

/-- The first field of a descriptor that fails, none where it passes all but translation. The status word, bytes 60 to 63, which host
software must write as 0 (R539), is no field of the check (DESIGN CHOICE, log entry 132). -/
def Sys.collFail (s : Sys) (p : Nat) (b : List Byte) : Option Nat :=
  let x := CollD.of b
  let c := s.slotCfg x.slot
  if !(x.kind == 1 || x.kind == 2) || bits (field b 0 4) 31 7 != 0 || !s.slotOn x.slot || c.part != p then some 0
  else if !resZero b 4 4 then some 4
  else if x.e ≥ 2 ^ 38 ∨ c.spill < 524288 + c.credit * max (ceilDiv c.n 2 * 8192) (c.n * 4096) + c.limit * 4 * shardSize x.e c.n then some 8
  else if !(x.kind == 1 && c.compress) && !resZero b 32 8 then some 32
  else if x.kind = 2 ∧ resZero b 40 8 = false then some 40
  else if (if x.kind = 1 then decide (x.size < 64 + 4 * c.n + 8 * c.limit) else !resZero b 48 4) then some 48
  else if !resZero b 52 8 then some 52
  else none

/-- The ranges of a descriptor translate (R216). -/
def Dev.collRanges (d : Dev) (p : Nat) (x : CollD) : Bool :=
  let c := d.sys.slotCfg x.slot
  let own := shardLen x.e c.n (d.sys.slot x.slot).ownRank
  if x.kind = 1 then
    d.rangeOk p x.src (x.e * c.inBytes) false && d.rangeOk p x.res (own * c.outBytes) true && d.rangeOk p x.record x.size true
      && (!c.compress || d.rangeOk p x.err (2 * x.e) true)
  else d.rangeOk p x.src (own * c.outBytes) false && d.rangeOk p x.res (x.e * c.outBytes) true

/-- COLLECTIVE: the check; a command that passes waits for its slot. -/
def collective (r idx : Nat) (d : Dev) : Dev :=
  match d.sys.startedCmd r idx 3 0 with
  | none => d
  | some c =>
    if c.checked then d
    else
      let p := d.sys.ringPart r
      let a := field c.bytes 24 8
      let y := d.readRange p a 64
      match y.poison with
      | some at_ => liftSys (fun s => s.poisonKill r idx at_) y.dev
      | none =>
        let d := y.dev
        let bad := (d.sys.collFail p y.data).orElse (fun _ => if d.collRanges p (CollD.of y.data) then none else some 0xFFFF)
        match bad with
        | some off =>
          let d := if off = 0xFFFF then liftSys (fun s => s.transFault p) d else d
          liftSys (fun s => s.completeUid r c.uid 1 0) (d.putStatus p a 1 0 off)
        | none => liftSys (fun s => s.onRing r (fun x => { x with
            cmds := x.cmds.map (fun c' => if c'.uid == c.uid then { c' with checked := true, desc := y.data } else c') })) d
def execCollective (ring idx : Nat) := onRings (collective ring idx)

/-! ## Replies to segments -/

/-- A segment and the duplicates held with it are answered, and its replay slot written (R484, R546, R549). -/
def Sys.segReply (s : Sys) (part : Nat) (x : Seg) (status : Nat) : Sys :=
  runAll (fun p s => (s.recordReply part p status 0).reply p status 0) (x.pkt :: x.dups) s
def Sys.unstage (s : Sys) (g : Nat) (x : Seg) : Sys :=
  s.onSlot g (fun t => { t with staged := t.staged.filter (fun y => !(y.rank == x.rank && y.seq == x.seq && y.j == x.j)) })

def Sys.coll (s : Sys) (g : Nat) : Option Coll := (s.slot g).running
def Sys.onColl (s : Sys) (g : Nat) (f : Coll → Coll) : Sys := s.onSlot g (fun t => { t with running := t.running.map f })
def Sys.wcount (s : Sys) (k n : Nat) : Sys := s.onFab (fun f => { f with wcounts := addAt f.wcounts k n })

/-- A late contribution is discarded: counted, and told once (R561). -/
def Sys.lateDrop (s : Sys) (g rank seq : Nat) : Sys :=
  if (s.slot g).dropped.contains (rank, seq) then s
  else
    ((s.onSlot g (fun t => { t with dropped := t.dropped ++ [(rank, seq)], lateDropped := t.lateDropped + 1 })).wcount 4 1).raise
      (s.slotCfg g).part 0x0403 g (natLe 4 seq ++ natLe 4 rank)

/-- A late segment: held under defer mode while fewer than D contributions are held, else discarded; acknowledged either way
(R549, R561). -/
def Sys.lateSeg (s : Sys) (g rank seq e : Nat) (p : Pkt) : Sys :=
  let c := s.slotCfg g
  let own := (s.slot g).ownRank
  let seg : Seg := ⟨rank, seq, segJ p, p, true, []⟩
  let total := c.segs 1 e rank own
  if segGather p || decide (segJ p ≥ total) || p.len != c.wire 1 e rank own (segJ p) || segLast p != (segJ p + 1 == total) then
    s.segReply c.part seg 1
  else
    let old := (s.slot g).heldLate.find? (fun h => h.rank == rank && h.seq == seq)
    if old.any (fun h => h.segs.any (fun x => x.1 == segJ p)) then s.segReply c.part seg 0 else
    if c.mode = 1 ∧ (old.isSome = true ∨ ((s.slot g).heldLate.length < c.limit ∧ (s.slot g).dropped.contains (rank, seq) = false)) then
      let h := old.getD ⟨rank, seq, e, [], rep0 7, false⟩
      let raw := c.decode (segLen (shardLen e c.n own) c.g (segJ p)) p.payload
      let h := { h with segs := assocSet h.segs (segJ p) (raw.map c.policy), tally := tallyAdd h.tally (leafTally raw) }
      let h := { h with complete := h.segs.length == total }
      let s := if old.isNone then s.wcount 3 1 else s
      let s := if c.zeroCount then s.wcount 5 (raw.filter (fun x => !(val32 x).isFinite)).length else s
      let s := if h.complete then s.statsAdd c.part c.set (h.tally.take 6) (nth h.tally 6) 0x0420 g else s
      let s := s.onSlot g (fun t => { t with
        heldLate := if old.isSome then t.heldLate.map (fun y => if y.rank == rank && y.seq == seq then h else y) else t.heldLate ++ [h] })
      s.segReply c.part seg 0
    else (s.lateDrop g rank seq).segReply c.part seg 0

/-! ## Ingress (R546, R547, R549 to R551, R556, R557) -/

/-- The leaf of a rank for an element: held values oldest first, then the current element (R562). -/
def leafOf (c : Coll) (rank j i : Nat) (cur : Option Nat) : Option Nat :=
  if c.mismatched.contains rank && cur.isNone then none
  else
    let held := (c.heldUse.filter (fun h => h.rank == rank)).map (fun h => nth (assoc h.segs j []) i)
    match held ++ cur.toList with
    | [] => none
    | x :: t => some (t.foldl fadd x)

/-- The result of segment `j` of the own shard, in the result format (R550). -/
def Sys.segResult (s : Sys) (g j : Nat) (c : Coll) : List Byte :=
  let k := s.slotCfg g
  let t := s.slot g
  let m := segLen (shardLen c.e k.n t.ownRank) k.g j
  let rows := (List.range k.n).map (fun r =>
    ((t.staged.find? (fun x => x.taken && x.rank == r && x.seq == t.seq && x.j == j)).map (fun x => (k.decode m x.pkt.payload).map k.policy)))
  (List.range m).flatMap (fun i =>
    let leaves := ((List.range k.n).zip rows).map (fun x => leafOf c x.1 j i (x.2.map (fun l => nth l i)))
    let root := (treeRoot (Nat.log2 k.n + 1) leaves).getD 0
    if k.resBf16 then natLe 2 (Num.round Num.bf16 (val32 root)) else natLe 4 root)

/-- Segment `j` of the own shard, where every rank has delivered it or is absent, is written and acknowledged (R549). -/
def Dev.formSeg (g j : Nat) (d : Dev) : Dev :=
  match d.sys.coll g with
  | none => d
  | some c =>
    let k := d.sys.slotCfg g
    let t := d.sys.slot g
    let has := fun r => t.staged.any (fun x => x.taken && x.rank == r && x.seq == t.seq && x.j == j)
    if c.kind = 1 ∧ c.written.contains (t.ownRank, j) = false
        ∧ (List.range k.n).all (fun r => has r || c.missing.contains r || c.mismatched.contains r) = true then
      let d := d.writeRange k.part (c.res + j * k.g * k.outBytes) (d.sys.segResult g j c)
      liftSys (fun s =>
        let s := s.onColl g (fun c => { c with written := c.written ++ [(t.ownRank, j)] })
        runAll (fun x s => if x.taken && x.seq == t.seq && x.j == j then (Sys.segReply s k.part x 0).unstage g x else s) t.staged s) d
    else d
def Dev.formAll (d : Dev) (g : Nat) : Dev :=
  match d.sys.coll g with
  | none => d
  | some c => runAll (Dev.formSeg g) (List.range ((d.sys.slotCfg g).segs 1 c.e 0 (d.sys.slot g).ownRank)) d

/-- Counts of a consumed contribution segment; at a rank's last one they enter the statistics set (R316). -/
def Sys.countLeaf (s : Sys) (g : Nat) (c : Coll) (rank : Nat) (xs : List Nat) : Sys :=
  let k := s.slotCfg g
  let bad := (xs.filter (fun x => !(val32 x).isFinite)).length
  let t := tallyAdd (assoc c.tally rank (rep0 7)) (leafTally xs)
  let s := s.onColl g (fun c => { c with
    tally := assocSet c.tally rank t, nonfinite := c.nonfinite + bad, replaced := if k.zeroCount then c.replaced + bad else c.replaced })
  let s := if k.zeroCount then s.wcount 5 bad else if bad = 0 then s else s.onSlot g (fun t => { t with nfFlag := true })
  let seq := (s.slot g).seq
  if ((s.slot g).consumed.filter (fun x => x.1 == rank && x.2.1 == seq)).length = k.segs 1 c.e rank (s.slot g).ownRank then
    s.statsAdd k.part k.set (t.take 6) (nth t 6) 0x0420 g
  else s

/-- A staged segment of the running collective's sequence is compared and consumed (R546, R547). -/
def Dev.ingest (g : Nat) (x : Seg) (d : Dev) : Dev :=
  match d.sys.coll g with
  | none => d
  | some c =>
    let k := d.sys.slotCfg g
    let own := (d.sys.slot g).ownRank
    let total := k.segs c.kind c.e x.rank own
    if c.mismatched.contains x.rank then liftSys (fun s => (s.unstage g x).segReply k.part x 1) d
    else if segGather x.pkt != (c.kind == 2) || decide (x.j ≥ total) || x.pkt.len != k.wire c.kind c.e x.rank own x.j
        || segLast x.pkt != (x.j + 1 == total) then
      Dev.formAll (liftSys (fun s =>
        (((s.unstage g x).segReply k.part x 1).onColl g (fun c => { c with mismatched := c.mismatched ++ [x.rank] })).onSlot g
          (fun t => { t with bad := t.bad ++ [(x.rank, x.seq)] })) d) g
    else
      let d := liftSys (fun s => (s.onSlot g (fun t => { t with
        consumed := t.consumed ++ [(x.rank, x.seq, x.j)]
        staged := t.staged.map (fun y => if y.rank == x.rank && y.seq == x.seq && y.j == x.j then { y with taken := true } else y) })).wcount 0 1) d
      if c.kind = 2 then
        let d := d.writeRange k.part (c.res + x.rank * shardSize c.e k.n * k.outBytes + 4096 * x.j) x.pkt.payload
        liftSys (fun s => ((s.onColl g (fun c => { c with written := c.written ++ [(x.rank, x.j)] })).segReply k.part x 0).unstage g x) d
      else
        Dev.formSeg g x.j (liftSys (fun s => s.countLeaf g c x.rank (k.decode (segLen (shardLen c.e k.n own) k.g x.j) x.pkt.payload)) d)

/-- A collective segment at Whisk ingress (R545, R546). -/
def Dev.segIn (d : Dev) (g rank : Nat) (p : Pkt) : Dev :=
  let t := d.sys.slot g
  let k := d.sys.slotCfg g
  let same := fun (q : Nat) => q % 64 == segSeq p
  let seg : Seg := ⟨rank, t.seq, segJ p, p, false, []⟩
  let nak := fun (s : Sys) => s.segReply k.part seg 1
  if t.staged.any (fun y => y.rank == rank && same y.seq && y.j == segJ p) then
    liftSys (fun s => (s.wcount 1 1).onSlot g (fun t => { t with
      staged := t.staged.map (fun y => if y.rank == rank && same y.seq && y.j == segJ p then { y with dups := y.dups ++ [p] } else y) })) d
  else if t.consumed.any (fun y => y.1 == rank && same y.2.1 && y.2.2 == segJ p) then liftSys (fun s => s.segReply k.part seg 0) d
  else if t.bad.any (fun y => y.1 == rank && same y.2) then liftSys nak d
  else
    match t.missedBy.find? (fun y => y.1 == rank && same y.2.1) with
    | some y => liftSys (fun s => s.lateSeg g rank y.2.1 y.2.2 p) d
    | none =>
      if t.running.isSome && same t.seq then
        Dev.ingest g seg (liftSys (fun s => s.onSlot g (fun t => { t with staged := t.staged ++ [seg] })) d)
      else if same (t.seq + 1) then
        liftSys (fun s => s.onSlot g (fun t => { t with staged := t.staged ++ [{ seg with seq := (t.seq + 1) % 2 ^ 32 }] })) d
      else if same t.seq then liftSys nak d
      else
        liftSys (fun s =>
          let s := (nak s).wcount 2 1
          if t.seqEventFor = some t.seq then s
          else (s.onSlot g (fun t => { t with seqEventFor := some t.seq })).raise k.part 0x0404 g
            (natLe 4 t.seq ++ natLe 4 p.src ++ natLe 1 (segSeq p))) d

/-- The slot a segment packet belongs to: its VC's (R545). -/
def Sys.segSlot (s : Sys) (x : RPkt) : Option Nat := if s.isSegment x then some (x.vc - 3) else none

/-- SEGMENT_INGRESS and ALL_GATHER_SEGMENT: steps 1, 2 and 4 to 6 of Table 13-6, then ingress (R545). -/
def segmentRow (gather : Bool) (p : Pkt) (d : Dev) : Dev :=
  match d.sys.arrive p kPut with
  | none => d
  | some (x, s) =>
    match s.segSlot x with
    | none => d
    | some g =>
      if segGather p != gather || s.unitStopped 0x15 0 then d
      else
        let w := s.window p.window
        let d' : Dev := { d with sys := s }
        if w.state = 2 ∨ (w.state = 1 ∧ s.resetting w.part = true) then liftSys (fun s => s.reply p 3 0) d'
        else if w.state = 0 ∨ w.key ≠ p.key ∨ bit w.perms 1 = false then liftSys (fun s => (s.pcount w.part 5).reply p 2 0) d'
        else
          match (s.ranks g).idxOf? p.src with
          | none => liftSys (fun s => s.reply p 2 0) d'
          | some rank =>
            match s.replayOf w.part p with
            | .busy => d
            | .unknown s => { d with sys := s.reply p 5 0 }
            | .recorded st v s => { d with sys := s.reply p st v }
            | .fresh s => Dev.segIn { d with sys := s } g rank p
def execSegmentIngress (p : Pkt) := onRings (segmentRow false p)
def execAllGatherSegment (p : Pkt) := onRings (segmentRow true p)

/-! ## COLLECTIVE_START (R542, R547, R549, R562) -/

/-- Held contributions whose last segment has arrived are added by this collective, or discarded for their E (R562). -/
def Sys.useHeld (s : Sys) (g e : Nat) : Sys :=
  let t := s.slot g
  let k := s.slotCfg g
  let done := t.heldLate.filter (fun h => h.complete)
  let use := done.filter (fun h => h.e == e)
  let bad := use.any (fun h => h.segs.any (fun x => x.2.any (fun v => !(val32 v).isFinite)))
  let s := s.onSlot g (fun t => { t with heldLate := t.heldLate.filter (fun h => !h.complete), nfFlag := t.nfFlag || (bad && !k.zeroCount) })
  let s := s.onColl g (fun c => { c with heldUse := use })
  runAll (fun (h : Held) s => Sys.lateDrop s g h.rank h.seq) (done.filter (fun h => h.e != e)) s

/-- Bytes of a range as they stand, none where a line of it is poisoned. -/
def Dev.clean (d : Dev) (p a n : Nat) : List Byte := if (d.poisonIn p a n).isSome then [] else d.peek p a n
/-- The source of a collective, and its error memory (R539). -/
def Dev.collSnap (d : Dev) (x : CollD) : List Byte × List Byte :=
  let k := d.sys.slotCfg x.slot
  if x.kind = 1 then (d.clean k.part x.src (x.e * k.inBytes), if k.compress then d.clean k.part x.err (2 * x.e) else [])
  else (d.clean k.part x.src (shardLen x.e k.n (d.sys.slot x.slot).ownRank * k.outBytes), [])

/-- COLLECTIVE_START: a checked command begins on its idle slot, with its descriptor as the check read it (R542). -/
def collectiveStart (r idx : Nat) (d : Dev) : Dev :=
  match d.sys.startedCmd r idx 3 0 with
  | none => d
  | some c =>
    let a := field c.bytes 24 8
    let x := CollD.of c.desc
    if c.checked = true ∧ (d.sys.slot x.slot).running = none then
      let g := x.slot
      let snap := d.collSnap x
      let d := liftSys (fun s => (s.begin r c.uid).onSlot g (fun t =>
        let q := (t.seq + 1) % 2 ^ 32
        let old := (q + 2 ^ 32 - 1) % 2 ^ 32
        { t with
          seq := q
          running := some { ring := r, idx := idx, uid := c.uid, kind := x.kind, desc := a, e := x.e, src := x.src, res := x.res, err := x.err,
                            record := x.record, nextSeg := [], unacked := [], written := [], missing := [], mismatched := [], heldUse := [],
                            nonfinite := 0, replaced := 0, status := 0, expired := false, stalled := false, tally := [], snap := snap }
          consumed := t.consumed.filter (fun y => y.2.1 == old)
          bad := t.bad.filter (fun y => y.2 == old)
          missedBy := t.missedBy.filter (fun y => decide ((q + 2 ^ 32 - y.2.1) % 2 ^ 32 < 62)) })) d
      let d := if x.kind = 1 then liftSys (fun s => s.useHeld g x.e) d else d
      runAll (fun y d => Dev.ingest g y d) ((d.sys.slot g).staged.filter (fun y => y.seq == (d.sys.slot g).seq)) d
    else d
def execCollectiveStart (ring idx : Nat) := onRings (collectiveStart ring idx)

/-! ## SEGMENT_SEND (R543, R544, R548, R553 to R555, R564) -/

/-- One compressed block: wire bytes and the new error memory elements as BF16 codes (R553). -/
def signBlock (cs es : List Nat) : List Byte × List Nat :=
  let xs := (cs.zip es).map (fun p => fadd p.1 p.2)
  if xs.any (fun x => !(val32 x).isFinite) then (natLe 4 0x7FC00000 ++ zeros 8, xs.map (fun _ => 0))
  else
    let sum := xs.foldl (fun a x => fadd a (x % 2 ^ 31)) 0
    let sigma := fdiv sum (f32 xs.length)
    let word := (xs.zipIdx).foldl (fun w p => if p.1 ≥ 2 ^ 31 then w + 2 ^ p.2 else w) 0
    (natLe 4 sigma ++ natLe 8 word,
     xs.map (fun x => Num.round Num.bf16 ((val32 x).add (val32 (if x ≥ 2 ^ 31 then sigma else (sigma + 2 ^ 31) % 2 ^ 32)))))

/-- The blocks of 64 of a segment. -/
def signBlocks : Nat → List Nat → List Nat → List Byte × List Nat
  | 0, _, _ => ([], [])
  | f + 1, cs, es =>
    if cs = [] then ([], [])
    else
      let a := signBlock (cs.take 64) (es.take 64)
      let b := signBlocks f (cs.drop 64) (es.drop 64)
      (a.1 ++ b.1, a.2 ++ b.2)

/-- A collective ends without completing: its command is gone (R568). -/
def Sys.dropColl (s : Sys) (g : Nat) : Sys :=
  s.onSlot g (fun t => { t with running := none, staged := t.staged.filter (fun x => x.seq != t.seq) })

/-- A segment enters the request queue as a PUT on the slot's VC. -/
def Sys.postSeg (s : Sys) (g owner j : Nat) (c : Coll) (pay : List Byte) : Sys :=
  let k := s.slotCfg g
  let t := s.slot g
  let total := k.segs c.kind c.e t.ownRank owner
  let off := j + t.seq % 64 * 2 ^ 32 + (if j + 1 = total then 2 ^ 38 else 0) + (if c.kind = 2 then 2 ^ 39 else 0)
  let s := s.onFab (fun f =>
    let id := f.nextUid
    let f := { f with
      nextUid := id + 1
      ops := f.ops ++ [{ FabOp.blank with id := id, owner := 2, part := k.part, descAddr := j, ring := c.ring, idx := owner, uid := c.uid, slot := g
                                          kind := kPut, left := 1 }] }
    f.enter id k.part (3 + g) ⟨kPut, 0, 0, 0, 0, nth t.ranks owner, s.fid, k.part, 0, k.key, k.window, pay.length, off, pay⟩ 0 [])
  s.onColl g (fun c => { c with
    nextSeg := assocSet c.nextSeg owner (j + 1), unacked := assocSet c.unacked owner (assoc c.unacked owner 0 + 1) })

/-- What Whisk reads of bytes that began at an offset of a source: each as at the start or as now (R543). -/
def Dev.eitherOf (d : Dev) (snap : List Byte) (off : Nat) (now : List Byte) : Dev × List Byte :=
  let old := (snap.drop off).take now.length
  if old.length = now.length then (liftSys (fun s => s.drew now.length) d, mixBytes d.sys.freeCtr old now) else (d, now)

/-- What a segment's error memory then holds: a byte that another agent has changed since the start keeps that value or takes the new
one (R543). -/
def Dev.errBlend (d : Dev) (snap : List Byte) (off : Nat) (now new : List Byte) : Dev × List Byte :=
  let old := (snap.drop off).take now.length
  if old.length = now.length then
    (liftSys (fun s => s.drew now.length) d,
     mixBytes d.sys.freeCtr ((old.zip (now.zip new)).map (fun x => if x.1 = x.2.1 then x.2.2 else x.2.1)) new)
  else (d, new)

/-- SEGMENT_SEND: the next segment to an owner, within the admission window A. -/
def segmentSend (g owner : Nat) (d : Dev) : Dev :=
  match d.sys.coll g with
  | none => d
  | some c =>
    let k := d.sys.slotCfg g
    let t := d.sys.slot g
    let j := assoc c.nextSeg owner 0
    if owner < k.n ∧ j < k.segs c.kind c.e t.ownRank owner ∧ assoc c.unacked owner 0 < k.credit ∧ d.sys.ready = true
        ∧ d.sys.unitStopped 0x15 0 = false ∧ d.sys.resetting k.part = false then
      let kill := fun (d : Dev) (at_ : Nat × Nat) => liftSys (fun s => (s.dropColl g).poisonKill c.ring c.idx at_) d
      if c.kind = 2 then
        let y := d.readRange k.part (c.src + 4096 * j) (k.wire 2 c.e t.ownRank owner j)
        match y.poison with
        | some at_ => kill y.dev at_
        | none =>
          let (d, bs) := y.dev.eitherOf c.snap.1 (4096 * j) y.data
          liftSys (fun s => s.postSeg g owner j c bs) d
      else
        let m := segLen (shardLen c.e k.n owner) k.g j
        let first := owner * shardSize c.e k.n + j * k.g
        let y := d.readRange k.part (c.src + first * k.inBytes) (m * k.inBytes)
        match y.poison with
        | some at_ => kill y.dev at_
        | none =>
          let (d, src) := y.dev.eitherOf c.snap.1 (first * k.inBytes) y.data
          if k.compress then
            let z := d.readRange k.part (c.err + 2 * first) (2 * m)
            match z.poison with
            | some at_ => kill z.dev at_
            | none =>
              let (d, err) := z.dev.eitherOf c.snap.2 (2 * first) z.data
              let cs := (List.range m).map (fun i => leafCode (!k.fp32) (field src (i * k.inBytes) k.inBytes))
              let es := (List.range m).map (fun i => leafCode true (field err (2 * i) 2))
              let out := signBlocks (m / 64 + 1) cs es
              let (d, rest) := d.errBlend c.snap.2 (2 * first) z.data (out.2.flatMap (natLe 2))
              let d := d.writeRange k.part (c.err + 2 * first) rest
              liftSys (fun s => s.postSeg g owner j c out.1) d
          else liftSys (fun s => s.postSeg g owner j c src) d
    else d
def execSegmentSend (slot owner : Nat) := onRings (segmentSend slot owner)

/-! ## Stragglers (R559, R560) -/

/-- STRAGGLER_BUDGET_EXPIRY: ranks with no segment of the sequence are missing. -/
def budgetExpiry (g : Nat) (d : Dev) : Dev :=
  match d.sys.coll g with
  | none => d
  | some c =>
    let k := d.sys.slotCfg g
    let t := d.sys.slot g
    let here := fun r => t.consumed.any (fun y => y.1 == r && y.2.1 == t.seq) || c.mismatched.contains r
    if c.kind = 1 ∧ k.mode ≠ 0 ∧ c.expired = false ∧ (List.range k.n).any here = true then
      let miss := (List.range k.n).filter (fun r => !here r)
      Dev.formAll (liftSys (fun s =>
        (s.onColl g (fun c => { c with expired := true, missing := miss })).onSlot g
          (fun t => { t with missedBy := miss.map (fun r => (r, t.seq, c.e)) ++ t.missedBy })) d) g
    else d
def execStragglerBudgetExpiry (slot : Nat) := onRings (budgetExpiry slot)

/-- Whether every segment this rank waits for has been written (R565). -/
def Sys.received (s : Sys) (g : Nat) (c : Coll) : Bool :=
  let k := s.slotCfg g
  let own := (s.slot g).ownRank
  if c.kind = 1 then (List.range (k.segs 1 c.e 0 own)).all (fun j => c.written.contains (own, j))
  else (List.range k.n).all (fun r => c.mismatched.contains r || (List.range (k.segs 2 c.e r own)).all (fun j => c.written.contains (r, j)))
def Sys.sentAll (s : Sys) (g : Nat) (c : Coll) : Bool :=
  let k := s.slotCfg g
  (List.range k.n).all (fun o => assoc c.nextSeg o 0 == k.segs c.kind c.e (s.slot g).ownRank o && assoc c.unacked o 0 == 0)

/-- The lowest rank a collective waits for. -/
def Sys.waitedRank (s : Sys) (g : Nat) (c : Coll) : Nat :=
  let k := s.slotCfg g
  let t := s.slot g
  match (List.range k.n).find? (fun r => !c.missing.contains r && !c.mismatched.contains r
      && decide ((t.consumed.filter (fun y => y.1 == r && y.2.1 == t.seq)).length < k.segs c.kind c.e r t.ownRank)) with
  | some r => r
  | none => ((List.range k.n).find? (fun o => assoc c.unacked o 0 != 0)).getD 0

/-- COLLECTIVE_STALLED: event 0x0401, once. -/
def collectiveStalled (g : Nat) (s : Sys) : Sys :=
  match s.coll g with
  | none => s
  | some c =>
    if c.stalled || (s.received g c && s.sentAll g c) then s
    else (s.onColl g (fun c => { c with stalled := true })).raise (s.slotCfg g).part 0x0401 g
      (natLe 4 (s.slot g).seq ++ natLe 4 (s.waitedRank g c))
def execCollectiveStalled (slot : Nat) := onSys (collectiveStalled slot)

/-! ## COLLECTIVE_COMPLETE (R558, R563, R565, R566) -/

def sortNat (l : List Nat) : List Nat := l.mergeSort (fun a b => decide (a ≤ b))

/-- The step record (Table 15-7); its cycle count is not timed here, and is free. -/
def Sys.stepRecord (s : Sys) (g : Nat) (c : Coll) : List Byte :=
  let t := s.slot g
  let miss := sortNat ((c.missing ++ c.mismatched).dedup)
  let held := (List.range (s.slotCfg g).n).flatMap (fun r => c.heldUse.filter (fun h => h.rank == r))
  let flags := (if c.expired then 1 else 0) + (if t.nfFlag then 2 else 0) + (if c.mismatched = [] then 0 else 4)
  natLe 4 t.seq ++ natLe 4 (s.slotCfg g).n ++ natLe 4 miss.length ++ natLe 4 held.length ++ natLe 4 t.lateDropped ++ natLe 4 flags
    ++ natLe 8 c.nonfinite ++ natLe 8 c.replaced ++ natLe 8 s.freeNat ++ zeros 16 ++ miss.flatMap (natLe 4)
    ++ held.flatMap (fun h => natLe 4 h.rank ++ natLe 4 h.seq)

def collectiveComplete (g : Nat) (d : Dev) : Dev :=
  match d.sys.coll g with
  | none => d
  | some c =>
    if d.sys.received g c && d.sys.sentAll g c then
      let k := d.sys.slotCfg g
      let t := d.sys.slot g
      let miss := (c.missing ++ c.mismatched).dedup
      let n := if c.kind = 1 then shardLen c.e k.n t.ownRank * k.outBytes else c.e * k.outBytes
      let d := if c.mismatched = [] then d else liftSys (fun s => s.drew n) (d.writeRange k.part c.res (d.sys.freeBytes n))
      let d := if c.kind = 1 then
          let rec_ := d.sys.stepRecord g c
          liftSys (fun s =>
            let s := (s.drew 1).onSlot g (fun t => { t with lateDropped := 0 })
            if miss = [] then s
            else (s.wcount 6 1).raise k.part 0x0402 g (natLe 4 t.seq ++ natLe 4 miss.length)) (d.writeRange k.part c.record rec_)
        else d
      let d := if c.mismatched = [] then d
        else liftSys (fun s => (s.wcount 8 1).raise k.part 0x0405 g
          (natLe 4 t.seq ++ natLe 4 ((c.mismatched.head?).getD 0) ++ natLe 4 c.mismatched.length)) d
      let st := max (max c.status (if c.kind = 1 ∧ c.nonfinite ≠ 0 then 7 else 0)) (if c.mismatched = [] then 0 else 1)
      let d := d.putStatus k.part c.desc st 0 0
      liftSys (fun s => (s.onSlot g (fun t => { t with running := none })).completeUid c.ring c.uid st
        (if c.kind = 1 then miss.length else 0)) d
    else d
def execCollectiveComplete (slot : Nat) := onRings (collectiveComplete slot)

end Sys2Proof.Machine
end

