-- ==== Sys2Proof/Machine/Reset.lean ====
section
/-! DEFINITION. The end of a context kill (R204 to R209, Table 5-7), and the partition reset (16_partitions.md, R589 to R592,
Table 16-10). -/

namespace Sys2Proof.Machine

open Sys2Proof

/-! ## The work of a context (Table 5-7) -/

/-- The blocks of a context. -/
def Sys.contextBlocks (s : Sys) (p r : Nat) : List Nat :=
  (s.core.blocks.filter (fun b => b.part == p && b.ring == r)).map Block.id

/-- A store not yet accepted: which of its bytes are written is free, and whether an atomic was entered (Table 5-7). -/
def storeSome (x : PStore) (d : Dev) : Dev :=
  if !d.stackUp x.stack then d
  else match x.atom with
  | some w =>
    let d' := if d.sys.freeBool then d.atomDo x w else d
    liftSys (fun s => s.drew 1) d'
  | none =>
    runAll (fun o d =>
      let d' := if d.sys.freeBool then d.writePiece x.stack (x.addr + o) [x.data.getD o 0] else d
      liftSys (fun s => s.drew 1) d') (List.range x.data.length) d

/-- A copy to Shofel memory: which of the bytes not yet moved are written is free (Table 5-7). -/
def copySome (c : Copy) (d : Dev) : Dev :=
  if c.toShofel then
    let ctr := d.sys.freeCtr
    let vals := mixBytes (ctr + c.len) c.snap (d.sys.csRead c.block c.cs c.len)
    copyMove c (fun o => vals.getD o 0) (c.todo.filter (fun o => Config.freeBool (ctr + o))) (liftSys (fun s => s.drew (2 * c.len)) d)
  else d

/-- A fabric operation that ends with a context: a thread's, or that of a command of the ring which is gone (Table 9-2). -/
def Sys.opEnds (s : Sys) (p r : Nat) (o : FabOp) : Bool :=
  o.part == p && o.ring == r
    && (o.owner == 0 || (o.owner != 3 && !(s.ring r).cmds.any (fun c => c.uid == o.uid)))

/-- Operations end; of their requests those not yet transmitted are discarded, and the others still reach their targets (Table 5-7,
R705). -/
def Sys.endOps (s : Sys) (ends : FabOp → Bool) : Sys :=
  let ids := (s.fab.ops.filter ends).map FabOp.id
  let rs := s.fab.reqs.filter (fun r => ids.contains r.op && r.phase == 0)
  runAll Sys.discardReq rs (s.onFab (fun f => { f with ops := f.ops.filter (fun o => !ends o) }))

/-- The resources of a context's blocks are free, its grids are gone, and its work in progress ends as Table 5-7 and Table
10-4 list. -/
def Dev.freeContext (d : Dev) (p r : Nat) : Dev :=
  let ids := d.sys.contextBlocks p r
  let gids := (d.sys.core.groups.filter (fun g => ids.contains g.block)).map Group.gid
  let d := runAll storeSome (d.sys.core.stores.filter (fun x => x.part == p && x.ring == r)) d
  let d := runAll copySome (d.sys.core.copies.filter (fun c => ids.contains c.block)) d
  liftSys (fun s =>
    let s := s.onCore (fun c => { c with
      blocks := c.blocks.filter (fun b => !ids.contains b.id)
      groups := c.groups.filter (fun g => !ids.contains g.block)
      grids := c.grids.filter (fun g => !(g.part == p && g.ring == r))
      collectors := c.collectors.filter (fun x => !gids.contains x.gid)
      results := c.results.filter (fun x => !gids.contains x.gid)
      loads := c.loads.filter (fun x => !gids.contains x.gid)
      stores := c.stores.filter (fun x => !(x.part == p && x.ring == r))
      csPend := c.csPend.filter (fun x => !ids.contains x.block)
      copies := c.copies.filter (fun x => !ids.contains x.block)
      mq := c.mq.filter (fun x => !ids.contains x.block) })
    let s := s.onHost (fun h => { h with queues := h.queues.map (fun q => { q with
      pushes := q.pushes.filter (fun x => !ids.contains x.block), takes := q.takes.filter (fun x => !ids.contains x.block) }) })
    let s := s.onFab (fun f => { f with fences := f.fences.filter (fun x =>
      !(if x.isCmd then x.part == p && x.ring == r else ids.contains x.block)) })
    s.endOps (s.opEnds p r)) d

/-! ## KILL_COMPLETE -/

/-- The ring position a kill's detail carries (Tables 16-7, 16-8). -/
def Kill.position (k : Kill) : Nat := if k.code = 0x0202 then field k.detail 12 4 else field k.detail 4 4

/-- The record of a kill: the event of its first fault, or during a partition reset an entry of the error log (R204, R209). -/
def Sys.reportKill (s : Sys) (k : Kill) (inReset : Bool) : Sys :=
  if inReset || k.silent then s.log 0x0902 k.source k.part 2 (natLe 2 k.code ++ natLe 1 k.ring ++ [0] ++ natLe 4 k.position)
  else s.raise k.part k.code k.source k.detail

/-- The epoch machine of a killed context (R408, R414): a step in STAGING will vote FAILED, at once when none of its
descriptors is left, and no record is written. -/
def Sys.killEpoch (p r : Nat) (g : Nat) (s : Sys) : Sys :=
  let e := s.epoch g
  if e.state = 0 ∨ e.part ≠ p ∨ e.ring ≠ r then s
  else
    let s := s.onEpoch g (fun e => { e with killed := true })
    if e.state = 1 ∧ s.host.tasks.any (fun t => t.owner == 0 && t.uid == e.uid) = false then s.stepEnded g e.status else s

/-- KILL_COMPLETE: everything of the context is free, the event is written, and its ring stops (R204, R205, R617). -/
def killComplete (r : Nat) (d : Dev) : Dev :=
  match d.sys.core.kills.find? (fun k => k.ring == r) with
  | none => d
  | some k =>
    let d := d.freeContext k.part r
    liftSys (fun s =>
      let s := s.onCore (fun c => { c with kills := c.kills.filter (fun x => !(x.part == k.part && x.ring == r)) })
      let s := runAll (Sys.killEpoch k.part r) (List.range 8) s
      ((s.reportKill k (s.resetting k.part)).stopRing r 1).finishFailing) d
def execKillComplete (ring : Nat) := onRings (killComplete ring)

/-! ## Partition reset -/

/-- The contexts of a partition with resident work, by ring. -/
def Sys.ringsRunning (s : Sys) (p : Nat) : List Nat :=
  (List.range 64).filter (fun r => s.core.blocks.any (fun b => b.part == p && b.ring == r)
    || s.core.grids.any (fun g => g.part == p && g.ring == r) || s.dying p r)

/-- Step 1: the sequencer stops the rings, windows enter state 2 and the replay directory is cleared (R465, R590). -/
def Sys.resetStep1 (s : Sys) (p : Nat) : Sys :=
  let s := s.onPart p (fun q => { q with resetStep := 5, resets := (q.resets + 1) % 2 ^ 32 })
  let s := runAll (fun r s => if s.ringPart r = p then s.stopRing r 2 else s) (List.range 64) s
  s.onFab (fun f => { f with
    windows := f.windows.map (fun w => if w.2.part == p && w.2.state == 1 then (w.1, { w.2 with state := 2 }) else w)
    replay := modNth f.replay p (fun x => { x with recs := [] }) })

/-- Step 2: every context is killed with no event; kills that were in progress are entered in the error log (R209). -/
def Dev.resetStep2 (d : Dev) (p : Nat) : Dev :=
  let rs := d.sys.ringsRunning p
  let fresh := (rs.filter (fun r => !d.sys.dying p r)).length
  let d := runAll (fun r d => d.freeContext p r) rs d
  liftSys (fun s =>
    let ks := s.core.kills.filter (fun k => k.part == p)
    let s := s.onCore (fun c => { c with kills := c.kills.filter (fun k => k.part != p), nKills := c.nKills + fresh })
    (runAll (fun k s => s.reportKill k true) ks s).finishFailing) d

/-- Table 11-10 and R408 at a partition reset. -/
def Sys.resetEpoch (p : Nat) (g : Nat) (s : Sys) : Sys :=
  let e := s.epoch g
  if e.state = 0 ∨ e.part ≠ p then s
  else
    let s := s.onEpoch g (fun e => { e with wasReset := true })
    if e.state = 1 then (s.onEpoch g (fun e => { e with killed := true })).stepEnded g e.status
    else if e.state = 3 then
      ((s.onEpoch g (fun e => { e with incomplete := true })).raise p 0x0503 g (natLe 8 e.committed)).finishEpoch g 0
    else s

/-- Step 3: descriptors stop at a line boundary, queues close, slots and epoch machines act (R377, Table 15-8, Table 11-10). -/
def Dev.resetStep3 (d : Dev) (p : Nat) : Dev :=
  let d := runAll Dev.kPartial (d.sys.host.tasks.filter (fun t => t.part == p && (t.phase == 1 || t.phase == 2))) d
  liftSys (fun s =>
    let s := s.onHost (fun h => { h with
      tasks := h.tasks.filter (fun t => t.part != p)
      queues := h.queues.map (fun q =>
        let q := { q with claimed := q.claimed.filter (fun x => x.take.part != p), closing := q.closing.filter (fun c => s.ringPart c.1 != p)
                          pushes := q.pushes.filter (fun x => x.part != p), takes := q.takes.filter (fun x => x.part != p) }
        if q.isOpen && q.part == p then { q with isOpen := false, cur := [], released := [] } else q) })
    let s := runAll (fun g s =>
      if s.slotOn g && s.slotPart g == p then s.onSlot g (fun x => { Slot.reset with ownRank := x.ownRank, ranks := x.ranks }) else s)
      (List.range 8) s
    runAll (Sys.resetEpoch p) (List.range 8) s) d

/-- Step 4: fabric operations and their later replies are discarded; stream numbers go on (R483, R500). The partition's
queue pairs enter state 2 (R608). -/
def Sys.resetStep4 (s : Sys) (p : Nat) : Sys :=
  let s := s.onFab (fun f =>
    let mine := (f.reqs.filter (fun r => r.part == p)).map FabReq.uid
    { f with
      ops := f.ops.filter (fun o => o.part != p)
      reqs := f.reqs.filter (fun r => r.part != p)
      queue := f.queue.filter (fun u => !mine.contains u)
      fences := f.fences.filter (fun x => x.part != p)
      streams := f.streams.map (fun t => if t.part == p then { t with unacked := [] } else t) })
  runAll (fun i s => if (s.qp i).part = p then s.qpError i else s) (s.host.qps.map Prod.fst) s

/-- Steps 1 to 4 of Table 16-10; a reset in progress starts nothing further (R592). -/
def Dev.startReset (d : Dev) (p : Nat) : Dev :=
  if d.sys.resetting p then d
  else
    let d := (liftSys (fun s => s.resetStep1 p) d).resetStep2 p
    liftSys (fun s => s.resetStep4 p) (d.resetStep3 p)

/-! ## Remaps at their boundary (R648) -/

/-- Event 0x0702 of an applied remap goes to the partition that names the core, else to the log (R641). -/
def Sys.remapEvent (s : Sys) (core action old new : Nat) : Sys :=
  let detail := natLe 1 action ++ [0] ++ natLe 2 old ++ natLe 2 new
  match (List.range 16).find? (fun p => s.partEnabled p && (s.part p).hasCore core) with
  | some p => s.raise p 0x0702 core detail
  | none => s.log 0x0702 core 255 0 detail

/-- Kind ACTION of the error log (Table 18-5, below Table 18-10). -/
def Sys.action (s : Sys) (what core slot : Nat) : Sys :=
  s.log 0x0907 0 255 3 (natLe 1 what ++ natLe 4 core ++ natLe 1 slot)

/-- A number in state 2 takes its new site. -/
def Sys.takeSite (s : Sys) (core : Nat) : Sys :=
  let r := assoc s.mgmt.rel.remaps core Remap.none
  let s := s.onRel (fun k => { k with remaps := assocSet k.remaps core { r with state := 3 } })
  let s := s.onBring (fun b => { b with
    coreMap := setNth b.coreMap core r.site
    spares := if r.action = 1 then b.spares.filter (fun x => x != r.site) else b.spares })
  (s.onCore (fun c => { c with failed := c.failed.filter (fun x => x != core) })).action 3 core 255

/-- Numbers in state 2. -/
def Sys.readyRemaps (s : Sys) : List (Nat × Remap) := s.mgmt.rel.remaps.filter (fun x => x.2.state == 2)

/-! ## PARTITION_RESET_APPLY -/

/-- The partition's statistics sets, fabric counters and RDMA counters read zero (R589, Table 17-9). -/
def Sys.zeroCounts (s : Sys) (p : Nat) : Sys :=
  (s.onHost (fun h => { h with stats := h.stats.filter (fun x => x.1 / 64 != p), rdma := modNth h.rdma p (fun _ => rep0 4) })).onFab
    (fun f => { f with pcounts := modNth f.pcounts p (fun _ => rep0 8) })

/-- Steps 5 and 6 of Table 16-10, once every request checked before step 1 has executed (R464, R575, R589, R648). -/
def partitionResetApply (p : Nat) (d : Dev) : Dev :=
  if d.sys.resetting p && decide (p < 16) && !d.sys.host.execQ.any (fun q => q.any (fun x => x.part == p)) then
    let moves := d.sys.readyRemaps.filter (fun x => d.sys.partEnabled p && (d.sys.part p).hasCore x.1)
    let olds := moves.map (fun x => (x.1, x.2, d.sys.siteOf x.1))
    let w := (d.sys.part p).waiting
    let d := match w with
      | some set => d.takeSet p set
      | none => d
    liftSys (fun s =>
      let s := (runAll (fun (x : Nat × Remap) s => s.takeSite x.1) moves s).zeroCounts p
      let s := s.onPart p (fun q => { q with resetStep := 0 })
      let s := s.raise p 0x0602 0 ([1, 0, 0, 0] ++ natLe 1 (if w.isSome then 1 else 0))
      let s := if w.isSome then
          let q := s.part p
          s.raise p 0x0603 0 (natLe 1 (if q.enabled then 1 else 0) ++ natLe 1 ((List.range 144).filter q.hasCore).length ++ natLe 2 q.quota)
        else s
      runAll (fun (x : Nat × Remap × Nat) s => s.remapEvent x.1 x.2.1.action x.2.2 x.2.1.site) olds s) d
  else d
def execPartitionResetApply (part : Nat) := onRings (partitionResetApply part)

end Sys2Proof.Machine
end

