-- ==== Sys2Proof/Machine/Reliability.lean ====
section
/-! DEFINITION. Masked and detected faults, management stop, remapping and ageing (18_reliability_ageing.md, R630 to R658). -/

namespace Sys2Proof.Machine

open Sys2Proof

/-! ## Masked faults (R634) -/

/-- Units with a mechanism that masks (Table 18-1). -/
def masks (u : Nat) : Bool := [0x01, 0x02, 0x03, 0x04, 0x05, 0x06, 0x07, 0x08, 0x0E, 0x10, 0x11, 0x14, 0x15].contains u

/-- UNIT_STOPPED: the unit accepts no further work until device reset (Table 18-2). -/
def Sys.stopUnit (s : Sys) (u inst : Nat) : Sys :=
  if s.unitStopped u inst then s
  else (s.onRel (fun r => { r with stopped := r.stopped ++ [(u, inst)] })).raiseAll 0x0706 u (natLe 1 inst)

/-- MASKED_FAULT. A correction of a stack also counts there (R328), one of an accumulator store in 0x5110 (R279); eight failed retries of a
stack link stop it. -/
def maskedFault (u inst : Nat) (failed : Bool) (d : Dev) : Dev :=
  if masks u && d.sys.mgmt.power.rails then
    if u = 0x02 ∧ failed = true then liftSys (fun s => (s.detectedCount 0x02).stopUnit 0x02 inst) d
    else
      let m := if u = 0x01 then d.mem.onStack inst (fun t => { t with corrected := t.corrected + 1 }) else d.mem
      let s := if u = 0x08 then d.sys.onCore (fun c => { c with mxCounts := addAt c.mxCounts 4 1 }) else d.sys
      { mem := m, sys := s.maskedCount u }
  else d
def execMaskedFault (unit inst : Nat) (retriesFailed : Bool) := onDev (maskedFault unit inst retriesFailed)

/-- MASKED_SUMMARY. -/
def maskedSummary (u : Nat) (s : Sys) : Sys :=
  if s.mgmtUp && s.mgmt.rel.maskedChanged.getD u false then
    (s.onRel (fun r => { r with maskedChanged := setNth r.maskedChanged u false })).log 0x0906 u 255 1 (natLe 8 (nth s.mgmt.rel.masked u))
  else s
def execMaskedSummary (unit : Nat) := onSys (maskedSummary unit)

/-! ## Management stop (R635) -/

/-- The management core halts; a bring-up in progress stops in its phase, and the mismatch is latched. -/
def mgmtStop (s : Sys) : Sys :=
  if s.mgmt.bring.phase != 0 && !s.mgmt.rel.mgmtStopped then
    (s.onRel (fun r => { r with mgmtStopped := true, mismatch := some s.mgmt.cycles })).onBring (fun b =>
      if b.phase = 8 then b else { b with status := 3 })
  else s
def execMgmtStop := onSys mgmtStop

/-! ## Detected faults (R630, Table 18-2) -/

/-- The cause of a datapath unit (Table 18-7): units 0x06 to 0x0B are causes 1 to 6. -/
def datapathUnit (u : Nat) : Bool := decide (0x06 ≤ u ∧ u ≤ 0x0B)

/-- Work of resident blocks, each as group, block and place in the code image: what a group executes, and copies, matrix operations,
stores, atomics and remote operations under way, whose group may have ended (R203, R177). -/
def Sys.coreWork (s : Sys) : List (Gid × Nat × Nat) :=
  s.core.groups.map (fun g => (g.gid, g.block, g.pc)) ++ s.core.copies.map (fun c => (c.gid, c.block, c.pc))
    ++ s.core.mq.map (fun o => (o.gid, o.block, o.pc)) ++ s.core.stores.map (fun x => (x.gid, x.block, x.pc))
    ++ (s.fab.ops.filter (fun o => o.owner == 0)).map (fun o => (o.gid, o.block, o.pc))

/-- The work that a fault hits, with its block. -/
def Sys.faultWork (s : Sys) (f : FaultIn) : Option (Gid × Nat × Block) :=
  s.coreWork.findSome? (fun w => match s.core.block? w.2.1 with
    | none => none
    | some b => if f.group == some w.1 && f.part.all (fun p => p == b.part) && f.ring.all (fun r => r == b.ring) then some (w.1, w.2.2, b) else none)

/-- DATAPATH_ERROR of a thread's context; an error in work of no context, or of one being killed, is entered in the log and
counts alike (R642). An uncorrectable error of an accumulator store counts in 0x5110 (R279). -/
def Sys.datapathError (s : Sys) (f : FaultIn) : Sys :=
  let cause := f.unit - 5
  let s := if f.unit = 0x08 then s.onCore (fun c => { c with mxCounts := addAt c.mxCounts 5 1 }) else s
  match s.faultWork f with
  | none => (s.log 0x0106 f.core 255 2 []).siteError f.core cause
  | some (gid, pc, b) =>
    let detail := coreDetail gid b.ring b.cmd pc 0
    if s.dying b.part b.ring then (s.killContext b.part b.ring 0x0106 gid.core detail).log 0x0106 gid.core 255 2 detail |>.siteError gid.core cause
    else s.datapathFault b.part b.ring gid.core cause detail

/-- A fault of a PE, an adder tree or the de-skew changes one total of a tile on a core; the tile's drain detects it (R277, R278). -/
def Sys.arrayFault (s : Sys) (f : FaultIn) : Sys :=
  let hit := match s.faultWork f with
    | some w => some w.2.2.id
    | none => (s.core.blocks.find? (fun b => b.core == f.core && b.sums.any (fun t => t.first == f.line))).map Block.id
  s.onCore (fun c => { c with blocks := c.blocks.map (fun b =>
    if hit == some b.id then { b with sums := b.sums.map (fun t =>
      if t.first == f.line then { t with corrupt := some (f.idx / 65536 % max 1 t.rowS.length, f.idx % 65536 % max 1 t.colS.length) } else t) }
    else b) })

/-- The detail of UNIT_ERROR (Table 18-6); its cause is free. -/
def unitDetail (inst cause ring idx : Nat) : List Byte := natLe 1 inst ++ natLe 1 cause ++ natLe 1 ring ++ [0] ++ natLe 4 idx

/-- Attributed: the command's context is killed with UNIT_ERROR, or the unit stops. -/
def Sys.attributed (s : Sys) (f : FaultIn) : Sys :=
  match f.part, f.ring with
  | some p, some r => (s.drew 1).killContext p r 0x0705 f.unit (unitDetail f.inst s.freeNat r f.idx)
  | _, _ => s.stopUnit f.unit f.inst

/-- The partition that owns a packet's source or target window on this device. -/
def Sys.packetPart (s : Sys) (p : Pkt) : Option Nat :=
  if p.kind = kCtrl ∨ isCtrlReply p = true ∧ isReply p = true then none
  else if isReply p then (if p.dst = s.fid then some p.part else none)
  else if p.src = s.fid then some p.part
  else if (s.window p.window).state ≠ 0 then some (s.window p.window).part
  else none

/-- Event UNIT_ERROR of a discarded packet (Table 18-2, R641). -/
def Sys.packetLost (s : Sys) (u inst : Nat) (p : Pkt) : Sys :=
  let d := unitDetail inst s.freeNat 0xFF 0
  match s.packetPart p with
  | some q => (s.drew 1).raise q 0x0705 u d
  | none => (s.drew 1).log 0x0705 u 255 2 d

/-- Packet discarded at the router: nothing is answered. -/
def Sys.loseAtRouter (s : Sys) (u k : Nat) : Sys :=
  match s.fab.router[k]? with
  | none => s
  | some x => (s.onFab (fun f => { f with router := dropNth f.router k, ports := creditBack f.ports x })).packetLost u k x.pkt

/-- Packet discarded at a stack's executor. -/
def Sys.loseAtExecutor (s : Sys) (st : Nat) : Sys :=
  match (s.host.execQ.getD st []).head? with
  | none => s
  | some x =>
    let s := (s.onHost (fun h => { h with execQ := modNth h.execQ st (fun q => q.drop 1) })).unmarkOp x
    (s.drew 1).raise x.part 0x0705 0x17 (unitDetail st s.freeNat 0xFF 0)

/-- A rail out of regulation: an always-on rail takes PGOOD low (R70), a site's rail fails the site (R642). -/
def Sys.railFault (s : Sys) (f : FaultIn) : Sys :=
  if f.inst = 0 then s.onPower (fun p => { p with rails := false, pgood := false })
  else if f.inst = 1 then s.markFailed f.core 3 0
  else s.stopUnit 0x1A f.inst

/-- A clock without lock: a port goes down, any other unit stops. -/
def Sys.clockFault (s : Sys) (inst : Nat) : Sys :=
  if 16 ≤ inst ∧ inst < 32 then (if s.portRuns (inst - 16) then s.portDown (inst - 16) 1 1 else s)
  else if 32 ≤ inst ∧ inst < 34 then ethPortState (inst - 32) false s
  else s.stopUnit 0x1B inst

/-- A line of DRAM or of a slice becomes poisoned (R329, Table 18-1). -/
def Dev.memFault (d : Dev) (f : FaultIn) : Dev :=
  if f.unit = 0x01 then (if (d.mem.stack f.stack).trained then d.eccAt f.stack f.line 2 else d)
  else
    match (d.mem.slice f.stack).find f.line with
    | none => d
    | some l =>
      if l.poison then d
      else Dev.poisonNote { mem := d.mem.onSlice f.stack (fun c => { c with lines := c.lines.map (fun x => if x.line == f.line then { x with poison := true } else x) })
                            sys := d.sys.detectedCount 0x03 } f.stack f.line

/-- DETECTED_FAULT: each unit of Table 18-1 that detects has its outcome; others detect nothing. -/
def detectedFault (f : FaultIn) (d : Dev) : Dev :=
  if !d.sys.mgmt.power.mgmtRail then d
  else if f.unit = 0x01 ∨ f.unit = 0x03 then d.memFault f
  else if f.unit = 0x09 then liftSys (fun s => s.arrayFault f) d
  else if datapathUnit f.unit then liftSys (fun s => s.datapathError f) d
  else liftSys (fun s =>
    if f.unit = 0x04 then (s.detectedCount f.unit).stopUnit f.unit f.inst
    else if [0x05, 0x0F, 0x15, 0x16].contains f.unit then (s.detectedCount f.unit).attributed f
    else if f.unit = 0x10 then (s.detectedCount f.unit).qpError f.inst
    else if f.unit = 0x11 ∨ f.unit = 0x12 then (s.detectedCount f.unit).loseAtRouter f.unit f.inst
    else if f.unit = 0x13 then (s.detectedCount f.unit).stopUnit 0x13 0
    else if f.unit = 0x17 then (s.detectedCount f.unit).loseAtExecutor f.inst
    else if f.unit = 0x18 then mgmtStop (s.detectedCount f.unit)
    else if f.unit = 0x1A then (s.detectedCount f.unit).railFault f
    else if f.unit = 0x1B then (s.detectedCount f.unit).clockFault f.inst
    else s) d
def execDetectedFault (f : FaultIn) := onRings (detectedFault f)

/-! ## Quarantine and remapping (R644 to R649) -/

/-- A write to Core quarantine; a number that holds no site, or has failed, is left as it is. -/
def Sys.quarantineCore (s : Sys) (core slot : Nat) : Sys :=
  if s.core.failed.contains core ∨ s.siteOf core = 65535 then s else (s.action 1 core slot).markFailed core 2 0

def Sys.remapOf (s : Sys) (core : Nat) : Remap := assoc s.mgmt.rel.remaps core Remap.none
def Sys.setRemap (s : Sys) (core : Nat) (r : Remap) : Sys := s.onRel (fun k => { k with remaps := assocSet k.remaps core r })
def Remap.open_ (r : Remap) : Bool := r.state == 1 || r.state == 2
def Sys.recordSite (s : Sys) (core : Nat) : Nat := nth (s.mgmt.bring.assignment.getD s.mgmt.bring.coreMap) core
/-- The assignment record takes a site for a number (R647). -/
def Sys.setRecord (s : Sys) (core site : Nat) : Sys :=
  (s.onBring (fun b => { b with assignment := some (setNth (b.assignment.getD b.coreMap) core site) })).journal

/-- Spares that no request in state 1 or 2 has taken. -/
def Sys.freeSpares (s : Sys) : List Nat :=
  s.mgmt.bring.spares.filter (fun x => !s.mgmt.rel.remaps.any (fun r => r.2.open_ && r.2.action == 1 && r.2.site == x))

/-- What a remap request is rejected with (R645, Table 18-8); none where it is accepted. -/
def Sys.remapAbort (s : Sys) (b : List Byte) : Option Nat :=
  let core := field b 0 1
  let act := field b 1 1
  let site := field b 2 2
  let r := s.remapOf core
  if core > 143 ∨ act > 3 ∨ resZero b 4 4 = false ∨ (act ≠ 1 ∧ site ≠ 0) then some 0x00030002
  else if act = 0 then (if r.open_ then none else some 0x00030113)
  else if s.core.failed.contains core = false then some 0x00030110
  else if act = 1 ∧ (if site = 0xFFFF then s.freeSpares = [] else s.freeSpares.contains site = false) then some 0x00030111
  else if r.open_ then some 0x00030112
  else if r.testing then some 0x00050002
  else none

def Sys.power (s : Sys) (site : Nat) (on : Bool) : Sys :=
  s.onBring (fun b => { b with powered := (b.powered.filter (fun x => x != site)) ++ (if on then [site] else []) })

/-- State 2; a number that no enabled partition names takes its site at once (R648). -/
def Sys.remapReady (s : Sys) (core : Nat) (r : Remap) : Sys :=
  let s := s.setRemap core { r with state := 2, testing := false }
  if s.enabledParts.any (fun p => (s.part p).hasCore core) then s
  else
    let old := s.siteOf core
    (s.takeSite core).remapEvent core r.action old r.site

/-- A remap request that has been accepted takes effect. -/
def Sys.remapApply (s : Sys) (b : List Byte) (slot : Nat) : Sys :=
  let core := field b 0 1
  let act := field b 1 1
  let site := field b 2 2
  let s := s.action 2 core slot
  let r := s.remapOf core
  if act = 0 then
    if r.state = 1 then s.setRemap core { r with state := 5 }
    else ((s.setRecord core r.prev).power r.site false).setRemap core { r with state := 5 }
  else
    let prev := s.recordSite core
    if act = 1 then
      let x := if site = 0xFFFF then s.freeSpares.foldl min 0xFFFF else site
      (s.setRemap core ⟨1, 1, x, 0, prev, true⟩).power x true
    else if act = 2 then (s.setRecord core 0xFFFF).remapReady core ⟨2, 2, 0xFFFF, 0, prev, false⟩
    else (s.setRemap core ⟨1, 3, s.siteOf core, 0, prev, true⟩).power (s.siteOf core) true

/-- REMAP_TEST_COMPLETE (R646, R647, R649). -/
def remapTest (core result : Nat) (s : Sys) : Sys :=
  let r := { s.remapOf core with result := result }
  if s.mgmtUp && r.testing && decide (1 ≤ result ∧ result ≤ 5) then
    if r.state = 1 then
      if result ≤ 2 then (if r.action = 1 then s.setRecord core r.site else s).remapReady core r
      else
        let s := (s.setRemap core { r with state := 4, testing := false }).power r.site false
        let s := if r.action = 1 then s.onBring (fun b => { b with spares := b.spares.filter (fun x => x != r.site) }) else s
        let detail := natLe 2 r.site ++ natLe 1 result
        match s.enabledParts.find? (fun p => (s.part p).hasCore core) with
        | some p => s.raise p 0x0703 core detail
        | none => s.log 0x0703 core 255 0 detail
    else (s.setRemap core { r with testing := false }).power r.site false
  else s
def execRemapTestComplete (core result : Nat) := onSys (remapTest core result)

/-! ## Ageing (R651, R652) -/

/-- Ceiling of a quotient of integers by a positive number. -/
def ceilInt (a : Int) (b : Nat) : Int := -((-a) / (b : Int))
def intMax0 (x : Int) : Int := if x < 0 then 0 else x

/-- The core frequency falls while an offset is above 50 mV, by 50 MHz for 10 mV. -/
def lowerFreq (aged : List Bool) : Nat → Nat → List Int → Nat × List Int
  | 0, f, offs => (f, offs)
  | n + 1, f, offs =>
    if offs.any (fun x => decide (50 < x)) && decide (2300 < f) then
      lowerFreq aged n (f - 50) (List.zipWith (fun (a : Bool) x => if a then intMax0 (x - 10) else x) aged offs)
    else (f, offs)

def clampInt (hi : Int) (x : Int) : Nat := (if x < 0 then 0 else if hi < x then hi else x).toNat
def clampMoves (hi : Int) (x : Int) : Bool := decide (x < 0 ∨ hi < x)

/-- The procedure of R651: the plan, and the first limit a clamp reached (0 none). -/
def Sys.propose (s : Sys) (a : AgeingReading) : MarginPlan × Nat :=
  let now := s.mgmt.rel.planInForce
  let guardS : Int := (s.cfgN 0x2210 2 : Nat)
  let guardE : Int := (s.cfgN 0x2210 3 : Nat)
  let on := fun r => s.mgmt.bring.powered.filter (fun x => x / 10 == r)
  let aged := (List.range 16).map (fun r => decide (on r ≠ []))
  let off0 : List Int := (List.range 16).map (fun r =>
    if on r = [] then (nth now.rows r : Int)
    else
      let least := ((on r).map (fun x => a.slack.getD x 32767)).foldl min 32767
      intMax0 ((nth now.rows r : Int) + 5 * ceilInt (guardS - least) 4))
  let x := lowerFreq aged 8 now.mhz off0
  let soff : List Int := (List.range 8).map (fun t => intMax0 ((nth now.soffs t : Int) + 5 * ceilInt (guardE - ((a.eye.getD t (0, 0)).1 : Int)) 10))
  let trim : List Int := (List.range 6).map (fun p => (nth now.trims p : Int) - a.bias.getD p 0)
  let limit := if x.2.any (clampMoves 50) then 1 else if soff.any (clampMoves 30) then 2 else if trim.any (clampMoves 255) then 3 else 0
  (⟨0, 0, x.1, x.2.map (clampInt 50), soff.map (clampInt 30), trim.map (clampInt 255)⟩, limit)

/-- The monitors are sampled, and a proposal that differs from the committed plan is stored and announced. -/
def Sys.sampleAgeing (s : Sys) (a : AgeingReading) : Sys :=
  let s := s.onRel (fun r => { r with slack := a.slack, ringOsc := a.ringOsc, eye := a.eye, bias := a.bias, lastSample := s.mgmt.cycles })
  let x := s.propose a
  let committed := planOf (s.cfg 0xA400 1)
  if { x.1 with number := committed.number, source := committed.source } = committed then s
  else
    let n := s.mgmt.rel.proposals + 1
    let s := s.onRel (fun r => { r with proposals := n, proposed := some { x.1 with number := n, source := n } })
    let s := s.raiseAll 0x0720 0 (natLe 4 n)
    if x.2 = 0 then s else s.raiseAll 0x0721 0 (natLe 4 n ++ natLe 1 x.2)

def readingOk (a : AgeingReading) : Bool :=
  a.slack.length == 160 && a.ringOsc.length == 28 && a.eye.length == 8 && a.bias.length == 6

/-- AGEING_SAMPLE, at each ageing interval. -/
def ageingSample (a : AgeingReading) (s : Sys) : Sys := if s.loopsRun && readingOk a then s.sampleAgeing a else s
def execAgeingSample (r : AgeingReading) := onSys (ageingSample r)

end Sys2Proof.Machine
end

