-- ==== Sys2Proof/Machine/Security.lean ====
section
/-! DEFINITION. Identity, firmware images, attestation, sealed data and debug access (19_security.md, R659 to R678): what each
security object does, and the instructions of the test access port. -/

namespace Sys2Proof.Machine

open Sys2Proof

/-! ## Keys (Table 19-1) -/

def ascii (l : List Nat) : List Byte := l.map (BitVec.ofNat 8)
def txClxId : List Byte := ascii [0x43, 0x4C, 0x58, 0x2D, 0x49, 0x44]
def txClxFw : List Byte := ascii [0x43, 0x4C, 0x58, 0x2D, 0x46, 0x57]
def txClxAtt : List Byte := ascii [0x43, 0x4C, 0x58, 0x2D, 0x41, 0x54, 0x54]
def txClxSeal : List Byte := ascii [0x43, 0x4C, 0x58, 0x2D, 0x53, 0x45, 0x41, 0x4C]
def txClxDbg : List Byte := ascii [0x43, 0x4C, 0x58, 0x2D, 0x44, 0x42, 0x47]
def txOdpSeal : List Byte := ascii [0x4F, 0x44, 0x50, 0x2D, 0x53, 0x45, 0x41, 0x4C]

def SecState.identityKey (k : SecState) : List Byte := Config.shake256 57 (txClxId ++ k.secret)
def SecState.sealKey (k : SecState) : List Byte := Config.kmac256 32 k.secret (k.salt.getD []) txClxSeal
/-- The serial, 16 bytes. -/
def SecState.serial16 (k : SecState) : List Byte := (k.serial ++ zeros 16).take 16

/-! ## Images (R661 to R666) -/

/-- The first of steps 1 to 3 of Table 19-3 that an image fails. -/
def imageContent (b : List Byte) : Nat :=
  let n := field b 16 4
  if field b 0 4 ≠ 0x4F51494D ∨ field b 4 2 ≠ 1 ∨ resZero b 6 2 = false ∨ resZero b 202 54 = false ∨ n < 16 ∨ 261888 < n ∨ n % 16 ≠ 0
      ∨ field b 20 4 ≠ 0x00030009 then 1
  else if Config.ed448Verify Config.firmwareKey (txClxFw ++ b.take 88) ((b.drop 88).take 114) = false then 2
  else if Config.shake256 64 ((b.drop 256).take n) ≠ (b.drop 24).take 64 then 3
  else 0

def imageSlotOf (b : List Byte) : ImageSlot :=
  { header := b.take 256, body := (b.drop 256).take (field b 16 4), contentStep := imageContent b, valid := false, failedStep := 0, programming := false }

/-- The target slot of an image write (R663). -/
def Sys.targetSlot (s : Sys) : Nat :=
  if s.mgmt.bring.runningImage < 2 then 1 - s.mgmt.bring.runningImage else 1 - s.cfgN 0xB020 1 % 2

/-- The step that a written image fails (R664). -/
def Sys.imageStep (s : Sys) (b : List Byte) : Nat := (imageSlotOf b).failStep s.mgmt.sec.floor
/-- The target slot is programmed and marked. -/
def Sys.programImage (s : Sys) (b : List Byte) : Sys :=
  let n := s.imageStep b
  s.onImage s.targetSlot (fun _ => { imageSlotOf b with valid := n == 0, failedStep := n })

/-- R665, R667. -/
def Sys.activateAbort (s : Sys) (k : Nat) : Option Nat :=
  if 1 < k then some 0x00030002
  else if (s.image k).valid = false then some 0x00030135
  else if s.mgmt.sec.measures.length ≥ 64 then some 0x00030137
  else none
def Sys.activateApply (s : Sys) (k slot : Nat) : Sys :=
  let m := s.image k
  (s.measure 9 k m.digest).raiseAll 0x0802 slot (natLe 1 k ++ zeros 3 ++ natLe 4 m.fwVersion ++ natLe 4 m.secVersion)

/-- The image that runs. -/
def Sys.runningVersion (s : Sys) : Nat := if s.mgmt.bring.runningImage < 2 then (s.image s.mgmt.bring.runningImage).fwVersion else 0
def Sys.runningSec (s : Sys) : Nat := if s.mgmt.bring.runningImage < 2 then (s.image s.mgmt.bring.runningImage).secVersion else 0

/-- R666. -/
def Sys.floorAbort (s : Sys) (v : Nat) : Option Nat :=
  if s.mgmt.sec.floor ≤ v ∧ v ≤ s.runningSec then none else some 0x00030136

/-! ## Attestation (R668, Table 19-5) -/

def Measure.bytes (m : Measure) : List Byte := natLe 2 m.typ ++ zeros 2 ++ natLe 4 m.detail ++ (m.digest ++ zeros 64).take 64

def Sys.report (s : Sys) (nonce : List Byte) : List Byte :=
  let k := s.mgmt.sec
  let body := natLe 4 0x4F514154 ++ natLe 2 1 ++ natLe 2 k.measures.length ++ k.serial16 ++ objDefault 0x1000 1 ++ objDefault 0x1018 3
    ++ natLe 4 s.runningVersion ++ natLe 4 s.runningSec ++ natLe 4 k.floor ++ natLe 1 s.mgmt.bring.runningImage
    ++ natLe 1 (if k.debugOpen then 1 else 0) ++ natLe 1 s.mgmt.power.bootMode ++ zeros 1 ++ natLe 4 s.mgmt.bring.nBringUps ++ zeros 12
    ++ nonce ++ k.chain ++ (k.measures.map Measure.bytes).flatten
  body ++ Config.ed448Sign k.identityKey (txClxAtt ++ body)

/-! ## Sealed data (R669, R670) -/

def transferKey (x : Session) : List Byte := Config.shake256 32 (txOdpSeal ++ x.key)
def transferNonce (seq dir : Nat) : List Byte := natLe 4 seq ++ natLe 1 dir ++ zeros 7

/-- The fields of a seal request (Table 19-6). -/
def sealWf (b : List Byte) : Bool :=
  resZero b 1 3 && resZero b 8 8 &&
    (if field b 0 1 = 1 then decide (33 ≤ b.length ∧ b.length ≤ 16 + 3952 + 16) else field b 0 1 == 2 && resZero b 4 4 && decide (57 ≤ b.length))

/-- The plaintext of a seal request, and what it is rejected with. -/
def Sys.sealAbort (s : Sys) (x : Session) (r : OdpReq) : Option Nat :=
  let b := r.data
  if sealWf b = false then some 0x00030002
  else if s.mgmt.sec.debugOpen ∨ s.mgmt.sec.salt = none then some 0x00030143
  else if field b 0 1 = 1 then
    (if (Config.gcmOpen (transferKey x) (transferNonce r.seq 0) [] (b.drop 16)).isNone then some 0x00030002 else none)
  else
    let blob := b.drop 16
    if field blob 4 4 ≠ s.cfgN 0xB041 1 then some 0x00030140
    else if (Config.gcmOpen s.mgmt.sec.sealKey ((blob.drop 12).take 12) (blob.take 24) (blob.drop 24)).isNone then some 0x00030141
    else if s.runningSec < field blob 8 4 then some 0x00030142
    else none

/-- The result of a seal request; a seal draws its IV. -/
def Sys.sealResult (s : Sys) (x : Session) (r : OdpReq) : List Byte :=
  let b := r.data
  if field b 0 1 = 1 then
    let plain := (Config.gcmOpen (transferKey x) (transferNonce r.seq 0) [] (b.drop 16)).getD []
    let iv := s.freeBytes 12
    let hdr := natLe 2 1 ++ zeros 2 ++ s.cfg 0xB041 1 ++ (b.drop 4).take 4 ++ iv
    hdr ++ Config.gcmSeal s.mgmt.sec.sealKey iv hdr plain
  else
    let blob := b.drop 16
    let plain := (Config.gcmOpen s.mgmt.sec.sealKey ((blob.drop 12).take 12) (blob.take 24) (blob.drop 24)).getD []
    Config.gcmSeal (transferKey x) (transferNonce r.seq 1) [] plain

/-! ## Debug access (R672 to R676) -/

/-- R672, in the order listed. -/
def Sys.tokenAbort (s : Sys) (b : List Byte) : Option Nat :=
  let k := s.mgmt.sec
  if field b 0 4 ≠ 0x4F514442 ∨ field b 4 2 ≠ 1 ∨ resZero b 6 2 = false ∨ (b.drop 8).take 16 ≠ k.serial16 ∨ field b 56 4 % 4 = 0
      ∨ 4 ≤ field b 56 4 ∨ resZero b 60 4 = false ∨ resZero b 178 14 = false then some 0x00030150
  else if (b.drop 24).take 32 ≠ k.challenge then some 0x00030151
  else if Config.ed448Verify Config.debugKey (txClxDbg ++ b.take 64) ((b.drop 64).take 114) = false then some 0x00030152
  else if k.debugOpen then some 0x00050002
  else none

/-- A new challenge after every write of a token. -/
def Sys.newChallenge (s : Sys) : Sys :=
  let c := s.freeBytes 32
  (s.drew 32).onSec (fun k => { k with challenge := c })

/-- The steps of Table 19-9: everything is erased, the log starts anew, and where the salt's sector reads blank the port opens;
then a device reset. -/
def Dev.debugOpening (d : Dev) (scope : Nat) (erased : Bool) : Dev :=
  let d := d.deviceReset
  liftSys (fun s =>
    let s := s.onRel (fun r => { r with log := [], nextSeq := 1, overwritten := 0 })
    let s := if erased then
        let n := s.mgmt.sec.openings + 1
        ((s.onSec (fun k => { k with salt := none, debugOpen := true, scope := scope, openings := n })).journal).log 0x0803 0 255 0
          (natLe 4 scope ++ natLe 4 n)
      else
        let junk := s.freeBytes 32
        let area := Config.freeByte (s.freeCtr + 32)
        ((((s.drew 33).onSec (fun k => { k with salt := some junk })).detectedCount 0x19).onDict (fun x => { x with
          flashFailures := (x.flashFailures + 1) % 2 ^ 32 })).log 0x0905 0 255 2 [2, area]
    s.bringUpStart) d

/-! ## The test access port (R69, R677, Table 19-10) -/

/-- Whether an instruction of a scope bit executes; otherwise it executes as BYPASS. -/
def Sys.tapOpen (s : Sys) (b : Nat) : Bool := s.mgmt.sec.debugOpen && bit s.mgmt.sec.scope b
/-- The port has power. -/
def Sys.tapOn (s : Sys) : Bool := s.mgmt.power.mgmtRail

/-- The port's controller, as TDO tells its states apart. A command of the port shifts its instruction in Shift-IR and its data in Shift-DR;
between commands the controller shifts nothing. -/
inductive TapState where
  | idle | shiftIr | shiftDr
deriving DecidableEq, Repr

/-- Bit `k` that TDO drives, open or closed: only in the shift states, and not at rest (R66, R69). In Shift-DR it is of what the last
command captured; what the instruction register captures is not stated (log entry 126). -/
def Sys.tdoPin (s : Sys) (t : TapState) (k : Nat) : Pin :=
  if s.mgmt.power.atRest || !s.tapOn then .highZ
  else match t with
    | .idle => .highZ
    | .shiftIr => if Config.freeBool (s.freeCtr + k) then .high else .low
    | .shiftDr => if bit s.mgmt.sec.tdo k then .high else .low

/-- BYPASS: the register captures 0 and takes the bit shifted in. -/
def Sys.bypass (s : Sys) (tdi : Bool) : Sys := s.onSec (fun k => { k with ir := 0xFF, bypass := tdi, tdo := 0, extest := false })
def tapBypass (tdi : Bool) (s : Sys) : Sys := if s.tapOn then s.bypass tdi else s
def execTapBypass (tdi : Bool) := onSys (tapBypass tdi)

/-- IDCODE. -/
def idcode : Nat := 0x20009A5D
def tapIdcode (s : Sys) : Sys :=
  if !s.tapOn then s else if s.tapOpen 0 then s.onSec (fun k => { k with ir := 0x01, tdo := idcode, extest := false }) else s.bypass false
def execTapIdcode := onSys tapIdcode

/-- SAMPLE/PRELOAD: the 20 signals are captured, and the boundary register takes what was shifted in. -/
def samplePreload (pins preload : Nat) (s : Sys) : Sys :=
  if !s.tapOn then s
  else if s.tapOpen 0 then
    s.onSec (fun k => { k with ir := 0x02, tdo := pins % 2 ^ 20, boundary := preload % 2 ^ 20, extest := false })
  else s.bypass (bit preload 0)
def execSamplePreload (pins preload : Nat) := onSys (samplePreload pins preload)

/-- EXTEST: the boundary register drives the signals. -/
def tapExtest (pins : Nat) (s : Sys) : Sys :=
  if !s.tapOn then s
  else if s.tapOpen 0 then s.onSec (fun k => { k with ir := 0x00, tdo := pins % 2 ^ 20, extest := true })
  else s.bypass false
def execTapExtest (pins : Nat) := onSys (tapExtest pins)

/-- MGMT_HALT. -/
def mgmtHalt (halt : Bool) (s : Sys) : Sys :=
  if !s.tapOn then s
  else if s.tapOpen 1 then
    s.onSec (fun k => { k with ir := 0x40, tdo := if k.halted then 1 else 0, halted := halt, extest := false })
  else s.bypass halt
def execMgmtHalt (halt : Bool) := onSys (mgmtHalt halt)

/-- Whether an address of management memory lies in the key area (0xB052). -/
def SecState.isKey (k : SecState) (a : Nat) : Bool := decide (k.keyBase ≤ a ∧ a < k.keyBase + k.keyLen)
/-- A byte of management memory: zero in the key area, what was written last, else free. -/
def SecState.memByte (k : SecState) (ctr a : Nat) : Nat :=
  if k.isKey a then 0 else assoc k.mgmtMem a (Config.freeNat (ctr + a % 8) % 256)

/-- MGMT_MEM: eight bytes at an address. -/
def mgmtMem (wr : Bool) (addr data : Nat) (s : Sys) : Sys :=
  if !s.tapOn then s
  else if s.tapOpen 1 then
    let at_ := (List.range 8).map (fun i => (addr + i) % 2 ^ 32)
    let old := leNat ((List.range 8).map (fun i => BitVec.ofNat 8 (s.mgmt.sec.memByte (s.freeCtr + 8 * i) (nth at_ i))))
    (s.drew 64).onSec (fun k => { k with
      ir := 0x41, extest := false, tdo := old
      mgmtMem := if wr then
          runAll (fun i l => if k.isKey (nth at_ i) then l else assocSet l (nth at_ i) (data / 2 ^ (8 * i) % 256)) (List.range 8) k.mgmtMem
        else k.mgmtMem })
  else s.bypass (bit data 0)
def execMgmtMem (wr : Bool) (addr data : Nat) := onSys (mgmtMem wr addr data)

/-- SITE_SCAN: a segment of a site's chain is shifted out as another is shifted in; what a chain holds at first is free. -/
def siteScan (site segment : Nat) (s : Sys) : Sys :=
  if !s.tapOn then s
  else if s.tapOpen 1 then
    (s.drew 1).onSec (fun k => { k with
      ir := 0x42, extest := false, tdo := assoc k.chains (site % 2 ^ 16) (s.freeNat % 2 ^ 160)
      chains := assocSet k.chains (site % 2 ^ 16) (segment % 2 ^ 160) })
  else s.bypass (bit segment 0)
def execSiteScan (site segment : Nat) := onSys (siteScan site segment)

end Sys2Proof.Machine
end

