-- ==== Sys2Proof/Machine/Odp.lean ====
section
/-! DEFINITION. The Oaquin Dictionary Protocol (04_object_dictionary.md, R123 to R169): frames, sessions, the order of request
checks, and the handshake. -/

namespace Sys2Proof.Machine

open Sys2Proof

/-! ## Frames (Tables 4-7 to 4-9) -/

def txOdp : List Byte := ascii [0x4F, 0x44, 0x50]
def txOdpDev : List Byte := txOdp ++ ascii [0x2D, 0x44, 0x45, 0x56]
def txOdpCli : List Byte := txOdp ++ ascii [0x2D, 0x43, 0x4C, 0x49]
def txOdpKey : List Byte := txOdp ++ ascii [0x2D, 0x4B, 0x45, 0x59]

/-- A frame up to its tag. -/
def odpHead (op sid seq flags : Nat) (payload : List Byte) : List Byte :=
  natLe 2 0x4F44 ++ [1] ++ natLe 1 op ++ natLe 4 sid ++ natLe 4 seq ++ natLe 2 payload.length ++ natLe 2 flags ++ payload
/-- A response frame up to its tag. -/
def odpFrame (op sid seq flags : Nat) (payload : List Byte) : List Byte := odpHead (op + 0x80) sid seq flags payload
/-- A frame with its tag. -/
def odpTagged (key frame : List Byte) : List Byte := frame ++ Config.kmac256 16 key frame txOdp

/-- A frame leaves on an interface from port 7450, for the address and port a request came from (R149). -/
def Sys.sent (s : Sys) (iface dst dport : Nat) (frame : List Byte) : Sys :=
  s.onDict (fun d => { d with tx := d.tx ++ [⟨iface, 7450, dst, dport, frame⟩] })

/-- The payload of a request. -/
def reqPayload (r : OdpReq) (op : Nat) : List Byte :=
  if r.bad ≠ 0 then r.data
  else if op = 5 then []
  else
    natLe 2 r.index ++ natLe 1 r.sub ++ (if op = 0x11 ∨ op = 0x13 then natLe 1 r.ty else [0])
      ++ (if op = 0x12 ∨ op = 0x13 then natLe 4 (r.block.getD (0, 0)).1 else [])
      ++ (if op = 0x13 then natLe 4 (r.block.getD (0, 0)).2 else [])
      ++ (if op = 0x11 ∨ op = 0x13 then r.data else [])
/-- The opcode a request carries: its row's, or an unknown one. -/
def reqOpcode (r : OdpReq) (op : Nat) : Nat := if r.bad = 1 then r.ty else op
/-- The tag a request must carry under a session key (R153, Table 4-7). -/
def reqTag (key : List Byte) (r : OdpReq) (op : Nat) : List Byte :=
  Config.kmac256 16 key (odpHead (reqOpcode r op) r.sid r.seq r.flags (reqPayload r op)) txOdp
/-- The tag of a PROVE. -/
def proveTag (key : List Byte) (p : ProveReq) : List Byte := Config.kmac256 16 key (odpHead 3 p.sid p.seq p.flags p.sig) txOdp

/-! ## Sessions -/

def Sys.session (s : Sys) (k : Nat) : Session := s.mgmt.dict.sessions.getD k Session.free
def Sys.onSession (s : Sys) (k : Nat) (f : Session → Session) : Sys :=
  s.onDict (fun d => { d with sessions := modNth d.sessions k f })

/-- The slot of the session a frame belongs to: its ID, interface, source address and port. -/
def Sys.sessionOf (s : Sys) (phase iface sid src sport : Nat) : Option Nat :=
  (List.range 16).find? (fun k =>
    let x := s.session k
    x.phase == phase && x.sid == sid && x.iface == iface && x.src == src && x.sport == sport)

/-- ODP is served on an interface in the phases of Table 3-1, while 0xF030 enables it and a port is up (R152). -/
def Sys.odpServes (s : Sys) (iface : Nat) : Bool :=
  let ph := s.mgmt.bring.phase
  s.mgmtUp &&
    (if iface = 2 then (decide (3 ≤ ph ∧ ph ≤ 8) || ph == 0x0F || ph == 0xFE) && s.cfgN 0xF030 2 == 1
      else decide (iface < 2 ∧ 4 ≤ ph ∧ ph ≤ 8) && (s.eth iface).up && s.cfgN 0xF030 1 == 1)

/-- A datagram for UDP port 7450 of an own address of an interface that serves ODP (R149 to R152). -/
def Sys.odpTakes (s : Sys) (iface : Nat) (dst : IpAddr) (dport : Nat) : Bool :=
  s.odpServes iface && dport == 7450 && s.ownAddr iface dst

/-- The response to a session's request: kept to be sent again (R158). -/
def Sys.answer (s : Sys) (k seq op flags : Nat) (payload : List Byte) : Sys :=
  let x := s.session k
  let f := odpTagged x.key (odpFrame op x.sid seq flags payload)
  (s.onSession k (fun x => { x with lastSeq := seq, lastResp := f })).sent x.iface x.src x.sport f

/-- The payload of a response that carries an abort code: Table 4-9 for a write, else the code and four zero bytes. -/
def abortPayload (op a index sub : Nat) : List Byte :=
  natLe 4 a ++ (if op = 0x11 ∨ op = 0x13 then natLe 2 index ++ natLe 1 sub ++ [0] else if op = 5 then [] else zeros 4)

def Sys.respond (s : Sys) (k : Nat) (r : OdpReq) (op a sub : Nat) : Sys := s.answer k r.seq op 0 (abortPayload op a r.index sub)

/-- A discarded datagram is counted (R153, R162). -/
def Sys.discard (s : Sys) : Sys := s.onDict (fun d => { d with discarded := min (d.discarded + 1) (2 ^ 64 - 1) })

/-- R153 and R158: a request of no open session, or whose tag is wrong, is discarded, a repeated one answered again, one out of
sequence refused, and the next one executed. -/
def Dev.request (d : Dev) (r : OdpReq) (op : Nat) (f : Nat → Dev → Dev) : Dev :=
  let s := d.sys
  if s.odpServes r.iface then
    match s.sessionOf 2 r.iface r.sid r.src r.sport with
    | none => { d with sys := s.discard }
    | some k =>
      let x := s.session k
      let op := reqOpcode r op
      if r.tag ≠ reqTag x.key r op then { d with sys := s.discard }
      else if r.seq = x.lastSeq then { d with sys := s.sent x.iface x.src x.sport x.lastResp }
      else if r.seq ≠ (x.lastSeq + 1) % 2 ^ 32 then
        let f := odpTagged x.key (odpFrame op x.sid r.seq 0 (abortPayload op 0x00010002 r.index r.sub))
        { d with sys := s.sent x.iface x.src x.sport f }
      else if r.bad = 0 then f k d
      else { d with sys := s.respond k r op (if r.bad = 1 then 0x00010001 else 0x00010003) r.sub }
  else d

/-- A session ends: its slot is free and its pending sets are discarded (R142, R159). -/
def Sys.endSession (k : Nat) (s : Sys) : Sys :=
  s.onDict (fun d => { d with
    sessions := setNth d.sessions k Session.free
    pending := d.pending.map (fun g => if g.2.owner = some k then (g.1, ⟨none, [], 4⟩) else g) })
/-- Every open session that a test names ends. -/
def Sys.endSessions (s : Sys) (p : Session → Bool) : Sys :=
  runAll (fun k s => if (s.session k).phase != 0 && p (s.session k) then s.endSession k else s) (List.range 16) s

/-! ## Order of request checks (Tables 4-3 and 4-4) -/

/-- The size in bytes of a type of fixed size. -/
def typeSize (ty : Nat) : Option Nat :=
  if ty = 1 ∨ ty = 2 then some 1 else if ty = 3 then some 2 else if ty = 4 ∨ ty = 6 ∨ ty = 7 then some 4
  else if ty = 5 ∨ ty = 8 then some 8 else none

/-- A length an object's value may have (R124). The bytes of a STR are not checked to be UTF-8 (DESIGN CHOICE, log entry 135). -/
def lenOk (row : ObjRow) (n : Nat) : Bool :=
  match typeSize row.ty with
  | some k => n == k
  | none => if row.ty = 9 then decide (n ≤ 64) else decide (n ≤ 262144) && (row.len == 0 || n == row.len)

/-- Steps 1 and 2. -/
def existsAbort (i sub : Nat) : Option Nat :=
  if objDefined i = false then some 0x00020001
  else if sub ≠ 0 ∧ objRow i sub = none then some 0x00020002
  else none

/-- Objects only an expert session may write, without an unlock (0xF010 sub 0x01). -/
def isUnlock (i sub : Nat) : Bool := i == 0xF010 && sub == 1
/-- Ranges whose level B objects an operator may write. -/
def operatorRange (i : Nat) : Bool := [2, 4, 5, 0xA].contains (i / 4096)

/-- Steps 3 to 5 of a write. -/
def rightAbort (x : Session) (i sub : Nat) (row : ObjRow) : Option Nat :=
  if row.acc = 0 ∨ row.acc = 1 then some 0x00020004
  else if isUnlock i sub = true ∨ row.expert = true then
    (if x.role < 3 then some 0x00020005 else if row.expert && !x.unlocked then some 0x00020006 else none)
  else if x.role = 1 ∧ (operatorRange i = false ∨ row.manager = true) then some 0x00020005
  else none

/-- Step 6, on a value of which only the length may be known. -/
def typeAbort (row : ObjRow) (ty n : Nat) : Option Nat :=
  if ty ≠ row.ty ∨ lenOk row n = false then some 0x00030001 else none

/-- Steps 6 and 7: BOOL, finite F32, and the stated range (R125, R126, R699). -/
def rangeAbort (row : ObjRow) (v : List Byte) : Option Nat :=
  let n := leNat v
  if row.ty = 1 ∧ 1 < n then some 0x00030002
  else if row.ty = 7 ∧ n / 2 ^ 23 % 256 = 255 then some 0x00030002
  else if row.ty = 8 ∧ n / 2 ^ 52 % 2048 = 2047 then some 0x00030002
  else match row.range with
    | .any => none
    | .rng lo hi => if lo ≤ n ∧ n ≤ hi then none else some 0x00030002
    | .stp lo hi k => if n < lo ∨ hi < n then some 0x00030002 else if n % k = 0 then none else some 0x00030003
    | .lst l => if l.contains n then none else some 0x00030002
    | .flt hi => if 0 < n ∧ n ≤ hi then none else some 0x00030002

/-- Step 8: bring-up phases and the reduced recovery service (R86, R679). -/
def Sys.phaseAbort (s : Sys) (i : Nat) (write : Bool) : Option Nat :=
  let ph := s.mgmt.bring.phase
  let ok :=
    if ph = 8 then true
    else if ph = 0xFE then
      (if write then [0xB021, 0xB023, 0x8020].contains i
        else [0x1000, 0x1018, 0x2040, 0x2100, 0xA000].contains i || decide (0xB000 ≤ i ∧ i ≤ 0xB024))
    else !write || [1, 2, 0xA, 0xB, 0xF].contains (i / 4096)
  if ok then none else some 0x00050001

/-- The first of several checks that fails. -/
def firstAbort : List (Option Nat) → Option Nat
  | [] => none
  | some a :: _ => some a
  | none :: t => firstAbort t

/-! ## The handshake (R155 to R160, Table 4-10) -/

/-- A role key slot: role, and the key (0xF020). -/
def Sys.roleKey (s : Sys) (k : Nat) : List Byte := s.cfg 0xF020 (k + 1)

/-- CHALLENGE: the slot holds the transcript and the session key. -/
def Sys.challenge (s : Sys) (k keySlot : Nat) (o : OpenReq) : Sys :=
  let sid := s.freeNat % (2 ^ 32 - 1) + 1
  let s := s.drew 1
  let nonce := s.freeBytes 32
  let s := s.drew 32
  let priv := s.freeBytes 56
  let s := s.drew 56
  let pub := Config.x448Public priv
  let payload := natLe 1 o.role ++ natLe 1 o.keySlot ++ zeros 2 ++ o.nonce ++ o.x448 ++ o.claimKey
  let th := Config.shake256 64 (payload ++ nonce ++ pub ++ natLe 4 sid)
  let key := Config.shake256 32 (txOdpKey ++ Config.x448Shared priv o.x448 ++ th)
  let s := s.onSession k (fun _ => { Session.free with
    phase := 1, sid := sid, role := o.role, iface := o.iface, src := o.src, sport := o.sport, keySlot := keySlot, transcript := th, key := key })
  s.sent o.iface o.src o.sport (odpFrame 2 sid 0 0 (nonce ++ pub ++ Config.ed448Sign s.mgmt.sec.identityKey (txOdpDev ++ th)))

/-- A refusal of an OPEN, without a tag. -/
def Sys.refuseOpen (s : Sys) (o : OpenReq) (a : Nat) : Sys := s.sent o.iface o.src o.sport (odpFrame 1 0 0 0 (natLe 4 a))

def openLengths (o : OpenReq) : Bool :=
  o.nonce.length == 32 && o.x448.length == 56 && o.claimKey.length == (if o.keySlot = 0xFF then 57 else 0)

/-- OPEN, and CLAIM of an empty role key table on T1S (R160). -/
def odpOpen (o : OpenReq) (s : Sys) : Sys :=
  if s.odpServes o.iface then
    if openLengths o = false then s.refuseOpen o 0x00010003
    else
      match (List.range 16).find? (fun k => (s.session k).phase == 0) with
      | none => s.refuseOpen o 0x00010005
      | some k =>
        if o.keySlot ≠ 0xFF then s.challenge k o.keySlot o
        else if o.iface = 2 ∧ (List.range 16).all (fun i => s.roleKey i == []) = true then
          let v := natLe 1 2 ++ o.claimKey
          (((s.setCfg 0xF020 1 v).onDict (fun d => { d with store := assocSet d.store (0xF020 * 256 + 1) v })).journal).challenge k 0 o
        else s.refuseOpen o 0x00070001
  else s

/-- PROVE: the session opens when the signature verifies and the slot's role suffices (R156, R157). -/
def odpProve (p : ProveReq) (s : Sys) : Sys :=
  if s.odpServes p.iface then
    match s.sessionOf 1 p.iface p.sid p.src p.sport with
    | some k =>
      if p.seq ≠ 1 ∨ p.tag ≠ proveTag (s.session k).key p then s.discard
      else
        let x := s.session k
        let key := s.roleKey x.keySlot
        let ok := key != [] && decide (1 ≤ x.role ∧ x.role ≤ field key 0 1) && Config.ed448Verify (key.drop 1) (txOdpCli ++ x.transcript) p.sig
        if ok then (s.onSession k (fun x => { x with phase := 2 })).answer k 1 3 0 (natLe 4 0 ++ s.cfg 0xF000 5)
        else (s.onSession k (fun _ => Session.free)).sent p.iface p.src p.sport (odpFrame 3 p.sid 1 0 (natLe 4 0x00010006))
    | none =>
      match s.sessionOf 2 p.iface p.sid p.src p.sport with
      | some k =>
        if (s.session k).lastSeq = 1 ∧ p.seq = 1 ∧ p.tag = proveTag (s.session k).key p then
          s.sent p.iface p.src p.sport (s.session k).lastResp
        else s.discard
      | none => s.discard
  else s

/-- CLOSE. -/
def closeRequest (r : OdpReq) (k : Nat) (d : Dev) : Dev := liftSys (fun s => (s.respond k r 5 0 0).endSession k) d

/-- SESSION_IDLE_TIMEOUT; a request still executing is a valid frame. -/
def sessionIdle (k : Nat) (s : Sys) : Sys :=
  if s.mgmtUp && (s.session k).phase != 0 && !(match s.mgmt.dict.jpending with
    | some j => j.slot == k
    | none => false) then s.endSession k else s
def execSessionIdleTimeout (slot : Nat) := onSys (sessionIdle slot)

/-- ODP_DATAGRAM_DISCARD. -/
def datagramDiscard (iface : Nat) (s : Sys) : Sys := if s.mgmtUp && decide (iface < 3) then s.discard else s
def execOdpDatagramDiscard (iface : Nat) := onSys (datagramDiscard iface)

end Sys2Proof.Machine
end

