-- ==== Sys2Proof/Machine/Topology.lean ====
section
/-! DEFINITION. The block-manager function (14_topology.md, R524 to R529): polls, armed policies, the splice and reclose
procedure, and circuit requests. -/

namespace Sys2Proof.Machine

open Sys2Proof

/-! ## Requests to members -/

def Sys.poll? (s : Sys) (member : Nat) : Option PollAnswer := (s.fab.polls.find? (fun x => x.1 == member)).map Prod.snd

/-- An entry of the action log (0x6401), newest first, 64 at most. -/
def Sys.bmAct (s : Sys) (code member port abort : Nat) : Sys :=
  let word := ((s.poll? member).map PollAnswer.fabricWord).getD 0 % 2 ^ 32
  s.onFab (fun f => { f with
    actions := (⟨code, member, port, word, abort, s.mgmt.cycles⟩ :: f.actions).take 64
    nActions := f.nActions + 1 })

/-- A block manager sends a device one write request; the answer is not a command of this block, so its abort code (0 for none)
is a free value (log entry 31). -/
def Sys.ask (s : Sys) (r : BmReq) : Sys × Nat :=
  let abort := if s.freeBool then 0 else Config.freeNat (s.freeCtr + 1) % 2 ^ 32
  ((s.drew 2).onFab (fun f => { f with bmOut := f.bmOut ++ [r] }), abort)

/-- A run of requests, up to the first that fails: the failing member and its abort code. -/
def Sys.askAll (s : Sys) : List BmReq → Sys × Option (Nat × Nat)
  | [] => (s, none)
  | r :: rest =>
    let x := s.ask r
    if x.2 = 0 then Sys.askAll x.1 rest else (x.1, some (r.member, x.2))

/-- Writes of values and the commit of their group, at a device (block, member). -/
def commitOf (at_ : Nat × Nat) (index : Nat) (ws : List (Nat × List Byte)) : List BmReq :=
  ws.map (fun w => ⟨at_.1, at_.2, index, w.1, w.2⟩) ++ [⟨at_.1, at_.2, index, 0xFE, [1]⟩]

/-! ## Members, positions and directions (R505, R510) -/

def viewOf (a : PollAnswer) (port : Nat) : PortView := a.ports.getD port ⟨1, 0, false, 0, [], 0⟩
def maskOf (p : Nat → Bool) : Nat := ((List.range 16).filter p).foldl (fun m p => m + 2 ^ p) 0
def routedMask (a : PollAnswer) : Nat := maskOf (fun p => (viewOf a p).routed)
def enabledMask (a : PollAnswer) : Nat := maskOf (fun p => (viewOf a p).state != 0)
def portsMask (l : List Nat) : Nat := maskOf (fun p => l.contains p)
/-- A mask without some ports. -/
def without (m ports : Nat) : Nat := m - (m &&& ports)

/-- What the manager has written since is part of the latest answer. -/
def Sys.onView (s : Sys) (member port : Nat) (g : PortView → PortView) : Sys :=
  s.onFab (fun f => { f with polls := f.polls.map (fun x => if x.1 = member then (x.1, { x.2 with ports := modNth x.2.ports port g }) else x) })

/-- The member whose serial the member list gives (0x6400 sub 0x06). -/
def Sys.memberSerial (s : Sys) (member : Nat) : List Byte := ((s.cfg 0x6400 6).drop (32 * member)).take 16
def Sys.memberOf (s : Sys) (serial : List Byte) : Option Nat :=
  (List.range 68).find? (fun m => decide (32 * m + 32 ≤ (s.cfg 0x6400 6).length) && s.memberSerial m == serial && serial.any (fun b => b != 0))

/-- The neighbour of a position in a direction: the adjacent block it lies in (0 its own) and its position there. -/
def neighbour (place d : Nat) : Nat × Nat :=
  let stride := if d / 2 = 0 then 1 else if d / 2 = 1 then 4 else 16
  let c := place / stride % 4
  let c' := if d % 2 = 0 then (c + 1) % 4 else (c + 3) % 4
  ((if (d % 2 = 0 ∧ c = 3) ∨ (d % 2 = 1 ∧ c = 0) then d + 1 else 0), place - stride * c + stride * c')

def opposite (d : Nat) : Nat := if d % 2 = 0 then d + 1 else d - 1

/-- The position a member holds: its index, or that of the failed member whose place it was spliced into. -/
def Sys.placeOf (s : Sys) (member : Nat) : Option Nat :=
  match s.fab.places.find? (fun x => x.2 == member) with
  | some x => some x.1
  | none => if member < 64 ∧ s.fab.places.any (fun x => x.1 == member) = false then some member else none
/-- The device at the neighbouring position in a direction, as (block, member). -/
def Sys.deviceAt (s : Sys) (nb : Nat × Nat) : Nat × Nat :=
  (nb.1, if nb.1 = 0 then assoc s.fab.places nb.2 nb.2 else nb.2)
/-- The fabric ID of a position in the manager's own block (R505). -/
def Sys.placeFid (s : Sys) (place : Nat) : Nat × Nat × Nat :=
  (s.cfgN 0x6110 2 / 4 * 4 + place % 4, s.cfgN 0x6110 3 / 4 * 4 + place / 4 % 4, s.cfgN 0x6110 4 / 4 * 4 + place / 16)

/-- The ports that serve a direction of a device: its two copies (Table 14-2), or the bypass ports that R528 put in their place. -/
def Sys.portsFor (s : Sys) (dev : Nat × Nat) (d : Nat) : List Nat := ((s.fab.served.find? (fun x => x.1 == (dev, d))).map Prod.snd).getD [d, d + 6]
/-- The direction that a port of a member serves, and the other copy of it. -/
def Sys.otherCopy (s : Sys) (member p : Nat) : Option Nat :=
  ((List.range 6).find? (fun d => (s.portsFor (0, member) d).contains p)).bind (fun d =>
    (s.portsFor (0, member) d).find? (fun q => q != p))

/-- Whether a device has answered a poll: the manager polls the members of its own block. -/
def Sys.seen? (s : Sys) (dev : Nat × Nat) : Option PollAnswer := if dev.1 = 0 then s.poll? dev.2 else none

/-- The choices of two bypass ports. -/
def bypassPairs : List (List Nat) := [[12, 13], [12, 14], [12, 15], [13, 14], [13, 15], [14, 15]]
/-- The first two bypass ports of a neighbour that are free: not UP, UNACCEPTED or serving a direction. Which are free on a device
that has answered no poll is a free value of the choice `k` (log entry 31). -/
def Sys.freeBypass (s : Sys) (k : Nat) (dev : Nat × Nat) : List Nat :=
  match s.seen? dev with
  | none => bypassPairs.getD (Config.freeNat (s.freeCtr + k) % 6) []
  | some a => ([12, 13, 14, 15].filter (fun p => (viewOf a p).state != 3 && (viewOf a p).state != 4 &&
      !((List.range 6).any (fun d => (s.portsFor dev d).contains p)))).take 2

/-! ## Policies on a polled member (R526, R527, R529) -/

/-- R526: narrow links wide enough are accepted. -/
def Sys.acceptNarrow (member : Nat) (a : PollAnswer) (s : Sys) : Sys :=
  let w := s.cfgN 0x6400 1
  if w = 0 then s
  else
    runAll (fun p s =>
      let v := viewOf a p
      if v.state = 3 ∧ v.width ≥ w then
        let x := s.ask ⟨0, member, 0x6020, p + 1, [1]⟩
        x.1.bmAct (if x.2 = 0 then 1 else 6) member p x.2
      else s) (List.range 16) s

/-- The far member and its port of a failed port, where the other copy of the direction stays in routing on both devices (R527). -/
def Sys.withdrawable (s : Sys) (member : Nat) (p : Nat) : Option (Nat × Nat) :=
  (s.poll? member).bind (fun a => (s.memberOf (viewOf a p).farSerial).bind (fun m => (s.poll? m).bind (fun b =>
    let f := (viewOf a p).farPort
    match s.otherCopy member p, s.otherCopy m f with
    | some q, some fq => if (viewOf a q).routed && (viewOf b fq).routed then some (m, f) else none
    | _, _ => none)))

/-- R527: a failed port leaves the routing of both members while its copy stays, and is only logged where it does not; the bits that
are clear already are not written again (log entry 31). -/
def Sys.withdrawPort (member : Nat) (p : Nat) (s : Sys) : Sys :=
  match s.withdrawable member p with
  | none => s.bmAct 2 member p 0
  | some (m, f) =>
    let on := fun (m p : Nat) => (s.poll? m).any (fun a => (viewOf a p).routed)
    let out := fun (m p : Nat) => commitOf (0, m) 0x6300 [(5, natLe 2 (without (((s.poll? m).map routedMask).getD 0) (2 ^ p)))]
    if on member p || on m f then
      let x := s.askAll ((if on member p then out member p else []) ++ (if on m f then out m f else []))
      match x.2 with
      | none => ((x.1.onView member p (fun v => { v with routed := false })).onView m f (fun v => { v with routed := false })).bmAct 2 member p 0
      | some (who, abort) => x.1.bmAct 6 who p abort
    else s

def Sys.withdrawFailed (member : Nat) (a : PollAnswer) (s : Sys) : Sys :=
  if s.cfgN 0x6400 3 = 1 then
    runAll (fun p s => if (viewOf a p).state = 1 ∨ (viewOf a p).state = 5 then Sys.withdrawPort member p s else s) (List.range 16) s
  else s

/-- R529: failed cores with remap status 0 or 4. -/
def Sys.remapFailed (member : Nat) (a : PollAnswer) (s : Sys) : Sys :=
  let pol := s.cfgN 0x6400 8
  let req := fun (core act site : Nat) => (⟨0, member, 0xA210, 1, natLe 1 core ++ natLe 1 act ++ natLe 2 site ++ zeros 4⟩ : BmReq)
  if pol = 0 then s
  else
    runAll (fun (c : Nat × Nat) s =>
      if c.2 = 0 ∨ c.2 = 4 then
        let x := if pol = 1 then s.ask (req c.1 1 0xFFFF) else s.ask (req c.1 2 0)
        let y := if pol = 1 ∧ x.2 = 0x00030111 then x.1.ask (req c.1 2 0) else x
        y.1.bmAct (if y.2 = 0 then 7 else 6) member c.1 y.2
      else s) a.failed s

/-! ## Splice and reclose (R528) -/

/-- The six neighbours of a position, with the direction from each back to it. -/
def Sys.neighbours (s : Sys) (place : Nat) : List ((Nat × Nat) × Nat) :=
  (List.range 6).map (fun d => (s.deviceAt (neighbour place d), opposite d))

/-- Port enable and routing mask of a device as the manager reads them: those of a device that answers no poll of its own are free
values of the choice `k` (log entry 31). -/
def Sys.masksOf (s : Sys) (k : Nat) (dev : Nat × Nat) : Nat × Nat :=
  match s.seen? dev with
  | some a => (enabledMask a, routedMask a)
  | none => (Config.freeNat (s.freeCtr + 6 + 2 * k) % 2 ^ 16, Config.freeNat (s.freeCtr + 7 + 2 * k) % 2 ^ 16)

/-- The ports of the six neighbours towards a position, and the masks without them (step 1). -/
def Sys.cutMasks (s : Sys) (place : Nat) : List ((Nat × Nat) × (Nat × Nat)) :=
  (s.neighbours place).zipIdx.map (fun n =>
    let off := portsMask (s.portsFor n.1.1 n.1.2)
    let m := s.masksOf n.2 n.1.1
    (n.1.1, (without m.1 off, without m.2 off)))

/-- Step 1: the ports towards the position leave Port enable and the routing masks of the six neighbours. -/
def cutReqs (masks : List ((Nat × Nat) × (Nat × Nat))) : List BmReq :=
  masks.flatMap (fun n => ⟨n.1.1, n.1.2, 0x6021, 1, natLe 2 n.2.1⟩ :: commitOf n.1 0x6300 [(5, natLe 2 n.2.2)])

/-- The circuits of step 2, ends as (block, member, port). -/
def Sys.circuitEnds (s : Sys) (place : Nat) (spare : Option Nat) : List ((Nat × Nat × Nat) × (Nat × Nat × Nat)) :=
  let dev := fun d => s.deviceAt (neighbour place d)
  match spare with
  | some sp =>
    (List.range 6).flatMap (fun d =>
      ((s.freeBypass d (dev d)).zip [d, d + 6]).map (fun x => (((dev d).1, (dev d).2, x.1), (0, sp, x.2))))
  | none =>
    [0, 2, 4].flatMap (fun d =>
      ((s.freeBypass d (dev d)).zip (s.freeBypass (d + 1) (dev (d + 1)))).map (fun x =>
        (((dev d).1, (dev d).2, x.1), ((dev (d + 1)).1, (dev (d + 1)).2, x.2))))

/-- One connect request per circuit (Table 14-4). -/
def Sys.postCircuits (s : Sys) (ends : List ((Nat × Nat × Nat) × (Nat × Nat × Nat))) : Sys × List Nat :=
  ends.foldl (fun (x : Sys × List Nat) e =>
    let q := (x.1.fab.circuitSeq + 1) % 2 ^ 32
    (x.1.onFab (fun f => { f with
        circuitSeq := q
        circuits := f.circuits ++ [⟨q, 1, e.1.1, e.1.2.1, e.1.2.2, e.2.1, e.2.2.1, e.2.2.2⟩] }), x.2 ++ [q])) (s, [])

/-- The masks that requests have written are those the manager goes on from. -/
def Sys.masksWritten (s : Sys) (masks : List ((Nat × Nat) × (Nat × Nat))) : Sys :=
  runAll (fun n s => if n.1.1 ≠ 0 then s else
    runAll (fun p s => s.onView n.1.2 p (fun v =>
      { v with routed := bit n.2.2 p, state := if bit n.2.1 p then (if v.state = 0 then 1 else v.state) else 0 })) (List.range 16) s) masks s

/-- The procedure ends at a request that fails. -/
def Sys.spliceFails (s : Sys) (member abort : Nat) : Sys := (s.bmAct 6 member 0 abort).onFab (fun f => { f with splice := none })

/-- The free spare that a splice takes: policy 1, role 3 at its latest poll and no poll missed. -/
def Sys.freeSpare (s : Sys) : Option Nat :=
  if s.cfgN 0x6400 2 = 1 then
    [64, 65, 66, 67].find? (fun m => (s.poll? m).any (fun a => a.role == 3) && NMap.get s.fab.missed m == 0 && (s.placeOf m).isNone)
  else none

/-- A failed member's position is spliced or reclosed under the policy in force: steps 1 and 2. One procedure runs at a time; a
member that fails meanwhile has its turn at its next missed poll (log entry 31). -/
def Sys.deviceFailed (member : Nat) (s : Sys) : Sys :=
  match s.placeOf member with
  | none => s
  | some place =>
    if s.cfgN 0x6400 2 = 0 ∨ s.fab.splice.isSome = true ∨ s.fab.handled.contains member = true then s
    else
      let spare := s.freeSpare
      let s := ((s.bmAct (if spare.isSome then 3 else 4) member 0 0).actionOther 255).onFab (fun f => { f with handled := f.handled ++ [member] })
      let masks := s.cutMasks place
      let ends := s.circuitEnds place spare
      let x := (s.drew 18).askAll (cutReqs masks)
      match x.2 with
      | some (who, abort) => x.1.spliceFails who abort
      | none =>
        let y := (x.1.masksWritten masks).postCircuits ends
        y.1.onFab (fun f => { f with splice := some ⟨member, place, spare, 2, y.2, ends, masks⟩ })

/-- The ports of a device that the circuits end at. -/
def Splice.portsAt (sp : Splice) (dev : Nat × Nat) : List Nat :=
  (sp.ends ++ sp.ends.map (fun e => (e.2, e.1))).filterMap (fun e => if (e.1.1, e.1.2.1) = dev then some e.1.2.2 else none)
/-- The devices the circuits end at: the neighbours, and the spare. -/
def Splice.devices (sp : Splice) : List (Nat × Nat) := sp.masks.map Prod.fst ++ (sp.spare.map (fun m => (0, m))).toList

/-- The serial at a circuit's end: the member list's, or for a device of another block what the failed member last observed there. -/
def Sys.endSerial (s : Sys) (sp : Splice) (dev : Nat × Nat) : List Byte :=
  if dev.1 = 0 then s.memberSerial dev.2
  else ((s.poll? sp.member).map (fun a => (viewOf a (dev.1 - 1)).farSerial)).getD []
/-- The plan entry (Table 14-6) of a circuit's end: the other end's port and serial, roles 1 and 2. -/
def Sys.planEntry (s : Sys) (sp : Splice) (far : Nat × Nat × Nat) : List Byte :=
  natLe 1 1 ++ natLe 1 far.2.2 ++ natLe 1 6 ++ [0] ++ (s.endSerial sp (far.1, far.2.1) ++ zeros 16).take 16 ++ zeros 12

/-- Port enable and routing mask of a device of the procedure: its latest poll's, or those the manager wrote. -/
def Sys.spliceMasks (s : Sys) (sp : Splice) (dev : Nat × Nat) : Nat × Nat :=
  ((s.seen? dev).map (fun a => (enabledMask a, routedMask a))).getD (((sp.masks.find? (fun x => x.1 == dev)).map Prod.snd).getD (0, 0))

/-- Steps 3 to 5: identity of the spare, plan entries, and Port enable. -/
def Sys.spliceReqs (s : Sys) (sp : Splice) : List BmReq :=
  let c := s.placeFid sp.place
  let sides := sp.ends ++ sp.ends.map (fun e => (e.2, e.1))
  (match sp.spare with
   | some m => commitOf (0, m) 0x6110 [(1, [1]), (2, natLe 1 c.1), (3, natLe 1 c.2.1), (4, natLe 1 c.2.2), (5, [1])]
   | none => [])
  ++ sp.devices.flatMap (fun dev =>
      commitOf dev 0x6100 ((sides.filter (fun e => (e.1.1, e.1.2.1) == dev)).map (fun e => (e.1.2.2 + 1, s.planEntry sp e.2))))
  ++ sp.devices.map (fun dev => ⟨dev.1, dev.2, 0x6021, 1, natLe 2 ((s.spliceMasks sp dev).1 ||| portsMask (sp.portsAt dev))⟩)

/-- Six direction masks: those in use, with `ports` for one direction. -/
def Sys.directionBytes (s : Sys) (dev : Nat × Nat) (d : Nat) (ports : List Nat) : List Byte :=
  (List.range 6).flatMap (fun e => natLe 2 (portsMask (if e = d then ports else s.portsFor dev e)))

/-- A member's unreachable list with the failed fabric ID: what the manager reads that it holds already is free (log entry 31). -/
def Sys.unreachableWith (s : Sys) (sp : Splice) (m : Nat) : List Byte :=
  let c := s.placeFid sp.place
  let k := s.freeCtr + 162 + 1021 * m
  (List.range (4 * (Config.freeNat k % 256))).map (fun i => Config.freeByte (k + 1 + i)) ++ natLe 4 (fidOf c.1 c.2.1 c.2.2)

/-- Step 6: routes use the bypass ports. The spare's routing group, which its new identity emptied, takes its own directions and
ports; the axis tables and dateline ports that it takes are not stated and free (log entry 31). A reclosed position is unreachable
to every member. -/
def Sys.routeReqs (s : Sys) (sp : Splice) : List BmReq :=
  let lost := fun m => if sp.spare.isNone then [(7, s.unreachableWith sp m)] else []
  let free := fun (k n : Nat) => (List.range n).map (fun i => Config.freeByte (s.freeCtr + k + i))
  (s.neighbours sp.place).flatMap (fun n =>
    let ports := sp.portsAt n.1
    commitOf n.1 0x6300 ([(4, s.directionBytes n.1 n.2 ports), (5, natLe 2 ((s.spliceMasks sp n.1).2 ||| portsMask ports))]
      ++ (if n.1.1 = 0 then lost n.1.2 else [])))
  ++ (match sp.spare with
      | some m => commitOf (0, m) 0x6300 [(1, free 0 64), (2, free 64 64), (3, free 128 32), (4, s.directionBytes (0, m) 6 []),
          (5, natLe 2 (portsMask (sp.portsAt (0, m)))), (6, free 160 2)]
      | none =>
        ((List.range 68).filter (fun m => m != sp.member && !(s.neighbours sp.place).any (fun n => n.1 == (0, m)) && (s.poll? m).isSome)).flatMap
          (fun m => commitOf (0, m) 0x6300 (lost m)))

/-- The manager acts only in its role and under the policy as it stands: a splice under policy 1, a reclosure under 1 or 2 (R504,
R524, R528). -/
def Sys.spliceArmed (s : Sys) (sp : Splice) : Bool :=
  s.role == 2 && (s.cfgN 0x6400 2 == 1 || (s.cfgN 0x6400 2 == 2 && sp.spare.isNone))
def Sys.spliceEnds (s : Sys) : Sys := s.onFab (fun f => { f with splice := none })

/-- All circuits are applied: steps 3 to 5. The spare then holds the position. -/
def Sys.spliceConnect (s : Sys) (sp : Splice) : Sys :=
  let x := s.askAll (s.spliceReqs sp)
  match x.2 with
  | some (who, abort) => x.1.spliceFails who abort
  | none => x.1.onFab (fun f => { f with
      splice := some { sp with step := 5, waiting := [] }
      places := (sp.spare.map (fun m => (sp.place, m))).toList ++ f.places.filter (fun x => sp.spare.isNone || x.1 != sp.place) })

/-- Step 6, once every port is UP or the training timeout has passed. -/
def Sys.spliceRoutes (s : Sys) (sp : Splice) : Sys :=
  let x := (s.drew (162 + 1021 * 68)).askAll (s.routeReqs sp)
  match x.2 with
  | some (who, abort) => x.1.spliceFails who abort
  | none =>
    ((x.1.masksWritten ((s.neighbours sp.place).map (fun n =>
        let m := s.spliceMasks sp n.1
        (n.1, (m.1 ||| portsMask (sp.portsAt n.1), m.2 ||| portsMask (sp.portsAt n.1)))))).onFab (fun f => { f with
      served := (s.neighbours sp.place).map (fun n => ((n.1, n.2), sp.portsAt n.1)) ++
        f.served.filter (fun x => !(s.neighbours sp.place).any (fun n => x.1 == (n.1, n.2))) })).spliceEnds

/-- Whether the polls show the ports of the new circuits in this block UP; a circuit to another block has one such end. -/
def Sys.splicePortsUp (s : Sys) (sp : Splice) : Bool :=
  sp.devices.all (fun dev => dev.1 != 0 || (sp.portsAt dev).all (fun p => (s.poll? dev.2).any (fun a => (viewOf a p).state == 4)))

/-- An acknowledged circuit request: refusal ends the procedure, the last one applied resumes it (R512, R528). -/
def Sys.circuitAck (s : Sys) (seq status : Nat) : Sys :=
  let c := s.fab.circuits.head?
  let s := s.onFab (fun f => { f with circuits := f.circuits.drop 1 })
  match s.fab.splice with
  | none => s
  | some sp =>
    if sp.step ≠ 2 ∨ sp.waiting.contains seq = false then s
    else if s.spliceArmed sp = false then s.spliceEnds
    else if status = 1 then (s.bmAct 5 sp.member ((c.map Circuit.aPort).getD 0) 0).spliceEnds
    else
      let sp := { sp with waiting := sp.waiting.filter (fun q => q != seq) }
      if sp.waiting = [] then s.spliceConnect sp else s.onFab (fun f => { f with splice := some sp })

/-- Step 6 of a procedure that waits for its ports. -/
def Sys.spliceGoOn (s : Sys) (sp : Splice) : Sys := if s.spliceArmed sp then s.spliceRoutes sp else s.spliceEnds

/-- BLOCK_MANAGER_POLL: a member's answers, or none within the interval (R525). -/
def blockManagerPoll (member : Nat) (answer : Option PollAnswer) (s : Sys) : Sys :=
  if s.ready && s.mgmtUp && s.role == 2 && decide (member < 68) then
    match answer with
    | some a =>
      let s := s.onFab (fun f => { f with
        missed := NMap.set f.missed member 0, polls := assocSet f.polls member a, handled := f.handled.filter (fun m => m != member) })
      let s := Sys.remapFailed member a (Sys.withdrawFailed member a (Sys.acceptNarrow member a s))
      match s.fab.splice with
      | some sp => if sp.step = 5 ∧ s.splicePortsUp sp = true then s.spliceGoOn sp else s
      | none => s
    | none =>
      let n := NMap.get s.fab.missed member + 1
      let s := s.onFab (fun f => { f with missed := NMap.set f.missed member n })
      if n ≥ s.cfgN 0x6400 5 then Sys.deviceFailed member s else s
  else s
def execBlockManagerPoll (member : Nat) (answer : Option PollAnswer) := onSys (blockManagerPoll member answer)

/-- SPLICE_TRAINING_TIMEOUT. -/
def spliceTimeout (s : Sys) : Sys :=
  match s.fab.splice with
  | some sp => if sp.step = 5 ∧ s.mgmtUp = true ∧ s.ready = true then s.spliceGoOn sp else s
  | none => s
def execSpliceTrainingTimeout := onSys spliceTimeout

end Sys2Proof.Machine
end

