-- ==== Sys2Proof/Machine/ReadObj.lean ====
section
/-! DEFINITION. What a read of each object returns (the object tables of 02 to 19): live values where the object shows the state
of a unit, and the committed value elsewhere (R129, R137). -/

namespace Sys2Proof.Machine

open Sys2Proof

/-! ## Packing -/

def packNums (w : Nat) (l : List Nat) : List Byte := (l.map (natLe w)).flatten
def bitsOf (n : Nat) (f : Nat → Bool) : Nat := ((List.range n).filter f).foldl (fun a i => a + 2 ^ i) 0
def u64 (n : Nat) : List Byte := natLe 8 n
def flagByte (b : Bool) : List Byte := natLe 1 (if b then 1 else 0)
def i16 (x : Int) : List Byte := natLe 2 (ofSigned 16 x)
def i32 (x : Int) : List Byte := natLe 4 (ofSigned 32 x)
/-- A counter the model does not keep: free (log entry 2). -/
def Sys.freeCount (s : Sys) (k : Nat) : Nat := Config.freeNat (s.freeCtr + k) % 2 ^ 64
/-- The k-th of a run of objects that starts at a sub-index. -/
def inRun (sub lo n : Nat) : Bool := decide (lo ≤ sub ∧ sub < lo + n)

/-! ## Coupled groups (Table 4-5) -/

def Sys.pending (s : Sys) (i : Nat) : Pending := assoc s.mgmt.dict.pending i Pending.none
/-- No unit acts on a set older than the one committed last: no trained port has older allocations (R448), and no partition waits
for its reset (R575). -/
def Sys.boundaryPassed (s : Sys) (i : Nat) : Bool :=
  if i = 0x6010 then s.fab.ports.all (fun t => !(t.state == 3 || t.state == 4) || t.allocCommit == s.cfgN 0x6012 1)
  else i == 0x8000 && s.host.parts.all (fun p => p.waiting.isNone)
/-- Table 4-5; a set that waited is applied once its boundary has passed (log entry 119). -/
def Sys.pendingStatus (s : Sys) (i : Nat) : Nat :=
  let p := s.pending i
  p.values.length + 256 * p.owner.getD 0xFF + 65536 * (if p.last = 2 ∧ s.boundaryPassed i = true then 1 else p.last)

/-! ## 0x1000 to 0x2FFF -/

def Discrepancy.bytes (x : Discrepancy) : List Byte := natLe 1 x.phase ++ natLe 1 x.kind ++ natLe 2 x.unit ++ natLe 4 x.detail ++ u64 x.count

def Sys.read1 (s : Sys) (i sub : Nat) : List Byte :=
  if i = 0x1018 ∧ sub = 4 then s.mgmt.sec.serial
  else if i = 0x1018 ∧ sub = 6 then u64 s.mgmt.sec.mgmtMac
  else if i = 0x1018 ∧ sub = 7 then natLe 4 s.runningVersion
  else s.cfg i sub

def Dev.readBring (d : Dev) (sub : Nat) : List Byte :=
  let b := d.sys.mgmt.bring
  if sub = 1 then natLe 1 b.phase
  else if sub = 2 then natLe 1 b.status
  else if sub = 3 then natLe 4 b.nBringUps
  else if sub = 4 then natLe 2 b.discCount
  else if sub = 5 then (b.discs.map Discrepancy.bytes).flatten
  else if sub = 6 then natLe 1 b.runningImage
  else if sub = 7 then natLe 1 (bitsOf 8 (fun st => (d.mem.stack st).trained))
  else if sub = 8 then natLe 2 b.portsTrained
  else if sub = 9 then natLe 1 b.ethTrained
  else if sub = 0x0A then natLe 1 (b.coreMap.filter (fun x => x != 65535)).length
  else if sub = 0x0B then natLe 1 b.spares.length
  else u64 (nth b.phaseEnds (sub - 0x0C))

def Sys.readPower (s : Sys) (i sub : Nat) : List Byte :=
  let p := s.mgmt.power
  if i = 0x2000 then natLe 4 (nth [p.mv, p.ma, p.avgMw / 1000, p.peakMw / 1000] (sub - 1))
  else if i = 0x2010 ∧ sub = 4 then natLe 1 s.appliedStep
  else if i = 0x2010 ∧ sub = 5 then natLe 1 p.capStep
  else if i = 0x2010 ∧ sub = 6 then natLe 1 p.thermStep
  else if i = 0x2010 ∧ sub = 7 then u64 p.nThrottled
  else if i = 0x2010 ∧ sub = 8 then u64 p.nCapUnmet
  else if i = 0x2020 then natLe 4 (p.temps.getD (sub - 1) 0).toNat
  else if i = 0x2021 ∧ sub = 4 then u64 p.nThermal
  else if i = 0x2030 then natLe 1 (nth p.lineUp (sub - 1))
  else if i = 0x2031 then natLe 4 (if sub ≤ 6 then (p.lineUw.getD (sub - 1) []).sum else nth p.laserLoss (sub - 7))
  else if i = 0x2040 then natLe 1 (if sub = 1 then p.slotId % 64 else p.bootMode % 4)
  else s.cfg i sub

def Sys.readAgeing (s : Sys) (sub : Nat) : List Byte :=
  let r := s.mgmt.rel
  if sub = 1 then (r.slack.map i16).flatten
  else if sub = 2 then (r.ringOsc.map i32).flatten
  else if sub = 3 then (r.eye.map (fun x => natLe 2 x.1 ++ natLe 2 x.2)).flatten
  else if sub = 4 then (r.bias.map i16).flatten
  else u64 r.lastSample

def Dev.read2 (d : Dev) (i sub : Nat) : List Byte :=
  let b := d.sys.mgmt.bring
  if i = 0x2100 then d.readBring sub
  else if i = 0x2110 ∧ sub = 1 then packNums 2 (b.assignment.getD [])
  else if i = 0x2120 then
    (if sub = 1 then natLe 2 b.recVersion
      else if sub = 2 then natLe 20 (bitsOf 160 (fun n => b.good.getD n false))
      else if sub = 3 then natLe 4 b.sramRepairs
      else b.stackSerials.flatten)
  else if i = 0x2121 then packNums 1 b.results
  else if i = 0x2200 then d.sys.readAgeing sub
  else d.sys.readPower i sub

/-! ## 0x3000 to 0x5FFF -/

def Sys.read3 (s : Sys) (i sub : Nat) : List Byte :=
  let b := s.mgmt.bring
  let c := s.core
  if i = 0x3000 then (if sub = 1 then packNums 2 b.coreMap else natLe 20 (bitsOf 160 b.spares.contains))
  else if i = 0x3010 then (if sub = 1 then natLe 18 (bitsOf 144 c.failed.contains) else natLe 1 c.failed.length)
  else if i = 0x3020 then u64 (if sub = 1 then c.nKills else if sub = 2 then c.nSuppressed else nth c.nFaults (sub - 3))
  else if i = 0x3031 then u64 c.nWatchdog
  else s.cfg i sub

def DecodeQueue.bytes (q : DecodeQueue) : List Byte :=
  if q.isOpen then
    [1] ++ natLe 1 q.part ++ natLe 1 q.t ++ [0] ++ natLe 4 q.b ++ natLe 4 q.takeSize ++ natLe 2 q.held ++ natLe 2 q.released.length
  else zeros 16

def Slice.count (c : Slice) (k : Nat) : Nat := nth [c.hits, c.misses, c.writebacks, c.invalidations] k
def Stack.count (t : Stack) (k : Nat) : Nat := nth [t.corrected, t.uncorrectable, t.poisonedReads, t.lostPartial] k

def Dev.read4 (d : Dev) (i sub : Nat) : List Byte :=
  let c := d.sys.core
  let h := d.sys.host
  let k := sub - 1
  if i = 0x4008 then u64 ((d.mem.slice (k % 8)).count (k / 8))
  else if i = 0x4010 then u64 (if sub ≤ 0x10 then nth c.transFaults k else nth c.copyFaults (k - 16))
  else if i = 0x4100 ∧ 3 ≤ sub then flagByte (d.mem.stack (sub - 3)).trained
  else if i = 0x4110 then u64 ((d.mem.stack (k % 8)).count (k / 8))
  else if i = 0x4120 ∧ inRun sub 2 8 = true then u64 (d.mem.stack (sub - 2)).scrubPasses
  else if i = 0x4120 ∧ inRun sub 0x0A 8 = true then u64 (d.mem.stack (sub - 0x0A)).scrubCorrections
  else if i = 0x4200 then u64 (nth (h.kCounts.getD (k / 8) []) (k % 8))
  else if i = 0x4201 then u64 (d.sys.part k).kettleCycles
  else if i = 0x4210 ∧ sub = 4 then u64 h.rootsHeld
  else if i = 0x4310 then (h.queues.getD k DecodeQueue.reset).bytes
  else if i = 0x4311 then
    let q := h.queues.getD (k % 16) DecodeQueue.reset
    u64 (nth [q.nThreshold, q.nBudget, q.nKettle] (k / 16))
  else if i = 0x4320 then u64 c.sieveRows
  else d.sys.cfg i sub

def StatSet.bytes (x : StatSet) : List Byte := packNums 8 x.counts ++ natLe 4 x.amax ++ natLe 4 x.crossed ++ zeros 8
def Threshold.bytes (x : Threshold) : List Byte := packNums 8 x.counts ++ natLe 4 x.amax ++ zeros 4

def Sys.read5 (s : Sys) (i sub : Nat) : List Byte :=
  let h := s.host
  let p := sub - 1
  if i = 0x5010 then u64 (nth [s.core.accFlushes, h.statUpdates, h.statEvents] p)
  else if i = 0x5110 then u64 (nth s.core.mxCounts p)
  else if i = 0x5200 then ((List.range 64).map (fun n => (assoc h.stats (64 * p + n) StatSet.zero).bytes)).flatten
  else if i = 0x5210 then ((List.range 64).map (fun n => (assoc h.thresholds (64 * p + n) Threshold.zero).bytes)).flatten
  else s.cfg i sub

/-! ## 0x6000 to 0x7FFF -/

/-- A port table entry (Table 12-12); all zero, with state DOWN, until its machine starts. -/
def Port.bytes (t : Port) : List Byte :=
  natLe 1 t.state ++ natLe 1 t.width ++ natLe 1 t.txMask ++ natLe 1 t.rxMask ++ natLe 1 t.lastDown ++ natLe 1 t.lastTrain ++ natLe 2 t.allocCommit
    ++ natLe 4 t.roundTrip ++ natLe 4 t.farInc ++ natLe 4 t.entriesUp ++ natLe 4 t.entriesDown ++ u64 t.lastChange

/-- A port counter record (Table 12-13); symbols corrected, uncorrectable codewords and cycles waiting for credits are free. -/
def Sys.portCounters (s : Sys) (t : Port) : List Byte :=
  packNums 8 [nth t.counts 0, nth t.counts 1, s.freeCount 0, nth t.counts 3, nth t.counts 4, nth t.counts 5, s.freeCount 2]
    ++ natLe 4 (nth t.counts 7) ++ zeros 4

def Observed.bytes (o : Observed) : List Byte :=
  natLe 1 o.status ++ natLe 1 o.farPort ++ natLe 1 o.farRole ++ [0] ++ (o.farSerial ++ zeros 16).take 16 ++ natLe 4 o.fabricWord
    ++ natLe 4 o.farInc ++ natLe 4 o.planVersion ++ u64 o.count ++ zeros 8

def BmAction.bytes (a : BmAction) : List Byte :=
  natLe 1 a.action ++ natLe 1 a.member ++ natLe 1 a.port ++ [0] ++ natLe 4 a.fabricId ++ natLe 4 a.abort ++ zeros 12 ++ u64 a.count

def Circuit.bytes (c : Circuit) : List Byte :=
  natLe 4 c.seq ++ packNums 1 [c.action, c.aBlock, c.aMember, c.aPort, c.bBlock, c.bMember, c.bPort] ++ zeros 5

def Window.bytes (w : Window) : List Byte :=
  natLe 1 w.state ++ natLe 1 w.part ++ natLe 1 w.perms ++ [0] ++ natLe 4 w.key ++ u64 w.base ++ u64 w.size ++ zeros 8

def Sys.read6 (s : Sys) (i sub : Nat) : List Byte :=
  let f := s.fab
  let k := sub - 1
  if i = 0x6000 then (f.ports.getD k Port.reset).bytes
  else if i = 0x6040 then s.portCounters (f.ports.getD k Port.reset)
  else if i = 0x6111 then natLe 4 s.fabricWord
  else if i = 0x6200 then (s.observation k).bytes
  else if i = 0x6202 then u64 (nth f.helloCounts k)
  else if i = 0x6301 then (if sub = 1 then natLe 4 f.routeGen else u64 f.unroutable)
  else if i = 0x6401 then (if sub = 1 then (f.actions.map BmAction.bytes).flatten else u64 f.nActions)
  else if i = 0x6410 then (f.circuits.map Circuit.bytes).flatten
  else if i = 0x6500 then ((List.range 4096).map (fun w => (assoc f.windows w Window.invalid).bytes)).flatten
  else if i = 0x6502 then
    let r := f.replay.getD k ⟨0, 0, []⟩
    u64 r.addr ++ natLe 2 r.records ++ zeros 6
  else if i = 0x6510 then packNums 8 (f.pcounts.getD k (rep0 8))
  else if i = 0x6511 then u64 (nth f.ccounts k)
  else if i = 0x6600 then packNums 4 ((List.range 4096).map (NMap.get f.multicast))
  else s.cfg i sub

/-- A slot's status (0x7001); its staged bytes are free. -/
def Sys.slotBytes (s : Sys) (g : Nat) : List Byte :=
  let x := s.slot g
  flagByte (s.slotOn g) ++ natLe 1 ((x.running.map Coll.kind).getD 0) ++ flagByte x.nfFlag ++ [0] ++ natLe 4 x.ownRank ++ natLe 4 x.seq
    ++ natLe 4 x.heldLate.length ++ u64 (s.freeCount 0) ++ zeros 8

def Epoch.bytes (e : Epoch) : List Byte :=
  natLe 1 e.state ++ natLe 1 (e.committed % 2) ++ natLe 1 e.lastDecision ++ natLe 1 e.lastReason ++ flagByte e.incomplete ++ zeros 3
    ++ u64 e.target ++ u64 e.entry ++ natLe 4 e.attempt ++ zeros 4

def Sys.read7 (s : Sys) (i sub : Nat) : List Byte :=
  let f := s.fab
  let k := sub - 1
  if i = 0x7001 then s.slotBytes k
  else if i = 0x7010 then u64 (if sub = 8 then s.freeCount 0 else nth f.wcounts k)
  else if i = 0x7400 then u64 (s.epoch k).committed
  else if i = 0x7401 then (s.epoch k).bytes
  else if i = 0x7411 then (f.decisions.filter (fun y => field y 0 1 == k)).flatten
  else if i = 0x7420 then u64 (nth f.ucounts k)
  else s.cfg i sub

/-! ## 0x8000 to 0xFFFF -/

/-- Partition status (0x8001). -/
def Sys.partBytes (s : Sys) (p : Nat) : List Byte :=
  let q := s.part p
  let tail := natLe 4 q.lost ++ natLe 4 q.resets
  if q.enabled then
    natLe 1 (if s.resetting p then 2 else 1) ++ flagByte q.waiting.isSome ++ natLe 2 (s.ringsRunning p).length
      ++ natLe 1 ((List.range 144).filter (fun n => q.hasCore n && s.siteOf n != 65535)).length ++ zeros 3 ++ tail ++ u64 q.nextSeq ++ zeros 8
  else zeros 8 ++ tail ++ zeros 16

def Sys.read8 (s : Sys) (i sub : Nat) : List Byte :=
  let k := sub - 1
  if i = 0x8001 then s.partBytes k
  else if i = 0x8011 then u64 (if sub ≤ 0x10 then (s.part k).sliceBytes else (s.part (k - 16)).flits)
  else s.cfg i sub

/-- A queue pair record as it reads: its reserved bits as 0, whatever a write in state 0 left there (R6, Table 17-2). -/
def qpShown (b : List Byte) : List Byte :=
  let keep := fun k (m : Nat) (x : List Byte) => setNth x k (BitVec.ofNat 8 (field x k 1 &&& m))
  keep 7 0 (keep 11 0 (keep 15 0 (keep 38 0 (keep 39 0 (keep 41 0xEF (keep 48 7 (keep 49 0x7F (keep 51 0 b))))))))
def Sys.read9 (s : Sys) (i sub : Nat) : List Byte :=
  let k := sub - 1
  let e := s.eth k
  if i = 0x9000 then u64 (nth s.mgmt.sec.ethMacs k)
  else if i = 0x9010 then flagByte e.up ++ zeros 3 ++ natLe 4 e.entriesUp ++ natLe 4 e.entriesDown ++ zeros 4
  else if i = 0x9011 then
    packNums 8 [nth e.counts 0, s.freeCount 0, s.freeCount 1, s.freeCount 2, nth e.counts 4, nth e.counts 5, nth e.counts 6, nth e.counts 7]
  else if i = 0x9101 then packNums 8 (s.ring k).counts
  else if i = 0x9100 ∧ sub ≤ 0x40 then (s.cfg i sub).take 32 ++ zeros 32
  else if 0x9200 ≤ i ∧ i ≤ 0x92FF then qpShown (s.qp (16 * (i - 0x9200) + k)).record
  else if i = 0x9300 then packNums 8 (s.host.rdma.getD k (rep0 4))
  else s.cfg i sub

def LogEntry.bytes (e : LogEntry) : List Byte :=
  u64 e.seq ++ u64 e.count ++ natLe 2 e.kind ++ natLe 2 e.unit ++ natLe 1 e.part ++ natLe 1 e.cls ++ zeros 2 ++ e.detail ++ zeros 8
def FailRec.bytes (r : FailRec) : List Byte :=
  natLe 2 r.site ++ natLe 1 r.reason ++ natLe 1 r.cause ++ natLe 2 r.errors ++ zeros 2 ++ u64 r.count
def Remap.bytes (r : Remap) : List Byte := natLe 1 r.state ++ natLe 1 r.action ++ natLe 2 r.site ++ natLe 1 r.result ++ zeros 3

def Sys.readA (s : Sys) (i sub : Nat) : List Byte :=
  let r := s.mgmt.rel
  if i = 0xA000 then
    (if sub = 1 then (r.log.map LogEntry.bytes).flatten else u64 (if sub = 2 then r.nextSeq else r.overwritten))
  else if i = 0xA010 then u64 (nth r.masked sub)
  else if i = 0xA011 then u64 (nth r.detected sub)
  else if i = 0xA101 then packNums 2 r.siteErrors
  else if i = 0xA102 then ((List.range 144).map (fun n => (assoc r.failRecs n FailRec.zero).bytes)).flatten
  else if i = 0xA211 then ((List.range 144).map (fun n => (assoc r.remaps n Remap.none).bytes)).flatten
  else if i = 0xA401 then
    (if sub = 1 then (r.proposed.map MarginPlan.bytes).getD (zeros 64)
      else if sub = 2 then r.planInForce.bytes
      else natLe 4 r.proposals)
  else s.cfg i sub

/-- Slot status (0xB024). -/
def ImageSlot.bytes (m : ImageSlot) : List Byte :=
  natLe 1 (if m.programming then 2 else if m.valid then 1 else 0) ++ natLe 1 m.failedStep ++ zeros 2 ++ natLe 4 m.fwVersion
    ++ natLe 4 m.secVersion ++ zeros 4

def Sys.readB (s : Sys) (slot i sub : Nat) : List Byte :=
  let k := s.mgmt.sec
  if i = 0xB000 then (s.session slot).report
  else if i = 0xB010 then (if sub = 1 then k.identityPub else k.certChain)
  else if i = 0xB022 ∧ sub = 2 then natLe 4 k.floor
  else if i = 0xB024 then (s.image (sub - 1)).bytes
  else if i = 0xB030 then (if sub = 1 then (k.measures.map Measure.bytes).flatten else k.chain)
  else if i = 0xB040 then (s.session slot).sealOut
  else if i = 0xB050 then k.challenge
  else if i = 0xB051 then (if sub = 1 then flagByte k.debugOpen else natLe 4 k.openings)
  else if i = 0xB052 then natLe 4 k.keyBase ++ natLe 4 k.keyLen
  else s.cfg i sub

/-- An entry of the session table (0xF000 sub 0x04). -/
def Session.bytes (x : Session) : List Byte :=
  if x.phase = 2 then
    natLe 1 x.role ++ natLe 1 x.iface ++ flagByte x.unlocked ++ [0] ++ natLe 1 x.keySlot ++ zeros 3 ++ natLe 16 x.src ++ natLe 2 x.sport ++ zeros 6
  else zeros 32

def Sys.readF (s : Sys) (slot i sub : Nat) : List Byte :=
  let d := s.mgmt.dict
  if i = 0xF000 ∧ sub = 1 then natLe 1 slot
  else if i = 0xF000 ∧ sub = 2 then natLe 1 (s.session slot).role
  else if i = 0xF000 ∧ sub = 3 then natLe 1 (d.sessions.filter (fun x => x.phase == 2)).length
  else if i = 0xF000 ∧ sub = 4 then (d.sessions.map Session.bytes).flatten
  else if i = 0xF010 ∧ sub = 3 then natLe 4 d.unlockCount
  else if i = 0xF040 then
    (if sub = 1 then u64 d.discarded
      else if sub = 2 then natLe 4 d.journalSeq
      else if sub = 3 then natLe 4 (2 ^ 20 - d.journalUsed)
      else if sub = 4 then natLe 4 d.compactions
      else natLe 4 d.flashFailures)
  else s.cfg i sub

/-- The value a read of a sub-index returns. -/
def Dev.readObject (d : Dev) (slot i sub : Nat) : List Byte :=
  let s := d.sys
  if sub = 0 then natLe 1 (objHighest i)
  else if sub = 0xFF then natLe 4 (s.pendingStatus i)
  else if i < 0x2000 then s.read1 i sub
  else if i < 0x3000 then d.read2 i sub
  else if i < 0x4000 then s.read3 i sub
  else if i < 0x5000 then d.read4 i sub
  else if i < 0x6000 then s.read5 i sub
  else if i < 0x7000 then s.read6 i sub
  else if i < 0x8000 then s.read7 i sub
  else if i < 0x9000 then s.read8 i sub
  else if i < 0xA000 then s.read9 i sub
  else if i < 0xB000 then s.readA i sub
  else if i < 0xC000 then s.readB slot i sub
  else s.readF slot i sub

/-! ## READ and READ_BLOCK -/

/-- The type code of a sub-index. -/
def objType (i sub : Nat) : Nat := if sub = 0 then 2 else ((objRow i sub).map ObjRow.ty).getD 0

/-- Steps 1 to 3 and 8 of a read; every role may read every object. -/
def Sys.readAbort (s : Sys) (i sub : Nat) : Option Nat :=
  firstAbort [existsAbort i sub, if ((objRow i sub).map ObjRow.acc).getD 1 = 3 then some 0x00020003 else none, s.phaseAbort i false]

/-- READ. -/
def readRequest (r : OdpReq) (k : Nat) (d : Dev) : Dev :=
  match d.sys.readAbort r.index r.sub with
  | some a => liftSys (fun s => s.respond k r 0x10 a r.sub) d
  | none =>
    let v := d.readObject k r.index r.sub
    let ty := objType r.index r.sub
    if 1032 < v.length then liftSys (fun s => s.respond k r 0x10 0x00030001 r.sub) d
    else liftSys (fun s => (s.answer k r.seq 0x10 0 (natLe 4 0 ++ natLe 1 ty ++ zeros 3 ++ v)).drew 3) d

/-- The key of a snapshot or a DOMAIN write in progress; 0 for none. -/
def blockKey (i sub : Nat) : Nat := i * 256 + sub + 1

/-- One segment of a snapshot (R130, R154). -/
def Sys.segmentOut (s : Sys) (k : Nat) (r : OdpReq) (off : Nat) : Sys :=
  let x := s.session k
  if x.snapKey ≠ blockKey r.index r.sub ∨ x.snap.length < off then s.respond k r 0x12 0x00010004 r.sub
  else
    let seg := (x.snap.drop off).take 1024
    let last := decide (x.snap.length ≤ off + seg.length)
    let s := s.answer k r.seq 0x12 (if last then 1 else 0) (natLe 4 0 ++ natLe 4 x.snap.length ++ seg)
    if last then s.onSession k (fun x => { x with snapKey := 0, snap := [] }) else s

/-- READ_BLOCK: every segment passes the checks of a read, and one at offset 0 takes the snapshot. -/
def readBlockRequest (r : OdpReq) (k : Nat) (d : Dev) : Dev :=
  let off := (r.block.getD (0, 0)).1
  match d.sys.readAbort r.index r.sub with
  | some a => liftSys (fun s => s.respond k r 0x12 a r.sub) d
  | none =>
    if objType r.index r.sub ≠ 10 then liftSys (fun s => s.respond k r 0x12 0x00030001 r.sub) d
    else if off ≠ 0 then liftSys (fun s => s.segmentOut k r off) d
    else
      let v := d.readObject k r.index r.sub
      liftSys (fun s => ((s.drew 3).onSession k (fun x => { x with snapKey := blockKey r.index r.sub, snap := v })).segmentOut k r 0) d

end Sys2Proof.Machine
end

