-- ==== Sys2Proof/Machine/Commit.lean ====
section
/-! DEFINITION. Coupled groups (R134 to R144): the consistency rules of each group's own chapter, and what a committed set does. -/

namespace Sys2Proof.Machine

open Sys2Proof

/-! ## The set a commit checks (R138) -/

def Sys.setPending (s : Sys) (i : Nat) (p : Pending) : Sys := s.onDict (fun d => { d with pending := assocSet d.pending i p })
/-- The value a member would have. -/
def Sys.newVal (s : Sys) (i sub : Nat) : List Byte := assoc (s.pending i).values sub (s.cfg i sub)
def Sys.newN (s : Sys) (i sub : Nat) : Nat := leNat (s.newVal i sub)
def Sys.changes (s : Sys) (i sub : Nat) : Bool := s.newVal i sub != s.cfg i sub
/-- The members of a group. -/
def groupMembers (i : Nat) : List Nat :=
  (objTable.filter (fun r => r.ilo == i && r.acc == 4)).flatMap (fun r => (List.range (r.hi + 1 - r.lo)).map (fun k => r.lo + k))
/-- Whether a group has a P member (R145). -/
def groupPersists (i : Nat) : Bool := objTable.any (fun r => r.ilo == i && r.acc == 4 && r.persist)

/-- A broken rule: its code, and the lowest sub-index of those that break it. -/
def broken (code : Nat) (bad : List Nat) : Option (Nat × Nat) := bad.head?.map (fun x => (code, x))
/-- The first of several rules that is broken. -/
def firstBroken : List (Option (Nat × Nat)) → Option (Nat × Nat)
  | [] => none
  | some x :: _ => some x
  | none :: t => firstBroken t
/-- Sub-indexes of a run that fail a test. -/
def failing (lo n : Nat) (ok : Nat → Bool) : List Nat := ((List.range n).map (fun k => lo + k)).filter (fun x => !ok x)
/-- Members 0 to n − 1, as k + 1, for which a test holds. -/
def subsOf (n : Nat) (bad : Nat → Bool) : List Nat := ((List.range n).filter bad).map (fun k => k + 1)

/-! ## Links and topology -/

/-- R447. -/
def Sys.check6010 (s : Sys) : Option (Nat × Nat) :=
  let v := s.newN 0x6010
  firstBroken [
    broken 0x00040121 (failing 1 12 (fun x => decide (36 ≤ v x ∧ v x % 2 = 0))),
    if 2048 < ((List.range 12).map (fun k => v (k + 1))).sum then some (0x00040120, 1) else none]

/-- R506. -/
def Sys.check6110 (s : Sys) : Option (Nat × Nat) :=
  let role := s.newN 0x6110 1
  if (s.newN 0x6110 5 == 1) == (role == 1 || role == 2) then none else some (0x00040140, 1)

/-- Contexts with resident work, or fabric operations outstanding (R506). -/
def Sys.fabricBusy (s : Sys) : Bool := s.core.grids != [] || s.core.blocks != [] || s.fab.ops != []

/-- R517. -/
def Sys.check6300 (s : Sys) : Option (Nat × Nat) :=
  let v := s.newVal 0x6300
  let dir := fun d => field (v 4) (2 * d) 2
  let axis := fun a k => field (v (a + 1)) k 1
  let own := [s.cfgN 0x6110 2, s.cfgN 0x6110 3, s.cfgN 0x6110 4]
  let named := fun a => (List.range 2).any (fun e => (v (a + 1)).any (fun b => b.toNat == e + 1) && dir (2 * a + e) == 0)
  let list := v 7
  firstBroken [
    if (List.range 16).any (fun p => 1 < ((List.range 6).filter (fun d => bit (dir d) p)).length) then some (0x00040130, 4) else none,
    broken 0x00040131 (subsOf 3 (fun a => axis a (nth own a) != 0)),
    broken 0x00040132 (subsOf 3 named),
    if (List.range 16).any (fun p => bit (leNat (v 6)) p && !(List.range 6).any (fun d => bit (dir d) p)) then some (0x00040133, 4) else none,
    if list.length % 4 ≠ 0 ∨ (s.fidValid = true ∧ (List.range (list.length / 4)).any (fun k => field list (4 * k) 4 == s.fid) = true)
      then some (0x00040134, 7) else none]

/-! ## Collective slots (R535, R536) -/

/-- A slot record of the set being committed. -/
def Sys.newSlot (s : Sys) (g : Nat) : List Byte := s.newVal 0x7000 (g + 1)
def Sys.slotChanges (s : Sys) (g : Nat) : Bool := s.changes 0x7000 (g + 1) || s.changes 0x7000 (g + 9)

/-- A COLLECTIVE or an UPDATE of the slot is running or waiting. -/
def Dev.slotBusy (d : Dev) (g : Nat) : Bool :=
  (d.sys.slot g).running.isSome || (d.sys.epoch g).state != 0
    || (List.range 64).any (fun r => (d.sys.ring r).cmds.any (fun c => d.slotOf (d.sys.ringPart r) c == some g))

/-- The fabric IDs of a rank table. -/
def Dev.rankTable (d : Dev) (r : List Byte) : List Nat :=
  let n := field r 4 4
  let t := d.peek (field r 1 1) (field r 8 8) (4 * n)
  (List.range n).map (fun k => field t (4 * k) 4 % 2 ^ 17)
/-- The ranks a slot has after the commit: read anew where its record changes (R534). -/
def Dev.newRanks (d : Dev) (g : Nat) : List Nat := if d.sys.slotChanges g then d.rankTable (d.sys.newSlot g) else d.sys.ranks g

def rangesMeet (a n b m : Nat) : Bool := decide (a < b + m ∧ b < a + n)

/-- R535. -/
def Dev.check7000 (d : Dev) : Option (Nat × Nat) :=
  let s := d.sys
  let rec_ := s.newSlot
  let part := fun g => field (rec_ g) 1 1
  let n := fun g => field (rec_ g) 4 4
  let on := fun g => field (rec_ g) 0 1 == 1
  let bad := fun (t : Nat → Bool) => subsOf 8 (fun g => on g && t g)
  firstBroken [
    broken 0x00040150 (bad (fun g => !s.partEnabled (part g) || (s.part (part g)).quota == 0 || !s.fidValid)),
    broken 0x00040151 (bad (fun g => !d.rangeOk (part g) (field (rec_ g) 8 8) (4 * n g) false
      || !d.rangeOk (part g) (field (rec_ g) 16 8) (field (rec_ g) 24 8) true
      || (s.slotChanges g && (d.poisonIn (part g) (field (rec_ g) 8 8) (4 * n g)).isSome))),
    broken 0x00040152 (bad (fun g => !decide ((d.newRanks g).Nodup) || (d.newRanks g).count s.fid != 1)),
    broken 0x00040153 (bad (fun g =>
      decide (field (rec_ g) 24 8 < 524288 + field (rec_ g) 34 1 * max ((n g + 1) / 2 * 8192) (n g * 4096)))),
    broken 0x00040154 (bad (fun g =>
      rangesMeet (field (rec_ g) 16 8) (field (rec_ g) 24 8) (field (rec_ g) 8 8) (4 * n g)
        || (List.range 8).any (fun h => h != g && on h && part h == part g
          && rangesMeet (field (rec_ g) 16 8) (field (rec_ g) 24 8) (field (rec_ h) 16 8) (field (rec_ h) 24 8))))]

/-! ## Rule defaults (R419) -/

/-- 0 to 1, 1 excluded; −0 equals 0. -/
def betaFits (n : Nat) : Bool := decide (n < 0x3F800000) || n == 0x80000000
def epsFits (n : Nat) : Bool := decide (0 < n ∧ n < 0x7F800000)
def Sys.check7100 (s : Sys) : Option (Nat × Nat) :=
  broken 0x00040101 (failing 1 6 (fun x =>
    if x = 3 ∨ x = 5 then epsFits (s.newN 0x7100 x) else if x = 4 then true else betaFits (s.newN 0x7100 x)))
def Sys.kindRuns (s : Sys) (k : Nat) : Bool := s.host.tasks.any (fun t => t.kind == k && (t.phase == 1 || t.phase == 2))
def Sys.updateRuns (s : Sys) : Bool := s.kindRuns 3
/-- A grid, a Scale pass or an update runs (R323): an update from its first step until its slot votes. -/
def Sys.numericsBusy (s : Sys) : Bool :=
  s.core.grids != [] || s.core.blocks != [] || s.kindRuns 2 || s.updateRuns || s.fab.epochs.any (fun e => e.state == 1)

/-! ## Partitions (R573, R574, Table 16-3) -/

/-- A stage-two table as the sparse map of its 1,024 entries. -/
def tableOf (b : List Byte) : NMap :=
  (List.range 1024).foldl (fun m k => NMap.set m k (field b (8 * k) 8)) []
/-- The set a partition would take. -/
def Sys.newSet (s : Sys) (p : Nat) : PartSet := ⟨s.newVal 0x8000 (p + 1), tableOf (s.newVal 0x8000 (p + 0x11))⟩
def Sys.partChanges (s : Sys) (p : Nat) : Bool := s.changes 0x8000 (p + 1) || s.changes 0x8000 (p + 0x11)

def PartSet.on (x : PartSet) : Bool := field x.entry 0 1 == 1
/-- The chunks of a table's valid entries. -/
def PartSet.chunks (x : PartSet) : List Nat := ((x.s2.filter (fun e => s2Valid e.2)).map (fun e => s2Chunk e.2)).dedup
/-- The sets a partition holds for the check: the one in force with its new one, or with the one that waits; a resource leaves one
partition before another takes it (R219, R571, R574). A disabled set holds nothing (R572). -/
def Sys.heldSets (s : Sys) (p : Nat) : List PartSet :=
  ((s.part p).inForce :: (if s.partChanges p then [s.newSet p] else (s.part p).waiting.toList)).filter PartSet.on

/-- Two chunks that share DRAM cells (R573). -/
def chunksMeet (a b : Nat) : Bool :=
  a == b || (decide (a < 512 ∧ 1024 ≤ b) && (b - 1024) % 64 == a / 8) || (decide (b < 512 ∧ 1024 ≤ a) && (a - 1024) % 64 == b / 8)
/-- Pairs of partitions of which some held sets meet. -/
def Sys.pairsMeet (s : Sys) (meet : PartSet → PartSet → Bool) (p : Nat) : Bool :=
  (List.range 16).any (fun q => decide (p < q) && (s.heldSets p).any (fun x => (s.heldSets q).any (meet x)))

/-- A valid entry with reserved bits clear and a chunk that is no bad address (Table 6-1, R21, R22, R97). -/
def Mem.entryFits (m : Mem) (e : Nat) : Bool := bits e 29 2 == 0 && decide (e < 2 ^ 41) && m.chunkOk (s2Chunk e)

/-- The sum over partitions of a count, and the partitions that add to it. -/
def Sys.sumOver (s : Sys) (f : PartSet → Nat) : Nat := ((List.range 16).map (fun p => ((s.heldSets p).map f).foldl max 0)).sum
def Sys.adders (s : Sys) (f : PartSet → Nat) : List Nat := subsOf 16 (fun p => (s.heldSets p).any (fun x => f x != 0))

/-- What a partition must not hold when it is disabled. -/
def Sys.holdsMore (s : Sys) (p : Nat) : Bool :=
  s.fab.windows.any (fun w => w.2.part == p && w.2.state != 0) || (List.range 8).any (fun g => s.slotOn g && s.slotPart g == p)
    || s.host.queues.any (fun q => q.isOpen && q.part == p) || (s.fab.replay.getD p ⟨0, 0, []⟩).records != 0

def Dev.check8000 (d : Dev) : Option (Nat × Nat) :=
  let s := d.sys
  let changed := fun (t : Nat → PartSet → Bool) => subsOf 16 (fun p => s.partChanges p && t p (s.newSet p))
  let qps := fun (x : PartSet) => field x.entry 2 2
  let rings := fun (x : PartSet) => field x.entry 1 1
  firstBroken [
    broken 0x00040160 (subsOf 16 (s.pairsMeet (fun x y => (List.range 144).any (fun n => coreBit x.entry n && coreBit y.entry n)))),
    (broken 0x00040161 (changed (fun _ x => x.s2.any (fun e => s2Valid e.2 && !d.mem.entryFits e.2)))).map (fun x => (x.1, x.2 + 16)),
    (broken 0x00040162 (subsOf 16 (s.pairsMeet (fun x y => x.chunks.any (fun a => y.chunks.any (chunksMeet a)))))).map (fun x => (x.1, x.2 + 16)),
    broken 0x00040163 (changed (fun _ x => x.on && decide (field x.entry 4 2 < x.chunks.length))),
    if 4096 < s.sumOver qps then broken 0x00040164 (s.adders qps) else none,
    if 64 < s.sumOver rings then broken 0x00040164 (s.adders rings) else none,
    broken 0x00040165 (changed (fun _ x => x.on && field x.entry 40 4 != 0
      && !d.mem.rangeOkT x.s2 (field x.entry 32 8) (64 + 32 * field x.entry 40 4) true)),
    broken 0x00040166 (changed (fun p x => !x.on && (field (s.cfg 0x8000 (p + 1)) 0 1 == 1 || (s.part p).enabled) && s.holdsMore p))]

/-! ## Host attachment (R601, R610) -/

def Sys.check9001 (s : Sys) : Option (Nat × Nat) :=
  let v := s.newN 0x9001
  broken 0x00040180 (failing 1 10 (fun x =>
    if x % 5 = 2 then decide (8 ≤ v x ∧ v x ≤ 32) else if x % 5 = 4 then decide (16 ≤ v x ∧ v x ≤ 128)
    else if x % 5 = 0 then decide (v x ≤ 4094) else true))
/-- A port whose addresses change has a queue pair that is ready. -/
def Sys.addrBusy (s : Sys) : List Nat :=
  ((List.range 10).filter (fun k => s.changes 0x9001 (k + 1) && s.host.qps.any (fun q => q.2.st == 1 && q.2.port == k / 5))).map (fun k => k + 1)

def Sys.newRing (s : Sys) (r : Nat) : List Byte := s.newVal 0x9100 (r + 1)
def ringBytes (b : List Byte) : Nat := 4096 + 64 * ringEntries b
def Dev.check9100 (d : Dev) : Option (Nat × Nat) :=
  let s := d.sys
  let b := s.newRing
  let part := fun r => field (b r) 1 1
  let bad := fun (t : Nat → Bool) => subsOf 64 (fun r => field (b r) 0 1 == 1 && t r)
  firstBroken [
    broken 0x00040170 (bad (fun r => !d.rangeOk (part r) (ringAddr (b r)) (ringBytes (b r)) true)),
    broken 0x00040171 (bad (fun r => (s.qp (ringQp (b r))).part != part r)),
    broken 0x00040172 (bad (fun r => (List.range 64).any (fun q => decide (r < q) && field (b q) 0 1 == 1 && part q == part r
      && rangesMeet (ringAddr (b r)) (ringBytes (b r)) (ringAddr (b q)) (ringBytes (b q)))))]
/-- Rings the commit changes that are running or waiting. -/
def Sys.ringsBusy (s : Sys) : List Nat :=
  subsOf 64 (fun r => s.changes 0x9100 (r + 1) && ((s.ring r).code == 2 || (s.ring r).code == 3))

/-! ## Margin plan (R654) and interfaces (R168) -/

/-- The domains of Table 18-12. -/
def planOk (b : List Byte) : Bool :=
  let steps := fun off n hi => ((b.drop off).take n).all (fun x => decide (x.toNat ≤ hi) && x.toNat % 5 == 0)
  b.length == 64 && decide (2300 ≤ field b 8 2 ∧ field b 8 2 ≤ 2700) && field b 8 2 % 50 == 0 && resZero b 10 2 && resZero b 42 22
    && steps 12 16 50 && steps 28 8 30

/-! ## What a commit is rejected with -/

/-- Class 0x0005: what runs and would be changed (R323, R419, R506, R536, R601, R610). -/
def Dev.commitBusy (d : Dev) (i : Nat) : Option (Nat × Nat) :=
  let s := d.sys
  if i = 0x5000 then (if s.numericsBusy then some (0x00050003, 0xFE) else none)
  else if i = 0x6110 then (if s.fabricBusy then some (0x00050003, 0xFE) else none)
  else if i = 0x7000 then broken 0x00050003 (subsOf 8 (fun g => s.slotChanges g && d.slotBusy g))
  else if i = 0x7100 then (if s.updateRuns then some (0x00050003, 0xFE) else none)
  else if i = 0x9001 then broken 0x00050003 s.addrBusy
  else if i = 0x9100 then broken 0x00050003 s.ringsBusy
  else none

/-- The group's own consistency rules. -/
def Dev.commitRules (d : Dev) (i : Nat) : Option (Nat × Nat) :=
  let s := d.sys
  if i = 0x6010 then s.check6010
  else if i = 0x6110 then s.check6110
  else if i = 0x6300 then s.check6300
  else if i = 0x7000 then d.check7000
  else if i = 0x7100 then s.check7100
  else if i = 0x8000 then d.check8000
  else if i = 0x9001 then s.check9001
  else if i = 0x9100 then d.check9100
  else if i = 0xA400 then (if planOk (s.newVal 0xA400 1) then none else some (0x00040190, 1))
  else if i = 0xF030 then (if s.newN 0xF030 1 = 1 ∨ s.newN 0xF030 2 = 1 then none else some (0x00040101, 1))
  else none

/-- A commit by the session in slot `k`: ownership, an empty set, then the rules (R136, R138 to R141). -/
def Dev.commitAbort (d : Dev) (k i : Nat) : Option (Nat × Nat) :=
  let p := d.sys.pending i
  if p.values ≠ [] ∧ p.owner ≠ some k then some (0x00040002, 0xFE)
  else if p.values = [] then some (0x00040003, 0xFE)
  else firstBroken [d.commitBusy i, d.commitRules i]

/-! ## What a committed set does (R139, R143) -/

/-- The members take their values. -/
def Sys.takeValues (s : Sys) (vs : List (Nat × List Byte)) : Sys := s.onDict (fun d => { d with values := storeAll d.values vs })

/-- A routing group that changes raises the generation (R507, R516). -/
def Dev.commit6110 (d : Dev) (old : Nat) : Dev :=
  if d.sys.read6 0x6111 1 = natLe 4 old then d
  else (liftSys (fun s => s.onDict (fun x => { x with values := x.values.filter (fun v => v.1 / 256 != 0x6300) })) d).routesChanged

/-- A changed slot reads its rank table, and its sequence starts at 0 with nothing held (R534, R536). -/
def Dev.commitSlot (old : List (List Byte)) (ranks : List (List Nat)) (g : Nat) (d : Dev) : Dev :=
  let r := d.sys.slotRec g
  if r ++ d.sys.cfg 0x7000 (g + 9) = old.getD g [] then d
  else
    let l := if d.sys.slotOn g then ranks.getD g [] else []
    liftSys (fun s => s.onSlot g (fun _ => { Slot.reset with ranks := l, ownRank := l.idxOf s.fid })) d

/-- Partitions disabled in force take their set at once; the others' sets wait (R575). -/
def Dev.commitPart (sets : List (Nat × PartSet)) (d : Dev) : Dev :=
  runAll (fun (x : Nat × PartSet) d =>
    if d.sys.partEnabled x.1 then liftSys (fun s => s.onPart x.1 (fun q => { q with waiting := some x.2 })) d else d.takeSet x.1 x.2) sets d

/-- The last result of Table 4-5 after a commit that is accepted. -/
def Sys.commitResult (s : Sys) (i : Nat) : Nat :=
  if i = 0xA400 ∨ i = 0x6010 then 2
  else if i = 0x8000 ∧ (List.range 16).any (fun p => s.partChanges p && s.partEnabled p) then 2
  else 1

/-- The values a commit gives its group's members, keyed as the store keys them. -/
def Sys.commitValues (s : Sys) (i : Nat) : List (Nat × List Byte) :=
  (groupMembers i).map (fun sub => (i * 256 + sub, s.newVal i sub))
    ++ (if i = 0x6010 then [(0x6012 * 256 + 1, natLe 2 (s.cfgN 0x6012 1 + 1))] else [])

/-- The set is applied: all members together, the pending set empty and without an owner, then what the group's chapter says. -/
def Dev.commitApply (d : Dev) (slot i : Nat) : Dev :=
  let s := d.sys
  let vs := s.commitValues i
  let sets := ((List.range 16).filter s.partChanges).map (fun p => (p, s.newSet p))
  let ranks := (List.range 8).map d.newRanks
  let slots := (List.range 8).map (fun g => s.slotRec g ++ s.cfg 0x7000 (g + 9))
  let rings := (List.range 64).filter (fun r => s.changes 0x9100 (r + 1))
  let word := leNat (s.read6 0x6111 1)
  let leaves := s.cfgN 0x6300 5 &&& (2 ^ 16 - 1 - s.newN 0x6300 5 % 2 ^ 16) != 0
  let d := liftSys (fun s => (s.setPending i ⟨none, [], s.commitResult i⟩).takeValues vs) d
  if i = 0x6100 then liftSys (fun s => (runAll (fun p s => s.compare p) (List.range 16) s).helloAll) d
  else if i = 0x6110 then liftSys Sys.helloAll (d.commit6110 word)
  else if i = 0x6300 then (if leaves then liftSys (fun s => s.actionOther slot) d else d).routesChanged
  else if i = 0x7000 then runAll (Dev.commitSlot slots ranks) (List.range 8) d
  else if i = 0x8000 then d.commitPart sets
  else if i = 0x9100 then (liftSys (fun s => runAll (fun r s => s.ringLeaves r) rings s) d).ringEffects
  else if i = 0xA400 then liftSys (fun s => s.action 4 (field (s.cfg 0xA400 1) 0 4) slot) d
  else if i = 0xF030 then liftSys (fun s => s.endSessions (fun x => s.cfgN 0xF030 (if x.iface = 2 then 2 else 1) != 1)) d
  else d

end Sys2Proof.Machine
end

