-- ==== Sys2Proof/Machine/Domains.lean ====
section
/-! DEFINITION. Step 7 and step 8 of Table 4-4 for objects whose chapters say more than a range: the fields of the DOMAIN records,
and what a unit refuses (R318, R372, R417, R418, R463, R497, R502, R517, R533, R602, R610, R645, R664 to R672). -/

namespace Sys2Proof.Machine

open Sys2Proof

/-! ## Field domains of records -/

def bad (ok : Bool) : Option Nat := if ok then none else some 0x00030002

/-- A plan entry (Table 14-6). -/
def planEntryOk (b : List Byte) : Bool := decide (field b 0 1 ≤ 1 ∧ field b 1 1 ≤ 15) && resZero b 3 1 && resZero b 20 12

/-- A partition entry (Table 16-2). -/
def partEntryOk (b : List Byte) : Bool :=
  decide (field b 0 1 ≤ 1 ∧ field b 1 1 ≤ 16 ∧ field b 2 2 ≤ 4096 ∧ field b 4 2 ≤ 1024 ∧ field b 32 8 < 2 ^ 40) && resZero b 6 2
    && resZero b 26 6 && field b 32 8 % 4096 == 0 && (field b 40 4 == 0 || pow2In (field b 40 4) 64 65536) && resZero b 44 20

/-- A QoS record (Table 16-4). -/
def qosOk (b : List Byte) : Bool :=
  let w := fun k => decide (1 ≤ field b k 1 ∧ field b k 1 ≤ 64)
  w 1 && decide (8 ≤ field b 2 1 ∧ field b 2 1 ≤ 32) && resZero b 3 1 && (List.range 12).all (fun k => w (4 + k))

/-- A basic slot record (Table 15-1): reserved fields always, the other domains when it is configured. -/
def slotBasicOk (b : List Byte) : Bool :=
  decide (field b 0 1 ≤ 1) && resZero b 46 18 && decide (field b 40 4 < 2 ^ 17) &&
    (field b 0 1 == 0 ||
      (decide (field b 1 1 ≤ 15 ∧ field b 2 1 ≤ 1 ∧ field b 3 1 ≤ 1 ∧ 1 ≤ field b 4 4 ∧ field b 4 4 ≤ 131072 ∧ field b 32 2 ≤ 4095
          ∧ 1 ≤ field b 34 1 ∧ field b 34 1 ≤ 64 ∧ field b 35 1 ≤ 63 ∧ field b 44 1 ≤ 1 ∧ field b 45 1 ≤ 1)
        && field b 16 8 % 65536 == 0 && field b 24 8 % 65536 == 0))

/-- An expert slot record (Table 15-2). -/
def slotExpertOk (b : List Byte) : Bool :=
  let mode := field b 0 1
  decide (mode ≤ 2 ∧ field b 1 1 ≤ 1) && resZero b 2 2 && resZero b 12 20 &&
    (if mode = 0 then resZero b 4 8
      else decide (1800 ≤ field b 4 4 ∧ field b 4 4 ≤ 1800000000 ∧ field b 8 4 ≤ 1024) && (mode == 1 || field b 8 4 == 0))

/-- A ring record (Table 17-3); one with Enable at 0 passes whatever else it holds (R610). -/
def ringRecOk (b : List Byte) : Bool :=
  field b 0 1 == 0 ||
    (field b 0 1 == 1 && decide (field b 1 1 ≤ 15 ∧ field b 2 2 ≤ 4095) && pow2In (field b 4 4) 64 65536 && field b 8 8 % 4096 == 0
      && field b 16 8 % 32 == 0 && pow2In (field b 28 4) 64 65536 && resZero b 32 32)

/-- The threshold records of a partition: amax finite and not negative (R318). -/
def thresholdOf (b : List Byte) (k : Nat) : Threshold :=
  ⟨(List.range 5).map (fun j => field b (48 * k + 8 * j) 8), field b (48 * k + 40) 4⟩
def thresholdsOk (b : List Byte) : Bool :=
  (List.range 64).all (fun k => decide ((thresholdOf b k).amax < 0x7F800000) && resZero b (48 * k + 44) 4)

/-- A window write: number and entry (Table 13-1, R463). -/
def windowOf (b : List Byte) : Window :=
  if field b 2 1 = 0 then Window.invalid
  else ⟨field b 2 1, field b 3 1, field b 4 1, field b 6 4, field b 10 8, field b 18 8⟩
def Sys.windowOk (s : Sys) (b : List Byte) : Bool :=
  let w := windowOf b
  decide (field b 0 2 < 4096) &&
    (w.state == 0 ||
      (w.state == 1 && decide (w.part < 16 ∧ w.perms < 32 ∧ 4096 ≤ w.size ∧ w.base + w.size ≤ 2 ^ 40) && w.base % 4096 == 0
        && w.size % 4096 == 0 && resZero b 5 1 && resZero b 26 8 && s.partEnabled w.part && (s.part w.part).quota != 0))

/-- A role key slot: empty, or a role and a 57-byte key. -/
def roleKeyAbort (b : List Byte) : Option Nat :=
  if b = [] then none else if b.length ≠ 58 then some 0x00030001 else bad (decide (1 ≤ field b 0 1 ∧ field b 0 1 ≤ 3))

/-- The fields of an object's value, beyond its range. -/
def Sys.domainAbort (s : Sys) (i sub : Nat) (v : List Byte) : Option Nat :=
  if i = 0x4300 ∧ sub = 1 then bad (leNat v % 512 == 0)
  else if i = 0x5210 then bad (thresholdsOk v)
  else if i = 0x6100 ∧ sub ≤ 0x10 then bad (planEntryOk v)
  else if i = 0x6300 ∧ sub ≤ 3 then bad (v.all (fun b => decide (b.toNat ≤ 2)))
  else if i = 0x6300 ∧ sub = 7 then (if 1024 < v.length then some 0x00030001 else none)
  else if i = 0x6400 ∧ sub = 6 then (if v.length = 0 ∨ v.length = 2176 then none else some 0x00030001)
  else if i = 0x6501 then bad (s.windowOk v)
  else if i = 0x6601 then bad (decide (field v 0 2 < 4096 ∧ field v 2 4 < 2 ^ 18))
  else if i = 0x7000 ∧ sub ≤ 8 then bad (slotBasicOk v)
  else if i = 0x7000 ∧ sub ≤ 0x10 then bad (slotExpertOk v)
  else if i = 0x7412 then bad (bits (leNat v) 30 17 == 0)
  else if i = 0x7402 then bad (decide (1 ≤ field v 8 1 ∧ field v 8 1 ≤ 2) && resZero v 9 7)
  else if i = 0x8000 ∧ sub ≤ 0x10 then bad (partEntryOk v)
  else if i = 0x8010 ∧ sub ≤ 0x10 then bad (qosOk v)
  else if i = 0x9002 then bad (decide (popcount8 (leNat v) ≤ 2))
  else if i = 0x9100 ∧ sub ≤ 0x40 then bad (ringRecOk v)
  else if i = 0xB021 then (if v.length = 262144 then none else some 0x00030001)
  else if i = 0xB050 then (if v.length = 192 then none else some 0x00030001)
  else if i = 0xF020 then roleKeyAbort v
  else if sub = 0xFE then bad (v == [0] || v == [1])
  else none

/-! ## What a unit refuses -/

/-- The role key table with one slot replaced holds a key of manager role or above (R161). -/
def Sys.keepsManager (s : Sys) (sub : Nat) (v : List Byte) : Bool :=
  (List.range 16).any (fun k => let x := if k + 1 = sub then v else s.roleKey k; x != [] && decide (2 ≤ field x 0 1))

/-- R512: the oldest unacknowledged circuit request, applied or refused. -/
def Sys.circuitOk (s : Sys) (v : List Byte) : Bool :=
  (s.fab.circuits.head?.map Circuit.seq) == some (field v 0 4) && decide (field v 4 1 ≤ 1) && resZero v 5 3

/-- R502: a partition that is disabled in force holds no memory, so it can have no records (R572). -/
def Dev.replayOk (d : Dev) (p : Nat) (v : List Byte) : Bool :=
  field v 0 8 % 65536 == 0 && decide (field v 8 2 ≤ 16384)
    && (field v 8 2 == 0 || (d.sys.partEnabled p && d.rangeOk p (field v 0 8) (65536 * field v 8 2) true))

/-- Another session has a write of the image incomplete, or the target is being programmed (R664). -/
def Sys.imageBusy (s : Sys) (k : Nat) : Bool :=
  (List.range 16).any (fun j => j != k && (s.session j).wrKey == blockKey 0xB021 1) || (s.image s.targetSlot).programming

/-- What a write is rejected with in the state of the unit it acts on. -/
def Dev.unitAbort (d : Dev) (k : Nat) (r : OdpReq) (v : List Byte) : Option Nat :=
  let s := d.sys
  let i := r.index
  if i = 0x3040 then (if s.core.grids = [] ∧ s.core.blocks = [] then none else some 0x00050003)
  else if i = 0x6411 then bad (s.circuitOk v)
  else if i = 0x6502 then bad (d.replayOk (r.sub - 1) v)
  else if i = 0x7402 then
    let e := s.epoch (r.sub - 1)
    (if e.state ≠ 2 then some 0x00030102 else if e.target ≠ field v 0 8 then some 0x00030101 else none)
  else if i = 0x7403 then (if (s.epoch (r.sub - 1)).state = 0 then none else some 0x00030103)
  else if 0x9200 ≤ i ∧ i ≤ 0x92FF then s.qpWriteAbort (16 * (i - 0x9200) + (r.sub - 1)) v
  else if i = 0xA210 then s.remapAbort v
  else if i = 0xB021 then (if s.imageBusy k then some 0x00050002 else none)
  else if i = 0xB022 then s.floorAbort (leNat v)
  else if i = 0xB023 then s.activateAbort (leNat v)
  else if i = 0xB040 then s.sealAbort (s.session k) { r with data := v }
  else if i = 0xB050 then s.tokenAbort v
  else if i = 0xF020 then (if s.keepsManager r.sub v then none else some 0x00070002)
  else none

end Sys2Proof.Machine
end

