-- ==== Sys2Proof/Machine/Dict.lean ====
section
/-! DEFINITION. Writes to the dictionary (R125 to R147): the checks of Table 4-4, pending sets, commits, the journal, and what
each object does when it is written. One row of the command table per object with behaviour of its own. -/

namespace Sys2Proof.Machine

open Sys2Proof

/-! ## Which row a write belongs to -/

inductive WriteRow where
  | write | writeBlock | deviceReset | holdRelease | member | commit | discard | unlock | roleKey | resolve | epochLoad | accept | portEnable
  | window | replayArea | multicast | circuit | partReset | clearSets | threshold | qpRecord | quarantine | cancel | spare | absent | retest
  | sampleNow | image | activate | floor | nonce | wrap | unwrap | token
deriving DecidableEq, Repr

/-- The row of a whole write. -/
def rowOf (i sub : Nat) (v : List Byte) : WriteRow :=
  match objRow i sub with
  | none => .write
  | some o =>
    if o.acc = 4 then .member
    else if sub = 0xFE then (if v = [0] then .discard else .commit)
    else if i = 0x2101 then .holdRelease
    else if i = 0x2210 ∧ sub = 4 then .sampleNow
    else if i = 0x5201 then .clearSets
    else if i = 0x5210 then .threshold
    else if i = 0x6020 then .accept
    else if i = 0x6021 then .portEnable
    else if i = 0x6411 then .circuit
    else if i = 0x6501 then .window
    else if i = 0x6502 then .replayArea
    else if i = 0x6601 then .multicast
    else if i = 0x7402 then .resolve
    else if i = 0x7403 then .epochLoad
    else if i = 0x8020 then .deviceReset
    else if i = 0x8021 then .partReset
    else if 0x9200 ≤ i ∧ i ≤ 0x92FF then .qpRecord
    else if i = 0xA200 then .quarantine
    else if i = 0xA210 then
      let a := field v 1 1
      (if v.length ≠ 8 ∨ 3 < a then .write else if a = 0 then .cancel else if a = 1 then .spare else if a = 2 then .absent else .retest)
    else if i = 0xB000 ∧ sub = 1 then .nonce
    else if i = 0xB021 then .image
    else if i = 0xB022 ∧ sub = 1 then .floor
    else if i = 0xB023 then .activate
    else if i = 0xB040 ∧ sub = 1 then (if v.take 1 = [1] then .wrap else if v.take 1 = [2] then .unwrap else .write)
    else if i = 0xB050 ∧ sub = 2 then .token
    else if i = 0xF010 ∧ sub = 1 then .unlock
    else if i = 0xF020 then .roleKey
    else .write

/-- The bytes a request completes: its own, or those of a DOMAIN write in progress followed by its own. -/
def Sys.wholeData (s : Sys) (r : OdpReq) : List Byte :=
  match r.block with
  | none => r.data
  | some (off, _) =>
    if off = 0 then r.data
    else match s.sessionOf 2 r.iface r.sid r.src r.sport with
      | some k => (s.session k).wrData ++ r.data
      | none => r.data

/-- Whether a request leaves its DOMAIN write incomplete. -/
def reqPartial (r : OdpReq) : Bool :=
  match r.block with
  | none => false
  | some (off, total) => decide (off + r.data.length < total)

/-- The row of a request: segments that do not complete a write are WRITE_BLOCK's, and so are those that complete a plain one. -/
def Sys.rowFor (s : Sys) (r : OdpReq) : WriteRow :=
  if reqPartial r then .writeBlock
  else
    let w := rowOf r.index r.sub (s.wholeData r)
    if w = .write ∧ r.block.isSome = true then .writeBlock else w

def reqOp (r : OdpReq) : Nat := if r.block.isSome then 0x13 else 0x11

/-! ## Checks -/

/-- Steps 1 to 6, on a value of known length. -/
def Sys.headAbort (s : Sys) (k : Nat) (r : OdpReq) (n : Nat) : Option Nat :=
  let x := s.session k
  match existsAbort r.index r.sub with
  | some a => some a
  | none =>
    match objRow r.index r.sub with
    | none => some 0x00020004
    | some o => firstAbort [rightAbort x r.index r.sub o, typeAbort o r.ty n]

/-- Every check of a whole write, in order: what a unit says of a value (class 3) is step 7, the rest of its refusals step 8. The
sub-index is the one the response names. -/
def Dev.writeAbort (d : Dev) (k : Nat) (r : OdpReq) (v : List Byte) : Option (Nat × Nat) :=
  let s := d.sys
  let range := ((objRow r.index r.sub).map (fun o => rangeAbort o v)).getD none
  let unit := d.unitAbort k r v
  let a := firstAbort [s.headAbort k r v.length, range, s.domainAbort r.index r.sub v, unit.filter (fun c => c / 65536 == 3),
    s.phaseAbort r.index true, unit]
  match a with
  | some c => some (c, r.sub)
  | none =>
    let w := rowOf r.index r.sub v
    let p := s.pending r.index
    if (w = .member ∨ w = .discard) ∧ p.values ≠ [] ∧ p.owner ≠ some k then some (0x00040002, r.sub)
    else if w = .commit then d.commitAbort k r.index
    else none

/-! ## Effects of a write, once answered -/

/-- Whether the object keeps the value written. -/
def keeps (i sub : Nat) : Bool :=
  match objRow i sub with
  | some o => (o.acc == 2 || o.persist) && o.acc != 4 && i != 0x5210 && i != 0x6502 && !decide (0x9200 ≤ i ∧ i ≤ 0x92FF)
  | none => false

/-- EXPERT_UNLOCK (R163). -/
def Sys.unlock (s : Sys) (k : Nat) : Sys :=
  let s := (s.onSession k (fun x => { x with unlocked := true })).onDict (fun d => { d with unlockCount := (d.unlockCount + 1) % 2 ^ 32 })
  let x := s.session k
  s.journal.raiseAll 0x0801 k (natLe 1 x.role ++ natLe 1 x.iface)

/-- CLEAR_SETS (R321). -/
def Sys.clearSets (s : Sys) (p mask : Nat) : Sys :=
  s.onHost (fun h => { h with stats := h.stats.filter (fun x => !(x.1 / 64 == p && bit mask (x.1 % 64))) })

/-- THRESHOLD_WRITE: the records are set and the crossed bits cleared (R318, R320). -/
def Sys.setThresholds (s : Sys) (p : Nat) (v : List Byte) : Sys :=
  s.onHost (fun h => { h with
    thresholds := runAll (fun k l => assocSet l (64 * p + k) (thresholdOf v k)) (List.range 64) h.thresholds
    stats := h.stats.map (fun x => if x.1 / 64 = p then (x.1, { x.2 with crossed := 0 }) else x) })

/-- DEVICE_RESET: the action is logged and the device starts again (R82, R588). -/
def Dev.requestReset (d : Dev) (k : Nat) : Dev :=
  liftSys Sys.bringUpStart ((liftSys (fun s => s.action 5 0 k) d).deviceReset)

/-- What an object does when written, beyond keeping its value. -/
def Dev.objApply (d : Dev) (k : Nat) (r : OdpReq) (v : List Byte) (reading : Option AgeingReading) (erased : Bool) : Dev :=
  let i := r.index
  let n := leNat v
  let j := r.sub - 1
  match rowOf i r.sub v with
  | .write | .writeBlock | .floor => d
  | .member => liftSys (fun s => let p := s.pending i; s.setPending i { p with owner := some k, values := assocSet p.values r.sub v }) d
  | .commit => d.commitApply k i
  | .discard => liftSys (fun s => if (s.pending i).values = [] then s else s.setPending i ⟨none, [], 4⟩) d
  | .holdRelease => if n = 1 ∧ d.sys.mgmt.bring.phase = 0x0F then liftSys Sys.beginStackTrain d else d
  | .sampleNow => (match reading with
    | some a => if n = 1 then liftSys (fun s => s.sampleAgeing a) d else d
    | none => d)
  | .clearSets => liftSys (fun s => s.clearSets j n) d
  | .threshold => liftSys (fun s => s.setThresholds j v) d
  | .accept => if n = 1 then liftSys (fun s => if (s.port j).state = 3 then (s.actionOther k).acceptPort j else s) d else d
  | .portEnable => liftSys (fun s => s.enablePorts n) d
  | .circuit => liftSys (fun s => s.circuitAck (field v 0 4) (field v 4 1)) d
  | .window => liftSys (fun s => s.onFab (fun f => { f with windows := assocSet f.windows (field v 0 2) (windowOf v) })) d
  | .replayArea => liftSys (fun s => s.onFab (fun f => { f with replay := setNth f.replay j ⟨field v 0 8, field v 8 2, []⟩ })) d
  | .multicast => liftSys (fun s => s.onFab (fun f => { f with multicast := NMap.set f.multicast (field v 0 2) (field v 2 4) })) d
  | .resolve =>
    (liftSys (fun s => s.onFab (fun f => { f with ucounts := addAt f.ucounts 5 1 })) d).takeDecision j (field v 8 1) 4
  | .epochLoad => liftSys (fun s => s.onEpoch j (fun e => { e with committed := n, incomplete := false, nextAttempt := 0 })) d
  | .deviceReset => if n = 1 then d.requestReset k else d
  | .partReset => if n = 1 then (if d.sys.resetting j then d else (liftSys (fun s => s.actionOther k) d).startReset j) else d
  | .qpRecord => liftSys (fun s => s.qpWrite (16 * (i - 0x9200) + j) v) d
  | .quarantine => liftSys (fun s => s.quarantineCore n k) d
  | .cancel | .spare | .absent | .retest => liftSys (fun s => s.remapApply v k) d
  | .image => d
  | .activate => liftSys (fun s => s.activateApply n k) d
  | .nonce => liftSys (fun s => s.onSession k (fun x => { x with nonce := v, report := s.report v })) d
  | .wrap => liftSys (fun s =>
      let out := s.sealResult (s.session k) { r with data := v }
      (s.drew 12).onSession k (fun x => { x with sealOut := out })) d
  | .unwrap => liftSys (fun s => let out := s.sealResult (s.session k) { r with data := v }; s.onSession k (fun x => { x with sealOut := out })) d
  | .token => (liftSys Sys.newChallenge d).debugOpening (field v 56 4) erased
  | .unlock => if n = 1 then liftSys (fun s => s.unlock k) d else d
  | .roleKey => d

/-- The object keeps its value and acts. A write to Assignment reset, 0 or 1, replaces the one that waits for the next bring-up
(log entry 125). A role key slot that held a key ends the sessions opened with it (R159). -/
def Dev.applyWrite (d : Dev) (k : Nat) (r : OdpReq) (v : List Byte) (reading : Option AgeingReading) (erased : Bool) : Dev :=
  let had := d.sys.roleKey (r.sub - 1) != []
  let d := if keeps r.index r.sub then liftSys (fun s => s.setCfg r.index r.sub v) d else d
  let d := if r.index = 0x2110 ∧ r.sub = 2 then liftSys (fun s => s.onBring (fun b => { b with resetWritten := true })) d else d
  let d := if r.index = 0xB023 then liftSys (fun s => s.setCfg 0xB020 1 v) d else d
  let d := d.objApply k r v reading erased
  if rowOf r.index r.sub v = .roleKey ∧ had = true then liftSys (fun s => s.endSessions (fun x => x.keySlot == r.sub - 1)) d else d

/-! ## Answering and the journal -/

/-- What the journal's record of a write holds; none for a write that is not journalled (R145, R665). -/
def Sys.recordOf (s : Sys) (r : OdpReq) (v : List Byte) : Option (List (Nat × List Byte)) :=
  match rowOf r.index r.sub v with
  | .member | .discard => none
  | .commit => if groupPersists r.index then some (s.commitValues r.index) else none
  | .activate => some [(0xB020 * 256 + 1, v)]
  | _ => if ((objRow r.index r.sub).map ObjRow.persist).getD false then some [(r.index * 256 + r.sub, v)] else none

/-- A commit whose set was checked and rejected leaves its mark in the pending status (R138, Table 4-5). -/
def Sys.noteReject (s : Sys) (k i : Nat) (w : WriteRow) (code : Nat) : Sys :=
  let p := s.pending i
  if w = .commit ∧ (code / 65536 = 4 ∨ code / 65536 = 6 ∨ code = 0x00050003) ∧ p.values ≠ [] ∧ p.owner = some k then s.setPending i { p with last := 3 } else s

/-- A rejected write changes no object (R127); a rejected token changes the challenge (R672). -/
def Sys.reject (s : Sys) (k : Nat) (r : OdpReq) (v : List Byte) (code sub : Nat) : Sys :=
  let w := rowOf r.index r.sub v
  let s := s.noteReject k r.index w code
  let s := if w = .token ∧ [0x00030150, 0x00030151, 0x00030152, 0x00050002].contains code = true then s.newChallenge else s
  s.respond k r (reqOp r) code sub

/-- A whole write: checked, then answered and applied, or left to the journal. An image is programmed before it is answered
(R664). -/
def Dev.wholeWrite (d : Dev) (k : Nat) (r : OdpReq) (v : List Byte) (reading : Option AgeingReading) (erased : Bool) : Dev :=
  match d.writeAbort k r v with
  | some x => liftSys (fun s => s.reject k r v x.1 x.2) d
  | none =>
    if rowOf r.index r.sub v = .image then
      let n := d.sys.imageStep v
      liftSys (fun s => (s.programImage v).respond k r (reqOp r) (if n = 0 then 0 else 0x00030130 + n) r.sub) d
    else
      match d.sys.recordOf r v with
      | some vs =>
        let g := if rowOf r.index r.sub v = .commit then some r.index else none
        liftSys (fun s => s.onDict (fun x => { x with jpending := some ⟨{ r with data := v }, k, vs, g⟩ })) d
      | none => (liftSys (fun s => s.respond k r (reqOp r) 0 r.sub) d).applyWrite k r v reading erased

/-! ## WRITE_BLOCK (R154) -/

def Sys.clearBlock (s : Sys) (k : Nat) : Sys := s.onSession k (fun x => { x with wrKey := 0, wrTotal := 0, wrData := [] })

/-- One segment: contiguous from offset 0, of one total size; the last one completes the write, whose checks follow then. -/
def Dev.segmentIn (d : Dev) (k : Nat) (r : OdpReq) (off total : Nat) (reading : Option AgeingReading) (erased : Bool) : Dev :=
  let refuse := fun a => liftSys (fun s => (s.clearBlock k).respond k r 0x13 a r.sub) d
  let domain := if ((objRow r.index r.sub).map ObjRow.ty).getD 0 ≠ 10 then some 0x00030001 else none
  let state := if off + r.data.length < total then
      firstAbort [d.sys.phaseAbort r.index true, if r.index = 0xB021 ∧ d.sys.imageBusy k = true then some 0x00050002 else none]
    else none
  match firstAbort [d.sys.headAbort k r total, domain, state] with
  | some a => refuse a
  | none =>
    let key := blockKey r.index r.sub
    let d := if off = 0 then liftSys (fun s => s.onSession k (fun x => { x with wrKey := key, wrTotal := total, wrData := [] })) d else d
    let x := d.sys.session k
    if x.wrKey ≠ key ∨ x.wrTotal ≠ total ∨ off ≠ x.wrData.length ∨ total < off + r.data.length ∨ 1024 < r.data.length then
      liftSys (fun s => s.respond k r 0x13 0x00010004 r.sub) d
    else
      let v := x.wrData ++ r.data
      if v.length < total then liftSys (fun s => (s.onSession k (fun x => { x with wrData := v })).respond k r 0x13 0 r.sub) d
      else (liftSys (fun s => s.clearBlock k) d).wholeWrite k r v reading erased

/-- A WRITE or WRITE_BLOCK request. -/
def Dev.writeIn (r : OdpReq) (reading : Option AgeingReading) (erased : Bool) (d : Dev) : Dev :=
  d.request r (reqOp r) (fun k d =>
    match r.block with
    | none => d.wholeWrite k r r.data reading erased
    | some (off, total) => d.segmentIn k r off total reading erased)

end Sys2Proof.Machine
end

