-- ==== Sys2Proof/Machine/Serve.lean ====
section
/-! DEFINITION. The management core's work in order of arrival (R128, R162): datagrams are executed one at a time, those that
arrive while a journal record is written wait, and the journal's commands end that wait (R145 to R147). -/

namespace Sys2Proof.Machine

open Sys2Proof

/-! ## Order of arrival -/

/-- Where a datagram arrived: interface, destination address and port. -/
def Datagram.to : Datagram → Nat × IpAddr × Nat
  | .openReq o => (o.iface, o.dst, o.dport)
  | .prove p => (p.iface, p.dst, p.dport)
  | .close r | .read r | .readBlock r | .write r _ _ => (r.iface, r.dst, r.dport)

/-- The management core executes one datagram. -/
def Dev.execute (d : Dev) : Datagram → Dev
  | .openReq o => liftSys (odpOpen o) d
  | .prove p => liftSys (odpProve p) d
  | .close r => d.request r 5 (closeRequest r)
  | .read r => d.request r 0x10 (readRequest r)
  | .readBlock r => d.request r 0x12 (readBlockRequest r)
  | .write r a e => d.writeIn r a e

/-- A request of the session whose request is executing, with that request's sequence number (R158). -/
def JPending.repeats (j : JPending) (g : Datagram) : Bool :=
  match g with
  | .close r | .read r | .readBlock r | .write r _ _ =>
    r.iface == j.req.iface && r.sid == j.req.sid && r.src == j.req.src && r.sport == j.req.sport && r.seq == j.req.seq
  | _ => false

/-- A datagram arrives. For another address or port, or on an interface that does not serve ODP, it is no request. While a request
executes, a duplicate of it is discarded and up to 64 others are held (R128, R158, R162). -/
def Dev.arrive (g : Datagram) (d : Dev) : Dev :=
  let s := d.sys
  if s.odpTakes g.to.1 g.to.2.1 g.to.2.2 then
    match s.mgmt.dict.jpending with
    | none => (liftSys (fun s => s.onDict (fun x => { x with tx := [] })) d).execute g
    | some j =>
      if j.repeats g then d
      else if s.mgmt.dict.held.length < 64 then liftSys (fun s => s.onDict (fun x => { x with held := x.held ++ [g] })) d
      else liftSys Sys.discard d
  else d

/-- Held datagrams are executed in order, until one leaves a journal record to wait for. -/
def Dev.serveAll : List Datagram → Dev → Dev
  | [], d => liftSys (fun s => s.onDict (fun x => { x with held := [] })) d
  | g :: t, d =>
    if d.sys.mgmt.dict.jpending.isSome then liftSys (fun s => s.onDict (fun x => { x with held := g :: t })) d
    else Dev.serveAll t (d.execute g)
def Dev.serveHeld (d : Dev) : Dev := Dev.serveAll d.sys.mgmt.dict.held d

def execOdpOpen (o : OpenReq) := onDev (Dev.arrive (.openReq o))
def execOdpProve (p : ProveReq) := onDev (Dev.arrive (.prove p))
def execOdpClose (req : OdpReq) := onDev (Dev.arrive (.close req))
def execOdpRead (req : OdpReq) := onDev (Dev.arrive (.read req))
def execOdpReadBlock (req : OdpReq) := onDev (Dev.arrive (.readBlock req))

/-- A WRITE or WRITE_BLOCK request in its row. -/
def Dev.writeRequest (w : WriteRow) (r : OdpReq) (reading : Option AgeingReading) (erased : Bool) (d : Dev) : Dev :=
  if d.sys.rowFor r = w then d.arrive (.write r reading erased) else d

/-! ## The rows -/

def execOdpWrite (req : OdpReq) := onRings (Dev.writeRequest .write req none false)
def execOdpWriteBlock (req : OdpReq) := onRings (Dev.writeRequest .writeBlock req none false)
def execDeviceReset (req : OdpReq) := onRings (Dev.writeRequest .deviceReset req none false)
def execHoldRelease (req : OdpReq) := onRings (Dev.writeRequest .holdRelease req none false)
def execCoupledMemberWrite (req : OdpReq) := onRings (Dev.writeRequest .member req none false)
def execGroupCommit (req : OdpReq) := onRings (Dev.writeRequest .commit req none false)
def execGroupDiscard (req : OdpReq) := onRings (Dev.writeRequest .discard req none false)
def execExpertUnlock (req : OdpReq) := onRings (Dev.writeRequest .unlock req none false)
def execRoleKeyWrite (req : OdpReq) := onRings (Dev.writeRequest .roleKey req none false)
def execResolve (req : OdpReq) := onRings (Dev.writeRequest .resolve req none false)
def execEpochLoad (req : OdpReq) := onRings (Dev.writeRequest .epochLoad req none false)
def execPortAccept (req : OdpReq) := onRings (Dev.writeRequest .accept req none false)
def execPortEnableWrite (req : OdpReq) := onRings (Dev.writeRequest .portEnable req none false)
def execWindowSet (req : OdpReq) := onRings (Dev.writeRequest .window req none false)
def execReplayAreaWrite (req : OdpReq) := onRings (Dev.writeRequest .replayArea req none false)
def execMulticastSet (req : OdpReq) := onRings (Dev.writeRequest .multicast req none false)
def execCircuitAcknowledge (req : OdpReq) := onRings (Dev.writeRequest .circuit req none false)
def execPartitionReset (req : OdpReq) := onRings (Dev.writeRequest .partReset req none false)
def execClearSets (req : OdpReq) := onRings (Dev.writeRequest .clearSets req none false)
def execThresholdWrite (req : OdpReq) := onRings (Dev.writeRequest .threshold req none false)
def execQpRecordWrite (req : OdpReq) := onRings (Dev.writeRequest .qpRecord req none false)
def execCoreQuarantine (req : OdpReq) := onRings (Dev.writeRequest .quarantine req none false)
def execRemapCancel (req : OdpReq) := onRings (Dev.writeRequest .cancel req none false)
def execRemapSpare (req : OdpReq) := onRings (Dev.writeRequest .spare req none false)
def execRemapAbsent (req : OdpReq) := onRings (Dev.writeRequest .absent req none false)
def execRemapRetest (req : OdpReq) := onRings (Dev.writeRequest .retest req none false)
/-- Sample now: the monitors' readings are those of every monitor of Table 18-11. -/
def execSampleNow (req : OdpReq) (r : AgeingReading) :=
  onRings (fun d => if readingOk r then d.writeRequest .sampleNow req (some r) false else d)
def execImageWrite (req : OdpReq) := onRings (Dev.writeRequest .image req none false)
def execActivate (req : OdpReq) := onRings (Dev.writeRequest .activate req none false)
def execFloorCommit (req : OdpReq) := onRings (Dev.writeRequest .floor req none false)
def execAttestationNonce (req : OdpReq) := onRings (Dev.writeRequest .nonce req none false)
def execSeal (req : OdpReq) := onRings (Dev.writeRequest .wrap req none false)
def execUnseal (req : OdpReq) := onRings (Dev.writeRequest .unwrap req none false)
def execUnlockToken (req : OdpReq) (saltErased : Bool) := onRings (Dev.writeRequest .token req none saltErased)

/-! ## The journal (R145 to R147) -/

/-- The waiting write is rejected, and the store stays as it was. -/
def Sys.journalReject (s : Sys) (j : JPending) (a : Nat) : Sys :=
  (s.onDict (fun d => { d with jpending := none })).reject j.slot j.req j.req.data a j.req.sub

/-- A program or erase that failed in both areas enters the error log (R147, Table 18-5); which of the two it was is free. -/
def Sys.flashFails (s : Sys) : Sys :=
  (((s.drew 1).detectedCount 0x19).onDict (fun d => { d with flashFailures := (d.flashFailures + 1) % 2 ^ 32 })).log 0x0905 0 255 2
    (natLe 1 (1 + s.freeNat % 2) ++ natLe 1 s.mgmt.dict.area)

/-- Whether the active area must be compacted before its next record. -/
def DictState.full (d : DictState) : Bool := decide (786432 ≤ d.journalUsed) && !d.compacted

/-- A retry in the other area (R147): it becomes the active one, with a fill the spec does not give. -/
def Sys.otherArea (s : Sys) : Sys :=
  (s.drew 1).onDict (fun x => { x with area := 1 - x.area, journalUsed := s.freeNat % (2 ^ 20 - 4096) })

/-- The record is valid: the response goes out and the write takes effect; or it does not fit, or the flash has failed twice. -/
def Dev.recordEnds (failures : Nat) (j : JPending) (d : Dev) : Dev :=
  if 2 ^ 20 < d.sys.mgmt.dict.journalUsed + d.sys.freeNat % 4096 + 1 then liftSys (fun s => s.journalReject j 0x00060001) d
  else if 2 ≤ failures then liftSys (fun s => s.flashFails.journalReject j 0x00060002) d
  else
    let d := liftSys (fun s =>
      let s := if failures = 1 then s.otherArea else s
      let s := s.journal.onDict (fun x => { x with store := storeAll x.store j.values, jpending := none })
      s.respond j.slot j.req (reqOp j.req) 0 j.req.sub) d
    d.applyWrite j.slot j.req j.req.data none false

/-- JOURNAL_RECORD_VALID: the waiting write ends, and the held datagrams follow. -/
def journalValid (failures : Nat) (d : Dev) : Dev :=
  match d.sys.mgmt.dict.jpending with
  | none => d
  | some j =>
    if d.sys.mgmtUp = false ∨ d.sys.mgmt.dict.full = true then d
    else ((liftSys (fun s => s.onDict (fun x => { x with tx := [] })) d).recordEnds failures j).serveHeld
def execJournalRecordValid (failures : Nat) := onRings (journalValid failures)

/-- JOURNAL_COMPACTION: a snapshot in the other area, then the old one is erased; a failure leaves the previous area in force and
rejects the write that waits for it. -/
def journalCompaction (failures : Nat) (d : Dev) : Dev :=
  let s := d.sys
  if s.mgmtUp && s.mgmt.dict.full then
    if 2 ≤ failures then
      match s.mgmt.dict.jpending with
      | some j => (liftSys (fun s => (s.onDict (fun x => { x with tx := [] })).flashFails.journalReject j 0x00060002) d).serveHeld
      | none => liftSys Sys.flashFails d
    else
      liftSys (fun s => (s.drew 1).onDict (fun x => { x with
        compactions := (x.compactions + 1) % 2 ^ 32, area := 1 - x.area, journalUsed := s.freeNat % 2 ^ 20, compacted := true })) d
  else d
def execJournalCompaction (failures : Nat) := onRings (journalCompaction failures)

end Sys2Proof.Machine
end

