-- ==== Sys2Proof/Machine/Dispatch.lean ====
section
/-! DEFINITION. The meaning of every command: one direct call per constructor. -/

namespace Sys2Proof.Machine

def exec (i : Instr) (s : State) : Host.Outcome State Fault Refusal :=
  match i with
  | .vin48Start mv => Sys2Proof.Machine.execVin48Start mv s
  | .vin48UndervoltageStop mv => Sys2Proof.Machine.execVin48UndervoltageStop mv s
  | .vin48OvervoltageStop mv => Sys2Proof.Machine.execVin48OvervoltageStop mv s
  | .vin48OvervoltageClear mv => Sys2Proof.Machine.execVin48OvervoltageClear mv s
  | .managementRailUp slotId bootMode => Sys2Proof.Machine.execManagementRailUp slotId bootMode s
  | .resetNLow ns => Sys2Proof.Machine.execResetNLow ns s
  | .resetNRise slotId bootMode => Sys2Proof.Machine.execResetNRise slotId bootMode s
  | .deviceReset req => Sys2Proof.Machine.execDeviceReset req s
  | .powerSample r => Sys2Proof.Machine.execPowerSample r s
  | .thermalTrip sensor celsius => Sys2Proof.Machine.execThermalTrip sensor celsius s
  | .laserLineLoss engine line microwatts => Sys2Proof.Machine.execLaserLineLoss engine line microwatts s
  | .laserLineRestored engine line microwatts => Sys2Proof.Machine.execLaserLineRestored engine line microwatts s
  | .laserHoldExpiry engine => Sys2Proof.Machine.execLaserHoldExpiry engine s
  | .fwVerifyDone r => Sys2Proof.Machine.execFwVerifyDone r s
  | .clockStartDone r => Sys2Proof.Machine.execClockStartDone r s
  | .holdRelease req => Sys2Proof.Machine.execHoldRelease req s
  | .stackTrained stack rowsAdded => Sys2Proof.Machine.execStackTrained stack rowsAdded s
  | .coreTestRow row results => Sys2Proof.Machine.execCoreTestRow row results s
  | .powerWave wave => Sys2Proof.Machine.execPowerWave wave s
  | .odpDatagramDiscard iface => Sys2Proof.Machine.execOdpDatagramDiscard iface s
  | .odpOpen o => Sys2Proof.Machine.execOdpOpen o s
  | .odpProve p => Sys2Proof.Machine.execOdpProve p s
  | .odpClose req => Sys2Proof.Machine.execOdpClose req s
  | .odpRead req => Sys2Proof.Machine.execOdpRead req s
  | .odpWrite req => Sys2Proof.Machine.execOdpWrite req s
  | .odpReadBlock req => Sys2Proof.Machine.execOdpReadBlock req s
  | .odpWriteBlock req => Sys2Proof.Machine.execOdpWriteBlock req s
  | .sessionIdleTimeout slot => Sys2Proof.Machine.execSessionIdleTimeout slot s
  | .coupledMemberWrite req => Sys2Proof.Machine.execCoupledMemberWrite req s
  | .groupCommit req => Sys2Proof.Machine.execGroupCommit req s
  | .groupDiscard req => Sys2Proof.Machine.execGroupDiscard req s
  | .journalRecordValid failures => Sys2Proof.Machine.execJournalRecordValid failures s
  | .journalCompaction failures => Sys2Proof.Machine.execJournalCompaction failures s
  | .expertUnlock req => Sys2Proof.Machine.execExpertUnlock req s
  | .roleKeyWrite req => Sys2Proof.Machine.execRoleKeyWrite req s
  | .launch ring idx => Sys2Proof.Machine.execLaunch ring idx s
  | .blockPlace grid core slots => Sys2Proof.Machine.execBlockPlace grid core slots s
  | .blockEnd block => Sys2Proof.Machine.execBlockEnd block s
  | .operandRead core quarter => Sys2Proof.Machine.execOperandRead core quarter s
  | .laneDispatch g => Sys2Proof.Machine.execLaneDispatch g s
  | .resultWriteback core quarter => Sys2Proof.Machine.execResultWriteback core quarter s
  | .add g => Sys2Proof.Machine.execAdd g s
  | .sub g => Sys2Proof.Machine.execSub g s
  | .mul g => Sys2Proof.Machine.execMul g s
  | .mulhi g => Sys2Proof.Machine.execMulhi g s
  | .mad g => Sys2Proof.Machine.execMad g s
  | .fma g => Sys2Proof.Machine.execFma g s
  | .min g => Sys2Proof.Machine.execMin g s
  | .max g => Sys2Proof.Machine.execMax g s
  | .and g => Sys2Proof.Machine.execAnd g s
  | .or g => Sys2Proof.Machine.execOr g s
  | .xor g => Sys2Proof.Machine.execXor g s
  | .not g => Sys2Proof.Machine.execNot g s
  | .shl g => Sys2Proof.Machine.execShl g s
  | .shr g => Sys2Proof.Machine.execShr g s
  | .popc g => Sys2Proof.Machine.execPopc g s
  | .clz g => Sys2Proof.Machine.execClz g s
  | .abs g => Sys2Proof.Machine.execAbs g s
  | .neg g => Sys2Proof.Machine.execNeg g s
  | .rcp g => Sys2Proof.Machine.execRcp g s
  | .sqrt g => Sys2Proof.Machine.execSqrt g s
  | .div g => Sys2Proof.Machine.execDiv g s
  | .ex2 g => Sys2Proof.Machine.execEx2 g s
  | .lg2 g => Sys2Proof.Machine.execLg2 g s
  | .sin g => Sys2Proof.Machine.execSin g s
  | .cos g => Sys2Proof.Machine.execCos g s
  | .cvt g => Sys2Proof.Machine.execCvt g s
  | .setp g => Sys2Proof.Machine.execSetp g s
  | .selp g => Sys2Proof.Machine.execSelp g s
  | .plog g => Sys2Proof.Machine.execPlog g s
  | .mov g => Sys2Proof.Machine.execMov g s
  | .movhi g => Sys2Proof.Machine.execMovhi g s
  | .rdsr g => Sys2Proof.Machine.execRdsr g s
  | .vote g => Sys2Proof.Machine.execVote g s
  | .shfl g => Sys2Proof.Machine.execShfl g s
  | .ldC g => Sys2Proof.Machine.execLdC g s
  | .stC g => Sys2Proof.Machine.execStC g s
  | .ldG g => Sys2Proof.Machine.execLdG g s
  | .stG g => Sys2Proof.Machine.execStG g s
  | .bra g => Sys2Proof.Machine.execBra g s
  | .call g => Sys2Proof.Machine.execCall g s
  | .ret g => Sys2Proof.Machine.execRet g s
  | .exit g => Sys2Proof.Machine.execExit g s
  | .nop g => Sys2Proof.Machine.execNop g s
  | .dmaCs g => Sys2Proof.Machine.execDmaCs g s
  | .dmaCopyComplete copy => Sys2Proof.Machine.execDmaCopyComplete copy s
  | .arrWait g => Sys2Proof.Machine.execArrWait g s
  | .mxaIssue g => Sys2Proof.Machine.execMxaIssue g s
  | .mxaDrain g => Sys2Proof.Machine.execMxaDrain g s
  | .mxaWait g => Sys2Proof.Machine.execMxaWait g s
  | .mxaOperationComplete core => Sys2Proof.Machine.execMxaOperationComplete core s
  | .mxaDrainComplete core => Sys2Proof.Machine.execMxaDrainComplete core s
  | .fenceGrp g => Sys2Proof.Machine.execFenceGrp g s
  | .fenceBlk g => Sys2Proof.Machine.execFenceBlk g s
  | .fenceDev g => Sys2Proof.Machine.execFenceDev g s
  | .fenceSys g => Sys2Proof.Machine.execFenceSys g s
  | .blkJoin g => Sys2Proof.Machine.execBlkJoin g s
  | .atomG g => Sys2Proof.Machine.execAtomG g s
  | .atomC g => Sys2Proof.Machine.execAtomC g s
  | .killComplete ring => Sys2Proof.Machine.execKillComplete ring s
  | .progressStalled g => Sys2Proof.Machine.execProgressStalled g s
  | .sliceMissFill stack line ecc => Sys2Proof.Machine.execSliceMissFill stack line ecc s
  | .sliceStoreAccept k => Sys2Proof.Machine.execSliceStoreAccept k s
  | .scrubLine stack ecc => Sys2Proof.Machine.execScrubLine stack ecc s
  | .kettleDescriptorStart task => Sys2Proof.Machine.execKettleDescriptorStart task s
  | .kettleTurnEnd stack engine => Sys2Proof.Machine.execKettleTurnEnd stack engine s
  | .gemvDescriptorComplete task => Sys2Proof.Machine.execGemvDescriptorComplete task s
  | .scalePassDescriptorComplete task => Sys2Proof.Machine.execScalePassDescriptorComplete task s
  | .updateDescriptorComplete task => Sys2Proof.Machine.execUpdateDescriptorComplete task s
  | .rootAttempt task => Sys2Proof.Machine.execRootAttempt task s
  | .targetRed stack => Sys2Proof.Machine.execTargetRed stack s
  | .targetAtom stack => Sys2Proof.Machine.execTargetAtom stack s
  | .gemvList ring idx => Sys2Proof.Machine.execGemvList ring idx s
  | .decodeOpen ring idx => Sys2Proof.Machine.execDecodeOpen ring idx s
  | .decodeClose ring idx => Sys2Proof.Machine.execDecodeClose ring idx s
  | .dqPush g => Sys2Proof.Machine.execDqPush g s
  | .dqTake g => Sys2Proof.Machine.execDqTake g s
  | .pushAccept queue => Sys2Proof.Machine.execPushAccept queue s
  | .batchBudgetExpiry queue => Sys2Proof.Machine.execBatchBudgetExpiry queue s
  | .takeClaim queue => Sys2Proof.Machine.execTakeClaim queue s
  | .takeHeaderWrite queue take => Sys2Proof.Machine.execTakeHeaderWrite queue take s
  | .copyLocal ring idx => Sys2Proof.Machine.execCopyLocal ring idx s
  | .copyScalePass ring idx => Sys2Proof.Machine.execCopyScalePass ring idx s
  | .copyFabric ring idx => Sys2Proof.Machine.execCopyFabric ring idx s
  | .copyHostWrite ring idx => Sys2Proof.Machine.execCopyHostWrite ring idx s
  | .copyHostRead ring idx => Sys2Proof.Machine.execCopyHostRead ring idx s
  | .updateStep ring idx => Sys2Proof.Machine.execUpdateStep ring idx s
  | .updatePublish ring idx => Sys2Proof.Machine.execUpdatePublish ring idx s
  | .updateStart ring idx => Sys2Proof.Machine.execUpdateStart ring idx s
  | .voteBudgetExpiry slot => Sys2Proof.Machine.execVoteBudgetExpiry slot s
  | .coordinatorBudgetExpiry slot => Sys2Proof.Machine.execCoordinatorBudgetExpiry slot s
  | .epochInDoubt slot => Sys2Proof.Machine.execEpochInDoubt slot s
  | .publishComplete slot => Sys2Proof.Machine.execPublishComplete slot s
  | .resolve req => Sys2Proof.Machine.execResolve req s
  | .epochLoad req => Sys2Proof.Machine.execEpochLoad req s
  | .ctrlPacket p => Sys2Proof.Machine.execCtrlPacket p s
  | .ctrlResend k => Sys2Proof.Machine.execCtrlResend k s
  | .lockComplete port mask => Sys2Proof.Machine.execLockComplete port mask s
  | .alignComplete port mask => Sys2Proof.Machine.execAlignComplete port mask s
  | .negotiateComplete port far => Sys2Proof.Machine.execNegotiateComplete port far s
  | .verifyWindowEnd port failMask uncorrectable => Sys2Proof.Machine.execVerifyWindowEnd port failMask uncorrectable s
  | .trainingStateTimeout port => Sys2Proof.Machine.execTrainingStateTimeout port s
  | .dataFlitReceive port f fecOk crc => Sys2Proof.Machine.execDataFlitReceive port f fecOk crc s
  | .nullFlitReceive port f fecOk crc => Sys2Proof.Machine.execNullFlitReceive port f fecOk crc s
  | .trainFlitReceive rx => Sys2Proof.Machine.execTrainFlitReceive rx s
  | .flitTransmit port => Sys2Proof.Machine.execFlitTransmit port s
  | .linkReplayTimeout port => Sys2Proof.Machine.execLinkReplayTimeout port s
  | .signalLost port => Sys2Proof.Machine.execSignalLost port s
  | .portDegraded port ratio => Sys2Proof.Machine.execPortDegraded port ratio s
  | .portAccept req => Sys2Proof.Machine.execPortAccept req s
  | .portEnableWrite req => Sys2Proof.Machine.execPortEnableWrite req s
  | .helloSend port => Sys2Proof.Machine.execHelloSend port s
  | .helloReceive port h => Sys2Proof.Machine.execHelloReceive port h s
  | .fabGet g => Sys2Proof.Machine.execFabGet g s
  | .fabPut g => Sys2Proof.Machine.execFabPut g s
  | .fabMput g => Sys2Proof.Machine.execFabMput g s
  | .fabRed g => Sys2Proof.Machine.execFabRed g s
  | .fabAtom g => Sys2Proof.Machine.execFabAtom g s
  | .fabPutFlag g => Sys2Proof.Machine.execFabPutFlag g s
  | .fabFence g => Sys2Proof.Machine.execFabFence g s
  | .packetRoute k => Sys2Proof.Machine.execPacketRoute k s
  | .getPacket p => Sys2Proof.Machine.execGetPacket p s
  | .putPacket p => Sys2Proof.Machine.execPutPacket p s
  | .mputPacket p => Sys2Proof.Machine.execMputPacket p s
  | .redPacket p => Sys2Proof.Machine.execRedPacket p s
  | .atomPacket p => Sys2Proof.Machine.execAtomPacket p s
  | .flagPacket p => Sys2Proof.Machine.execFlagPacket p s
  | .combinedPacket p => Sys2Proof.Machine.execCombinedPacket p s
  | .dataReply p => Sys2Proof.Machine.execDataReply p s
  | .ackReply p => Sys2Proof.Machine.execAckReply p s
  | .resultReply p => Sys2Proof.Machine.execResultReply p s
  | .nakReply p => Sys2Proof.Machine.execNakReply p s
  | .resendDelayExpiry k => Sys2Proof.Machine.execResendDelayExpiry k s
  | .fabricTimeout op => Sys2Proof.Machine.execFabricTimeout op s
  | .windowSet req => Sys2Proof.Machine.execWindowSet req s
  | .replayAreaWrite req => Sys2Proof.Machine.execReplayAreaWrite req s
  | .multicastSet req => Sys2Proof.Machine.execMulticastSet req s
  | .blockManagerPoll member answer => Sys2Proof.Machine.execBlockManagerPoll member answer s
  | .circuitAcknowledge req => Sys2Proof.Machine.execCircuitAcknowledge req s
  | .collective ring idx => Sys2Proof.Machine.execCollective ring idx s
  | .collectiveStart ring idx => Sys2Proof.Machine.execCollectiveStart ring idx s
  | .segmentSend slot owner => Sys2Proof.Machine.execSegmentSend slot owner s
  | .segmentIngress p => Sys2Proof.Machine.execSegmentIngress p s
  | .allGatherSegment p => Sys2Proof.Machine.execAllGatherSegment p s
  | .stragglerBudgetExpiry slot => Sys2Proof.Machine.execStragglerBudgetExpiry slot s
  | .collectiveStalled slot => Sys2Proof.Machine.execCollectiveStalled slot s
  | .collectiveComplete slot => Sys2Proof.Machine.execCollectiveComplete slot s
  | .partitionReset req => Sys2Proof.Machine.execPartitionReset req s
  | .partitionResetApply part => Sys2Proof.Machine.execPartitionResetApply part s
  | .eventRingPoll part => Sys2Proof.Machine.execEventRingPoll part s
  | .clearSets req => Sys2Proof.Machine.execClearSets req s
  | .thresholdWrite req => Sys2Proof.Machine.execThresholdWrite req s
  | .ethPortState port up => Sys2Proof.Machine.execEthPortState port up s
  | .frameReceive port f => Sys2Proof.Machine.execFrameReceive port f s
  | .pfcPauseReceive port priority quanta => Sys2Proof.Machine.execPfcPauseReceive port priority quanta s
  | .pfcXoffRepeat port priority => Sys2Proof.Machine.execPfcXoffRepeat port priority s
  | .cnpReceive qp => Sys2Proof.Machine.execCnpReceive qp s
  | .rateIncrease qp => Sys2Proof.Machine.execRateIncrease qp s
  | .rdmaWriteReceive qp addr rkey data ce => Sys2Proof.Machine.execRdmaWriteReceive qp addr rkey data ce s
  | .rdmaReadRequest qp addr rkey len => Sys2Proof.Machine.execRdmaReadRequest qp addr rkey len s
  | .sendReceive qp data => Sys2Proof.Machine.execSendReceive qp data s
  | .invalidRequest qp => Sys2Proof.Machine.execInvalidRequest qp s
  | .rdmaRetransmitTimeout qp => Sys2Proof.Machine.execRdmaRetransmitTimeout qp s
  | .qpRecordWrite req => Sys2Proof.Machine.execQpRecordWrite req s
  | .doorbellNotice ring => Sys2Proof.Machine.execDoorbellNotice ring s
  | .commandRead ring => Sys2Proof.Machine.execCommandRead ring s
  | .commandStart ring => Sys2Proof.Machine.execCommandStart ring s
  | .fenceRing ring idx => Sys2Proof.Machine.execFenceRing ring idx s
  | .fencePartition ring idx => Sys2Proof.Machine.execFencePartition ring idx s
  | .eventSignal ring idx => Sys2Proof.Machine.execEventSignal ring idx s
  | .eventWait ring idx => Sys2Proof.Machine.execEventWait ring idx s
  | .eventWaitSample ring => Sys2Proof.Machine.execEventWaitSample ring s
  | .completionRecordWrite ring => Sys2Proof.Machine.execCompletionRecordWrite ring s
  | .maskedFault unit inst retriesFailed => Sys2Proof.Machine.execMaskedFault unit inst retriesFailed s
  | .maskedSummary unit => Sys2Proof.Machine.execMaskedSummary unit s
  | .detectedFault f => Sys2Proof.Machine.execDetectedFault f s
  | .coreQuarantine req => Sys2Proof.Machine.execCoreQuarantine req s
  | .remapCancel req => Sys2Proof.Machine.execRemapCancel req s
  | .remapSpare req => Sys2Proof.Machine.execRemapSpare req s
  | .remapAbsent req => Sys2Proof.Machine.execRemapAbsent req s
  | .remapRetest req => Sys2Proof.Machine.execRemapRetest req s
  | .remapTestComplete core result => Sys2Proof.Machine.execRemapTestComplete core result s
  | .ageingSample r => Sys2Proof.Machine.execAgeingSample r s
  | .sampleNow req r => Sys2Proof.Machine.execSampleNow req r s
  | .imageWrite req => Sys2Proof.Machine.execImageWrite req s
  | .activate req => Sys2Proof.Machine.execActivate req s
  | .floorCommit req => Sys2Proof.Machine.execFloorCommit req s
  | .attestationNonce req => Sys2Proof.Machine.execAttestationNonce req s
  | .seal req => Sys2Proof.Machine.execSeal req s
  | .unseal req => Sys2Proof.Machine.execUnseal req s
  | .unlockToken req saltErased => Sys2Proof.Machine.execUnlockToken req saltErased s
  | .tapBypass tdi => Sys2Proof.Machine.execTapBypass tdi s
  | .samplePreload pins preload => Sys2Proof.Machine.execSamplePreload pins preload s
  | .tapExtest pins => Sys2Proof.Machine.execTapExtest pins s
  | .mgmtHalt halt => Sys2Proof.Machine.execMgmtHalt halt s
  | .mgmtMem wr addr data => Sys2Proof.Machine.execMgmtMem wr addr data s
  | .siteScan site segment => Sys2Proof.Machine.execSiteScan site segment s
  | .rdmaResponseReceive qp kind data => Sys2Proof.Machine.execRdmaResponseReceive qp kind data s
  | .stackTrainStepFailed stack reason => Sys2Proof.Machine.execStackTrainStepFailed stack reason s
  | .alwaysOnRailsUp => Sys2Proof.Machine.execAlwaysOnRailsUp s
  | .refclkValid => Sys2Proof.Machine.execRefclkValid s
  | .refclkLate => Sys2Proof.Machine.execRefclkLate s
  | .raiseWindowEnd => Sys2Proof.Machine.execRaiseWindowEnd s
  | .stackTrainTimeout => Sys2Proof.Machine.execStackTrainTimeout s
  | .linkTrainDeadline => Sys2Proof.Machine.execLinkTrainDeadline s
  | .coreAssignCommit => Sys2Proof.Machine.execCoreAssignCommit s
  | .ownerVoteReceive => Sys2Proof.Machine.execOwnerVoteReceive s
  | .blockVoteReceive => Sys2Proof.Machine.execBlockVoteReceive s
  | .decisionReceive => Sys2Proof.Machine.execDecisionReceive s
  | .spliceTrainingTimeout => Sys2Proof.Machine.execSpliceTrainingTimeout s
  | .eventRecordWrite => Sys2Proof.Machine.execEventRecordWrite s
  | .doorbellPoll => Sys2Proof.Machine.execDoorbellPoll s
  | .mgmtStop => Sys2Proof.Machine.execMgmtStop s
  | .tapIdcode => Sys2Proof.Machine.execTapIdcode s

end Sys2Proof.Machine
end

