-- ==== Sys2Proof/Safety.lean ====
section
/-! DEFINITION. What counts as a safe run, one that ends in no fault and no refusal; the invariants of the state, and the words
statements use of memory. -/

open Sys2Proof

namespace Sys2Proof.Machine

/-- `k` steps from a state end in a state, with no fault and no refusal on the way. -/
def runsTo : Nat → State → State → Prop
  | 0, s, t => s = t
  | k + 1, s, t => ∃ u, step s = .next u ∧ runsTo k u t

/-- A state that some run from reset with queue `q` reaches: what is commanded is the queue's contents. -/
def Reached (s : State) : Prop := ∃ q k, runsTo k { State.reset with pending := q } s

/-- No run from a state stops, whatever is waiting. -/
def Safe (s : State) : Prop := ∀ k t, runsTo k s t → ∃ u, step t = .next u

/-! ## Invariants and words of memory -/

/-- Memory in its canonical form, eight stacks and eight slices, and a clean line of a slice agreeing with its stack. -/
def Mem.Coherent (m : Mem) : Prop :=
  m.wf = true ∧ m.dram.length = 8 ∧ m.slices.length = 8
    ∧ ∀ st l, l ∈ (m.slice st).lines → l.dirty = false → l.data = (m.stack st).lineData l.line

/-- The byte at stack-local address `L` of stack `st`, as an access through the slice finds it. -/
def Mem.byteAt (m : Mem) (st L : Nat) : Byte := (m.lineOf st (L / 64)).data.getD (L % 64) 0

/-- Every byte outside `n` bytes from `L` of stack `st` reads as before. -/
def Mem.KeepsOutside (m m' : Mem) (st L n : Nat) : Prop :=
  ∀ st' a, ¬(st' = st ∧ L ≤ a ∧ a < L + n) → m'.byteAt st' a = m.byteAt st' a

/-- Every byte reads as before. -/
def Mem.KeepsBytes (m m' : Mem) : Prop := ∀ st a, m'.byteAt st a = m.byteAt st a

/-- No byte of a partition's range lies in a poisoned line, in DRAM or in its slice. -/
def Dev.CleanRange (d : Dev) (p a n : Nat) : Prop :=
  ∀ j < n, ∀ st L, d.locate p (a + j) = (st, L) →
    (d.mem.stack st).isPoisoned (L / 64) = false ∧ (d.mem.lineOf st (L / 64)).poison = false

/-- The byte at partition address `a`. -/
def Dev.byteOf (d : Dev) (p a : Nat) : Byte := d.mem.byteAt (d.locate p a).1 (d.locate p a).2

/-- Every byte reads as before but those at `n` bytes from partition address `a`. -/
def Dev.KeepsButRange (d : Dev) (m : Mem) (p a n : Nat) : Prop :=
  ∀ st L, (∀ j < n, d.locate p (a + j) ≠ (st, L)) → m.byteAt st L = d.mem.byteAt st L

/-- A byte of the doorbell page that the sequencer keeps, offsets 24 to 41, of a ring in effect. -/
def Dev.PageByte (d : Dev) (st L : Nat) : Prop :=
  ∃ r < 64, ∃ j, 24 ≤ j ∧ j < 42 ∧ (d.sys.ring r).inEffect = true
    ∧ d.locate (d.sys.ringPart r) (ringAddr (d.sys.ringRec r) + j) = (st, L)

/-- Every byte reads as before but those of the doorbell pages the sequencer keeps. -/
def State.KeepsButPages (s t : State) : Prop :=
  ∀ st L, ¬s.dev.PageByte st L → t.dev.mem.byteAt st L = s.dev.mem.byteAt st L

/-- A group whose registers are in canonical form, with seven predicates and no active thread that has exited. -/
def Group.Ok (g : Group) : Prop := g.regs.wf = true ∧ g.preds.length = 7 ∧ g.mask &&& ~~~g.live = 0

/-- Instructions whose result is still to be written, each with its destinations (R185 to R188). -/
def CoreState.flying (c : CoreState) : List (Gid × List Nat) :=
  c.collectors.map (fun k => (k.gid, k.dests)) ++ c.results.map (fun k => (k.gid, k.dests))

/-- The destinations of instructions in flight are marked busy in their groups, each for one instruction, and a result has one. -/
def CoreState.FlightOk (c : CoreState) : Prop :=
  (∀ x ∈ c.flying, ∀ r ∈ x.2, ∃ g ∈ c.groups, g.gid = x.1 ∧ r ∈ g.busy)
    ∧ c.flying.Pairwise (fun x y => x.1 = y.1 → ∀ r ∈ x.2, r ∉ y.2) ∧ ∀ k ∈ c.results, k.dests ≠ []

/-- Resident groups stand in distinct places and are sound, block stores and accumulators are canonical, a pending store lies in one line, and a copy
has bytes of its own left to move and a counter outside its core store bytes; what is in flight is sound. -/
def CoreState.Ok (c : CoreState) : Prop :=
  (c.groups.map Group.gid).Nodup ∧ (∀ g ∈ c.groups, g.Ok) ∧ (∀ b ∈ c.blocks, cellsWf b.store = true ∧ b.acc.wf = true)
    ∧ (∀ x ∈ c.stores, x.addr % 64 + x.data.length ≤ 64)
    ∧ (∀ x ∈ c.copies, x.len ≤ 524288 ∧ (∀ o ∈ x.todo, o < x.len) ∧ (x.len = 0 ∨ overlaps x.counter 4 x.cs x.len = false))
    ∧ c.FlightOk

/-- The tables of fixed size have their sizes: partitions, rings, Ethernet ports and decode queues; fabric ports, collective slots
and epoch machines, observations and replay directories; executors and Ethernet buffers; ODP sessions; sites, numbers, stacks, engines, firmware images and unit codes. -/
def Sys.Sized (s : Sys) : Prop :=
  s.host.parts.length = 16 ∧ s.host.rings.length = 64 ∧ s.host.eth.length = 2 ∧ s.host.queues.length = 16
    ∧ s.fab.ports.length = 16 ∧ s.fab.slots.length = 8 ∧ s.fab.epochs.length = 8 ∧ s.fab.replay.length = 16
    ∧ s.fab.observed.length = 16 ∧ s.fab.missed.wf = true ∧ s.host.execQ.length = 8
    ∧ (∀ e ∈ s.host.eth, e.counts.length = 8 ∧ e.fill.length = 8 ∧ e.xoff.length = 8 ∧ e.pausedTx.length = 8 ∧ e.heldTx.length = 8)
    ∧ s.mgmt.dict.sessions.length = 16 ∧ s.mgmt.bring.results.length = 160 ∧ s.mgmt.bring.coreMap.length = 144
    ∧ (∀ l, s.mgmt.bring.assignment = some l → l.length = 144)
    ∧ s.mgmt.bring.stackDone.length = 8 ∧ s.mgmt.bring.stackReason.length = 8
    ∧ s.mgmt.power.lineUp.length = 6 ∧ s.mgmt.power.laserLoss.length = 6 ∧ s.mgmt.power.laserHeld.length = 6
    ∧ s.mgmt.sec.images.length = 2 ∧ s.mgmt.rel.masked.length = 30 ∧ s.mgmt.rel.detected.length = 30

/-- Both throttle steps are of Table 2-6's range. -/
def PowerState.StepsOk (p : PowerState) : Prop := 8 ≤ p.capStep ∧ p.capStep ≤ 32 ∧ 8 ≤ p.thermStep ∧ p.thermStep ≤ 32

/-- The places of the bytes of a list of writes. -/
def Dev.places (d : Dev) (p : Nat) (ws : List (Nat × List Byte)) : List (Nat × Nat) :=
  ws.flatMap (fun w => (List.range w.2.length).map (fun j => d.locate p (w.1 + j)))

/-- Writes at distinct places that translate for writing and lie in no poisoned line. -/
def Dev.Writable (d : Dev) (p : Nat) (ws : List (Nat × List Byte)) : Prop :=
  (d.places p ws).Nodup ∧ ∀ w ∈ ws, d.rangeOk p w.1 w.2.length true = true ∧ d.CleanRange p w.1 w.2.length

/-- Exactly the bytes of the writes have changed, doorbell pages apart. -/
def State.Wrote (s t : State) (p : Nat) (ws : List (Nat × List Byte)) : Prop :=
  (∀ w ∈ ws, ∀ j < w.2.length, s.dev.PageByte (s.dev.locate p (w.1 + j)).1 (s.dev.locate p (w.1 + j)).2 ∨
      t.dev.mem.byteAt (s.dev.locate p (w.1 + j)).1 (s.dev.locate p (w.1 + j)).2 = w.2.getD j 0)
    ∧ ∀ st L, (st, L) ∉ s.dev.places p ws → ¬s.dev.PageByte st L → t.dev.mem.byteAt st L = s.dev.mem.byteAt st L

end Sys2Proof.Machine
end

