-- ==== Sys2Proof/Certificates/Slice0/Obligations.lean ====
section
/-! DEFINITION. The statements for the provers. Each says for which rows of the command table it holds; where a command
waits for a condition, the condition is a hypothesis on the state and the operands alone. -/

open Sys2Proof Sys2Proof.Machine

/-! ## The queue and reset -/

/-- A step runs the command at the front of the queue, on the state with the queue's rest. -/
def Obligations.StepRunsFrontCommand : Prop :=
  ∀ (c : Instr) (s : State), step { s with pending := c :: s.pending } = exec c s

/-- Every command completes in every state, with the queue's rest as it was, in order; one alone stops, and only on one operand:
VIN48 above the absolute maximum of 60.0 V, of which R2 and R44 say nothing. -/
def Obligations.ExecKeepsQueue : Prop :=
  ∀ (c : Instr) (s : State),
    ((∀ mv, c = .vin48OvervoltageStop mv → mv ≤ 60000) → ∃ t, exec c s = .next t ∧ t.pending = s.pending)
    ∧ (∀ mv, c = .vin48OvervoltageStop mv → 60000 < mv → exec c s = .fault .beyondAbsoluteMaximum)

/-- The block after power-on: nothing is powered and no phase runs, every ring, queue pair, window, session and pending set is
empty, both throttle steps stand at 32 (R52), the error log is empty with 1 as its next number, memory is canonical with every
stack untrained, and no command waits. -/
def Claims.ResetLeavesNothingRunning : Prop :=
  State.reset.pending = [] ∧ State.reset.dev.mem.wf = true ∧ State.reset.dev.mem.allTrained = false
    ∧ State.reset.dev.sys.mgmt.power.stages = false ∧ State.reset.dev.sys.mgmt.power.mgmtRail = false
    ∧ State.reset.dev.sys.mgmt.power.pgood = false ∧ State.reset.dev.sys.mgmt.bring.phase = 0
    ∧ State.reset.dev.sys.mgmt.power.capStep = 32 ∧ State.reset.dev.sys.mgmt.power.thermStep = 32
    ∧ (∀ r, (State.reset.dev.sys.ring r).inEffect = false) ∧ (∀ q, (State.reset.dev.sys.qp q).st = 0)
    ∧ State.reset.dev.sys.fab.windows = [] ∧ (∀ k, (State.reset.dev.sys.session k).phase = 0)
    ∧ State.reset.dev.sys.mgmt.dict.pending = [] ∧ State.reset.dev.sys.core.blocks = [] ∧ State.reset.dev.sys.core.groups = []
    ∧ State.reset.dev.sys.mgmt.rel.log = [] ∧ State.reset.dev.sys.mgmt.rel.nextSeq = 1


/-! ## What every state the block reaches satisfies -/


/-- The invariants below hold after power-on. -/
def Claims.InvariantsHoldAtReset : Prop :=
  State.reset.dev.mem.Coherent ∧ State.reset.dev.sys.core.Ok ∧ State.reset.dev.sys.mgmt.power.StepsOk ∧ State.reset.dev.sys.Sized

/-- Every step of every command keeps memory canonical and the slices coherent with their stacks. -/
def Obligations.MemoryStaysCoherent : Prop :=
  ∀ (s t : State), s.dev.mem.Coherent → step s = .next t → t.dev.mem.Coherent

/-- Every step of every command keeps the cores' groups, stores and pending accesses sound. -/
def Obligations.CoresStaySound : Prop :=
  ∀ (s t : State), s.dev.sys.core.Ok → step s = .next t → t.dev.sys.core.Ok

/-- Every step of every command keeps the sizes of the tables of fixed size. -/
def Claims.TablesKeepTheirSizes : Prop :=
  ∀ (s t : State), s.dev.sys.Sized → step s = .next t → t.dev.sys.Sized

/-- R52 and R57: the throttle steps stay from 8 to 32 through every step of every command. -/
def Claims.ThrottleStepsStayInRange : Prop :=
  ∀ (s t : State), s.dev.sys.mgmt.power.StepsOk → step s = .next t → t.dev.sys.mgmt.power.StepsOk

/-- R677 and the rules of the unlock token: a closed debug port is opened by no command but an unlock token. -/
def Obligations.OnlyATokenOpensDebug : Prop :=
  ∀ (c : Instr) (s t : State), (∀ r e, c ≠ .unlockToken r e) → s.dev.sys.mgmt.sec.debugOpen = false → exec c s = .next t →
    t.dev.sys.mgmt.sec.debugOpen = false
/-! ## Words the statements about ODP use -/

namespace Sys2Proof.Machine

/-- A request's turn has come: it is for this device's ODP, and no request before it still executes (R128, R149 to R152). -/
def Dev.Turn (d : Dev) (iface : Nat) (dst : IpAddr) (dport : Nat) : Prop :=
  d.sys.odpTakes iface dst dport = true ∧ d.sys.mgmt.dict.jpending = none

/-- Request `r` of opcode `op` has its turn, and is the next request of the open session in slot `k`, with its tag and of the right
length (R153, R158). -/
def Dev.Takes (d : Dev) (r : OdpReq) (k op : Nat) : Prop :=
  d.Turn r.iface r.dst r.dport ∧ d.sys.sessionOf 2 r.iface r.sid r.src r.sport = some k
    ∧ r.tag = reqTag (d.sys.session k).key r op ∧ r.seq = ((d.sys.session k).lastSeq + 1) % 2 ^ 32 ∧ r.bad = 0

/-- The device as a request finds it: the frames sent before it have left. -/
def Dev.heard (d : Dev) : Dev := liftSys (fun s => s.onDict (fun x => { x with tx := [] })) d

/-- What a request leaves of a DOMAIN write in progress once it completes: nothing. -/
def Dev.settled (d : Dev) (r : OdpReq) (k : Nat) : Dev :=
  if r.block.isSome then liftSys (fun s => s.clearBlock k) d.heard else d.heard

/-- A segment follows those before it of a DOMAIN write of `total` bytes, or begins one (R154). -/
def Sys.SegmentFits (s : Sys) (k : Nat) (r : OdpReq) (off total : Nat) : Prop :=
  off + r.data.length ≤ total ∧ r.data.length ≤ 1024 ∧ s.headAbort k r total = none
    ∧ ((objRow r.index r.sub).map ObjRow.ty).getD 0 = 10
    ∧ (off = 0 ∨ ((s.session k).wrKey = blockKey r.index r.sub ∧ (s.session k).wrTotal = total ∧ off = (s.session k).wrData.length))

/-- A WRITE, or the segment of a WRITE_BLOCK that completes its total size with every segment before it in place (R154). -/
def Dev.Completes (d : Dev) (r : OdpReq) (k : Nat) : Prop :=
  match r.block with
  | none => True
  | some (off, total) => off + r.data.length = total ∧ d.sys.SegmentFits k r off total

/-- Request `r` of slot `k` is a whole write of `v` in row `w` that passes every check of Table 4-4 and of its object. -/
def Dev.Accepts (d : Dev) (w : WriteRow) (r : OdpReq) (k : Nat) (v : List Byte) : Prop :=
  d.Takes r k (reqOp r) ∧ d.Completes r k ∧ d.sys.rowFor r = w ∧ v = d.sys.wholeData r ∧ (d.settled r k).writeAbort k r v = none

/-- A frame of session `x`, from port 7450 to its client (R149). -/
def Session.frame (x : Session) (f : List Byte) : TxFrame := ⟨x.iface, 7450, x.src, x.sport, odpTagged x.key f⟩

/-- The frame that answers request `r` of slot `k` with abort code 0 (Table 4-9). -/
def Sys.okFrame (s : Sys) (k : Nat) (r : OdpReq) : TxFrame :=
  (s.session k).frame (odpFrame (reqOp r) (s.session k).sid r.seq 0 (abortPayload (reqOp r) 0 r.index r.sub))

/-- What a command that only writes objects leaves alone: the cores' contexts, power, bring-up, the queue, and every byte of memory
but those of the doorbell pages, which follow their rings. -/
def State.Untouched (s t : State) : Prop :=
  t.pending = s.pending ∧ t.dev.sys.core = s.dev.sys.core ∧ t.dev.sys.mgmt.power = s.dev.sys.mgmt.power
    ∧ t.dev.sys.mgmt.bring = s.dev.sys.mgmt.bring ∧ (s.dev.mem.Coherent → s.KeepsButPages t)

/-- The journal's next record has room and its area needs no compaction first, and no datagram waits behind it. -/
def DictState.RecordFits (d : DictState) : Prop := d.full = false ∧ d.journalUsed + 4096 ≤ 2 ^ 20 ∧ d.held = []

end Sys2Proof.Machine

namespace Sys2Proof.Machine

/-- `c` is the command of a write row: the request, for Sample now with the readings of the monitors, for an unlock token with
whether the salt's sector reads blank. -/
def WriteRow.Names (r : OdpReq) (a : AgeingReading) (e : Bool) (c : Instr) : WriteRow → Prop
  | .write => c = .odpWrite r
  | .writeBlock => c = .odpWriteBlock r
  | .deviceReset => c = .deviceReset r
  | .holdRelease => c = .holdRelease r
  | .member => c = .coupledMemberWrite r
  | .commit => c = .groupCommit r
  | .discard => c = .groupDiscard r
  | .unlock => c = .expertUnlock r
  | .roleKey => c = .roleKeyWrite r
  | .resolve => c = .resolve r
  | .epochLoad => c = .epochLoad r
  | .accept => c = .portAccept r
  | .portEnable => c = .portEnableWrite r
  | .window => c = .windowSet r
  | .replayArea => c = .replayAreaWrite r
  | .multicast => c = .multicastSet r
  | .circuit => c = .circuitAcknowledge r
  | .partReset => c = .partitionReset r
  | .clearSets => c = .clearSets r
  | .threshold => c = .thresholdWrite r
  | .qpRecord => c = .qpRecordWrite r
  | .quarantine => c = .coreQuarantine r
  | .cancel => c = .remapCancel r
  | .spare => c = .remapSpare r
  | .absent => c = .remapAbsent r
  | .retest => c = .remapRetest r
  | .sampleNow => c = .sampleNow r a
  | .image => c = .imageWrite r
  | .activate => c = .activate r
  | .floor => c = .floorCommit r
  | .nonce => c = .attestationNonce r
  | .wrap => c = .seal r
  | .unwrap => c = .unseal r
  | .token => c = .unlockToken r e

end Sys2Proof.Machine

/-! ## Power, pins and temperature (VIN48_START to LASER_HOLD_EXPIRY) -/

/-- R42: while VIN48 rises the stages start only at 42.0 V, and while it falls they stop at 40.0 V, taking every rail, the
phase and all memory with them. VIN48_START, VIN48_UNDERVOLTAGE_STOP. -/
def Obligations.StagesFollowVin48 : Prop :=
  ∀ (s : State) (mv : Nat),
    (s.dev.sys.mgmt.power.stages = false → s.dev.sys.mgmt.power.overvolt = false → 42000 ≤ mv → mv ≤ 58000 →
      exec (.vin48Start mv) s = .next { s with
        dev.sys.mgmt.power := { s.dev.sys.mgmt.power with stages := true, rampLimit := true } })
    ∧ (mv < 42000 → exec (.vin48Start mv) s = .next s)
    ∧ (s.dev.sys.mgmt.power.stages = true → mv ≤ 40000 →
      ∃ t, exec (.vin48UndervoltageStop mv) s = .next t ∧ t.pending = s.pending ∧ t.dev.mem = Mem.reset
        ∧ t.dev.sys.mgmt.power.stages = false ∧ t.dev.sys.mgmt.power.mgmtRail = false ∧ t.dev.sys.mgmt.power.rails = false
        ∧ t.dev.sys.mgmt.power.pgood = false ∧ t.dev.sys.mgmt.power.thermtripLow = false ∧ t.dev.sys.mgmt.bring.phase = 0)
    ∧ (40000 < mv → exec (.vin48UndervoltageStop mv) s = .next s)

/-- R43 and R44: above 58.0 V the stages stop, and only a fall below 57.0 V starts them again, which at 40.0 V and below R42 stops
once more; above 60.0 V nothing is said of the device, and the command faults. VIN48_OVERVOLTAGE_STOP, VIN48_OVERVOLTAGE_CLEAR. -/
def Claims.OvervoltageStopsAndRestarts : Prop :=
  ∀ (s : State) (mv : Nat),
    (s.dev.sys.mgmt.power.stages = true → 58000 < mv → mv ≤ 60000 →
      ∃ t, exec (.vin48OvervoltageStop mv) s = .next t ∧ t.pending = s.pending ∧ t.dev.mem = Mem.reset
        ∧ t.dev.sys.mgmt.power.stages = false ∧ t.dev.sys.mgmt.power.overvolt = true ∧ t.dev.sys.mgmt.power.rails = false
        ∧ t.dev.sys.mgmt.power.pgood = false ∧ t.dev.sys.mgmt.bring.phase = 0)
    ∧ (60000 < mv → exec (.vin48OvervoltageStop mv) s = .fault .beyondAbsoluteMaximum)
    ∧ (s.dev.sys.mgmt.power.overvolt = true → mv < 57000 →
      exec (.vin48OvervoltageClear mv) s = .next { s with
        dev.sys.mgmt.power := { s.dev.sys.mgmt.power with
          overvolt := false, stages := decide (40000 < mv), rampLimit := decide (40000 < mv) } })
    ∧ (57000 ≤ mv → exec (.vin48OvervoltageClear mv) s = .next s)

/-- R70, R74: the management rail samples the straps and starts the island; the always-on rails drive PGOOD high and start
bring-up in FW_VERIFY under a new incarnation, unless RESET_N is low, when only the rails come up. The bytes of the new challenge
are a free value. MANAGEMENT_RAIL_UP, ALWAYS_ON_RAILS_UP. -/
def Claims.RailsStartBringUp : Prop :=
  ∀ (s : State) (slot boot : Nat),
    (s.dev.sys.mgmt.power.stages = true → s.dev.sys.mgmt.power.mgmtRail = false →
      ∃ t, exec (.managementRailUp slot boot) s = .next t ∧ t.pending = s.pending ∧ t.dev.mem = s.dev.mem
        ∧ t.dev.sys.mgmt.power = { s.dev.sys.mgmt.power with
            slotId := slot % 64, bootMode := boot % 4, mgmtRail := true, rampLimit := false }
        ∧ t.dev.sys.mgmt.sec.challenge.length = 32 ∧ t.dev.sys.core = s.dev.sys.core ∧ t.dev.sys.fab = s.dev.sys.fab
        ∧ t.dev.sys.host = s.dev.sys.host ∧ t.dev.sys.mgmt.dict = s.dev.sys.mgmt.dict)
    ∧ (s.dev.sys.mgmt.power.mgmtRail = true → s.dev.sys.mgmt.power.rails = false → s.dev.sys.mgmt.power.resetLow = false →
      ∃ t, exec .alwaysOnRailsUp s = .next t ∧ t.pending = s.pending ∧ t.dev.mem = Mem.reset ∧ t.dev.sys.mgmt.power.rails = true
        ∧ t.dev.sys.mgmt.power.pgood = true ∧ t.dev.sys.mgmt.bring.phase = 1 ∧ t.dev.sys.mgmt.bring.status = 0
        ∧ t.dev.sys.mgmt.bring.nBringUps = (s.dev.sys.mgmt.bring.nBringUps + 1) % 2 ^ 32
        ∧ t.dev.sys.fab.incarnation ≠ 0 ∧ t.dev.sys.fab.incarnation ≠ s.dev.sys.fab.incarnation)
    ∧ (s.dev.sys.mgmt.power.mgmtRail = true → s.dev.sys.mgmt.power.rails = false → s.dev.sys.mgmt.power.resetLow = true →
      exec .alwaysOnRailsUp s = .next { s with dev.sys.mgmt.power.rails := true })

/-- R59, R66, R71, R79: a low level of 10 µs or more is a device reset that returns PGOOD to rest and leaves THERMTRIP_N as it was; one
below 1 µs does nothing but draw a free value, and one between the two does the one or the other; the rising edge samples the straps
again and, with the rails up, restarts bring-up. RESET_N_LOW, RESET_N_RISE. -/
def Claims.ResetPinRestarts : Prop :=
  ∀ (s : State) (ns slot boot : Nat),
    (10000 ≤ ns → s.dev.sys.mgmt.power.resetLow = false →
      ∃ t, exec (.resetNLow ns) s = .next t ∧ t.pending = s.pending
        ∧ t.dev.sys.mgmt.power.resetLow = true ∧ t.dev.sys.mgmt.power.pgood = false
        ∧ t.dev.sys.mgmt.power.pgoodPin = .highZ ∧ t.dev.sys.mgmt.power.thermtripPin = s.dev.sys.mgmt.power.thermtripPin
        ∧ (s.dev.sys.mgmt.power.mgmtRail = true → t.dev.mem = Mem.reset
            ∧ t.dev.sys.mgmt.bring.phase = 0 ∧ t.dev.sys.core = CoreState.reset ∧ t.dev.sys.host = HostState.reset)
        ∧ (s.dev.sys.mgmt.power.mgmtRail = false → t.dev.mem = s.dev.mem ∧ t.dev.sys.core = s.dev.sys.core
            ∧ t.dev.sys.host = s.dev.sys.host ∧ t.dev.sys.fab = s.dev.sys.fab))
    ∧ (ns < 10000 → ∃ t, exec (.resetNLow ns) s = .next t
        ∧ (t = { s with dev.sys.freeCtr := s.dev.sys.freeCtr + 1 } ∨ (1000 ≤ ns ∧ t.dev.sys.mgmt.power.resetLow = true)))
    ∧ (s.dev.sys.mgmt.power.resetLow = true →
      ∃ t, exec (.resetNRise slot boot) s = .next t ∧ t.pending = s.pending ∧ t.dev.sys.mgmt.power.resetLow = false
        ∧ (s.dev.sys.mgmt.power.mgmtRail = true → t.dev.sys.mgmt.power.slotId = slot % 64
            ∧ t.dev.sys.mgmt.power.bootMode = boot % 4
            ∧ (s.dev.sys.mgmt.power.rails = true → t.dev.sys.mgmt.power.pgood = true ∧ t.dev.sys.mgmt.bring.phase = 1)))

/-- R73, R93: a valid reference clock ends the wait of CLOCK_START; while none is valid REFCLK_LATE is recorded once in a
bring-up. REFCLK_VALID, REFCLK_LATE. -/
def Claims.ReferenceClockWait : Prop :=
  ∀ (s : State),
    exec .refclkValid s = .next { s with
        dev.sys.mgmt.power.refclk := true
        dev.sys.mgmt.bring.status :=
          if s.dev.sys.mgmt.bring.phase = 2 ∧ s.dev.sys.mgmt.bring.status = 2 then 0 else s.dev.sys.mgmt.bring.status }
    ∧ (s.dev.sys.mgmtUp = true → s.dev.sys.mgmt.power.pgood = true → s.dev.sys.mgmt.power.refclk = false →
        (∀ x ∈ s.dev.sys.mgmt.bring.discs, x.kind ≠ 4) →
        ∃ t, exec .refclkLate s = .next t ∧ t.pending = s.pending ∧ t.dev.mem = s.dev.mem
          ∧ t.dev.sys.mgmt.bring.phase = s.dev.sys.mgmt.bring.phase ∧ t.dev.sys.mgmt.power = s.dev.sys.mgmt.power
          ∧ t.dev.sys.mgmt.bring.discCount = min (s.dev.sys.mgmt.bring.discCount + 1) 65535
          ∧ (s.dev.sys.mgmt.bring.discs.length < 256 → t.dev.sys.mgmt.bring.discs
              = s.dev.sys.mgmt.bring.discs ++ [⟨s.dev.sys.mgmt.bring.phase, 4, 0, 0, s.dev.sys.mgmt.cycles⟩]
            ∧ exec .refclkLate t = .next t))

/-- R52, R53 and R57: a sample (in mW, the model's unit: log entry 117) above the cap lowers the cap step down to 8 and, at 8, is
counted; a sensor at 100 °C lowers the
thermal step down to 8; no sample touches memory, the cores or the fabric. POWER_SAMPLE. -/
def Claims.PowerSampleLowersSteps : Prop :=
  ∀ (s : State) (r : PowerReading),
    s.dev.sys.loopsRun = true → s.dev.sys.mgmt.power.windowDue = false → r.temps.length = 15 →
    ∃ t, exec (.powerSample r) s = .next t ∧ t.pending = s.pending ∧ t.dev.mem = s.dev.mem
      ∧ t.dev.sys.core = s.dev.sys.core ∧ t.dev.sys.fab = s.dev.sys.fab
      ∧ t.dev.sys.mgmt.power.capStep
        = (if r.milliwatts > 1000 * s.dev.sys.cfgN 0x2010 1 ∧ s.dev.sys.mgmt.power.capStep > 8 then s.dev.sys.mgmt.power.capStep - 1
           else s.dev.sys.mgmt.power.capStep)
      ∧ t.dev.sys.mgmt.power.nCapUnmet
        = (if r.milliwatts > 1000 * s.dev.sys.cfgN 0x2010 1 ∧ s.dev.sys.mgmt.power.capStep ≤ 8 then
             min (s.dev.sys.mgmt.power.nCapUnmet + 1) (2 ^ 64 - 1)
           else s.dev.sys.mgmt.power.nCapUnmet)
      ∧ t.dev.sys.mgmt.power.thermStep
        = (if r.temps.any (fun c => f32At c 100) = true ∧ s.dev.sys.mgmt.power.thermStep > 8 then
             s.dev.sys.mgmt.power.thermStep - 1
           else s.dev.sys.mgmt.power.thermStep)
      ∧ t.dev.sys.mgmt.power.cool = (s.dev.sys.mgmt.power.cool && r.temps.all (fun c => f32Below c 97))
      ∧ t.dev.sys.mgmt.power.total = s.dev.sys.mgmt.power.total + r.milliwatts
      ∧ t.dev.sys.mgmt.power.windowDue = decide ((s.dev.sys.mgmt.power.samples + 1) * 4000 ≥ s.dev.sys.cfgN 0x2010 2)
      ∧ t.dev.sys.mgmt.power.samples = s.dev.sys.mgmt.power.samples + 1 ∧ t.dev.sys.mgmt.power.mv = r.mv
      ∧ t.dev.sys.mgmt.power.ma = r.ma ∧ t.dev.sys.mgmt.power.temps = r.temps

/-- R52, R57 and R58: at the end of a raise window the cap step rises by one when the mean power is at most 0.97 of the cap, the
thermal step when every sample read below 97 °C, both up to 32; a window with the thermal step below 32 is counted, and the
next window starts empty. RAISE_WINDOW_END. -/
def Claims.RaiseWindowRaisesSteps : Prop :=
  ∀ (s : State),
    s.dev.sys.loopsRun = true → s.dev.sys.mgmt.power.windowDue = true → s.dev.sys.mgmt.power.samples ≠ 0 →
    ∃ t, exec .raiseWindowEnd s = .next t ∧ t.pending = s.pending ∧ t.dev.mem = s.dev.mem
      ∧ t.dev.sys.mgmt.power.capStep
        = (if s.dev.sys.mgmt.power.total ≤ 970 * s.dev.sys.cfgN 0x2010 1 * s.dev.sys.mgmt.power.samples
              ∧ s.dev.sys.mgmt.power.capStep < 32 then s.dev.sys.mgmt.power.capStep + 1
           else s.dev.sys.mgmt.power.capStep)
      ∧ t.dev.sys.mgmt.power.thermStep
        = (if s.dev.sys.mgmt.power.cool = true ∧ s.dev.sys.mgmt.power.thermStep < 32 then s.dev.sys.mgmt.power.thermStep + 1
           else s.dev.sys.mgmt.power.thermStep)
      ∧ t.dev.sys.mgmt.power.nThermal
        = (if s.dev.sys.mgmt.power.thermStep < 32 then min (s.dev.sys.mgmt.power.nThermal + 1) (2 ^ 64 - 1)
           else s.dev.sys.mgmt.power.nThermal)
      ∧ t.dev.sys.mgmt.power.avgMw = s.dev.sys.mgmt.power.total / s.dev.sys.mgmt.power.samples
      ∧ t.dev.sys.mgmt.power.peakMw = s.dev.sys.mgmt.power.peakNow ∧ t.dev.sys.mgmt.power.windowDue = false
      ∧ t.dev.sys.mgmt.power.total = 0 ∧ t.dev.sys.mgmt.power.samples = 0 ∧ t.dev.sys.mgmt.power.cool = true

/-- R59, R62, R63 and R700: a sensor at 115 °C pulls THERMTRIP_N low and only that; a line of a lit engine falling below its
minimum is marked down, counts one loss and ends the hold; a line at its level is marked up; after the hold the engine's light is usable.
THERMAL_TRIP, LASER_LINE_LOSS, LASER_LINE_RESTORED, LASER_HOLD_EXPIRY. -/
def Obligations.TripAndLaserLevels : Prop :=
  ∀ (s : State) (sensor e line uw : Nat) (c : F32), s.dev.sys.mgmt.power.mgmtRail = true →
    (sensor < 15 → f32At c 115 = true →
      exec (.thermalTrip sensor c) s = .next { s with dev.sys.mgmt.power.thermtripLow := true })
    ∧ (e < 6 → line < engineLines e → uw < laserMin →
        s.dev.sys.mgmt.power.laserHeld.length = 6 → s.dev.sys.mgmt.power.laserLoss.length = 6 →
        s.dev.sys.mgmt.power.lineUp.length = 6 →
      ∃ t, exec (.laserLineLoss e line uw) s = .next t ∧ t.pending = s.pending ∧ t.dev.mem = s.dev.mem
        ∧ bit (nth t.dev.sys.mgmt.power.lineUp e) line = false ∧ t.dev.sys.core = s.dev.sys.core
        ∧ nth t.dev.sys.mgmt.power.laserLoss e = (if s.dev.sys.mgmt.power.lit e = true then
            (nth s.dev.sys.mgmt.power.laserLoss e + 1) % 2 ^ 32 else nth s.dev.sys.mgmt.power.laserLoss e)
        ∧ (s.dev.sys.mgmt.power.lit e = true → t.dev.sys.mgmt.power.laserHeld.getD e true = false))
    ∧ (e < 6 → line < engineLines e → laserMin ≤ uw → s.dev.sys.mgmt.power.lineUp.length = 6 →
      ∃ t, exec (.laserLineRestored e line uw) s = .next t ∧ t.pending = s.pending ∧ t.dev.mem = s.dev.mem
        ∧ bit (nth t.dev.sys.mgmt.power.lineUp e) line = true ∧ t.dev.sys.fab = s.dev.sys.fab
        ∧ t.dev.sys.core = s.dev.sys.core ∧ t.dev.sys.host = s.dev.sys.host)
    ∧ (e < 6 → s.dev.sys.mgmt.power.lit e = true → s.dev.sys.mgmt.power.laserHeld.length = 6 →
      ∃ t, exec (.laserHoldExpiry e) s = .next t ∧ t.pending = s.pending ∧ t.dev.mem = s.dev.mem
        ∧ t.dev.sys.mgmt.power.laserHeld.getD e false = true ∧ t.dev.sys.core = s.dev.sys.core)


/-! ## Bring-up (FW_VERIFY_DONE to CORE_ASSIGN_COMMIT, STACK_TRAIN_STEP_FAILED) -/

/-- R73, R83, R84, R85, R90 and R661: FW_VERIFY tries the active image, or in the golden boot mode the other, and then the one left.
With a sound image, a sound device identity and a sound manufacturing record it ends in CLOCK_START, in progress when REFCLK is
valid and waiting when it is not; with both images failing, or with the record or identity failing, bring-up stops in FAILED. (What
measurement entries a failing FW_VERIFY leaves is the model's choice.) FW_VERIFY_DONE. -/
def Claims.FirmwareVerifyEnds : Prop :=
  ∀ (s : State) (r : FwReading), s.dev.sys.inPhase 1 = true →
    let sec := s.dev.sys.mgmt.sec
    let has := s.dev.sys.mgmt.dict.store.any (fun v => v.1 == 0xB022 * 256 + 1)
    let floor := if has && r.floorTagOk then max sec.mfgFloor (leNat (s.dev.sys.stored 0xB022 1)) else sec.mfgFloor
    let good (k : Nat) : Prop := (s.dev.sys.image k).failStep floor = 0
    let active := leNat (s.dev.sys.stored 0xB020 1) % 2
    let first := if s.dev.sys.mgmt.power.bootMode = 2 then 1 - active else active
    ∃ t, exec (.fwVerifyDone r) s = .next t ∧ t.pending = s.pending ∧ t.dev.mem = s.dev.mem
      ∧ t.dev.sys.core = s.dev.sys.core ∧ t.dev.sys.host = s.dev.sys.host ∧ t.dev.sys.fab = s.dev.sys.fab
      ∧ t.dev.sys.mgmt.power = s.dev.sys.mgmt.power
      ∧ ((good first ∨ good (1 - first)) ∧ r.puf = 0 ∧ r.recordFault = 0 →
          t.dev.sys.mgmt.bring.phase = 2 ∧ t.dev.sys.mgmt.bring.status = (if s.dev.sys.mgmt.power.refclk then 0 else 2)
            ∧ (good first → t.dev.sys.mgmt.bring.runningImage = first)
            ∧ (¬good first → t.dev.sys.mgmt.bring.runningImage = 1 - first)
            ∧ t.dev.sys.mgmt.sec.measures.length = sec.measures.length + 4)
      ∧ (¬good first ∧ ¬good (1 - first) → t.dev.sys.mgmt.bring.runningImage = 255)
      ∧ (¬good first ∧ ¬good (1 - first) ∨ r.puf ≠ 0 ∨ r.recordFault ≠ 0 →
          t.dev.sys.mgmt.bring.phase = 0xFE ∧ t.dev.sys.mgmt.bring.status = 3)

/-- R77, R93, R94 and R114: CLOCK_START ends in HOLD in the hold boot modes (its status there is the model's choice), else in
STACK_TRAIN, or beyond it where no stack is left to train; a
slice that fails its self test leaves its stack untrained, and any other failing uncore unit stops bring-up in FAILED.
CLOCK_START_DONE. -/
def Claims.ClockStartEnds : Prop :=
  ∀ (s : State) (r : UncoreReading), s.dev.sys.inPhase 2 = true → s.dev.sys.mgmt.power.refclk = true →
    s.dev.sys.mgmt.bring.stackDone.length = 8 → s.dev.sys.mgmt.bring.stackReason.length = 8 →
    let bad (st : Nat) : Prop := bit r.sliceFail st = true ∨ nth s.dev.sys.mgmt.bring.stackReason st = 5
    ∃ t, exec (.clockStartDone r) s = .next t ∧ t.pending = s.pending ∧ t.dev.mem = s.dev.mem
      ∧ t.dev.sys.core = s.dev.sys.core ∧ t.dev.sys.mgmt.power = s.dev.sys.mgmt.power
      ∧ (∀ st < 8, bit r.sliceFail st = true → nth t.dev.sys.mgmt.bring.stackReason st = 5)
      ∧ (r.uncoreUnit ≠ 0 → t.dev.sys.mgmt.bring.phase = 0xFE ∧ t.dev.sys.mgmt.bring.status = 3)
      ∧ (r.uncoreUnit = 0 → t.dev.sys.mgmt.sec.measures.length = s.dev.sys.mgmt.sec.measures.length + 3)
      ∧ (r.uncoreUnit = 0 → s.dev.sys.mgmt.power.bootMode % 2 = 1 →
          t.dev.sys.mgmt.bring.phase = 0x0F ∧ t.dev.sys.mgmt.bring.status = 2)
      ∧ (r.uncoreUnit = 0 → s.dev.sys.mgmt.power.bootMode % 2 = 0 →
          (∀ st < 8, t.dev.sys.mgmt.bring.stackDone.getD st false = true
            ↔ bad st ∨ s.dev.sys.mgmt.bring.stackDone.getD st false = true)
          ∧ ((∃ st < 8, ¬bad st ∧ s.dev.sys.mgmt.bring.stackDone.getD st false = false) →
              t.dev.sys.mgmt.bring.phase = 3 ∧ t.dev.sys.mgmt.bring.status = 0)
          ∧ ((∀ st < 8, bad st ∨ s.dev.sys.mgmt.bring.stackDone.getD st false = true) → 4 ≤ t.dev.sys.mgmt.bring.phase))

/-- R95, R96 and R97: a stack that completes its training reads zero everywhere; one that fails a step, or has not finished when
the timeout comes, is recorded untrained with its reason. While another stack is still to come STACK_TRAIN goes on, and with the
last one it ends. STACK_TRAINED, STACK_TRAIN_STEP_FAILED, STACK_TRAIN_TIMEOUT. -/
def Claims.StackTrainingOutcomes : Prop :=
  ∀ (s : State), s.dev.sys.inPhase 3 = true → s.dev.sys.mgmt.bring.stackDone.length = 8 →
    s.dev.sys.mgmt.bring.stackReason.length = 8 → s.dev.mem.dram.length = 8 → s.dev.mem.slices.length = 8 →
    let opens (j : Nat) : Prop := s.dev.sys.mgmt.bring.stackDone.getD j true = false
    (∀ st < 8, opens st →
      (∀ rows, ∃ t, exec (.stackTrained st rows) s = .next t ∧ t.pending = s.pending ∧ (t.dev.mem.stack st).trained = true
        ∧ (∀ L, cellGet (t.dev.mem.stack st).cells L = 0) ∧ (t.dev.mem.stack st).poisoned = []
        ∧ (t.dev.mem.slice st).lines = [] ∧ (∀ j, j ≠ st → t.dev.mem.stack j = s.dev.mem.stack j)
        ∧ t.dev.sys.mgmt.bring.stackDone.getD st false = true ∧ t.dev.sys.core = s.dev.sys.core
        ∧ ((∃ j < 8, j ≠ st ∧ opens j) → t.dev.sys.mgmt.bring.phase = 3)
        ∧ ((∀ j < 8, opens j → j = st) → 4 ≤ t.dev.sys.mgmt.bring.phase))
      ∧ (∀ reason, [1, 2, 3, 4, 6].contains reason = true →
        ∃ t, exec (.stackTrainStepFailed st reason) s = .next t ∧ t.pending = s.pending ∧ t.dev.mem = s.dev.mem
          ∧ nth t.dev.sys.mgmt.bring.stackReason st = reason ∧ t.dev.sys.mgmt.bring.stackDone.getD st false = true
          ∧ t.dev.sys.core = s.dev.sys.core
          ∧ ((∃ j < 8, j ≠ st ∧ opens j) → t.dev.sys.mgmt.bring.phase = 3)
          ∧ ((∀ j < 8, opens j → j = st) → 4 ≤ t.dev.sys.mgmt.bring.phase)))
    ∧ ∃ t, exec .stackTrainTimeout s = .next t ∧ t.pending = s.pending ∧ t.dev.mem = s.dev.mem
        ∧ t.dev.sys.core = s.dev.sys.core ∧ 4 ≤ t.dev.sys.mgmt.bring.phase
        ∧ ∀ st < 8, t.dev.sys.mgmt.bring.stackDone.getD st false = true
            ∧ (opens st → nth t.dev.sys.mgmt.bring.stackReason st = 7)
            ∧ (¬opens st → nth t.dev.sys.mgmt.bring.stackReason st = nth s.dev.sys.mgmt.bring.stackReason st)

/-- R98 and R100: the deadline ends LINK_TRAIN in CORE_TEST with the trained ports reported. LINK_TRAIN_DEADLINE. -/
def Claims.LinkTrainDeadlineEnds : Prop :=
  ∀ (s : State), s.dev.sys.inPhase 4 = true →
    ∃ t, exec .linkTrainDeadline s = .next t ∧ t.pending = s.pending ∧ t.dev.mem = s.dev.mem
      ∧ t.dev.sys.mgmt.bring.phase = 5 ∧ t.dev.sys.mgmt.bring.status = 0 ∧ t.dev.sys.core = s.dev.sys.core
      ∧ t.dev.sys.host = s.dev.sys.host ∧ t.dev.sys.fab = s.dev.sys.fab
      ∧ (∀ i < 16, bit t.dev.sys.mgmt.bring.portsTrained i = s.dev.sys.portTrained i)

/-- R103: a row's self test records every listed site's result, 0 for a site the manufacturing record does not list as good, and
the row after it is next, CORE_POWER after the last; R111: a power wave powers the sites of its row that hold a number, and CORE_ASSIGN follows the last.
CORE_TEST_ROW, POWER_WAVE. -/
def Claims.RowsTestedAndPowered : Prop :=
  ∀ (s : State) (row : Nat) (l : List SiteReading), row < 16 →
    (s.dev.sys.inPhase 5 = true → s.dev.sys.mgmt.bring.rowsTested = row → l.length = 10 →
        (∀ x ∈ l, 1 ≤ x.result ∧ x.result ≤ 5) → s.dev.sys.mgmt.bring.results.length = 160 →
      ∃ t, exec (.coreTestRow row l) s = .next t ∧ t.pending = s.pending ∧ t.dev.mem = s.dev.mem
        ∧ t.dev.sys.core = s.dev.sys.core ∧ t.dev.sys.host = s.dev.sys.host ∧ t.dev.sys.fab = s.dev.sys.fab
        ∧ (∀ c < 10, nth t.dev.sys.mgmt.bring.results (10 * row + c)
            = if s.dev.sys.mgmt.bring.good.getD (10 * row + c) false then (l.getD c ⟨0, 0⟩).result else 0)
        ∧ (∀ i, (i < 10 * row ∨ 10 * row + 10 ≤ i) → nth t.dev.sys.mgmt.bring.results i = nth s.dev.sys.mgmt.bring.results i)
        ∧ t.dev.sys.mgmt.bring.rowsTested = row + 1 ∧ t.dev.sys.mgmt.bring.phase = (if row = 15 then 6 else 5))
    ∧ (s.dev.sys.inPhase 6 = true → s.dev.sys.mgmt.bring.wavesDone = row →
      ∃ t, exec (.powerWave row) s = .next t ∧ t.pending = s.pending ∧ t.dev.mem = s.dev.mem
        ∧ t.dev.sys.core = s.dev.sys.core ∧ t.dev.sys.host = s.dev.sys.host ∧ t.dev.sys.fab = s.dev.sys.fab
        ∧ t.dev.sys.mgmt.bring.powered
          = s.dev.sys.mgmt.bring.powered ++ s.dev.sys.mgmt.bring.coreMap.filter (fun x => decide (x / 10 = row ∧ x < 160))
        ∧ t.dev.sys.mgmt.bring.wavesDone = row + 1
        ∧ t.dev.sys.mgmt.bring.phase = (if row = 15 then 7 else 6))

/-- R107, R108 and R120: the assignment record is committed before READY, which starts the core cycle count and the counts since READY
at 0 with no failed core; a reset that this bring-up used is cleared, and one written since it started stays. CORE_ASSIGN_COMMIT. -/
def Claims.AssignmentCommitted : Prop :=
  ∀ (s : State), s.dev.sys.inPhase 7 = true →
    ∃ t, exec .coreAssignCommit s = .next t ∧ t.pending = s.pending ∧ s.dev.mem.KeepsBytes t.dev.mem
      ∧ t.dev.mem.slices = s.dev.mem.slices ∧ t.dev.sys.mgmt.bring.assignment = some s.dev.sys.mgmt.bring.coreMap
      ∧ t.dev.sys.mgmt.bring.phase = 8 ∧ t.dev.sys.mgmt.bring.status = 1 ∧ t.dev.sys.core.cycles = 0
      ∧ t.dev.sys.core = { s.dev.sys.core with cycles := 0, failed := [] }
      ∧ t.dev.sys.host = { s.dev.sys.host with eth := t.dev.sys.host.eth }
      ∧ t.dev.sys.fab = { s.dev.sys.fab with ports := t.dev.sys.fab.ports, helloCounts := t.dev.sys.fab.helloCounts }
      ∧ (∀ p ∈ t.dev.sys.fab.ports, p.entriesUp = 0 ∧ p.entriesDown = 0) ∧ t.dev.sys.mgmt.rel.masked = rep0 30
      ∧ t.dev.sys.mgmt.power = s.dev.sys.mgmt.power
      ∧ (s.dev.sys.mgmt.bring.resetWritten = false → ∀ x ∈ t.dev.sys.mgmt.dict.store, x.1 ≠ 0x2110 * 256 + 2)
      ∧ (s.dev.sys.mgmt.bring.resetWritten = true → t.dev.sys.mgmt.dict.store = s.dev.sys.mgmt.dict.store)

/-! ## Sessions, reads and writes (ODP_DATAGRAM_DISCARD to ROLE_KEY_WRITE) -/

/-- R128 and R162: while a request executes, a datagram that follows is held in its place in the order of arrival, or discarded and
counted with 64 held before it; R149 to R152: one for another address or port, or on an interface that does not serve ODP, is no request. OPEN,
PROVE, CLOSE, READ, READ_BLOCK, WRITE. -/
def Claims.DatagramsWaitTheirTurn : Prop :=
  ∀ (s : State) (g : Datagram) (c : Instr),
    (match g with
      | .openReq o => c = .odpOpen o
      | .prove p => c = .odpProve p
      | .close r => c = .odpClose r
      | .read r => c = .odpRead r
      | .readBlock r => c = .odpReadBlock r
      | .write _ _ _ => False) →
    let takes := s.dev.sys.odpTakes g.to.1 g.to.2.1 g.to.2.2
    (takes = false → exec c s = .next s)
    ∧ (∀ j, takes = true → s.dev.sys.mgmt.dict.jpending = some j → j.repeats g = false →
        (s.dev.sys.mgmt.dict.held.length < 64 → exec c s = .next { s with
          dev.sys.mgmt.dict.held := s.dev.sys.mgmt.dict.held ++ [g] })
        ∧ (64 ≤ s.dev.sys.mgmt.dict.held.length → exec c s = .next { s with
          dev.sys.mgmt.dict.discarded := min (s.dev.sys.mgmt.dict.discarded + 1) (2 ^ 64 - 1) }))

/-- R153, R155, R160: a datagram no session owns is discarded and counted and nothing else changes; an OPEN with every slot in use
is answered with 0x00010005; one with a free slot takes it with a challenge whose session ID is not 0, and one that claims a device
without role keys on T1S places its key in slot 0 too. What Yarys draws, the session ID and the nonce, is a free value.
ODP_DATAGRAM_DISCARD, OPEN. -/
def Claims.OpenTakesASlot : Prop :=
  ∀ (s : State) (iface : Nat) (o : OpenReq),
    let noKeys := ∀ i < 16, s.dev.sys.roleKey i = []
    let refused (a : Nat) : Prop := exec (.odpOpen o) s = .next { s with
        dev.sys.mgmt.dict.tx := [⟨o.iface, 7450, o.src, o.sport, odpFrame 1 0 0 0 (natLe 4 a)⟩] }
    (s.dev.sys.mgmtUp = true → iface < 3 →
      exec (.odpDatagramDiscard iface) s = .next { s with
        dev.sys.mgmt.dict.discarded := min (s.dev.sys.mgmt.dict.discarded + 1) (2 ^ 64 - 1) })
    ∧ (s.dev.Turn o.iface o.dst o.dport →
      (openLengths o = false → refused 0x00010003)
      ∧ (openLengths o = true → (∀ k < 16, (s.dev.sys.session k).phase ≠ 0) → refused 0x00010005)
      ∧ (openLengths o = true → s.dev.sys.mgmt.dict.sessions.length = 16 →
          ∀ k < 16, (s.dev.sys.session k).phase = 0 → (∀ j < k, (s.dev.sys.session j).phase ≠ 0) →
          (o.keySlot = 255 → ¬(o.iface = 2 ∧ noKeys) → refused 0x00070001)
          ∧ (o.keySlot ≠ 255 ∨ (o.iface = 2 ∧ noKeys) →
            ∃ t, exec (.odpOpen o) s = .next t ∧ s.Untouched t ∧ t.dev.mem = s.dev.mem ∧ t.dev.sys.host = s.dev.sys.host
              ∧ t.dev.sys.fab = s.dev.sys.fab ∧ (t.dev.sys.session k).phase = 1 ∧ (t.dev.sys.session k).sid ≠ 0
              ∧ (t.dev.sys.session k).sid < 2 ^ 32 ∧ (t.dev.sys.session k).role = o.role
              ∧ (t.dev.sys.session k).iface = o.iface ∧ (t.dev.sys.session k).src = o.src ∧ (t.dev.sys.session k).sport = o.sport
              ∧ (t.dev.sys.session k).unlocked = false ∧ (∀ j, j ≠ k → t.dev.sys.session j = s.dev.sys.session j)
              ∧ (o.keySlot ≠ 255 → (t.dev.sys.session k).keySlot = o.keySlot
                  ∧ t.dev.sys.mgmt.dict.values = s.dev.sys.mgmt.dict.values)
              ∧ (o.keySlot = 255 → (t.dev.sys.session k).keySlot = 0 ∧ t.dev.sys.roleKey 0 = natLe 1 2 ++ o.claimKey))))

/-- R156 and R157: a PROVE with its tag opens the challenged session exactly when the named slot holds a key of a role at or above the
one asked for that verifies the client's signature, and frees the slot otherwise. PROVE. -/
def Claims.ProveOpensOrFrees : Prop :=
  ∀ (s : State) (p : ProveReq) (k : Nat), s.dev.Turn p.iface p.dst p.dport →
    s.dev.sys.sessionOf 1 p.iface p.sid p.src p.sport = some k → p.seq = 1 → p.tag = proveTag (s.dev.sys.session k).key p →
    s.dev.sys.mgmt.dict.sessions.length = 16 →
    let x := s.dev.sys.session k
    let key := s.dev.sys.roleKey x.keySlot
    let ok := key ≠ [] ∧ 1 ≤ x.role ∧ x.role ≤ field key 0 1
      ∧ Config.ed448Verify (key.drop 1) (txOdpCli ++ x.transcript) p.sig = true
    ∃ t, exec (.odpProve p) s = .next t ∧ s.Untouched t ∧ t.dev.mem = s.dev.mem ∧ t.dev.sys.host = s.dev.sys.host
      ∧ t.dev.sys.fab = s.dev.sys.fab ∧ (∀ j, j ≠ k → t.dev.sys.session j = s.dev.sys.session j)
      ∧ (ok → (t.dev.sys.session k).phase = 2 ∧ (t.dev.sys.session k).role = x.role ∧ (t.dev.sys.session k).lastSeq = 1
          ∧ t.dev.sys.mgmt.dict.tx = [x.frame (odpFrame 3 x.sid 1 0 (natLe 4 0 ++ s.dev.sys.cfg 0xF000 5))])
      ∧ (¬ok → t.dev.sys.session k = Session.free
          ∧ t.dev.sys.mgmt.dict.tx = [⟨p.iface, 7450, p.src, p.sport, odpFrame 3 p.sid 1 0 (natLe 4 0x00010006)⟩])

/-- R142 and R159: a session that its client closes, or whose idle timeout passes with none of its requests executing, ends: its slot
is free and every pending set it owned is discarded with last result 4, while other sets stay. CLOSE, SESSION_IDLE_TIMEOUT. -/
def Claims.SessionEndDiscardsSets : Prop :=
  ∀ (s : State) (r : OdpReq) (k : Nat), s.dev.sys.mgmt.dict.sessions.length = 16 → k < 16 →
    let ends (c : Instr) (P : State → Prop) : Prop := ∃ t, exec c s = .next t ∧ s.Untouched t ∧ t.dev.mem = s.dev.mem
        ∧ t.dev.sys.fab = s.dev.sys.fab ∧ t.dev.sys.host = s.dev.sys.host
        ∧ t.dev.sys.session k = Session.free ∧ (∀ j, j ≠ k → t.dev.sys.session j = s.dev.sys.session j)
        ∧ t.dev.sys.mgmt.dict.pending
          = s.dev.sys.mgmt.dict.pending.map (fun g => if g.2.owner = some k then (g.1, ⟨none, [], 4⟩) else g)
        ∧ t.dev.sys.mgmt.dict.values = s.dev.sys.mgmt.dict.values ∧ P t
    (s.dev.Takes r k 5 → ends (.odpClose r) (fun t => t.dev.sys.mgmt.dict.tx
        = [(s.dev.sys.session k).frame (odpFrame 5 (s.dev.sys.session k).sid r.seq 0 (natLe 4 0))]))
    ∧ (s.dev.sys.mgmtUp = true → (s.dev.sys.session k).phase ≠ 0 → (∀ j, s.dev.sys.mgmt.dict.jpending = some j → j.slot ≠ k) →
      ends (.sessionIdleTimeout k) (fun t => t.dev.sys.mgmt.dict.tx = s.dev.sys.mgmt.dict.tx))

/-- R129, R130 and R154: a READ that passes the checks of Table 4-4 is answered with type and value and changes no object; a
READ_BLOCK from offset 0 takes a snapshot, and sends up to 1,024 bytes of it from its offset, with the last-segment flag where they
end it. READ, READ_BLOCK. -/
def Claims.ReadsAnswerTheValue : Prop :=
  ∀ (s : State) (r : OdpReq) (k : Nat), s.dev.heard.sys.readAbort r.index r.sub = none →
    let x := s.dev.sys.session k
    let v := s.dev.heard.readObject k r.index r.sub
    let off := (r.block.getD (0, 0)).1
    let snap := if off = 0 then v else x.snap
    let seg := (snap.drop off).take 1024
    let last := decide (snap.length ≤ off + seg.length)
    let answers (c : Instr) (f : List Byte) (P : State → Prop) : Prop := ∃ t, exec c s = .next t ∧ s.Untouched t ∧ t.dev.mem = s.dev.mem
        ∧ t.dev.sys.host = s.dev.sys.host ∧ t.dev.sys.fab = s.dev.sys.fab ∧ t.dev.sys.mgmt.rel = s.dev.sys.mgmt.rel
        ∧ t.dev.sys.mgmt.sec = s.dev.sys.mgmt.sec ∧ t.dev.sys.mgmt.dict.values = s.dev.sys.mgmt.dict.values
        ∧ t.dev.sys.mgmt.dict.tx = [x.frame f] ∧ P t
    (s.dev.Takes r k 0x10 → v.length ≤ 1032 →
      answers (.odpRead r) (odpFrame 0x10 x.sid r.seq 0 (natLe 4 0 ++ natLe 1 (objType r.index r.sub) ++ zeros 3 ++ v)) (fun _ => True))
    ∧ (s.dev.Takes r k 0x12 → objType r.index r.sub = 10 → s.dev.sys.mgmt.dict.sessions.length = 16 →
        (off = 0 ∨ (x.snapKey = blockKey r.index r.sub ∧ off ≤ x.snap.length)) →
      answers (.odpReadBlock r) (odpFrame 0x12 x.sid r.seq (if last then 1 else 0) (natLe 4 0 ++ natLe 4 snap.length ++ seg))
        (fun t => (t.dev.sys.session k).snap = if last then [] else snap))

/-- R127: a write that a check rejects is answered with the code of the first check that fails and changes no object: not its
value, not the journal's store, no core context, fabric table or security object. Every row of WRITE but an unlock token, whose
rejection draws a new challenge (R672). -/
def Claims.RejectedWriteChangesNoObject : Prop :=
  ∀ (s : State) (w : WriteRow) (r : OdpReq) (a : AgeingReading) (e : Bool) (c : Instr) (k code sub : Nat),
    s.dev.Takes r k 0x11 → r.block = none → s.dev.sys.rowFor r = w → w ≠ .token → readingOk a = true →
    s.dev.heard.writeAbort k r r.data = some (code, sub) → w.Names r a e c →
    ∃ t, exec c s = .next t ∧ s.Untouched t ∧ t.dev.sys.fab = s.dev.sys.fab
      ∧ t.dev.sys.mgmt.sec = s.dev.sys.mgmt.sec ∧ t.dev.sys.mgmt.dict.values = s.dev.sys.mgmt.dict.values
      ∧ t.dev.sys.mgmt.dict.store = s.dev.sys.mgmt.dict.store ∧ t.dev.sys.mgmt.dict.jpending = s.dev.sys.mgmt.dict.jpending
      ∧ t.dev.sys.mgmt.dict.tx = [(s.dev.sys.session k).frame
          (odpFrame 0x11 (s.dev.sys.session k).sid r.seq 0 (abortPayload 0x11 code r.index sub))]

/-- R131 and R145: a write that passes every check is answered with abort code 0 and its object keeps the value, when the object
is not journalled; a journalled one waits for its record with nothing answered yet, and takes effect when the record is valid; R154: a
segment that does not end its DOMAIN write is kept with those before it, and changes no object. WRITE, WRITE_BLOCK,
JOURNAL_RECORD_VALID. -/
def Obligations.AcceptedWriteTakesEffect : Prop :=
  ∀ (s : State) (r : OdpReq) (k : Nat),
    (∀ (v : List Byte) (w : WriteRow) (c : Instr),
      (w = .write ∧ c = .odpWrite r ∨ w = .writeBlock ∧ c = .odpWriteBlock r) → s.dev.Accepts w r k v → rowOf r.index r.sub v = .write →
      (keeps r.index r.sub = true → s.dev.sys.recordOf r v = none →
        ∃ t, exec c s = .next t ∧ s.Untouched t ∧ t.dev.sys.fab = s.dev.sys.fab
          ∧ t.dev.sys.cfg r.index r.sub = v
          ∧ (∀ i sub, i * 256 + sub ≠ r.index * 256 + r.sub → t.dev.sys.cfg i sub = s.dev.sys.cfg i sub)
          ∧ t.dev.sys.mgmt.dict.tx = [s.dev.sys.okFrame k r] ∧ t.dev.sys.mgmt.dict.store = s.dev.sys.mgmt.dict.store)
      ∧ (∀ vs, s.dev.sys.recordOf r v = some vs →
        ∃ t, exec c s = .next t ∧ s.Untouched t ∧ t.dev.sys.fab = s.dev.sys.fab
          ∧ t.dev.sys.mgmt.dict.jpending = some ⟨{ r with data := v }, k, vs, none⟩
          ∧ t.dev.sys.mgmt.dict.values = s.dev.sys.mgmt.dict.values ∧ t.dev.sys.mgmt.dict.tx = []
          ∧ t.dev.sys.mgmt.dict.store = s.dev.sys.mgmt.dict.store))
    ∧ (∀ off total, s.dev.Takes r k 0x13 → r.block = some (off, total) → s.dev.sys.SegmentFits k r off total →
        off + r.data.length < total → s.dev.sys.phaseAbort r.index true = none →
        ¬(r.index = 0xB021 ∧ s.dev.sys.imageBusy k = true) → s.dev.sys.mgmt.dict.sessions.length = 16 →
      ∃ t, exec (.odpWriteBlock r) s = .next t ∧ s.Untouched t ∧ t.dev.sys.fab = s.dev.sys.fab
        ∧ (t.dev.sys.session k).wrKey = blockKey r.index r.sub ∧ (t.dev.sys.session k).wrTotal = total
        ∧ (t.dev.sys.session k).wrData = (if off = 0 then [] else (s.dev.sys.session k).wrData) ++ r.data
        ∧ t.dev.sys.mgmt.dict.values = s.dev.sys.mgmt.dict.values ∧ t.dev.sys.mgmt.dict.store = s.dev.sys.mgmt.dict.store
        ∧ t.dev.sys.mgmt.dict.tx = [s.dev.sys.okFrame k r])

/-- R145 to R147: a record that becomes valid puts its values into the store, answers the waiting write with abort code 0 and lets
it take effect; with the program or erase failed in both areas the write is rejected with 0x00060002 and the store stays as it was. (The
size of a record is a free value, so a record is said to fit where 4 KiB are left.) JOURNAL_RECORD_VALID. -/
def Claims.JournalRecordEnds : Prop :=
  ∀ (s : State) (j : JPending) (n : Nat), s.dev.sys.mgmtUp = true → s.dev.sys.mgmt.dict.RecordFits →
    s.dev.sys.mgmt.dict.jpending = some j →
    (rowOf j.req.index j.req.sub j.req.data = .write → keeps j.req.index j.req.sub = true → n < 2 →
      ∃ t, exec (.journalRecordValid n) s = .next t ∧ t.pending = s.pending ∧ t.dev.sys.core = s.dev.sys.core
        ∧ t.dev.sys.mgmt.power = s.dev.sys.mgmt.power ∧ t.dev.sys.fab = s.dev.sys.fab
        ∧ (s.dev.mem.Coherent → s.KeepsButPages t) ∧ t.dev.sys.mgmt.dict.jpending = none
        ∧ t.dev.sys.mgmt.dict.store = storeAll s.dev.sys.mgmt.dict.store j.values
        ∧ t.dev.sys.mgmt.dict.journalSeq = (s.dev.sys.mgmt.dict.journalSeq + 1) % 2 ^ 32
        ∧ t.dev.sys.cfg j.req.index j.req.sub = j.req.data ∧ t.dev.sys.mgmt.dict.tx = [s.dev.sys.okFrame j.slot j.req])
    ∧ (rowOf j.req.index j.req.sub j.req.data ≠ .token → 2 ≤ n →
      ∃ t, exec (.journalRecordValid n) s = .next t ∧ s.Untouched t ∧ t.dev.sys.mgmt.dict.jpending = none
        ∧ t.dev.sys.fab = s.dev.sys.fab
        ∧ t.dev.sys.mgmt.dict.store = s.dev.sys.mgmt.dict.store ∧ t.dev.sys.mgmt.dict.values = s.dev.sys.mgmt.dict.values
        ∧ t.dev.sys.mgmt.dict.flashFailures = (s.dev.sys.mgmt.dict.flashFailures + 1) % 2 ^ 32
        ∧ t.dev.sys.mgmt.dict.tx = [(s.dev.sys.session j.slot).frame (odpFrame (reqOp j.req) (s.dev.sys.session j.slot).sid
            j.req.seq 0 (abortPayload (reqOp j.req) 0x00060002 j.req.index j.req.sub))])

/-- R145 and R147: with the active area at its limit of 75 % a compaction makes the other area the active one and keeps every stored
value; a program or erase that fails in both areas leaves the active area and the store in force and is counted. JOURNAL_COMPACTION. -/
def Claims.CompactionKeepsTheStore : Prop :=
  ∀ (s : State) (n : Nat), s.dev.sys.mgmtUp = true → s.dev.sys.mgmt.dict.full = true →
    ∃ t, exec (.journalCompaction n) s = .next t ∧ t.pending = s.pending
      ∧ (n < 2 → s.Untouched t ∧ t.dev.sys.fab = s.dev.sys.fab ∧ t.dev.sys.mgmt.sec = s.dev.sys.mgmt.sec
        ∧ t.dev.sys.mgmt.dict.store = s.dev.sys.mgmt.dict.store ∧ t.dev.sys.mgmt.dict.values = s.dev.sys.mgmt.dict.values
        ∧ t.dev.sys.mgmt.dict.area = 1 - s.dev.sys.mgmt.dict.area ∧ t.dev.sys.mgmt.dict.journalUsed < 2 ^ 20
        ∧ t.dev.sys.mgmt.dict.compactions = (s.dev.sys.mgmt.dict.compactions + 1) % 2 ^ 32
        ∧ t.dev.sys.mgmt.dict.full = false ∧ t.dev.sys.mgmt.dict.jpending = s.dev.sys.mgmt.dict.jpending)
      ∧ (2 ≤ n → s.dev.sys.mgmt.dict.jpending = none →
        s.Untouched t ∧ t.dev.sys.mgmt.dict.store = s.dev.sys.mgmt.dict.store
        ∧ t.dev.sys.mgmt.dict.values = s.dev.sys.mgmt.dict.values ∧ t.dev.sys.mgmt.dict.area = s.dev.sys.mgmt.dict.area
        ∧ t.dev.sys.mgmt.dict.flashFailures = (s.dev.sys.mgmt.dict.flashFailures + 1) % 2 ^ 32)

/-- R135, R136, R141: a member write that passes its checks enters the pending set, whose owner becomes its session, and leaves
every committed value as it is; a discard empties the set and releases it. COUPLED_MEMBER_WRITE, GROUP_DISCARD. -/
def Claims.PendingSetsHoldMembers : Prop :=
  ∀ (s : State) (r : OdpReq) (k : Nat) (v : List Byte),
    (s.dev.Accepts .member r k v →
      ∃ t, exec (.coupledMemberWrite r) s = .next t ∧ s.Untouched t ∧ t.dev.sys.fab = s.dev.sys.fab
        ∧ (t.dev.sys.pending r.index).owner = some k ∧ t.dev.sys.newVal r.index r.sub = v
        ∧ (∀ x, x ≠ r.sub → t.dev.sys.newVal r.index x = s.dev.sys.newVal r.index x)
        ∧ (∀ i, i ≠ r.index → t.dev.sys.pending i = s.dev.sys.pending i)
        ∧ t.dev.sys.mgmt.dict.values = s.dev.sys.mgmt.dict.values ∧ t.dev.sys.mgmt.dict.tx = [s.dev.sys.okFrame k r])
    ∧ (s.dev.Accepts .discard r k v →
      ∃ t, exec (.groupDiscard r) s = .next t ∧ s.Untouched t ∧ t.dev.sys.fab = s.dev.sys.fab
        ∧ t.dev.sys.pending r.index
          = (if (s.dev.sys.pending r.index).values = [] then s.dev.sys.pending r.index else ⟨none, [], 4⟩)
        ∧ (∀ i, i ≠ r.index → t.dev.sys.pending i = s.dev.sys.pending i)
        ∧ t.dev.sys.mgmt.dict.values = s.dev.sys.mgmt.dict.values ∧ t.dev.sys.mgmt.dict.tx = [s.dev.sys.okFrame k r])

/-- R138 to R140 and R145: a commit whose set keeps every rule applies all members of its group together and empties the set, at
once in a group without a P member and when its journal record is valid in one with a P member; one that breaks a rule leaves the
set and every value as they were, with last result 3. GROUP_COMMIT, JOURNAL_RECORD_VALID. -/
def Claims.CommitIsAllOrNothing : Prop :=
  ∀ (s : State) (r : OdpReq) (k : Nat) (v : List Byte),
    (s.dev.Accepts .commit r k v →
      ∃ t, exec (.groupCommit r) s = .next t ∧ t.pending = s.pending
        ∧ (groupPersists r.index = false →
          (∀ x ∈ groupMembers r.index, t.dev.sys.cfg r.index x = s.dev.sys.newVal r.index x)
          ∧ t.dev.sys.pending r.index = ⟨none, [], s.dev.sys.commitResult r.index⟩
          ∧ t.dev.sys.mgmt.dict.tx = [s.dev.sys.okFrame k r])
        ∧ (groupPersists r.index = true → s.Untouched t ∧ t.dev.sys.fab = s.dev.sys.fab
          ∧ t.dev.sys.mgmt.dict.jpending = some ⟨{ r with data := v }, k, s.dev.sys.commitValues r.index, some r.index⟩
          ∧ t.dev.sys.mgmt.dict.pending = s.dev.sys.mgmt.dict.pending
          ∧ t.dev.sys.mgmt.dict.values = s.dev.sys.mgmt.dict.values))
    ∧ (∀ j n, s.dev.sys.mgmtUp = true → s.dev.sys.mgmt.dict.RecordFits → s.dev.sys.mgmt.dict.jpending = some j →
        rowOf j.req.index j.req.sub j.req.data = .commit → n < 2 →
      ∃ t, exec (.journalRecordValid n) s = .next t ∧ t.pending = s.pending
        ∧ (∀ x ∈ groupMembers j.req.index, t.dev.sys.cfg j.req.index x = s.dev.sys.newVal j.req.index x)
        ∧ t.dev.sys.pending j.req.index = ⟨none, [], s.dev.sys.commitResult j.req.index⟩
        ∧ t.dev.sys.mgmt.dict.store = storeAll s.dev.sys.mgmt.dict.store j.values
        ∧ ([0x5000, 0x7100, 0x9001].contains j.req.index = true → s.Untouched t ∧ t.dev.sys.fab = s.dev.sys.fab))
    ∧ (∀ code sub, s.dev.Takes r k 0x11 → r.block = none → s.dev.sys.rowFor r = .commit → (s.dev.sys.pending r.index).values ≠ [] →
        (s.dev.sys.pending r.index).owner = some k → s.dev.heard.writeAbort k r r.data = some (code, sub) →
      ∃ t, exec (.groupCommit r) s = .next t ∧ s.Untouched t ∧ t.dev.sys.mgmt.dict.values = s.dev.sys.mgmt.dict.values
        ∧ t.dev.sys.pending r.index = (if code / 65536 = 4 ∨ code / 65536 = 6 ∨ code = 0x00050003 then
            { s.dev.sys.pending r.index with last := 3 } else s.dev.sys.pending r.index))

/-- R159, R163, R164, R588: an unlock marks its own session and counts; a role key write waits for the journal, and once its record
is valid the slot holds the new key and every session opened with a key it held before has ended. EXPERT_UNLOCK, ROLE_KEY_WRITE. -/
def Obligations.UnlockAndRoleKeys : Prop :=
  ∀ (s : State) (r : OdpReq) (k : Nat) (v : List Byte), s.dev.sys.mgmt.dict.sessions.length = 16 →
    (s.dev.Accepts .unlock r k v →
      ∃ t, exec (.expertUnlock r) s = .next t ∧ s.Untouched t ∧ t.dev.sys.fab = s.dev.sys.fab
        ∧ t.dev.sys.mgmt.dict.tx = [s.dev.sys.okFrame k r]
        ∧ (v = [0] → t.dev.sys.mgmt.dict.unlockCount = s.dev.sys.mgmt.dict.unlockCount)
        ∧ (v = [1] → (t.dev.sys.session k).unlocked = true ∧ (∀ j, j ≠ k → t.dev.sys.session j = s.dev.sys.session j)
          ∧ t.dev.sys.mgmt.dict.unlockCount = (s.dev.sys.mgmt.dict.unlockCount + 1) % 2 ^ 32))
    ∧ (s.dev.Accepts .roleKey r k v →
      ∃ t, exec (.roleKeyWrite r) s = .next t ∧ s.Untouched t
        ∧ t.dev.sys.mgmt.dict.jpending = some ⟨{ r with data := v }, k, [(r.index * 256 + r.sub, v)], none⟩
        ∧ (t.dev.sys.mgmtUp = true → t.dev.sys.mgmt.dict.RecordFits →
          ∃ u, exec (.journalRecordValid 0) t = .next u ∧ u.dev.sys.roleKey (r.sub - 1) = v
            ∧ (s.dev.sys.roleKey (r.sub - 1) ≠ [] →
                ∀ j < 16, (s.dev.sys.session j).phase ≠ 0 → (s.dev.sys.session j).keySlot = r.sub - 1 →
                  u.dev.sys.session j = Session.free)))
/-! ## Objects with behaviour of their own -/

/-- R463, R497 and R502: an accepted write sets its window, replay area or multicast entry as its fields say, a replay area with no
record kept, and no other part of the fabric's state. WINDOW_SET, REPLAY_AREA_WRITE, MULTICAST_SET. -/
def Claims.FabricTablesTakeTheirEntry : Prop :=
  ∀ (s : State) (r : OdpReq) (k : Nat) (v : List Byte),
    (s.dev.Accepts .window r k v → ∃ t, exec (.windowSet r) s = .next t ∧ s.Untouched t
        ∧ t.dev.sys.fab = { s.dev.sys.fab with windows := assocSet s.dev.sys.fab.windows (field v 0 2) (windowOf v) }
        ∧ t.dev.sys.mgmt.dict.tx = [s.dev.sys.okFrame k r])
    ∧ (s.dev.Accepts .replayArea r k v → ∃ t, exec (.replayAreaWrite r) s = .next t ∧ s.Untouched t
        ∧ t.dev.sys.fab = { s.dev.sys.fab with replay := setNth s.dev.sys.fab.replay (r.sub - 1) ⟨field v 0 8, field v 8 2, []⟩ }
        ∧ t.dev.sys.mgmt.dict.tx = [s.dev.sys.okFrame k r])
    ∧ (s.dev.Accepts .multicast r k v → ∃ t, exec (.multicastSet r) s = .next t ∧ s.Untouched t
        ∧ t.dev.sys.fab = { s.dev.sys.fab with multicast := NMap.set s.dev.sys.fab.multicast (field v 0 2) (field v 2 4) }
        ∧ t.dev.sys.mgmt.dict.tx = [s.dev.sys.okFrame k r])

/-- R459, R460 and R512: Accept takes an UNACCEPTED port to UP; Port enable takes a port whose bit is clear out of use and starts
one whose bit is set; an acknowledgement removes the oldest circuit request. PORT_ACCEPT, PORT_ENABLE_WRITE, CIRCUIT_ACKNOWLEDGE. -/
def Claims.PortAndCircuitWrites : Prop :=
  ∀ (s : State) (r : OdpReq) (k : Nat) (v : List Byte), s.dev.sys.fab.ports.length = 16 →
    (s.dev.Accepts .accept r k v →
      ∃ t, exec (.portAccept r) s = .next t ∧ s.Untouched t
        ∧ (t.dev.sys.port (r.sub - 1)).state
          = (if v = [1] ∧ (s.dev.sys.port (r.sub - 1)).state = 3 then 4 else (s.dev.sys.port (r.sub - 1)).state)
        ∧ (∀ i, i ≠ r.sub - 1 → t.dev.sys.port i = s.dev.sys.port i) ∧ t.dev.sys.mgmt.dict.tx = [s.dev.sys.okFrame k r])
    ∧ (s.dev.Accepts .portEnable r k v →
      ∃ t, exec (.portEnableWrite r) s = .next t ∧ s.Untouched t ∧ t.dev.sys.cfgN 0x6021 1 = leNat v
        ∧ (∀ i < 16, (t.dev.sys.port i).state = (if bit (leNat v) i = true then
            (if (s.dev.sys.port i).state = 0 then 1 else (s.dev.sys.port i).state) else 0))
        ∧ t.dev.sys.mgmt.dict.tx = [s.dev.sys.okFrame k r])
    ∧ (s.dev.Accepts .circuit r k v →
      ∃ t, exec (.circuitAcknowledge r) s = .next t ∧ s.Untouched t
        ∧ t.dev.sys.fab.circuits = s.dev.sys.fab.circuits.drop 1 ∧ t.dev.sys.mgmt.dict.tx = [s.dev.sys.okFrame k r])

/-- R459: a write of 1 to Accept takes an UNACCEPTED port to UP, where the first packet of every virtual channel's lane that has credits
may start; in any other state of the port it changes no port, and it is answered with abort code 0 in both. PORT_ACCEPT. -/
def Obligations.AcceptOpensAPort : Prop :=
  ∀ (s : State) (r : OdpReq) (k : Nat) (v : List Byte), s.dev.sys.fab.ports.length = 16 → s.dev.Accepts .accept r k v → v = [1] →
    ((s.dev.sys.port (r.sub - 1)).state = 3 →
      ∃ t, exec (.portAccept r) s = .next t ∧ s.Untouched t ∧ t.dev.sys.mgmt.dict.tx = [s.dev.sys.okFrame k r]
        ∧ (t.dev.sys.port (r.sub - 1)).state = 4
        ∧ ∀ w ∈ (t.dev.sys.port (r.sub - 1)).txQ,
            (t.dev.sys.port (r.sub - 1)).txQ.find? (fun x => x.vc == w.vc && x.lane == w.lane) = some w →
            ((t.dev.sys.port (r.sub - 1)).source w.vc w.lane w.flits).isSome = true →
            ((t.dev.sys.port (r.sub - 1)).eligible w.vc).isSome = true)
    ∧ ((s.dev.sys.port (r.sub - 1)).state ≠ 3 →
      ∃ t, exec (.portAccept r) s = .next t ∧ s.Untouched t ∧ t.dev.sys.fab = s.dev.sys.fab
        ∧ t.dev.sys.mgmt.dict.tx = [s.dev.sys.okFrame k r])

/-- R318, R320 and R321: clearing zeroes the named sets of the partition and no other; a threshold write sets the partition's 64
records and clears its crossed bits, while every count stays. CLEAR_SETS, THRESHOLD_WRITE. -/
def Claims.StatisticsWrites : Prop :=
  ∀ (s : State) (r : OdpReq) (k : Nat) (v : List Byte),
    (s.dev.Accepts .clearSets r k v →
      ∃ t, exec (.clearSets r) s = .next t ∧ s.Untouched t ∧ t.dev.sys.fab = s.dev.sys.fab
        ∧ (∀ i < 64, t.dev.sys.statSet (r.sub - 1) i
            = if bit (leNat v) i = true then StatSet.zero else s.dev.sys.statSet (r.sub - 1) i)
        ∧ (∀ p i, i < 64 → p ≠ r.sub - 1 → t.dev.sys.statSet p i = s.dev.sys.statSet p i))
    ∧ (s.dev.Accepts .threshold r k v →
      ∃ t, exec (.thresholdWrite r) s = .next t ∧ s.Untouched t ∧ t.dev.sys.fab = s.dev.sys.fab
        ∧ (∀ i < 64, t.dev.sys.threshold (r.sub - 1) i = thresholdOf v i ∧ (t.dev.sys.statSet (r.sub - 1) i).crossed = 0
            ∧ (t.dev.sys.statSet (r.sub - 1) i).counts = (s.dev.sys.statSet (r.sub - 1) i).counts)
        ∧ (∀ p i, i < 64 → p ≠ r.sub - 1 → t.dev.sys.threshold p i = s.dev.sys.threshold p i
            ∧ t.dev.sys.statSet p i = s.dev.sys.statSet p i))

/-- R389, R412 and R417: loading an epoch sets the committed epoch of an idle slot; a resolution to abort returns the slot to IDLE
with its committed epoch as it was, and one to commit raises it by one. EPOCH_LOAD, RESOLVE. -/
def Claims.EpochWrites : Prop :=
  ∀ (s : State) (r : OdpReq) (k : Nat) (v : List Byte), s.dev.sys.fab.epochs.length = 8 →
    (s.dev.Accepts .epochLoad r k v →
      ∃ t, exec (.epochLoad r) s = .next t ∧ s.Untouched t ∧ (t.dev.sys.epoch (r.sub - 1)).committed = leNat v
        ∧ (t.dev.sys.epoch (r.sub - 1)).incomplete = false ∧ (t.dev.sys.epoch (r.sub - 1)).state = 0
        ∧ (∀ g, g ≠ r.sub - 1 → t.dev.sys.epoch g = s.dev.sys.epoch g) ∧ t.dev.sys.mgmt.dict.tx = [s.dev.sys.okFrame k r])
    ∧ (s.dev.Accepts .resolve r k v →
      ∃ t, exec (.resolve r) s = .next t ∧ t.pending = s.pending
        ∧ (field v 8 1 = 2 → (t.dev.sys.epoch (r.sub - 1)).state = 0
          ∧ (t.dev.sys.epoch (r.sub - 1)).committed = (s.dev.sys.epoch (r.sub - 1)).committed
          ∧ (t.dev.sys.epoch (r.sub - 1)).nextAttempt
            = max (s.dev.sys.epoch (r.sub - 1)).nextAttempt ((s.dev.sys.epoch (r.sub - 1)).attempt + 1))
        ∧ (field v 8 1 = 1 →
          (t.dev.sys.epoch (r.sub - 1)).committed = ((s.dev.sys.epoch (r.sub - 1)).committed + 1) % 2 ^ 64))

/-- R82, R588, R589 and R590: a device reset answers its write, clears memory and every context, and starts bring-up anew; a
partition reset enters step 5 with the partition's windows no longer in state 1 and none of its contexts, descriptors or fabric
operations left; a release of HOLD goes on at STACK_TRAIN. DEVICE_RESET, PARTITION_RESET, HOLD_RELEASE. -/
def Claims.ResetWrites : Prop :=
  ∀ (s : State) (r : OdpReq) (k : Nat) (v : List Byte), v = [1] →
    (s.dev.Accepts .deviceReset r k v →
      ∃ t, exec (.deviceReset r) s = .next t ∧ t.pending = s.pending ∧ t.dev.mem = Mem.reset ∧ t.dev.sys.core = CoreState.reset
        ∧ t.dev.sys.host = HostState.reset ∧ t.dev.sys.mgmt.bring.phase = 1 ∧ t.dev.sys.mgmt.bring.status = 0
        ∧ (∀ j, t.dev.sys.session j = Session.free) ∧ t.dev.sys.mgmt.sec.debugOpen = s.dev.sys.mgmt.sec.debugOpen
        ∧ t.dev.sys.mgmt.dict.tx = [s.dev.sys.okFrame k r])
    ∧ (s.dev.Accepts .partReset r k v → s.dev.sys.host.parts.length = 16 → s.dev.sys.resetting (r.sub - 1) = false →
      ∃ t, exec (.partitionReset r) s = .next t ∧ t.pending = s.pending ∧ (t.dev.sys.part (r.sub - 1)).resetStep = 5
        ∧ (t.dev.sys.part (r.sub - 1)).resets = ((s.dev.sys.part (r.sub - 1)).resets + 1) % 2 ^ 32
        ∧ (∀ w ∈ t.dev.sys.fab.windows, w.2.part = r.sub - 1 → w.2.state ≠ 1)
        ∧ (∀ b ∈ t.dev.sys.core.blocks, b.ring < 64 → b.part ≠ r.sub - 1)
        ∧ (∀ x ∈ t.dev.sys.host.tasks, x.part ≠ r.sub - 1) ∧ (∀ o ∈ t.dev.sys.fab.ops, o.part ≠ r.sub - 1))
    ∧ (s.dev.Accepts .holdRelease r k v → s.dev.sys.mgmt.bring.phase = 0x0F → s.dev.sys.mgmt.bring.stackReason.length = 8 →
        s.dev.sys.mgmt.bring.stackDone.length = 8 →
      let left (st : Nat) : Prop := nth s.dev.sys.mgmt.bring.stackReason st ≠ 5 ∧ s.dev.sys.mgmt.bring.stackDone.getD st false = false
      ∃ t, exec (.holdRelease r) s = .next t ∧ t.pending = s.pending ∧ t.dev.sys.core = s.dev.sys.core
        ∧ t.dev.sys.mgmt.power = s.dev.sys.mgmt.power ∧ t.dev.sys.mgmt.dict.tx = [s.dev.sys.okFrame k r]
        ∧ ((∃ st < 8, left st) → t.dev.sys.mgmt.bring.phase = 3 ∧ t.dev.sys.mgmt.bring.status = 0)
        ∧ ((∀ st < 8, ¬left st) → 4 ≤ t.dev.sys.mgmt.bring.phase))

/-- R663 to R667: a written image is programmed into the target slot, valid exactly when every step of its verification passes;
activating waits for its journal record, then measures the slot; a floor commit waits for its journal record. IMAGE_WRITE, ACTIVATE,
FLOOR_COMMIT. -/
def Claims.ImageWrites : Prop :=
  ∀ (s : State) (r : OdpReq) (k : Nat) (v : List Byte),
    (s.dev.Accepts .image r k v → s.dev.sys.mgmt.sec.images.length = 2 →
      ∃ t, exec (.imageWrite r) s = .next t ∧ s.Untouched t
        ∧ (t.dev.sys.image s.dev.sys.targetSlot).header = v.take 256
        ∧ (t.dev.sys.image s.dev.sys.targetSlot).valid = (s.dev.sys.imageStep v == 0)
        ∧ (t.dev.sys.image s.dev.sys.targetSlot).failedStep = s.dev.sys.imageStep v
        ∧ t.dev.sys.image (1 - s.dev.sys.targetSlot) = s.dev.sys.image (1 - s.dev.sys.targetSlot)
        ∧ t.dev.sys.mgmt.sec.floor = s.dev.sys.mgmt.sec.floor)
    ∧ (s.dev.Accepts .activate r k v →
      ∃ t, exec (.activate r) s = .next t ∧ s.Untouched t
        ∧ t.dev.sys.mgmt.dict.jpending = some ⟨{ r with data := v }, k, [(0xB020 * 256 + 1, v)], none⟩
        ∧ (t.dev.sys.mgmtUp = true → t.dev.sys.mgmt.dict.RecordFits →
          ∃ u, exec (.journalRecordValid 0) t = .next u ∧ u.dev.sys.cfg 0xB020 1 = v
            ∧ u.dev.sys.mgmt.sec.measures
              = s.dev.sys.mgmt.sec.measures ++ [⟨9, leNat v, (s.dev.sys.image (leNat v)).digest⟩]))
    ∧ (s.dev.Accepts .floor r k v →
      ∃ t, exec (.floorCommit r) s = .next t ∧ s.Untouched t
        ∧ t.dev.sys.mgmt.dict.jpending = some ⟨{ r with data := v }, k, [(0xB022 * 256 + 1, v)], none⟩
        ∧ t.dev.sys.mgmt.sec.floor = s.dev.sys.mgmt.sec.floor)

/-- R668, R669 and R672: a nonce builds a report over it; a sealed blob carries the generation and an initialisation vector that
nothing fixes, and unsealing returns its plaintext under the transfer key; an accepted unlock token whose salt reads blank opens the
port at its scope after a reset, and one whose salt does not leaves the port closed. ATTESTATION_NONCE, SEAL, UNSEAL, UNLOCK_TOKEN. -/
def Claims.SecurityWrites : Prop :=
  ∀ (s : State) (r : OdpReq) (k : Nat) (v : List Byte), s.dev.sys.mgmt.dict.sessions.length = 16 →
    (s.dev.Accepts .nonce r k v →
      ∃ t, exec (.attestationNonce r) s = .next t ∧ s.Untouched t ∧ (t.dev.sys.session k).nonce = v
        ∧ (t.dev.sys.session k).report = s.dev.sys.report v ∧ t.dev.sys.mgmt.sec = s.dev.sys.mgmt.sec)
    ∧ (s.dev.Accepts .wrap r k v →
      ∃ t, exec (.seal r) s = .next t ∧ s.Untouched t ∧ t.dev.sys.mgmt.sec = s.dev.sys.mgmt.sec
        ∧ ∃ iv plain, iv.length = 12
          ∧ Config.gcmOpen (transferKey (s.dev.sys.session k)) (transferNonce r.seq 0) [] (v.drop 16) = some plain
          ∧ (t.dev.sys.session k).sealOut
            = (natLe 2 1 ++ zeros 2 ++ s.dev.sys.cfg 0xB041 1 ++ (v.drop 4).take 4 ++ iv)
              ++ Config.gcmSeal s.dev.sys.mgmt.sec.sealKey iv
                (natLe 2 1 ++ zeros 2 ++ s.dev.sys.cfg 0xB041 1 ++ (v.drop 4).take 4 ++ iv) plain)
    ∧ (s.dev.Accepts .unwrap r k v →
      ∃ t, exec (.unseal r) s = .next t ∧ s.Untouched t ∧ t.dev.sys.mgmt.sec = s.dev.sys.mgmt.sec
        ∧ ∃ plain, Config.gcmOpen s.dev.sys.mgmt.sec.sealKey (((v.drop 16).drop 12).take 12) ((v.drop 16).take 24)
            ((v.drop 16).drop 24) = some plain
          ∧ (t.dev.sys.session k).sealOut = Config.gcmSeal (transferKey (s.dev.sys.session k)) (transferNonce r.seq 1) [] plain)
    ∧ (s.dev.Accepts .token r k v →
      (∃ t, exec (.unlockToken r true) s = .next t ∧ t.pending = s.pending ∧ t.dev.mem = Mem.reset
          ∧ t.dev.sys.mgmt.sec.debugOpen = true ∧ t.dev.sys.mgmt.sec.scope = field v 56 4 ∧ t.dev.sys.mgmt.sec.salt = none
          ∧ t.dev.sys.mgmt.sec.openings = s.dev.sys.mgmt.sec.openings + 1 ∧ t.dev.sys.mgmt.bring.phase = 1)
      ∧ (∃ t, exec (.unlockToken r false) s = .next t ∧ t.pending = s.pending ∧ t.dev.mem = Mem.reset
          ∧ t.dev.sys.mgmt.sec.debugOpen = false ∧ t.dev.sys.mgmt.sec.salt.isSome = true
          ∧ t.dev.sys.mgmt.sec.openings = s.dev.sys.mgmt.sec.openings ∧ t.dev.sys.mgmt.bring.phase = 1))

/-- R603: a queue pair record of state 1 makes its queue pair ready with both PSNs from the record, at a send rate nothing fixes, and
one of state 0 clears it. QP_RECORD_WRITE. -/
def Claims.QueuePairRecordMoves : Prop :=
  ∀ (s : State) (r : OdpReq) (k : Nat) (v : List Byte), s.dev.Accepts .qpRecord r k v →
    ∃ t, exec (.qpRecordWrite r) s = .next t ∧ s.Untouched t ∧ t.dev.sys.fab = s.dev.sys.fab
      ∧ (t.dev.sys.qp (16 * (r.index - 0x9200) + (r.sub - 1))).record = v
      ∧ (t.dev.sys.qp (16 * (r.index - 0x9200) + (r.sub - 1))).outstanding = []
      ∧ (field v 0 1 ≠ 0 → (t.dev.sys.qp (16 * (r.index - 0x9200) + (r.sub - 1))).psnOut = field v 8 4
          ∧ (t.dev.sys.qp (16 * (r.index - 0x9200) + (r.sub - 1))).psnIn = field v 12 4)
      ∧ (∀ i, i ≠ 16 * (r.index - 0x9200) + (r.sub - 1) → t.dev.sys.qp i = s.dev.sys.qp i)

/-- R642, R644: a quarantined core that holds a site and has not failed is marked failed with reason 2 and every context with a
block on it is being killed; any other number is left as it is. CORE_QUARANTINE. -/
def Claims.QuarantineKillsContexts : Prop :=
  ∀ (s : State) (r : OdpReq) (k : Nat) (v : List Byte), s.dev.Accepts .quarantine r k v →
    let fails := s.dev.sys.core.failed.contains (leNat v) = false ∧ s.dev.sys.siteOf (leNat v) ≠ 65535
    ∃ t, exec (.coreQuarantine r) s = .next t ∧ t.pending = s.pending
      ∧ t.dev.sys.core.blocks = s.dev.sys.core.blocks ∧ t.dev.sys.fab = s.dev.sys.fab
      ∧ t.dev.sys.mgmt.dict.tx = [s.dev.sys.okFrame k r]
      ∧ (¬fails → t.dev.sys.core = s.dev.sys.core)
      ∧ (fails → t.dev.sys.core.failed = s.dev.sys.core.failed ++ [leNat v]
        ∧ (assoc t.dev.sys.mgmt.rel.failRecs (leNat v) FailRec.zero).site = s.dev.sys.siteOf (leNat v)
        ∧ (assoc t.dev.sys.mgmt.rel.failRecs (leNat v) FailRec.zero).reason = 2
        ∧ ∀ x ∈ s.dev.sys.contextsOn (leNat v), t.dev.sys.dying x.1 x.2 = true)

/-- R645 to R649: each accepted remap request puts its number into the state of its action: a spare or the failed site under test
and powered, an absent number committed and ready or at once applied, a cancelled one in state 5. REMAP_SPARE, REMAP_RETEST,
REMAP_ABSENT, REMAP_CANCEL. -/
def Claims.RemapRequests : Prop :=
  ∀ (s : State) (r : OdpReq) (k : Nat) (v : List Byte),
    let n := field v 0 1
    (s.dev.Accepts .spare r k v →
      ∃ t, exec (.remapSpare r) s = .next t ∧ t.pending = s.pending ∧ t.dev.sys.core = s.dev.sys.core
        ∧ (t.dev.sys.remapOf n).state = 1 ∧ (t.dev.sys.remapOf n).action = 1
        ∧ (field v 2 2 ≠ 0xFFFF → (t.dev.sys.remapOf n).site = field v 2 2)
        ∧ (t.dev.sys.remapOf n).site ∈ t.dev.sys.mgmt.bring.powered ∧ t.dev.sys.mgmt.bring.coreMap = s.dev.sys.mgmt.bring.coreMap)
    ∧ (s.dev.Accepts .retest r k v →
      ∃ t, exec (.remapRetest r) s = .next t ∧ t.pending = s.pending ∧ t.dev.sys.core = s.dev.sys.core
        ∧ (t.dev.sys.remapOf n).state = 1 ∧ (t.dev.sys.remapOf n).action = 3
        ∧ (t.dev.sys.remapOf n).site = s.dev.sys.siteOf n ∧ s.dev.sys.siteOf n ∈ t.dev.sys.mgmt.bring.powered)
    ∧ (s.dev.Accepts .absent r k v → (s.dev.sys.mgmt.bring.assignment.getD s.dev.sys.mgmt.bring.coreMap).length = 144 →
      ∃ t, exec (.remapAbsent r) s = .next t ∧ t.pending = s.pending ∧ t.dev.sys.recordSite n = 65535
        ∧ (t.dev.sys.remapOf n).action = 2
        ∧ (t.dev.sys.remapOf n).state = (if s.dev.sys.enabledParts.any (fun p => (s.dev.sys.part p).hasCore n) then 2 else 3))
    ∧ (s.dev.Accepts .cancel r k v →
      ∃ t, exec (.remapCancel r) s = .next t ∧ t.pending = s.pending ∧ t.dev.sys.core = s.dev.sys.core
        ∧ (t.dev.sys.remapOf n).state = 5 ∧ t.dev.sys.mgmt.bring.coreMap = s.dev.sys.mgmt.bring.coreMap)

/-- R646, R647 and R651: a test that passes commits the spare's site to the record, one that fails leaves the record as it was and
ends in state 4, and one whose request was cancelled ends with its site's power; each sampling of the ageing monitors keeps its
readings. REMAP_TEST_COMPLETE, AGEING_SAMPLE, SAMPLE_NOW. -/
def Claims.RemapTestsAndAgeing : Prop :=
  ∀ (s : State) (core result : Nat) (a : AgeingReading) (r : OdpReq) (k : Nat) (v : List Byte),
    (s.dev.sys.mgmtUp = true → (s.dev.sys.remapOf core).testing = true → 1 ≤ result → result ≤ 5 →
      let x := s.dev.sys.remapOf core
      ∃ t, exec (.remapTestComplete core result) s = .next t ∧ t.pending = s.pending ∧ t.dev.mem = s.dev.mem
        ∧ t.dev.sys.fab = s.dev.sys.fab ∧ (t.dev.sys.remapOf core).testing = false
        ∧ (x.state = 1 → result ≤ 2 → ((t.dev.sys.remapOf core).state = 2 ∨ (t.dev.sys.remapOf core).state = 3)
          ∧ (x.action = 1 → core < 144 → (s.dev.sys.mgmt.bring.assignment.getD s.dev.sys.mgmt.bring.coreMap).length = 144 →
              t.dev.sys.recordSite core = x.site))
        ∧ (x.state = 1 → 3 ≤ result → (t.dev.sys.remapOf core).state = 4
          ∧ t.dev.sys.mgmt.bring.assignment = s.dev.sys.mgmt.bring.assignment)
        ∧ (x.state ≠ 1 ∨ 3 ≤ result → x.site ∉ t.dev.sys.mgmt.bring.powered))
    ∧ (s.dev.sys.loopsRun = true → readingOk a = true →
      ∃ t, exec (.ageingSample a) s = .next t ∧ s.Untouched t ∧ t.dev.mem = s.dev.mem ∧ t.dev.sys.mgmt.rel.slack = a.slack
        ∧ t.dev.sys.mgmt.rel.eye = a.eye ∧ t.dev.sys.mgmt.rel.bias = a.bias ∧ t.dev.sys.mgmt.rel.ringOsc = a.ringOsc
        ∧ t.dev.sys.mgmt.rel.lastSample = s.dev.sys.mgmt.cycles ∧ t.dev.sys.mgmt.rel.planInForce = s.dev.sys.mgmt.rel.planInForce)
    ∧ (s.dev.Accepts .sampleNow r k v → v = [1] → readingOk a = true →
      ∃ t, exec (.sampleNow r a) s = .next t ∧ s.Untouched t ∧ t.dev.sys.mgmt.rel.slack = a.slack
        ∧ t.dev.sys.mgmt.rel.eye = a.eye ∧ t.dev.sys.mgmt.rel.bias = a.bias ∧ t.dev.sys.mgmt.rel.ringOsc = a.ringOsc
        ∧ t.dev.sys.mgmt.rel.lastSample = s.dev.sys.mgmt.cycles)

/-- R279, R328, R630, R634 and R635: a masked fault adds one to its unit's count and raises no event, and the stack's retries failed stop
it; a summary enters one log entry; a lockstep mismatch halts the management core and forces step 8; a detected fault of the router's
control or a slice's tags stops it, one of a core's datapath counts, one attributed to a command kills its context, and one of a
transport engine puts its queue pair in error. MASKED_FAULT, MASKED_SUMMARY, MGMT_STOP, DETECTED_FAULT. -/
def Obligations.FaultOutcomes : Prop :=
  ∀ (s : State) (u inst : Nat) (failed : Bool) (f : FaultIn), s.dev.sys.mgmt.rel.mgmtStopped = false →
    s.dev.sys.mgmt.rel.masked.length = 30 → s.dev.sys.mgmt.rel.detected.length = 30 →
    (masks u = true → s.dev.sys.mgmt.power.rails = true →
      ∃ t, exec (.maskedFault u inst failed) s = .next t ∧ t.pending = s.pending ∧ s.dev.mem.KeepsBytes t.dev.mem
        ∧ t.dev.sys.fab = s.dev.sys.fab
        ∧ (u = 2 → failed = true → t.dev.sys.unitStopped 2 inst = true)
        ∧ (¬(u = 2 ∧ failed = true) → t.dev.sys.host = s.dev.sys.host ∧ t.dev.sys.mgmt.rel.log = s.dev.sys.mgmt.rel.log
          ∧ nth t.dev.sys.mgmt.rel.masked u = min (nth s.dev.sys.mgmt.rel.masked u + 1) (2 ^ 64 - 1))
        ∧ (u = 1 → inst < s.dev.mem.dram.length →
            (t.dev.mem.stack inst).corrected = (s.dev.mem.stack inst).corrected + 1)
        ∧ (u ≠ 1 → t.dev.mem = s.dev.mem)
        ∧ t.dev.sys.core = (if u = 8 then { s.dev.sys.core with mxCounts := addAt s.dev.sys.core.mxCounts 4 1 } else s.dev.sys.core))
    ∧ (s.dev.sys.mgmtUp = true → s.dev.sys.mgmt.rel.maskedChanged.getD u false = true →
      ∃ t, exec (.maskedSummary u) s = .next t ∧ s.Untouched t ∧ t.dev.mem = s.dev.mem ∧ t.dev.sys.host = s.dev.sys.host
        ∧ t.dev.sys.mgmt.rel.maskedChanged.getD u false = false ∧ t.dev.sys.mgmt.rel.nextSeq = s.dev.sys.mgmt.rel.nextSeq + 1
        ∧ t.dev.sys.mgmt.rel.log.getLast?.map (fun e => (e.kind, e.unit, e.part, e.cls)) = some (0x0906, u, 255, 1))
    ∧ (s.dev.sys.mgmt.bring.phase ≠ 0 →
      ∃ t, exec .mgmtStop s = .next t ∧ t.pending = s.pending ∧ t.dev.mem = s.dev.mem ∧ t.dev.sys.mgmt.rel.mgmtStopped = true
        ∧ t.dev.sys.mgmtUp = false ∧ t.dev.sys.appliedStep = 8 ∧ t.dev.sys.mgmt.rel.mismatch = some s.dev.sys.mgmt.cycles)
    ∧ (s.dev.sys.mgmt.power.mgmtRail = true →
      ∃ t, exec (.detectedFault f) s = .next t ∧ t.pending = s.pending
        ∧ (f.unit = 0x13 → t.dev.sys.unitStopped 0x13 0 = true)
        ∧ (f.unit = 0x04 → t.dev.sys.unitStopped 0x04 f.inst = true)
        ∧ (∀ p r, f.unit = 0x0F → f.part = some p → f.ring = some r → t.dev.sys.dying p r = true)
        ∧ (f.unit = 0x10 → (s.dev.sys.qp f.inst).st = 1 → (t.dev.sys.qp f.inst).st = 2)
        ∧ ([0x06, 0x07, 0x08, 0x0A, 0x0B].contains f.unit = true →
            nth t.dev.sys.mgmt.rel.detected f.unit = min (nth s.dev.sys.mgmt.rel.detected f.unit + 1) (2 ^ 64 - 1)))

/-! ## Instructions of the cores (ADD to NOP) -/

namespace Sys2Proof.Machine

/-- What an instruction that works on registers alone leaves: memory, every other group, and all but the cores. -/
def State.OnlyGroup (s t : State) (g : Gid) : Prop :=
  t.pending = s.pending ∧ t.dev.mem = s.dev.mem ∧ t.dev.sys.host = s.dev.sys.host ∧ t.dev.sys.fab = s.dev.sys.fab
    ∧ t.dev.sys.mgmt = s.dev.sys.mgmt ∧ t.dev.sys.core.blocks = s.dev.sys.core.blocks
    ∧ t.dev.sys.core.stores = s.dev.sys.core.stores ∧ t.dev.sys.core.loads = s.dev.sys.core.loads
    ∧ t.dev.sys.core.csPend = s.dev.sys.core.csPend
    ∧ t.dev.sys.core.copies = s.dev.sys.core.copies ∧ t.dev.sys.core.mq = s.dev.sys.core.mq
    ∧ t.dev.sys.core.kills = s.dev.sys.core.kills
    ∧ ∀ h, h ≠ g → t.dev.sys.core.group? h = s.dev.sys.core.group? h

/-- The group of quarter and slot `g` is the one its quarter's policy picks, and its next instruction is one of opcode `op` that issues
as `i` (R178 to R180). -/
def Dev.Goes (d : Dev) (op : Nat) (g : Gid) (i : Issue) : Prop := d.picked g = true ∧ d.sys.prepare op g = .go i

/-- The instruction has issued (R178, R185): it waits in a collector for its sources, each once, with `vals` for its destinations, which
await it; what the group holds has not changed yet. -/
def State.Booked (s t : State) (i : Issue) (g' : Group) (vals : List (Nat × Nat)) : Prop :=
  t.dev.sys.core.group? i.grp.gid = some g' ∧ g'.regs = i.grp.regs ∧ g'.preds = i.grp.preds
    ∧ (∀ r, r ∈ g'.busy ↔ r ∈ i.grp.busy ∨ r ∈ i.info.dests)
    ∧ t.dev.sys.core.collectors = s.dev.sys.core.collectors ++ [⟨i.grp.gid, dedup i.info.reads, i.info.dests, i.info.unit, vals⟩]
    ∧ t.dev.sys.core.results = s.dev.sys.core.results

/-- The kill that a fault of the issuing thread starts (R203, Table 16-7). -/
def Issue.kill (i : Issue) (code : Nat) : Kill :=
  ⟨i.blk.part, i.blk.ring, code, i.grp.gid.core, [BitVec.ofNat 8 i.grp.gid.quarter, BitVec.ofNat 8 i.grp.gid.slot,
    BitVec.ofNat 8 i.blk.ring, 0] ++ natLe 4 i.blk.cmd ++ natLe 4 (8 * i.grp.pc) ++ zeros 4, false⟩

/-- The group goes on at the next instruction, unless that is where its path ends (R189). -/
def Issue.NextAt (i : Issue) (g' : Group) : Prop :=
  g'.live = i.grp.live ∧ g'.parked = i.grp.parked
    ∧ (i.grp.stop ≠ some (i.grp.pc + 1) → g'.pc = i.grp.pc + 1 ∧ g'.mask = i.grp.mask ∧ g'.stack = i.grp.stack)

/-- Values for an operand of `w` registers at `d`: those of `f` by lane, low register first (R183). -/
def ValsAre (vals : List (Nat × Nat)) (act : List Nat) (d w : Nat) (f : Nat → Nat) : Prop :=
  ∀ kv, kv ∈ vals ↔ ∃ l ∈ act, ∃ j < w, kv = (l * 256 + d + j, f l / 2 ^ (32 * j) % 2 ^ 32)

/-- A row whose instruction gives each executing lane one value: the group, the opcode, the registers of D, and the value of a
lane from the group as it stood, with the core-cycle count for `rdsr`. -/
structure LaneRow where
  gid : Gid
  op : Nat
  width : CoreInst → Nat
  value : Nat → Issue → Nat → Nat

/-- A row of Table 5-8: D is the operation of A, B and C, of the type's width. -/
def LaneRow.alu (g : Gid) (op : Nat) (f : Nat → Nat → Nat → Nat → Nat) (w : Nat → Nat) : LaneRow :=
  ⟨g, op, fun i => w i.ty, fun _ i l =>
    f i.inst.ty (i.grp.regN l i.inst.a (tyRegs i.inst.ty)) (i.grp.srcB i.inst l) (i.grp.regN l i.inst.c (tyRegs i.inst.ty))⟩

end Sys2Proof.Machine

/-- The rows of Tables 5-8 and 5-9 that give each lane a value in D. -/
def Sys2Proof.Instr.laneRow : Instr → Option LaneRow
  | .add g => some (.alu g 0x00 addOp tyRegs)
  | .sub g => some (.alu g 0x01 subOp tyRegs)
  | .mul g => some (.alu g 0x02 mulOp tyRegs)
  | .mulhi g => some (.alu g 0x03 mulhiOp tyRegs)
  | .mad g => some (.alu g 0x04 madOp tyRegs)
  | .fma g => some (.alu g 0x05 fmaOp tyRegs)
  | .min g => some (.alu g 0x06 minOp tyRegs)
  | .max g => some (.alu g 0x07 maxOp tyRegs)
  | .and g => some (.alu g 0x08 andOp tyRegs)
  | .or g => some (.alu g 0x09 orOp tyRegs)
  | .xor g => some (.alu g 0x0A xorOp tyRegs)
  | .not g => some (.alu g 0x0B notOp tyRegs)
  | .shl g => some (.alu g 0x0C shlOp tyRegs)
  | .shr g => some (.alu g 0x0D shrOp tyRegs)
  | .popc g => some (.alu g 0x0E popcOp (fun _ => 1))
  | .clz g => some (.alu g 0x0F clzOp (fun _ => 1))
  | .abs g => some (.alu g 0x10 absOp tyRegs)
  | .neg g => some (.alu g 0x11 negOp tyRegs)
  | .rcp g => some (.alu g 0x40 rcpOp tyRegs)
  | .sqrt g => some (.alu g 0x41 sqrtOp tyRegs)
  | .div g => some (.alu g 0x42 divOp tyRegs)
  | .ex2 g => some (.alu g 0x43 ex2Op tyRegs)
  | .lg2 g => some (.alu g 0x44 lg2Op tyRegs)
  | .sin g => some (.alu g 0x45 sinOp tyRegs)
  | .cos g => some (.alu g 0x46 cosOp tyRegs)
  | .cvt g => some ⟨g, 0x48, fun i => cvtWidth (bits i.mod 7 4), fun _ i l =>
      cvtTarget (bits i.inst.mod 7 4) (cvtSource (bits i.inst.mod 3 0) (i.grp.regN l i.inst.a (cvtWidth (bits i.inst.mod 3 0))))⟩
  | .selp g => some ⟨g, 0x51, fun i => tyRegs i.ty, fun _ i l =>
      if i.grp.predBit l i.inst.c then i.grp.regN l i.inst.a (tyRegs i.inst.ty) else i.grp.srcB i.inst l⟩
  | .mov g => some ⟨g, 0x58, fun i => tyRegs i.ty, fun _ i l =>
      if i.inst.imm then immValue i.inst else i.grp.regN l i.inst.a (tyRegs i.inst.ty)⟩
  | .movhi g => some ⟨g, 0x59, fun _ => 1, fun _ i l => bits i.inst.mod 15 0 * 2 ^ 16 + i.grp.reg l i.inst.d % 2 ^ 16⟩
  | .rdsr g => some ⟨g, 0x5A, fun _ => 1, fun cyc i l =>
      match bits i.inst.mod 3 0 with
      | 0 => l
      | 1 => i.grp.gidx
      | 2 => i.grp.gid.quarter
      | 3 => i.grp.gid.core
      | 4 => cyc % 2 ^ 32
      | _ => cyc / 2 ^ 32 % 2 ^ 32⟩
  | .vote g => some ⟨g, 0x5B, fun _ => 1, fun _ i _ =>
      let yes := (lanes i.grp.mask).filter (fun l => i.grp.predBit l i.inst.a)
      match bits i.inst.mod 1 0 with
      | 0 => if yes = [] then 0 else 1
      | 1 => if yes = lanes i.grp.mask then 1 else 0
      | _ => (yes.map (fun l => 2 ^ l)).sum⟩
  | .shfl g => some ⟨g, 0x5C, fun i => tyRegs i.ty, fun _ i l =>
      let b := (if i.inst.imm then bits i.inst.mod 15 0 else i.grp.reg l i.inst.b) % 32
      let b := if i.grp.mask.getLsbD b ∧ i.grp.live.getLsbD b then b else l
      i.grp.regN b i.inst.a (tyRegs i.inst.ty)⟩
  | _ => none

/-- R178 to R180, R185, R188, R210 and Tables 5-8 and 5-9: when the next instruction of the picked group issues, it waits in a collector
for its sources, each once, with the value its table gives each executing lane's D from the lane's sources as they stood; D awaits that
result and no register or predicate changes until RESULT_WRITEBACK; a group that does not reach its stop address stands at the next
instruction. ADD to COS, CVT, SELP, MOV, MOVHI, RDSR, VOTE, SHFL. -/
def Claims.LanesTakeTheirValues : Prop :=
  ∀ (s : State) (c : Instr) (row : LaneRow) (i : Issue), s.dev.sys.core.Ok → c.laneRow = some row → s.dev.Goes row.op row.gid i →
    ∃ t g' vals, exec c s = .next t ∧ s.OnlyGroup t row.gid ∧ s.Booked t i g' vals ∧ i.NextAt g'
      ∧ ValsAre vals i.act i.inst.d (row.width i.inst) (row.value s.dev.sys.core.cycles i)

/-- Table 5-8 on integers of `w` = 32 or 64 bits, signed (types 1 and 3) or not: what `add` to `neg` put in D. Sums and products
wrap, a shift count is taken modulo the width, a right shift keeps the sign of a signed type. -/
def Obligations.IntegerResultsWrap : Prop :=
  ∀ (ty a b c : Nat), ty < 4 → a < 2 ^ tyBits ty → b < 2 ^ tyBits ty → c < 2 ^ tyBits ty →
    let w := tyBits ty
    let v (x : Nat) : Int := if ty % 2 = 1 then (if x < 2 ^ (w - 1) then (x : Int) else (x : Int) - 2 ^ w) else x
    addOp ty a b c = (a + b) % 2 ^ w ∧ subOp ty a b c = (a + 2 ^ w - b) % 2 ^ w ∧ mulOp ty a b c = a * b % 2 ^ w
    ∧ (mulhiOp ty a b c : Int) = (v a * v b / 2 ^ w) % 2 ^ w ∧ madOp ty a b c = (a * b + c) % 2 ^ w
    ∧ v (minOp ty a b c) = min (v a) (v b) ∧ v (maxOp ty a b c) = max (v a) (v b)
    ∧ (∀ k, (notOp ty a b c).testBit k = (decide (k < w) && !a.testBit k))
    ∧ shlOp ty a b c = a * 2 ^ (b % w) % 2 ^ w ∧ (shrOp ty a b c : Int) = (v a / 2 ^ (b % w)) % 2 ^ w
    ∧ popcOp ty a b c = ((List.range w).filter a.testBit).length
    ∧ (a ≠ 0 → 2 ^ (w - 1 - clzOp ty a b c) ≤ a ∧ a < 2 ^ (w - clzOp ty a b c) ∧ clzOp ty a b c < w) ∧ clzOp ty 0 b c = w
    ∧ (absOp ty a b c : Int) = ((v a).natAbs : Int) % 2 ^ w ∧ negOp ty a b c = (2 ^ w - a) % 2 ^ w

/-- R188 and Tables 5-9 and 5-11: `setp` and `plog` wait with one predicate's mask, the bit of each executing lane by the comparison or
operation and the others as they stood; `nop` changes nothing but the path's place. SETP, PLOG, NOP. -/
def Claims.PredicatesAreWritten : Prop :=
  ∀ (s : State) (g : Gid) (i : Issue), s.dev.sys.core.Ok →
    let ends (c : Instr) (P : List (Nat × Nat) → Prop) : Prop := ∃ t g' vals, exec c s = .next t ∧ s.OnlyGroup t g
      ∧ s.Booked t i g' vals ∧ i.NextAt g' ∧ P vals
    let writes (v : Nat → Bool) (vals : List (Nat × Nat)) : Prop :=
      ∃ m : BitVec 32, vals = [(8192 + i.inst.d, m.toNat)]
        ∧ ∀ l < 32, m.getLsbD l = if l ∈ i.act then v l else i.grp.predBit l i.inst.d
    (s.dev.Goes 0x50 g i →
      ends (.setp g) (writes (fun l => cmpHolds i.inst.c i.inst.ty (i.grp.regN l i.inst.a (tyRegs i.inst.ty)) (i.grp.srcB i.inst l))))
    ∧ (s.dev.Goes 0x52 g i →
      ends (.plog g) (writes (fun l =>
        let a := i.grp.predBit l i.inst.a
        let b := i.grp.predBit l i.inst.b
        match bits i.inst.mod 1 0 with
        | 0 => a && b
        | 1 => a || b
        | 2 => xor a b
        | _ => !a)))
    ∧ (s.dev.Goes 0xA4 g i → ends (.nop g) (fun vals => vals = []))

/-- R189 to R191 and Table 5-11: a branch that every executing thread takes moves the path to its target, one that none takes falls
through, and one that some take pushes the reconvergence and the fall-through entries; `call` leaves the next index for D and goes to its
target, `ret` goes where its register says, alike for every thread, and `exit` ends its threads. A target outside the image starts the
kill of the context with MALFORMED_INSTRUCTION, a stack too deep with RECONVERGENCE_OVERFLOW. BRA, CALL, RET, EXIT. -/
def Obligations.ControlMovesThePath : Prop :=
  ∀ (s : State) (g : Gid) (i : Issue), s.dev.sys.core.Ok →
    let target := (i.grp.pc : Int) + 1 + toSigned 20 i.inst.mod
    let inside (x : Int) : Prop := 0 ≤ x ∧ x < i.blk.code.length
    let taken := i.grp.actMask i.inst
    let goes (c : Instr) (pc : Nat) (mask : BitVec 32) (stop : Option Nat) (stack : List Path) : Prop :=
      ∃ t g' vals, exec c s = .next t ∧ s.OnlyGroup t g ∧ s.Booked t i g' vals ∧ g'.live = i.grp.live ∧ g'.parked = i.grp.parked
        ∧ (stop ≠ some pc → g'.pc = pc ∧ g'.mask = mask ∧ g'.stop = stop ∧ g'.stack = stack)
        ∧ (i.inst.op ≠ 0xA1 → vals = [])
        ∧ (i.inst.op = 0xA1 → ValsAre vals i.act i.inst.d 1 (fun _ => i.grp.pc + 1))
    let killed (c : Instr) (code : Nat) : Prop := ∃ t, exec c s = .next t ∧ t.pending = s.pending ∧ t.dev.mem = s.dev.mem
        ∧ t.dev.sys.fab = s.dev.sys.fab ∧ t.dev.sys.host = s.dev.sys.host
        ∧ t.dev.sys.mgmt = s.dev.sys.mgmt ∧ t.dev.sys.core.blocks = s.dev.sys.core.blocks
        ∧ t.dev.sys.core.nKills = s.dev.sys.core.nKills + 1
        ∧ t.dev.sys.core.kills = s.dev.sys.core.kills ++ [i.kill code]
    (s.dev.Goes 0xA0 g i →
      (taken = 0 → goes (.bra g) (i.grp.pc + 1) i.grp.mask i.grp.stop i.grp.stack)
      ∧ (taken = i.grp.mask → inside target → goes (.bra g) target.toNat i.grp.mask i.grp.stop i.grp.stack)
      ∧ (taken ≠ 0 → taken ≠ i.grp.mask → inside target → i.grp.stack.length + 2 ≤ 32 →
          let r := i.inst.d * 256 + i.inst.a
          goes (.bra g) target.toNat taken (some r)
            (⟨i.grp.pc + 1, i.grp.mask &&& ~~~taken, some r⟩ :: ⟨r, i.grp.mask, i.grp.stop⟩ :: i.grp.stack))
      ∧ (taken ≠ 0 → taken ≠ i.grp.mask → inside target → 32 < i.grp.stack.length + 2 → killed (.bra g) 0x0107)
      ∧ (taken ≠ 0 → ¬inside target → killed (.bra g) 0x0103))
    ∧ (s.dev.Goes 0xA1 g i →
      (i.act = [] → goes (.call g) (i.grp.pc + 1) i.grp.mask i.grp.stop i.grp.stack)
      ∧ (i.act ≠ [] → inside target → goes (.call g) target.toNat i.grp.mask i.grp.stop i.grp.stack)
      ∧ (i.act ≠ [] → ¬inside target → killed (.call g) 0x0103))
    ∧ (s.dev.Goes 0xA2 g i →
      (i.act = [] → goes (.ret g) (i.grp.pc + 1) i.grp.mask i.grp.stop i.grp.stack)
      ∧ (∀ x, i.act ≠ [] → (∀ l ∈ i.act, i.grp.reg l i.inst.a = x) → inside x →
          goes (.ret g) x i.grp.mask i.grp.stop i.grp.stack)
      ∧ (i.act ≠ [] → ¬(∃ x, (∀ l ∈ i.act, i.grp.reg l i.inst.a = x) ∧ inside x) → killed (.ret g) 0x0103))
    ∧ (s.dev.Goes 0xA3 g i → ∃ t g', exec (.exit g) s = .next t ∧ t.pending = s.pending ∧ t.dev.mem = s.dev.mem
        ∧ t.dev.sys.host = s.dev.sys.host ∧ t.dev.sys.fab = s.dev.sys.fab ∧ t.dev.sys.mgmt = s.dev.sys.mgmt
        ∧ t.dev.sys.core.stores = s.dev.sys.core.stores ∧ t.dev.sys.core.csPend = s.dev.sys.core.csPend
        ∧ s.Booked t i g' [] ∧ g'.live = i.grp.live &&& ~~~taken
        ∧ ∀ h x, t.dev.sys.core.group? h = some x → x.block ≠ i.grp.block → s.dev.sys.core.group? h = some x)

/-! ## Accesses of the cores (LD.C to ATOM.C) -/

namespace Sys2Proof.Machine

/-- No group's registers, predicates or living threads have changed. -/
def State.RegsKeep (s t : State) : Prop :=
  ∀ h x y, s.dev.sys.core.group? h = some x → t.dev.sys.core.group? h = some y →
    y.regs = x.regs ∧ y.preds = x.preds ∧ y.live = x.live

/-- What an access leaves outside the cores: fabric tables, management and the queue. -/
def State.OnlyCores (s t : State) : Prop :=
  t.pending = s.pending ∧ t.dev.sys.fab = s.dev.sys.fab ∧ t.dev.sys.mgmt = s.dev.sys.mgmt

/-- The bytes of core store but those of block `id` that `P` names read as before. -/
def State.CsBut (s t : State) (id : Nat) (P : Nat → Prop) : Prop :=
  ∀ b a, (b = id ∧ P a) ∨ t.dev.sys.csRead b a 1 = s.dev.sys.csRead b a 1

/-- What waits in the collectors, its values apart. -/
def CoreState.forms (c : CoreState) : List (Gid × List Nat × List Nat × Nat) := c.collectors.map (fun k => (k.gid, k.reads, k.dests, k.unit))

/-- The instruction waits in a collector; what its values are is said beside. -/
def State.Enters (s t : State) (i : Issue) : Prop :=
  t.dev.sys.core.forms = s.dev.sys.core.forms ++ [(i.grp.gid, dedup i.info.reads, i.info.dests, i.info.unit)] ∧ s.RegsKeep t

/-- No core store access of a block is still to take effect, and no drain of its matrix operations is queued (R229, R271). -/
def Sys.StoreQuiet (s : Sys) (id : Nat) : Prop :=
  (∀ a ∈ s.core.csPend, a.block ≠ id) ∧ ∀ o ∈ s.core.mq, o.drain = true → o.block ≠ id

/-- The parts of an access of `n` bytes, by offset and size (Table 5-10). -/
def halves (n : Nat) : List (Nat × Nat) := if n = 16 then [(0, 8), (8, 8)] else [(0, n)]

/-- The registers from `d` on of a lane wait, with the new instruction, for value `v` of `n` bytes. -/
def State.Holds (s t : State) (lane d n v : Nat) : Prop :=
  ∃ c, t.dev.sys.core.collectors = s.dev.sys.core.collectors ++ [c]
    ∧ ∀ j < max 1 (n / 4), (lane * 256 + d + j, v / 2 ^ (32 * j) % 2 ^ 32) ∈ c.vals

/-- A loaded value of `n` bytes with the extension of Table 5-10. -/
def loaded (sext : Bool) (n v : Nat) : Nat := if sext = true ∧ 2 ^ (8 * n - 1) ≤ v then v + 2 ^ 32 - 2 ^ (8 * n) else v

end Sys2Proof.Machine

/-- R4, R188, R220, R229, R271 and Table 5-10: `ld.c` enters a collector; each part of each executing lane has its little-endian bytes at
its address, extended as its form says, for its registers, or is still to take effect. `st.c` leaves at each lane's address the low bytes
of its B, now or in an access still to take effect; no other byte of core store changes. An address that is not aligned or lies outside
the block's allocation starts the kill of the context with 0x0101, and behind `fence.dev` the instruction waits. The values are stated of
a block whose earlier accesses have taken effect, and of lanes with distinct bytes. LD.C, ST.C. -/
def Obligations.CoreStoreReadsAndWrites : Prop :=
  ∀ (s : State) (g : Gid) (i : Issue), s.dev.sys.core.Ok →
    let n := 2 ^ bits i.inst.mod 2 0
    let at_ (l : Nat) := i.grp.effAddr i.inst l
    let good := ∀ l ∈ i.act, at_ l % n = 0 ∧ at_ l + n ≤ i.blk.csBytes
    let issues (c : Instr) (P : State → Prop) : Prop := ∃ t, exec c s = .next t ∧ s.OnlyCores t ∧ t.dev.mem = s.dev.mem
        ∧ t.dev.sys.host = s.dev.sys.host ∧ s.Enters t i ∧ s.CsBut t i.blk.id (fun _ => True)
        ∧ t.dev.sys.core.kills = s.dev.sys.core.kills ∧ t.dev.sys.core.stores = s.dev.sys.core.stores ∧ P t
    let bad (c : Instr) : Prop := ∃ t, exec c s = .next t ∧ s.OnlyCores t ∧ t.dev.mem = s.dev.mem ∧ t.dev.sys.host = s.dev.sys.host
        ∧ t.dev.sys.core = { s.dev.sys.core with
            kills := s.dev.sys.core.kills ++ [i.kill 0x0101], nKills := s.dev.sys.core.nKills + 1
            nFaults := addAt s.dev.sys.core.nFaults 0 1 }
    let quiet := s.dev.sys.StoreQuiet i.blk.id
    (s.dev.Goes 0x60 g i →
      (fenceHeld i s.dev = true → exec (.ldC g) s = .next s)
      ∧ (fenceHeld i s.dev = false → ¬good → bad (.ldC g))
      ∧ (fenceHeld i s.dev = false → good → issues (.ldC g) (fun t => quiet → t.dev.sys.core.blocks = s.dev.sys.core.blocks
          ∧ ∀ l ∈ i.act, ∀ h ∈ halves n,
            ⟨g, [l], i.blk.id, at_ l + h.1, h.2, .load (bit i.inst.mod 3) (i.inst.d + h.1 / 4), false⟩ ∈ t.dev.sys.core.csPend
            ∨ s.Holds t l (i.inst.d + h.1 / 4) h.2 (loaded (bit i.inst.mod 3) h.2 (leNat (s.dev.sys.csRead i.blk.id (at_ l + h.1) h.2))))))
    ∧ (s.dev.Goes 0x61 g i →
      (fenceHeld i s.dev = true → exec (.stC g) s = .next s)
      ∧ (fenceHeld i s.dev = false → ¬good → bad (.stC g))
      ∧ (fenceHeld i s.dev = false → good → issues (.stC g) (fun t => quiet →
          s.CsBut t i.blk.id (fun a => ∃ l ∈ i.act, at_ l ≤ a ∧ a < at_ l + n)
          ∧ ((∀ l ∈ i.act, ∀ l' ∈ i.act, l ≠ l' → overlaps (at_ l) n (at_ l') n = false) → ∀ l ∈ i.act, ∀ h ∈ halves n,
            let bs := ((natLe n (i.grp.regN l i.inst.b (accRegs (bits i.inst.mod 2 0)))).drop h.1).take h.2
            ⟨g, [l], i.blk.id, at_ l + h.1, h.2, .store bs, false⟩ ∈ t.dev.sys.core.csPend
            ∨ t.dev.sys.csRead i.blk.id (at_ l + h.1) h.2 = bs))))

/-- R197 to R200, R229, R233 to R235 and Table 5-4: the lanes of an atomic that name one location replace its value in lane order by the
operation of the value before and their sources, and where D takes a value each receives the value it replaced; it happens now or is
still to take effect, at once where the form acquires at a scope that other blocks, or other groups of the block, share; no other
byte changes. In both spaces an address whose bits below its size are not 0 starts the kill of the context, as one out of the
allocation or one that does not translate for writing. What a release or `fence.dev` waits for holds it back. ATOM.C, ATOM.G. -/
def Obligations.AtomicsUpdateOnce : Prop :=
  ∀ (s : State) (g : Gid) (i : Issue), s.dev.sys.core.Ok → s.dev.mem.Coherent →
    let n := 4 * (if bits i.inst.mod 6 4 = 2 ∨ bits i.inst.mod 6 4 = 4 then 2 else 1)
    let a (l : Nat) := i.grp.regN l i.inst.a (if i.inst.op = 0x78 then 2 else 1)
    let arg (l : Nat) := (l, i.grp.regN l i.inst.b (n / 4), i.grp.regN l i.inst.c (n / 4))
    let new (old : Nat) (l : Nat) := atomNew (bits i.inst.mod 3 0) (bits i.inst.mod 6 4) old (arg l).2.1 (arg l).2.2
    -- the value after the first `k` of some lanes
    let after (ls : List Nat) (old k : Nat) := (ls.take k).foldl new old
    let work (ls : List Nat) : AtomWork := ⟨bits i.inst.mod 3 0, bits i.inst.mod 6 4,
      if bit i.inst.mod 11 = true then none else some i.inst.d, ls.map arg⟩
    let held (ls : List Nat) (old : Nat) (t : State) : Prop := bit i.inst.mod 11 = false →
      ∀ k l, ls[k]? = some l → s.Holds t l i.inst.d n (after ls old k)
    (s.dev.Goes 0x79 g i →
      (atomOk true i s.dev = false → exec (.atomC g) s = .next s)
      ∧ (atomOk true i s.dev = true → ¬(∀ l ∈ i.act, a l % n = 0 ∧ a l + n ≤ i.blk.csBytes) →
        ∃ t, exec (.atomC g) s = .next t ∧ s.OnlyCores t ∧ t.dev.mem = s.dev.mem
          ∧ t.dev.sys.core.blocks = s.dev.sys.core.blocks ∧ t.dev.sys.core.kills = s.dev.sys.core.kills ++ [i.kill 0x0101])
      ∧ (atomOk true i s.dev = true → (∀ l ∈ i.act, a l % n = 0 ∧ a l + n ≤ i.blk.csBytes) →
        ∃ t, exec (.atomC g) s = .next t ∧ s.OnlyCores t ∧ t.dev.mem = s.dev.mem ∧ t.dev.sys.host = s.dev.sys.host ∧ s.Enters t i
          ∧ t.dev.sys.core.kills = s.dev.sys.core.kills ∧ s.CsBut t i.blk.id (fun _ => True)
          ∧ (s.dev.sys.StoreQuiet i.blk.id → s.CsBut t i.blk.id (fun x => ∃ l ∈ i.act, a l ≤ x ∧ x < a l + n)
            ∧ ∀ l ∈ i.act,
              let ls := i.act.filter (fun k => a k == a l)
              let old := leNat (s.dev.sys.csRead i.blk.id (a l) n)
              ((∃ p ∈ t.dev.sys.core.csPend, p.gid = g ∧ p.lanes = ls ∧ p.block = i.blk.id ∧ p.addr = a l ∧ p.size = n
                  ∧ p.work = .atom (work ls))
                ∧ ¬(acquires i.inst = true ∧ bits i.inst.mod 10 9 ≠ 0))
              ∨ t.dev.sys.csRead i.blk.id (a l) n = natLe n (after ls old ls.length) ∧ held ls old t)))
    ∧ (s.dev.Goes 0x78 g i →
      let ok (l : Nat) : Prop := a l % n = 0 ∧ s.dev.rangeOk i.blk.part (a l) n true = true
      ((∃ l ∈ i.act, ¬ok l) →
        ∃ t, exec (.atomG g) s = .next t ∧ s.OnlyCores t ∧ t.dev.mem = s.dev.mem ∧ t.dev.sys.core.blocks = s.dev.sys.core.blocks
          ∧ t.dev.sys.core.kills = s.dev.sys.core.kills ++ [i.kill 0x0101])
      ∧ ((∀ l ∈ i.act, ok l) → atomGOk i s.dev = false → exec (.atomG g) s = .next s)
      ∧ ((∀ l ∈ i.act, ok l) → atomGOk i s.dev = true →
        ∃ t, exec (.atomG g) s = .next t ∧ s.OnlyCores t ∧ s.Enters t i
          ∧ (∀ st L, (∀ l ∈ i.act, ∀ j < n, s.dev.locate i.blk.part (a l + j) ≠ (st, L)) →
              t.dev.mem.byteAt st L = s.dev.mem.byteAt st L)
          ∧ (releases i.inst = false → s.CsBut t i.blk.id (fun _ => False) ∧ t.dev.sys.core.csPend = s.dev.sys.core.csPend)
          ∧ ((∀ l ∈ i.act, s.dev.CleanRange i.blk.part (a l) n) → ∀ l ∈ i.act,
              let p := s.dev.locate i.blk.part (a l)
              let ls := i.act.filter (fun k => s.dev.locate i.blk.part (a k) == p)
              let old := leNat ((List.range n).map (fun j => s.dev.byteOf i.blk.part (a l + j)))
              ((∃ x ∈ t.dev.sys.core.stores, x.gid = g ∧ x.lanes = ls ∧ x.block = i.blk.id ∧ (x.stack, x.addr) = p ∧ x.data.length = n
                  ∧ x.atom = some (work ls))
                ∧ ¬(acquires i.inst = true ∧ 2 ≤ bits i.inst.mod 10 9))
              ∨ (∀ j < n, t.dev.mem.byteAt p.1 (p.2 + j) = (natLe n (after ls old ls.length)).getD j 0) ∧ held ls old t)))

/-- R23, R216, R226 to R229, R327 to R334 and Table 5-10: `st.g` leaves each executing lane's bytes as pending stores and changes no byte
until SLICE_STORE_ACCEPT, which writes exactly the store's bytes, or updates an atomic's location; `ld.g` changes no byte, and each part
of each lane has its value for its registers or waits for its line, which SLICE_MISS_FILL brings and serves; patrol scrub changes no
byte and tells of a line it finds uncorrectable. LD.G, ST.G, SLICE_STORE_ACCEPT, SLICE_MISS_FILL, SCRUB_LINE. -/
def Obligations.ShofelAccessesReachTheirBytes : Prop :=
  ∀ (s : State) (g : Gid) (i : Issue), s.dev.sys.core.Ok → s.dev.mem.Coherent →
    let n := 2 ^ bits i.inst.mod 2 0
    let at_ (l : Nat) := i.grp.effAddr i.inst l
    let good (w : Bool) : Prop := ∀ l ∈ i.act, at_ l % n = 0 ∧ s.dev.rangeOk i.blk.part (at_ l) n w = true
    let bad (c : Instr) : Prop := ∃ t, exec c s = .next t ∧ s.OnlyCores t ∧ t.dev.mem = s.dev.mem ∧ t.dev.sys.host = s.dev.sys.host
        ∧ s.RegsKeep t ∧ t.dev.sys.core.stores = s.dev.sys.core.stores ∧ t.dev.sys.core.loads = s.dev.sys.core.loads
        ∧ t.dev.sys.core.kills = s.dev.sys.core.kills ++ [i.kill 0x0101]
    (s.dev.Goes 0x63 g i →
      (¬good true → bad (.stG g))
      ∧ (good true → stGOk i s.dev = false → exec (.stG g) s = .next s)
      ∧ (good true → stGOk i s.dev = true →
        ∃ t g', exec (.stG g) s = .next t ∧ s.OnlyGroup { t with dev.sys.core.stores := s.dev.sys.core.stores } g
          ∧ s.Booked t i g' [] ∧ i.NextAt g'
          ∧ t.dev.sys.core.stores = s.dev.sys.core.stores ++ i.act.flatMap (fun l => (halves n).map (fun h =>
              ⟨g, [l], i.blk.id, i.blk.part, i.blk.ring, i.blk.uid, 0, (s.dev.locate i.blk.part (at_ l)).1,
                (s.dev.locate i.blk.part (at_ l)).2 + h.1,
                ((natLe n (i.grp.regN l i.inst.b (accRegs (bits i.inst.mod 2 0)))).drop h.1).take h.2, 0, none, i.grp.pc⟩))))
    ∧ (s.dev.Goes 0x62 g i →
      (¬good false → bad (.ldG g))
      ∧ (good false → ldGOk i s.dev = false → exec (.ldG g) s = .next s)
      ∧ (good false → ldGOk i s.dev = true →
        ∃ t p, exec (.ldG g) s = .next t ∧ s.OnlyCores t ∧ s.dev.mem.KeepsBytes t.dev.mem ∧ s.Enters t i
          ∧ t.dev.sys.core.blocks = s.dev.sys.core.blocks ∧ t.dev.sys.core.stores = s.dev.sys.core.stores
          ∧ t.dev.sys.core.csPend = s.dev.sys.core.csPend ∧ t.dev.sys.core.loads = s.dev.sys.core.loads ++ p
          ∧ (∀ x ∈ p, x.gid = g ∧ x.lane ∈ i.act)
          ∧ ((∀ l ∈ i.act, s.dev.CleanRange i.blk.part (at_ l) n) → t.dev.sys.core.kills = s.dev.sys.core.kills
            ∧ ∀ l ∈ i.act, ∀ h ∈ halves n,
              (∃ x ∈ p, x.lane = l ∧ x.dest = i.inst.d + h.1 / 4 ∧ x.size = h.2
                ∧ (x.stack, x.addr) = s.dev.locate i.blk.part (at_ l + h.1))
              ∨ s.Holds t l (i.inst.d + h.1 / 4) h.2 (loaded (bit i.inst.mod 3) h.2
                  (leNat ((List.range h.2).map (fun j => s.dev.byteOf i.blk.part (at_ l + h.1 + j))))))))
    ∧ (∀ k x, s.dev.sys.core.stores[k]? = some x →
      (earlierStore s.dev.sys.core.stores k x = true ∨ s.dev.stackUp x.stack = false → exec (.sliceStoreAccept k) s = .next s)
      ∧ (earlierStore s.dev.sys.core.stores k x = false → s.dev.stackUp x.stack = true →
        ∃ t, exec (.sliceStoreAccept k) s = .next t ∧ t.pending = s.pending ∧ t.dev.sys.fab = s.dev.sys.fab
          ∧ t.dev.sys.core.groups = s.dev.sys.core.groups
          ∧ t.dev.sys.core.blocks = s.dev.sys.core.blocks ∧ t.dev.sys.core.stores = dropNth s.dev.sys.core.stores k
          ∧ s.dev.mem.KeepsOutside t.dev.mem x.stack x.addr x.data.length
          ∧ (x.stack < 8 → (s.dev.mem.lineOf x.stack (x.addr / 64)).poison = false →
            t.dev.sys.mgmt = s.dev.sys.mgmt ∧ t.dev.sys.core.kills = s.dev.sys.core.kills
            ∧ (x.atom = none → ∀ j < x.data.length, t.dev.mem.byteAt x.stack (x.addr + j) = x.data.getD j 0)
            ∧ ∀ w old, x.atom = some w →
                old = leNat ((List.range x.data.length).map (fun j => s.dev.mem.byteAt x.stack (x.addr + j))) →
                let after (k : Nat) := (w.args.take k).foldl (fun v a => atomNew w.op w.ty v a.2.1 a.2.2) old
                (∀ j < x.data.length, t.dev.mem.byteAt x.stack (x.addr + j) = (natLe x.data.length (after w.args.length)).getD j 0)
                ∧ ∀ d k y, w.dest = some d → w.args[k]? = some y →
                    ∀ c ∈ t.dev.sys.core.collectors, c.gid = x.gid → d ∈ c.dests →
                      ∀ j < atomRegs w.ty, (y.1 * 256 + d + j, after k / 2 ^ (32 * j) % 2 ^ 32) ∈ c.vals)))
    ∧ (∀ st line ecc, (∃ x ∈ s.dev.sys.core.loads, x.stack = st ∧ x.addr / 64 = line) → s.dev.stackUp st = true →
      ∃ t, exec (.sliceMissFill st line ecc) s = .next t ∧ t.pending = s.pending ∧ s.dev.mem.KeepsBytes t.dev.mem
        ∧ t.dev.sys.core.loads = s.dev.sys.core.loads.filter (fun x => !(x.stack == st && x.addr / 64 == line))
        ∧ t.dev.sys.core.groups = s.dev.sys.core.groups
        ∧ t.dev.sys.core.blocks = s.dev.sys.core.blocks ∧ t.dev.sys.core.stores = s.dev.sys.core.stores
        ∧ t.dev.sys.fab = s.dev.sys.fab
        ∧ (ecc = 0 → (s.dev.mem.lineOf st line).poison = false → t.dev.sys.core.kills = s.dev.sys.core.kills
          ∧ ∀ x ∈ s.dev.sys.core.loads, x.stack = st → x.addr / 64 = line → x.addr % 64 + x.size ≤ 64 →
            (s.dev.sys.core.group? x.gid).isSome = true →
            ∀ c ∈ t.dev.sys.core.collectors, c.gid = x.gid → x.dest ∈ c.dests → ∀ j < max 1 (x.size / 4),
              (x.lane * 256 + x.dest + j, loaded x.sext x.size (leNat ((List.range x.size).map (fun k =>
                s.dev.mem.byteAt st (x.addr + k)))) / 2 ^ (32 * j) % 2 ^ 32) ∈ c.vals))
    ∧ (∀ st ecc, st < 8 → (s.dev.mem.stack st).trained = true → s.dev.sys.unitStopped 0x02 st = false →
        s.dev.sys.unitStopped 0x1B st = false →
      let line := (s.dev.mem.stack st).scrubPos
      ∃ t, exec (.scrubLine st ecc) s = .next t ∧ t.pending = s.pending ∧ s.dev.mem.KeepsBytes t.dev.mem
        ∧ t.dev.sys.core = s.dev.sys.core ∧ t.dev.sys.fab = s.dev.sys.fab
        ∧ (t.dev.mem.stack st).scrubPos = (if line + 1 = 2 ^ 30 then 0 else line + 1)
        ∧ (ecc = 2 ∨ (s.dev.mem.stack st).isPoisoned line = true → ∀ p < 16, s.dev.ownerOf st line = p →
            s.dev.sys.mgmt.rel.mgmtStopped = false → s.dev.sys.partEnabled p = true →
            ⟨p, 0x0203, st, natLe 8 (line * 64) ++ zeros 8⟩ ∈ t.dev.sys.host.events)
        ∧ (ecc = 2 → (t.dev.mem.stack st).isPoisoned line = true)
        ∧ (ecc = 0 → (s.dev.mem.stack st).isPoisoned line = false → t.dev.sys.host = s.dev.sys.host ∧ t.dev.sys.mgmt = s.dev.sys.mgmt))

/-! ## Order, waiting and copies within the cores -/

/-- R231, R232, R235, R248 and log entry 41: a fence issues once the thread's earlier loads and atomics have their values and, for
`fence.sys`, its earlier stores are accepted, unless an earlier `fence.dev` still waits for stores; it orders the thread's pending stores at
its scope, and its core store accesses have taken effect, but at group scope its stores, which then stand before later accesses of the
group; until it may issue nothing changes. FENCE.GRP, FENCE.BLK, FENCE.DEV, FENCE.SYS. -/
def Claims.FencesOrderEarlierAccesses : Prop :=
  ∀ (s : State) (g : Gid) (i : Issue) (sc : Nat) (c : Instr), s.dev.sys.core.Ok → s.dev.Goes 0x70 g i → bits i.inst.mod 1 0 = sc →
    (sc = 0 ∧ c = .fenceGrp g ∨ sc = 1 ∧ c = .fenceBlk g ∨ sc = 2 ∧ c = .fenceDev g ∨ sc = 3 ∧ c = .fenceSys g) →
    let mine (x : PStore) : Prop := x.gid = g ∧ x.block = i.blk.id ∧ ∃ l ∈ i.act, l ∈ x.lanes
    let done := (∀ l ∈ i.act, ∀ x ∈ s.dev.sys.core.loads, ¬(x.gid = g ∧ x.lane = l))
      ∧ ∀ x ∈ s.dev.sys.core.stores, mine x → x.atom = none ∧ x.vis < 3 ∧ sc ≠ 3
    (done → ∃ t, exec c s = .next t ∧ s.OnlyCores t ∧ t.dev.mem = s.dev.mem ∧ t.dev.sys.host = s.dev.sys.host ∧ s.Enters t i
      ∧ t.dev.sys.core.kills = s.dev.sys.core.kills ∧ t.dev.sys.core.stores.length = s.dev.sys.core.stores.length
      ∧ (∀ (k : Nat) (x y : PStore), s.dev.sys.core.stores[k]? = some x → t.dev.sys.core.stores[k]? = some y →
          (mine x → sc < 3 → y = { x with vis := max x.vis (sc + 1) }) ∧ (¬mine x → y = x))
      ∧ s.CsBut t i.blk.id (fun _ => ∃ a ∈ s.dev.sys.core.csPend, a.block = i.blk.id)
      ∧ ∀ a ∈ t.dev.sys.core.csPend, a.gid = g → a.block = i.blk.id → (∃ l ∈ i.act, l ∈ a.lanes) →
          sc = 0 ∧ a.ordered = true ∧ ∃ bs, a.work = .store bs)
    ∧ (¬done → exec c s = .next s)

/-- R192 to R195, R236 and R246: `blk.join` parks its threads until every thread of the block that has not exited has arrived, when the
block's groups all go on and the barrier is free; it orders what they stored, and their core store accesses take effect; another identifier
than the one waited at is a fault, 0x0105. `arr.wait` holds its group until each counter has reached its target, counted modulo 2³²; a
counter out of place is a fault, 0x0101. With no executing thread both fall through. BLK.JOIN, ARR.WAIT. -/
def Claims.GroupsWaitAndGoOn : Prop :=
  ∀ (s : State) (g : Gid) (i : Issue), s.dev.sys.core.Ok →
    let m := i.grp.actMask i.inst
    let id := bits i.inst.mod 3 0
    let after (h : Group) : BitVec 32 := if h.gid = g then h.parkedMask ||| m else h.parkedMask
    let arrived := ((s.dev.sys.blockGroups i.grp.block).map (fun h => maskCount (after h))).sum
    let expected := ((s.dev.sys.blockGroups i.grp.block).map (fun h => maskCount h.live)).sum
    let issues (c : Instr) (P : State → Prop) : Prop := ∃ t, exec c s = .next t ∧ s.OnlyCores t ∧ t.dev.mem = s.dev.mem
        ∧ t.dev.sys.host = s.dev.sys.host ∧ s.CsBut t i.blk.id (fun _ => True) ∧ P t
    let readies := (∀ l ∈ i.act, ∀ x ∈ s.dev.sys.core.loads, ¬(x.gid = g ∧ x.lane = l))
      ∧ ∀ x ∈ s.dev.sys.core.stores, x.gid = g → x.block = i.blk.id → (∃ l ∈ i.act, l ∈ x.lanes) → x.atom = none
    let placed := ∀ l ∈ i.act, i.grp.reg l i.inst.a % 4 = 0 ∧ i.grp.reg l i.inst.a + 4 ≤ i.blk.csBytes
    let passes (c : Instr) : Prop := issues c (fun t => ∃ g', s.Booked t i g' [] ∧ i.NextAt g' ∧ t.dev.sys.core.kills = s.dev.sys.core.kills)
    let joined (t : State) : Prop := s.Enters t i ∧ t.dev.sys.core.kills = s.dev.sys.core.kills
      ∧ (∀ x ∈ t.dev.sys.core.stores, x.gid = g → x.block = i.blk.id → (∃ l ∈ i.act, l ∈ x.lanes) → 2 ≤ x.vis)
      ∧ ∀ a ∈ t.dev.sys.core.csPend, ¬(a.gid = g ∧ a.block = i.blk.id ∧ ∃ l ∈ i.act, l ∈ a.lanes)
    (s.dev.Goes 0x74 g i →
      (¬readies → exec (.blkJoin g) s = .next s)
      ∧ (m = 0 → passes (.blkJoin g))
      ∧ (readies → m ≠ 0 → (i.blk.barrier = none ∨ i.blk.barrier = some id) →
        (arrived ≠ expected → issues (.blkJoin g) (fun t => joined t ∧ ∃ g' b, t.dev.sys.core.group? g = some g'
            ∧ g'.parked = i.grp.parked ++ [⟨i.grp.pc + 1, m, i.grp.stop⟩] ∧ t.dev.sys.blk i.blk.id = some b ∧ b.barrier = some id))
        ∧ (arrived = expected → (∀ h ∈ s.dev.sys.blockGroups i.grp.block, h.stack.length + h.parked.length + 1 ≤ 32) →
            issues (.blkJoin g) (fun t => joined t ∧ (∃ b, t.dev.sys.blk i.blk.id = some b ∧ b.barrier = none)
              ∧ ∀ h ∈ t.dev.sys.blockGroups i.grp.block, h.parked = [])))
      ∧ (readies → m ≠ 0 → (∃ x, i.blk.barrier = some x ∧ x ≠ id) →
        issues (.blkJoin g) (fun t => t.dev.sys.core.kills = s.dev.sys.core.kills ++ [i.kill 0x0105])))
    ∧ (s.dev.Goes 0x81 g i →
      (fenceHeld i s.dev = true → exec (.arrWait g) s = .next s)
      ∧ (fenceHeld i s.dev = false → i.act = [] → passes (.arrWait g))
      ∧ (fenceHeld i s.dev = false → i.act ≠ [] → placed → issues (.arrWait g) (fun t => s.Enters t i
          ∧ t.dev.sys.core.kills = s.dev.sys.core.kills ∧ ∃ g', t.dev.sys.core.group? g = some g'
          ∧ (g'.wait = .none ↔ ∀ l ∈ i.act, ((t.dev.sys.csWord i.blk.id (i.grp.reg l i.inst.a) : Int)
              - i.grp.reg l i.inst.b) % 2 ^ 32 < 2 ^ 31)
          ∧ (g'.wait = .none ∨ g'.wait = .arr (i.act.map (fun l => (l, i.grp.reg l i.inst.a, i.grp.reg l i.inst.b))))))
      ∧ (fenceHeld i s.dev = false → ¬placed →
        issues (.arrWait g) (fun t => t.dev.sys.core.kills = s.dev.sys.core.kills ++ [i.kill 0x0101])))

/-- R239 to R245: copies in order start, one for each executing lane, each in flight with some of its bytes moved and no byte outside its
destination changed; where one is out of order none starts, the kill of the context starts and each such one is counted; at completion
the bytes left move, the copy is gone and its counter rises by 1 modulo 2³². The bytes are stated of one executing lane, of lines
without poison and of a block whose earlier accesses have taken effect. DMA.CS, DMA_COPY_COMPLETE. -/
def Obligations.CopiesMoveTheirBytes : Prop :=
  ∀ (s : State) (g : Gid) (i : Issue) (id : Nat) (c : Copy), s.dev.sys.core.Ok → s.dev.mem.Coherent →
    let ga := copyGa i
    let cs := copyCs i
    let n := copyLen i
    (s.dev.Goes 0x80 g i →
      ((∃ l ∈ i.act, copyOk i s.dev l = false) →
        ∃ t, exec (.dmaCs g) s = .next t ∧ s.OnlyCores t ∧ t.dev.mem = s.dev.mem ∧ s.CsBut t i.blk.id (fun _ => True)
          ∧ t.dev.sys.core.copies = s.dev.sys.core.copies
          ∧ t.dev.sys.core.copyFaults = addAt s.dev.sys.core.copyFaults i.blk.part (i.act.filter (fun l => !copyOk i s.dev l)).length
          ∧ t.dev.sys.core.kills = s.dev.sys.core.kills ++ [i.kill 0x0101])
      ∧ ((∀ l ∈ i.act, copyOk i s.dev l = true) → dmaReady i s.dev = false → exec (.dmaCs g) s = .next s)
      ∧ ((∀ l ∈ i.act, copyOk i s.dev l = true) → fenceHeld i s.dev = false → s.dev.sys.asyncRoom g i.act.length = true →
        (∀ l ∈ i.act, copyClear i s.dev l = true) → (∀ l ∈ i.act, s.dev.CleanRange i.blk.part (ga l) (n l)) →
        ∃ t new, exec (.dmaCs g) s = .next t ∧ s.OnlyCores t ∧ s.Enters t i ∧ t.dev.sys.core.kills = s.dev.sys.core.kills
          ∧ s.CsBut t i.blk.id (fun _ => True) ∧ t.dev.sys.core.copies = s.dev.sys.core.copies ++ new
          ∧ new.length = i.act.length
          ∧ (∀ (k l : Nat) (x : Copy), i.act[k]? = some l → new[k]? = some x →
              x.gid = g ∧ x.lane = l ∧ x.block = i.blk.id ∧ x.part = i.blk.part ∧ x.cs = cs l ∧ x.ga = ga l ∧ x.len = n l
                ∧ x.counter = i.grp.reg l i.inst.d ∧ x.toShofel = bit i.inst.mod 0 ∧ x.noAlloc = bit i.inst.mod 1)
          ∧ (∀ (l : Nat) (x : Copy), i.act = [l] → new = [x] → s.dev.sys.StoreQuiet i.blk.id →
            (x.toShofel = true → (∀ b a, t.dev.sys.csRead b a 1 = s.dev.sys.csRead b a 1)
              ∧ s.dev.KeepsButRange t.dev.mem i.blk.part (ga l) (n l)
              ∧ ∀ j < n l, j ∉ x.todo → [t.dev.byteOf i.blk.part (ga l + j)] = s.dev.sys.csRead i.blk.id (cs l + j) 1)
            ∧ (x.toShofel = false → s.dev.mem.KeepsBytes t.dev.mem ∧ s.CsBut t i.blk.id (fun a => cs l ≤ a ∧ a < cs l + n l)
              ∧ ∀ j < n l, j ∉ x.todo → t.dev.sys.csRead i.blk.id (cs l + j) 1 = [s.dev.byteOf i.blk.part (ga l + j)]))))
    ∧ (s.dev.sys.core.copies.find? (fun x => x.id == id) = some c → s.dev.sys.coreClock = true → ∀ b, s.dev.sys.blk c.block = some b →
        s.dev.sys.dying c.part b.ring = false →
      ∃ t, exec (.dmaCopyComplete id) s = .next t ∧ t.pending = s.pending ∧ t.dev.sys.fab = s.dev.sys.fab ∧ s.RegsKeep t
        ∧ t.dev.sys.core.copies = s.dev.sys.core.copies.filter (fun x => x.id != id)
        ∧ (s.dev.CleanRange c.part c.ga c.len → s.dev.rangeOk c.part c.ga c.len c.toShofel = true →
            (∀ o ∈ s.dev.sys.core.mq, o.drain = true → o.block ≠ c.block) →
            c.snap = (List.range c.len).map (fun j =>
              if c.toShofel then (s.dev.sys.csRead c.block (c.cs + j) 1).headD 0 else s.dev.byteOf c.part (c.ga + j)) →
          t.dev.sys.mgmt = s.dev.sys.mgmt ∧ t.dev.sys.core.kills = s.dev.sys.core.kills
          ∧ t.dev.sys.csWord c.block c.counter = (s.dev.sys.csWord c.block c.counter + 1) % 2 ^ 32
          ∧ (c.toShofel = true → s.CsBut t c.block (fun a => c.counter ≤ a ∧ a < c.counter + 4)
              ∧ s.dev.KeepsButRange t.dev.mem c.part c.ga c.len
              ∧ ∀ j ∈ c.todo, t.dev.byteOf c.part (c.ga + j) = (s.dev.sys.csRead c.block (c.cs + j) 1).headD 0)
          ∧ (c.toShofel = false → s.dev.mem.KeepsBytes t.dev.mem
              ∧ s.CsBut t c.block (fun a => c.counter ≤ a ∧ a < c.counter + 4 ∨ c.cs ≤ a ∧ a < c.cs + c.len)
              ∧ ∀ j ∈ c.todo, t.dev.sys.csRead c.block (c.cs + j) 1 = [s.dev.byteOf c.part (c.ga + j)])))

/-- R185 to R188: in a cycle each bank grants the oldest collector of the quarter that still needs one of its registers the first
such read, and no other collector a read of that bank; an instruction whose sources have all been read leaves its collector, and what it
will write is on its way; results are written oldest first, no two of one bank in a cycle, and then their registers and predicates hold
their values and no longer hold back a later instruction. While the cores' clock has stopped nothing moves. OPERAND_READ, LANE_DISPATCH,
RESULT_WRITEBACK. -/
def Claims.CollectorsBanksAndResults : Prop :=
  ∀ (s : State) (core q : Nat) (g : Gid), s.dev.sys.core.Ok →
    (s.dev.sys.coreClock = false →
      exec (.operandRead core q) s = .next s ∧ exec (.laneDispatch g) s = .next s ∧ exec (.resultWriteback core q) s = .next s)
    ∧ (s.dev.sys.coreClock = true →
      ∃ t, exec (.operandRead core q) s = .next t
      ∧ s.OnlyGroup t g ∧ t.dev.sys.core.groups = s.dev.sys.core.groups ∧ t.dev.sys.core.results = s.dev.sys.core.results
      ∧ t.dev.sys.core.collectors.length = s.dev.sys.core.collectors.length
      ∧ ∀ (k : Nat) (c c' : Collector), s.dev.sys.core.collectors[k]? = some c → t.dev.sys.core.collectors[k]? = some c' →
          c'.gid = c.gid ∧ c'.dests = c.dests ∧ c'.unit = c.unit ∧ c'.vals = c.vals
          ∧ ∀ r, c'.reads.count r = c.reads.count r
              - (if c.gid.core = core ∧ c.gid.quarter = q ∧ c.reads.find? (fun x => x % 4 == r % 4) = some r
                  ∧ ∀ j < k, ∀ e, s.dev.sys.core.collectors[j]? = some e → e.gid.core = core → e.gid.quarter = q →
                      ∀ x ∈ e.reads, x % 4 ≠ r % 4 then 1 else 0))
    ∧ (∀ c, s.dev.sys.coreClock = true → s.dev.sys.core.collectors.find? (fun x => x.gid == g && x.reads == []) = some c →
      ∃ t, exec (.laneDispatch g) s = .next t ∧ s.OnlyGroup t g
        ∧ t.dev.sys.core.collectors = s.dev.sys.core.collectors.erase c
        ∧ t.dev.sys.core.results = s.dev.sys.core.results ++ (if c.dests = [] then [] else [⟨g, c.dests, c.vals⟩])
        ∧ ∀ x ∈ s.dev.sys.core.groups, x.live ≠ 0 ∨ x.busy ≠ [] → x ∈ t.dev.sys.core.groups)
    ∧ (s.dev.sys.coreClock = true →
      ∃ t ws, exec (.resultWriteback core q) s = .next t ∧ s.OnlyCores t ∧ t.dev.mem = s.dev.mem
      ∧ t.dev.sys.host = s.dev.sys.host ∧ t.dev.sys.core.forms = s.dev.sys.core.forms
      ∧ t.dev.sys.core.kills = s.dev.sys.core.kills ∧ t.dev.sys.core.stores = s.dev.sys.core.stores
      ∧ ws.Sublist s.dev.sys.core.results
      ∧ t.dev.sys.core.results.map (fun r => (r.gid, r.dests)) = (s.dev.sys.core.results.diff ws).map (fun r => (r.gid, r.dests))
      ∧ (∀ r ∈ ws, r.gid.core = core ∧ r.gid.quarter = q ∧ s.dev.sys.loading r.gid r.dests = false)
      ∧ ws.Pairwise (fun a b => ∀ x ∈ a.dests, ∀ y ∈ b.dests, x < 256 → y < 256 → x % 4 ≠ y % 4)
      ∧ (∀ r ∈ s.dev.sys.core.results, r.gid.core = core → r.gid.quarter = q → s.dev.sys.loading r.gid r.dests = false → r ∉ ws →
          ∃ e ∈ ws, ∃ x ∈ r.dests, ∃ y ∈ e.dests, x < 256 ∧ y < 256 ∧ x % 4 = y % 4)
      ∧ ∀ h x y, s.dev.sys.core.group? h = some x → t.dev.sys.core.group? h = some y →
          y.live = x.live ∧ y.busy = x.busy.filter (fun r => !ws.any (fun w => w.gid == h && w.dests.contains r))
          ∧ ((∀ a ∈ s.dev.sys.core.csPend, a.gid.core ≠ core) →
              let vs := ((ws.filter (fun w => w.gid == h)).flatMap Result.vals).reverse
              let last (k : Nat) := (vs.find? (fun v => v.1 == k)).map Prod.snd
              (∀ k < 8192, NMap.get y.regs k = (last k).getD (NMap.get x.regs k))
                ∧ ∀ p < 7, y.preds.getD p 0 = ((last (8192 + p)).map (BitVec.ofNat 32)).getD (x.preds.getD p 0)))

/-- R196 and R204 to R209: a group that waits past its budget is reported once, with what it waits for; at the end of a kill the
context's blocks and groups are gone, others stay, its ring stops, and the event of the first fault is queued (with a partition in
reset, or a silent kill, entered in the log alone). PROGRESS_STALLED, KILL_COMPLETE. -/
def Claims.StallsAndKills : Prop :=
  ∀ (s : State),
    (∀ g x b, s.dev.sys.core.group? g = some x → s.dev.sys.blk x.block = some b → x.wait ≠ .none →
        s.dev.sys.dying b.part b.ring = false →
      (x.reported = true → exec (.progressStalled g) s = .next s)
      ∧ (x.reported = false → s.dev.sys.mgmt.rel.mgmtStopped = false → s.dev.sys.partEnabled b.part = true →
          ∃ t y, exec (.progressStalled g) s = .next t ∧ t.pending = s.pending ∧ t.dev.mem = s.dev.mem
            ∧ t.dev.sys.fab = s.dev.sys.fab ∧ s.RegsKeep t ∧ t.dev.sys.core.group? g = some y
            ∧ y = { x with reported := true } ∧ t.dev.sys.core.nWatchdog = s.dev.sys.core.nWatchdog + 1
            ∧ t.dev.sys.host.events = s.dev.sys.host.events ++ [⟨b.part, 0x0110, g.core,
                [BitVec.ofNat 8 g.quarter, BitVec.ofNat 8 g.slot, BitVec.ofNat 8 b.ring,
                  match x.wait with
                  | .none => 0
                  | .join => 1
                  | .arr _ => 2
                  | .mxa _ => 3] ++ natLe 4 b.cmd ++ natLe 4 (8 * x.wpc) ++ zeros 4⟩]))
    ∧ ∀ r k, s.dev.sys.core.kills.find? (fun x => x.ring == r) = some k →
      ∃ t, exec (.killComplete r) s = .next t ∧ t.pending = s.pending
        ∧ (∀ b, b ∈ t.dev.sys.core.blocks ↔ b ∈ s.dev.sys.core.blocks
            ∧ ∀ x ∈ s.dev.sys.core.blocks, x.part = k.part → x.ring = r → x.id ≠ b.id)
        ∧ (∀ x ∈ t.dev.sys.core.groups, x ∈ s.dev.sys.core.groups)
        ∧ (∀ x ∈ t.dev.sys.core.grids, ¬(x.part = k.part ∧ x.ring = r))
        ∧ (∀ x ∈ t.dev.sys.core.kills, ¬(x.part = k.part ∧ x.ring = r))
        ∧ (∀ x ∈ s.dev.sys.core.kills, ¬(x.part = k.part ∧ x.ring = r) → x ∈ t.dev.sys.core.kills)
        ∧ ((s.dev.sys.ring r).inEffect = true → (t.dev.sys.ring r).state = 4)
        ∧ (k.silent = false → s.dev.sys.resetting k.part = false → s.dev.sys.mgmt.rel.mgmtStopped = false →
            s.dev.sys.partEnabled k.part = true →
            ⟨k.part, k.code, k.source, (k.detail ++ zeros 16).take 16⟩ ∈ t.dev.sys.host.events)

/-! ## The matrix array and grids -/

/-- R259 to R273: an issue or drain with a sound descriptor, read when it issues, enters its core's queue of 24, waits while the queue
is full or a `fence.dev` of its threads is, and starts the kill of its context when the descriptor is out of place (0x0101), malformed
(0x0104) or names bytes out of the allocation (0x0101); a wait holds its group for exactly the queued operations of its block that cover
a granule of the tile, and a tile out of the allocation is a fault, 0x0103. With no executing thread all three fall through. MXA.ISSUE,
MXA.DRAIN, MXA.WAIT. -/
def Obligations.MatrixQueueTakesDescriptors : Prop :=
  ∀ (s : State) (g : Gid) (i : Issue), s.dev.sys.core.Ok →
    let a := leadReg i i.inst.a
    let placed := a % 64 = 0 ∧ a + 64 ≤ i.blk.csBytes
    let e := s.dev.sys.expertOn i.blk.part
    let len := (s.dev.sys.core.mq.filter (fun o => o.core == g.core)).length
    let issues (c : Instr) (P : State → Prop) : Prop := ∃ t, exec c s = .next t ∧ s.OnlyCores t ∧ t.dev.mem = s.dev.mem
      ∧ t.dev.sys.host = s.dev.sys.host ∧ s.RegsKeep t ∧ s.CsBut t i.blk.id (fun _ => True) ∧ P t
    let ops (t : State) : List (Nat × List Byte) := t.dev.sys.core.mq.map (fun o => (o.id, o.desc))
    let killed (code : Nat) (t : State) : Prop := ops t = ops s ∧ t.dev.sys.core.kills = s.dev.sys.core.kills ++ [i.kill code]
    let takes (c : Instr) (drain : Bool) (wf : List Byte → Bool) (inRange : List Byte → Bool) : Prop :=
      ((i.act ≠ [] ∧ (fenceHeld i s.dev = true ∨ 24 ≤ len)) → exec c s = .next s)
      ∧ (i.act = [] → issues c (fun t => ∃ g', s.Booked t i g' [] ∧ i.NextAt g' ∧ ops t = ops s))
      ∧ (i.act ≠ [] → fenceHeld i s.dev = false → len < 24 → issues c (fun t =>
        let ds := t.dev.sys.csRead i.blk.id a 64
        (¬placed → killed 0x0101 t)
        ∧ (placed → wf ds = false → killed 0x0104 t)
        ∧ (placed → wf ds = true → inRange ds = false → killed 0x0101 t)
        ∧ (placed → wf ds = true → inRange ds = true → s.Enters t i ∧ t.dev.sys.core.kills = s.dev.sys.core.kills
          ∧ ∃ o, t.dev.sys.core.mq.getLast? = some o ∧ ops t = ops s ++ [(o.id, ds)] ∧ o.core = g.core ∧ o.block = i.blk.id ∧ o.gid = g
            ∧ o.pc = i.grp.pc ∧ o.drain = drain ∧ (t.dev.sys.blk i.blk.id).map Block.store = some o.snap
            ∧ o.chunk = s.dev.sys.cfgN 0x5000 1 ∧ o.headroom = s.dev.sys.cfgN 0x5000 2 ∧ o.out = none)))
    (s.dev.Goes 0x88 g i → takes (.mxaIssue g) false (issueWf e i.blk.accN) (issueRanges i.blk))
    ∧ (s.dev.Goes 0x89 g i → takes (.mxaDrain g) true (drainWf e i.blk.accN) (drainRangesOk i.blk))
    ∧ (s.dev.Goes 0x8A g i →
      (fenceHeld i s.dev = true → exec (.mxaWait g) s = .next s)
      ∧ (i.act = [] → issues (.mxaWait g) (fun t => ∃ g', s.Booked t i g' [] ∧ i.NextAt g'))
      ∧ (fenceHeld i s.dev = false → i.act ≠ [] → i.blk.accN ≤ a → issues (.mxaWait g) (killed 0x0103))
      ∧ (fenceHeld i s.dev = false → i.act ≠ [] → a < i.blk.accN → issues (.mxaWait g) (fun t => s.Enters t i
        ∧ t.dev.sys.core.kills = s.dev.sys.core.kills ∧ ∃ g', t.dev.sys.core.group? g = some g'
        ∧ ((∀ o ∈ s.dev.sys.core.mq, o.block ≠ i.blk.id) → g'.wait = .none)
        ∧ ∀ o ∈ s.dev.sys.core.mq, o.block = i.blk.id → coversOverlap (s.dev.sys.mxCover o) (a, 1) = true →
            ∃ ids, g'.wait = .mxa ids ∧ o.id ∈ ids)))

/-- R254, R255, R258, R269, R271, R298 to R303: the issue operation of a core's queue leaves it once no drain ahead covers its granules;
it adds to each element of its tile the products of its operands, INT8 exactly and wrapped to 32 bits, other formats chunk by chunk, from
zero where the tile is initialised; its granules carry the tile's tag, and nothing outside the tile changes. A granule that carries
another tile's tag is a fault, 0x0104. The values are stated of a core store unchanged since the issue. MXA_OPERATION_COMPLETE. -/
def Claims.MatrixOperationAccumulates : Prop :=
  ∀ (s : State) (core : Nat) (o : MxOp) (b : Block), s.dev.sys.core.Ok → s.dev.sys.coreClock = true →
    s.dev.sys.core.mq.find? (fun q => q.core == core && !q.drain) = some o → s.dev.sys.blk o.block = some b →
    s.dev.sys.dying b.part b.ring = false →
    (ahead s.dev.sys o).all (fun q => !(q.drain && q.block == o.block && coversOverlap (s.dev.sys.mxCover q) (s.dev.sys.mxCover o))) = true →
    let x := IssueD.of o.desc
    let byte (a : Nat) : Nat := (cellGet b.store a).toNat
    let old (w : Nat) : Nat := if x.init then 0 else b.accWord x.tile w
    let tagged := x.init = true ∨ b.tagsOk x.tile x.granules x.fmt x.m x.n = true
    ∃ t b', exec (.mxaOperationComplete core) s = .next t ∧ s.OnlyCores t ∧ t.dev.mem = s.dev.mem
      ∧ t.dev.sys.host = s.dev.sys.host
      ∧ s.RegsKeep t ∧ (∀ id, id ≠ o.block → t.dev.sys.blk id = s.dev.sys.blk id)
      ∧ t.dev.sys.core.mq = s.dev.sys.core.mq.filter (fun q => q.id != o.id)
      ∧ t.dev.sys.blk o.block = some b' ∧ b'.store = b.store
      ∧ (¬tagged → b' = b ∧ ∃ k, t.dev.sys.core.kills = s.dev.sys.core.kills ++ [k] ∧ k.part = b.part ∧ k.ring = b.ring ∧ k.code = 0x0104)
      ∧ (tagged → t.dev.sys.core.kills = s.dev.sys.core.kills
        ∧ (∀ k, ¬(x.tile * 256 ≤ k ∧ k < (x.tile + x.granules) * 256) → NMap.get b'.acc k = NMap.get b.acc k)
        ∧ (∀ j < x.granules, b'.tag (x.tile + j) = some ⟨x.tile + j, x.tile, x.fmt, x.m, x.n⟩)
        ∧ (x.aFmt = 7 → o.snap = b.store → ∀ m < x.m, ∀ n < x.n, (b'.accWord x.tile (m * x.n + n) : Int)
          = (old (m * x.n + n) + ((List.range x.k).map (fun k =>
              toSigned 8 (byte (x.a + m * x.aStr + k)) * (if x.bFmt = 7 then toSigned 8 (byte (x.b + n * x.bStr + k))
                else toSigned 8 (x.opB.code byte n k)))).sum) % 2 ^ 32)
        ∧ (x.aFmt ≠ 7 → x.pair = false → o.snap = b.store → ∀ m < x.m, ∀ n < x.n,
          b'.accWord x.tile (m * x.n + n)
            = (elemF x byte (chunkSize x.chunk o.chunk) m n ⟨old (m * x.n + n), 0, 0⟩).total))

/-- R260, R268 to R271, R276 to R278, R704: the first drain of a core's queue leaves it once no issue ahead covers its granules; a tag of
another tile is a fault, 0x0104; where a row or column sum does not agree with its checksum the rows that disagree are not written and the
context's kill starts with DATAPATH_ERROR 0x0106. A drain of FP32 output writes each row of its tile, low element first, at its row's
place and nothing else of the core store, and empties the tile's granules where it clears. The bytes are stated of a core store unchanged
since the issue, a plain FP32 tile, and neither scales nor Sieve. MXA_DRAIN_COMPLETE. -/
def Claims.DrainWritesItsTile : Prop :=
  ∀ (s : State) (core : Nat) (o : MxOp) (b : Block), s.dev.sys.core.Ok → s.dev.sys.coreClock = true →
    s.dev.sys.core.mq.find? (fun q => q.core == core && q.drain) = some o → s.dev.sys.blk o.block = some b →
    s.dev.sys.dying b.part b.ring = false →
    let x := DrainD.of o.desc
    let fmt := b.drainFmt x
    let cnt := tileGranules x.m x.n (if fmt = 1 then 8 else 4)
    (ahead s.dev.sys o).all (fun q => !(!q.drain && q.block == o.block && coversOverlap (s.dev.sys.mxCover q) (x.tile, cnt))) = true →
    let th := s.dev.sys.cfgN 0x5120 1
    let badRow (m : Nat) : Prop := m < x.m ∧ b.rowFails fmt th x m = true
    let badCol (n : Nat) : Prop := n < x.n ∧ b.colFails fmt th x n = true
    let row (m : Nat) : List Byte := ((List.range x.n).map (fun n => natLe 4 (b.accWord x.tile (m * x.n + n)))).flatten
    let inRow (a m : Nat) : Prop := x.dst + m * x.dstStr ≤ a ∧ a < x.dst + m * x.dstStr + 4 * x.n
    ∃ t, exec (.mxaDrainComplete core) s = .next t ∧ t.pending = s.pending ∧ t.dev.mem = s.dev.mem
      ∧ t.dev.sys.fab = s.dev.sys.fab ∧ s.RegsKeep t ∧ s.CsBut t o.block (fun _ => True)
      ∧ t.dev.sys.core.mq.map MxOp.id = (s.dev.sys.core.mq.filter (fun q => q.id != o.id)).map MxOp.id
      ∧ (b.tagsOk x.tile cnt fmt x.m x.n = false → t.dev.sys.blk o.block = some b
          ∧ ∃ k ∈ t.dev.sys.core.kills, k.part = b.part ∧ k.ring = b.ring ∧ k.code = 0x0104)
      ∧ (b.tagsOk x.tile cnt fmt x.m x.n = true →
        ((∃ k, badRow k ∨ badCol k) → ∃ k ∈ t.dev.sys.core.kills, k.part = b.part ∧ k.ring = b.ring ∧ k.code = 0x0106)
        ∧ ((∀ k, ¬badRow k ∧ ¬badCol k) → t.dev.sys.core.kills = s.dev.sys.core.kills
          ∧ ∃ b', t.dev.sys.blk o.block = some b'
            ∧ (x.clear = true → ∀ j < cnt, b'.tag (x.tile + j) = none ∧ ∀ w < 256, b'.accWord (x.tile + j) w = 0)
            ∧ (x.clear = false → b'.tags = b.tags ∧ b'.acc = b.acc))
        ∧ (o.snap = b.store → o.out = none → x.out = 8 → fmt = 0 → x.mode = 0 → x.sieve = false → 4 * x.n ≤ x.dstStr →
          (∀ m < x.m, ¬badRow m → t.dev.sys.csRead o.block (x.dst + m * x.dstStr) (4 * x.n) = row m)
          ∧ s.CsBut t o.block (fun a => ∃ m < x.m, ¬badRow m ∧ inRow a m)))

/-- R170 to R177, R221, R257, R620: a LAUNCH of no blocks completes at once, one that no core can hold completes MALFORMED, one that fits makes its grid; a block placed on a core
with room is resident with zero core store and empty granules, each group's threads at instruction 0 with their numbers in r0 to r4
and no other register set; a block whose threads have all exited frees its core, and the grid's last one completes the LAUNCH.
LAUNCH, BLOCK_PLACE, BLOCK_END. -/
def Obligations.GridsPlaceAndEndBlocks : Prop :=
  ∀ (s : State), s.dev.mem.Coherent →
    (∀ r idx c, s.dev.sys.startedCmd r idx 1 0 = some c →
      let f (o n : Nat) := field c.bytes o n
      (f 28 4 = 0 → ∃ t, exec (.launch r idx) s = .next t ∧ t.pending = s.pending ∧ t.dev.sys.core = s.dev.sys.core
        ∧ t.dev.sys.fab = s.dev.sys.fab ∧ s.KeepsButPages t ∧ (t.dev.sys.ring r).cmds = (s.dev.sys.ring r).cmds.filter (fun x => x.uid != c.uid)
        ∧ ∃ d, (t.dev.sys.ring r).records = (s.dev.sys.ring r).records ++ [d] ∧ d.status = 0 ∧ d.uid = c.uid)
      ∧ (f 28 4 ≠ 0 → (fitsEmpty (f 32 2) (f 34 2) (f 36 4) (f 40 2) = false ∨ ∀ k < 144, s.dev.sys.coreUsable (s.dev.sys.ringPart r) k = false) →
        ∃ t, exec (.launch r idx) s = .next t ∧ t.pending = s.pending ∧ t.dev.sys.core = s.dev.sys.core
        ∧ t.dev.sys.fab = s.dev.sys.fab ∧ s.KeepsButPages t ∧ (t.dev.sys.ring r).cmds = (s.dev.sys.ring r).cmds.filter (fun x => x.uid != c.uid)
        ∧ ∃ d, (t.dev.sys.ring r).records = (s.dev.sys.ring r).records ++ [d] ∧ d.status = 1 ∧ d.uid = c.uid)
      ∧ (f 28 4 ≠ 0 → fitsEmpty (f 32 2) (f 34 2) (f 36 4) (f 40 2) = true →
          (∃ k < 144, s.dev.sys.coreUsable (s.dev.sys.ringPart r) k = true) →
        ∃ t, exec (.launch r idx) s = .next t ∧ t.pending = s.pending ∧ t.dev.sys.fab = s.dev.sys.fab ∧ s.KeepsButPages t
          ∧ t.dev.sys.core = { s.dev.sys.core with grids := s.dev.sys.core.grids ++ [
              { uid := c.uid, part := s.dev.sys.ringPart r, ring := r, cmd := idx, codeAddr := f 16 8, codeBytes := f 24 4,
                blocks := f 28 4, threads := f 32 2, regsPer := f 34 2, csBytes := f 36 4, accN := f 40 2, argAddr := f 48 8,
                nextBlock := 0, ended := 0, images := [] }] }))
    ∧ (∀ uid core slots gr code, s.dev.sys.core.grids.find? (fun x => x.uid == uid) = some gr →
        s.dev.sys.coreRuns = true → s.dev.sys.unitStopped 0x0F 0 = false → s.dev.sys.resetting gr.part = false →
        s.dev.sys.dying gr.part gr.ring = false → gr.nextBlock < gr.blocks → s.dev.sys.coreUsable gr.part core = true →
        s.dev.sys.roomFor gr core slots = true → s.dev.rangeOk gr.part gr.codeAddr gr.codeBytes false = true →
        (gr.images.find? (fun x => x.1 == core) = some (core, code)
          ∨ gr.images.find? (fun x => x.1 == core) = none ∧ s.dev.CleanRange gr.part gr.codeAddr gr.codeBytes
            ∧ code = (List.range (gr.codeBytes / 8)).map (fun k => BitVec.ofNat 64 (leNat ((List.range 8).map (fun j =>
                s.dev.byteOf gr.part (gr.codeAddr + 8 * k + j)))))) →
      ∃ t b new, exec (.blockPlace uid core slots) s = .next t ∧ t.pending = s.pending ∧ t.dev.sys.fab = s.dev.sys.fab
        ∧ s.KeepsButPages t
        ∧ t.dev.sys.core.blocks = s.dev.sys.core.blocks ++ [b] ∧ t.dev.sys.core.groups = s.dev.sys.core.groups ++ new
        ∧ b.part = gr.part ∧ b.ring = gr.ring ∧ b.core = core ∧ b.bidx = gr.nextBlock ∧ b.code = code ∧ b.store = []
        ∧ b.acc = [] ∧ b.tags = [] ∧ b.regsPer = gr.regsPer ∧ b.csBytes = gr.csBytes ∧ b.accN = gr.accN
        ∧ new.length = (gr.threads + 31) / 32
        ∧ ∀ j x, new[j]? = some x → x.gid = ⟨core, j % 4, slots.getD j 0⟩ ∧ x.block = b.id ∧ x.pc = 0 ∧ x.wait = .none
            ∧ x.live = x.mask ∧ (∀ l < 32, x.live.getLsbD l = decide (32 * j + l < gr.threads))
            ∧ ∀ l < 32, x.reg l 0 = 32 * j + l ∧ x.reg l 1 = gr.nextBlock ∧ x.reg l 2 = gr.argAddr % 2 ^ 32
                ∧ x.reg l 3 = gr.argAddr / 2 ^ 32 ∧ x.reg l 4 = core ∧ ∀ r, 5 ≤ r → r < 256 → x.reg l r = 0)
    ∧ (∀ id b gr, s.dev.sys.blk id = some b → s.dev.sys.coreRuns = true → s.dev.sys.dying b.part b.ring = false →
        s.dev.sys.blockDone b = true → s.dev.sys.core.grids.find? (fun x => x.uid == b.uid) = some gr →
      ∃ t, exec (.blockEnd id) s = .next t ∧ t.pending = s.pending ∧ t.dev.sys.fab = s.dev.sys.fab ∧ s.KeepsButPages t
        ∧ t.dev.sys.core.groups = s.dev.sys.core.groups
        ∧ t.dev.sys.core.blocks = s.dev.sys.core.blocks.filter (fun x => x.id != id)
        ∧ (gr.ended + 1 ≠ gr.blocks → (t.dev.sys.core.grids.find? (fun x => x.uid == b.uid)).map Grid.ended = some (gr.ended + 1))
        ∧ (gr.ended + 1 = gr.blocks → (∀ x ∈ t.dev.sys.core.grids, x.uid ≠ b.uid)
            ∧ ∀ c, (s.dev.sys.ring b.ring).cmds.find? (fun x => x.uid == b.uid) = some c →
                ∃ d, (t.dev.sys.ring b.ring).records = (s.dev.sys.ring b.ring).records ++ [d] ∧ d.status = 0 ∧ d.uid = b.uid))

/-! ## Kettle engines (KETTLE_DESCRIPTOR_START to ROOT_ATTEMPT, GEMV_LIST, COPY_SCALE_PASS) -/

namespace Sys2Proof.Machine

/-- The status word of a descriptor (Table 9-5) at its place. -/
def statusWord (a code attempts detail : Nat) : Nat × List Byte := (a + 60, natLe 4 (code + 256 * attempts + 65536 * detail))

/-- The sources of a task: free of poison, and as they stood at its start. -/
def Dev.SourcesStand (d : Dev) (x : KTask) : Prop :=
  (∀ r ∈ x.reads, d.CleanRange x.part r.addr r.len)
    ∧ x.snap = x.reads.map (fun r => (r.addr, (List.range r.len).map (fun j => d.byteOf x.part (r.addr + j))))

/-- Nothing has written to a task's destinations since its start. -/
def Dev.DestsStand (d : Dev) (x : KTask) : Prop := ∀ r ∈ x.under, r.2 = (List.range r.2.length).map (fun j => d.byteOf x.part (r.1 + j))

/-- Writes whose bytes are each that of `ws` or the one found. -/
def Dev.Blends (d : Dev) (p : Nat) (ws ws' : List (Nat × List Byte)) : Prop :=
  ws'.length = ws.length ∧ ∀ (k : Nat) (w w' : Nat × List Byte), ws[k]? = some w → ws'[k]? = some w' → w'.1 = w.1 ∧ w'.2.length = w.2.length
    ∧ ∀ j < w.2.length, w'.2[j]? = w.2[j]? ∨ w'.2[j]? = some (d.byteOf p (w.1 + j))

end Sys2Proof.Machine

/-- R335, R339, R340 and R342: a pending descriptor whose engine is free and whose earlier descriptors allow it starts, with its
sources as they stand, and may have written no byte but of its outputs; a suspended one goes on; at the end of a turn the running
one's partition is charged 4,096 cycles, and only where another partition's descriptor waits may it be suspended.
KETTLE_DESCRIPTOR_START, KETTLE_TURN_END. -/
def Obligations.DescriptorsStartAndTakeTurns : Prop :=
  ∀ (s : State) (id stack engine : Nat) (x : KTask), s.dev.mem.Coherent →
    (s.dev.sys.task? id = some x → s.dev.sys.ready = true → s.dev.sys.engineFree x.stack x.kind = true →
        s.dev.sys.taskReady x = true → (s.dev.mem.stack x.stack).trained = true →
      (x.phase = 2 → ∃ t, exec (.kettleDescriptorStart id) s = .next t ∧ t.pending = s.pending ∧ s.KeepsButPages t
        ∧ t.dev.sys.core = s.dev.sys.core ∧ t.dev.sys.fab = s.dev.sys.fab ∧ t.dev.sys.task? id = some { x with phase := 1 })
      ∧ (x.phase = 0 → (∀ r ∈ x.reads, s.dev.CleanRange x.part r.addr r.len) →
        ∃ t, exec (.kettleDescriptorStart id) s = .next t ∧ t.pending = s.pending ∧ t.dev.sys.core = s.dev.sys.core
          ∧ t.dev.sys.fab = s.dev.sys.fab
          ∧ (∃ under, t.dev.sys.task? id = some { x with
              phase := 1
              snap := x.reads.map (fun r => (r.addr, (List.range r.len).map (fun j => s.dev.byteOf x.part (r.addr + j))))
              under := under })
          ∧ (∀ k, k ≠ id → t.dev.sys.task? k = s.dev.sys.task? k)
          ∧ ∀ st L, (∀ rd, (st, L) ∉ s.dev.places x.part (x.outs rd)) → ¬s.dev.PageByte st L →
              t.dev.mem.byteAt st L = s.dev.mem.byteAt st L))
    ∧ (s.dev.sys.host.tasks.find? (fun t => t.stack == stack && t.kind == engine && t.phase == 1) = some x → x.part < 16 → s.dev.sys.Sized →
      ∃ t, exec (.kettleTurnEnd stack engine) s = .next t ∧ t.pending = s.pending ∧ t.dev.mem = s.dev.mem
        ∧ t.dev.sys.core = s.dev.sys.core ∧ t.dev.sys.fab = s.dev.sys.fab ∧ t.dev.sys.mgmt = s.dev.sys.mgmt
        ∧ (t.dev.sys.part x.part).kettleCycles = min ((s.dev.sys.part x.part).kettleCycles + 4096) (2 ^ 64 - 1)
        ∧ (t.dev.sys.host.tasks = s.dev.sys.host.tasks
          ∨ (∃ y ∈ s.dev.sys.host.tasks, y.stack = stack ∧ y.kind = engine ∧ y.part ≠ x.part ∧ (y.phase = 0 ∨ y.phase = 2))
            ∧ t.dev.sys.host.tasks = s.dev.sys.host.tasks.map (fun y => if y.id = x.id then { y with phase := 2 } else y)))

/-- R340, R341, R345 to R357 and Table 9-5: a running descriptor of a command ends by writing its results and then its status word,
and no other byte: a GEMV the products its rows give, a Scale pass its elements and scales, an update its alternate bank, a root its
matrix; a byte that another unit has written since the start holds one of the two values (R27); the task stands completed with that
status, or, the last of its command, takes it along into the command's end. Stated of sources that stand as at the start, and of
results at distinct places without poison. GEMV_DESCRIPTOR_COMPLETE,
SCALE_PASS_DESCRIPTOR_COMPLETE, UPDATE_DESCRIPTOR_COMPLETE. -/
def Claims.DescriptorsWriteTheirResults : Prop :=
  ∀ (s : State) (id : Nat) (x : KTask), s.dev.mem.Coherent → s.dev.sys.task? id = some x → x.owner = 0 → x.phase = 1 →
    s.dev.sys.ready = true → s.dev.sys.kettleRuns x.stack = true →
    s.dev.SourcesStand x →
    let rd := readBack x.snap
    let ends (c : Instr) (ws : List (Nat × List Byte)) (code detail : Nat) : Prop :=
      s.dev.Writable x.part (ws ++ [statusWord x.addr code 0 detail]) →
      ∃ t ws', exec c s = .next t ∧ t.pending = s.pending ∧ s.Wrote t x.part (ws' ++ [statusWord x.addr code 0 detail])
        ∧ s.dev.Blends x.part ws ws' ∧ (s.dev.DestsStand x → ws' = ws)
        ∧ t.dev.sys.core = s.dev.sys.core
        ∧ ((∃ y ∈ s.dev.sys.host.tasks, x.kin y = true ∧ y.id ≠ id ∧ y.phase ≠ 3) →
            t.dev.sys.fab.epochs.map Epoch.state = s.dev.sys.fab.epochs.map Epoch.state
            ∧ t.dev.sys.task? id = some { x with phase := 3, status := code })
        ∧ ((∀ y ∈ s.dev.sys.host.tasks, x.kin y = true → y.id = id ∨ y.phase = 3) →
            ∀ y ∈ t.dev.sys.host.tasks, x.kin y = false)
    (x.kind = 1 → x.gemv.dst = 0 → ends (.gemvDescriptorComplete id) (x.gemv.outs rd x.vectors x.gemv.v) 0 0)
    ∧ (x.kind = 2 → ends (.scalePassDescriptorComplete id) ((ScaleD.of x.desc).run rd x.setting).writes
        ((ScaleD.of x.desc).run rd x.setting).status ((ScaleD.of x.desc).run rd x.setting).detail)
    ∧ (x.kind = 3 → ends (.updateDescriptorComplete id) (x.upd.run rd).writes (if (x.upd.run rd).nonfinite = 0 then 0 else 7) 0)

/-- R355 to R357: an attempt of the root unit that converges writes the root and its status word; one that does not is tried again
with more damping, up to ten attempts, and writes nothing; a matrix with a non-finite value, a bad trace or the tenth failure keeps
the previous root, ROOT_HELD. ROOT_ATTEMPT. -/
def Claims.RootsConvergeOrAreHeld : Prop :=
  ∀ (s : State) (id : Nat) (x : KTask), s.dev.mem.Coherent → s.dev.sys.task? id = some x → x.owner = 0 → x.phase = 1 → x.kind = 4 →
    s.dev.sys.ready = true → s.dev.sys.kettleRuns x.stack = true →
    s.dev.SourcesStand x →
    let rd := readBack x.snap
    let r := RootD.of x.desc
    let held (attempts reason : Nat) : Prop := s.dev.Writable x.part [statusWord x.addr 8 attempts reason] →
      ∃ t, exec (.rootAttempt id) s = .next t ∧ t.pending = s.pending ∧ t.dev.sys.core = s.dev.sys.core
        ∧ s.Wrote t x.part [statusWord x.addr 8 attempts reason] ∧ t.dev.sys.host.rootsHeld = s.dev.sys.host.rootsHeld + 1
    match rootAttemptAt r rd x.setting x.attempts with
    | .ok codes =>
      let ws := [(r.r, (codes.map (natLe 4)).flatten), statusWord x.addr 0 (x.attempts + 1) 0]
      s.dev.Writable x.part ws → s.dev.DestsStand x → ∃ t, exec (.rootAttempt id) s = .next t ∧ t.pending = s.pending
        ∧ t.dev.sys.core = s.dev.sys.core ∧ s.Wrote t x.part ws
    | .error e =>
      (e = 1 → held (x.attempts + 1) 1)
      ∧ (e ≠ 1 → x.attempts = 0 → traceBad r rd = true → held 1 5)
      ∧ (e ≠ 1 → x.attempts = 9 → held 10 e)
      ∧ (e ≠ 1 → x.attempts ≠ 9 → ¬(x.attempts = 0 ∧ traceBad r rd = true) →
          ∃ t, exec (.rootAttempt id) s = .next t ∧ t.pending = s.pending ∧ s.KeepsButPages t
            ∧ t.dev.sys.core = s.dev.sys.core ∧ t.dev.sys.task? id = some { x with attempts := x.attempts + 1 })

/-- R338, R344, R621 and R622: a GEMV or Scale pass command's list is checked whole before any of it starts: with the partition's
Kettle enable 0 the command completes MALFORMED, with a failing descriptor too and nothing starts; an empty list completes OK; a sound
one makes one pending task a descriptor, in list order. GEMV_LIST, COPY_SCALE_PASS. -/
def Obligations.ListsAreCheckedWhole : Prop :=
  ∀ (s : State) (r idx kind : Nat) (c : RCmd) (i : Instr), s.dev.mem.Coherent →
    (kind = 1 ∧ i = .gemvList r idx ∧ s.dev.sys.startedCmd r idx 5 1 = some c
      ∨ kind = 2 ∧ i = .copyScalePass r idx ∧ s.dev.sys.startedCmd r idx 2 2 = some c) →
    let p := s.dev.sys.ringPart r
    let a := field c.bytes 24 8
    let n := if kind = 1 then field c.bytes 32 4 else field c.bytes 40 8
    let desc (k : Nat) := (List.range 64).map (fun j => s.dev.byteOf p (a + 64 * k + j))
    let good (k : Nat) := (s.dev.checkDesc p c.expert false [kind] (desc k)).fail = none
    let ends (status : Nat) : Prop := ∃ t d, exec i s = .next t ∧ t.pending = s.pending ∧ t.dev.sys.host.tasks = s.dev.sys.host.tasks
      ∧ t.dev.sys.fab = s.dev.sys.fab ∧ t.dev.sys.core.blocks = s.dev.sys.core.blocks
      ∧ (t.dev.sys.ring r).records = (s.dev.sys.ring r).records ++ [d] ∧ d.status = status ∧ d.uid = c.uid
      ∧ (t.dev.sys.ring r).cmds.find? (fun y => y.uid == c.uid) = none
    s.dev.CleanRange p a (64 * n) → s.dev.listPoison p c.expert a n = none →
    (field (s.dev.sys.qos p) 0 1 = 0 → ends 1)
    ∧ (field (s.dev.sys.qos p) 0 1 ≠ 0 → n = 0 → ends 0)
    ∧ (field (s.dev.sys.qos p) 0 1 ≠ 0 → (∃ k < n, ¬good k) → ends 1)
    ∧ (field (s.dev.sys.qos p) 0 1 ≠ 0 → n ≠ 0 → (∀ k < n, good k) →
      ∃ t new, exec i s = .next t ∧ t.pending = s.pending ∧ s.KeepsButPages t ∧ t.dev.sys.core = s.dev.sys.core
        ∧ t.dev.sys.fab = s.dev.sys.fab ∧ t.dev.sys.host.tasks = s.dev.sys.host.tasks ++ new ∧ new.length = n
        ∧ ∀ k y, new[k]? = some y → y.order = k ∧ y.owner = 0 ∧ y.uid = c.uid ∧ y.ring = r ∧ y.part = p ∧ y.kind = kind
            ∧ y.addr = a + 64 * k ∧ y.desc = desc k ∧ y.phase = 0
            ∧ y.stack = (s.dev.checkDesc p c.expert false [kind] (desc k)).stack)

/-! ## Decode queues (DECODE_OPEN to TAKE_HEADER_WRITE) -/

namespace Sys2Proof.Machine

/-- The conditions of R364 and R365 on a DECODE_OPEN command `c` of ring `r`, with its 128-byte binding `b`, threshold `t` and path
table. -/
def Dev.OpensQueue (d : Dev) (r : Nat) (c : RCmd) (b : List Byte) (t table : Nat) : Prop :=
  let p := d.sys.ringPart r
  let desc (st : Nat) := (List.range 64).map (fun j => d.byteOf p (bindDesc b st + j))
  let g (st : Nat) := GemvD.of (desc st)
  d.CleanRange p (field c.bytes 24 8) 128 ∧ b = (List.range 128).map (fun j => d.byteOf p (field c.bytes 24 8 + j))
    ∧ t = (if field b 8 1 = 0 then d.sys.cfgN 0x4300 2 else field b 8 1) ∧ table = d.sys.cfgN 0x4300 1
    ∧ field (d.sys.qos p) 0 1 ≠ 0 ∧ field c.bytes 17 1 < 16 ∧ (d.sys.queue (field c.bytes 17 1)).isOpen = false
    ∧ bindingOk b t table = true
    ∧ (∀ st ∈ bindStacks b, bindDesc b st % 64 = 0 ∧ d.rangeOk p (bindDesc b st) 64 false = true ∧ d.CleanRange p (bindDesc b st) 64
        ∧ (d.checkDesc p c.expert true [1] (desc st)).fail = none ∧ (d.checkDesc p c.expert true [1] (desc st)).stack = st
        ∧ (g st).k = bindK b ∧ (d.mem.stack st).trained = true
        ∧ ∀ st' ∈ bindStacks b, (g st).fmt = (g st').fmt ∧ (g st).mode = (g st').mode ∧ (g st).dst = (g st').dst
            ∧ (g st).bf16 = (g st').bf16
            ∧ (st = st' ∨ rowsMeet (bindOff b st) (g st).rows (bindOff b st') (g st').rows = false))
    ∧ (anyArray (bindOverride b) table t = true → d.rangeOk p (field b 16 8) (padded t * 2 * bindK b) true = true)
    ∧ 4 * t * bindK b + d.sys.staged ≤ 4194304

end Sys2Proof.Machine

/-- R363 to R366 and R376: a sound DECODE_OPEN opens its queue, empty, with its binding; where the partition's Kettle enable is 0 it
completes MALFORMED; a close of the partition's own queue hands every waiting take the closed header, closes it, and completes once every
claimed batch has been delivered; a close of a closed queue completes OK. DECODE_OPEN, DECODE_CLOSE. -/
def Claims.DecodeQueuesOpenAndClose : Prop :=
  ∀ (s : State) (r idx : Nat) (c : RCmd), s.dev.mem.Coherent → s.dev.sys.Sized →
    let qn := field c.bytes 17 1
    let q := s.dev.sys.queue qn
    let record (t : State) (status : Nat) : Prop := ∃ d, (t.dev.sys.ring r).records = (s.dev.sys.ring r).records ++ [d]
      ∧ d.status = status ∧ d.uid = c.uid
    (s.dev.sys.startedCmd r idx 5 2 = some c →
      (∀ b th table, s.dev.OpensQueue r c b th table →
        ∃ t, exec (.decodeOpen r idx) s = .next t ∧ t.pending = s.pending ∧ s.KeepsButPages t
          ∧ t.dev.sys.core = s.dev.sys.core ∧ t.dev.sys.fab = s.dev.sys.fab ∧ t.dev.sys.host.tasks = s.dev.sys.host.tasks
          ∧ record t 0 ∧ (t.dev.sys.queue qn).isOpen = true ∧ (t.dev.sys.queue qn).part = s.dev.sys.ringPart r
          ∧ (t.dev.sys.queue qn).t = th ∧ (t.dev.sys.queue qn).binding = b ∧ (t.dev.sys.queue qn).table = table
          ∧ (t.dev.sys.queue qn).cur = [] ∧ (t.dev.sys.queue qn).released = []
          ∧ (t.dev.sys.queue qn).descs.map Prod.fst = bindStacks b
          ∧ ∀ k, k ≠ qn → t.dev.sys.queue k = s.dev.sys.queue k)
      ∧ (s.dev.CleanRange (s.dev.sys.ringPart r) (field c.bytes 24 8) 128 → field (s.dev.sys.qos (s.dev.sys.ringPart r)) 0 1 = 0 →
        ∃ t, exec (.decodeOpen r idx) s = .next t ∧ t.pending = s.pending ∧ record t 1
          ∧ t.dev.sys.host.queues = s.dev.sys.host.queues))
    ∧ (s.dev.sys.startedCmd r idx 5 3 = some c →
      (q.isOpen = false → ∃ t, exec (.decodeClose r idx) s = .next t ∧ t.pending = s.pending ∧ record t 0 ∧ s.KeepsButPages t
        ∧ t.dev.sys.host.queues = s.dev.sys.host.queues ∧ t.dev.sys.core = s.dev.sys.core)
      ∧ (q.isOpen = true → q.part = s.dev.sys.ringPart r →
        ∃ t, exec (.decodeClose r idx) s = .next t ∧ t.pending = s.pending ∧ s.KeepsButPages t ∧ t.dev.sys.fab = s.dev.sys.fab
          ∧ (t.dev.sys.queue qn).isOpen = false ∧ (t.dev.sys.queue qn).takes = [] ∧ (t.dev.sys.queue qn).cur = []
          ∧ (t.dev.sys.queue qn).released = [] ∧ (t.dev.sys.queue qn).claimed = q.claimed
          ∧ (∀ k, k ≠ qn → t.dev.sys.queue k = s.dev.sys.queue k)
          ∧ (q.claimed = [] → record t 0)
          ∧ (q.claimed ≠ [] → (t.dev.sys.ring r).records = (s.dev.sys.ring r).records
            ∧ (t.dev.sys.queue qn).closing = q.closing ++ [(r, c.uid, q.claimed.map (fun x => x.take.id))])
          ∧ ∀ x b, q.takes = [x] → s.dev.sys.blk x.block = some b → s.dev.sys.core.Ok → overlaps x.counter 4 x.buf 320 = false →
            t.dev.sys.csRead x.block x.buf 320 = zeros 8 ++ natLe 1 2 ++ natLe 1 2 ++ zeros 310
            ∧ t.dev.sys.csWord x.block x.counter = (s.dev.sys.csWord x.block x.counter + 1) % 2 ^ 32
            ∧ s.CsBut t x.block (fun a => x.buf ≤ a ∧ a < x.buf + 320 ∨ x.counter ≤ a ∧ a < x.counter + 4)))

/-- R368 and R369: a push of a sound vector, or a take with a sound buffer, waits at its queue; one to a queue that is not open for
the partition starts the kill of its context with MALFORMED_INSTRUCTION, one out of place with 0x0101; with no room among the core's
operations, or behind a `fence.dev`, it waits, and with no executing thread it falls through. DQ.PUSH, DQ.TAKE. -/
def Claims.PushesAndTakesWait : Prop :=
  ∀ (s : State) (g : Gid) (i : Issue), s.dev.sys.core.Ok → s.dev.sys.Sized →
    let qn := i.inst.mod % 16
    let q := s.dev.sys.queue qn
    let a := leadReg i i.inst.a
    let k := leadReg i i.inst.d
    let placed (n : Nat) : Prop := a % 16 = 0 ∧ a + n ≤ i.blk.csBytes ∧ k % 4 = 0 ∧ k + 4 ≤ i.blk.csBytes ∧ overlaps k 4 a n = false
    let mine := q.isOpen = true ∧ q.part = i.blk.part
    let room := fenceHeld i s.dev = false ∧ s.dev.sys.asyncRoom g 1 = true
    let issues (c : Instr) (P : State → Prop) : Prop := ∃ t, exec c s = .next t ∧ s.OnlyCores t ∧ t.dev.mem = s.dev.mem
      ∧ s.RegsKeep t ∧ s.CsBut t i.blk.id (fun _ => True) ∧ (∀ j, j ≠ qn → t.dev.sys.queue j = s.dev.sys.queue j) ∧ P t
    let waits (c : Instr) (n : Nat) (P : State → DecodeQueue → Prop) : Prop :=
      (i.act ≠ [] → ¬room → exec c s = .next s)
      ∧ (i.act = [] → issues c (fun t => t.dev.sys.host = s.dev.sys.host ∧ ∃ g', s.Booked t i g' [] ∧ i.NextAt g'))
      ∧ (i.act ≠ [] → room → mine → placed n → issues c (fun t => s.Enters t i ∧ t.dev.sys.core.kills = s.dev.sys.core.kills
          ∧ P t (t.dev.sys.queue qn)))
      ∧ (i.act ≠ [] → room → ¬mine → issues c (fun t => t.dev.sys.host = s.dev.sys.host
          ∧ t.dev.sys.core.kills = s.dev.sys.core.kills ++ [i.kill 0x0103]))
      ∧ (i.act ≠ [] → room → mine → ¬placed n → issues c (fun t => t.dev.sys.host = s.dev.sys.host
          ∧ t.dev.sys.core.kills = s.dev.sys.core.kills ++ [i.kill 0x0101]))
    (s.dev.Goes 0x8C g i → waits (.dqPush g) (2 * q.k) (fun t q' => ∃ x, q' = { q with pushes := q.pushes ++ [x] }
        ∧ x.gid = g ∧ x.block = i.blk.id ∧ x.part = i.blk.part ∧ x.cs = a ∧ x.counter = k ∧ x.tag = leadReg i i.inst.b
        ∧ x.data = t.dev.sys.csRead i.blk.id a (2 * q.k)))
    ∧ (s.dev.Goes 0x8D g i → waits (.dqTake g) q.takeSize (fun _ q' => ∃ x, q' = { q with takes := q.takes ++ [x] }
        ∧ x.gid = g ∧ x.block = i.blk.id ∧ x.part = i.blk.part ∧ x.buf = a ∧ x.counter = k))

/-- R369 to R376: an accepted vector joins the batch, which its T-th vector releases, and raises the push's counter; the budget
releases a batch that is not empty; a take claims the oldest released batch, on the array's path into the input buffer, else as one
task for each stack and group of vectors; after the last result the header lies in the take's buffer, its counter rises, and a close that waited for this batch alone completes. Stated of
one waiting push or take. PUSH_ACCEPT, BATCH_BUDGET_EXPIRY, TAKE_CLAIM, TAKE_HEADER_WRITE. -/
def Obligations.BatchesFormAndAreTaken : Prop :=
  ∀ (s : State) (qn : Nat) (b : Block), s.dev.sys.core.Ok → s.dev.sys.Sized → s.dev.mem.Coherent → s.dev.sys.ready = true →
    let q := s.dev.sys.queue qn
    let others (t : State) : Prop := t.pending = s.pending ∧ t.dev.sys.fab = s.dev.sys.fab ∧ t.dev.sys.mgmt = s.dev.sys.mgmt
      ∧ (∀ j, j ≠ qn → t.dev.sys.queue j = s.dev.sys.queue j) ∧ s.RegsKeep t
    let resident (id : Nat) : Prop := s.dev.sys.blk id = some b ∧ s.dev.sys.dying b.part b.ring = false
    let raised (t : State) (id k : Nat) : Prop := t.dev.sys.csWord id k = (s.dev.sys.csWord id k + 1) % 2 ^ 32
    (∀ x, qn < 16 → q.isOpen = true → q.pushes = [x] → x.part = q.part → x.data.length = 2 * q.k → resident x.block →
        q.held < 2 * q.t → x.data = s.dev.sys.csRead x.block x.cs (2 * q.k) →
      ∃ t, exec (.pushAccept qn) s = .next t ∧ others t ∧ t.dev.mem = s.dev.mem ∧ raised t x.block x.counter
        ∧ s.CsBut t x.block (fun a => x.counter ≤ a ∧ a < x.counter + 4)
        ∧ (t.dev.sys.queue qn).pushes = []
        ∧ (q.cur.length + 1 ≠ q.t → (t.dev.sys.queue qn).cur = q.cur ++ [⟨x.tag, x.data⟩]
            ∧ (t.dev.sys.queue qn).released = q.released)
        ∧ (q.cur.length + 1 = q.t → (t.dev.sys.queue qn).cur = []
            ∧ (t.dev.sys.queue qn).released = q.released ++ [⟨q.batchSeq, 0, q.cur ++ [⟨x.tag, x.data⟩]⟩]
            ∧ (t.dev.sys.queue qn).batchSeq = (q.batchSeq + 1) % 2 ^ 32))
    ∧ (qn < 16 → q.isOpen = true → q.cur ≠ [] →
      ∃ t, exec (.batchBudgetExpiry qn) s = .next t ∧ others t ∧ t.dev.mem = s.dev.mem ∧ t.dev.sys.core = s.dev.sys.core
        ∧ t.dev.sys.queue qn = { q with
            cur := [], released := q.released ++ [⟨q.batchSeq, 1, q.cur⟩], batchSeq := (q.batchSeq + 1) % 2 ^ 32
            nBudget := q.nBudget + 1 })
    ∧ (∀ x bt rest, qn < 16 → q.isOpen = true → q.takes = [x] → resident x.block → q.released = bt :: rest →
      let arr := arrayPath (bindOverride q.binding) q.table bt.vecs.length
      ∃ t, exec (.takeClaim qn) s = .next t ∧ t.pending = s.pending ∧ t.dev.sys.core = s.dev.sys.core
        ∧ t.dev.sys.fab = s.dev.sys.fab ∧ (t.dev.sys.queue qn).takes = [] ∧ (t.dev.sys.queue qn).released = rest
        ∧ (∃ c, (t.dev.sys.queue qn).claimed = q.claimed ++ [c] ∧ c.take = x ∧ c.batch = bt ∧ c.path = (if arr then 1 else 0)
            ∧ c.results = [] ∧ c.binding = q.binding ∧ c.rows = q.rows)
        ∧ (arr = true → t.dev.sys.host.tasks = s.dev.sys.host.tasks
            ∧ ∀ a bs, a = field q.binding 16 8 →
                bs = (bt.vecs.map PushVec.data).flatten ++ zeros ((padded bt.vecs.length - bt.vecs.length) * 2 * q.k) →
                s.dev.Writable q.part [(a, bs)] → (∀ j < bs.length, t.dev.byteOf q.part (a + j) = bs.getD j 0)
                  ∧ ∀ st L, (st, L) ∉ s.dev.places q.part [(a, bs)] → t.dev.mem.byteAt st L = s.dev.mem.byteAt st L)
        ∧ (arr = false → t.dev.mem = s.dev.mem
            ∧ ∃ new, t.dev.sys.host.tasks = s.dev.sys.host.tasks ++ new
              ∧ (∀ y ∈ new, y.owner = 1 ∧ y.queue = qn ∧ y.uid = x.id ∧ y.part = q.part ∧ y.kind = 1 ∧ y.phase = 0
                  ∧ (y.stack, y.desc) ∈ q.descs ∧ y.vectors = ((bt.vecs.drop y.firstVec).take (GemvD.of y.desc).v).map PushVec.data)
              ∧ ∀ e ∈ q.descs, 0 < (GemvD.of e.2).v → ∀ v < bt.vecs.length, ∃ y ∈ new, y.stack = e.1 ∧ y.desc = e.2
                  ∧ y.firstVec ≤ v ∧ v < y.firstVec + y.vectors.length))
    ∧ (∀ take c, qn < 16 → q.claimed.find? (fun c => c.take.id == take) = some c → c.results = [] → resident c.take.block →
        (∀ y ∈ s.dev.sys.host.tasks, y.owner = 1 → y.queue = qn → y.uid = take → y.phase = 3 ∧ y.status = 0) →
        overlaps c.take.counter 4 c.take.buf 320 = false → c.batch.vecs.length ≤ 64 →
      ∃ t, exec (.takeHeaderWrite qn take) s = .next t ∧ others t ∧ s.KeepsButPages t ∧ raised t c.take.block c.take.counter
        ∧ (t.dev.sys.queue qn).claimed = q.claimed.filter (fun x => x.take.id != take)
        ∧ (∀ e ∈ q.closing, (∀ y ∈ e.2.2, y = take) → ∀ y ∈ (s.dev.sys.ring e.1).cmds, y.uid = e.2.1 →
            ∃ d ∈ (t.dev.sys.ring e.1).records, d.uid = e.2.1 ∧ d.status = 0)
        ∧ s.CsBut t c.take.block (fun a =>
            c.take.buf ≤ a ∧ a < c.take.buf + 320 ∨ c.take.counter ≤ a ∧ a < c.take.counter + 4)
        ∧ ∀ hdr, hdr = t.dev.sys.csRead c.take.block c.take.buf 320 → field hdr 0 4 = c.batch.vecs.length
          ∧ field hdr 4 4 = (if c.path = 1 then padded c.batch.vecs.length else 0) ∧ field hdr 8 1 = c.path % 256
          ∧ field hdr 9 1 = c.batch.release % 256 ∧ field hdr 12 4 = c.batch.seq % 2 ^ 32
          ∧ ∀ v x, c.batch.vecs[v]? = some x → field hdr (16 + 4 * v) 4 = x.tag % 2 ^ 32)

/-! ## Command rings (DOORBELL_NOTICE to COMPLETION_RECORD_WRITE, COPY) -/

namespace Sys2Proof.Machine

/-- A completion record has been made for a command of a ring: its status, and the command has left the ring. -/
def State.Completed (s t : State) (r uid status : Nat) : Prop :=
  (∃ d, (t.dev.sys.ring r).records = (s.dev.sys.ring r).records ++ [d] ∧ d.status = status ∧ d.uid = uid
      ∧ d.seq = (s.dev.sys.ring r).complSeq + 1)
    ∧ (t.dev.sys.ring r).cmds = (s.dev.sys.ring r).cmds.filter (fun x => x.uid != uid)
    ∧ (t.dev.sys.ring r).complSeq = (s.dev.sys.ring r).complSeq + 1

/-- The little-endian number at a partition address. -/
def Dev.numAt (d : Dev) (p a n : Nat) : Nat := leNat ((List.range n).map (fun j => d.byteOf p (a + j)))

/-- What a command of the sequencer leaves alone: the cores, the fabric and the queue. -/
def State.OnlyRings (s t : State) : Prop :=
  t.pending = s.pending ∧ t.dev.sys.core = s.dev.sys.core ∧ t.dev.sys.fab = s.dev.sys.fab

end Sys2Proof.Machine

/-- R613 and R618: at a notice, and for every ring at a poll, the sequencer takes the producer index and the consumed count from the
doorbell page; a stopped ring with no command left resumes at a restart value in range, which it clears; a page that does not
translate stops its ring with reason 5. DOORBELL_NOTICE, DOORBELL_POLL. -/
def Claims.DoorbellPagesAreRead : Prop :=
  ∀ (s : State) (r : Nat), s.dev.mem.Coherent → s.dev.sys.Sized →
    let p := s.dev.sys.ringPart r
    let a := ringAddr (s.dev.sys.ringRec r)
    let g := s.dev.sys.ring r
    (s.dev.sys.serves r = true → s.dev.rangeOk p a 4096 true = true → s.dev.CleanRange p a 24 →
        (∀ c ∈ g.cmds, ¬(c.phase = 1 ∧ c.begun = true ∧ c.kind = 7 ∧ c.op = 2)) →
      (g.state ≠ 4 → ∃ t, exec (.doorbellNotice r) s = .next t ∧ s.OnlyRings t ∧ s.KeepsButPages t
        ∧ (t.dev.sys.ring r).producer = s.dev.numAt p a 8 ∧ (t.dev.sys.ring r).consumed = s.dev.numAt p (a + 8) 8
        ∧ (t.dev.sys.ring r).readIdx = g.readIdx ∧ (t.dev.sys.ring r).cmds = g.cmds)
      ∧ (∀ v, v = s.dev.numAt p (a + 16) 8 → g.state = 4 → v ≠ 0 → g.cmds = [] → s.dev.sys.dying p r = false → g.stop ≠ 4 →
          g.readIdx ≤ v - 1 + ringEntries (s.dev.sys.ringRec r) → v - 1 ≤ s.dev.numAt p a 8 →
        ∃ t, exec (.doorbellNotice r) s = .next t ∧ s.OnlyRings t ∧ (t.dev.sys.ring r).readIdx = v - 1
          ∧ (t.dev.sys.ring r).state = 1))
    ∧ (s.dev.sys.serves r = true → s.dev.rangeOk p a 4096 true = false → g.state ≠ 4 →
      ∃ t, exec (.doorbellNotice r) s = .next t ∧ t.pending = s.pending ∧ (t.dev.sys.ring r).state = 4
        ∧ (t.dev.sys.ring r).stop = 5)
    ∧ ((∀ k < 64, s.dev.sys.serves k = true → (s.dev.sys.ring k).state ≠ 4
          ∧ s.dev.rangeOk (s.dev.sys.ringPart k) (ringAddr (s.dev.sys.ringRec k)) 4096 true = true
          ∧ s.dev.CleanRange (s.dev.sys.ringPart k) (ringAddr (s.dev.sys.ringRec k)) 24) →
      ∃ t, exec .doorbellPoll s = .next t ∧ s.OnlyRings t ∧ s.KeepsButPages t
        ∧ ∀ k < 64, s.dev.sys.serves k = true →
            (t.dev.sys.ring k).producer = s.dev.numAt (s.dev.sys.ringPart k) (ringAddr (s.dev.sys.ringRec k)) 8
            ∧ (t.dev.sys.ring k).consumed = s.dev.numAt (s.dev.sys.ringPart k) (ringAddr (s.dev.sys.ringRec k) + 8) 8)

/-- R608, R614 to R616: the next command is the 64 bytes of its slot; one whose header, fields or ranges fail completes MALFORMED; a
producer index out of range stops the ring with reason 3, a queue pair not ready with reason 4; a read command whose waits have ended
starts. COMMAND_READ, COMMAND_START. -/
def Claims.CommandsAreReadAndStarted : Prop :=
  ∀ (s : State) (r : Nat), s.dev.mem.Coherent → s.dev.sys.Sized →
    let p := s.dev.sys.ringPart r
    let g := s.dev.sys.ring r
    let rec_ := s.dev.sys.ringRec r
    let a := ringAddr rec_ + 4096 + 64 * (g.readIdx % ringEntries rec_)
    let bs := (List.range 64).map (fun j => s.dev.byteOf p (a + j))
    s.dev.sys.serves r = true → g.state ≠ 4 → s.dev.sys.dying p r = false → g.held = false → g.started.length < 64 →
    let inWindow := g.readIdx ≤ g.producer ∧ g.producer ≤ g.oldest + ringEntries rec_
    (g.producer = g.readIdx → inWindow → ∃ t, exec (.commandRead r) s = .next t ∧ s.OnlyRings t ∧ (t.dev.sys.ring r).cmds = g.cmds)
    ∧ (¬inWindow → ∃ t, exec (.commandRead r) s = .next t ∧ s.OnlyRings t ∧ (t.dev.sys.ring r).state = 4 ∧ (t.dev.sys.ring r).stop = 3)
    ∧ (inWindow → g.producer ≠ g.readIdx → s.dev.sys.ringQpReady r = false →
      ∃ t, exec (.commandRead r) s = .next t ∧ s.OnlyRings t ∧ (t.dev.sys.ring r).state = 4 ∧ (t.dev.sys.ring r).stop = 4)
    ∧ (inWindow → g.producer ≠ g.readIdx → s.dev.sys.ringQpReady r = true → s.dev.rangeOk p a 64 true = true →
        s.dev.CleanRange p a 64 → (∀ x ∈ g.cmds, x.uid ≠ s.dev.sys.host.nextCmd) →
      ∃ t, exec (.commandRead r) s = .next t ∧ s.OnlyRings t ∧ s.KeepsButPages t ∧ (t.dev.sys.ring r).readIdx = g.readIdx + 1
        ∧ (s.dev.commandOk p bs = true → ∃ c, (t.dev.sys.ring r).cmds = g.cmds ++ [c] ∧ c.bytes = bs ∧ c.idx = g.readIdx
            ∧ c.phase = 0 ∧ c.begun = false ∧ c.uid = s.dev.sys.host.nextCmd ∧ c.expert = s.dev.sys.expertOn p
            ∧ (t.dev.sys.ring r).records = g.records)
        ∧ (s.dev.commandOk p bs = false → (t.dev.sys.ring r).cmds = g.cmds ∧ ∃ d, (t.dev.sys.ring r).records = g.records ++ [d]
            ∧ d.status = 1 ∧ d.idx = g.readIdx))
    ∧ (∀ c, g.cmds.find? (fun x => x.phase == 0) = some c →
        s.dev.startWaits p (g.cmds.takeWhile (fun x => x.uid != c.uid)) c = false →
        (c.kind = 2 → c.op = 4 ∨ c.op = 5 → s.dev.sys.ringQpReady r = true) →
      ∃ t, exec (.commandStart r) s = .next t ∧ t.pending = s.pending ∧ t.dev.sys.core = s.dev.sys.core ∧ s.KeepsButPages t
        ∧ (∀ x ∈ (t.dev.sys.ring r).cmds, x.uid = c.uid → x.phase = 1)
        ∧ (t.dev.sys.ring r).cmds.map RCmd.uid = g.cmds.map RCmd.uid
        ∧ ∀ x ∈ (t.dev.sys.ring r).cmds, x.uid ≠ c.uid → x ∈ g.cmds)

/-- R623 and R624: a FENCE that comes first in its ring completes once the commands of other rings and the fabric packets it waits
for have ended, and not before; EVENT signal writes its value, eight bytes, and completes; EVENT wait completes when its word has
reached its value, counted modulo 2⁶⁴, and holds its ring until then. FENCE_RING, FENCE_PARTITION, EVENT_SIGNAL, EVENT_WAIT,
EVENT_WAIT_SAMPLE. -/
def Obligations.FencesAndEventsComplete : Prop :=
  ∀ (s : State) (r idx : Nat) (c : RCmd), s.dev.mem.Coherent → s.dev.sys.Sized →
    let p := s.dev.sys.ringPart r
    let a := field c.bytes 24 8
    let v := field c.bytes 32 8
    let reached := ((s.dev.numAt p a 8 : Int) - v) % 2 ^ 64 < 2 ^ 63
    let fence (scope : Nat) (i : Instr) : Prop := s.dev.sys.startedCmd r idx 6 0 = some c → c.op = scope →
      let done := (s.dev.sys.ring r).cmds.head? = some c ∧ s.dev.sys.uidsLive c.waits = false
        ∧ ∀ f ∈ s.dev.sys.fab.fences, f.isCmd = true → f.ring = r → f.idx = idx → f.needs = []
      (done → ∃ t, exec i s = .next t ∧ t.pending = s.pending ∧ t.dev.sys.core = s.dev.sys.core ∧ s.KeepsButPages t
        ∧ s.Completed t r c.uid 0 ∧ ∀ f ∈ t.dev.sys.fab.fences, ¬(f.isCmd = true ∧ f.ring = r ∧ f.idx = idx))
      ∧ (¬done → ∃ t, exec i s = .next t ∧ s.OnlyRings t ∧ (t.dev.sys.ring r).cmds = (s.dev.sys.ring r).cmds)
    fence 0 (.fenceRing r idx) ∧ fence 1 (.fencePartition r idx)
    ∧ (s.dev.sys.startedCmd r idx 7 1 = some c → s.dev.rangeOk p a 8 true = true → s.dev.Writable p [(a, natLe 8 v)] →
      ∃ t, exec (.eventSignal r idx) s = .next t ∧ s.OnlyRings t ∧ s.Wrote t p [(a, natLe 8 v)] ∧ s.Completed t r c.uid 0)
    ∧ (s.dev.sys.startedCmd r idx 7 2 = some c → (∀ x ∈ (s.dev.sys.ring r).cmds, x.begun = false ∨ x.kind ≠ 7 ∨ x.op ≠ 2) →
        (∀ x ∈ (s.dev.sys.ring r).cmds, x.uid = c.uid → x = c) → (∀ x ∈ (s.dev.sys.ring r).cmds, x.idx = idx → x = c) →
        s.dev.rangeOk p a 8 false = true → s.dev.CleanRange p a 8 →
      (reached → ∃ t, exec (.eventWait r idx) s = .next t ∧ s.OnlyRings t ∧ s.KeepsButPages t ∧ s.Completed t r c.uid 0)
      ∧ (¬reached → ∃ t, exec (.eventWait r idx) s = .next t ∧ s.OnlyRings t ∧ s.KeepsButPages t
          ∧ (t.dev.sys.ring r).records = (s.dev.sys.ring r).records ∧ (t.dev.sys.ring r).held = true))
    ∧ (s.dev.sys.serves r = true → s.dev.sys.dying p r = false →
        (s.dev.sys.ring r).cmds.find? (fun x => x.phase == 1 && x.begun && x.kind == 7 && x.op == 2) = some c →
        (∀ x ∈ (s.dev.sys.ring r).cmds, x.idx = c.idx → x = c) →
        s.dev.rangeOk p a 8 false = true → s.dev.CleanRange p a 8 →
      (reached → ∃ t, exec (.eventWaitSample r) s = .next t ∧ s.OnlyRings t ∧ s.KeepsButPages t ∧ s.Completed t r c.uid 0)
      ∧ (¬reached → ∃ t, exec (.eventWaitSample r) s = .next t ∧ s.OnlyRings t ∧ s.KeepsButPages t
          ∧ (t.dev.sys.ring r).cmds = (s.dev.sys.ring r).cmds))

/-- R607, R621, R625 and R626: COPY operation 1 leaves at its destination the bytes of its source as they stood and completes;
operations 4 and 5 enter one RDMA request on the ring's completion queue pair, for no bytes none; the oldest record goes out as one
RDMA write of 32 bytes to its slot when the queue has room and every store of the command has been accepted, and is dropped, the ring
stopping, when the queue pair is not ready. COPY_LOCAL, COPY_HOST_WRITE, COPY_HOST_READ, COMPLETION_RECORD_WRITE. -/
def Obligations.CopiesAndRecordsGoOut : Prop :=
  ∀ (s : State) (r idx : Nat) (c : RCmd), s.dev.mem.Coherent → s.dev.sys.Sized →
    let p := s.dev.sys.ringPart r
    let n := field c.bytes 40 8
    let a := field c.bytes 24 8
    let bytes := (List.range n).map (fun j => s.dev.byteOf p (a + j))
    let q := ringQp (s.dev.sys.ringRec r)
    let sends (t : State) (m : QpReq) : Prop := (t.dev.sys.qp q).outstanding = (s.dev.sys.qp q).outstanding ++ [m]
    (s.dev.sys.startedCmd r idx 2 1 = some c → s.dev.rangeOk p a n false = true → s.dev.CleanRange p a n →
        s.dev.rangeOk p (field c.bytes 32 8) n true = true → s.dev.Writable p [(field c.bytes 32 8, bytes)] →
      ∃ t, exec (.copyLocal r idx) s = .next t ∧ s.OnlyRings t ∧ s.Wrote t p [(field c.bytes 32 8, bytes)]
        ∧ s.Completed t r c.uid 0)
    ∧ (s.dev.sys.startedCmd r idx 2 4 = some c → s.dev.sys.ringQpReady r = true → s.dev.rangeOk p a n false = true →
        s.dev.CleanRange p a n →
      ∃ t, exec (.copyHostWrite r idx) s = .next t ∧ s.OnlyRings t ∧ s.KeepsButPages t ∧ s.Completed t r c.uid 0
        ∧ (n = 0 → t.dev.sys.host.qps = s.dev.sys.host.qps)
        ∧ (n ≠ 0 → sends t ⟨false, field c.bytes 32 8, field c.bytes 48 4, bytes, n, r, some idx, 0⟩))
    ∧ (s.dev.sys.startedCmd r idx 2 5 = some c → s.dev.sys.ringQpReady r = true →
      (n = 0 → ∃ t, exec (.copyHostRead r idx) s = .next t ∧ s.OnlyRings t ∧ s.KeepsButPages t ∧ s.Completed t r c.uid 0)
      ∧ (n ≠ 0 → ((s.dev.sys.qp q).outstanding.filter QpReq.read).length < 16 →
        ∃ t, exec (.copyHostRead r idx) s = .next t ∧ s.OnlyRings t ∧ s.KeepsButPages t
          ∧ sends t ⟨true, a, field c.bytes 48 4, [], n, r, some idx, field c.bytes 32 8⟩
          ∧ ∀ x ∈ (t.dev.sys.ring r).cmds, x.uid = c.uid → x.begun = true)
      ∧ (n ≠ 0 → 16 ≤ ((s.dev.sys.qp q).outstanding.filter QpReq.read).length →
        ∃ t, exec (.copyHostRead r idx) s = .next t ∧ s.OnlyRings t ∧ t.dev.sys.host.qps = s.dev.sys.host.qps
          ∧ (t.dev.sys.ring r).cmds = (s.dev.sys.ring r).cmds))
    ∧ (∀ d rest, s.dev.sys.coreRuns = true → (s.dev.sys.ring r).inEffect = true → s.dev.sys.unitStopped 0x0F 0 = false →
        (s.dev.sys.ring r).records = d :: rest → (∀ x ∈ s.dev.sys.core.stores, x.uid ≠ d.uid) →
        d.seq ≤ (s.dev.sys.ring r).consumed + field (s.dev.sys.ringRec r) 28 4 →
      (s.dev.sys.ringQpReady r = true → ∃ t, exec (.completionRecordWrite r) s = .next t ∧ s.OnlyRings t ∧ s.KeepsButPages t
        ∧ (t.dev.sys.ring r).records = rest
        ∧ sends t ⟨false, field (s.dev.sys.ringRec r) 16 8 + 32 * ((d.seq - 1) % field (s.dev.sys.ringRec r) 28 4),
            field (s.dev.sys.ringRec r) 24 4,
            natLe 8 d.tag ++ natLe 8 d.idx ++ natLe 1 d.status ++ natLe 1 d.kind ++ natLe 1 r ++ natLe 1 p ++ natLe 4 d.detail
              ++ natLe 8 d.seq, 32, r, none, 0⟩)
      ∧ (s.dev.sys.ringQpReady r = false → ∃ t, exec (.completionRecordWrite r) s = .next t ∧ s.OnlyRings t
        ∧ (t.dev.sys.ring r).records = rest ∧ (t.dev.sys.ring r).state = 4 ∧ t.dev.sys.host.qps = s.dev.sys.host.qps))

/-! ## Parameter update (UPDATE_STEP to CTRL_RESEND) -/

namespace Sys2Proof.Machine

/-- A CTRL packet of type `ctype` with a record has been handed to the router for `dest`, with the next number to it (R477). -/
def State.SentCtrl (s t : State) (dest ctype : Nat) (rec_ : List Byte) : Prop :=
  ∃ x ∈ t.dev.sys.fab.router, x.origin = 16 ∧ x.vc = 0 ∧ x.pkt.kind = 8 ∧ x.pkt.dst = dest ∧ x.pkt.src = s.dev.sys.fid
    ∧ x.pkt.offset = ctype ∧ x.pkt.len = 32 ∧ x.pkt.payload = rec_ ∧ x.pkt.seq = NMap.get s.dev.sys.fab.ctrlSeq dest

/-- Packet `p` is the next of its VC in the fabric delivery queue, as `x`, and the router works (R28, R29). -/
def State.Comes (s : State) (p : Pkt) (x : RPkt) : Prop :=
  s.dev.sys.ready = true ∧ s.dev.sys.routerUp = true ∧ pktWf p = true ∧ x.pkt = p
    ∧ s.dev.sys.fab.deliver.find? (fun y => y.pkt == p) = some x
    ∧ (s.dev.sys.fab.deliver.filter (fun y => y.vc == x.vc)).head? = some x

/-- What the epoch machines leave alone. -/
def State.OnlyEpochs (s t : State) : Prop :=
  t.pending = s.pending ∧ t.dev.sys.core = s.dev.sys.core ∧ t.dev.sys.fab.windows = s.dev.sys.fab.windows
    ∧ t.dev.sys.fab.ports = s.dev.sys.fab.ports ∧ t.dev.sys.mgmt.power = s.dev.sys.mgmt.power
    ∧ t.dev.sys.mgmt.dict = s.dev.sys.mgmt.dict

end Sys2Proof.Machine

/-- R390 to R392 and R706: an UPDATE whose slot is on and its partition's, whose list holds only updates and roots with their barrier,
and whose target is the slot's next epoch in step mode or its committed one in publish mode passes its check and waits; any other
completes MALFORMED with the low 32 bits of the committed epoch. At its start in step mode the machine is STAGING with the attempt
next in turn, one task for each descriptor, the roots completed at once where the check found the epoch no multiple of the root interval.
UPDATE_STEP, UPDATE_PUBLISH, UPDATE_START. -/
def Claims.UpdatesAreCheckedAndStart : Prop :=
  ∀ (s : State) (r idx : Nat) (c : RCmd), s.dev.mem.Coherent → s.dev.sys.Sized → s.dev.sys.startedCmd r idx 4 0 = some c →
    c.op < 8 →
    let p := s.dev.sys.ringPart r
    let a := field c.bytes 32 8
    let n := field c.bytes 40 4
    let e := s.dev.sys.epoch c.op
    let desc (k : Nat) := (List.range 64).map (fun j => s.dev.byteOf p (a + 64 * k + j))
    let kindOf (k : Nat) := bits (field (desc k) 0 4) 3 0
    let ok := s.dev.sys.slotOn c.op = true ∧ s.dev.sys.slotPart c.op = p
      ∧ (∀ k < n, kindOf k = 3 ∨ kindOf k = 4 ∧ bit (field (desc k) 0 4) 4 = true)
      ∧ (field c.bytes 17 1 = 1 → field c.bytes 24 8 = e.committed + 1 ∧ s.dev.sys.bmValid = true)
      ∧ (field c.bytes 17 1 = 2 → field c.bytes 24 8 = e.committed)
    let checks (mode : Nat) (i : Instr) : Prop := field c.bytes 17 1 = mode → c.checked = false → s.dev.CleanRange p a (64 * n) →
      (ok → ∃ t, exec i s = .next t ∧ s.OnlyEpochs t ∧ s.KeepsButPages t ∧ t.dev.sys.fab = s.dev.sys.fab
        ∧ (t.dev.sys.ring r).cmds = (s.dev.sys.ring r).cmds.map (fun x => if x.uid = c.uid then
            { x with checked := true, roots := decide (field c.bytes 24 8 % s.dev.sys.cfgN 0x7110 1 = 0) } else x)
        ∧ (t.dev.sys.ring r).records = (s.dev.sys.ring r).records)
      ∧ (¬ok → ∃ t d, exec i s = .next t ∧ s.OnlyEpochs t ∧ s.KeepsButPages t ∧ t.dev.sys.fab = s.dev.sys.fab
        ∧ s.Completed t r c.uid 1 ∧ (t.dev.sys.ring r).records = (s.dev.sys.ring r).records ++ [d]
        ∧ d.detail = e.committed % 2 ^ 32)
    checks 1 (.updateStep r idx) ∧ checks 2 (.updatePublish r idx)
    ∧ (c.checked = true → e.state ≠ 0 → ∃ t, exec (.updateStart r idx) s = .next t ∧ s.OnlyEpochs t
        ∧ t.dev.sys.fab = s.dev.sys.fab ∧ (t.dev.sys.ring r).cmds = (s.dev.sys.ring r).cmds)
    ∧ (c.checked = true → e.state = 0 → field c.bytes 17 1 = 1 → field (s.dev.sys.qos p) 0 1 ≠ 0 → n ≠ 0 →
        s.dev.CleanRange p a (64 * n) → s.dev.listPoison p c.expert a n = none →
        (∀ k < n, (s.dev.checkDesc p c.expert false [3, 4] (desc k)).fail = none) →
        (∀ y ∈ s.dev.sys.host.tasks, y.owner = 0 → y.uid ≠ c.uid) → (∃ k < n, kindOf k = 3) →
      ∃ t e' new, exec (.updateStart r idx) s = .next t ∧ s.OnlyEpochs t ∧ s.KeepsButPages t ∧ t.dev.sys.epoch c.op = e'
        ∧ e'.state = 1 ∧ e'.target = field c.bytes 24 8 ∧ e'.attempt = e.nextAttempt ∧ e'.part = p ∧ e'.uid = c.uid
        ∧ e'.committed = e.committed ∧ (∀ g, g ≠ c.op → t.dev.sys.epoch g = s.dev.sys.epoch g)
        ∧ t.dev.sys.host.tasks = s.dev.sys.host.tasks ++ new ∧ new.length = n
        ∧ ∀ k y, new[k]? = some y → y.order = k ∧ y.uid = c.uid ∧ y.desc = desc k ∧ y.kind = kindOf k
            ∧ (y.phase = 3 ↔ kindOf k = 4 ∧ c.roots = false))

/-- R404, R406, R409 to R411 and R416: a block manager gathers its owners' votes and sends the coordinator STAGED when every owner of
the block has voted so, FAILED at the first FAILED vote or at the end of the budget; the coordinator decides COMMIT when every block
has voted STAGED, ABORT at a FAILED vote or at the end of the budget, and a vote after the decision is counted as late; what no rule
lets the device act on is discarded and counted. OWNER_VOTE_RECEIVE, VOTE_BUDGET_EXPIRY, BLOCK_VOTE_RECEIVE,
COORDINATOR_BUDGET_EXPIRY. -/
def Obligations.VotesBecomeDecisions : Prop :=
  ∀ (s : State) (c : CtrlIn) (rest : List CtrlIn), s.dev.sys.mgmtUp = true →
    let g := recSlot c.payload
    let t₀ := field c.payload 8 8
    let a := field c.payload 20 4
    let v := field c.payload 1 1
    let skip := field (s.dev.sys.slotRec g) 45 1 = 1 ∧ field (s.dev.sys.cfg 0x7000 (g + 9)) 1 1 ≠ 1
    let open_ (l : List Gather) := l.find? (fun x => x.slot == g && x.target == t₀ && x.attempt == a && !x.sent)
    let owner := s.dev.sys.role = 2 ∧ s.dev.sys.slotOn g = true ∧ c.src ∈ s.dev.sys.blockOwners g ∧ (v = 1 ∨ v = 2)
    let voter := s.dev.sys.fidValid = true ∧ s.dev.sys.slotOn g = true ∧ s.dev.sys.coordinator g = s.dev.sys.fid
      ∧ blockOf c.src ∈ (s.dev.sys.ranks g).map blockOf ∧ (v = 1 ∨ v = 2)
    let took (i : Instr) (P : State → Prop) : Prop := ∃ t, exec i s = .next t ∧ s.OnlyEpochs t ∧ t.dev.mem = s.dev.mem
      ∧ t.dev.sys.host = s.dev.sys.host ∧ t.dev.sys.fab.ctrlIn = rest ∧ P t
    let counts (t : State) (k : Nat) : Prop := t.dev.sys.fab.ucounts = addAt s.dev.sys.fab.ucounts k 1
      ∧ t.dev.sys.fab.router = s.dev.sys.fab.router
    let record (t : State) (vote : Nat) (P : List Byte → Prop) : Prop := ∃ rec_, s.SentCtrl t (s.dev.sys.coordinator g) 2 rec_
      ∧ field rec_ 0 1 = g ∧ field rec_ 1 1 = vote ∧ field rec_ 8 8 = t₀ ∧ field rec_ 16 4 = s.dev.sys.fid % 2 ^ 32
      ∧ field rec_ 20 4 = a ∧ P rec_
    (s.dev.sys.fab.ctrlIn = c :: rest → c.ctype = 1 →
      (¬owner → took .ownerVoteReceive (fun t => counts t 6))
      ∧ (owner → decidedBefore s.dev.sys.fab.ownerVotes g t₀ a = true → took .ownerVoteReceive (fun t => counts t 4))
      ∧ (owner → decidedBefore s.dev.sys.fab.ownerVotes g t₀ a = false → v = 2 →
          took .ownerVoteReceive (fun t => record t 2 (fun _ => True) ∧ decidedBefore t.dev.sys.fab.ownerVotes g t₀ a = true))
      ∧ (owner → decidedBefore s.dev.sys.fab.ownerVotes g t₀ a = false → v = 1 → open_ s.dev.sys.fab.ownerVotes = none →
          (s.dev.sys.blockOwners g = [c.src] → took .ownerVoteReceive (fun t => record t 1 (fun r =>
              field r 2 1 = field c.payload 2 1 % 4 ∧ field r 4 4 = field c.payload 4 4)))
          ∧ ((∃ f ∈ s.dev.sys.blockOwners g, f ≠ c.src) → took .ownerVoteReceive (fun t =>
              t.dev.sys.fab.router = s.dev.sys.fab.router ∧ (open_ t.dev.sys.fab.ownerVotes).map Gather.votes = some [(c.src, c.payload)]))))
    ∧ (s.dev.sys.fab.ctrlIn = c :: rest → c.ctype = 2 →
      (¬voter → took .blockVoteReceive (fun t => counts t 6))
      ∧ (voter → decidedBefore s.dev.sys.fab.blockVotes g t₀ a = true → took .blockVoteReceive (fun t => counts t 4))
      ∧ (voter → decidedBefore s.dev.sys.fab.blockVotes g t₀ a = false →
          (v = 2 ∨ (field c.payload 2 1 % 2 = 1 ∧ skip)
            ∨ open_ s.dev.sys.fab.blockVotes = none ∧ ∀ f ∈ s.dev.sys.ranks g, blockOf f = blockOf c.src) →
          took .blockVoteReceive (fun t => decidedBefore t.dev.sys.fab.blockVotes g t₀ a = true
            ∧ ∃ d, t.dev.sys.fab.decisions.head? = some d ∧ field d 0 1 = g ∧ field d 8 8 = t₀ ∧ field d 16 4 = a
              ∧ field d 1 1 = (if v = 2 ∨ (field c.payload 2 1 % 2 = 1 ∧ skip) then 2 else 1)
              ∧ field d 2 1 = (if v = 2 then 1 else if field c.payload 2 1 % 2 = 1 ∧ skip then 2 else 0)
              ∧ s.SentCtrl t c.src 3 d)))
    ∧ (∀ slot x, s.dev.sys.role = 2 → s.dev.sys.fab.ownerVotes.find? (fun x => x.slot == slot && !x.sent) = some x →
      ∃ t rec_, exec (.voteBudgetExpiry slot) s = .next t ∧ s.OnlyEpochs t ∧ t.dev.mem = s.dev.mem ∧ t.dev.sys.host = s.dev.sys.host
        ∧ s.SentCtrl t (s.dev.sys.coordinator slot) 2 rec_ ∧ field rec_ 1 1 = 2 ∧ field rec_ 8 8 = x.target % 2 ^ 64
        ∧ field rec_ 20 4 = x.attempt % 2 ^ 32)
    ∧ (∀ slot x, s.dev.sys.fab.blockVotes.find? (fun x => x.slot == slot && !x.sent) = some x →
      ∃ t d, exec (.coordinatorBudgetExpiry slot) s = .next t ∧ s.OnlyEpochs t ∧ t.dev.mem = s.dev.mem ∧ t.dev.sys.host = s.dev.sys.host
        ∧ t.dev.sys.fab.decisions.head? = some d ∧ field d 1 1 = 2 ∧ field d 2 1 = 3 ∧ field d 8 8 = x.target % 2 ^ 64
        ∧ field d 16 4 = x.attempt % 2 ^ 32)

/-- R412 to R418, R477 and R478: a decision from the slot's coordinator or the block manager, for the target epoch and attempt of a
machine in VOTED, commits its epoch, which has then grown by 1, or aborts the step; a CTRL packet is recorded once and acknowledged
each time it comes; an unanswered one goes out again with its number until the sender's machine has moved on; a machine too long in VOTED is reported once; a publish all of
whose segments have been answered ends the command. DECISION_RECEIVE, EPOCH_IN_DOUBT, PUBLISH_COMPLETE, CTRL_PACKET, CTRL_RESEND. -/
def Claims.EpochsCommitOrAbort : Prop :=
  ∀ (s : State), s.dev.sys.Sized → s.dev.mem.Coherent →
    (∀ c rest, s.dev.sys.mgmtUp = true → s.dev.sys.fab.ctrlIn = c :: rest → c.ctype = 3 →
      let g := recSlot c.payload
      let e := s.dev.sys.epoch g
      let trusted := s.dev.sys.slotOn g = true ∧ c.src = s.dev.sys.coordinator g ∨ s.dev.sys.bmValid = true ∧ c.src = s.dev.sys.bmFid
      (¬trusted → ∃ t, exec .decisionReceive s = .next t ∧ s.OnlyEpochs t ∧ t.dev.sys.fab.ctrlIn = rest
        ∧ t.dev.sys.fab.epochs = s.dev.sys.fab.epochs ∧ t.dev.sys.fab.ucounts = addAt s.dev.sys.fab.ucounts 6 1)
      ∧ (trusted → g < 8 → e.state = 2 → e.target = field c.payload 8 8 → e.attempt = field c.payload 16 4 →
        (field c.payload 1 1 = 1 → e.wasReset = false →
          ∃ t, exec .decisionReceive s = .next t ∧ s.OnlyEpochs t ∧ s.KeepsButPages t ∧ (t.dev.sys.epoch g).state = 3
            ∧ (t.dev.sys.epoch g).committed = (e.committed + 1) % 2 ^ 64 ∧ (t.dev.sys.epoch g).nextAttempt = 0
            ∧ t.dev.sys.fab.ucounts = addAt s.dev.sys.fab.ucounts 1 1
            ∧ ∀ k, k ≠ g → t.dev.sys.epoch k = s.dev.sys.epoch k)
        ∧ (field c.payload 1 1 = 2 →
          ∃ t, exec .decisionReceive s = .next t ∧ s.KeepsButPages t ∧ t.dev.sys.core = s.dev.sys.core
            ∧ (t.dev.sys.epoch g).state = 0 ∧ (t.dev.sys.epoch g).committed = e.committed
            ∧ (t.dev.sys.epoch g).nextAttempt = max e.nextAttempt (e.attempt + 1)
            ∧ t.dev.sys.fab.ucounts = addAt s.dev.sys.fab.ucounts 2 1
            ∧ ∀ k, k ≠ g → t.dev.sys.epoch k = s.dev.sys.epoch k))
      ∧ (trusted → g < 8 → e.state = 0 → field c.payload 1 1 = 2 → field c.payload 8 8 = e.committed + 1 →
          ∃ t, exec .decisionReceive s = .next t ∧ s.OnlyEpochs t ∧ s.KeepsButPages t
            ∧ t.dev.sys.epoch g = { e with nextAttempt := max e.nextAttempt (field c.payload 16 4 + 1) }
            ∧ ∀ k, k ≠ g → t.dev.sys.epoch k = s.dev.sys.epoch k))
    ∧ (∀ g, g < 8 → (s.dev.sys.epoch g).state = 2 →
      ((s.dev.sys.epoch g).inDoubt = true → exec (.epochInDoubt g) s = .next s)
      ∧ ((s.dev.sys.epoch g).inDoubt = false → ∃ t, exec (.epochInDoubt g) s = .next t ∧ s.OnlyEpochs t ∧ t.dev.mem = s.dev.mem
        ∧ t.dev.sys.epoch g = { s.dev.sys.epoch g with inDoubt := true }
        ∧ (s.dev.sys.mgmt.rel.mgmtStopped = false → s.dev.sys.partEnabled (s.dev.sys.epoch g).part = true →
            t.dev.sys.host.events = s.dev.sys.host.events ++ [⟨(s.dev.sys.epoch g).part, 0x0502, g,
              natLe 8 (s.dev.sys.epoch g).target ++ zeros 8⟩])))
    ∧ (∀ g, g < 8 → s.dev.sys.ready = true → (s.dev.sys.epoch g).state = 3 → (∀ o ∈ s.dev.sys.fab.ops, ¬(o.owner = 3 ∧ o.slot = g)) →
      ∃ t, exec (.publishComplete g) s = .next t ∧ s.OnlyEpochs t ∧ s.KeepsButPages t ∧ (t.dev.sys.epoch g).state = 0
        ∧ (t.dev.sys.epoch g).incomplete = false ∧ (t.dev.sys.epoch g).committed = (s.dev.sys.epoch g).committed
        ∧ ∀ c, (s.dev.sys.ring (s.dev.sys.epoch g).ring).cmds.find? (fun x => x.uid == (s.dev.sys.epoch g).uid) = some c →
            (s.dev.sys.epoch g).killed = false → (s.dev.sys.epoch g).wasReset = false →
            s.Completed t (s.dev.sys.epoch g).ring c.uid (s.dev.sys.epoch g).status)
    ∧ (∀ p x, s.Comes p x → s.dev.sys.mgmtUp = true → p.kind = 8 →
      let key := (p.src, p.offset % 256, recSlot p.payload, recTarget p.payload, recAttempt (p.offset % 256) p.payload)
      ∃ t, exec (.ctrlPacket p) s = .next t ∧ s.OnlyEpochs t ∧ t.dev.mem = s.dev.mem ∧ t.dev.sys.host = s.dev.sys.host
        ∧ t.dev.sys.fab.deliver = s.dev.sys.fab.deliver.erase x
        ∧ (∃ x, t.dev.sys.fab.router = s.dev.sys.fab.router ++ [x] ∧ x.pkt.kind = 0x82 ∧ x.pkt.dst = p.src ∧ x.pkt.seq = p.seq
            ∧ x.vc = 1)
        ∧ t.dev.sys.fab.ctrlIn = s.dev.sys.fab.ctrlIn
            ++ (if key ∈ s.dev.sys.fab.ctrlSeen then [] else [⟨p.src, p.offset % 256, p.payload⟩])
        ∧ key ∈ t.dev.sys.fab.ctrlSeen)
    ∧ (∀ k c, s.dev.sys.fab.ctrlOut[k]? = some c →
      let e := s.dev.sys.epoch c.slot
      (c.machine = (e.state, e.target, e.attempt) → s.dev.sys.mgmtUp = true →
        ∃ t, exec (.ctrlResend k) s = .next t ∧ s.OnlyEpochs t ∧ t.dev.mem = s.dev.mem ∧ t.dev.sys.host = s.dev.sys.host
        ∧ t.dev.sys.fab.ctrlOut = s.dev.sys.fab.ctrlOut
        ∧ ∃ x, t.dev.sys.fab.router = s.dev.sys.fab.router ++ [x] ∧ x.pkt.kind = 8 ∧ x.pkt.dst = c.dest ∧ x.pkt.seq = c.seq
            ∧ x.pkt.payload = c.payload ∧ x.pkt.offset = c.ctype)
      ∧ (c.machine ≠ (e.state, e.target, e.attempt) → ∃ t, exec (.ctrlResend k) s = .next t ∧ s.OnlyEpochs t ∧ t.dev.mem = s.dev.mem
        ∧ t.dev.sys.fab.router = s.dev.sys.fab.router ∧ t.dev.sys.fab.ctrlOut = dropNth s.dev.sys.fab.ctrlOut k))

/-! ## Pogil ports (LOCK_COMPLETE to HELLO_RECEIVE) -/

namespace Sys2Proof.Machine

/-- What a port's command leaves alone: memory, the cores, the other ports, windows, routes and the queue. -/
def State.OnlyPort (s t : State) (i : Nat) : Prop :=
  t.pending = s.pending ∧ t.dev.mem = s.dev.mem ∧ t.dev.sys.core = s.dev.sys.core ∧ (∀ j, j ≠ i → t.dev.sys.port j = s.dev.sys.port j)
    ∧ t.dev.sys.fab.windows = s.dev.sys.fab.windows ∧ t.dev.sys.fab.reqs = s.dev.sys.fab.reqs
    ∧ t.dev.sys.host.rings = s.dev.sys.host.rings ∧ t.dev.sys.mgmt.power = s.dev.sys.mgmt.power
    ∧ t.dev.sys.mgmt.dict = s.dev.sys.mgmt.dict

end Sys2Proof.Machine

/-- R425 to R429, R456: the wavelengths that lock, then align, are good; the width is the largest of 8, 6, 4 and 2 that both ends'
good wavelengths allow, none sending the machine back to LOCK; a failing verify window drops its wavelengths and negotiates again,
three times at most; a clean one ends in DONE, with the allocation set then committed in force and granted as credits; a state's
timeout goes back to LOCK. A lost signal takes a port down with reason 1, training flits of the far end one with reason 5.
LOCK_COMPLETE, ALIGN_COMPLETE, NEGOTIATE_COMPLETE, VERIFY_WINDOW_END, TRAINING_STATE_TIMEOUT, SIGNAL_LOST, TRAIN_FLIT_RECEIVE. -/
def Claims.PortsTrainStepByStep : Prop :=
  ∀ (s : State) (i mask fail : Nat) (far : TrainFar), s.dev.sys.Sized → s.dev.sys.portRuns i = true →
    let p := s.dev.sys.port i
    let after (c : Instr) (P : Port → Prop) : Prop := ∃ t, exec c s = .next t ∧ s.OnlyPort t i ∧ P (t.dev.sys.port i)
    let becomes (c : Instr) (q : Port) : Prop := ∃ t, exec c s = .next t ∧ s.OnlyPort t i ∧ t.dev.sys.port i = q
      ∧ t.dev.sys.host = s.dev.sys.host ∧ t.dev.sys.mgmt = s.dev.sys.mgmt
    let room := min (popcount8 p.good) (popcount8 far.mask)
    let back : Port := { p.relock with train := 2, lastTrain := 2 }
    (back.state = p.state ∧ back.reps = 0 ∧ back.laneCredits = rep0 24 ∧ back.poolCredits = 0 ∧ back.returns = []
      ∧ back.replay.map (fun f => (f.seq, f.payload)) = p.replay.map (fun f => (f.seq, f.payload)))
    ∧ (p.train = 2 → becomes (.lockComplete i mask) { p with good := mask % 256, train := 3, lastTrain := 3 })
    ∧ (p.train = 3 → becomes (.alignComplete i mask) { p with good := p.good &&& mask, train := 4, lastTrain := 4 })
    ∧ (p.train = 4 → room < 2 → becomes (.negotiateComplete i far) back)
    ∧ (p.train = 4 → ∀ w, (w = 8 ∧ 8 ≤ room ∨ w = 6 ∧ 6 ≤ room ∧ room < 8 ∨ w = 4 ∧ 4 ≤ room ∧ room < 6 ∨ w = 2 ∧ 2 ≤ room ∧ room < 4) →
      after (.negotiateComplete i far) (fun q => q.width = w
        ∧ q.rxMask = lowest w p.good ∧ q.txMask = lowest w far.mask ∧ q.roundTrip = far.roundTrip ∧ q.train = 5
        ∧ q.farInc = far.incarnation ∧ q.state = p.state ∧ q.reps = p.reps ∧ q.replayPos = 0
        ∧ (p.farInc = far.incarnation → q.nextSeq = p.nextSeq ∧ q.replay <:+ p.replay)
        ∧ (p.farInc ≠ far.incarnation → q.replay = [] ∧ q.nextSeq = (if far.lastValid then (far.lastSeq + 1) % 4096 else 0))))
    ∧ (p.train = 5 → fail &&& p.rxMask ≠ 0 → p.reps < 3 → ∀ u,
      becomes (.verifyWindowEnd i fail u) { p with good := p.good - (p.good &&& (fail &&& p.rxMask)), reps := p.reps + 1, train := 4, lastTrain := 4 })
    ∧ (p.train = 5 → fail &&& p.rxMask ≠ 0 → 3 ≤ p.reps → ∀ u, becomes (.verifyWindowEnd i fail u) back)
    ∧ (p.train = 5 → fail &&& p.rxMask = 0 → exec (.verifyWindowEnd i fail true) s = .next s
      ∧ after (.verifyWindowEnd i fail false) (fun q => q.train = 6 ∧ q.reps = 0 ∧ q.width = p.width ∧ q.laneCredits = p.laneCredits
        ∧ q.poolCredits = p.poolCredits ∧ q.allocCommit = s.dev.sys.cfgN 0x6012 1 ∧ q.sharedCap = s.dev.sys.cfgN 0x6010 13
        ∧ (∀ v < 12, ∀ l < 2, ((q.returns.filter (fun c => c.vc == v && c.lane == l && !c.pool)).map CreditRet.flits).sum
            = min (s.dev.sys.cfgN 0x6010 (v + 1) / 2) 1533)))
    ∧ (2 ≤ p.train → p.train ≤ 6 → becomes (.trainingStateTimeout i) back)
    ∧ (3 ≤ p.state → after (.signalLost i) (fun q => q.state = 1 ∧ q.train = 1 ∧ q.lastDown = 1 ∧ q.entriesDown = p.entriesDown + 1))
    ∧ (∀ f crc, f.ty = 2 → flitSound f true crc = true →
      (p.live = true → after (.trainFlitReceive ⟨i, f, true, crc⟩) (fun q => q.state = 2 ∧ q.train = 2 ∧ q.lastDown = 5
        ∧ q.entriesDown = p.entriesDown + 1))
      ∧ (p.live = false → 4 ≤ p.train → p.train ≤ 6 → after (.trainFlitReceive ⟨i, f, true, crc⟩) (fun q =>
        q.echo = field f.payload 10 2 ∧ q.state = p.state ∧ q.train = p.train)))

/-- R455, R457, R458, R518 to R522: from DONE on a port with a credit sends hellos; the hello at the head of the fabric control queue
that matches its port's plan entry brings a trained port UP at full width, UNACCEPTED below it, and releases a quarantined one; one
that does not quarantines a port that is trained or up; degradation is reported when a window passes the threshold after one that
did not. HELLO_SEND, HELLO_RECEIVE, PORT_DEGRADED. -/
def Claims.HellosDecideThePortState : Prop :=
  ∀ (s : State) (i : Nat) (h : Hello) (ratio : F32), s.dev.sys.Sized → i < 16 → s.dev.sys.mgmtUp = true →
    let p := s.dev.sys.port i
    let e := s.dev.sys.cfg 0x6100 (i + 1)
    let planned := field e 0 1 = 1 ∧ (e.drop 4).take 16 = h.serial ∧ field e 1 1 = h.port ∧ bit (field e 2 1) h.role = true
    let heard (P : Port → Prop) : Prop := ∃ t, exec (.helloReceive i h) s = .next t ∧ s.OnlyPort t i ∧ P (t.dev.sys.port i)
      ∧ t.dev.sys.fab.hellos = s.dev.sys.fab.hellos.drop 1
      ∧ (t.dev.sys.observed i).farSerial = h.serial ∧ (t.dev.sys.observed i).farPort = h.port
      ∧ (t.dev.sys.observed i).farInc = h.incarnation ∧ ((t.dev.sys.observed i).status = 1 ↔ planned)
      ∧ ∀ j, j ≠ i → t.dev.sys.observed j = s.dev.sys.observed j
    (s.dev.sys.portRuns i = true → (p.live = true ∨ p.train = 6 ∧ (0 < nth p.laneCredits 22 ∨ 0 < p.poolCredits)) →
      ∃ t, exec (.helloSend i) s = .next t ∧ s.OnlyPort t i ∧ t.dev.sys.host = s.dev.sys.host
        ∧ t.dev.sys.mgmt = s.dev.sys.mgmt ∧ ∃ w, t.dev.sys.port i = { p with txQ := p.txQ ++ [w] } ∧ w.vc = 11
          ∧ w.hello.length = 240 ∧ field w.hello 0 1 = 0xE1 ∧ field w.hello 1 1 = 1 ∧ field w.hello 2 1 = i
          ∧ field w.hello 24 4 = s.dev.sys.fab.incarnation % 2 ^ 32)
    ∧ (s.dev.sys.fab.hellos.head? = some (i, h) →
      (p.train = 6 → planned → heard (fun q => q.train = 7 ∧ q.entriesUp = p.entriesUp + 1
          ∧ q.state = (if p.width = 8 ∧ (p.trainedOnce = false ∨ p.incChanged = false) then 4 else 3)))
      ∧ (p.train = 6 → ¬planned → heard (fun q => q.state = 5 ∧ q.train = 7))
      ∧ (p.train ≠ 6 → p.live = true → ¬planned → heard (fun q => q.state = 5))
      ∧ (p.train ≠ 6 → p.state = 5 → planned → heard (fun q => q.entriesUp = p.entriesUp + 1
          ∧ q.state = (if p.width = 8 ∧ p.incChanged = false then 4 else 3)))
      ∧ (p.train ≠ 6 → ¬(p.live = true ∧ ¬planned) → ¬(p.state = 5 ∧ planned) → heard (fun q => q = p)))
    ∧ (s.dev.sys.portRuns i = true → p.live = true →
      let above := decide ((val32 ratio.toNat).cmp (val32 (s.dev.sys.cfgN 0x6041 1)) = some 1)
      ∃ t, exec (.portDegraded i ratio) s = .next t ∧ s.OnlyPort t i ∧ t.dev.sys.port i = { p with windowOver := above }
        ∧ (above = true → p.windowOver = false → s.dev.sys.ready = true → s.dev.sys.mgmt.rel.mgmtStopped = false →
            ∀ q < 16, s.dev.sys.partEnabled q = true →
              ⟨q, 0x0303, i, (natLe 4 ratio.toNat ++ zeros 16).take 16⟩ ∈ t.dev.sys.host.events)
        ∧ ((above = false ∨ p.windowOver = true) → t.dev.sys.host.events = s.dev.sys.host.events))

/-- R430 to R444, R455: a flit that does not decode is counted and, unless it is a NULL or TRAIN flit of a sound code, asked for again
once; one in sequence moves the expected sequence on by 1 modulo 4,096 and, the last of a packet, hands it to the router or, a hello,
to the fabric control queue; one out of sequence is refused; a NULL flit's header acknowledges and returns credits. A transmitter
resends what a NAK or a timeout names, in order, before anything new, and sends nothing new while 1,024 flits wait; a new DATA flit
takes the next sequence and stays in the replay buffer; a port below UP begins and goes on with VC11 alone; a training port sends
NULL flits, from NEGOTIATE on TRAIN flits too; the ninth fruitless replay takes the port down with reason 3, or a training one back
to LOCK. DATA_FLIT_RECEIVE, NULL_FLIT_RECEIVE, TRAIN_FLIT_RECEIVE, FLIT_TRANSMIT, LINK_REPLAY_TIMEOUT. -/
def Obligations.FlitsGoInOrder : Prop :=
  ∀ (s : State) (i : Nat) (f : Flit), s.dev.sys.Sized → s.dev.sys.portRuns i = true → (s.dev.sys.port i).replays ≤ 8 →
    let p := s.dev.sys.port i
    let carries := p.live = true ∨ p.train = 6
    let hears := carries ∨ p.train = 4 ∨ p.train = 5
    let plain := f.ackValid = false ∧ f.nak = false ∧ f.credit0.valid = false ∧ f.credit1.valid = false
    let got (c : Instr) (P : Port → Prop) (Q : List RPkt → Prop) : Prop := ∃ t, exec c s = .next t ∧ s.OnlyPort t i
      ∧ P (t.dev.sys.port i) ∧ Q t.dev.sys.fab.router ∧ t.dev.sys.host = s.dev.sys.host
    let same (l : List RPkt) : Prop := l = s.dev.sys.fab.router
    let refused (q : Port) : Prop := q.nakSent = true ∧ q.nakDue = (p.nakDue || !p.nakSent) ∧ q.expSeq = p.expSeq
      ∧ q.state = p.state
    let bad (c : Instr) (fec : Bool) (crc : Nat) : Prop := got c (fun q => (∃ k ≤ 2, q.counts = addAt (addAt p.counts 3 k) 4 1)
      ∧ q.expSeq = p.expSeq ∧ q.state = p.state ∧ q.train = p.train ∧ q.replay = p.replay
      ∧ (fec = false ∨ crc ≠ flitCrc f ∨ f.ty = 1 → refused q)) same
    let read : Port := { p with rxPos := (p.rxPos + 1) % 5, pairBad := decide (p.rxPos ≠ 0) && p.pairBad, counts := addAt p.counts 3 0 }
    let whole := f.ty = 1 ∧ flitTypeOk f = true ∧ plain ∧ f.seq = p.expSeq ∧ f.sop = true
    (hears → ∀ fec crc, flitSound f fec crc = false →
      (f.ty = 0 → bad (.nullFlitReceive i f fec crc) fec crc) ∧ (f.ty = 2 → bad (.trainFlitReceive ⟨i, f, fec, crc⟩) fec crc)
      ∧ (f.ty ≠ 0 → f.ty ≠ 2 → bad (.dataFlitReceive i f fec crc) fec crc))
    ∧ (hears → f.ty = 1 → flitTypeOk f = true → (¬carries ∨ f.seq ≠ p.expSeq) →
      got (.dataFlitReceive i f true (flitCrc f)) refused same)
    ∧ (carries → whole → f.eop = false →
      got (.dataFlitReceive i f true (flitCrc f)) (fun q => q.expSeq = (p.expSeq + 1) % 4096 ∧ q.nakSent = false ∧ q.nakDue = false
        ∧ ∃ x ∈ q.parts, x.vc = f.vc ∧ x.lane = f.lane ∧ x.bytes = f.payload) same)
    ∧ (carries → whole → f.eop = true → f.vc ≠ 11 → knownKind (field f.payload 0 1) = true → field f.payload 22 2 ≤ 4096 →
      got (.dataFlitReceive i f true (flitCrc f)) (fun q => q.expSeq = (p.expSeq + 1) % 4096 ∧ q.nakSent = false)
        (fun l => l = s.dev.sys.fab.router ++ [⟨pktOf f.payload, f.vc, f.lane, i, f.pool⟩]))
    ∧ (carries → whole → f.eop = true → f.vc = 11 → field f.payload 0 1 = 0xE1 →
      ∃ t h, exec (.dataFlitReceive i f true (flitCrc f)) s = .next t ∧ s.OnlyPort t i ∧ t.dev.sys.fab.router = s.dev.sys.fab.router
        ∧ (t.dev.sys.port i).expSeq = (p.expSeq + 1) % 4096 ∧ t.dev.sys.fab.hellos = s.dev.sys.fab.hellos ++ [(i, h)]
        ∧ h.version = field f.payload 1 1 ∧ h.port = field f.payload 2 1 ∧ h.role = field f.payload 3 1
        ∧ h.serial = (f.payload.drop 4).take 16 ∧ h.incarnation = field f.payload 24 4)
    ∧ (hears → f.ty = 0 → flitTypeOk f = true → f.ackValid = false → f.nak = false → f.credit1.valid = false → f.credit0.valid = true →
        f.credit0.pool = false →
      got (.nullFlitReceive i f true (flitCrc f)) (fun q => q = { read with
        laneCredits := modNth p.laneCredits (2 * f.credit0.vc + f.credit0.lane) (fun x => x + f.credit0.flits) }) same)
    ∧ (∀ before x rest, hears → f.ty = 0 → flitTypeOk f = true → f.nak = false → f.credit0.valid = false → f.credit1.valid = false →
        f.ackValid = true → p.replay = before ++ x :: rest → x.seq = f.ackSeq → (∀ y ∈ before, y.seq ≠ f.ackSeq) →
      got (.nullFlitReceive i f true (flitCrc f)) (fun q => q = { read with
        replay := rest, replayPos := p.replayPos - (before.length + 1), replays := 0 }) same)
    ∧ (carries → ∀ x, p.replay[p.replayPos]? = some x → got (.flitTransmit i) (fun q => ∃ y, q.out = some y ∧ y.seq = x.seq ∧ y.ty = x.ty
        ∧ y.payload = x.payload ∧ y.vc = x.vc ∧ q.replayPos = p.replayPos + 1 ∧ q.replay = p.replay ∧ q.nextSeq = p.nextSeq) same)
    ∧ (carries → p.replay[p.replayPos]? = none → 1024 ≤ p.replay.length → got (.flitTransmit i) (fun q => ∃ y, q.out = some y ∧ y.ty = 0
        ∧ q.replay = p.replay ∧ q.nextSeq = p.nextSeq) same)
    ∧ (carries → ∀ c b more, p.replay[p.replayPos]? = none → p.replay.length < 1024 → p.cur = some c → c.rest = b :: more →
      (p.state = 4 ∨ c.vc = 11 → got (.flitTransmit i) (fun q => ∃ y, q.out = some y ∧ y.ty = 1 ∧ y.seq = p.nextSeq ∧ y.payload = b
        ∧ y.vc = c.vc ∧ y.eop = more.isEmpty ∧ q.replay = p.replay ++ [y] ∧ q.nextSeq = (p.nextSeq + 1) % 4096) same)
      ∧ (p.state ≠ 4 → c.vc ≠ 11 → got (.flitTransmit i) (fun q => ∃ y, q.out = some y ∧ (y.ty = 0 ∨ y.vc = 11)
        ∧ q.parked = some c) same))
    ∧ (¬carries → 2 ≤ p.train → p.train ≤ 5 → got (.flitTransmit i) (fun q => ∃ y, q.out = some y ∧ q.train = p.train
        ∧ (y.ty = 0 ∨ y.ty = 2 ∧ 4 ≤ p.train ∧ ∃ token, y.payload = p.trainPayload i s.dev.sys.fab.incarnation token)) same)
    ∧ (carries → 0 < p.replayPos → p.replays < 8 → got (.linkReplayTimeout i) (fun q => q = { p with
        replayPos := 0, replays := p.replays + 1, counts := addAt p.counts 5 1 }) same)
    ∧ (carries → 0 < p.replayPos → p.replays = 8 → ∃ t, exec (.linkReplayTimeout i) s = .next t ∧ s.OnlyPort t i
        ∧ (p.live = true → (t.dev.sys.port i).lastDown = 3 ∧ (t.dev.sys.port i).state = 1)
        ∧ (p.live = false → (t.dev.sys.port i).train = 2 ∧ (t.dev.sys.port i).state = p.state ∧ (t.dev.sys.port i).replays = 0))

/-! ## Remote operations (FAB.GET to FABRIC_TIMEOUT) -/

namespace Sys2Proof.Machine

/-- `new` are the requests of operation `o`, in increasing offset, of descriptor `x`: segments at each 4,096-byte boundary of the
remote offset, one packet for a reduction, an atomic or a flag, numbered from the next of their stream. -/
def State.Requests (s : State) (o : FabOp) (x : FabD) (new : List FabReq) : Prop :=
  new.length = o.left ∧ 0 < o.left
    ∧ (∀ k r, new[k]? = some r → r.op = o.id ∧ r.part = o.part ∧ r.phase = 0 ∧ r.vc = (if x.vc = 0 then 2 else x.vc)
        ∧ r.pkt.kind = x.kind ∧ r.pkt.dst = x.tgt ∧ r.pkt.src = s.dev.sys.fid ∧ r.pkt.part = o.part ∧ r.pkt.window = x.window
        ∧ r.pkt.key = x.key ∧ r.pkt.op = x.op ∧ r.pkt.ty = x.ty
        ∧ (x.kind ≠ 1 → r.pkt.seq % 2 ^ 32
            = ((streamOf s.dev.sys.fab.streams o.part (if x.kind = 3 then 2 ^ 20 + x.tgt else x.tgt)).next + k) % 2 ^ 32)
        ∧ r.pkt.offset = x.off + ((new.take k).map (fun y => y.pkt.len)).sum
        ∧ (x.kind ≤ 3 → r.pkt.offset % 4096 + r.pkt.len ≤ 4096 ∧ r.addr = x.loc + ((new.take k).map (fun y => y.pkt.len)).sum)
        ∧ (x.kind = 5 → r.pkt.payload = x.operand ++ x.compare) ∧ (x.kind = 6 → r.pkt.payload = x.operand))
    ∧ (x.kind ≤ 4 → (new.map (fun y => y.pkt.len)).sum = x.len)

/-- Operation `o` of descriptor `x` has entered the request queue, and nothing else of the fabric has changed. -/
def State.OpEnters (s t : State) (o : FabOp) (x : FabD) : Prop :=
  t.dev.sys.fab.ops = s.dev.sys.fab.ops ++ [o] ∧ o.id = s.dev.sys.fab.nextUid ∧ o.kind = x.kind ∧ o.noReturn = x.noReturn
    ∧ o.localShofel = x.shofel ∧ o.localAddr = x.loc ∧ o.status = 0
    ∧ (∃ new, t.dev.sys.fab.reqs = s.dev.sys.fab.reqs ++ new ∧ t.dev.sys.fab.queue = s.dev.sys.fab.queue ++ new.map FabReq.uid
        ∧ s.Requests o x new)
    ∧ { t.dev.sys.fab with ops := s.dev.sys.fab.ops, reqs := s.dev.sys.fab.reqs, queue := s.dev.sys.fab.queue
                           streams := s.dev.sys.fab.streams, nextUid := s.dev.sys.fab.nextUid } = s.dev.sys.fab

/-- The command of a remote operation's opcode. -/
def FabCmd (g : Gid) (op : Nat) (c : Instr) : Prop :=
  op = 0x90 ∧ c = .fabGet g ∨ op = 0x91 ∧ c = .fabPut g ∨ op = 0x92 ∧ c = .fabMput g ∨ op = 0x93 ∧ c = .fabRed g
    ∨ op = 0x94 ∧ c = .fabAtom g ∨ op = 0x95 ∧ c = .fabPutFlag g

end Sys2Proof.Machine

/-- R466 to R471, R479, R482 and R483: an instruction `fab.*` with room among the core's operations, its descriptor in place, sound and
of its kind when it issues, enters its operation with the packets of its remote range; a descriptor or counter out of place starts the
kill of its context with MEMORY_FAULT 0x0101, an unsound one with 0x0104, a local range out of bounds with 0x0101. `fab.fence` counts
at once when the partition has no sequenced packet unacknowledged, else it waits for exactly those. With no room they wait, with no
executing thread they fall through. FAB.GET, FAB.PUT, FAB.MPUT, FAB.RED, FAB.ATOM, FAB.PUT.FLAG, FAB.FENCE. -/
def Claims.RemoteOperationsEnter : Prop :=
  ∀ (s : State) (g : Gid) (i : Issue), s.dev.sys.core.Ok →
    let a := leadReg i i.inst.a
    let k := leadReg i i.inst.d
    let issues (c : Instr) (P : State → Prop) : Prop := ∃ t, exec c s = .next t ∧ s.OnlyCores { t with dev.sys.fab := s.dev.sys.fab }
      ∧ t.dev.mem = s.dev.mem ∧ t.dev.sys.host = s.dev.sys.host ∧ s.RegsKeep t ∧ s.CsBut t i.blk.id (fun _ => True) ∧ P t
    let through (t : State) : Prop := t.dev.sys.fab = s.dev.sys.fab ∧ ∃ g', s.Booked t i g' [] ∧ i.NextAt g'
    let killed (code : Nat) (t : State) : Prop := t.dev.sys.fab = s.dev.sys.fab
      ∧ t.dev.sys.core.kills = s.dev.sys.core.kills ++ [i.kill code]
    (∀ op c, FabCmd g op c → s.dev.Goes op g i →
      (i.act ≠ [] → fabReady i s.dev = false → exec c s = .next s)
      ∧ (i.act = [] → issues c through)
      ∧ (i.act ≠ [] → fabReady i s.dev = true → issues c (fun t =>
        let b := t.dev.sys.csRead i.blk.id a 64
        let x := FabD.of b
        let wide := if x.kind = 5 then elemBytes x.ty else x.len
        let placed := a % 64 = 0 ∧ a + 64 ≤ i.blk.csBytes ∧ k % 4 = 0 ∧ k + 4 ≤ i.blk.csBytes
        let ranged := (x.kind = 6 ∨ x.noReturn = true) ∨ x.loc % (if x.kind = 5 then 8 else 16) = 0 ∧
          (x.shofel = true ∧ s.dev.rangeOk i.blk.part x.loc wide (x.kind == 1 || x.kind == 5) = true
            ∨ x.shofel = false ∧ x.loc + wide ≤ i.blk.csBytes ∧ overlaps k 4 x.loc wide = false)
        let wf := s.dev.sys.fabWf i.blk.part (op - 0x8F) b
        (¬placed → killed 0x0101 t) ∧ (placed → wf = false → killed 0x0104 t) ∧ (placed → wf = true → ¬ranged → killed 0x0101 t)
        ∧ (placed → wf = true → ranged → s.Enters t i ∧ t.dev.sys.core.kills = s.dev.sys.core.kills
          ∧ ∃ o, s.OpEnters t o x ∧ o.owner = 0 ∧ o.part = i.blk.part ∧ o.gid = g ∧ o.block = i.blk.id ∧ o.pc = i.grp.pc
            ∧ o.counter = k ∧ o.descAddr = a ∧ o.ring = i.blk.ring))))
    ∧ (s.dev.Goes 0x96 g i →
      let needs := (s.dev.sys.fab.streams.filter (fun y => y.part == i.blk.part)).flatMap (fun y => y.unacked.map (fun q => (y.key, q)))
      let aligned := k % 4 = 0 ∧ k + 4 ≤ i.blk.csBytes
      (i.act ≠ [] → s.dev.sys.asyncRoom g 1 = false → exec (.fabFence g) s = .next s)
      ∧ (i.act = [] → issues (.fabFence g) through)
      ∧ (i.act ≠ [] → s.dev.sys.asyncRoom g 1 = true → ¬aligned → issues (.fabFence g) (killed 0x0101))
      ∧ (i.act ≠ [] → s.dev.sys.asyncRoom g 1 = true → aligned → issues (.fabFence g) (fun t => s.Enters t i
        ∧ t.dev.sys.fab.reqs = s.dev.sys.fab.reqs ∧ t.dev.sys.fab.ops = s.dev.sys.fab.ops
        ∧ t.dev.sys.core.kills = s.dev.sys.core.kills
        ∧ (needs ≠ [] → ∃ f ∈ t.dev.sys.fab.fences, f.needs = needs ∧ f.part = i.blk.part ∧ f.block = i.blk.id ∧ f.counter = k
            ∧ f.isCmd = false)
        ∧ (needs = [] → (∀ f ∈ s.dev.sys.fab.fences, (f.isCmd = true ∨ f.needs ≠ []) ∧ f.id ≠ s.dev.sys.fab.nextUid) → t.dev.sys.fab.fences = s.dev.sys.fab.fences
          ∧ (s.dev.sys.StoreQuiet i.blk.id → t.dev.sys.csRead i.blk.id k 4 = natLe 4 (leNat (s.dev.sys.csRead i.blk.id k 4) + 1)
              ∧ s.CsBut t i.blk.id (fun y => k ≤ y ∧ y < k + 4))))))

/-- R621: COPY operation 3 reads its descriptor, and with a sound one of local Shofel memory enters its operation, the command still
running; any other completes MALFORMED. COPY_FABRIC. -/
def Claims.CopiesEnterRemoteOperations : Prop :=
  ∀ (s : State) (r idx : Nat) (c : RCmd), s.dev.mem.Coherent → s.dev.sys.Sized → s.dev.sys.startedCmd r idx 2 3 = some c →
    let p := s.dev.sys.ringPart r
    let a := field c.bytes 24 8
    let b := (List.range 64).map (fun j => s.dev.byteOf p (a + j))
    let x := FabD.of b
    let ok := s.dev.sys.fabWf p x.kind b = true ∧ x.shofel = true ∧ (x.kind = 6 ∨ x.noReturn = true
      ∨ x.loc % (if x.kind = 5 then 8 else 16) = 0
        ∧ s.dev.rangeOk p x.loc (if x.kind = 5 then elemBytes x.ty else x.len) (x.kind == 1 || x.kind == 5) = true)
    s.dev.CleanRange p a 64 →
    (ok → ∃ t o, exec (.copyFabric r idx) s = .next t ∧ t.pending = s.pending ∧ t.dev.sys.core = s.dev.sys.core ∧ s.KeepsButPages t
      ∧ s.OpEnters t o x ∧ o.owner = 1 ∧ o.part = p ∧ o.uid = c.uid ∧ o.ring = r
      ∧ (t.dev.sys.ring r).records = (s.dev.sys.ring r).records
      ∧ (t.dev.sys.ring r).cmds.map RCmd.uid = (s.dev.sys.ring r).cmds.map RCmd.uid)
    ∧ (¬ok → ∃ t, exec (.copyFabric r idx) s = .next t ∧ t.pending = s.pending ∧ s.KeepsButPages t
      ∧ t.dev.sys.fab = s.dev.sys.fab ∧ s.Completed t r c.uid 1)

/-- R450, R455, R475, R489 to R491, R499, R500, R508, R513 and R514: a packet at the router whose turn it is goes to this device, out
of the port its source and destination select among the usable ones of its direction, or nowhere: with no route, or with no valid fabric
ID here, it is discarded and counted; with no usable port a request returns as NAK PATH_FAILED and a reply is discarded. A request
that R578 chooses, one whose resend is due, goes out with its source bytes; none of a timed-out operation is resent. The event of a
timeout is written once. PACKET_ROUTE, RESEND_DELAY_EXPIRY, FABRIC_TIMEOUT. -/
def Obligations.PacketsTakeTheirRoutes : Prop :=
  ∀ (s : State) (k : Nat), s.dev.mem.Coherent → s.dev.sys.Sized → s.dev.sys.routerUp = true →
    let f := s.dev.sys.fab
    let goes (c : Instr) (P : State → Prop) : Prop := ∃ t, exec c s = .next t ∧ t.pending = s.pending ∧ s.KeepsButPages t
      ∧ t.dev.sys.core = s.dev.sys.core ∧ P t
    (∀ x, f.router[k]? = some x →
      let p := x.pkt
      let left := dropNth f.router k
      let turn := x.origin = 16 ∨ (x.vc = 11 ∨ (s.dev.sys.port x.origin).state ≠ 3)
        ∧ ∀ j y, j < k → f.router[j]? = some y → ¬(y.origin = x.origin ∧ y.vc = x.vc ∧ y.lane = x.lane)
      let tree := isMcast p = true ∧ ¬(p.kind = kNak ∧ p.status = 4)
      let here := tree ∨ p.dst = s.dev.sys.fid
      let nameless := s.dev.sys.fidValid = false ∧ isReply p = false ∧ (x.origin = 16 ∨ ¬tree ∧ p.dst = s.dev.sys.fid)
      let routed (P : State → Prop) : Prop := goes (.packetRoute k) (fun t => P t ∧ t.dev.sys.fab.reqs = f.reqs
        ∧ (x.origin < 16 → (t.dev.sys.port x.origin).returns
            = (s.dev.sys.port x.origin).returns ++ [⟨x.vc, x.lane, x.pool, true, pktFlits p⟩]))
      let still (t : State) : Prop := t.dev.sys.fab.deliver = f.deliver ∧ ∀ j, (t.dev.sys.port j).txQ = (s.dev.sys.port j).txQ
      let lost (t : State) : Prop := still t ∧ t.dev.sys.fab.router = left ∧ t.dev.sys.fab.unroutable = f.unroutable + 1
      (¬turn → ∃ t, exec (.packetRoute k) s = .next t ∧ t.pending = s.pending ∧ t.dev.sys.fab = f ∧ t.dev.sys.core = s.dev.sys.core)
      ∧ (turn → nameless → routed lost)
      ∧ (turn → ¬nameless → here → routed (fun t => t.dev.sys.fab.deliver = f.deliver ++ [x] ∧ t.dev.sys.fab.router = left))
      ∧ (turn → ¬nameless → ¬here → s.dev.sys.unreachable p.dst = true ∨ s.dev.sys.routeDir p.dst = none → routed lost)
      ∧ (∀ dir, turn → ¬nameless → ¬here → s.dev.sys.unreachable p.dst = false → s.dev.sys.routeDir p.dst = some dir →
          let usable := maskPorts (s.dev.sys.dirPorts dir &&& s.dev.sys.routingMask)
          (usable = [] → routed (fun t => still t
            ∧ (isReply p = false → t.dev.sys.fab.router = left ++ [⟨replyTo p kNak 4 [], 1, 0, 16, false⟩])
            ∧ (isReply p = true → t.dev.sys.fab.router = left ∧ t.dev.sys.fab.ccounts = addAt f.ccounts 2 1)))
          ∧ ∀ port, usable[(sourceField p ^^^ p.dst) % usable.length]? = some port →
            s.dev.sys.cfgN 0x6505 1 ≠ 1 ∨ combinable p = false ∨ s.dev.sys.fidValid = false →
            routed (fun t => t.dev.sys.fab.router = left ∧ t.dev.sys.fab.deliver = f.deliver
              ∧ (t.dev.sys.port port).txQ = (s.dev.sys.port port).txQ ++ [⟨p, x.vc, if bit (s.dev.sys.cfgN 0x6300 6) port then 1
                  else if s.dev.sys.portAxis x.origin = some (dir / 2) then x.lane else 0, x.origin, []⟩]
              ∧ ∀ j, j ≠ port → (t.dev.sys.port j).txQ = (s.dev.sys.port j).txQ)))
    ∧ (∀ r o, s.dev.sys.op? r.op = some o →
        (carries r.pkt = true → o.localShofel = true → s.dev.CleanRange r.part r.addr r.pkt.len
          ∧ r.snap = (List.range r.pkt.len).map (fun j => s.dev.byteOf r.part (r.addr + j))) →
        (carries r.pkt = true → o.localShofel = false → r.snap = s.dev.sys.csRead o.block r.addr r.pkt.len) →
      let sends (c : Instr) (resend : Bool) : Prop := goes c (fun t => t.dev.sys.fab.router = f.router ++
          [⟨{ r.pkt with payload := if carries r.pkt then r.snap else r.pkt.payload
                         flags := r.pkt.flags / 2 * 2 + (if resend then 1 else 0) }, r.vc, 0, 16, false⟩]
        ∧ t.dev.sys.fab.reqs = f.reqs.map (fun y => if y.uid == r.uid then { y with phase := 1, gen := f.routeGen } else y)
        ∧ t.dev.sys.fab.queue = f.queue.filter (fun u => u != r.uid) ∧ t.dev.sys.fab.ports = f.ports)
      (∀ ds, f.router.length ≤ k → (f.queue[k - f.router.length]?).bind s.dev.sys.req? = some r →
          s.dev.sys.injPick r.vc = some (r.part, ds) → (s.dev.sys.injHead r.vc r.part).map FabReq.uid = some r.uid →
        sends (.packetRoute k) false)
      ∧ (f.reqs[k]? = some r → s.dev.sys.resetting r.part = false → o.timedOut = true → r.phase = 1 ∨ r.phase = 2 →
        goes (.resendDelayExpiry k) (fun t => t.dev.sys.fab = f))
      ∧ (f.reqs[k]? = some r → s.dev.sys.resetting r.part = false → o.timedOut = false →
        (r.phase = 2 → sends (.resendDelayExpiry k) false)
        ∧ (r.phase = 1 → r.gen < f.routeGen → sends (.resendDelayExpiry k) true)))
    ∧ (∀ o, s.dev.sys.op? k = some o → s.dev.sys.ready = true → s.dev.sys.resetting o.part = false →
      (o.timedOut = true → exec (.fabricTimeout k) s = .next s)
      ∧ ∀ r, f.reqs.find? (fun y => y.op == k) = some r → o.timedOut = false →
        ∃ t, exec (.fabricTimeout k) s = .next t ∧ t.pending = s.pending ∧ t.dev.mem = s.dev.mem ∧ t.dev.sys.core = s.dev.sys.core
          ∧ t.dev.sys.fab.reqs = f.reqs ∧ (∃ o', t.dev.sys.op? k = some o' ∧ o' = { o with timedOut := true })
          ∧ (s.dev.sys.partEnabled o.part = true → s.dev.sys.mgmt.rel.mgmtStopped = false →
              t.dev.sys.host.events = s.dev.sys.host.events ++ [⟨o.part, 0x0305, o.source,
                natLe 1 6 ++ zeros 3 ++ natLe 4 r.pkt.dst ++ natLe 2 r.pkt.window ++ zeros 2 ++ natLe 4 r.pkt.seq⟩]))

namespace Sys2Proof.Machine

/-- A reply to packet `p` has been handed to the router. -/
def State.Answered (s t : State) (p : Pkt) (kind status : Nat) (payload : List Byte) : Prop :=
  t.dev.sys.fab.router = s.dev.sys.fab.router ++ [⟨replyTo p kind status payload, 1, 0, 16, false⟩]

/-- What a request at its target leaves alone; `u` is the state with the packet taken from the delivery queue. -/
def State.OnlyTarget (s t : State) (u : Sys) : Prop :=
  t.pending = s.pending ∧ t.dev.sys.core.groups = s.dev.sys.core.groups ∧ t.dev.sys.core.blocks = s.dev.sys.core.blocks
    ∧ t.dev.sys.fab.deliver = u.fab.deliver ∧ t.dev.sys.fab.reqs = s.dev.sys.fab.reqs ∧ t.dev.sys.fab.ops = s.dev.sys.fab.ops
    ∧ t.dev.sys.fab.windows = s.dev.sys.fab.windows ∧ t.dev.sys.mgmt = s.dev.sys.mgmt

/-- The state with packet `x` taken from the delivery queue. -/
def Sys.less (s : Sys) (x : RPkt) : Sys := s.onFab (fun f => { f with deliver := f.deliver.erase x })

/-- Steps 1 to 3 of Table 13-6 on window `w`: the status of the refusal, 0 where the access passes. -/
def Dev.WindowStatus (d : Dev) (p : Pkt) (n perm : Nat) (write : Bool) (st : Nat) : Prop :=
  let w := d.sys.window p.window
  let gone := w.state = 2 ∨ w.state = 1 ∧ d.sys.resetting w.part = true
  let good := w.state ≠ 0 ∧ w.key = p.key ∧ p.offset + n ≤ w.size ∧ bit w.perms perm = true
    ∧ d.rangeOk w.part (w.base + p.offset) n write = true
  gone ∧ st = 3 ∨ ¬gone ∧ good ∧ st = 0 ∨ ¬gone ∧ ¬good ∧ st = 2

end Sys2Proof.Machine

/-- R461 to R464, R480, R484 to R487, R496 and R498: a GET, PUT, FLAG or MPUT that its window, key, offset, permission or range refuses
is answered NAK and changes no byte; an accepted GET is answered with the bytes of its range; a PUT or FLAG the replay table has not
seen writes exactly its bytes and is answered ACK, and another copy of it is answered from its slot and writes nothing; where the
outcome is not known, NAK. An MPUT goes out on every other port of its tree and, where the local bit is set, writes here; with no
branch left it is answered at once, here or on the port it came in by; one that must leave over a withdrawn port returns as NAK
PATH_FAILED. GET_PACKET, PUT_PACKET, FLAG_PACKET, MPUT_PACKET. -/
def Claims.TargetsCheckAndStore : Prop :=
  ∀ (s : State) (p : Pkt) (x : RPkt) (st : Nat), s.dev.mem.Coherent → s.dev.sys.Sized → s.Comes p x →
    let u := s.dev.sys.less x
    let w := s.dev.sys.window p.window
    let a := w.base + p.offset
    w.part < 16 →
    (p.kind = kGet → s.dev.WindowStatus p p.len 0 false st →
      (st ≠ 0 → ∃ t, exec (.getPacket p) s = .next t ∧ s.OnlyTarget t u ∧ t.dev.mem = s.dev.mem ∧ s.Answered t p kNak st [])
      ∧ (st = 0 → s.dev.rangeUp w.part a p.len = true → s.dev.CleanRange w.part a p.len →
        ∃ t, exec (.getPacket p) s = .next t ∧ s.OnlyTarget t u ∧ s.dev.mem.KeepsBytes t.dev.mem
          ∧ s.Answered t p kData 0 ((List.range p.len).map (fun j => s.dev.byteOf w.part (a + j)))))
    ∧ (∀ c kind, kind = kPut ∧ c = Instr.putPacket p ∧ u.isSegment x = false ∨ kind = kFlag ∧ c = .flagPacket p →
        p.kind = kind → s.dev.WindowStatus p p.len 1 true st →
      (st ≠ 0 → ∃ t, exec c s = .next t ∧ s.OnlyTarget t u ∧ t.dev.mem = s.dev.mem ∧ s.Answered t p kNak st [])
      ∧ (∀ v, st = 0 → u.replayOf w.part p = .fresh v → s.dev.rangeUp w.part a p.len = true → s.dev.Writable w.part [(a, p.payload)] →
        ∃ t, exec c s = .next t ∧ s.OnlyTarget t u ∧ s.Wrote t w.part [(a, p.payload)] ∧ s.Answered t p kAck 0 []
          ∧ ((s.dev.sys.fab.replay.getD w.part ⟨0, 0, []⟩).records ≠ 0 → ∃ v', t.dev.sys.replayOf w.part p = .recorded 0 0 v'))
      ∧ (∀ old val v, st = 0 → u.replayOf w.part p = .recorded old val v →
        ∃ t, exec c s = .next t ∧ s.OnlyTarget t u ∧ t.dev.mem = s.dev.mem ∧ s.Answered t p (if old = 0 then kAck else kNak) old [])
      ∧ (∀ v, st = 0 → u.replayOf w.part p = .unknown v →
        ∃ t, exec c s = .next t ∧ s.OnlyTarget t u ∧ t.dev.mem = s.dev.mem ∧ s.Answered t p kNak 5 []))
    ∧ (p.kind = kMput →
      let e := s.dev.sys.mcast p.dst
      let outs := (List.range 16).filter (fun q => bit e q && q != x.origin)
      let lane (q l : Nat) : Nat := if bit (s.dev.sys.cfgN 0x6300 6) q then 1 else l
      let quiet (P : State → Prop) : Prop := ∃ t, exec (.mputPacket p) s = .next t ∧ s.OnlyTarget t u ∧ t.dev.mem = s.dev.mem ∧ P t
      let queues (t : State) (new : Nat → List TxPkt) : Prop := ∀ q < 16, (t.dev.sys.port q).txQ = (s.dev.sys.port q).txQ ++ new q
      let waits (t : State) (status : Nat) (left : List Nat) : Prop := t.dev.sys.fab.router = s.dev.sys.fab.router
        ∧ (∃ m ∈ t.dev.sys.fab.mputs, m.pkt = p ∧ m.ports = left ∧ m.status = status ∧ m.origin = x.origin)
        ∧ queues t (fun q => if q ∈ outs then [⟨p, x.vc, lane q (if s.dev.sys.portAxis x.origin = s.dev.sys.portAxis q ∧ x.origin ≠ 16
              then x.lane else 0), x.origin, []⟩] else [])
      let sent (t : State) (status : Nat) : Prop :=
        (outs ≠ [] → waits t status outs)
        ∧ (outs = [] → x.origin = 16 → s.Answered t p kAck status [] ∧ t.dev.sys.fab.ports = s.dev.sys.fab.ports)
        ∧ (outs = [] → x.origin ≠ 16 → t.dev.sys.fab.router = s.dev.sys.fab.router ∧ queues t (fun q =>
            if q = x.origin ∧ bit s.dev.sys.routingMask q = true then [⟨replyTo p kAck status [], 1, lane q 0, 16, []⟩] else []))
      (bit e 17 = false → quiet (fun t => t.dev.sys.fab.router = s.dev.sys.fab.router
        ∧ t.dev.sys.fab.unroutable = s.dev.sys.fab.unroutable + 1))
      ∧ (bit e 17 = true → (∃ q ∈ outs, bit s.dev.sys.routingMask q = false) → quiet (fun t => s.Answered t p kNak 4 []))
      ∧ (bit e 17 = true → (∀ q ∈ outs, bit s.dev.sys.routingMask q = true) →
        (bit e 16 = false → quiet (fun t => sent t 0))
        ∧ (bit e 16 = true → s.dev.sys.fidValid = false → quiet (fun t => t.dev.sys.fab.unroutable = s.dev.sys.fab.unroutable + 1
          ∧ waits t 0 (outs ++ [16])))
        ∧ (bit e 16 = true → s.dev.sys.fidValid = true → s.dev.WindowStatus p p.len 2 true st →
          (st ≠ 0 → quiet (fun t => sent t st))
          ∧ (∀ v, st = 0 → u.replayOf w.part p = .fresh v → s.dev.rangeUp w.part a p.len = true →
              s.dev.Writable w.part [(a, p.payload)] →
            ∃ t, exec (.mputPacket p) s = .next t ∧ s.OnlyTarget t u ∧ s.Wrote t w.part [(a, p.payload)] ∧ sent t 0)
          ∧ (∀ old val v, st = 0 → u.replayOf w.part p = .recorded old val v → quiet (fun t => sent t old))
          ∧ (∀ v, st = 0 → u.replayOf w.part p = .unknown v → quiet (fun t => sent t 5)))))

/-- R345, R358 to R360, R472, R487 and R494: a reduction or atomic that its window accepts and the replay table has not seen joins the
executor of the stack of its first line, a reduction of no bytes is answered at once; a copy is answered with what its slot holds. The
executor's head replaces its bytes by the operation of the old ones with its operands and answers, an atomic with the old value, and
its slot records the answer; a COMBINED of atomics applies its constituents' total and answers with the old value, one of gets reads.
RED_PACKET, ATOM_PACKET, COMBINED_PACKET, TARGET_RED, TARGET_ATOM. -/
def Claims.ExecutorsApplyAtomics : Prop :=
  ∀ (s : State) (p : Pkt) (x : RPkt) (st : Nat), s.dev.mem.Coherent → s.dev.sys.Sized →
    let u := s.dev.sys.less x
    let w := s.dev.sys.window p.window
    let a := w.base + p.offset
    let e := elemBytes p.ty
    w.part < 16 →
    let joins (t : State) : Prop := ∀ k, t.dev.sys.host.execQ.getD k [] = s.dev.sys.host.execQ.getD k []
        ++ (if k = (s.dev.locate w.part a).1 then [⟨p, w.part, w.base⟩] else [])
    let quiet (c : Instr) (P : State → Prop) : Prop := ∃ t, exec c s = .next t ∧ s.OnlyTarget t u ∧ t.dev.mem = s.dev.mem ∧ P t
    let rep (t : State) (old val : Nat) : Prop := s.Answered t p
      (if p.kind = kAtom ∧ (old = 5 ∨ old = 0 ∧ bit p.flags 4 = false) then kResult else if old = 0 then kAck else kNak) old
      (if p.kind = kAtom ∧ (old = 5 ∨ old = 0 ∧ bit p.flags 4 = false) then natLe 8 val else [])
    (∀ c n perm kind, kind = kRed ∧ n = p.len ∧ perm = 3 ∧ c = Instr.redPacket p ∨ kind = kAtom ∧ n = e ∧ perm = 4 ∧ c = .atomPacket p →
        s.Comes p x → p.kind = kind → s.dev.WindowStatus p n perm true st →
      (st ≠ 0 → quiet c (fun t => rep t st 0 ∧ t.dev.sys.host.execQ = s.dev.sys.host.execQ))
      ∧ (∀ v, st = 0 → u.replayOf w.part p = .fresh v →
          (n ≠ 0 → quiet c (fun t => joins t ∧ t.dev.sys.fab.router = s.dev.sys.fab.router))
          ∧ (n = 0 → quiet c (fun t => rep t 0 0 ∧ t.dev.sys.host.execQ = s.dev.sys.host.execQ)))
      ∧ (∀ old val v, st = 0 → u.replayOf w.part p = .recorded old val v →
          quiet c (fun t => rep t old val ∧ t.dev.sys.host.execQ = s.dev.sys.host.execQ))
      ∧ (∀ v, st = 0 → u.replayOf w.part p = .unknown v →
          quiet c (fun t => rep t 5 0 ∧ t.dev.sys.host.execQ = s.dev.sys.host.execQ)))
    ∧ (s.Comes p x → p.kind = kCombined →
      (p.op ≠ 15 → s.dev.WindowStatus p e 4 true st →
        (st ≠ 0 → quiet (.combinedPacket p) (fun t => s.Answered t p kNak st []))
        ∧ (st = 0 → quiet (.combinedPacket p) (fun t => joins t ∧ t.dev.sys.fab.router = s.dev.sys.fab.router)))
      ∧ (∀ n, p.op = 15 → n = min (field p.payload 8 8) 4096 → s.dev.WindowStatus p n 0 false st →
        (st ≠ 0 → quiet (.combinedPacket p) (fun t => s.Answered t p kNak st []))
        ∧ (st = 0 → s.dev.rangeUp w.part a n = true → s.dev.CleanRange w.part a n →
          ∃ t, exec (.combinedPacket p) s = .next t ∧ s.OnlyTarget t u ∧ s.dev.mem.KeepsBytes t.dev.mem
            ∧ s.Answered t p kData 0 ((List.range n).map (fun j => s.dev.byteOf w.part (a + j))))))
    ∧ (∀ c stack o rest q, s.dev.sys.host.execQ.getD stack [] = o :: rest → q = o.pkt → o.part < 16 →
        c = Instr.targetRed stack ∧ q.kind = kRed ∨ c = .targetAtom stack ∧ q.kind ≠ kRed → pktWf q = true →
      let n := if q.kind = kRed then q.len else elemBytes q.ty
      let at_ := o.base + q.offset
      let byte (j : Nat) := s.dev.byteOf o.part (at_ + j)
      let old := leNat ((List.range (elemBytes q.ty)).map byte)
      let new := execNew q ((List.range n).map byte)
      s.dev.sys.ready = true → s.dev.sys.kettleRuns stack = true → s.dev.rangeUp o.part at_ n = true → s.dev.Writable o.part [(at_, new)] →
      ∃ t, exec c s = .next t ∧ t.pending = s.pending ∧ s.Wrote t o.part [(at_, new)] ∧ t.dev.sys.core = s.dev.sys.core
        ∧ t.dev.sys.mgmt = s.dev.sys.mgmt ∧ t.dev.sys.fab.deliver = s.dev.sys.fab.deliver
        ∧ (∀ k, t.dev.sys.host.execQ.getD k [] = if k = stack then rest else s.dev.sys.host.execQ.getD k [])
        ∧ (q.kind = kRed → s.Answered t q kAck 0 [])
        ∧ (q.kind = kAtom → bit q.flags 4 = false → s.Answered t q kResult 0 (natLe 8 old))
        ∧ (q.kind = kAtom → bit q.flags 4 = true → s.Answered t q kAck 0 [])
        ∧ (q.kind = kAtom → new = natLe (elemBytes q.ty) (atomNew q.op q.ty old (field q.payload 0 (elemBytes q.ty))
            (field q.payload 8 (elemBytes q.ty))))
        ∧ (q.kind = kCombined → s.Answered t q kResult 0 (natLe 8 old) ∧ ∀ y ys, constituents q.payload = y :: ys →
            new = natLe (elemBytes q.ty) (atomNew q.op q.ty old (ys.foldl (fun acc z => atomNew q.op q.ty acc (z.2.2.2 % 2 ^ (8 * elemBytes q.ty)) 0)
              (y.2.2.2 % 2 ^ (8 * elemBytes q.ty))) 0))
        ∧ (q.kind = kRed → ∀ m, m * elemBytes q.ty < q.len → (new.drop (m * elemBytes q.ty)).take (elemBytes q.ty)
            = natLe (elemBytes q.ty) (atomNew q.op q.ty (leNat ((List.range (elemBytes q.ty)).map (fun j => byte (m * elemBytes q.ty + j))))
                (field q.payload (m * elemBytes q.ty) (elemBytes q.ty)) 0)))

/-- R472, R473, R475, R490, R495, R496 and R705: an answer ends its request; a get's bytes and an atomic's old value reach local
memory; the last answer of a thread's operation writes its status, the largest of its answers, beside the descriptor and counts its
counter, that of a COPY its status word; a NAK PATH_FAILED keeps the request for a resend. The answer to a COMBINED goes to each of its
constituents; one from a tree port counts for that branch; an ACK of a control packet ends its resending. Stated of the statuses with no
event or fault of their own. DATA_REPLY, ACK_REPLY, RESULT_REPLY, NAK_REPLY. -/
def Obligations.RepliesEndTheirRequests : Prop :=
  ∀ (s : State) (p : Pkt) (x : RPkt), s.dev.mem.Coherent → s.dev.sys.Sized → s.dev.sys.core.Ok → s.dev.sys.fab.fences = [] →
    s.Comes p x →
    let u := s.dev.sys.less x
    let is (c : Instr) : Prop := p.kind = kData ∧ c = .dataReply p ∨ p.kind = kAck ∧ c = .ackReply p ∨ p.kind = kResult ∧ c = .resultReply p
      ∨ p.kind = kNak ∧ c = .nakReply p
    (∀ r o c, is c → bit p.flags 3 = false → isMcast p = false → (p.kind = kAck ∨ p.kind = kNak → isCtrlReply p = false) →
        s.dev.sys.answers p = some r → s.dev.sys.op? r.op = some o → s.dev.sys.opDying o = false →
        (p.status = 0 ∨ p.status = 1 ∨ p.status = 3 ∨ p.status = 4) →
      let bs := if p.kind = kData then (p.payload ++ zeros r.pkt.len).take r.pkt.len
        else if p.kind = kResult ∧ bit r.pkt.flags 4 = false then p.payload.take (elemBytes r.pkt.ty) else []
      let answered (P : State → Prop) : Prop := ∃ t, exec c s = .next t ∧ t.pending = s.pending
        ∧ t.dev.sys.fab.deliver = u.fab.deliver ∧ t.dev.sys.fab.router = s.dev.sys.fab.router ∧ P t
      let ended (t : State) : Prop := t.dev.sys.fab.reqs = s.dev.sys.fab.reqs.filter (fun y => y.uid != r.uid)
        ∧ (1 < o.left → t.dev.sys.op? o.id = some { o with left := o.left - 1, status := max o.status p.status })
        ∧ (o.left = 1 → t.dev.sys.op? o.id = none)
      (∀ b, p.kind ≠ kNak ∨ p.status ≠ 4 → o.owner = 0 → o.localShofel = false → 0 < o.left → s.dev.sys.blk o.block = some b →
        answered (fun t => ended t ∧ s.KeepsButPages t
          ∧ (1 < o.left → t.dev.sys.csRead o.block r.addr bs.length = bs
              ∧ s.CsBut t o.block (fun y => r.addr ≤ y ∧ y < r.addr + bs.length))
          ∧ (o.left = 1 → s.CsBut t o.block (fun y => r.addr ≤ y ∧ y < r.addr + bs.length ∨ o.descAddr + 56 ≤ y ∧ y < o.descAddr + 60
                  ∨ o.counter ≤ y ∧ y < o.counter + 4)
              ∧ (overlaps o.counter 4 (o.descAddr + 56) 4 = false → (bs = [] ∨ overlaps o.counter 4 r.addr bs.length = false ∧
                  overlaps (o.descAddr + 56) 4 r.addr bs.length = false) →
                t.dev.sys.csRead o.block r.addr bs.length = bs
                ∧ t.dev.sys.csRead o.block (o.descAddr + 56) 4 = natLe 4 (max o.status p.status)
                ∧ t.dev.sys.csRead o.block o.counter 4 = natLe 4 (leNat (s.dev.sys.csRead o.block o.counter 4) + 1)))))
      ∧ (p.kind ≠ kNak ∨ p.status ≠ 4 → o.localShofel = true → 1 < o.left → s.dev.rangeUp r.part r.addr bs.length = true →
          s.dev.Writable r.part [(r.addr, bs)] →
        answered (fun t => ended t ∧ s.Wrote t r.part [(r.addr, bs)] ∧ t.dev.sys.core = s.dev.sys.core))
      ∧ (p.kind = kAck → o.owner = 1 → o.left = 1 →
          let word := [(o.descAddr + 56, natLe 4 (max o.status p.status))]
          s.dev.rangeOk o.part (o.descAddr + 56) 4 true = true → s.dev.Writable o.part word →
        answered (fun t => ended t ∧ s.Wrote t o.part word ∧ t.dev.sys.core = s.dev.sys.core))
      ∧ (p.kind = kNak → p.status = 4 → answered (fun t => s.KeepsButPages t
          ∧ t.dev.sys.fab.reqs = s.dev.sys.fab.reqs.map (fun y => if y.uid == r.uid then { y with phase := 2 } else y)
          ∧ t.dev.sys.fab.ops = s.dev.sys.fab.ops ∧ t.dev.sys.core = s.dev.sys.core)))
    ∧ (let quiet (c : Instr) (P : State → Prop) : Prop := ∃ t, exec c s = .next t ∧ t.pending = s.pending ∧ s.KeepsButPages t
        ∧ t.dev.sys.core = s.dev.sys.core ∧ t.dev.sys.fab.deliver = u.fab.deliver ∧ t.dev.sys.fab.reqs = s.dev.sys.fab.reqs
        ∧ t.dev.sys.fab.ops = s.dev.sys.fab.ops ∧ P t
      (∀ c, is c → isMcast p = false → (p.kind = kAck ∨ p.kind = kNak → isCtrlReply p = false) →
          (bit p.flags 3 = false ∨ p.dst ≠ s.dev.sys.fid) → s.dev.sys.answers p = none →
        quiet c (fun t => t.dev.sys.fab.router = s.dev.sys.fab.router))
      ∧ (∀ cr, bit p.flags 3 = true → p.dst = s.dev.sys.fid → isMcast p = false →
          s.dev.sys.fab.combined.find? (fun y => y.seq == p.seq) = some cr →
        let each (kind status : Nat) (payload : List Byte) (t : State) : Prop :=
          t.dev.sys.fab.combined = s.dev.sys.fab.combined.filter (fun y => y.seq != p.seq)
          ∧ t.dev.sys.fab.router = s.dev.sys.fab.router ++ cr.items.map (fun q => ⟨replyTo q kind status payload, 1, 0, 16, false⟩)
        (p.kind = kData → quiet (.dataReply p) (each kData 0 p.payload))
        ∧ (p.kind = kNak → quiet (.nakReply p) (each kNak p.status []))
        ∧ (∀ q, p.kind = kResult → p.status = 0 → cr.items = [q] → bit q.flags 4 = false → q.kind = kAtom →
            quiet (.resultReply p) (each kResult 0 (natLe 8 (leNat p.payload)))))
      ∧ (∀ m c, isMcast p = true → x.origin ≠ 16 → ¬(p.kind = kNak ∧ p.status = 4) → p.kind = kAck ∧ c = .ackReply p ∨ p.kind = kNak ∧ c = .nakReply p →
          s.dev.sys.mput? p.dst p.part p.seq p.src = some m → x.origin ∈ m.ports → (∃ q ∈ m.ports, q ≠ x.origin) →
        quiet c (fun t => t.dev.sys.fab.router = s.dev.sys.fab.router
          ∧ t.dev.sys.mput? p.dst p.part p.seq p.src = some { m with ports := m.ports.filter (fun q => q != x.origin), status := max m.status p.status }))
      ∧ (∀ k, p.kind = kAck → isMcast p = false → isCtrlReply p = true → s.dev.sys.ctrl? p = some k →
        quiet (.ackReply p) (fun t => t.dev.sys.fab.ctrlOut = s.dev.sys.fab.ctrlOut.erase k)))

/-! ## Block managers (BLOCK_MANAGER_POLL, SPLICE_TRAINING_TIMEOUT) -/

/-- R524 to R529: a block manager keeps a member's answers and counts none as a missed poll; it accepts narrow links wide enough and
asks for remaps as its policies say, and from the limit of missed polls on declares the member failed, once for its position: the
requests of step 1 go out in order up to the first that fails, which ends the procedure, and with all of them its circuits are requested.
The training timeout ends the procedure after the requests of step 6, and without them where the policy no longer allows it. Whether a
member accepts a request is its own matter and free here (log entry 31). BLOCK_MANAGER_POLL, SPLICE_TRAINING_TIMEOUT. -/
def Obligations.BlockManagersActOnPolls : Prop :=
  ∀ (s : State) (member : Nat), s.dev.sys.mgmtUp = true → s.dev.sys.ready = true → s.dev.sys.Sized →
    let f := s.dev.sys.fab
    let pol (k : Nat) := s.dev.sys.cfgN 0x6400 k
    let acts (c : Instr) (P : State → Prop) : Prop := ∃ t, exec c s = .next t ∧ t.pending = s.pending ∧ t.dev.mem = s.dev.mem
      ∧ t.dev.sys.core = s.dev.sys.core ∧ t.dev.sys.host = s.dev.sys.host ∧ t.dev.sys.fab.ports = f.ports ∧ P t
    let did (c : Instr) (P : FabState → Prop) : Prop := acts c (fun t => t.dev.sys.mgmt = s.dev.sys.mgmt ∧ P t.dev.sys.fab)
    (s.dev.sys.role = 2 → member < 68 →
      (∀ a, did (.blockManagerPoll member (some a)) (fun t => NMap.get t.missed member = 0 ∧ f.bmOut <+: t.bmOut
          ∧ ∀ m, m ≠ member → NMap.get t.missed m = NMap.get f.missed m))
      ∧ (∀ a, pol 3 ≠ 1 → pol 8 = 0 ∨ pol 8 = 2 → (∀ sp, f.splice = some sp → sp.step ≠ 5) →
        let accepts := if pol 1 = 0 then [] else ((List.range 16).filter (fun p => (viewOf a p).state == 3
          && decide (pol 1 ≤ (viewOf a p).width))).map (fun p => (⟨0, member, 0x6020, p + 1, [1]⟩ : BmReq))
        let remaps := if pol 8 = 0 then [] else (a.failed.filter (fun y => y.2 == 0 || y.2 == 4)).map (fun y =>
          (⟨0, member, 0xA210, 1, natLe 1 y.1 ++ [2] ++ zeros 6⟩ : BmReq))
        did (.blockManagerPoll member (some a)) (fun t =>
          (t.polls.find? (fun y => y.1 == member)).map Prod.snd = some a ∧ t.bmOut = f.bmOut ++ accepts ++ remaps
          ∧ t.nActions = f.nActions + accepts.length + remaps.length ∧ t.splice = f.splice))
      ∧ (∀ n, n = NMap.get f.missed member + 1 →
        (n < pol 5 ∨ pol 2 = 0 ∨ s.dev.sys.placeOf member = none ∨ f.splice.isSome = true ∨ member ∈ f.handled →
          did (.blockManagerPoll member none) (fun t => NMap.get t.missed member = n ∧ t.bmOut = f.bmOut ∧ t.splice = f.splice
            ∧ t.nActions = f.nActions))
        ∧ (∀ place, pol 5 ≤ n → pol 2 ≠ 0 → s.dev.sys.placeOf member = some place → f.splice = none → member ∉ f.handled →
          let cuts (masks : List ((Nat × Nat) × (Nat × Nat))) : Prop := masks.length = 6 ∧ ∀ d m, masks[d]? = some m →
            m.1 = s.dev.sys.deviceAt (neighbour place d) ∧ ∀ a, s.dev.sys.seen? m.1 = some a →
              let off := portsMask (s.dev.sys.portsFor m.1 (opposite d))
              m.2 = (without (enabledMask a) off, without (routedMask a) off)
          acts (.blockManagerPoll member none) (fun t => let t := t.dev.sys.fab
            NMap.get t.missed member = n ∧ t.handled = f.handled ++ [member] ∧ ∃ masks k, cuts masks
              ∧ t.bmOut = f.bmOut ++ (cutReqs masks).take k
              ∧ (t.splice = none ∧ t.nActions = f.nActions + 2 ∧ t.circuits = f.circuits
                ∨ (cutReqs masks).length ≤ k ∧ ∃ sp, t.splice = some sp ∧ sp.member = member ∧ sp.place = place ∧ sp.step = 2
                    ∧ sp.masks = masks ∧ sp.waiting.length = sp.ends.length
                    ∧ t.circuits.length = f.circuits.length + sp.ends.length)))))
    ∧ (∀ sp, f.splice = some sp → sp.step = 5 →
      let armed := s.dev.sys.role = 2 ∧ (pol 2 = 1 ∨ pol 2 = 2 ∧ sp.spare = none)
      (¬armed → did .spliceTrainingTimeout (fun t => t.splice = none ∧ t.bmOut = f.bmOut ∧ t.nActions = f.nActions))
      ∧ (armed → did .spliceTrainingTimeout (fun t => t.splice = none ∧ ∃ k, t.bmOut = f.bmOut ++ (s.dev.sys.routeReqs sp).take k
        ∧ (t.nActions = f.nActions + 1 ∨ (s.dev.sys.routeReqs sp).length ≤ k ∧ t.nActions = f.nActions))))
    ∧ ((∀ sp, f.splice = some sp → sp.step ≠ 5) → exec .spliceTrainingTimeout s = .next s)

/-! ## Collectives (COLLECTIVE to COLLECTIVE_COMPLETE) -/

/-- R539 to R544, R548, R553 and R555: a COLLECTIVE whose descriptor and ranges are sound waits for its slot, any other completes
MALFORMED; at its start the slot is idle and takes the next sequence, and stays as it was while another runs. A segment to an owner goes
out as a PUT on the slot's VC with its index, sequence, last and gather fields while fewer than the credit limit are unacknowledged,
its payload the shard's elements, each byte as it stood at the start or stands now, signs and mean with a compressed slot, whose error
memory keeps what is left. COLLECTIVE,
COLLECTIVE_START, SEGMENT_SEND. -/
def Claims.CollectivesStartAndSend : Prop :=
  (∀ (s : State) (r idx : Nat) (c : RCmd), s.dev.mem.Coherent → s.dev.sys.Sized → s.dev.sys.startedCmd r idx 3 0 = some c →
    let p := s.dev.sys.ringPart r
    let a := field c.bytes 24 8
    let b := (List.range 64).map (fun j => s.dev.byteOf p (a + j))
    let ok := s.dev.sys.collFail p b = none ∧ s.dev.collRanges p (CollD.of b) = true
    let x := CollD.of c.desc
    let slot := s.dev.sys.slot x.slot
    (c.checked = false → s.dev.CleanRange p a 64 →
      (ok → ∃ t, exec (.collective r idx) s = .next t ∧ s.OnlyRings t ∧ s.KeepsButPages t
        ∧ (t.dev.sys.ring r).cmds = (s.dev.sys.ring r).cmds.map (fun y => if y.uid = c.uid then { y with checked := true, desc := b } else y)
        ∧ (t.dev.sys.ring r).records = (s.dev.sys.ring r).records)
      ∧ (¬ok → ∃ t, exec (.collective r idx) s = .next t ∧ t.pending = s.pending ∧ t.dev.sys.fab = s.dev.sys.fab
        ∧ s.Completed t r c.uid 1))
    ∧ (c.checked = true → slot.running = none →
      ∃ t n y, exec (.collectiveStart r idx) s = .next t ∧ t.pending = s.pending ∧ t.dev.sys.core = s.dev.sys.core
        ∧ t.dev.sys.slot x.slot = n ∧ n.seq = (slot.seq + 1) % 2 ^ 32 ∧ n.running = some y ∧ y.kind = x.kind ∧ y.e = x.e
        ∧ y.src = x.src ∧ y.res = x.res ∧ y.err = x.err ∧ y.record = x.record ∧ y.uid = c.uid ∧ y.ring = r ∧ y.desc = a
        ∧ y.missing = [] ∧ y.status = 0 ∧ n.ranks = slot.ranks
        ∧ (slot.staged = [] → slot.heldLate = [] → s.KeepsButPages t ∧ y.written = [] ∧ y.heldUse = [] ∧ n.staged = [])
        ∧ ∀ g, g ≠ x.slot → t.dev.sys.slot g = s.dev.sys.slot g)
    ∧ (slot.running ≠ none ∨ c.checked = false → ∃ t, exec (.collectiveStart r idx) s = .next t ∧ s.OnlyRings t ∧ s.KeepsButPages t
        ∧ (t.dev.sys.ring r).cmds = (s.dev.sys.ring r).cmds))
  ∧ ∀ (s : State) (g owner : Nat) (c : Coll), s.dev.mem.Coherent → s.dev.sys.Sized → g < 8 → s.dev.sys.coll g = some c →
    let k := s.dev.sys.slotCfg g
    let slot := s.dev.sys.slot g
    let j := assoc c.nextSeg owner 0
    let total := k.segs c.kind c.e slot.ownRank owner
    let m := segLen (shardLen c.e k.n owner) k.g j
    let first := owner * shardSize c.e k.n + j * k.g
    let src := if c.kind = 2 then c.src + 4096 * j else c.src + first * k.inBytes
    let size := if c.kind = 2 then k.wire 2 c.e slot.ownRank owner j else m * k.inBytes
    let data := (List.range size).map (fun i => s.dev.byteOf k.part (src + i))
    let error := (List.range (2 * m)).map (fun i => s.dev.byteOf k.part (c.err + 2 * first + i))
    let signs (data error : List Byte) := signBlocks (m / 64 + 1)
      ((List.range m).map (fun i => leafCode (!k.fp32) (field data (i * k.inBytes) k.inBytes)))
      ((List.range m).map (fun i => leafCode true (field error (2 * i) 2)))
    let mixed (snap : List Byte) (off : Nat) (now bs : List Byte) : Prop := bs.length = now.length
      ∧ ∀ i < now.length, bs[i]? = now[i]? ∨ bs[i]? = snap[off + i]?
    let sent (t : State) (pay : List Byte) : Prop := (∃ q, t.dev.sys.fab.reqs = s.dev.sys.fab.reqs ++ [q] ∧ q.part = k.part ∧ q.vc = 3 + g
        ∧ q.phase = 0 ∧ q.pkt.kind = kPut ∧ q.pkt.dst = nth slot.ranks owner ∧ q.pkt.window = k.window ∧ q.pkt.key = k.key
        ∧ q.pkt.payload = pay ∧ q.pkt.len = pay.length
        ∧ q.pkt.offset = j + slot.seq % 64 * 2 ^ 32 + (if j + 1 = total then 2 ^ 38 else 0) + (if c.kind = 2 then 2 ^ 39 else 0))
      ∧ ∃ c', t.dev.sys.coll g = some c' ∧ assoc c'.nextSeg owner 0 = j + 1
          ∧ assoc c'.unacked owner 0 = assoc c.unacked owner 0 + 1 ∧ c'.written = c.written ∧ c'.status = c.status
    owner < k.n → j < total → assoc c.unacked owner 0 < k.credit → s.dev.sys.ready = true → s.dev.sys.unitStopped 0x15 0 = false →
    s.dev.sys.resetting k.part = false → s.dev.CleanRange k.part src size →
    (c.kind = 2 ∨ k.compress = false → ∃ t bs, exec (.segmentSend g owner) s = .next t ∧ t.pending = s.pending
        ∧ t.dev.sys.core = s.dev.sys.core ∧ s.KeepsButPages t ∧ sent t bs
        ∧ mixed c.snap.1 (if c.kind = 2 then 4096 * j else first * k.inBytes) data bs)
    ∧ (c.kind ≠ 2 → k.compress = true → s.dev.Writable k.part [(c.err + 2 * first, zeros (2 * m))] →
      ∃ t bs es rest, exec (.segmentSend g owner) s = .next t ∧ t.pending = s.pending ∧ t.dev.sys.core = s.dev.sys.core
        ∧ mixed c.snap.1 (first * k.inBytes) data bs ∧ mixed c.snap.2 (2 * first) error es
        ∧ rest.length = 2 * m ∧ (∀ i < 2 * m, rest[i]? = ((signs bs es).2.flatMap (natLe 2))[i]?
            ∨ rest[i]? = error[i]? ∧ ¬error[i]? = c.snap.2[2 * first + i]?)
        ∧ s.Wrote t k.part [(c.err + 2 * first, rest)] ∧ sent t (signs bs es).1)

/-- R545 to R551, R556 and R564: a segment that its window, its rank or the replay table refuses is answered so; a second copy of a
staged one waits with it, of a consumed one is acknowledged; one of the next sequence is staged; one of a sequence not in reach is
refused with event 0x0404; one that does not fit its collective marks its rank as mismatched, whose further ones are refused. A fitting all-gather segment is written at its place and acknowledged; a fitting contribution waits until
every rank has delivered its own, then the sum of all by the canonical tree is written and each is acknowledged. SEGMENT_INGRESS,
ALL_GATHER_SEGMENT. -/
def Obligations.SegmentsAreTakenOnce : Prop :=
  ∀ (s : State) (p : Pkt) (x : RPkt) (g : Nat) (i : Instr), s.dev.mem.Coherent → s.dev.sys.Sized → g < 8 →
    s.Comes p x → p.kind = kPut → s.dev.sys.segSlot x = some g →
    i = .segmentIngress p ∧ segGather p = false ∨ i = .allGatherSegment p ∧ segGather p = true → s.dev.sys.unitStopped 0x15 0 = false →
    let u := s.dev.sys.less x
    let w := s.dev.sys.window p.window
    let k := s.dev.sys.slotCfg g
    let slot := s.dev.sys.slot g
    let gone := w.state = 2 ∨ w.state = 1 ∧ s.dev.sys.resetting w.part = true
    let fits := w.state ≠ 0 ∧ w.key = p.key ∧ bit w.perms 1 = true
    let does (P : State → Prop) : Prop := ∃ t, exec i s = .next t ∧ t.pending = s.pending ∧ t.dev.sys.fab.deliver = u.fab.deliver
      ∧ t.dev.sys.core.groups = s.dev.sys.core.groups ∧ t.dev.sys.core.blocks = s.dev.sys.core.blocks
      ∧ (∀ h, h ≠ g → t.dev.sys.slot h = s.dev.sys.slot h) ∧ P t
    let answers (kind st : Nat) : Prop := does (fun t => s.KeepsButPages t ∧ s.Answered t p kind st [] ∧ (t.dev.sys.slot g).staged = slot.staged)
    (gone → answers kNak 3)
    ∧ (¬gone → ¬fits ∨ (s.dev.sys.ranks g).idxOf? p.src = none → answers kNak 2)
    ∧ (¬gone → fits → ∀ rank, (s.dev.sys.ranks g).idxOf? p.src = some rank →
      (∀ st v v', u.replayOf w.part p = .recorded st v v' → answers (if st = 0 then kAck else kNak) st)
      ∧ (∀ v, u.replayOf w.part p = .unknown v → answers kNak 5)
      ∧ (∀ v, u.replayOf w.part p = .fresh v →
        let same (q : Nat) : Bool := q % 64 == segSeq p
        let staged := slot.staged.any (fun y => y.rank == rank && same y.seq && y.j == segJ p)
        let used := slot.consumed.any (fun y => y.1 == rank && same y.2.1 && y.2.2 == segJ p)
        let bad := slot.bad.any (fun y => y.1 == rank && same y.2)
        let late := slot.missedBy.any (fun y => y.1 == rank && same y.2.1)
        (staged = true → does (fun t => s.KeepsButPages t ∧ t.dev.sys.fab.router = s.dev.sys.fab.router
          ∧ (t.dev.sys.slot g).staged = slot.staged.map (fun y =>
              if y.rank == rank && same y.seq && y.j == segJ p then { y with dups := y.dups ++ [p] } else y)))
        ∧ (staged = false → used = true → answers kAck 0)
        ∧ (staged = false → used = false → bad = true → answers kNak 1)
        ∧ (staged = false → used = false → bad = false → late = true → does (fun t => s.KeepsButPages t
            ∧ (s.Answered t p kAck 0 [] ∨ s.Answered t p kNak 1 []) ∧ (t.dev.sys.slot g).running = slot.running))
        ∧ (staged = false → used = false → bad = false → late = false →
          (same (slot.seq + 1) = true → does (fun t => s.KeepsButPages t ∧ t.dev.sys.fab.router = s.dev.sys.fab.router
            ∧ (t.dev.sys.slot g).staged = slot.staged ++ [⟨rank, (slot.seq + 1) % 2 ^ 32, segJ p, p, false, []⟩]))
          ∧ (slot.running = none → same slot.seq = true → answers kNak 1)
          ∧ (same slot.seq = false → same (slot.seq + 1) = false → answers kNak 1
            ∧ (slot.seqEventFor ≠ some slot.seq → s.dev.sys.partEnabled k.part = true → s.dev.sys.mgmt.rel.mgmtStopped = false →
                does (fun t => ⟨k.part, 0x0404, g, (natLe 4 slot.seq ++ natLe 4 p.src ++ natLe 1 (segSeq p) ++ zeros 7)⟩
                  ∈ t.dev.sys.host.events)))
          ∧ (∀ c, slot.running = some c → same slot.seq = true → c.mismatched.contains rank = true → answers kNak 1)
          ∧ (∀ c, slot.running = some c → same slot.seq = true → c.mismatched.contains rank = false →
              segGather p ≠ (c.kind == 2) ∨ k.segs c.kind c.e rank slot.ownRank ≤ segJ p
                ∨ p.len ≠ k.wire c.kind c.e rank slot.ownRank (segJ p) ∨ segLast p ≠ (segJ p + 1 == k.segs c.kind c.e rank slot.ownRank) →
            does (fun t => ⟨replyTo p kNak 1 [], 1, 0, 16, false⟩ ∈ t.dev.sys.fab.router
              ∧ (t.dev.sys.coll g).map Coll.mismatched = some (c.mismatched ++ [rank])))
          ∧ (∀ c, slot.running = some c → same slot.seq = true → c.mismatched.contains rank = false →
              segGather p = (c.kind == 2) → segJ p < k.segs c.kind c.e rank slot.ownRank →
              p.len = k.wire c.kind c.e rank slot.ownRank (segJ p) → segLast p = (segJ p + 1 == k.segs c.kind c.e rank slot.ownRank) →
            let place := c.res + rank * shardSize c.e k.n * k.outBytes + 4096 * segJ p
            let m := segLen (shardLen c.e k.n slot.ownRank) k.g (segJ p)
            let mine (y : Seg) : Bool := y.taken && y.seq == slot.seq && y.j == segJ p
            let pktFrom (r : Nat) : Option Pkt := if r = rank then some p else (slot.staged.find? (fun y => mine y && y.rank == r)).map Seg.pkt
            let absent (r : Nat) : Bool := c.missing.contains r || c.mismatched.contains r
            let sum (e : Nat) : Nat := (treeRoot (Nat.log2 k.n + 1) ((List.range k.n).map (fun r =>
              (pktFrom r).map (fun q => nth ((k.decode m q.payload).map k.policy) e)))).getD 0
            let result := (List.range m).flatMap (fun e =>
              if k.resBf16 then natLe 2 (Num.round Num.bf16 (val32 (sum e))) else natLe 4 (sum e))
            let took (t : State) : Prop := ∃ c', (t.dev.sys.slot g).running = some c' ∧ c'.status = c.status ∧ c'.e = c.e
              ∧ (t.dev.sys.slot g).consumed = slot.consumed ++ [(rank, slot.seq, segJ p)]
            (c.kind = 2 → s.dev.Writable k.part [(place, p.payload)] →
              does (fun t => s.Wrote t k.part [(place, p.payload)] ∧ s.Answered t p kAck 0 [] ∧ took t
                ∧ (t.dev.sys.coll g).map Coll.written = some (c.written ++ [(rank, segJ p)])))
            ∧ (c.kind = 1 → (∃ r < k.n, pktFrom r = none ∧ absent r = false) →
              does (fun t => s.KeepsButPages t ∧ t.dev.sys.fab.router = s.dev.sys.fab.router ∧ took t
                ∧ (t.dev.sys.slot g).staged = slot.staged ++ [⟨rank, slot.seq, segJ p, p, true, []⟩]))
            ∧ (c.kind = 1 → (∀ r < k.n, pktFrom r ≠ none ∨ absent r = true) → c.heldUse = [] →
                (slot.ownRank, segJ p) ∉ c.written → (∀ y ∈ slot.staged, ∀ q ∈ y.pkt :: y.dups, q.kind = kPut) →
                s.dev.Writable k.part [(c.res + segJ p * k.g * k.outBytes, result)] →
              does (fun t => s.Wrote t k.part [(c.res + segJ p * k.g * k.outBytes, result)] ∧ took t
                ∧ (t.dev.sys.coll g).map Coll.written = some (c.written ++ [(slot.ownRank, segJ p)])
                ∧ t.dev.sys.fab.router = s.dev.sys.fab.router ++ ((slot.staged.filter mine).flatMap (fun y => y.pkt :: y.dups) ++ [p]).map
                    (fun q => ⟨replyTo q kAck 0 [], 1, 0, 16, false⟩)))))))

/-- R559, R560, R558, R563, R565 and R566: at the end of its straggler budget a bounded reduce-scatter counts the ranks it has heard
nothing of as missing; a stalled collective is told of once, event 0x0401; one that has written all it waits for and whose own segments
are all acknowledged completes with the largest of its statuses, a reduce-scatter with its step record, and its slot is idle; until
then it goes on. STRAGGLER_BUDGET_EXPIRY, COLLECTIVE_STALLED, COLLECTIVE_COMPLETE. -/
def Claims.CollectivesEnd : Prop :=
  ∀ (s : State) (g : Nat) (c : Coll), s.dev.mem.Coherent → s.dev.sys.Sized → g < 8 → s.dev.sys.coll g = some c →
    let k := s.dev.sys.slotCfg g
    let slot := s.dev.sys.slot g
    let here (r : Nat) : Bool := slot.consumed.any (fun y => y.1 == r && y.2.1 == slot.seq) || c.mismatched.contains r
    let miss := (List.range k.n).filter (fun r => !here r)
    let ends := s.dev.sys.received g c = true ∧ s.dev.sys.sentAll g c = true
    let absent := (c.missing ++ c.mismatched).dedup
    let st := max (max c.status (if c.kind = 1 ∧ c.nonfinite ≠ 0 then 7 else 0)) (if c.mismatched = [] then 0 else 1)
    let size := if c.kind = 1 then shardLen c.e k.n slot.ownRank * k.outBytes else c.e * k.outBytes
    let others (t : State) : Prop := t.pending = s.pending ∧ t.dev.sys.core = s.dev.sys.core ∧ ∀ h, h ≠ g → t.dev.sys.slot h = s.dev.sys.slot h
    (c.kind = 1 → k.mode ≠ 0 → c.expired = false → (List.range k.n).any here = true →
      ∃ t c', exec (.stragglerBudgetExpiry g) s = .next t ∧ others t ∧ t.dev.sys.coll g = some c' ∧ c'.expired = true
        ∧ c'.missing = miss ∧ c'.status = c.status
        ∧ (t.dev.sys.slot g).missedBy = miss.map (fun r => (r, slot.seq, c.e)) ++ slot.missedBy
        ∧ ∀ a L, (a, L) ∉ s.dev.places k.part [(c.res, zeros size)] → ¬s.dev.PageByte a L →
            t.dev.mem.byteAt a L = s.dev.mem.byteAt a L)
    ∧ (c.stalled = true ∨ ends → exec (.collectiveStalled g) s = .next s)
    ∧ (c.stalled = false → ¬ends → s.dev.sys.partEnabled k.part = true → s.dev.sys.mgmt.rel.mgmtStopped = false →
      ∃ t, exec (.collectiveStalled g) s = .next t ∧ others t ∧ t.dev.mem = s.dev.mem ∧ t.dev.sys.coll g = some { c with stalled := true }
        ∧ t.dev.sys.host.events = s.dev.sys.host.events
            ++ [⟨k.part, 0x0401, g, natLe 4 slot.seq ++ natLe 4 (s.dev.sys.waitedRank g c) ++ zeros 8⟩])
    ∧ (¬ends → ∃ t, exec (.collectiveComplete g) s = .next t ∧ others t ∧ s.KeepsButPages t ∧ t.dev.sys.coll g = some c)
    ∧ (ends → (∃ y ∈ (s.dev.sys.ring c.ring).cmds, y.uid = c.uid) →
      (∃ t, exec (.collectiveComplete g) s = .next t ∧ others t ∧ t.dev.sys.coll g = none ∧ s.Completed t c.ring c.uid st
        ∧ (∀ d, (t.dev.sys.ring c.ring).records.getLast? = some d → d.detail = if c.kind = 1 then absent.length else 0)
        ∧ (t.dev.sys.slot g).seq = slot.seq)
      ∧ (c.kind = 2 → c.mismatched = [] → s.dev.Writable k.part [statusWord c.desc st 0 0] →
        ∃ t, exec (.collectiveComplete g) s = .next t ∧ s.Wrote t k.part [statusWord c.desc st 0 0])
      ∧ (c.kind = 1 → c.mismatched = [] → s.dev.Writable k.part
          [(c.record, zeros (64 + 4 * absent.length + 8 * (c.heldUse.filter (fun h => decide (h.rank < k.n))).length)), statusWord c.desc st 0 0] →
        ∃ t b, exec (.collectiveComplete g) s = .next t ∧ s.Wrote t k.part [(c.record, b), statusWord c.desc st 0 0]
          ∧ field b 0 4 = slot.seq % 2 ^ 32 ∧ field b 4 4 = k.n % 2 ^ 32 ∧ field b 8 4 = absent.length % 2 ^ 32
          ∧ field b 16 4 = slot.lateDropped % 2 ^ 32 ∧ bit (field b 20 4) 0 = c.expired ∧ bit (field b 20 4) 1 = slot.nfFlag
          ∧ field b 24 8 = c.nonfinite % 2 ^ 64 ∧ field b 32 8 = c.replaced % 2 ^ 64))

/-! ## Events, partition resets, Ethernet ports and queue pairs -/

/-- R582 to R586 and Table 16-6: the oldest waiting event goes into the next slot of its partition's ring when the ring has room, is
counted as lost when it has none, and is dropped for a partition that is not enabled; a poll that finds room after a loss writes
EVENTS_LOST with the number lost and the total into the control block. EVENT_RECORD_WRITE, EVENT_RING_POLL. -/
def Claims.EventsReachTheirRings : Prop :=
  ∀ (s : State) (p : Nat), s.dev.mem.Coherent → s.dev.sys.Sized → s.dev.sys.mgmt.rel.mgmtStopped = false →
    let q := s.dev.sys.part p
    let record (code source seq : Nat) (detail : List Byte) : List Byte :=
      natLe 2 code ++ natLe 2 source ++ natLe 1 p ++ zeros 3 ++ natLe 8 seq ++ (detail ++ zeros 16).take 16
    let slot := q.evAddr + 64 + 32 * ((q.nextSeq - 1) % q.evEntries)
    let ring := s.dev.sys.partEnabled p = true ∧ q.evEntries ≠ 0 ∧ s.dev.rangeOk p q.evAddr (64 + 32 * q.evEntries) true = true
      ∧ s.dev.CleanRange p q.evAddr 8
    let room := q.nextSeq ≤ s.dev.numAt p q.evAddr 8 + q.evEntries
    let did (c : Instr) (P : State → Prop) : Prop := ∃ t, exec c s = .next t ∧ t.pending = s.pending ∧ t.dev.sys.core = s.dev.sys.core
      ∧ t.dev.sys.fab = s.dev.sys.fab ∧ (∀ r, r ≠ p → t.dev.sys.part r = s.dev.sys.part r) ∧ P t
    (∀ e rest, s.dev.sys.host.events = e :: rest → e.part = p →
      let took (P : State → Prop) : Prop := did .eventRecordWrite (fun t => t.dev.sys.host.events = rest ∧ P t)
      (s.dev.sys.partEnabled p = false → took (fun t => t.dev.mem = s.dev.mem))
      ∧ (ring → q.lostSince = 0 → room → ∀ w, w = [(slot, record e.code e.source q.nextSeq e.detail)] → s.dev.Writable p w →
          took (fun t => s.Wrote t p w ∧ (t.dev.sys.part p).nextSeq = q.nextSeq + 1 ∧ (t.dev.sys.part p).lost = q.lost))
      ∧ (ring → ¬room → took (fun t => s.dev.mem.KeepsBytes t.dev.mem ∧ (t.dev.sys.part p).nextSeq = q.nextSeq
          ∧ (t.dev.sys.part p).lost = q.lost + 1 ∧ (t.dev.sys.part p).lostSince = q.lostSince + 1))
      ∧ (ring → q.lostSince ≠ 0 → room → took (fun t => (t.dev.sys.part p).lostTotal = q.lostTotal + q.lostSince
          ∧ q.nextSeq + 1 ≤ (t.dev.sys.part p).nextSeq ∧ (t.dev.sys.part p).lostSince ≤ 1)))
    ∧ (s.dev.sys.host.events = [] → exec .eventRecordWrite s = .next s)
    ∧ (s.dev.sys.ready = true → ring →
      (q.lostSince = 0 ∨ ¬room → did (.eventRingPoll p) (fun t => s.dev.mem.KeepsBytes t.dev.mem ∧ t.dev.sys.host.events = s.dev.sys.host.events
          ∧ (t.dev.sys.part p).nextSeq = q.nextSeq ∧ (t.dev.sys.part p).lostSince = q.lostSince))
      ∧ (q.lostSince ≠ 0 → room → ∀ w, w = [(slot, record 0x0601 0 q.nextSeq (natLe 8 q.lostSince)),
            (q.evAddr + 8, natLe 8 (q.lostTotal + q.lostSince))] → s.dev.Writable p w →
          did (.eventRingPoll p) (fun t => s.Wrote t p w ∧ (t.dev.sys.part p).nextSeq = q.nextSeq + 1
            ∧ (t.dev.sys.part p).lostSince = 0 ∧ (t.dev.sys.part p).lostTotal = q.lostTotal + q.lostSince)))

/-- R464, R575, R589 and R591: once no request checked before it waits in an executor, a partition's reset ends: a waiting set comes
into force, the partition's statistics and fabric counters read zero and event 0x0602 tells whether a set
came; until then the reset goes on. Stated of a reset that moves no core. PARTITION_RESET_APPLY. -/
def Claims.PartitionResetsApply : Prop :=
  ∀ (s : State) (p : Nat), s.dev.mem.Coherent → s.dev.sys.Sized → p < 16 →
    let q := s.dev.sys.part p
    let waits := ∃ l ∈ s.dev.sys.host.execQ, ∃ o ∈ l, o.part = p
    let did (P : State → Prop) : Prop := ∃ t, exec (.partitionResetApply p) s = .next t ∧ t.pending = s.pending
      ∧ t.dev.sys.core.groups = s.dev.sys.core.groups ∧ t.dev.sys.core.blocks = s.dev.sys.core.blocks
      ∧ t.dev.sys.fab.windows = s.dev.sys.fab.windows ∧ t.dev.sys.mgmt.power = s.dev.sys.mgmt.power
      ∧ (∀ r, r ≠ p → (t.dev.sys.part r).inForce = (s.dev.sys.part r).inForce) ∧ P t
    (q.resetStep = 0 ∨ waits → did (fun t => s.KeepsButPages t ∧ (t.dev.sys.part p).inForce = q.inForce
      ∧ (t.dev.sys.part p).resetStep = q.resetStep ∧ t.dev.sys.host.stats = s.dev.sys.host.stats))
    ∧ (q.resetStep ≠ 0 → ¬waits → s.dev.sys.readyRemaps = [] →
      let zeroed (t : State) : Prop := (∀ x ∈ t.dev.sys.host.stats, x.1 / 64 ≠ p)
        ∧ (∀ k, nth (t.dev.sys.fab.pcounts.getD p []) k = 0) ∧ (t.dev.sys.part p).resetStep = 0 ∧ (t.dev.sys.part p).waiting = none
      (q.waiting = none → did (fun t => s.KeepsButPages t ∧ zeroed t ∧ (t.dev.sys.part p).inForce = q.inForce
        ∧ (s.dev.sys.partEnabled p = true → s.dev.sys.mgmt.rel.mgmtStopped = false →
            ⟨p, 0x0602, 0, [1, 0, 0, 0, 0] ++ zeros 11⟩ ∈ t.dev.sys.host.events)))
      ∧ (∀ set, q.waiting = some set → did (fun t => zeroed t ∧ (t.dev.sys.part p).inForce = set
        ∧ (field set.entry 0 1 = 1 → s.dev.sys.mgmt.rel.mgmtStopped = false →
            ⟨p, 0x0602, 0, [1, 0, 0, 0, 1] ++ zeros 11⟩ ∈ t.dev.sys.host.events))))

namespace Sys2Proof.Machine

/-- What an Ethernet port's command leaves alone. -/
def State.OnlyEth (s t : State) (i : Nat) : Prop :=
  t.pending = s.pending ∧ t.dev.mem = s.dev.mem ∧ t.dev.sys.core = s.dev.sys.core ∧ t.dev.sys.fab = s.dev.sys.fab
    ∧ t.dev.sys.host.qps = s.dev.sys.host.qps ∧ t.dev.sys.host.rings = s.dev.sys.host.rings ∧ t.dev.sys.mgmt.dict = s.dev.sys.mgmt.dict
    ∧ ∀ j, j ≠ i → t.dev.sys.eth j = s.dev.sys.eth j

/-- What a queue pair's command leaves alone. -/
def State.OnlyQp (s t : State) (i : Nat) : Prop :=
  t.pending = s.pending ∧ t.dev.sys.core.groups = s.dev.sys.core.groups ∧ t.dev.sys.core.blocks = s.dev.sys.core.blocks
    ∧ t.dev.sys.fab = s.dev.sys.fab ∧ ∀ j, j ≠ i → t.dev.sys.qp j = s.dev.sys.qp j

/-- Queue pair `i` has entered state 2 and every ring in effect that completes on it is stopped. -/
def State.QpFailed (s t : State) (i : Nat) : Prop :=
  (t.dev.sys.qp i).st = 2 ∧ (t.dev.sys.qp i).outstanding = []
    ∧ ∀ r < 64, (s.dev.sys.ring r).inEffect = true → ringQp (s.dev.sys.ringRec r) = i → (t.dev.sys.ring r).state = 4

end Sys2Proof.Machine

/-- R18, R63, R151, R596 to R598 and R600: a port's change of state is counted and logged, and no port comes up that waits for its
light; a frame with a bad check sequence, a length outside 64 to 9,216 bytes, a foreign VLAN, another Ethernet or network address or an
unsupported type, and one for which a buffer without flow control has no room, is dropped and counted, any other fills its priority's
buffer, and a request for one of the port's own addresses is answered; above 768 KiB an enabled priority asks its far end to pause,
repeats that above 512 KiB and ends it below; a pause received is counted, and stops transmission of an enabled priority until quanta 0,
when what it held goes out. T1S answers solicitations of its own address alone. ETH_PORT_STATE, FRAME_RECEIVE, PFC_PAUSE_RECEIVE,
PFC_XOFF_REPEAT. -/
def Obligations.EthernetPortsKeepTheirBuffers : Prop :=
  ∀ (s : State) (i k quanta : Nat) (f : FrameIn) (up : Bool), s.dev.sys.Sized → i < 2 →
    let e := s.dev.sys.eth i
    let lit := s.dev.sys.mgmt.power.lit (i + 4) = true ∧ s.dev.sys.mgmt.power.laserHeld.getD (i + 4) false = true
    let did (c : Instr) (P : EthPort → Prop) : Prop := ∃ t, exec c s = .next t ∧ s.OnlyEth t i ∧ P (t.dev.sys.eth i)
    let one (x : Nat) := min (x + 1) (2 ^ 64 - 1)
    let on := bit (s.dev.sys.cfgN 0x9002 1) k
    let mine (n : FrameNet) : Prop := ∀ a, n = .ask a ∨ n = .echo a ∨ n = .udp a → s.dev.sys.ownAddr i a = true
    (4 ≤ s.dev.sys.mgmt.bring.phase → s.dev.sys.mgmt.bring.phase ≤ 8 →
      (e.up = up ∨ up = true ∧ ¬lit → did (.ethPortState i up) (fun x => x = e))
      ∧ (e.up ≠ up → up = false ∨ lit → ∃ t, exec (.ethPortState i up) s = .next t ∧ s.OnlyEth t i ∧ t.dev.sys.eth i = { e with
            up := up, entriesUp := e.entriesUp + (if up then 1 else 0), entriesDown := e.entriesDown + (if up then 0 else 1) }
          ∧ (s.dev.sys.mgmt.rel.mgmtStopped = false → ∃ y ∈ t.dev.sys.mgmt.rel.log, y.seq = s.dev.sys.mgmt.rel.nextSeq
              ∧ y.kind = 0x0901 ∧ y.unit = i ∧ y.detail = [BitVec.ofNat 8 i, if up then 1 else 0] ++ zeros 14)))
    ∧ (e.up = false → exec (.frameReceive i f) s = .next s ∧ exec (.pfcPauseReceive i k quanta) s = .next s
        ∧ exec (.pfcXoffRepeat i k) s = .next s)
    ∧ (e.up = true → k < 8 → f.priority = k →
      let bad := f.fcsOk = false ∨ f.len < 64 ∨ 9216 < f.len ∨ s.dev.sys.vlanOk i f.vlan = false ∨ f.dest = 1 ∨ f.supported = false
        ∨ ¬mine f.net
      (bad → did (.frameReceive i f) (fun x => nth x.counts 4 = one (nth e.counts 4) ∧ nth x.counts 0 = one (nth e.counts 0)
          ∧ nth x.fill k ≤ nth e.fill k))
      ∧ (¬bad → on = true ∨ nth e.fill k + f.len ≤ 262144 →
        did (.frameReceive i f) (fun x => nth x.counts 4 = nth e.counts 4
          ∧ nth x.counts 0 = one (nth e.counts 0) ∧ f.len ≤ nth x.fill k ∧ nth x.fill k ≤ nth e.fill k + f.len
          ∧ (on = true → 786432 < nth x.fill k → x.xoff.getD k false = true))
        ∧ (∀ a, f.net = .ask a ∨ f.net = .echo a →
          ∃ t, exec (.frameReceive i f) s = .next t ∧ t.dev.sys.host.netReply = some (i, f.net)
            ∧ nth (t.dev.sys.eth i).counts 1 = one (nth e.counts 1)))
      ∧ (quanta ≠ 0 → did (.pfcPauseReceive i k quanta) (fun x => x = { e with
          counts := addAt e.counts 6 1, pausedTx := if on then setNth e.pausedTx k true else e.pausedTx }))
      ∧ did (.pfcPauseReceive i k 0) (fun x => x = (if on then { e with
          counts := addAt (addAt e.counts 6 1) 1 (nth e.heldTx k), pausedTx := setNth e.pausedTx k false, heldTx := setNth e.heldTx k 0 }
          else { e with counts := addAt e.counts 6 1 }))
      ∧ (e.xoff.getD k false = true → did (.pfcXoffRepeat i k) (fun x => nth x.fill k ≤ nth e.fill k
          ∧ (524288 < nth x.fill k → x.xoff = e.xoff ∧ nth x.counts 5 = one (nth e.counts 5))
          ∧ (nth x.fill k < 524288 → x.xoff.getD k false = false ∧ nth x.counts 5 = one (nth e.counts 5))))
      ∧ (e.xoff.getD k false = false → exec (.pfcXoffRepeat i k) s = .next s))
    ∧ (∀ b, f.net = .ask (.v6 b) → s.dev.sys.mgmtUp = true → f.fcsOk = true →
      (b = linkLocal s.dev.sys.mgmt.sec.mgmtMac → ∃ t, exec (.frameReceive 2 f) s = .next t ∧ s.OnlyEth t 2
        ∧ t.dev.sys.host.netReply = some (2, f.net))
      ∧ (b ≠ linkLocal s.dev.sys.mgmt.sec.mgmtMac → exec (.frameReceive 2 f) s = .next s))

/-- R599, R604 to R608 and R621: a ready queue pair's rate falls at a CNP and rises with each interval, within its bounds; a write or
read whose key, access bit or range is refused is answered with a NAK for remote access error, else the bytes are written or
returned; a SEND goes to its slot with its length and number, or finds no room; an invalid request, and the retry count's end, put the
queue pair into state 2 and stop its rings; an answer releases the oldest request, read data reach their place and complete their
COPY; an RNR NAK has it sent again under its own count, of which 7 is unlimited. CNP_RECEIVE, RATE_INCREASE, RDMA_WRITE_RECEIVE, RDMA_READ_REQUEST, SEND_RECEIVE, INVALID_REQUEST, RDMA_RETRANSMIT_TIMEOUT,
RDMA_RESPONSE_RECEIVE. -/
def Obligations.QueuePairsAnswer : Prop :=
  ∀ (s : State) (i addr rkey len : Nat) (data : List Byte) (ce : Bool), s.dev.mem.Coherent → s.dev.sys.Sized → s.dev.sys.qpLive i = true →
    let q := s.dev.sys.qp i
    let p := q.part
    let did (c : Instr) (P : State → Prop) : Prop := ∃ t, exec c s = .next t ∧ s.OnlyQp t i ∧ P t
    let reply (c : Instr) (kind : Nat) : Prop := did c (fun t => s.KeepsButPages t ∧ (t.dev.sys.qp i).lastReply = kind
      ∧ (t.dev.sys.qp i).psnIn = q.psnIn ∧ (t.dev.sys.qp i).sends = q.sends ∧ (t.dev.sys.qp i).outstanding = q.outstanding)
    let fails (c : Instr) : Prop := did c (fun t => s.KeepsButPages t ∧ s.QpFailed t i)
    let rate (c : Instr) (v : Num.Val) : Prop := did c (fun t => t.dev.mem = s.dev.mem ∧ t.dev.sys.qp i = { q with rate := v })
    rate (.cnpReceive i) (maxVal (Num.ofInt (s.dev.sys.cfgN 0x9003 4)) (q.rate.mul ((Num.ofInt 1).add (f32Val (s.dev.sys.cfg 0x9003 1)).neg)))
    ∧ rate (.rateIncrease i) (minVal (Num.ofInt 800) (q.rate.add (Num.ofInt (s.dev.sys.cfgN 0x9003 3))))
    ∧ (¬(q.access 0 = true ∧ rkey = q.rkey ∧ s.dev.rangeOk p addr data.length true = true) → reply (.rdmaWriteReceive i addr rkey data ce) 3)
    ∧ (q.access 0 = true → rkey = q.rkey → s.dev.Writable p [(addr, data)] → s.dev.rangeOk p addr data.length true = true →
        s.dev.rangeUp p addr data.length = true →
      did (.rdmaWriteReceive i addr rkey data ce) (fun t => s.Wrote t p [(addr, data)] ∧ (t.dev.sys.qp i).lastReply = 1
        ∧ (t.dev.sys.qp i).psnIn = (q.psnIn + q.packets data.length) % 2 ^ 24))
    ∧ (¬(q.access 1 = true ∧ rkey = q.rkey ∧ s.dev.rangeOk p addr len false = true) → reply (.rdmaReadRequest i addr rkey len) 3)
    ∧ (q.access 1 = true → rkey = q.rkey → s.dev.rangeOk p addr len false = true → s.dev.rangeUp p addr len = true →
        s.dev.CleanRange p addr len →
      did (.rdmaReadRequest i addr rkey len) (fun t => s.dev.mem.KeepsBytes t.dev.mem ∧ (t.dev.sys.qp i).lastReply = 6
        ∧ (t.dev.sys.qp i).psnIn = (q.psnIn + q.packets len) % 2 ^ 24
        ∧ (t.dev.sys.qp i).lastData = (List.range len).map (fun j => s.dev.byteOf p (addr + j))))
    ∧ fails (.invalidRequest i) ∧ (4096 < data.length → fails (.sendReceive i data))
    ∧ (data.length ≤ 4096 → q.access 2 = false → reply (.sendReceive i data) 3)
    ∧ (data.length ≤ 4096 → q.access 2 = true → q.slots = 0 → reply (.sendReceive i data) 5)
    ∧ (∀ area, area = q.area → data.length ≤ 4096 → q.access 2 = true → q.slots ≠ 0 →
      (s.dev.rangeOk p area (64 + 4160 * q.slots) true = false → reply (.sendReceive i data) 3)
      ∧ (s.dev.rangeOk p area (64 + 4160 * q.slots) true = true → s.dev.rangeUp p area (64 + 4160 * q.slots) = true →
          s.dev.CleanRange p area 8 →
        (s.dev.numAt p area 8 + q.slots < q.sends + 1 → reply (.sendReceive i data) 5)
        ∧ (q.sends + 1 ≤ s.dev.numAt p area 8 + q.slots → ∀ slot w, slot = area + 64 + 4160 * (q.sends % q.slots) →
            w = [(slot, data), (slot + 4096, natLe 4 data.length), (slot + 4104, natLe 8 (q.sends + 1))] → s.dev.Writable p w →
          did (.sendReceive i data) (fun t => s.Wrote t p w ∧ (t.dev.sys.qp i).lastReply = 1 ∧ (t.dev.sys.qp i).sends = q.sends + 1))))
    ∧ (q.outstanding ≠ [] →
      (bits (field q.record 49 1) 2 0 ≤ q.retries → fails (.rdmaRetransmitTimeout i) ∧ fails (.rdmaResponseReceive i 2 data))
      ∧ (q.retries < bits (field q.record 49 1) 2 0 → ∀ c, c = .rdmaRetransmitTimeout i ∨ c = .rdmaResponseReceive i 2 data →
        did c (fun t => s.KeepsButPages t ∧ t.dev.sys.qp i = { q with retries := q.retries + 1 }))
      ∧ (let n := bits (field q.record 49 1) 6 4
        (n ≠ 7 → n ≤ q.rnrs → fails (.rdmaResponseReceive i 4 data))
        ∧ (n = 7 ∨ q.rnrs < n → did (.rdmaResponseReceive i 4 data) (fun t => s.KeepsButPages t
            ∧ t.dev.sys.qp i = { q with rnrs := q.rnrs + 1 }))))
    ∧ (∀ m rest, q.outstanding = m :: rest →
      (m.read = false → did (.rdmaResponseReceive i 0 data) (fun t => s.KeepsButPages t
        ∧ t.dev.sys.qp i = { q with outstanding := rest, retries := 0, rnrs := 0 }))
      ∧ fails (.rdmaResponseReceive i 3 data)
      ∧ (∀ idx c, m.read = true → data.length = m.len → m.cmd = some idx → (s.dev.sys.ring m.ring).cmd? idx = some c →
          s.dev.rangeOk (s.dev.sys.ringPart m.ring) m.dest m.len true = true → s.dev.rangeUp (s.dev.sys.ringPart m.ring) m.dest m.len = true →
          s.dev.Writable (s.dev.sys.ringPart m.ring) [(m.dest, data)] →
        did (.rdmaResponseReceive i 1 data) (fun t => s.Wrote t (s.dev.sys.ringPart m.ring) [(m.dest, data)]
          ∧ t.dev.sys.qp i = { q with outstanding := rest, retries := 0, rnrs := 0 } ∧ s.Completed t m.ring c.uid 0)))
/-! ## The test access port (BYPASS to SITE_SCAN) -/

/-- R69 and R677: on a powered port that is not open for an instruction's scope, every instruction executes as BYPASS: the
1-bit register is selected and nothing but the port's own registers changes; TDO is driven in the shift states alone. BYPASS, IDCODE, SAMPLE/PRELOAD, EXTEST, MGMT_HALT,
MGMT_MEM, SITE_SCAN. -/
def Claims.ClosedPortBypasses : Prop :=
  ∀ (s : State) (tdi halt wr : Bool) (pins pre addr data site seg : Nat), s.dev.sys.mgmt.power.mgmtRail = true →
    exec (.tapBypass tdi) s = .next { s with dev.sys.mgmt.sec :=
      { s.dev.sys.mgmt.sec with ir := 0xFF, bypass := tdi, tdo := 0, extest := false } }
    ∧ (s.dev.sys.mgmt.sec.debugOpen = false →
      (∃ t, exec .tapIdcode s = .next t ∧ exec (.tapBypass false) s = .next t)
      ∧ (∃ t, exec (.samplePreload pins pre) s = .next t ∧ exec (.tapBypass (bit pre 0)) s = .next t)
      ∧ (∃ t, exec (.tapExtest pins) s = .next t ∧ exec (.tapBypass false) s = .next t)
      ∧ (∃ t, exec (.mgmtHalt halt) s = .next t ∧ exec (.tapBypass halt) s = .next t)
      ∧ (∃ t, exec (.mgmtMem wr addr data) s = .next t ∧ exec (.tapBypass (bit data 0)) s = .next t)
      ∧ (∃ t, exec (.siteScan site seg) s = .next t ∧ exec (.tapBypass (bit seg 0)) s = .next t))
    ∧ ∀ k, s.dev.sys.tdoPin .idle k = .highZ ∧ (s.dev.sys.mgmt.power.atRest = false → s.dev.sys.tdoPin .shiftIr k ≠ .highZ
        ∧ s.dev.sys.tdoPin .shiftDr k = if bit s.dev.sys.mgmt.sec.tdo k then .high else .low)

/-- R677: an open port reads its identification code, captures the 20 signals and loads the boundary register, drives them, halts
or releases the management core, and shifts a site's chain; MGMT_MEM writes eight bytes but none of the key area, which it reads
as zero. Bytes nothing has written and a chain not yet shifted read as free values. IDCODE, SAMPLE/PRELOAD, EXTEST, MGMT_HALT,
MGMT_MEM, SITE_SCAN. -/
def Claims.OpenPortExecutes : Prop :=
  ∀ (s : State) (halt : Bool) (pins pre addr data site seg : Nat),
    s.dev.sys.mgmt.power.mgmtRail = true → s.dev.sys.mgmt.sec.debugOpen = true → s.dev.sys.mgmt.sec.scope = 3 →
    exec .tapIdcode s = .next { s with dev.sys.mgmt.sec := { s.dev.sys.mgmt.sec with ir := 1, tdo := 0x20009A5D, extest := false } }
    ∧ exec (.samplePreload pins pre) s = .next { s with dev.sys.mgmt.sec :=
        { s.dev.sys.mgmt.sec with ir := 2, tdo := pins % 2 ^ 20, boundary := pre % 2 ^ 20, extest := false } }
    ∧ exec (.tapExtest pins) s = .next { s with dev.sys.mgmt.sec :=
        { s.dev.sys.mgmt.sec with ir := 0, tdo := pins % 2 ^ 20, extest := true } }
    ∧ exec (.mgmtHalt halt) s = .next { s with dev.sys.mgmt.sec :=
        { s.dev.sys.mgmt.sec with ir := 0x40, tdo := if s.dev.sys.mgmt.sec.halted then 1 else 0, halted := halt, extest := false } }
    ∧ (∃ t, exec (.mgmtMem true addr data) s = .next t ∧ t.pending = s.pending ∧ t.dev.mem = s.dev.mem
        ∧ (∀ i < 8, addr + i < 2 ^ 32 → s.dev.sys.mgmt.sec.isKey (addr + i) = false → ∀ c,
            t.dev.sys.mgmt.sec.memByte c (addr + i) = data / 2 ^ (8 * i) % 256)
        ∧ (∀ a c, s.dev.sys.mgmt.sec.isKey a = true → t.dev.sys.mgmt.sec.memByte c a = 0)
        ∧ (∀ a c, (∀ i < 8, a ≠ (addr + i) % 2 ^ 32) → t.dev.sys.mgmt.sec.memByte c a = s.dev.sys.mgmt.sec.memByte c a)
        ∧ t.dev.sys.mgmt.sec.debugOpen = true ∧ t.dev.sys.core = s.dev.sys.core ∧ t.dev.sys.host = s.dev.sys.host)
    ∧ (site < 2 ^ 16 → ∃ t, exec (.siteScan site seg) s = .next t ∧ t.pending = s.pending ∧ t.dev.mem = s.dev.mem
        ∧ t.dev.sys.core = s.dev.sys.core ∧ ∃ u, exec (.siteScan site 0) t = .next u
        ∧ u.dev.sys.mgmt.sec.tdo = seg % 2 ^ 160)


/-! ## Statements over several claims -/

/-- What power-on leaves: nothing runs, and every invariant stated below holds. (Model's choice where a log entry marks a reset value.) The claims named here carry the rules and the rows. -/
def Obligations.ResetLeavesAStoppedBlock : Prop := Claims.ResetLeavesNothingRunning ∧ Claims.InvariantsHoldAtReset

/-- R52 and R57 for the steps: every step of every command keeps the tables' sizes and both throttle steps between 8 and 32. The claims named here carry the rules and the rows. -/
def Obligations.SizesAndStepsStay : Prop := Claims.TablesKeepTheirSizes ∧ Claims.ThrottleStepsStayInRange

/-- The overvoltage stop, the management rail, the reset pin and the reference clock. The claims named here carry the rules and the rows. -/
def Obligations.StagesClockAndReset : Prop := Claims.OvervoltageStopsAndRestarts ∧ Claims.RailsStartBringUp ∧ Claims.ResetPinRestarts ∧ Claims.ReferenceClockWait

/-- Both throttle steps fall with samples above their limits and rise with quiet windows. The claims named here carry the rules and the rows. -/
def Obligations.ThrottleStepsMove : Prop := Claims.PowerSampleLowersSteps ∧ Claims.RaiseWindowRaisesSteps

/-- Bring-up from FW_VERIFY to LINK_TRAIN: each phase ends as its checks say. The claims named here carry the rules and the rows. -/
def Obligations.PhasesEndInOrder : Prop := Claims.FirmwareVerifyEnds ∧ Claims.ClockStartEnds ∧ Claims.StackTrainingOutcomes ∧ Claims.LinkTrainDeadlineEnds

/-- The core tests of bring-up, and the assignment of numbers to sites. The claims named here carry the rules and the rows. -/
def Obligations.CoresAreTestedAndAssigned : Prop := Claims.RowsTestedAndPowered ∧ Claims.AssignmentCommitted

/-- An ODP session from OPEN over PROVE to its end. The claims named here carry the rules and the rows. -/
def Obligations.SessionsOpenAndEnd : Prop := Claims.OpenTakesASlot ∧ Claims.ProveOpensOrFrees ∧ Claims.SessionEndDiscardsSets

/-- Datagrams that arrive while a request executes wait; an accepted read answers the object's value; a rejected write answers its abort code and changes no object. The claims named here carry the rules and the rows. -/
def Obligations.RequestsAreAnswered : Prop := Claims.DatagramsWaitTheirTurn ∧ Claims.ReadsAnswerTheValue ∧ Claims.RejectedWriteChangesNoObject

/-- A journal record is whole or leaves no trace, and a compaction loses none. The claims named here carry the rules and the rows. -/
def Obligations.JournalRecordIsAtomic : Prop := Claims.JournalRecordEnds ∧ Claims.CompactionKeepsTheStore

/-- Members of a coupled group wait in the session's set until its commit takes all of them or none. The claims named here carry the rules and the rows. -/
def Obligations.SetsAreHeldAndCommitted : Prop := Claims.PendingSetsHoldMembers ∧ Claims.CommitIsAllOrNothing

/-- Writes of windows, replay areas, multicast groups, ports and circuits. The claims named here carry the rules and the rows. -/
def Obligations.FabricAndPortWrites : Prop := Claims.FabricTablesTakeTheirEntry ∧ Claims.PortAndCircuitWrites

/-- Writes of statistics sets, epochs and queue pair records. The claims named here carry the rules and the rows. -/
def Obligations.StatisticsEpochAndQueuePairWrites : Prop := Claims.StatisticsWrites ∧ Claims.EpochWrites ∧ Claims.QueuePairRecordMoves

/-- Writes that reset the device or a partition, stage firmware, and act on keys and tokens. The claims named here carry the rules and the rows. -/
def Obligations.ResetImageAndSecurityWrites : Prop := Claims.ResetWrites ∧ Claims.ImageWrites ∧ Claims.SecurityWrites

/-- Quarantine of a core, remaps with their tests, and the ageing monitors. The claims named here carry the rules and the rows. -/
def Obligations.CoreFailureWrites : Prop := Claims.QuarantineKillsContexts ∧ Claims.RemapRequests ∧ Claims.RemapTestsAndAgeing

/-- Every executing lane takes the value its instruction gives its registers or predicates. The claims named here carry the rules and the rows. -/
def Obligations.LanesTakeValuesAndPredicates : Prop := Claims.LanesTakeTheirValues ∧ Claims.PredicatesAreWritten

/-- Fences, barriers and waits hold a group until what they name has ended. The claims named here carry the rules and the rows. -/
def Obligations.FencesAndWaitsHold : Prop := Claims.FencesOrderEarlierAccesses ∧ Claims.GroupsWaitAndGoOn

/-- Collectors and results between issue and completion, stalls, and the end of a killed context. The claims named here carry the rules and the rows. -/
def Obligations.IssueStallsAndKills : Prop := Claims.CollectorsBanksAndResults ∧ Claims.StallsAndKills

/-- An issue adds its products to its tile; a drain writes the tile out. The claims named here carry the rules and the rows. -/
def Obligations.MatrixTilesAccumulateAndDrain : Prop := Claims.MatrixOperationAccumulates ∧ Claims.DrainWritesItsTile

/-- A Kettle descriptor ends by writing its results and its status. The claims named here carry the rules and the rows. -/
def Obligations.EnginesWriteTheirResults : Prop := Claims.DescriptorsWriteTheirResults ∧ Claims.RootsConvergeOrAreHeld

/-- Decode queues open and close, and hold pushes and takes in order. The claims named here carry the rules and the rows. -/
def Obligations.DecodeQueuesHoldTheirWork : Prop := Claims.DecodeQueuesOpenAndClose ∧ Claims.PushesAndTakesWait

/-- Doorbell pages, and the reading, checking and starting of commands. The claims named here carry the rules and the rows. -/
def Obligations.RingsReadTheirCommands : Prop := Claims.DoorbellPagesAreRead ∧ Claims.CommandsAreReadAndStarted

/-- An UPDATE is checked and starts; its epoch commits, aborts and is published. The claims named here carry the rules and the rows. -/
def Obligations.EpochMachinesRun : Prop := Claims.UpdatesAreCheckedAndStart ∧ Claims.EpochsCommitOrAbort

/-- Ports train, exchange hellos and take the state their plan gives. The claims named here carry the rules and the rows. -/
def Obligations.PortsTrainAndMeet : Prop := Claims.PortsTrainStepByStep ∧ Claims.HellosDecideThePortState

/-- Remote operations of threads and of COPY commands enter the request queue. The claims named here carry the rules and the rows. -/
def Obligations.RemoteOperationsEnterTheQueue : Prop := Claims.RemoteOperationsEnter ∧ Claims.CopiesEnterRemoteOperations

/-- Requests at their target are checked, executed once and answered. The claims named here carry the rules and the rows. -/
def Obligations.TargetsExecuteRequests : Prop := Claims.TargetsCheckAndStore ∧ Claims.ExecutorsApplyAtomics

/-- Collectives from their check over their start and their segments sent to their completion. The claims named here carry the rules and the rows. -/
def Obligations.CollectivesRunAndEnd : Prop := Claims.CollectivesStartAndSend ∧ Claims.CollectivesEnd

/-- Event records, and the end of a partition reset. The claims named here carry the rules and the rows. -/
def Obligations.EventsAndPartitionResets : Prop := Claims.EventsReachTheirRings ∧ Claims.PartitionResetsApply

/-- The test port bypasses every instruction while closed and executes them when open. The claims named here carry the rules and the rows. -/
def Obligations.TestPortFollowsItsLock : Prop := Claims.ClosedPortBypasses ∧ Claims.OpenPortExecutes
end

