-- ==== Sys2Proof/Laws/State.lean ====
section
/-! SUPPORT. The lifted updates of the state, one lemma per part and per update: each changes its own part by its function and
leaves every other part as it is. Later proofs cite these and unfold no update. -/

namespace Sys2Proof.Machine

open Sys2Proof

variable (s : Sys)

/-! ### Sys.onCore -/

@[simp] theorem Sys.onCore_core (f : CoreState → CoreState) : (s.onCore f).core = f s.core := rfl
@[simp] theorem Sys.onCore_host (f : CoreState → CoreState) : (s.onCore f).host = s.host := rfl
@[simp] theorem Sys.onCore_fab (f : CoreState → CoreState) : (s.onCore f).fab = s.fab := rfl
@[simp] theorem Sys.onCore_freeCtr (f : CoreState → CoreState) : (s.onCore f).freeCtr = s.freeCtr := rfl
@[simp] theorem Sys.onCore_dict (f : CoreState → CoreState) : (s.onCore f).mgmt.dict = s.mgmt.dict := rfl
@[simp] theorem Sys.onCore_bring (f : CoreState → CoreState) : (s.onCore f).mgmt.bring = s.mgmt.bring := rfl
@[simp] theorem Sys.onCore_power (f : CoreState → CoreState) : (s.onCore f).mgmt.power = s.mgmt.power := rfl
@[simp] theorem Sys.onCore_rel (f : CoreState → CoreState) : (s.onCore f).mgmt.rel = s.mgmt.rel := rfl
@[simp] theorem Sys.onCore_sec (f : CoreState → CoreState) : (s.onCore f).mgmt.sec = s.mgmt.sec := rfl
@[simp] theorem Sys.onCore_cycles (f : CoreState → CoreState) : (s.onCore f).mgmt.cycles = s.mgmt.cycles := rfl

/-! ### Sys.onHost -/

@[simp] theorem Sys.onHost_core (f : HostState → HostState) : (s.onHost f).core = s.core := rfl
@[simp] theorem Sys.onHost_host (f : HostState → HostState) : (s.onHost f).host = f s.host := rfl
@[simp] theorem Sys.onHost_fab (f : HostState → HostState) : (s.onHost f).fab = s.fab := rfl
@[simp] theorem Sys.onHost_freeCtr (f : HostState → HostState) : (s.onHost f).freeCtr = s.freeCtr := rfl
@[simp] theorem Sys.onHost_dict (f : HostState → HostState) : (s.onHost f).mgmt.dict = s.mgmt.dict := rfl
@[simp] theorem Sys.onHost_bring (f : HostState → HostState) : (s.onHost f).mgmt.bring = s.mgmt.bring := rfl
@[simp] theorem Sys.onHost_power (f : HostState → HostState) : (s.onHost f).mgmt.power = s.mgmt.power := rfl
@[simp] theorem Sys.onHost_rel (f : HostState → HostState) : (s.onHost f).mgmt.rel = s.mgmt.rel := rfl
@[simp] theorem Sys.onHost_sec (f : HostState → HostState) : (s.onHost f).mgmt.sec = s.mgmt.sec := rfl
@[simp] theorem Sys.onHost_cycles (f : HostState → HostState) : (s.onHost f).mgmt.cycles = s.mgmt.cycles := rfl

/-! ### Sys.onFab -/

@[simp] theorem Sys.onFab_core (f : FabState → FabState) : (s.onFab f).core = s.core := rfl
@[simp] theorem Sys.onFab_host (f : FabState → FabState) : (s.onFab f).host = s.host := rfl
@[simp] theorem Sys.onFab_fab (f : FabState → FabState) : (s.onFab f).fab = f s.fab := rfl
@[simp] theorem Sys.onFab_freeCtr (f : FabState → FabState) : (s.onFab f).freeCtr = s.freeCtr := rfl
@[simp] theorem Sys.onFab_dict (f : FabState → FabState) : (s.onFab f).mgmt.dict = s.mgmt.dict := rfl
@[simp] theorem Sys.onFab_bring (f : FabState → FabState) : (s.onFab f).mgmt.bring = s.mgmt.bring := rfl
@[simp] theorem Sys.onFab_power (f : FabState → FabState) : (s.onFab f).mgmt.power = s.mgmt.power := rfl
@[simp] theorem Sys.onFab_rel (f : FabState → FabState) : (s.onFab f).mgmt.rel = s.mgmt.rel := rfl
@[simp] theorem Sys.onFab_sec (f : FabState → FabState) : (s.onFab f).mgmt.sec = s.mgmt.sec := rfl
@[simp] theorem Sys.onFab_cycles (f : FabState → FabState) : (s.onFab f).mgmt.cycles = s.mgmt.cycles := rfl

/-! ### Sys.onDict -/

@[simp] theorem Sys.onDict_core (f : DictState → DictState) : (s.onDict f).core = s.core := rfl
@[simp] theorem Sys.onDict_host (f : DictState → DictState) : (s.onDict f).host = s.host := rfl
@[simp] theorem Sys.onDict_fab (f : DictState → DictState) : (s.onDict f).fab = s.fab := rfl
@[simp] theorem Sys.onDict_freeCtr (f : DictState → DictState) : (s.onDict f).freeCtr = s.freeCtr := rfl
@[simp] theorem Sys.onDict_dict (f : DictState → DictState) : (s.onDict f).mgmt.dict = f s.mgmt.dict := rfl
@[simp] theorem Sys.onDict_bring (f : DictState → DictState) : (s.onDict f).mgmt.bring = s.mgmt.bring := rfl
@[simp] theorem Sys.onDict_power (f : DictState → DictState) : (s.onDict f).mgmt.power = s.mgmt.power := rfl
@[simp] theorem Sys.onDict_rel (f : DictState → DictState) : (s.onDict f).mgmt.rel = s.mgmt.rel := rfl
@[simp] theorem Sys.onDict_sec (f : DictState → DictState) : (s.onDict f).mgmt.sec = s.mgmt.sec := rfl
@[simp] theorem Sys.onDict_cycles (f : DictState → DictState) : (s.onDict f).mgmt.cycles = s.mgmt.cycles := rfl

/-! ### Sys.onBring -/

@[simp] theorem Sys.onBring_core (f : BringUp → BringUp) : (s.onBring f).core = s.core := rfl
@[simp] theorem Sys.onBring_host (f : BringUp → BringUp) : (s.onBring f).host = s.host := rfl
@[simp] theorem Sys.onBring_fab (f : BringUp → BringUp) : (s.onBring f).fab = s.fab := rfl
@[simp] theorem Sys.onBring_freeCtr (f : BringUp → BringUp) : (s.onBring f).freeCtr = s.freeCtr := rfl
@[simp] theorem Sys.onBring_dict (f : BringUp → BringUp) : (s.onBring f).mgmt.dict = s.mgmt.dict := rfl
@[simp] theorem Sys.onBring_bring (f : BringUp → BringUp) : (s.onBring f).mgmt.bring = f s.mgmt.bring := rfl
@[simp] theorem Sys.onBring_power (f : BringUp → BringUp) : (s.onBring f).mgmt.power = s.mgmt.power := rfl
@[simp] theorem Sys.onBring_rel (f : BringUp → BringUp) : (s.onBring f).mgmt.rel = s.mgmt.rel := rfl
@[simp] theorem Sys.onBring_sec (f : BringUp → BringUp) : (s.onBring f).mgmt.sec = s.mgmt.sec := rfl
@[simp] theorem Sys.onBring_cycles (f : BringUp → BringUp) : (s.onBring f).mgmt.cycles = s.mgmt.cycles := rfl

/-! ### Sys.onPower -/

@[simp] theorem Sys.onPower_core (f : PowerState → PowerState) : (s.onPower f).core = s.core := rfl
@[simp] theorem Sys.onPower_host (f : PowerState → PowerState) : (s.onPower f).host = s.host := rfl
@[simp] theorem Sys.onPower_fab (f : PowerState → PowerState) : (s.onPower f).fab = s.fab := rfl
@[simp] theorem Sys.onPower_freeCtr (f : PowerState → PowerState) : (s.onPower f).freeCtr = s.freeCtr := rfl
@[simp] theorem Sys.onPower_dict (f : PowerState → PowerState) : (s.onPower f).mgmt.dict = s.mgmt.dict := rfl
@[simp] theorem Sys.onPower_bring (f : PowerState → PowerState) : (s.onPower f).mgmt.bring = s.mgmt.bring := rfl
@[simp] theorem Sys.onPower_power (f : PowerState → PowerState) : (s.onPower f).mgmt.power = f s.mgmt.power := rfl
@[simp] theorem Sys.onPower_rel (f : PowerState → PowerState) : (s.onPower f).mgmt.rel = s.mgmt.rel := rfl
@[simp] theorem Sys.onPower_sec (f : PowerState → PowerState) : (s.onPower f).mgmt.sec = s.mgmt.sec := rfl
@[simp] theorem Sys.onPower_cycles (f : PowerState → PowerState) : (s.onPower f).mgmt.cycles = s.mgmt.cycles := rfl

/-! ### Sys.onRel -/

@[simp] theorem Sys.onRel_core (f : RelState → RelState) : (s.onRel f).core = s.core := rfl
@[simp] theorem Sys.onRel_host (f : RelState → RelState) : (s.onRel f).host = s.host := rfl
@[simp] theorem Sys.onRel_fab (f : RelState → RelState) : (s.onRel f).fab = s.fab := rfl
@[simp] theorem Sys.onRel_freeCtr (f : RelState → RelState) : (s.onRel f).freeCtr = s.freeCtr := rfl
@[simp] theorem Sys.onRel_dict (f : RelState → RelState) : (s.onRel f).mgmt.dict = s.mgmt.dict := rfl
@[simp] theorem Sys.onRel_bring (f : RelState → RelState) : (s.onRel f).mgmt.bring = s.mgmt.bring := rfl
@[simp] theorem Sys.onRel_power (f : RelState → RelState) : (s.onRel f).mgmt.power = s.mgmt.power := rfl
@[simp] theorem Sys.onRel_rel (f : RelState → RelState) : (s.onRel f).mgmt.rel = f s.mgmt.rel := rfl
@[simp] theorem Sys.onRel_sec (f : RelState → RelState) : (s.onRel f).mgmt.sec = s.mgmt.sec := rfl
@[simp] theorem Sys.onRel_cycles (f : RelState → RelState) : (s.onRel f).mgmt.cycles = s.mgmt.cycles := rfl

/-! ### Sys.onSec -/

@[simp] theorem Sys.onSec_core (f : SecState → SecState) : (s.onSec f).core = s.core := rfl
@[simp] theorem Sys.onSec_host (f : SecState → SecState) : (s.onSec f).host = s.host := rfl
@[simp] theorem Sys.onSec_fab (f : SecState → SecState) : (s.onSec f).fab = s.fab := rfl
@[simp] theorem Sys.onSec_freeCtr (f : SecState → SecState) : (s.onSec f).freeCtr = s.freeCtr := rfl
@[simp] theorem Sys.onSec_dict (f : SecState → SecState) : (s.onSec f).mgmt.dict = s.mgmt.dict := rfl
@[simp] theorem Sys.onSec_bring (f : SecState → SecState) : (s.onSec f).mgmt.bring = s.mgmt.bring := rfl
@[simp] theorem Sys.onSec_power (f : SecState → SecState) : (s.onSec f).mgmt.power = s.mgmt.power := rfl
@[simp] theorem Sys.onSec_rel (f : SecState → SecState) : (s.onSec f).mgmt.rel = s.mgmt.rel := rfl
@[simp] theorem Sys.onSec_sec (f : SecState → SecState) : (s.onSec f).mgmt.sec = f s.mgmt.sec := rfl
@[simp] theorem Sys.onSec_cycles (f : SecState → SecState) : (s.onSec f).mgmt.cycles = s.mgmt.cycles := rfl

/-! ### Sys.onMgmt, Sys.drew -/

@[simp] theorem Sys.onMgmt_core (f : MgmtState → MgmtState) : (s.onMgmt f).core = s.core := rfl
@[simp] theorem Sys.onMgmt_host (f : MgmtState → MgmtState) : (s.onMgmt f).host = s.host := rfl
@[simp] theorem Sys.onMgmt_fab (f : MgmtState → MgmtState) : (s.onMgmt f).fab = s.fab := rfl
@[simp] theorem Sys.onMgmt_freeCtr (f : MgmtState → MgmtState) : (s.onMgmt f).freeCtr = s.freeCtr := rfl
@[simp] theorem Sys.onMgmt_mgmt (f : MgmtState → MgmtState) : (s.onMgmt f).mgmt = f s.mgmt := rfl
@[simp] theorem Sys.drew_core (n : Nat) : (s.drew n).core = s.core := rfl
@[simp] theorem Sys.drew_host (n : Nat) : (s.drew n).host = s.host := rfl
@[simp] theorem Sys.drew_fab (n : Nat) : (s.drew n).fab = s.fab := rfl
@[simp] theorem Sys.drew_mgmt (n : Nat) : (s.drew n).mgmt = s.mgmt := rfl
@[simp] theorem Sys.drew_freeCtr (n : Nat) : (s.drew n).freeCtr = s.freeCtr + n := rfl

/-! ### Sys.setCfg -/

@[simp] theorem Sys.setCfg_core (i sub : Nat) (v : List Byte) : (s.setCfg i sub v).core = s.core := rfl
@[simp] theorem Sys.setCfg_host (i sub : Nat) (v : List Byte) : (s.setCfg i sub v).host = s.host := rfl
@[simp] theorem Sys.setCfg_fab (i sub : Nat) (v : List Byte) : (s.setCfg i sub v).fab = s.fab := rfl
@[simp] theorem Sys.setCfg_freeCtr (i sub : Nat) (v : List Byte) : (s.setCfg i sub v).freeCtr = s.freeCtr := rfl
@[simp] theorem Sys.setCfg_bring (i sub : Nat) (v : List Byte) : (s.setCfg i sub v).mgmt.bring = s.mgmt.bring := rfl
@[simp] theorem Sys.setCfg_power (i sub : Nat) (v : List Byte) : (s.setCfg i sub v).mgmt.power = s.mgmt.power := rfl
@[simp] theorem Sys.setCfg_rel (i sub : Nat) (v : List Byte) : (s.setCfg i sub v).mgmt.rel = s.mgmt.rel := rfl
@[simp] theorem Sys.setCfg_sec (i sub : Nat) (v : List Byte) : (s.setCfg i sub v).mgmt.sec = s.mgmt.sec := rfl
@[simp] theorem Sys.setCfg_cycles (i sub : Nat) (v : List Byte) : (s.setCfg i sub v).mgmt.cycles = s.mgmt.cycles := rfl

/-! ### Sys.onPart -/

@[simp] theorem Sys.onPart_core (p : Nat) (f : Partition → Partition) : (s.onPart p f).core = s.core := rfl
@[simp] theorem Sys.onPart_fab (p : Nat) (f : Partition → Partition) : (s.onPart p f).fab = s.fab := rfl
@[simp] theorem Sys.onPart_freeCtr (p : Nat) (f : Partition → Partition) : (s.onPart p f).freeCtr = s.freeCtr := rfl
@[simp] theorem Sys.onPart_dict (p : Nat) (f : Partition → Partition) : (s.onPart p f).mgmt.dict = s.mgmt.dict := rfl
@[simp] theorem Sys.onPart_bring (p : Nat) (f : Partition → Partition) : (s.onPart p f).mgmt.bring = s.mgmt.bring := rfl
@[simp] theorem Sys.onPart_power (p : Nat) (f : Partition → Partition) : (s.onPart p f).mgmt.power = s.mgmt.power := rfl
@[simp] theorem Sys.onPart_rel (p : Nat) (f : Partition → Partition) : (s.onPart p f).mgmt.rel = s.mgmt.rel := rfl
@[simp] theorem Sys.onPart_sec (p : Nat) (f : Partition → Partition) : (s.onPart p f).mgmt.sec = s.mgmt.sec := rfl
@[simp] theorem Sys.onPart_cycles (p : Nat) (f : Partition → Partition) : (s.onPart p f).mgmt.cycles = s.mgmt.cycles := rfl

/-! ### Sys.charge -/

@[simp] theorem Sys.charge_core (p n : Nat) : (s.charge p n).core = s.core := rfl
@[simp] theorem Sys.charge_fab (p n : Nat) : (s.charge p n).fab = s.fab := rfl
@[simp] theorem Sys.charge_freeCtr (p n : Nat) : (s.charge p n).freeCtr = s.freeCtr := rfl
@[simp] theorem Sys.charge_dict (p n : Nat) : (s.charge p n).mgmt.dict = s.mgmt.dict := rfl
@[simp] theorem Sys.charge_bring (p n : Nat) : (s.charge p n).mgmt.bring = s.mgmt.bring := rfl
@[simp] theorem Sys.charge_power (p n : Nat) : (s.charge p n).mgmt.power = s.mgmt.power := rfl
@[simp] theorem Sys.charge_rel (p n : Nat) : (s.charge p n).mgmt.rel = s.mgmt.rel := rfl
@[simp] theorem Sys.charge_sec (p n : Nat) : (s.charge p n).mgmt.sec = s.mgmt.sec := rfl
@[simp] theorem Sys.charge_cycles (p n : Nat) : (s.charge p n).mgmt.cycles = s.mgmt.cycles := rfl

/-! ### Entries of the error log and events -/

@[simp] theorem Sys.log_core (kind unit part cls : Nat) (d : List Byte) : (s.log kind unit part cls d).core = s.core := by
  unfold Sys.log; split <;> rfl
@[simp] theorem Sys.log_host (kind unit part cls : Nat) (d : List Byte) : (s.log kind unit part cls d).host = s.host := by
  unfold Sys.log; split <;> rfl
@[simp] theorem Sys.log_fab (kind unit part cls : Nat) (d : List Byte) : (s.log kind unit part cls d).fab = s.fab := by
  unfold Sys.log; split <;> rfl
@[simp] theorem Sys.log_freeCtr (kind unit part cls : Nat) (d : List Byte) : (s.log kind unit part cls d).freeCtr = s.freeCtr := by
  unfold Sys.log; split <;> rfl
@[simp] theorem Sys.log_dict (kind unit part cls : Nat) (d : List Byte) : (s.log kind unit part cls d).mgmt.dict = s.mgmt.dict := by
  unfold Sys.log; split <;> rfl
@[simp] theorem Sys.log_bring (kind unit part cls : Nat) (d : List Byte) : (s.log kind unit part cls d).mgmt.bring = s.mgmt.bring := by
  unfold Sys.log; split <;> rfl
@[simp] theorem Sys.log_power (kind unit part cls : Nat) (d : List Byte) : (s.log kind unit part cls d).mgmt.power = s.mgmt.power := by
  unfold Sys.log; split <;> rfl
@[simp] theorem Sys.log_sec (kind unit part cls : Nat) (d : List Byte) : (s.log kind unit part cls d).mgmt.sec = s.mgmt.sec := by
  unfold Sys.log; split <;> rfl
@[simp] theorem Sys.log_cycles (kind unit part cls : Nat) (d : List Byte) : (s.log kind unit part cls d).mgmt.cycles = s.mgmt.cycles := by
  unfold Sys.log; split <;> rfl

@[simp] theorem Sys.log_partEnabled (kind unit part cls : Nat) (d : List Byte) (q : Nat) :
    (s.log kind unit part cls d).partEnabled q = s.partEnabled q := by
  simp only [Sys.partEnabled, Sys.part, Sys.log_host]

@[simp] theorem Sys.raise_core (p code source : Nat) (d : List Byte) : (s.raise p code source d).core = s.core := by
  unfold Sys.raise; split
  · rfl
  · split_ifs <;> simp [*]
@[simp] theorem Sys.raise_fab (p code source : Nat) (d : List Byte) : (s.raise p code source d).fab = s.fab := by
  unfold Sys.raise; split
  · rfl
  · split_ifs <;> simp [*]
@[simp] theorem Sys.raise_freeCtr (p code source : Nat) (d : List Byte) : (s.raise p code source d).freeCtr = s.freeCtr := by
  unfold Sys.raise; split
  · rfl
  · split_ifs <;> simp [*]
@[simp] theorem Sys.raise_dict (p code source : Nat) (d : List Byte) : (s.raise p code source d).mgmt.dict = s.mgmt.dict := by
  unfold Sys.raise; split
  · rfl
  · split_ifs <;> simp [*]
@[simp] theorem Sys.raise_bring (p code source : Nat) (d : List Byte) : (s.raise p code source d).mgmt.bring = s.mgmt.bring := by
  unfold Sys.raise; split
  · rfl
  · split_ifs <;> simp [*]
@[simp] theorem Sys.raise_power (p code source : Nat) (d : List Byte) : (s.raise p code source d).mgmt.power = s.mgmt.power := by
  unfold Sys.raise; split
  · rfl
  · split_ifs <;> simp [*]
@[simp] theorem Sys.raise_sec (p code source : Nat) (d : List Byte) : (s.raise p code source d).mgmt.sec = s.mgmt.sec := by
  unfold Sys.raise; split
  · rfl
  · split_ifs <;> simp [*]
@[simp] theorem Sys.raise_cycles (p code source : Nat) (d : List Byte) : (s.raise p code source d).mgmt.cycles = s.mgmt.cycles := by
  unfold Sys.raise; split
  · rfl
  · split_ifs <;> simp [*]

/-- A run of updates keeps whatever each of them keeps. -/
theorem runAll_keeps {α β γ : Type} (f : β → α → α) (g : α → γ) (h : ∀ b x, g (f b x) = g x) (l : List β) (x : α) :
    g (runAll f l x) = g x := by
  induction l generalizing x with
  | nil => rfl
  | cons b bs ih => rw [runAll, ih, h]

/-- A run of updates keeps a property that each of them keeps. -/
theorem runAll_inv {α β : Type} (f : β → α → α) (P : α → Prop) (h : ∀ b x, P x → P (f b x)) (l : List β) (x : α) (hx : P x) :
    P (runAll f l x) := by
  induction l generalizing x with
  | nil => exact hx
  | cons b bs ih => exact ih _ (h b x hx)

@[simp] theorem Sys.raiseAll_core (code source : Nat) (d : List Byte) : (s.raiseAll code source d).core = s.core := by
  unfold Sys.raiseAll; split
  · simp
  · exact runAll_keeps _ (fun x : Sys => x.core) (fun _ _ => by simp) _ _
@[simp] theorem Sys.raiseAll_fab (code source : Nat) (d : List Byte) : (s.raiseAll code source d).fab = s.fab := by
  unfold Sys.raiseAll; split
  · simp
  · exact runAll_keeps _ (fun x : Sys => x.fab) (fun _ _ => by simp) _ _
@[simp] theorem Sys.raiseAll_freeCtr (code source : Nat) (d : List Byte) : (s.raiseAll code source d).freeCtr = s.freeCtr := by
  unfold Sys.raiseAll; split
  · simp
  · exact runAll_keeps _ (fun x : Sys => x.freeCtr) (fun _ _ => by simp) _ _
@[simp] theorem Sys.raiseAll_dict (code source : Nat) (d : List Byte) : (s.raiseAll code source d).mgmt.dict = s.mgmt.dict := by
  unfold Sys.raiseAll; split
  · simp
  · exact runAll_keeps _ (fun x : Sys => x.mgmt.dict) (fun _ _ => by simp) _ _
@[simp] theorem Sys.raiseAll_bring (code source : Nat) (d : List Byte) : (s.raiseAll code source d).mgmt.bring = s.mgmt.bring := by
  unfold Sys.raiseAll; split
  · simp
  · exact runAll_keeps _ (fun x : Sys => x.mgmt.bring) (fun _ _ => by simp) _ _
@[simp] theorem Sys.raiseAll_power (code source : Nat) (d : List Byte) : (s.raiseAll code source d).mgmt.power = s.mgmt.power := by
  unfold Sys.raiseAll; split
  · simp
  · exact runAll_keeps _ (fun x : Sys => x.mgmt.power) (fun _ _ => by simp) _ _
@[simp] theorem Sys.raiseAll_sec (code source : Nat) (d : List Byte) : (s.raiseAll code source d).mgmt.sec = s.mgmt.sec := by
  unfold Sys.raiseAll; split
  · simp
  · exact runAll_keeps _ (fun x : Sys => x.mgmt.sec) (fun _ _ => by simp) _ _
@[simp] theorem Sys.raiseAll_cycles (code source : Nat) (d : List Byte) : (s.raiseAll code source d).mgmt.cycles = s.mgmt.cycles := by
  unfold Sys.raiseAll; split
  · simp
  · exact runAll_keeps _ (fun x : Sys => x.mgmt.cycles) (fun _ _ => by simp) _ _

end Sys2Proof.Machine
end

