-- ==== Sys2Proof/Laws/Issue.lean ====
section
/-! SUPPORT. Issuing a core instruction: when a row issues, faults or waits, and what the shared operations around it do. -/

namespace Sys2Proof.Machine

open Sys2Proof

/-- A row issues just when its group could issue and stands at a well-formed instruction of the row's opcode. -/
theorem Sys.prepare_go {s : Sys} {op : Nat} {gid : Gid} {i : Issue} (h : s.prepare op gid = .go i) :
    s.core.group? gid = some i.grp ∧ s.canIssue i.grp = true ∧ s.core.block? i.grp.block = some i.blk
      ∧ s.nextInst i.grp = some i.inst ∧ i.inst.op = op ∧ definedOps.contains op = true
      ∧ opInfo i.blk.regsPer i.inst = some i.info ∧ i.act = lanes (i.grp.actMask i.inst) := by
  unfold Sys.prepare at h
  split at h
  · cases h
  rename_i g hg
  split_ifs at h with hc
  split at h
  · cases h
  · cases h
  rename_i b x hb hx
  split_ifs at h with h1 h2
  split at h
  · cases h
  rename_i o ho
  cases h
  exact ⟨hg, hc, hb, hx, h2, h2 ▸ h1, ho, rfl⟩

/-- The converse: a row that issues. -/
theorem Sys.prepare_of {s : Sys} {op : Nat} {gid : Gid} {g : Group} {b : Block} {x : CoreInst} {o : OpInfo}
    (hg : s.core.group? gid = some g) (hc : s.canIssue g = true) (hb : s.core.block? g.block = some b)
    (hx : s.nextInst g = some x) (hd : definedOps.contains op = true) (ho : x.op = op) (hi : opInfo b.regsPer x = some o) :
    s.prepare op gid = .go ⟨g, b, x, o, lanes (g.actMask x)⟩ := by
  subst ho
  simp [Sys.prepare, hg, hc, hb, hx, hi]
  simpa using hd

/-- A row faults just when its group issues and stands at no instruction, a reserved one or one with an operand out of range. -/
theorem Sys.prepare_fault {s : Sys} {op : Nat} {gid : Gid} {g : Group} {code : Nat} (h : s.prepare op gid = .fault g code) :
    code = 0x0103 ∧ s.core.group? gid = some g ∧ s.canIssue g = true := by
  unfold Sys.prepare at h
  split at h
  · cases h
  rename_i g' hg
  split_ifs at h with hc
  split at h
  · cases h
  · cases h; exact ⟨rfl, hg, hc⟩
  rename_i b x hb hx
  split_ifs at h with h1 h2
  · split at h
    · cases h; exact ⟨rfl, hg, hc⟩
    · cases h
  · cases h; exact ⟨rfl, hg, hc⟩

/-- The three ends of a row that touches no memory. -/
theorem issueSys_cases (op : Nat) (gid : Gid) (body : Issue → Sys → Sys) (s : Sys) :
    (s.prepare op gid = .no ∧ issueSys op gid body s = s)
      ∨ (∃ g, s.prepare op gid = .fault g 0x0103 ∧ issueSys op gid body s = s.groupFault g 0x0103)
      ∨ ∃ i, s.prepare op gid = .go i ∧ issueSys op gid body s = (body i (s.book i)).settle gid := by
  unfold issueSys
  split
  · rename_i h; exact .inl ⟨h, rfl⟩
  · rename_i g code h
    obtain ⟨rfl, -⟩ := Sys.prepare_fault h
    exact .inr (.inl ⟨g, h, rfl⟩)
  · rename_i i h; exact .inr (.inr ⟨i, h, rfl⟩)

/-- The issue policy lets the picked group issue and changes nothing for another. -/
theorem issuePicked_of {gid : Gid} {run : Gid → Dev → Dev} {d : Dev} (h : d.picked gid = true) : issuePicked gid run d = run gid d := by
  simp [issuePicked, h]

theorem issuePicked_not {gid : Gid} {run : Gid → Dev → Dev} {d : Dev} (h : d.picked gid = false) : issuePicked gid run d = d := by
  simp [issuePicked, h]

/-- A group alone in its quarter is picked. -/
theorem Dev.picked_alone {d : Dev} {gid : Gid} {g : Group} (hg : d.sys.core.group? gid = some g)
    (h : ∀ k ∈ d.sys.core.groups, k.gid.core = gid.core → k.gid.quarter = gid.quarter → k.gid = gid) : d.picked gid = true := by
  simp only [Dev.picked, hg, List.all_eq_true]
  intro k hk
  by_cases h1 : k.gid = gid
  · simp [h1]
  · by_cases h2 : k.gid.core = gid.core
    · have h3 : ¬k.gid.quarter = gid.quarter := fun h3 => h1 (h k hk h2 h3)
      simp [h3]
    · simp [h2]

/-! ### What an issue leaves alone -/

variable (s : Sys)

@[simp] theorem Sys.onGroup_host (g : Gid) (f : Group → Group) : (s.onGroup g f).host = s.host := rfl
@[simp] theorem Sys.onGroup_fab (g : Gid) (f : Group → Group) : (s.onGroup g f).fab = s.fab := rfl
@[simp] theorem Sys.onGroup_mgmt (g : Gid) (f : Group → Group) : (s.onGroup g f).mgmt = s.mgmt := rfl
@[simp] theorem Sys.onGroup_freeCtr (g : Gid) (f : Group → Group) : (s.onGroup g f).freeCtr = s.freeCtr := rfl
@[simp] theorem Sys.book_host (i : Issue) : (s.book i).host = s.host := rfl
@[simp] theorem Sys.book_fab (i : Issue) : (s.book i).fab = s.fab := rfl
@[simp] theorem Sys.book_mgmt (i : Issue) : (s.book i).mgmt = s.mgmt := rfl
@[simp] theorem Sys.book_freeCtr (i : Issue) : (s.book i).freeCtr = s.freeCtr := rfl
@[simp] theorem Sys.settle_host (g : Gid) : (s.settle g).host = s.host := rfl
@[simp] theorem Sys.settle_fab (g : Gid) : (s.settle g).fab = s.fab := rfl
@[simp] theorem Sys.settle_mgmt (g : Gid) : (s.settle g).mgmt = s.mgmt := rfl
@[simp] theorem Sys.settle_freeCtr (g : Gid) : (s.settle g).freeCtr = s.freeCtr := rfl

end Sys2Proof.Machine
end

