-- ==== Sys2Proof/Laws/Maps.lean ====
section
/-! SUPPORT. Sparse maps, byte cells and little-endian fields: canonical forms are kept, a read after a write gives what was
written, and every other place reads as before. -/

namespace Sys2Proof.Machine

/-! ### Lists -/

@[simp] theorem modNth_length {α : Type} (l : List α) (i : Nat) (f : α → α) : (modNth l i f).length = l.length := by
  induction l generalizing i with
  | nil => rfl
  | cons a t ih => cases i <;> simp [modNth, ih]

@[simp] theorem setNth_length {α : Type} (l : List α) (i : Nat) (y : α) : (setNth l i y).length = l.length := by
  induction l generalizing i with
  | nil => rfl
  | cons a t ih => cases i <;> simp [setNth, ih]

theorem modNth_getElem? {α : Type} (l : List α) (i j : Nat) (f : α → α) :
    (modNth l i f)[j]? = if i = j then (l[j]?).map f else l[j]? := by
  induction l generalizing i j with
  | nil => simp [modNth]
  | cons a t ih => cases i <;> cases j <;> simp [modNth, ih]

theorem setNth_getElem? {α : Type} (l : List α) (i j : Nat) (y : α) :
    (setNth l i y)[j]? = if i = j then (l[j]?).map (fun _ => y) else l[j]? := by
  induction l generalizing i j with
  | nil => simp [setNth]
  | cons a t ih => cases i <;> cases j <;> simp [setNth, ih]

theorem modNth_getD {α : Type} (l : List α) (i j : Nat) (f : α → α) (d : α) :
    (modNth l i f).getD j d = if i = j ∧ j < l.length then f (l.getD j d) else l.getD j d := by
  simp only [List.getD_eq_getElem?_getD, modNth_getElem?]
  by_cases h : i = j
  · by_cases h2 : j < l.length <;> simp [h, h2]
  · simp [h]

theorem setNth_getD {α : Type} (l : List α) (i j : Nat) (y : α) (d : α) :
    (setNth l i y).getD j d = if i = j ∧ j < l.length then y else l.getD j d := by
  simp only [List.getD_eq_getElem?_getD, setNth_getElem?]
  by_cases h : i = j
  · by_cases h2 : j < l.length <;> simp [h, h2]
  · simp [h]

@[simp] theorem zeros_length (n : Nat) : (zeros n).length = n := by simp [zeros]
@[simp] theorem natLe_length (n x : Nat) : (natLe n x).length = n := by
  induction n generalizing x with
  | zero => rfl
  | succ n ih => simp [natLe, ih]

theorem leNat_natLe (n x : Nat) : leNat (natLe n x) = x % 256 ^ n := by
  induction n generalizing x with
  | zero => simp [natLe, leNat, Nat.mod_one]
  | succ n ih =>
    rw [natLe, leNat, ih, BitVec.toNat_ofNat, show (2 ^ 8 : Nat) = 256 from rfl]
    have h : x % (256 * 256 ^ n) = x % 256 + 256 * (x / 256 % 256 ^ n) := Nat.mod_mul
    rw [show 256 ^ (n + 1) = 256 * 256 ^ n from pow_succ' 256 n, h]

/-! ### Byte cells -/

theorem cellsWf_iff (m : List Host.Cell) :
    cellsWf m = true ↔ (∀ c ∈ m, c.2 ≠ 0) ∧ m.Pairwise (fun a b => a.1 < b.1) := by
  induction m with
  | nil => simp [cellsWf]
  | cons c t ih =>
    cases t with
    | nil => simp [cellsWf]
    | cons d t =>
      simp only [cellsWf, Bool.and_eq_true, decide_eq_true_eq, bne_iff_ne, ih]
      constructor
      · rintro ⟨⟨hc, hcd⟩, h1, h2⟩
        refine ⟨List.forall_mem_cons.2 ⟨hc, h1⟩, List.pairwise_cons.2 ⟨?_, h2⟩⟩
        intro x hx
        rcases List.mem_cons.1 hx with rfl | hx
        · exact hcd
        · exact lt_trans hcd ((List.pairwise_cons.1 h2).1 x hx)
      · rintro ⟨h1, h2⟩
        obtain ⟨h3, h4⟩ := List.pairwise_cons.1 h2
        exact ⟨⟨h1 c (by simp), h3 d (by simp)⟩, fun x hx => h1 x (by simp [hx]), h4⟩

theorem cellSet_mem {m : List Host.Cell} {i : Nat} {x : Byte} {c : Host.Cell} (h : c ∈ cellSet m i x) :
    c ∈ m ∨ (c = (i, x) ∧ x ≠ 0) := by
  induction m with
  | nil => simp only [cellSet] at h; split_ifs at h <;> simp_all
  | cons d t ih =>
    obtain ⟨k, v⟩ := d
    simp only [cellSet] at h
    split_ifs at h <;> simp_all <;> tauto

/-- A write keeps the canonical form. -/
theorem cellSet_wf {m : List Host.Cell} (i : Nat) (x : Byte) (h : cellsWf m = true) : cellsWf (cellSet m i x) = true := by
  rw [cellsWf_iff] at h ⊢
  refine ⟨fun c hc => ?_, ?_⟩
  · rcases cellSet_mem hc with hc | ⟨rfl, hx⟩
    · exact h.1 c hc
    · exact hx
  · obtain ⟨-, h⟩ := h
    induction m with
    | nil => simp only [cellSet]; split_ifs <;> simp
    | cons d t ih =>
      obtain ⟨k, v⟩ := d
      obtain ⟨h1, h2⟩ := List.pairwise_cons.1 h
      simp only [cellSet]
      split_ifs with h3 h4 h5 h6
      · exact h
      · refine List.pairwise_cons.2 ⟨fun y hy => ?_, h⟩
        rcases List.mem_cons.1 hy with rfl | hy
        · exact h3
        · exact lt_trans h3 (h1 y hy)
      · exact h2
      · exact List.pairwise_cons.2 ⟨fun y hy => by rw [h5]; exact h1 y hy, h2⟩
      · refine List.pairwise_cons.2 ⟨fun y hy => ?_, ih h2⟩
        rcases cellSet_mem hy with hy | ⟨rfl, -⟩
        · exact h1 y hy
        · simp; omega

theorem cellGet_of_lt {m : List Host.Cell} {i : Nat} (h : ∀ c ∈ m, i < c.1) : cellGet m i = 0 := by
  induction m with
  | nil => rfl
  | cons d t ih =>
    obtain ⟨k, v⟩ := d
    have := h (k, v) (by simp)
    simp only [cellGet]
    rw [if_neg (by simp at this; omega)]
    exact ih fun c hc => h c (by simp [hc])

/-- A byte written reads back. -/
theorem cellGet_cellSet_same {m : List Host.Cell} (i : Nat) (x : Byte) (h : cellsWf m = true) : cellGet (cellSet m i x) i = x := by
  replace h := ((cellsWf_iff m).1 h).2
  induction m with
  | nil => simp only [cellSet]; split_ifs with hx <;> simp [cellGet, hx]
  | cons d t ih =>
    obtain ⟨k, v⟩ := d
    obtain ⟨h1, h2⟩ := List.pairwise_cons.1 h
    simp only [cellSet]
    split_ifs with h3 h4 h5 h6
    · rw [h4]
      refine cellGet_of_lt fun c hc => ?_
      rcases List.mem_cons.1 hc with rfl | hc
      · exact h3
      · exact lt_trans h3 (h1 c hc)
    · simp [cellGet]
    · rw [h6]; exact cellGet_of_lt fun c hc => by rw [h5]; exact h1 c hc
    · simp [cellGet]
    · simp only [cellGet]; rw [if_neg (by omega)]; exact ih h2

/-- Every other byte reads as before. -/
theorem cellGet_cellSet_other (m : List Host.Cell) {i j : Nat} (x : Byte) (h : j ≠ i) : cellGet (cellSet m i x) j = cellGet m j := by
  induction m with
  | nil => simp only [cellSet]; split_ifs <;> simp [cellGet]; omega
  | cons d t ih =>
    obtain ⟨k, v⟩ := d
    simp only [cellSet]
    split_ifs with h3 h4 h5 h6
    · rfl
    · simp [cellGet, Ne.symm h]
    · subst h5; simp [cellGet, Ne.symm h]
    · subst h5; simp [cellGet, Ne.symm h]
    · simp only [cellGet, ih]

theorem cellGet_cellSet {m : List Host.Cell} (i j : Nat) (x : Byte) (h : cellsWf m = true) :
    cellGet (cellSet m i x) j = if j = i then x else cellGet m j := by
  split_ifs with hj
  · subst hj; exact cellGet_cellSet_same _ _ h
  · exact cellGet_cellSet_other _ _ hj

theorem cellsWrite_wf {m : List Host.Cell} (a : Nat) (bs : List Byte) (h : cellsWf m = true) : cellsWf (cellsWrite m a bs) = true := by
  induction bs generalizing m a with
  | nil => exact h
  | cons b bs ih => exact ih _ (cellSet_wf _ _ h)

/-- What a run of bytes written reads back as, byte by byte. -/
theorem cellGet_cellsWrite {m : List Host.Cell} (a j : Nat) (bs : List Byte) (h : cellsWf m = true) :
    cellGet (cellsWrite m a bs) j = if a ≤ j ∧ j < a + bs.length then bs.getD (j - a) 0 else cellGet m j := by
  induction bs generalizing m a with
  | nil => simp only [cellsWrite, List.length_nil]; rw [if_neg (by omega)]
  | cons b bs ih =>
    rw [cellsWrite, ih _ (cellSet_wf _ _ h), cellGet_cellSet _ _ _ h]
    simp only [List.length_cons]
    by_cases h1 : a + 1 ≤ j ∧ j < a + 1 + bs.length
    · rw [if_pos h1, if_pos (by omega)]
      have : j - a = (j - (a + 1)) + 1 := by omega
      rw [this]; simp
    · rw [if_neg h1]
      by_cases h2 : j = a
      · subst h2; simp
      · rw [if_neg h2, if_neg (by omega)]

@[simp] theorem cellsRead_length (m : List Host.Cell) (a n : Nat) : (cellsRead m a n).length = n := by simp [cellsRead]

theorem cellsRead_getD (m : List Host.Cell) (a n j : Nat) (h : j < n) (d : Byte) : (cellsRead m a n).getD j d = cellGet m (a + j) := by
  simp [cellsRead, List.getD_eq_getElem?_getD, h]

theorem list_ext_getD {l l' : List Byte} (hl : l.length = l'.length) (h : ∀ j < l.length, l.getD j 0 = l'.getD j 0) : l = l' := by
  apply List.ext_getElem hl
  intro j h1 h2
  have := h j h1
  simpa [List.getD_eq_getElem?_getD, h1, h2] using this

/-- A run of bytes written reads back. -/
theorem cellsRead_cellsWrite {m : List Host.Cell} (a : Nat) (bs : List Byte) (h : cellsWf m = true) :
    cellsRead (cellsWrite m a bs) a bs.length = bs := by
  apply list_ext_getD (by simp)
  intro j hj
  simp only [cellsRead_length] at hj
  rw [cellsRead_getD _ _ _ _ hj, cellGet_cellsWrite _ _ _ h, if_pos (by omega)]
  congr 1; omega

/-- A run of bytes apart from those written reads as before. -/
theorem cellsRead_cellsWrite_other {m : List Host.Cell} (a b n : Nat) (bs : List Byte) (h : cellsWf m = true)
    (hd : b + n ≤ a ∨ a + bs.length ≤ b) : cellsRead (cellsWrite m a bs) b n = cellsRead m b n := by
  apply list_ext_getD (by simp)
  intro j hj
  simp only [cellsRead_length] at hj
  rw [cellsRead_getD _ _ _ _ hj, cellsRead_getD _ _ _ _ hj, cellGet_cellsWrite _ _ _ h, if_neg (by omega)]

/-! ### Sparse maps -/

theorem NMap.wf_iff (m : NMap) : m.wf = true ↔ (∀ c ∈ m, c.2 ≠ 0) ∧ m.Pairwise (fun a b => a.1 < b.1) := by
  induction m with
  | nil => simp [NMap.wf]
  | cons c t ih =>
    cases t with
    | nil => simp [NMap.wf]
    | cons d t =>
      simp only [NMap.wf, Bool.and_eq_true, decide_eq_true_eq, bne_iff_ne, ih]
      constructor
      · rintro ⟨⟨hc, hcd⟩, h1, h2⟩
        refine ⟨List.forall_mem_cons.2 ⟨hc, h1⟩, List.pairwise_cons.2 ⟨?_, h2⟩⟩
        intro x hx
        rcases List.mem_cons.1 hx with rfl | hx
        · exact hcd
        · exact lt_trans hcd ((List.pairwise_cons.1 h2).1 x hx)
      · rintro ⟨h1, h2⟩
        obtain ⟨h3, h4⟩ := List.pairwise_cons.1 h2
        exact ⟨⟨h1 c (by simp), h3 d (by simp)⟩, fun x hx => h1 x (by simp [hx]), h4⟩

theorem NMap.set_mem {m : NMap} {i x : Nat} {c : Nat × Nat} (h : c ∈ NMap.set m i x) : c ∈ m ∨ (c = (i, x) ∧ x ≠ 0) := by
  induction m with
  | nil => simp only [NMap.set] at h; split_ifs at h <;> simp_all
  | cons d t ih =>
    obtain ⟨k, v⟩ := d
    simp only [NMap.set] at h
    split_ifs at h <;> simp_all <;> tauto

/-- A write keeps the canonical form of a map. -/
theorem NMap.set_wf {m : NMap} (i x : Nat) (h : m.wf = true) : (NMap.set m i x).wf = true := by
  rw [NMap.wf_iff] at h ⊢
  refine ⟨fun c hc => ?_, ?_⟩
  · rcases NMap.set_mem hc with hc | ⟨rfl, hx⟩
    · exact h.1 c hc
    · exact hx
  · obtain ⟨-, h⟩ := h
    induction m with
    | nil => simp only [NMap.set]; split_ifs <;> simp
    | cons d t ih =>
      obtain ⟨k, v⟩ := d
      obtain ⟨h1, h2⟩ := List.pairwise_cons.1 h
      simp only [NMap.set]
      split_ifs with h3 h4 h5 h6
      · exact h
      · refine List.pairwise_cons.2 ⟨fun y hy => ?_, h⟩
        rcases List.mem_cons.1 hy with rfl | hy
        · exact h3
        · exact lt_trans h3 (h1 y hy)
      · exact h2
      · exact List.pairwise_cons.2 ⟨fun y hy => by rw [h5]; exact h1 y hy, h2⟩
      · refine List.pairwise_cons.2 ⟨fun y hy => ?_, ih h2⟩
        rcases NMap.set_mem hy with hy | ⟨rfl, -⟩
        · exact h1 y hy
        · simp; omega

theorem NMap.get_of_lt {m : NMap} {i : Nat} (h : ∀ c ∈ m, i < c.1) : NMap.get m i = 0 := by
  induction m with
  | nil => rfl
  | cons d t ih =>
    obtain ⟨k, v⟩ := d
    have := h (k, v) (by simp)
    simp only [NMap.get]
    rw [if_neg (by simp at this; omega)]
    exact ih fun c hc => h c (by simp [hc])

theorem NMap.get_set_same {m : NMap} (i x : Nat) (h : m.wf = true) : NMap.get (NMap.set m i x) i = x := by
  replace h := ((NMap.wf_iff m).1 h).2
  induction m with
  | nil => simp only [NMap.set]; split_ifs with hx <;> simp [NMap.get, hx]
  | cons d t ih =>
    obtain ⟨k, v⟩ := d
    obtain ⟨h1, h2⟩ := List.pairwise_cons.1 h
    simp only [NMap.set]
    split_ifs with h3 h4 h5 h6
    · rw [h4]
      refine NMap.get_of_lt fun c hc => ?_
      rcases List.mem_cons.1 hc with rfl | hc
      · exact h3
      · exact lt_trans h3 (h1 c hc)
    · simp [NMap.get]
    · rw [h6]; exact NMap.get_of_lt fun c hc => by rw [h5]; exact h1 c hc
    · simp [NMap.get]
    · simp only [NMap.get]; rw [if_neg (by omega)]; exact ih h2

theorem NMap.get_set_other (m : NMap) {i j : Nat} (x : Nat) (h : j ≠ i) : NMap.get (NMap.set m i x) j = NMap.get m j := by
  induction m with
  | nil => simp only [NMap.set]; split_ifs <;> simp [NMap.get]; omega
  | cons d t ih =>
    obtain ⟨k, v⟩ := d
    simp only [NMap.set]
    split_ifs with h3 h4 h5 h6
    · rfl
    · simp [NMap.get, Ne.symm h]
    · subst h5; simp [NMap.get, Ne.symm h]
    · subst h5; simp [NMap.get, Ne.symm h]
    · simp only [NMap.get, ih]

/-- A read of a map after a write. -/
theorem NMap.get_set {m : NMap} (i j x : Nat) (h : m.wf = true) : NMap.get (NMap.set m i x) j = if j = i then x else NMap.get m j := by
  split_ifs with hj
  · subst hj; exact NMap.get_set_same _ _ h
  · exact NMap.get_set_other _ _ hj

end Sys2Proof.Machine
end

