-- ==== Sys2Proof/Laws/Memory.lean ====
section
/-! SUPPORT. Memory: every operation keeps the canonical form and the agreement of clean lines with their stack, and says which
bytes it changes. -/

namespace Sys2Proof.Machine

open Sys2Proof

/-! ### Parts -/

@[simp] theorem Mem.onStack_slices (m : Mem) (i : Nat) (f : Stack → Stack) : (m.onStack i f).slices = m.slices := rfl
@[simp] theorem Mem.onSlice_dram (m : Mem) (i : Nat) (f : Slice → Slice) : (m.onSlice i f).dram = m.dram := rfl
@[simp] theorem Mem.onStack_slice (m : Mem) (i j : Nat) (f : Stack → Stack) : (m.onStack i f).slice j = m.slice j := rfl
@[simp] theorem Mem.onSlice_stack (m : Mem) (i j : Nat) (f : Slice → Slice) : (m.onSlice i f).stack j = m.stack j := rfl
@[simp] theorem Mem.onStack_dram_length (m : Mem) (i : Nat) (f : Stack → Stack) : (m.onStack i f).dram.length = m.dram.length := by
  simp [Mem.onStack]
@[simp] theorem Mem.onSlice_slices_length (m : Mem) (i : Nat) (f : Slice → Slice) :
    (m.onSlice i f).slices.length = m.slices.length := by
  simp [Mem.onSlice]

theorem Mem.onStack_stack (m : Mem) (i j : Nat) (f : Stack → Stack) :
    (m.onStack i f).stack j = if i = j ∧ j < m.dram.length then f (m.stack j) else m.stack j := modNth_getD _ _ _ _ _

theorem Mem.onSlice_slice (m : Mem) (i j : Nat) (f : Slice → Slice) :
    (m.onSlice i f).slice j = if i = j ∧ j < m.slices.length then f (m.slice j) else m.slice j := modNth_getD _ _ _ _ _

/-! ### One stack with its slice -/

/-- A slice well formed, its clean lines agreeing with a stack whose cells are canonical. -/
def Slice.Agrees (c : Slice) (t : Stack) : Prop :=
  cellsWf t.cells = true ∧ (∀ l ∈ c.lines, l.data.length = 64) ∧ (c.lines.map SliceLine.line).Nodup
    ∧ ∀ l ∈ c.lines, l.dirty = false → l.data = t.lineData l.line

theorem Slice.wf_iff (c : Slice) : c.wf = true ↔ (∀ l ∈ c.lines, l.data.length = 64) ∧ (c.lines.map SliceLine.line).Nodup := by
  simp [Slice.wf]

theorem forall_getD_iff {α : Type} (l : List α) (d : α) (P : α → Prop) (hd : P d) : (∀ x ∈ l, P x) ↔ ∀ i, P (l.getD i d) := by
  constructor
  · intro h i
    by_cases hi : i < l.length
    · simpa [List.getD_eq_getElem?_getD, hi] using h l[i] (List.getElem_mem hi)
    · simpa [List.getD_eq_getElem?_getD, not_lt.1 hi] using hd
  · intro h x hx
    obtain ⟨i, hi, rfl⟩ := List.getElem_of_mem hx
    simpa [List.getD_eq_getElem?_getD, hi] using h i

/-- Coherence stack by stack. -/
theorem Mem.coherent_iff (m : Mem) :
    m.Coherent ↔ m.dram.length = 8 ∧ m.slices.length = 8 ∧ ∀ st, (m.slice st).Agrees (m.stack st) := by
  have h1 := forall_getD_iff m.dram Stack.reset (fun t => cellsWf t.cells = true) rfl
  have h2 := forall_getD_iff m.slices Slice.reset (fun c => c.wf = true) rfl
  simp only [Mem.Coherent, Mem.wf, Bool.and_eq_true, List.all_eq_true]
  simp only [Slice.Agrees]
  constructor
  · rintro ⟨⟨a, b⟩, c, d, e⟩
    exact ⟨c, d, fun st => ⟨h1.1 a st, ((Slice.wf_iff _).1 (h2.1 b st)).1, ((Slice.wf_iff _).1 (h2.1 b st)).2, e st⟩⟩
  · rintro ⟨c, d, e⟩
    exact ⟨⟨h1.2 fun st => (e st).1, h2.2 fun st => (Slice.wf_iff _).2 ⟨(e st).2.1, (e st).2.2.1⟩⟩, c, d, fun st => (e st).2.2.2⟩

theorem Mem.reset_coherent : Mem.reset.Coherent := by
  rw [Mem.coherent_iff]
  refine ⟨rfl, rfl, fun st => ?_⟩
  have h : Mem.reset.slice st = Slice.reset := by
    simp only [Mem.slice, Mem.reset, List.getD_eq_getElem?_getD, List.getElem?_replicate]
    split_ifs <;> rfl
  have h' : Mem.reset.stack st = Stack.reset := by
    simp only [Mem.stack, Mem.reset, List.getD_eq_getElem?_getD, List.getElem?_replicate]
    split_ifs <;> rfl
  rw [h, h']
  simp [Slice.Agrees, Slice.reset, Stack.reset, cellsWf]

theorem Mem.Coherent.onSlice {m : Mem} (h : m.Coherent) {i : Nat} {f : Slice → Slice}
    (hf : (m.slice i).Agrees (m.stack i) → (f (m.slice i)).Agrees (m.stack i)) : (m.onSlice i f).Coherent := by
  rw [Mem.coherent_iff] at h ⊢
  obtain ⟨h1, h2, h3⟩ := h
  refine ⟨h1, by simpa using h2, fun st => ?_⟩
  rw [Mem.onSlice_slice, Mem.onSlice_stack]
  split_ifs with hs
  · rw [← hs.1]; exact hf (h3 i)
  · exact h3 st

theorem Mem.Coherent.onStack {m : Mem} (h : m.Coherent) {i : Nat} {f : Stack → Stack}
    (hf : (m.slice i).Agrees (m.stack i) → (m.slice i).Agrees (f (m.stack i))) : (m.onStack i f).Coherent := by
  rw [Mem.coherent_iff] at h ⊢
  obtain ⟨h1, h2, h3⟩ := h
  refine ⟨by simpa using h1, h2, fun st => ?_⟩
  rw [Mem.onStack_stack, Mem.onStack_slice]
  split_ifs with hs
  · rw [← hs.1]; exact hf (h3 i)
  · exact h3 st

/-- A change of a stack's marks and counters alone. -/
theorem Mem.Coherent.onStack_marks {m : Mem} (h : m.Coherent) (i : Nat) {f : Stack → Stack} (hf : ∀ t, (f t).cells = t.cells) :
    (m.onStack i f).Coherent :=
  h.onStack (by simp [Slice.Agrees, Stack.lineData, hf])

/-! ### Lines of a slice -/

theorem Slice.drop_agrees {c : Slice} {t : Stack} (line : Nat) (h : c.Agrees t) : (c.drop line).Agrees t := by
  obtain ⟨h1, h2, h3, h4⟩ := h
  refine ⟨h1, fun l hl => h2 l (List.mem_of_mem_filter hl), ?_, fun l hl => h4 l (List.mem_of_mem_filter hl)⟩
  exact h3.sublist (List.Sublist.map _ List.filter_sublist)

theorem take_pad_length (l : List Byte) : ((l ++ zeros 64).take 64).length = 64 := by simp

theorem take_pad_eq {l : List Byte} (h : l.length = 64) : (l ++ zeros 64).take 64 = l := by
  rw [List.take_append_of_le_length (by omega), List.take_of_length_le (by omega)]

@[simp] theorem Stack.lineData_length (t : Stack) (line : Nat) : (t.lineData line).length = 64 := by simp [Stack.lineData]

theorem Slice.put_agrees {c : Slice} {t : Stack} {l : SliceLine} (h : c.Agrees t) (hl : l.dirty = false → l.data = t.lineData l.line) :
    (c.put l).Agrees t := by
  obtain ⟨h1, h2, h3, h4⟩ := Slice.drop_agrees l.line h
  refine ⟨h1, ?_, ?_, ?_⟩
  · rintro x hx
    rcases List.mem_cons.1 hx with rfl | hx
    · exact take_pad_length _
    · exact h2 x hx
  · refine List.nodup_cons.2 ⟨?_, h3⟩
    simp [Slice.drop]
  · rintro x hx hd
    rcases List.mem_cons.1 hx with rfl | hx
    · simp only at hd ⊢
      rw [hl hd, take_pad_eq (by simp)]
    · exact h4 x hx hd

theorem Slice.find_mem {c : Slice} {line : Nat} {l : SliceLine} (h : c.find line = some l) : l ∈ c.lines ∧ l.line = line :=
  ⟨List.mem_of_find?_eq_some h, by simpa using List.find?_some h⟩

theorem Slice.find_drop_same (c : Slice) (line : Nat) : (c.drop line).find line = none := by
  simp [Slice.find, Slice.drop]

theorem Slice.find_drop_other (c : Slice) {line k : Nat} (h : k ≠ line) : (c.drop line).find k = c.find k := by
  simp only [Slice.find, Slice.drop]
  induction c.lines with
  | nil => rfl
  | cons a t ih =>
    by_cases h1 : a.line = line
    · have : a.line ≠ k := by omega
      simp [h1, ih, List.find?_cons]
      have h2 : (line == k) = false := by simp; omega
      simp [h2]
    · simp [h1, ih, List.find?_cons]

theorem Slice.find_put_same (c : Slice) (l : SliceLine) :
    (c.put l).find l.line = some { l with data := (l.data ++ zeros 64).take 64 } := by simp [Slice.find, Slice.put]

theorem Slice.find_put_other (c : Slice) (l : SliceLine) {k : Nat} (h : k ≠ l.line) : (c.put l).find k = c.find k := by
  rw [← Slice.find_drop_other c h]
  have : (l.line == k) = false := by simp; omega
  simp [Slice.find, Slice.put, this]

theorem markPoison_contains (l : List Nat) (line k : Nat) (p : Bool) :
    (markPoison l line p).contains k = if k = line then p else l.contains k := by
  unfold markPoison
  cases p
  · by_cases h : k = line <;> simp [h]
  · by_cases h : k = line
    · subst h; by_cases h2 : k ∈ l <;> simp [h2]
    · by_cases h2 : line ∈ l <;> simp [h2, h]

theorem Stack.putLine_data_same {t : Stack} {line : Nat} {d : List Byte} {p : Bool} (h : cellsWf t.cells = true) (hd : d.length = 64) :
    (t.putLine line d p).lineData line = d := by
  simp only [Stack.lineData, Stack.putLine]
  rw [← hd]; exact cellsRead_cellsWrite _ _ h

theorem Stack.putLine_data_other {t : Stack} {line k : Nat} {d : List Byte} {p : Bool} (h : cellsWf t.cells = true) (hd : d.length = 64)
    (hk : k ≠ line) : (t.putLine line d p).lineData k = t.lineData k := by
  simp only [Stack.lineData, Stack.putLine]
  exact cellsRead_cellsWrite_other _ _ _ _ h (by omega)

theorem Stack.putLine_poisoned (t : Stack) (line k : Nat) (d : List Byte) (p : Bool) :
    (t.putLine line d p).isPoisoned k = if k = line then p else t.isPoisoned k := markPoison_contains _ _ _ _

/-! ### What a slice does keeps every byte -/

/-- A line in no poison, in DRAM or in its slice. -/
def Mem.CleanLine (m : Mem) (st k : Nat) : Prop := (m.stack st).isPoisoned k = false ∧ (m.lineOf st k).poison = false

/-- Coherent memory of the same bytes, with no line newly poisoned and the same stacks trained. -/
structure Mem.Same (m m' : Mem) : Prop where
  coherent : m'.Coherent
  data : ∀ st k, (m'.lineOf st k).data = (m.lineOf st k).data
  clean : ∀ st k, m.CleanLine st k → m'.CleanLine st k
  trained : ∀ st, (m'.stack st).trained = (m.stack st).trained

theorem Mem.Same.refl {m : Mem} (h : m.Coherent) : m.Same m := ⟨h, fun _ _ => rfl, fun _ _ => id, fun _ => rfl⟩
theorem Mem.Same.trans {a b c : Mem} (h : a.Same b) (h' : b.Same c) : a.Same c :=
  ⟨h'.coherent, fun st k => (h'.data st k).trans (h.data st k), fun st k hc => h'.clean st k (h.clean st k hc),
    fun st => (h'.trained st).trans (h.trained st)⟩
theorem Mem.Same.keeps {a b : Mem} (h : a.Same b) : a.KeepsBytes b := fun st x => by
  simp only [Mem.byteAt]; rw [h.data]

theorem Mem.lineOf_length {m : Mem} (h : m.Coherent) (st k : Nat) : (m.lineOf st k).data.length = 64 := by
  rw [Mem.coherent_iff] at h
  simp only [Mem.lineOf]
  split
  · rename_i l hl; exact (h.2.2 st).2.1 l (Slice.find_mem hl).1
  · simp

theorem Mem.lineOf_line (m : Mem) (st k : Nat) : (m.lineOf st k).line = k := by
  simp only [Mem.lineOf]
  split
  · rename_i l hl; exact (Slice.find_mem hl).2
  · rfl

theorem Mem.find_lt {m : Mem} {st k : Nat} {l : SliceLine} (h : (m.slice st).find k = some l) : st < m.slices.length := by
  by_contra hn
  simp [Mem.slice, List.getD_eq_getElem?_getD, not_lt.1 hn, Slice.find, Slice.reset] at h

/-- The line of a slice marked clean. -/
theorem Slice.find_clean (c : Slice) (line k n : Nat) :
    Slice.find { c with lines := c.lines.map (fun x => if x.line == line then { x with dirty := false } else x), writebacks := n } k
      = (c.find k).map (fun x => if x.line == line then { x with dirty := false } else x) := by
  simp only [Slice.find]
  induction c.lines with
  | nil => rfl
  | cons a t ih =>
    have : (if (a.line == line) = true then ({ a with dirty := false } : SliceLine) else a).line = a.line := by split_ifs <;> rfl
    simp only [List.map_cons, List.find?_cons, this, ih]
    split <;> rfl

theorem Slice.eq_of_line {c : Slice} (hn : (c.lines.map SliceLine.line).Nodup) {x y : SliceLine} (hx : x ∈ c.lines) (hy : y ∈ c.lines)
    (h : x.line = y.line) : x = y := List.inj_on_of_nodup_map hn hx hy h

/-- What writing a line back gives: the same bytes, and the line clean where the slice keeps it. -/
theorem Mem.writeBack_same {m : Mem} (h : m.Coherent) (st line : Nat) :
    m.Same (m.writeBack st line)
      ∧ (∀ l, ((m.writeBack st line).slice st).find line = some l → l.dirty = false ∧ l.data = ((m.writeBack st line).stack st).lineData line)
      ∧ (m.CleanLine st line → ((m.writeBack st line).stack st).isPoisoned line = false)
      ∧ ∀ k, (((m.writeBack st line).slice st).find k).isSome = ((m.slice st).find k).isSome := by
  have h0 := h
  rw [Mem.coherent_iff] at h
  obtain ⟨h1, h2, h3⟩ := h
  unfold Mem.writeBack
  split
  · rename_i hf
    refine ⟨Mem.Same.refl h0, fun l hl => ?_, fun hc => hc.1, fun k => rfl⟩
    rw [hf] at hl; cases hl
  rename_i l hl
  have hlt := Mem.find_lt hl
  have hlt' : st < m.dram.length := by omega
  obtain ⟨hm, hline⟩ := Slice.find_mem hl
  obtain ⟨g1, g2, g3, g4⟩ := h3 st
  split
  swap
  · rename_i hd
    refine ⟨Mem.Same.refl h0, fun l' hl' => ?_, fun hc => hc.1, fun k => rfl⟩
    rw [hl] at hl'; cases hl'
    have : l.dirty = false := by simpa using hd
    exact ⟨this, by rw [← hline]; exact g4 l hm this⟩
  rename_i hd
  have hlen := g2 l hm
  generalize hm' : Mem.onSlice _ _ _ = m'
  have hslice : ∀ j, m'.slice j = if st = j then { m.slice j with
      lines := (m.slice j).lines.map (fun x => if x.line == line then { x with dirty := false } else x)
      writebacks := (m.slice j).writebacks + 1 } else m.slice j := by
    intro j
    subst hm'
    rw [Mem.onSlice_slice, Mem.onStack_slice]
    by_cases hj : st = j
    · subst hj; rw [if_pos ⟨rfl, by simpa using hlt⟩, if_pos rfl]
    · rw [if_neg (by tauto), if_neg hj]
  have hstack : ∀ j, m'.stack j = if st = j then (m.stack j).putLine line l.data l.poison else m.stack j := by
    intro j
    subst hm'
    rw [Mem.onSlice_stack, Mem.onStack_stack]
    by_cases hj : st = j
    · subst hj; rw [if_pos ⟨rfl, hlt'⟩, if_pos rfl]
    · rw [if_neg (by tauto), if_neg hj]
  have hlineOf : ∀ j k, (m'.lineOf j k).data = (m.lineOf j k).data ∧ (m'.lineOf j k).poison = (m.lineOf j k).poison := by
    intro j k
    simp only [Mem.lineOf, hslice, hstack]
    by_cases hj : st = j
    · subst hj
      rw [if_pos rfl, if_pos rfl, Slice.find_clean]
      cases hk : (m.slice st).find k with
      | some x => simp only [Option.map_some]; split_ifs <;> exact ⟨rfl, rfl⟩
      | none =>
        have hne : k ≠ line := by rintro rfl; rw [hl] at hk; cases hk
        simp only [Option.map_none]
        exact ⟨Stack.putLine_data_other g1 hlen hne, by rw [Stack.putLine_poisoned, if_neg hne]⟩
    · rw [if_neg hj, if_neg hj]; exact ⟨rfl, rfl⟩
  have hself : m.CleanLine st line → l.poison = false := fun hc => by
    have := hc.2
    simpa [Mem.lineOf, hl] using this
  refine ⟨⟨?_, fun j k => (hlineOf j k).1, ?_, ?_⟩, ?_, ?_, ?_⟩
  · rw [Mem.coherent_iff]
    refine ⟨by subst hm'; simpa using h1, by subst hm'; simpa using h2, fun j => ?_⟩
    rw [hslice, hstack]
    by_cases hj : st = j
    swap
    · rw [if_neg hj, if_neg hj]; exact h3 j
    subst hj
    rw [if_pos rfl, if_pos rfl]
    refine ⟨cellsWrite_wf _ _ g1, ?_, ?_, ?_⟩
    · intro x hx
      obtain ⟨y, hy, rfl⟩ := List.mem_map.1 hx
      have := g2 y hy
      split_ifs <;> exact this
    · have : (SliceLine.line ∘ fun x : SliceLine => if x.line == line then { x with dirty := false } else x) = SliceLine.line := by
        funext x; simp only [Function.comp]; split_ifs <;> rfl
      simp only [List.map_map, this]; exact g3
    · intro x hx hxd
      obtain ⟨y, hy, rfl⟩ := List.mem_map.1 hx
      by_cases hyl : y.line = line
      · have : y = l := Slice.eq_of_line g3 hy hm (by omega)
        subst this
        simp only [hyl, beq_self_eq_true, if_true]
        exact (Stack.putLine_data_same g1 hlen).symm
      · rw [if_neg (by simpa using hyl)] at hxd ⊢
        rw [Stack.putLine_data_other g1 hlen hyl]
        exact g4 y hy hxd
  · intro j k hc
    refine ⟨?_, by rw [(hlineOf j k).2]; exact hc.2⟩
    rw [hstack]
    split_ifs with hj
    · subst hj
      rw [Stack.putLine_poisoned]
      split_ifs with hk
      · subst hk; exact hself hc
      · exact hc.1
    · exact hc.1
  · intro j; rw [hstack]; split_ifs <;> rfl
  · intro x hx
    rw [hslice, if_pos rfl, Slice.find_clean, hl] at hx
    simp only [Option.map_some, hline, beq_self_eq_true, if_true, Option.some.injEq] at hx
    subst hx
    refine ⟨rfl, ?_⟩
    rw [hstack, if_pos rfl, Stack.putLine_data_same g1 hlen]
  · intro hc
    rw [hstack, if_pos rfl, Stack.putLine_poisoned, if_pos rfl]; exact hself hc
  · intro k
    rw [hslice, if_pos rfl, Slice.find_clean]; simp

/-- A clean line that leaves its slice. -/
theorem Mem.drop_same {m : Mem} (h : m.Coherent) {st line : Nat}
    (hc : ∀ l, (m.slice st).find line = some l → l.dirty = false) (f : Slice → Slice) (hf : ∀ c, (f c).lines = (c.drop line).lines) :
    m.Same (m.onSlice st f) := by
  have h0 := h
  rw [Mem.coherent_iff] at h
  have hdata : ∀ j k, (m.onSlice st f).lineOf j k = m.lineOf j k ∨
      (j = st ∧ k = line ∧ (m.onSlice st f).lineOf j k = ⟨line, false, (m.stack st).isPoisoned line, (m.stack st).lineData line⟩) := by
    intro j k
    simp only [Mem.lineOf, Mem.onSlice_slice, Mem.onSlice_stack]
    split_ifs with hj
    swap
    · exact .inl rfl
    obtain ⟨rfl, -⟩ := hj
    have hfind : (f (m.slice st)).find k = ((m.slice st).drop line).find k := by simp only [Slice.find, hf]
    rw [hfind]
    by_cases hk : k = line
    · subst hk
      rw [Slice.find_drop_same]; exact .inr ⟨rfl, rfl, rfl⟩
    · rw [Slice.find_drop_other _ hk]; exact .inl rfl
  refine ⟨h0.onSlice fun ha => ?_, ?_, ?_, fun _ => rfl⟩
  · have := Slice.drop_agrees line ha
    simpa [Slice.Agrees, hf] using this
  · intro j k
    rcases hdata j k with e | ⟨rfl, rfl, e⟩
    · rw [e]
    · rw [e]
      simp only [Mem.lineOf]
      split
      · rename_i l hl
        obtain ⟨hm, hline⟩ := Slice.find_mem hl
        have := (h.2.2 j).2.2.2 l hm (hc l hl)
        rw [this, hline]
      · rfl
  · intro j k hcl
    refine ⟨hcl.1, ?_⟩
    rcases hdata j k with e | ⟨rfl, rfl, e⟩
    · rw [e]; exact hcl.2
    · rw [e]; exact hcl.1

theorem Mem.makeRoom_same {m : Mem} (h : m.Coherent) (st line : Nat) : m.Same (m.makeRoom st line) := by
  unfold Mem.makeRoom
  split
  · exact Mem.Same.refl h
  · rename_i v _
    obtain ⟨h1, h2, -, -⟩ := Mem.writeBack_same h st v
    exact h1.trans (Mem.drop_same h1.coherent (fun l hl => (h2 l hl).1) _ fun _ => rfl)

theorem Mem.makeRoom_find {m : Mem} (h : m.Coherent) (st line k : Nat) (hk : (m.slice st).find k = none) :
    ((m.makeRoom st line).slice st).find k = none := by
  unfold Mem.makeRoom
  split
  · exact hk
  · rename_i v _
    have h4 := (Mem.writeBack_same h st v).2.2.2 k
    rw [hk] at h4
    have : ((m.writeBack st v).slice st).find k = none := by simpa using h4
    rw [Mem.onSlice_slice]
    split_ifs
    · by_cases hv : k = v
      · subst hv; exact Slice.find_drop_same _ _
      · rw [Slice.find_drop_other _ hv]; exact this
    · exact this

/-- A line put into its slice with the content an access found there. -/
theorem Mem.put_same {m : Mem} (h : m.Coherent) {st : Nat} {l : SliceLine} (hd : l.data = (m.lineOf st l.line).data)
    (hp : m.CleanLine st l.line → l.poison = false) (hc : l.dirty = false → l.data = (m.stack st).lineData l.line)
    (f : Slice → Slice) (hf : ∀ c, (f c).lines = (c.put l).lines) : m.Same (m.onSlice st f) := by
  have hlen : l.data.length = 64 := by rw [hd]; exact Mem.lineOf_length h _ _
  have hdata : ∀ j k, (m.onSlice st f).lineOf j k = m.lineOf j k ∨ (j = st ∧ k = l.line ∧ (m.onSlice st f).lineOf j k = l) := by
    intro j k
    simp only [Mem.lineOf, Mem.onSlice_slice, Mem.onSlice_stack]
    split_ifs with hj
    swap
    · exact .inl rfl
    obtain ⟨rfl, -⟩ := hj
    have hfind : (f (m.slice st)).find k = ((m.slice st).put l).find k := by simp only [Slice.find, hf]
    rw [hfind]
    by_cases hk : k = l.line
    · subst hk
      rw [Slice.find_put_same, take_pad_eq hlen]; exact .inr ⟨rfl, rfl, rfl⟩
    · rw [Slice.find_put_other _ _ hk]; exact .inl rfl
  refine ⟨h.onSlice fun ha => ?_, ?_, ?_, fun _ => rfl⟩
  · have := Slice.put_agrees ha hc
    simpa [Slice.Agrees, hf] using this
  · intro j k
    rcases hdata j k with e | ⟨rfl, rfl, e⟩
    · rw [e]
    · rw [e, hd]
  · intro j k hcl
    refine ⟨hcl.1, ?_⟩
    rcases hdata j k with e | ⟨rfl, rfl, e⟩
    · rw [e]; exact hcl.2
    · rw [e]; exact hp hcl

/-- An access brings its line into the slice and changes no byte. -/
theorem Mem.touch_same {m : Mem} (h : m.Coherent) (st line : Nat) : m.Same (m.touch st line) := by
  unfold Mem.touch
  split
  · rename_i hf
    unfold Mem.fill
    have h1 := Mem.makeRoom_same h st line
    have h2 := Mem.makeRoom_find h st line line hf
    refine h1.trans (Mem.put_same h1.coherent (l := ⟨line, false, _, _⟩) ?_ (fun hc => hc.1) (fun _ => rfl) _ fun _ => rfl)
    simp only [Mem.lineOf, h2]
  · rename_i l hl
    obtain ⟨hm, hline⟩ := Slice.find_mem hl
    have h' := h
    rw [Mem.coherent_iff] at h'
    refine Mem.put_same h (l := l) ?_ ?_ ?_ _ fun _ => rfl
    · simp only [Mem.lineOf, hline, hl]
    · intro hc; have := hc.2; simpa [Mem.lineOf, hline, hl] using this
    · exact (h'.2.2 st).2.2.2 l hm

/-! ### Bytes written to one line -/

/-- What a run over a list keeps, where each element's step keeps it. -/
theorem runAll_mem {α β : Type} {f : β → α → α} {P : α → Prop} {l : List β} (h : ∀ b ∈ l, ∀ x, P x → P (f b x)) {x : α} (hx : P x) :
    P (runAll f l x) := by
  induction l generalizing x with
  | nil => exact hx
  | cons b l ih => exact ih (fun c hc => h c (by simp [hc])) (h b (by simp) x hx)

@[simp] theorem splice_length {l bs : List Byte} {o : Nat} (h : o + bs.length ≤ l.length) : (splice l o bs).length = l.length := by
  simp [splice]; omega

theorem splice_getD {l bs : List Byte} {o : Nat} (h : o + bs.length ≤ l.length) (j : Nat) :
    (splice l o bs).getD j 0 = if o ≤ j ∧ j < o + bs.length then bs.getD (j - o) 0 else l.getD j 0 := by
  simp only [splice, List.getD_eq_getElem?_getD]
  have hl : (l.take o ++ bs).length = o + bs.length := by simp; omega
  have ht : (l.take o).length = o := by simp; omega
  by_cases h1 : j < o + bs.length
  · rw [List.getElem?_append_left (by omega)]
    by_cases h2 : o ≤ j
    · rw [List.getElem?_append_right (by omega), if_pos ⟨h2, h1⟩, ht]
    · rw [List.getElem?_append_left (by omega), if_neg (by omega), List.getElem?_take, if_pos (by omega)]
  · rw [List.getElem?_append_right (by omega), if_neg (by omega), hl, List.getElem?_drop]
    congr 2; omega

/-- Memory in which exactly the bytes at one place of a stack have changed. -/
structure Mem.Puts (m m' : Mem) (st L : Nat) (bs : List Byte) : Prop where
  coherent : m'.Coherent
  bytes : ∀ st' a, m'.byteAt st' a = if st' = st ∧ L ≤ a ∧ a < L + bs.length then bs.getD (a - L) 0 else m.byteAt st' a
  clean : ∀ st' k, m.CleanLine st' k → m'.CleanLine st' k
  trained : ∀ st', (m'.stack st').trained = (m.stack st').trained

/-- Puts from a change of one line. -/
theorem Mem.Puts.of_line {m m' : Mem} {st L : Nat} {bs : List Byte} (hc : m'.Coherent) (hm : m.Coherent) (hL : L % 64 + bs.length ≤ 64)
    (hd : ∀ st' k, (m'.lineOf st' k).data =
      if st' = st ∧ k = L / 64 then splice (m.lineOf st (L / 64)).data (L % 64) bs else (m.lineOf st' k).data)
    (hp : ∀ st' k, m.CleanLine st' k → m'.CleanLine st' k) (ht : ∀ st', (m'.stack st').trained = (m.stack st').trained) :
    m.Puts m' st L bs := by
  refine ⟨hc, fun st' a => ?_, hp, ht⟩
  simp only [Mem.byteAt, hd]
  by_cases h : st' = st ∧ a / 64 = L / 64
  · rw [if_pos h, splice_getD (by rw [Mem.lineOf_length hm]; exact hL)]
    obtain ⟨rfl, h⟩ := h
    by_cases h2 : L % 64 ≤ a % 64 ∧ a % 64 < L % 64 + bs.length
    · rw [if_pos h2, if_pos ⟨rfl, by omega, by omega⟩]; congr 1; omega
    · rw [if_neg h2, if_neg (by omega), h]
  · rw [if_neg h, if_neg (by rintro ⟨rfl, h1, h2⟩; exact h ⟨rfl, by omega⟩)]

theorem Dev.partialLost_coherent {d : Dev} (h : d.mem.Coherent) (st line : Nat) : (d.partialLost st line).mem.Coherent :=
  h.onStack_marks st fun _ => rfl

theorem Dev.writePiece_coherent {d : Dev} (h : d.mem.Coherent) (st L : Nat) (bs : List Byte) : (d.writePiece st L bs).mem.Coherent := by
  have h1 := (Mem.touch_same h st (L / 64)).coherent
  unfold Dev.writePiece
  simp only
  split_ifs
  · exact Dev.partialLost_coherent (d := { d with mem := _ }) h1 _ _
  · exact h1.onSlice fun ha => Slice.put_agrees ha (by simp)

/-- A write of part of a clean line through its slice. -/
theorem Dev.writePiece_puts {d : Dev} (h : d.mem.Coherent) {st L : Nat} {bs : List Byte} (hst : st < 8) (hL : L % 64 + bs.length ≤ 64)
    (hc : d.mem.CleanLine st (L / 64)) :
    d.mem.Puts (d.writePiece st L bs).mem st L bs ∧ (d.writePiece st L bs).sys = d.sys := by
  have hco := Dev.writePiece_coherent h st L bs
  have h1 := Mem.touch_same h st (L / 64)
  have hp := (h1.clean _ _ hc).2
  revert hco
  unfold Dev.writePiece
  simp only [hp, Bool.false_and, Bool.false_eq_true, if_false]
  intro hco
  have h8 : st < (d.mem.touch st (L / 64)).slices.length := by rw [h1.coherent.2.2.1]; exact hst
  have hlen : (splice ((d.mem.touch st (L / 64)).lineOf st (L / 64)).data (L % 64) bs).length = 64 := by
    rw [splice_length] <;> rw [Mem.lineOf_length h1.coherent]; exact hL
  have hline : ∀ st' k, (((d.mem.touch st (L / 64)).onSlice st (fun c => c.put ⟨L / 64, true, false,
      splice ((d.mem.touch st (L / 64)).lineOf st (L / 64)).data (L % 64) bs⟩)).lineOf st' k) =
      if st' = st ∧ k = L / 64 then ⟨L / 64, true, false, splice ((d.mem.touch st (L / 64)).lineOf st (L / 64)).data (L % 64) bs⟩
      else (d.mem.touch st (L / 64)).lineOf st' k := by
    intro st' k
    rw [Mem.lineOf, Mem.onSlice_slice, Mem.onSlice_stack]
    by_cases hj : st' = st
    · subst hj
      rw [if_pos ⟨rfl, h8⟩]
      by_cases hk : k = L / 64
      · subst hk
        rw [if_pos ⟨rfl, rfl⟩]
        rw [show ((d.mem.touch st' (L / 64)).slice st' |>.put ⟨L / 64, true, false, _⟩).find (L / 64) = _ from Slice.find_put_same _ _]
        simp only [take_pad_eq hlen]
      · rw [if_neg (by tauto), Slice.find_put_other _ _ hk]; rfl
    · rw [if_neg (by tauto), if_neg (by tauto)]; rfl
  refine ⟨Mem.Puts.of_line hco h hL ?_ ?_ ?_, trivial⟩
  · intro st' k
    rw [hline]
    split_ifs with hj
    · rw [h1.data]
    · exact h1.data _ _
  · intro st' k hcl
    refine ⟨(h1.clean _ _ hcl).1, ?_⟩
    rw [hline]
    split_ifs
    · rfl
    · exact (h1.clean _ _ hcl).2
  · exact h1.trained

/-! ### The Kettle engines' writes -/

/-- The state of a line after it is written back and invalidated. -/
theorem Mem.invalidate_same {m : Mem} (h : m.Coherent) (st line : Nat) (m2 : Mem)
    (h2 : m2 = if ((m.writeBack st line).slice st |>.find line).isSome then
      (m.writeBack st line).onSlice st (fun c => { c.drop line with invalidations := c.invalidations + 1 }) else m.writeBack st line) :
    m.Same m2 ∧ (m2.slice st).find line = none ∧ (m.CleanLine st line → (m2.stack st).isPoisoned line = false) := by
  obtain ⟨h1, hcl, hp, -⟩ := Mem.writeBack_same h st line
  split_ifs at h2 with hs
  · subst h2
    refine ⟨h1.trans (Mem.drop_same h1.coherent (fun l hl => (hcl l hl).1) _ fun _ => rfl), ?_, hp⟩
    obtain ⟨l, hl⟩ := Option.isSome_iff_exists.1 hs
    rw [Mem.onSlice_slice, if_pos ⟨rfl, Mem.find_lt hl⟩]
    exact Slice.find_drop_same _ _
  · subst h2
    exact ⟨h1, by simpa using hs, hp⟩

theorem Mem.putLine_coherent {m : Mem} (h : m.Coherent) {st line : Nat} {data : List Byte} {p : Bool} (hn : (m.slice st).find line = none)
    (hl : data.length = 64) : (m.onStack st (fun t => t.putLine line data p)).Coherent := by
  refine h.onStack fun ha => ⟨cellsWrite_wf _ _ ha.1, ha.2.1, ha.2.2.1, fun l hm hd => ?_⟩
  have hne : l.line ≠ line := by
    rintro rfl
    have := List.find?_eq_none.1 hn l hm
    simp at this
  rw [Stack.putLine_data_other ha.1 hl hne]
  exact ha.2.2.2 l hm hd

theorem Mem.lineOf_none {m : Mem} {st line : Nat} (h : (m.slice st).find line = none) :
    m.lineOf st line = ⟨line, false, (m.stack st).isPoisoned line, (m.stack st).lineData line⟩ := by simp only [Mem.lineOf, h]

theorem Dev.kettleWritePiece_coherent {d : Dev} (h : d.mem.Coherent) {st L : Nat} {bs : List Byte} (hL : L % 64 + bs.length ≤ 64) :
    (d.kettleWritePiece st L bs).mem.Coherent := by
  unfold Dev.kettleWritePiece
  simp only
  generalize hm2 : (if ((d.mem.writeBack st (L / 64)).slice st |>.find (L / 64)).isSome = true then _ else _) = m2
  obtain ⟨h1, hn, -⟩ := Mem.invalidate_same h st (L / 64) m2 hm2.symm
  split_ifs
  · exact Dev.partialLost_coherent (d := { d with mem := m2 }) h1.coherent _ _
  · refine h1.coherent.onStack fun ha => ?_
    have := (Mem.putLine_coherent (p := false) (data := splice ((m2.stack st).lineData (L / 64)) (L % 64) bs) h1.coherent hn (by rw [splice_length] <;> simp [hL]))
    refine ⟨cellsWrite_wf _ _ ha.1, ha.2.1, ha.2.2.1, fun l hm hd => ?_⟩
    have hne : l.line ≠ L / 64 := by
      intro he
      have := List.find?_eq_none.1 hn l hm
      simp [he] at this
    rw [Stack.putLine_data_other ha.1 (by rw [splice_length] <;> simp [hL]) hne]
    exact ha.2.2.2 l hm hd

/-- A write of part of a clean line by a Kettle engine. -/
theorem Dev.kettleWritePiece_puts {d : Dev} (h : d.mem.Coherent) {st L : Nat} {bs : List Byte} (hst : st < 8) (hL : L % 64 + bs.length ≤ 64)
    (hc : d.mem.CleanLine st (L / 64)) :
    d.mem.Puts (d.kettleWritePiece st L bs).mem st L bs ∧ (d.kettleWritePiece st L bs).sys = d.sys := by
  have hco := Dev.kettleWritePiece_coherent h hL (st := st)
  revert hco
  unfold Dev.kettleWritePiece
  simp only
  generalize hm2 : (if ((d.mem.writeBack st (L / 64)).slice st |>.find (L / 64)).isSome = true then _ else _) = m2
  obtain ⟨h1, hn, hp⟩ := Mem.invalidate_same h st (L / 64) m2 hm2.symm
  have hp := hp hc
  simp only [hp, Bool.false_and, Bool.false_eq_true, if_false]
  intro hco
  have h8 : st < m2.dram.length := by rw [h1.coherent.2.1]; exact hst
  have hcells : cellsWf (m2.stack st).cells = true := ((Mem.coherent_iff _).1 h1.coherent |>.2.2 st).1
  have hlen : (splice ((m2.stack st).lineData (L / 64)) (L % 64) bs).length = 64 := by rw [splice_length] <;> simp [hL]
  have hline : ∀ st' k, ((m2.onStack st (fun t => t.putLine (L / 64) (splice (t.lineData (L / 64)) (L % 64) bs) false)).lineOf st' k) =
      if st' = st ∧ k = L / 64 then ⟨L / 64, false, false, splice ((m2.stack st).lineData (L / 64)) (L % 64) bs⟩
      else m2.lineOf st' k := by
    intro st' k
    rw [Mem.lineOf, Mem.onStack_slice, Mem.onStack_stack]
    by_cases hj : st' = st
    · subst hj
      rw [if_pos ⟨rfl, h8⟩]
      by_cases hk : k = L / 64
      · subst hk
        rw [if_pos ⟨rfl, rfl⟩, hn]
        simp only [Stack.putLine_poisoned, if_true, Stack.putLine_data_same hcells hlen]
      · rw [if_neg (by tauto)]
        simp only [Mem.lineOf, Stack.putLine_poisoned, if_neg hk, Stack.putLine_data_other hcells hlen hk]
    · rw [if_neg (by tauto), if_neg (by tauto)]; rfl
  refine ⟨Mem.Puts.of_line hco h hL ?_ ?_ ?_, trivial⟩
  · intro st' k
    rw [hline]
    split_ifs with hj
    · have := h1.data st (L / 64)
      rw [Mem.lineOf_none hn] at this
      simp only at this ⊢
      rw [this]
    · exact h1.data _ _
  · intro st' k hcl
    constructor
    · rw [Mem.onStack_stack]
      split_ifs with hj
      · obtain ⟨rfl, -⟩ := hj
        rw [Stack.putLine_poisoned]
        split_ifs
        · rfl
        · exact (h1.clean _ _ hcl).1
      · exact (h1.clean _ _ hcl).1
    · rw [hline]
      split_ifs
      · rfl
      · exact (h1.clean _ _ hcl).2
  · intro st'
    rw [Mem.onStack_stack]
    split_ifs with hj
    · exact h1.trained st'
    · exact h1.trained st'

/-! ### Ranges -/

theorem physical_fst_lt (chunk off : Nat) : (physical chunk off).1 < 8 := by
  unfold physical bits
  split_ifs <;> simp <;> omega

/-- The bytes of one line of partition addresses stand in one line of a stack. -/
theorem Dev.locate_add (d : Dev) (p a i : Nat) (h : a % 64 + i < 64) :
    d.locate p (a + i) = ((d.locate p a).1, (d.locate p a).2 + i) ∧ (d.locate p a).2 % 64 = a % 64 := by
  have h1 : (a + i) / 2 ^ 30 = a / 2 ^ 30 := by omega
  have h2 : (a + i) % 2 ^ 30 = a % 2 ^ 30 + i := by omega
  simp only [Dev.locate, h1, h2]
  generalize s2Chunk _ = c
  have h3 : a % 2 ^ 30 % 64 = a % 64 := by omega
  rw [← h3] at h ⊢
  have h4 : a % 2 ^ 30 < 2 ^ 30 := by omega
  generalize a % 2 ^ 30 = o at *
  unfold physical bits
  split_ifs
  · simp only [Prod.mk.injEq]; omega
  · simp only [Prod.mk.injEq]; omega

theorem Dev.locate_lt (d : Dev) (p a : Nat) : (d.locate p a).1 < 8 := physical_fst_lt _ _

/-- A device in which exactly the bytes of a range have changed. -/
structure Dev.Wrote (d d' : Dev) (p a : Nat) (bs : List Byte) : Prop where
  coherent : d'.mem.Coherent
  sys : d'.sys = d.sys
  bytes : ∀ j < bs.length, d'.mem.byteAt (d.locate p (a + j)).1 (d.locate p (a + j)).2 = bs.getD j 0
  others : d.KeepsButRange d'.mem p a bs.length
  clean : ∀ st k, d.mem.CleanLine st k → d'.mem.CleanLine st k
  trained : ∀ st, (d'.mem.stack st).trained = (d.mem.stack st).trained

theorem Dev.locate_of_sys {d d' : Dev} (h : d'.sys = d.sys) (p a : Nat) : d'.locate p a = d.locate p a := by
  simp only [Dev.locate, Dev.table, h]

/-- A run of line writes over the pieces of a range. -/
theorem writeLoop {W : Nat → Nat → List Byte → Dev → Dev}
    (hW : ∀ (d : Dev) st L bs, d.mem.Coherent → st < 8 → L % 64 + bs.length ≤ 64 → d.mem.CleanLine st (L / 64) →
      d.mem.Puts (W st L bs d).mem st L bs ∧ (W st L bs d).sys = d.sys)
    (p b : Nat) (bs : List Byte) (f x n : Nat) (d : Dev) (hf : n = 0 ∨ n + x % 64 ≤ 64 * f) (hb : b ≤ x) (hn : x - b + n ≤ bs.length)
    (h : d.mem.Coherent) (hc : d.CleanRange p x n) (hi : ∀ i j, i < n → j < n → d.locate p (x + i) = d.locate p (x + j) → i = j) :
    d.Wrote (runAll (fun (pc : Nat × Nat) d => W (d.locate p pc.1).1 (d.locate p pc.1).2 ((bs.drop (pc.1 - b)).take pc.2) d)
      (pieces f x n) d) p x ((bs.drop (x - b)).take n) := by
  induction f generalizing x n d with
  | zero =>
    have : n = 0 := by omega
    subst this
    exact ⟨h, rfl, by simp, fun _ _ _ => rfl, fun _ _ => id, fun _ => rfl⟩
  | succ f ih =>
    rw [pieces]
    split_ifs with h0
    · subst h0
      exact ⟨h, rfl, by simp, fun _ _ _ => rfl, fun _ _ => id, fun _ => rfl⟩
    generalize hk : min n (64 - x % 64) = k
    have hk1 : 1 ≤ k := by omega
    have hk2 : x % 64 + k ≤ 64 := by omega
    simp only [runAll]
    have hloc : ∀ i < k, d.locate p (x + i) = ((d.locate p x).1, (d.locate p x).2 + i) := fun i hi => (d.locate_add p x i (by omega)).1
    have hmod := (d.locate_add p x 0 (by omega)).2
    have hlen1 : ((bs.drop (x - b)).take k).length = k := by simp; omega
    obtain ⟨hp, hs⟩ := hW d (d.locate p x).1 (d.locate p x).2 ((bs.drop (x - b)).take k) h (d.locate_lt p x)
      (by rw [hlen1]; omega) (hc 0 (by omega) _ _ rfl)
    generalize hd1 : W (d.locate p x).1 (d.locate p x).2 ((bs.drop (x - b)).take k) d = d1 at hp hs
    have hl1 := fun a => Dev.locate_of_sys hs p a
    obtain ⟨r1, r2, r3, r4, r5, r6⟩ := ih (x + k) (n - k) d1 (by omega) (by omega) (by omega) hp.coherent
      (by
        intro j hj st L hl
        rw [hl1, show x + k + j = x + (k + j) by omega] at hl
        exact hp.clean _ _ (hc (k + j) (by omega) _ _ hl))
      (by
        intro i j h1 h2 he
        rw [hl1, hl1, show x + k + i = x + (k + i) by omega, show x + k + j = x + (k + j) by omega] at he
        have := hi (k + i) (k + j) (by omega) (by omega) he
        omega)
    have hlen2 : ((bs.drop (x + k - b)).take (n - k)).length = n - k := by simp; omega
    have hlen3 : ((bs.drop (x - b)).take n).length = n := by simp; omega
    rw [hlen2] at r3 r4
    have hget : ∀ (o m j : Nat), j < m → o + m ≤ bs.length → ((bs.drop o).take m).getD j 0 = bs.getD (o + j) 0 := by
      intro o m j hj _
      simp [List.getD_eq_getElem?_getD, hj]
    refine ⟨r1, r2.trans hs, ?_, ?_, fun st q hq => r5 st q (hp.clean st q hq), fun st => (r6 st).trans (hp.trained st)⟩
    · rw [hlen3]
      intro j hj
      rw [hget _ _ _ hj hn]
      by_cases hjk : j < k
      · have ho := r4 (d.locate p (x + j)).1 (d.locate p (x + j)).2 (by
          intro i hi' he
          rw [hl1, show x + k + i = x + (k + i) by omega] at he
          have := hi (k + i) j (by omega) hj he
          omega)
        rw [ho, hp.bytes, hloc j hjk, if_pos ⟨rfl, by simp, by rw [hlen1]; simp only; omega⟩]
        simp only [Nat.add_sub_cancel_left]
        exact hget _ _ _ hjk (by omega)
      · have := r3 (j - k) (by omega)
        rw [hl1, hget _ _ _ (by omega) (by omega), show x + k + (j - k) = x + j by omega, show x + k - b + (j - k) = x - b + j by omega] at this
        exact this
    · rw [hlen3]
      intro st L hout
      rw [r4 st L (by
        intro j hj
        rw [hl1, show x + k + j = x + (k + j) by omega]
        exact hout (k + j) (by omega)), hp.bytes, if_neg]
      rw [hlen1]
      rintro ⟨rfl, h1, h2⟩
      have := hout (L - (d.locate p x).2) (by omega)
      rw [hloc _ (by omega)] at this
      apply this
      simp only [Prod.mk.injEq, true_and]; omega

/-- A write of a range in clean lines through the slices changes exactly its bytes, and charges the partition. -/
theorem Dev.writeRange_wrote {d : Dev} (p a : Nat) (bs : List Byte) (h : d.mem.Coherent) (hc : d.CleanRange p a bs.length)
    (hi : ∀ i j, i < bs.length → j < bs.length → d.locate p (a + i) = d.locate p (a + j) → i = j) :
    ∃ d', d.Wrote d' p a bs ∧ d.writeRange p a bs = { d' with sys := d'.sys.charge p bs.length } := by
  have := writeLoop (W := fun st L bs d => d.writePiece st L bs)
    (fun d st L bs h1 h2 h3 h4 => Dev.writePiece_puts h1 h2 h3 h4) p a bs (bs.length / 64 + 2) a bs.length d (by omega) (le_refl a)
    (by omega) h hc hi
  simp only [Nat.sub_self, List.drop_zero, List.take_length] at this
  exact ⟨_, this, rfl⟩

theorem Dev.writeRange_coherent {d : Dev} (h : d.mem.Coherent) (p a : Nat) (bs : List Byte) : (d.writeRange p a bs).mem.Coherent :=
  runAll_mem (P := fun d : Dev => d.mem.Coherent) (fun _ _ _ hx => Dev.writePiece_coherent hx _ _ _) h

/-- A write of a range in clean lines by a Kettle engine changes exactly its bytes. -/
theorem Dev.kettleWrite_wrote {d : Dev} (p a : Nat) (bs : List Byte) (h : d.mem.Coherent) (hc : d.CleanRange p a bs.length)
    (hi : ∀ i j, i < bs.length → j < bs.length → d.locate p (a + i) = d.locate p (a + j) → i = j) :
    d.Wrote (d.kettleWrite p a bs) p a bs := by
  have := writeLoop (W := fun st L bs d => d.kettleWritePiece st L bs)
    (fun d st L bs h1 h2 h3 h4 => Dev.kettleWritePiece_puts h1 h2 h3 h4) p a bs (bs.length / 64 + 2) a bs.length d (by omega) (le_refl a)
    (by omega) h hc hi
  simp only [Nat.sub_self, List.drop_zero, List.take_length] at this
  exact this

/-- Each piece of a range lies in one line. -/
theorem pieces_line {f a n : Nat} {pc : Nat × Nat} (h : pc ∈ pieces f a n) : pc.1 % 64 + pc.2 ≤ 64 := by
  induction f generalizing a n with
  | zero => simp [pieces] at h
  | succ f ih =>
    rw [pieces] at h
    split_ifs at h
    · simp at h
    · rcases List.mem_cons.1 h with rfl | h
      · simp only; omega
      · exact ih h

theorem Dev.kettleWrite_coherent {d : Dev} (h : d.mem.Coherent) (p a : Nat) (bs : List Byte) : (d.kettleWrite p a bs).mem.Coherent := by
  refine runAll_mem (P := fun d : Dev => d.mem.Coherent) (fun pc hpc x hx => Dev.kettleWritePiece_coherent hx ?_) h
  have h1 := pieces_line hpc
  have h2 := (x.locate_add p pc.1 0 (by
    have : pc.1 % 64 < 64 := Nat.mod_lt _ (by decide)
    omega)).2
  have h3 : ((bs.drop (pc.1 - a)).take pc.2).length ≤ pc.2 := by rw [List.length_take]; omega
  exact le_trans (Nat.add_le_add (le_of_eq h2) h3) h1

/-! ### Reads -/

@[simp] theorem Sys.charge_mgmt (s : Sys) (p n : Nat) : (s.charge p n).mgmt = s.mgmt := rfl

/-- A charge changes no stage-two table. -/
theorem Sys.charge_inForce (s : Sys) (p n q : Nat) : ((s.charge p n).part q).inForce = (s.part q).inForce := by
  simp only [Sys.charge, Sys.onPart, Sys.onHost, Sys.part, modNth_getD]
  split_ifs <;> rfl

theorem Dev.charge_locate (d : Dev) (m : Mem) (p n q a : Nat) : Dev.locate ⟨m, d.sys.charge p n⟩ q a = d.locate q a := by
  simp only [Dev.locate, Dev.table, Sys.charge_inForce]

/-- A run of line reads over the pieces of a range: no byte and nothing but memory's own marks changes, and in clean lines the
bytes read are the range's. -/
theorem readLoop {R : Nat × Nat → ReadRes → ReadRes} (p : Nat)
    (hR : ∀ pc r, r.dev.mem.Coherent → (R pc r).dev.sys = r.dev.sys ∧ r.dev.mem.Same (R pc r).dev.mem)
    (hB : ∀ pc r, r.dev.mem.Coherent → r.dev.mem.CleanLine (r.dev.locate p pc.1).1 ((r.dev.locate p pc.1).2 / 64) →
      (R pc r).poison = r.poison ∧ (R pc r).data =
        r.data ++ (((r.dev.mem.lineOf (r.dev.locate p pc.1).1 ((r.dev.locate p pc.1).2 / 64)).data.drop ((r.dev.locate p pc.1).2 % 64)).take pc.2))
    (f x n : Nat) (r : ReadRes) (h : r.dev.mem.Coherent) :
    (runAll R (pieces f x n) r).dev.sys = r.dev.sys ∧ r.dev.mem.Same (runAll R (pieces f x n) r).dev.mem
      ∧ ((n = 0 ∨ n + x % 64 ≤ 64 * f) → r.dev.CleanRange p x n →
        (runAll R (pieces f x n) r).poison = r.poison
          ∧ (runAll R (pieces f x n) r).data = r.data ++ (List.range n).map (fun j => r.dev.byteOf p (x + j))) := by
  induction f generalizing x n r with
  | zero =>
    refine ⟨rfl, Mem.Same.refl h, fun hf _ => ?_⟩
    have : n = 0 := by omega
    subst this
    exact ⟨rfl, by simp [pieces, runAll]⟩
  | succ f ih =>
    rw [pieces]
    split_ifs with h0
    · subst h0
      exact ⟨rfl, Mem.Same.refl h, fun _ _ => ⟨rfl, by simp [runAll]⟩⟩
    generalize hk : min n (64 - x % 64) = k
    have hk2 : x % 64 + k ≤ 64 := by omega
    simp only [runAll]
    obtain ⟨h1, h2⟩ := hR (x, k) r h
    obtain ⟨i1, i2, i3⟩ := ih (x + k) (n - k) (R (x, k) r) h2.coherent
    refine ⟨i1.trans h1, h2.trans i2, fun hf hc => ?_⟩
    obtain ⟨b1, b2⟩ := hB (x, k) r h (hc 0 (by omega) _ _ rfl)
    have hl := fun a => Dev.locate_of_sys h1 p a
    obtain ⟨j1, j2⟩ := i3 (by omega) (by
      intro j hj st L he
      rw [hl, show x + k + j = x + (k + j) by omega] at he
      exact h2.clean _ _ (hc (k + j) (by omega) _ _ he))
    refine ⟨j1.trans b1, ?_⟩
    rw [j2, b2, List.append_assoc]
    congr 1
    have hlen := Mem.lineOf_length h (r.dev.locate p x).1 ((r.dev.locate p x).2 / 64)
    have hmod := (r.dev.locate_add p x 0 (by omega)).2
    apply list_ext_getD
    · simp only [List.length_append, List.length_take, List.length_drop, hlen, List.length_map, List.length_range]; omega
    intro j hj
    have hkk : (((r.dev.mem.lineOf (r.dev.locate p x).1 ((r.dev.locate p x).2 / 64)).data.drop ((r.dev.locate p x).2 % 64)).take k).length = k := by
      simp only [List.length_take, List.length_drop, hlen]; omega
    have hjn : j < n := by
      simp only [List.length_append, hkk, List.length_map, List.length_range] at hj; omega
    have hrhs : ((List.range n).map (fun j => r.dev.byteOf p (x + j))).getD j 0 = r.dev.byteOf p (x + j) := by
      simp [List.getD_eq_getElem?_getD, hjn]
    rw [hrhs]
    simp only [List.getD_eq_getElem?_getD]
    by_cases hjk : j < k
    · rw [List.getElem?_append_left (by omega), List.getElem?_take, if_pos hjk, List.getElem?_drop]
      simp only [Dev.byteOf, Mem.byteAt, (r.dev.locate_add p x j (by omega)).1]
      rw [show ((r.dev.locate p x).2 + j) / 64 = (r.dev.locate p x).2 / 64 by omega,
        show ((r.dev.locate p x).2 + j) % 64 = (r.dev.locate p x).2 % 64 + j by omega, List.getD_eq_getElem?_getD]
    · rw [List.getElem?_append_right (by omega), hkk]
      have : j - k < n - k := by omega
      simp only [List.getElem?_map, List.getElem?_range this, Option.map_some, Option.getD_some]
      simp only [Dev.byteOf, hl, show x + k + (j - k) = x + j by omega]
      exact h2.keeps _ _

/-- What a read through the slices does: it charges the partition, changes no byte, and in clean lines answers the range's
bytes. -/
theorem Dev.readRange_spec {d : Dev} (h : d.mem.Coherent) (p a n : Nat) :
    (d.readRange p a n).dev.sys = d.sys.charge p n ∧ d.mem.Same (d.readRange p a n).dev.mem
      ∧ (d.CleanRange p a n → (d.readRange p a n).poison = none
        ∧ (d.readRange p a n).data = (List.range n).map (fun j => d.byteOf p (a + j))) := by
  have := readLoop (R := ReadRes.step p) p ?_ ?_ (n / 64 + 2) a n ⟨d, [], none⟩ h
  · obtain ⟨h1, h2, h3⟩ := this
    refine ⟨?_, h2, fun hc => ?_⟩
    · simp only [Dev.readRange, rangePieces, h1]
    · have := h3 (by omega) hc
      rwa [List.nil_append] at this
  · intro pc r hr
    have ht := Mem.touch_same hr (r.dev.locate p pc.1).1 ((r.dev.locate p pc.1).2 / 64)
    simp only [ReadRes.step]
    split_ifs
    · refine ⟨rfl, ht.trans ⟨ht.coherent.onStack_marks _ fun _ => rfl, ?_, ?_, ?_⟩⟩
      · intro st k
        simp only [Mem.lineOf, Mem.onStack_slice, Mem.onStack_stack]
        split <;> [rfl; (split_ifs <;> rfl)]
      · intro st k hc
        simp only [Mem.CleanLine, Mem.lineOf, Mem.onStack_slice, Mem.onStack_stack] at hc ⊢
        split_ifs <;> exact hc
      · intro st
        rw [Mem.onStack_stack]; split_ifs <;> rfl
    · exact ⟨rfl, ht⟩
  · intro pc r hr hc
    have ht := Mem.touch_same hr (r.dev.locate p pc.1).1 ((r.dev.locate p pc.1).2 / 64)
    have hp := (ht.clean _ _ hc).2
    simp only [ReadRes.step, hp, Bool.false_eq_true, if_false, ht.data]
    exact ⟨trivial, trivial⟩

/-- What a Kettle engine's read does: it changes no byte and no register, and in clean lines answers the range's bytes. -/
theorem Dev.kettleRead_spec {d : Dev} (h : d.mem.Coherent) (p a n : Nat) :
    (d.kettleRead p a n).dev.sys = d.sys ∧ d.mem.Same (d.kettleRead p a n).dev.mem
      ∧ (d.CleanRange p a n → (d.kettleRead p a n).poison = none
        ∧ (d.kettleRead p a n).data = (List.range n).map (fun j => d.byteOf p (a + j))) := by
  have := readLoop (R := ReadRes.kettleStep p) p ?_ ?_ (n / 64 + 2) a n ⟨d, [], none⟩ h
  · obtain ⟨h1, h2, h3⟩ := this
    exact ⟨h1, h2, fun hc => by
      have := h3 (by omega) hc
      rwa [List.nil_append] at this⟩
  · intro pc r hr
    have ht := (Mem.writeBack_same hr (r.dev.locate p pc.1).1 ((r.dev.locate p pc.1).2 / 64)).1
    unfold ReadRes.kettleStep Mem.kettleFetch
    revert ht
    generalize r.dev.locate p pc.1 = q
    obtain ⟨st, L⟩ := q
    intro ht
    simp only at ht ⊢
    split_ifs
    · refine ⟨rfl, ht.trans ⟨ht.coherent.onStack_marks _ fun _ => rfl, ?_, ?_, ?_⟩⟩
      · intro st k
        simp only [Mem.lineOf, Mem.onStack_slice, Mem.onStack_stack]
        split <;> [rfl; (split_ifs <;> rfl)]
      · intro st k hc
        simp only [Mem.CleanLine, Mem.lineOf, Mem.onStack_slice, Mem.onStack_stack] at hc ⊢
        split_ifs <;> exact hc
      · intro st
        rw [Mem.onStack_stack]; split_ifs <;> rfl
    · exact ⟨rfl, ht⟩
  · intro pc r hr hc
    obtain ⟨ht, hw, hp, -⟩ := Mem.writeBack_same hr (r.dev.locate p pc.1).1 ((r.dev.locate p pc.1).2 / 64)
    simp only [ReadRes.kettleStep, Mem.kettleFetch, hp hc, Bool.false_eq_true, if_false]
    refine ⟨trivial, ?_⟩
    rw [← ht.data]
    congr 3
    simp only [Mem.lineOf]
    split
    · rename_i l hl; exact ((hw l hl).2).symm
    · rfl

/-! ### The doorbell pages -/

/-- Devices whose rings, ring records and stage-two tables stand alike: what a doorbell page's place rests on. -/
def Sys.RingsAlike (s s' : Sys) : Prop :=
  s'.mgmt.dict = s.mgmt.dict ∧ (∀ r, (s'.ring r).inEffect = (s.ring r).inEffect) ∧ ∀ p, (s'.part p).inForce = (s.part p).inForce

theorem Sys.RingsAlike.refl (s : Sys) : s.RingsAlike s := ⟨rfl, fun _ => rfl, fun _ => rfl⟩
theorem Sys.RingsAlike.trans {a b c : Sys} (h : a.RingsAlike b) (h' : b.RingsAlike c) : a.RingsAlike c :=
  ⟨h'.1.trans h.1, fun r => (h'.2.1 r).trans (h.2.1 r), fun p => (h'.2.2 p).trans (h.2.2 p)⟩

theorem Sys.RingsAlike.locate {d d' : Dev} (h : d.sys.RingsAlike d'.sys) (p a : Nat) : d'.locate p a = d.locate p a := by
  simp only [Dev.locate, Dev.table, h.2.2]

theorem Sys.RingsAlike.pageByte {d d' : Dev} (h : d.sys.RingsAlike d'.sys) (st L : Nat) : d'.PageByte st L ↔ d.PageByte st L := by
  simp only [Dev.PageByte, h.locate, h.2.1, Sys.ringPart, Sys.ringRec, Sys.cfg, h.1]


theorem Sys.log_alike (s : Sys) (k u p c : Nat) (b : List Byte) : s.RingsAlike (s.log k u p c b) :=
  ⟨by simp, fun r => by simp only [Sys.ring, Sys.log_host], fun q => by simp only [Sys.part, Sys.log_host]⟩

/-- Whatever the line's poison, a write of part of a line changes only its bytes; a loss is logged. -/
theorem Dev.writePiece_outside {d : Dev} (h : d.mem.Coherent) {st L : Nat} {bs : List Byte} (hst : st < 8)
    (hL : L % 64 + bs.length ≤ 64) :
    d.mem.KeepsOutside (d.writePiece st L bs).mem st L bs.length ∧ d.sys.RingsAlike (d.writePiece st L bs).sys := by
  have h1 := Mem.touch_same h st (L / 64)
  unfold Dev.writePiece
  simp only
  split_ifs with hp
  · refine ⟨fun st' a _ => ?_, Sys.log_alike _ _ _ _ _ _⟩
    have : (Dev.partialLost { d with mem := d.mem.touch st (L / 64) } st (L / 64)).mem.byteAt st' a = (d.mem.touch st (L / 64)).byteAt st' a := by
      simp only [Dev.partialLost, Mem.byteAt, Mem.lineOf, Mem.onStack_slice, Mem.onStack_stack]
      split <;> [rfl; (split_ifs <;> rfl)]
    rw [this]; exact h1.keeps st' a
  · refine ⟨fun st' a hout => ?_, Sys.RingsAlike.refl _⟩
    rw [← h1.keeps st' a]
    have h8 : st < (d.mem.touch st (L / 64)).slices.length := by rw [h1.coherent.2.2.1]; exact hst
    have hlen : (splice ((d.mem.touch st (L / 64)).lineOf st (L / 64)).data (L % 64) bs).length = 64 := by
      rw [splice_length] <;> rw [Mem.lineOf_length h1.coherent]; exact hL
    rw [Mem.byteAt, Mem.lineOf, Mem.onSlice_slice, Mem.onSlice_stack]
    by_cases hj : st = st'
    · subst hj
      rw [if_pos ⟨rfl, h8⟩]
      by_cases hk : a / 64 = L / 64
      · rw [hk, show ((d.mem.touch st (L / 64)).slice st |>.put ⟨L / 64, true, false, _⟩).find (L / 64) = _ from Slice.find_put_same _ _]
        simp only [take_pad_eq hlen]
        rw [splice_getD (by rw [Mem.lineOf_length h1.coherent]; exact hL), if_neg (by omega), ← hk]; rfl
      · rw [Slice.find_put_other _ _ hk]; rfl
    · rw [if_neg (by tauto)]; rfl

/-- A write of a range changes only the range's bytes, whatever its poison. -/
theorem Dev.writeRange_outside {d : Dev} (h : d.mem.Coherent) (p a : Nat) (bs : List Byte) :
    d.KeepsButRange (d.writeRange p a bs).mem p a bs.length ∧ d.sys.RingsAlike (d.writeRange p a bs).sys := by
  have key : ∀ (f x n : Nat) (d : Dev), d.mem.Coherent → a ≤ x → x - a + n ≤ bs.length →
      let d' := runAll (fun (pc : Nat × Nat) d =>
        Dev.writePiece d (d.locate p pc.1).1 (d.locate p pc.1).2 ((bs.drop (pc.1 - a)).take pc.2)) (pieces f x n) d
      d.KeepsButRange d'.mem p x n ∧ d.sys.RingsAlike d'.sys := by
    intro f
    induction f with
    | zero => intro x n d _ _ _; exact ⟨fun _ _ _ => rfl, Sys.RingsAlike.refl _⟩
    | succ f ih =>
      intro x n d hco hax hn
      rw [pieces]
      split_ifs with h0
      · exact ⟨fun _ _ _ => rfl, Sys.RingsAlike.refl _⟩
      generalize hk : min n (64 - x % 64) = k
      have hk2 : x % 64 + k ≤ 64 := by omega
      have hmod := (d.locate_add p x 0 (by omega)).2
      have hlen1 : ((bs.drop (x - a)).take k).length = k := by simp; omega
      obtain ⟨w1, w2⟩ := Dev.writePiece_outside hco (L := (d.locate p x).2) (bs := (bs.drop (x - a)).take k) (d.locate_lt p x) (by rw [hlen1]; omega)
      have hl := fun y => w2.locate (d := d) (d' := d.writePiece (d.locate p x).1 (d.locate p x).2 ((bs.drop (x - a)).take k)) p y
      obtain ⟨i1, i2⟩ := ih (x + k) (n - k) _ (Dev.writePiece_coherent hco _ _ _) (by omega) (by omega)
      refine ⟨fun st L hout => ?_, w2.trans i2⟩
      simp only [runAll]
      rw [i1 st L (by
        intro j hj
        rw [hl, show x + k + j = x + (k + j) by omega]
        exact hout (k + j) (by omega))]
      apply w1
      rw [hlen1]
      rintro ⟨rfl, h1, h2⟩
      have := hout (L - (d.locate p x).2) (by omega)
      rw [(d.locate_add p x _ (by omega)).1] at this
      apply this
      simp only [Prod.mk.injEq, true_and]; omega
  obtain ⟨h1, h2⟩ := key (bs.length / 64 + 2) a bs.length d h (le_refl a) (by omega)
  refine ⟨h1, h2.trans ⟨rfl, fun r => rfl, fun q => Sys.charge_inForce _ _ _ _⟩⟩

theorem Dev.syncRing_spec {d : Dev} (h : d.mem.Coherent) {r : Nat} (hr : r < 64) :
    (d.syncRing r).mem.Coherent ∧ d.sys.RingsAlike (d.syncRing r).sys
      ∧ ∀ st L, ¬d.PageByte st L → (d.syncRing r).mem.byteAt st L = d.mem.byteAt st L := by
  unfold Dev.syncRing
  simp only
  split_ifs with hc
  swap
  · exact ⟨h, Sys.RingsAlike.refl _, fun _ _ _ => rfl⟩
  simp only [Bool.and_eq_true] at hc
  generalize hbs : natLe 8 _ ++ natLe 8 _ ++ natLe 1 _ ++ natLe 1 _ = bs
  have hlen : bs.length = 18 := by subst hbs; simp
  generalize hd1 : ({ d with sys := d.sys.onRing r _ } : Dev) = d1
  have ha : d.sys.RingsAlike d1.sys := by
    subst hd1
    refine ⟨rfl, fun q => ?_, fun q => rfl⟩
    simp only [Sys.ring, Sys.onRing, Sys.onHost, modNth_getD]
    split_ifs <;> rfl
  have hm : d1.mem = d.mem := by subst hd1; rfl
  have hco : d1.mem.Coherent := by rw [hm]; exact h
  obtain ⟨h1, h2⟩ := Dev.writeRange_outside hco (d.sys.ringPart r) (ringAddr (d.sys.ringRec r) + 24) bs
  refine ⟨Dev.writeRange_coherent hco _ _ _, ha.trans h2, fun st L hn => ?_⟩
  rw [h1 st L, hm]
  intro j hj he
  rw [hlen] at hj
  refine hn ⟨r, hr, 24 + j, by omega, by omega, hc.1.1, ?_⟩
  rw [← ha.locate, ← he]; congr 1; omega

/-- What bringing the doorbell pages up to date does: it changes bytes of the pages alone. -/
theorem Dev.syncRings_spec {d : Dev} (h : d.mem.Coherent) :
    d.syncRings.mem.Coherent ∧ d.sys.RingsAlike d.syncRings.sys
      ∧ ∀ st L, ¬d.PageByte st L → d.syncRings.mem.byteAt st L = d.mem.byteAt st L := by
  refine runAll_mem (P := fun d' : Dev => d'.mem.Coherent ∧ d.sys.RingsAlike d'.sys
      ∧ ∀ st L, ¬d.PageByte st L → d'.mem.byteAt st L = d.mem.byteAt st L) ?_ ⟨h, Sys.RingsAlike.refl _, fun _ _ _ => rfl⟩
  rintro r hr d' ⟨h1, h2, h3⟩
  obtain ⟨i1, i2, i3⟩ := Dev.syncRing_spec h1 (List.mem_range.1 hr)
  refine ⟨i1, h2.trans i2, fun st L hn => ?_⟩
  rw [i3 st L (by rw [h2.pageByte]; exact hn), h3 st L hn]

end Sys2Proof.Machine
end

