-- ==== Sys2Proof/WellFormed.lean ====
section
/-! DEFINITION. Well-formed commands: every operand lies in the range the spec gives its field. Each check has a name, so
that a test can show an ill-formed term which that check refuses. A command may well be well formed and still not be
enabled; `exec` has a meaning for every command, and the checks only say which operands the hardware could present. -/

namespace Sys2Proof

/-- A number below `2 ^ n`. -/
def fits (n x : Nat) : Bool := decide (x < 2 ^ n)

/-- A group's place: 144 logical cores, four quarters, twelve group slots (R35, R170, R171). -/
def Gid.wf (g : Gid) : Bool := decide (g.core < 144) && decide (g.quarter < 4) && decide (g.slot < 12)

/-- Partitions, rings, queue pairs, stacks and ports are numbered from 0 (R35). -/
def stackOk (n : Nat) : Bool := decide (n < 8)
def portOk (n : Nat) : Bool := decide (n < 16)
def partOk (n : Nat) : Bool := decide (n < 16)
def ringOk (n : Nat) : Bool := decide (n < 64)
def ethOk (n : Nat) : Bool := decide (n < 2)
def coreOk (n : Nat) : Bool := decide (n < 144)
def siteOk (n : Nat) : Bool := decide (n < 160)
def qpOk (n : Nat) : Bool := decide (n < 4096)
def priorityOk (n : Nat) : Bool := decide (n < 8)
/-- SLOT_ID has six lines and BOOT_MODE two (Table 2-1). -/
def strapsOk (slotId bootMode : Nat) : Bool := fits 6 slotId && fits 2 bootMode
/-- Photonic engines PE0 to PE5 (R17). -/
def engineOk (n : Nat) : Bool := decide (n < 6)
/-- ECC finds a line sound (0), corrects it (1) or does not (2). -/
def eccOk (n : Nat) : Bool := decide (n < 3)

/-- An IPv4 address has 32 bits, an IPv6 address 16 bytes. -/
def IpAddr.wf : IpAddr → Bool
  | .v4 a => fits 32 a
  | .v6 b => decide (b.length = 16)

/-- An ODP frame's fields have their widths, and its payload its length (Tables 4-7 and 4-8). -/
def OdpReq.wf (r : OdpReq) : Bool :=
  decide (r.iface < 3) && fits 32 r.sid && fits 16 r.sport && fits 32 r.seq && fits 16 r.index && fits 8 r.sub && fits 8 r.ty
    && decide (r.data.length ≤ 1040) && decide (r.bad < 3) && r.dst.wf && fits 16 r.dport && fits 16 r.flags && decide (r.tag.length = 16)
    && (match r.block with
        | none => true
        | some (off, total) => fits 32 off && fits 32 total)

/-- An OPEN payload: 32-byte nonce, 56-byte X448 key, and with key slot 0xFF the 57-byte Ed448 key (Table 4-8). -/
def OpenReq.wf (o : OpenReq) : Bool :=
  decide (o.iface < 3) && fits 16 o.sport && fits 8 o.role && fits 8 o.keySlot && decide (o.nonce.length = 32)
    && decide (o.x448.length = 56) && decide (o.claimKey.length = if o.keySlot = 255 then 57 else 0)
    && o.dst.wf && fits 16 o.dport

/-- A PROVE payload: a 114-byte signature (Table 4-8). -/
def ProveReq.wf (p : ProveReq) : Bool :=
  decide (p.iface < 3) && fits 32 p.sid && fits 16 p.sport && fits 32 p.seq && decide (p.sig.length = 114)
    && p.dst.wf && fits 16 p.dport && fits 16 p.flags && decide (p.tag.length = 16)

/-- The fifteen temperatures of 0x2020 (R50). -/
def PowerReading.wf (r : PowerReading) : Bool := decide (r.temps.length = 15)

def FwReading.wf (r : FwReading) : Bool := decide (r.puf < 3) && decide (r.recordFault < 3)

/-- One bit per slice. -/
def UncoreReading.wf (r : UncoreReading) : Bool := fits 8 r.sliceFail && fits 8 r.uncoreUnit

/-- Sixteen grid rows of ten sites, each with a result of Table 3-3 (R19, R103). -/
def rowWf (row : Nat) (results : List SiteReading) : Bool :=
  decide (row < 16) && decide (results.length = 10) && results.all (fun r => fits 8 r.result)

/-- The fields of a packet header have their widths, and the payload fits its length field (Table 13-4). -/
def Pkt.wf (p : Pkt) : Bool :=
  fits 8 p.kind && fits 8 p.flags && fits 8 p.status && fits 4 p.op && fits 3 p.ty && fits 17 p.dst && fits 17 p.src
    && fits 4 p.part && fits 32 p.seq && fits 32 p.key && fits 16 p.window && decide (p.len ≤ 4096) && fits 40 p.offset
    && decide (p.payload.length ≤ 4096)

/-- A credit return: VC, lane and a count of flits (Table 12-5). -/
def CreditRet.wf (c : CreditRet) : Bool := fits 4 c.vc && fits 1 c.lane && fits 9 c.flits

/-- The fields of a flit header have their widths, and the payload its 240 bytes (Tables 12-4 and 12-5). -/
def Flit.wf (f : Flit) : Bool :=
  fits 4 f.ty && fits 4 f.vc && fits 1 f.lane && fits 12 f.seq && fits 12 f.ackSeq && f.credit0.wf && f.credit1.wf
    && decide (f.payload.length = 240)

/-- What TRAIN flits carry (Table 12-6). -/
def TrainFar.wf (t : TrainFar) : Bool := fits 32 t.incarnation && fits 8 t.mask && fits 12 t.lastSeq

/-- A hello payload's fields (Table 14-5). -/
def Hello.wf (h : Hello) : Bool :=
  fits 8 h.version && fits 8 h.port && fits 8 h.role && decide (h.serial.length = 16) && fits 32 h.fabricWord
    && fits 32 h.incarnation && fits 32 h.plan

/-- A polled member answers for its sixteen ports (R525). -/
def PollAnswer.wf (a : PollAnswer) : Bool :=
  decide (a.serial.length = 16) && fits 32 a.fabricWord && decide (a.ports.length = 16)
    && a.failed.all (fun f => coreOk f.1)

/-- What a frame carries to an address. -/
def FrameNet.wf : FrameNet → Bool
  | .ask a | .echo a | .udp a => a.wf
  | .other => true
def FrameIn.wf (f : FrameIn) : Bool := fits 12 f.vlan && decide (f.dest < 3) && priorityOk f.priority && f.net.wf

/-- A detected fault names a unit by its code and where it struck (Table 18-1). -/
def FaultIn.wf (f : FaultIn) : Bool :=
  fits 8 f.unit && (match f.part with
    | none => true
    | some p => partOk p) && (match f.ring with
    | none => true
    | some r => ringOk r) && (match f.group with
    | none => true
    | some g => g.wf)

/-- Every operand of a command lies in the range the spec gives it. -/
def Instr.wf : Instr → Bool
  | .vin48Start _ | .vin48UndervoltageStop _ | .vin48OvervoltageStop _ | .vin48OvervoltageClear _ => true
  | .managementRailUp slotId bootMode | .resetNRise slotId bootMode => strapsOk slotId bootMode
  | .alwaysOnRailsUp | .refclkValid | .refclkLate | .raiseWindowEnd | .stackTrainTimeout | .linkTrainDeadline
  | .coreAssignCommit | .ownerVoteReceive | .blockVoteReceive | .decisionReceive | .spliceTrainingTimeout
  | .eventRecordWrite | .doorbellPoll | .mgmtStop | .tapIdcode => true
  | .resetNLow _ => true
  | .powerSample r => r.wf
  | .thermalTrip sensor _ => decide (sensor < 15)
  | .laserLineLoss engine line _ | .laserLineRestored engine line _ => engineOk engine && decide (line < 8)
  | .laserHoldExpiry engine => engineOk engine
  | .fwVerifyDone r => r.wf
  | .clockStartDone r => r.wf
  | .stackTrained stack _ | .stackTrainStepFailed stack _ => stackOk stack
  | .coreTestRow row results => rowWf row results
  | .powerWave wave => decide (wave < 16)
  | .odpDatagramDiscard iface => decide (iface < 3)
  | .odpOpen o => o.wf
  | .odpProve p => p.wf
  | .deviceReset req | .holdRelease req | .odpClose req | .odpRead req | .odpWrite req | .odpReadBlock req | .odpWriteBlock req
  | .coupledMemberWrite req | .groupCommit req | .groupDiscard req | .expertUnlock req | .roleKeyWrite req | .resolve req
  | .epochLoad req | .portAccept req | .portEnableWrite req | .windowSet req | .replayAreaWrite req | .multicastSet req
  | .circuitAcknowledge req | .partitionReset req | .clearSets req | .thresholdWrite req | .qpRecordWrite req
  | .coreQuarantine req | .remapCancel req | .remapSpare req | .remapAbsent req | .remapRetest req | .imageWrite req
  | .activate req | .floorCommit req | .attestationNonce req | .seal req | .unseal req => req.wf
  | .sampleNow req _ | .unlockToken req _ => req.wf
  | .sessionIdleTimeout slot => decide (slot < 16)
  | .journalRecordValid _ | .journalCompaction _ => true
  | .launch ring _ | .gemvList ring _ | .decodeOpen ring _ | .decodeClose ring _ | .copyLocal ring _ | .copyScalePass ring _
  | .copyFabric ring _ | .copyHostWrite ring _ | .copyHostRead ring _ | .updateStep ring _ | .updatePublish ring _
  | .updateStart ring _ | .collective ring _ | .collectiveStart ring _ | .fenceRing ring _ | .fencePartition ring _
  | .eventSignal ring _ | .eventWait ring _ => ringOk ring
  | .killComplete ring | .doorbellNotice ring | .commandRead ring | .commandStart ring | .eventWaitSample ring
  | .completionRecordWrite ring => ringOk ring
  | .blockPlace _ core slots => coreOk core && slots.all (fun n => decide (n < 48))
  | .blockEnd _ | .dmaCopyComplete _ | .sliceStoreAccept _ | .ctrlResend _ | .packetRoute _ | .resendDelayExpiry _
  | .fabricTimeout _ => true
  | .operandRead core quarter | .resultWriteback core quarter => coreOk core && decide (quarter < 4)
  | .laneDispatch g | .add g | .sub g | .mul g | .mulhi g | .mad g | .fma g | .min g | .max g | .and g | .or g | .xor g | .not g
  | .shl g | .shr g | .popc g | .clz g | .abs g | .neg g | .rcp g | .sqrt g | .div g | .ex2 g | .lg2 g | .sin g | .cos g | .cvt g
  | .setp g | .selp g | .plog g | .mov g | .movhi g | .rdsr g | .vote g | .shfl g | .ldC g | .stC g | .ldG g | .stG g | .bra g
  | .call g | .ret g | .exit g | .nop g | .dmaCs g | .arrWait g | .mxaIssue g | .mxaDrain g | .mxaWait g | .fenceGrp g
  | .fenceBlk g | .fenceDev g | .fenceSys g | .blkJoin g | .atomG g | .atomC g | .progressStalled g | .dqPush g | .dqTake g
  | .fabGet g | .fabPut g | .fabMput g | .fabRed g | .fabAtom g | .fabPutFlag g | .fabFence g => g.wf
  | .mxaOperationComplete core | .mxaDrainComplete core => coreOk core
  | .sliceMissFill stack line ecc => stackOk stack && fits 30 line && eccOk ecc
  | .scrubLine stack ecc => stackOk stack && eccOk ecc
  | .kettleDescriptorStart _ | .gemvDescriptorComplete _ | .scalePassDescriptorComplete _ | .updateDescriptorComplete _
  | .rootAttempt _ => true
  | .kettleTurnEnd stack engine => stackOk stack && decide (engine < 4)
  | .targetRed stack | .targetAtom stack => stackOk stack
  | .pushAccept queue | .batchBudgetExpiry queue | .takeClaim queue | .takeHeaderWrite queue _ => decide (queue < 16)
  | .voteBudgetExpiry slot | .coordinatorBudgetExpiry slot | .epochInDoubt slot | .publishComplete slot
  | .stragglerBudgetExpiry slot | .collectiveStalled slot | .collectiveComplete slot => decide (slot < 8)
  | .segmentSend slot _ => decide (slot < 8)
  | .ctrlPacket p | .getPacket p | .putPacket p | .mputPacket p | .redPacket p | .atomPacket p | .flagPacket p
  | .combinedPacket p | .dataReply p | .ackReply p | .resultReply p | .nakReply p | .segmentIngress p
  | .allGatherSegment p => p.wf
  | .lockComplete port mask | .alignComplete port mask => portOk port && fits 8 mask
  | .negotiateComplete port far => portOk port && far.wf
  | .verifyWindowEnd port failMask _ => portOk port && fits 8 failMask
  | .trainingStateTimeout port | .flitTransmit port | .linkReplayTimeout port | .signalLost port
  | .helloSend port => portOk port
  | .dataFlitReceive port f _ crc | .nullFlitReceive port f _ crc => portOk port && f.wf && fits 32 crc
  | .trainFlitReceive rx => portOk rx.port && rx.flit.wf && fits 32 rx.crc
  | .portDegraded port _ => portOk port
  | .helloReceive port h => portOk port && h.wf
  | .blockManagerPoll member answer => decide (member < 68) && (match answer with
    | none => true
    | some a => a.wf)
  | .partitionResetApply part | .eventRingPoll part => partOk part
  | .ethPortState port _ => ethOk port
  | .frameReceive port f => decide (port < 3) && f.wf
  | .pfcPauseReceive port priority quanta => ethOk port && priorityOk priority && fits 16 quanta
  | .pfcXoffRepeat port priority => ethOk port && priorityOk priority
  | .cnpReceive qp | .rateIncrease qp | .invalidRequest qp | .rdmaRetransmitTimeout qp => qpOk qp
  | .rdmaWriteReceive qp addr rkey data _ => qpOk qp && fits 64 addr && fits 32 rkey && fits 32 data.length
  | .rdmaReadRequest qp addr rkey len => qpOk qp && fits 64 addr && fits 32 rkey && fits 32 len
  | .sendReceive qp data => qpOk qp && fits 32 data.length
  | .rdmaResponseReceive qp _ _ => qpOk qp
  | .maskedFault unit _ _ | .maskedSummary unit => fits 8 unit
  | .detectedFault f => f.wf
  | .remapTestComplete core result => coreOk core && fits 8 result
  | .ageingSample _ => true
  | .tapBypass _ | .samplePreload _ _ | .tapExtest _ | .mgmtHalt _ => true
  | .mgmtMem _ addr data => fits 32 addr && fits 64 data
  | .siteScan site _ => siteOk site

end Sys2Proof
end

