-- ==== Sys2Proof/Tests/Slice0.lean ====
section
/-! SUPPORT. Tests: ill-formed terms that each check of WellFormed refuses, one step of commands with the results the spec gives, and for
each statement states and operands that meet its hypotheses. -/

namespace Sys2Proof.Tests

open Sys2Proof Sys2Proof.Machine

-- one proof at a time: a thread for each would take its stack
set_option Elab.async false

/-! ## Well-formed commands -/

def gid0 : Gid := ⟨0, 0, 0⟩
def req0 : OdpReq := ⟨0, 1, 5, 6, 1, 0x2010, 1, 5, natLe 4 900, none, 0, .v4 1, 7450, 0, zeros 16⟩
def pkt0 : Pkt := ⟨1, 0, 0, 0, 0, 1, 0, 0, 1, 0, 0, 64, 0, zeros 64⟩
def ret0 : CreditRet := ⟨0, 0, false, false, 0⟩
def flit0 : Flit := ⟨0, 0, false, false, 0, false, 0, 0, false, false, ret0, ret0, 0, zeros 240⟩
def hello0 : Hello := ⟨1, 0, 0, zeros 16, 0, 1, 0⟩
def fault0 : FaultIn := ⟨0, 0, 0, none, 0, 0, none, none, 0⟩

theorem test_wf_accepts : (Instr.add gid0).wf = true ∧ (Instr.odpWrite req0).wf = true ∧ (Instr.packetRoute 0).wf = true
    ∧ (Instr.getPacket pkt0).wf = true ∧ (Instr.dataFlitReceive 0 flit0 true 0).wf = true ∧ (Instr.helloReceive 0 hello0).wf = true
    ∧ (Instr.detectedFault fault0).wf = true := by decide +kernel
theorem test_wf_gid_core : (Instr.add ⟨144, 0, 0⟩).wf = false := by decide
theorem test_wf_gid_quarter : (Instr.add ⟨0, 4, 0⟩).wf = false := by decide
theorem test_wf_gid_slot : (Instr.add ⟨0, 0, 12⟩).wf = false := by decide
theorem test_wf_straps : (Instr.managementRailUp 64 0).wf = false ∧ (Instr.resetNRise 0 4).wf = false := by decide
theorem test_wf_temps : (Instr.powerSample ⟨48000, 1000, 48, []⟩).wf = false := by decide
theorem test_wf_sensor : (Instr.thermalTrip 15 0).wf = false := by decide
theorem test_wf_engine : (Instr.laserHoldExpiry 6).wf = false := by decide
theorem test_wf_fw : (Instr.fwVerifyDone ⟨3, 0, true⟩).wf = false := by decide
theorem test_wf_uncore : (Instr.clockStartDone ⟨256, 0, 0, 0⟩).wf = false := by decide
theorem test_wf_stack : (Instr.stackTrained 8 0).wf = false := by decide
theorem test_wf_row : (Instr.coreTestRow 16 (List.replicate 10 ⟨1, 0⟩)).wf = false ∧ (Instr.coreTestRow 0 []).wf = false := by decide
theorem test_wf_odp_type : (Instr.odpWrite { req0 with ty := 256 }).wf = false := by decide
theorem test_wf_odp_total : (Instr.odpWriteBlock { req0 with block := some (0, 2 ^ 32) }).wf = false := by decide
theorem test_wf_open : (Instr.odpOpen ⟨0, 5, 6, 0, 0, [], zeros 56, [], .v4 1, 7450⟩).wf = false := by decide
theorem test_wf_prove : (Instr.odpProve ⟨0, 1, 5, 6, 1, zeros 113, .v4 1, 7450, 0, zeros 16⟩).wf = false := by decide
theorem test_wf_odp_tag : (Instr.odpRead { req0 with tag := [] }).wf = false ∧ (Instr.odpRead { req0 with flags := 2 ^ 16 }).wf = false := by decide
theorem test_wf_address : (Instr.odpRead { req0 with dst := .v6 [] }).wf = false ∧ (Instr.odpRead { req0 with dst := .v4 (2 ^ 32) }).wf = false := by
  decide
theorem test_wf_session : (Instr.sessionIdleTimeout 16).wf = false := by decide
theorem test_wf_ring : (Instr.commandRead 64).wf = false := by decide
theorem test_wf_place : (Instr.blockPlace 0 0 [48]).wf = false ∧ (Instr.blockPlace 0 144 []).wf = false := by decide
theorem test_wf_ecc : (Instr.scrubLine 0 3).wf = false := by decide
theorem test_wf_turn : (Instr.kettleTurnEnd 0 4).wf = false := by decide
theorem test_wf_queue : (Instr.pushAccept 16).wf = false := by decide
theorem test_wf_slot : (Instr.publishComplete 8).wf = false := by decide
theorem test_wf_packet : (Instr.getPacket { pkt0 with len := 4097 }).wf = false ∧ (Instr.getPacket { pkt0 with dst := 2 ^ 17 }).wf = false := by
  decide +kernel
theorem test_wf_flit : (Instr.dataFlitReceive 0 { flit0 with payload := [] } true 0).wf = false := by decide
theorem test_wf_credit : (Instr.nullFlitReceive 0 { flit0 with credit0 := { ret0 with flits := 512 } } true 0).wf = false := by decide
theorem test_wf_port : (Instr.flitTransmit 16).wf = false := by decide
theorem test_wf_train : (Instr.negotiateComplete 0 ⟨2 ^ 32, 0, 0, true, 0⟩).wf = false := by decide
theorem test_wf_hello : (Instr.helloReceive 0 { hello0 with serial := [] }).wf = false := by decide
theorem test_wf_poll : (Instr.blockManagerPoll 68 none).wf = false ∧ (Instr.blockManagerPoll 0 (some ⟨zeros 16, 0, 0, [], []⟩)).wf = false := by
  decide
theorem test_wf_partition : (Instr.partitionResetApply 16).wf = false := by decide
theorem test_wf_ethernet : (Instr.ethPortState 2 true).wf = false ∧ (Instr.frameReceive 0 ⟨true, 64, 4096, 0, true, 0, .other⟩).wf = false := by decide
theorem test_wf_priority : (Instr.pfcXoffRepeat 0 8).wf = false := by decide
theorem test_wf_qp : (Instr.cnpReceive 4096).wf = false := by decide
theorem test_wf_fault : (Instr.detectedFault { fault0 with part := some 16 }).wf = false ∧ (Instr.detectedFault { fault0 with ring := some 64 }).wf = false
    ∧ (Instr.detectedFault { fault0 with group := some ⟨144, 0, 0⟩ }).wf = false := by decide
theorem test_wf_site : (Instr.siteScan 160 0).wf = false := by decide
theorem test_wf_mem_addr : (Instr.mgmtMem true (2 ^ 32) 0).wf = false := by decide

/-- No row of the table gives bits, so no word spells a command. -/
theorem test_decode_none (n w : Nat) : decodeTableWord n w = none ∧ ∀ s : State, s.withFetchWord n w = s := ⟨rfl, fun _ => rfl⟩

/-! ## States the witnesses start from -/

/-- The rails are up and REFCLK is valid; bring-up stands in phase `ph`. -/
def inPhaseState (ph : Nat) : State := { State.reset with
  dev.sys.mgmt.power := { PowerState.reset with
    stages := true, mgmtRail := true, rails := true, pgood := true, refclk := true }
  dev.sys.mgmt.bring.phase := ph }

/-- The entry of a partition that is enabled with 2 rings, 4 queue pairs, core 0 and core 1 and no event ring (Table 16-2). -/
def entry0 : List Byte := natLe 1 1 ++ natLe 1 2 ++ natLe 2 4 ++ natLe 2 64 ++ zeros 2 ++ natLe 8 3 ++ zeros 48

/-- A READY device: every stack trained, partition 0 enabled, its entries 0 and 1 naming chunks 0 of stacks 0 and 1, valid and writable. -/
def up : State := { inPhaseState 8 with
  dev.mem.dram := List.replicate 8 { Stack.reset with trained := true }
  dev.sys.host.parts := setNth (List.replicate 16 Partition.reset) 0
    { Partition.reset with inForce := ⟨entry0, [(0, 3 + 1024 * 2 ^ 30), (1, 3 + 1088 * 2 ^ 30)]⟩ } }

theorem test_up : up.dev.sys.ready = true ∧ up.dev.sys.mgmtUp = true ∧ up.dev.sys.partEnabled 0 = true ∧ up.dev.mem.wf = true
    ∧ up.dev.rangeOk 0 0 4096 true = true ∧ up.dev.rangeOk 0 (2 ^ 30) 64 true = true ∧ up.dev.rangeOk 0 (2 ^ 31) 1 false = false
    ∧ up.dev.locate 0 100 = (0, 100) ∧ up.dev.locate 0 (2 ^ 30 + 5) = (1, 5) := by decide +kernel

/-- Memory with nothing in its slices and canonical cells is coherent. -/
theorem coherent_of_cold {m : Mem} (hw : m.wf = true) (h8 : m.dram.length = 8) (hs : m.slices = List.replicate 8 Slice.reset) :
    m.Coherent := by
  refine ⟨hw, h8, by rw [hs]; rfl, fun st l hl _ => ?_⟩
  have : m.slice st = Slice.reset := by
    simp only [Mem.slice, hs, List.getD_eq_getElem?_getD, List.getElem?_replicate]
    split_ifs <;> rfl
  rw [this] at hl
  simp [Slice.reset] at hl

/-- No line is poisoned where no stack and no slice holds poison. -/
theorem clean_of_sound {d : Dev} (p a n : Nat) (h : ∀ t ∈ d.mem.dram, t.poisoned = [])
    (hs : ∀ c ∈ d.mem.slices, ∀ l ∈ c.lines, l.poison = false) : d.CleanRange p a n := by
  intro j _ st L _
  have h1 : (d.mem.stack st).isPoisoned (L / 64) = false := by
    have := (forall_getD_iff d.mem.dram Stack.reset (fun t => t.poisoned = []) rfl).1 h st
    simp only [Stack.isPoisoned, Mem.stack] at this ⊢
    rw [this]; rfl
  refine ⟨h1, ?_⟩
  simp only [Mem.lineOf]
  split
  · rename_i l hl
    have := (forall_getD_iff d.mem.slices Slice.reset (fun c => ∀ l ∈ c.lines, l.poison = false) (by simp [Slice.reset])).1 hs st
    exact this l (Slice.find_mem hl).1
  · exact h1

theorem up_coherent : up.dev.mem.Coherent := coherent_of_cold (by decide +kernel) rfl rfl
theorem up_clean (p a n : Nat) : up.dev.CleanRange p a n := clean_of_sound p a n (by decide +kernel) (by decide +kernel)

/-! ## Power, pins, bring-up -/

/-- A step of a command answers a next state of which `P` holds. -/
def Gives (c : Instr) (s : State) (P : State → Prop) : Prop := ∃ t, exec c s = .next t ∧ P t

theorem Gives.of {c : Instr} {s : State} {P : State → Prop} (t : State) (h : exec c s = .next t) (hp : P t) : Gives c s P := ⟨t, h, hp⟩

theorem wit_StagesFollowVin48 :
    (State.reset.dev.sys.mgmt.power.stages = false ∧ State.reset.dev.sys.mgmt.power.overvolt = false ∧ 42000 ≤ 42000 ∧ 42000 ≤ 58000)
    ∧ 41999 < 42000 ∧ (up.dev.sys.mgmt.power.stages = true ∧ 40000 ≤ 40000) ∧ 40000 < 40001 := by decide

/-- The stages stopped by an overvoltage. -/
def overState : State := { State.reset with dev.sys.mgmt.power.overvolt := true }

theorem wit_OvervoltageStopsAndRestarts :
    (up.dev.sys.mgmt.power.stages = true ∧ 58000 < 58001 ∧ 60000 ≤ 60000) ∧ 60000 < 60001
    ∧ (overState.dev.sys.mgmt.power.overvolt = true ∧ 40000 < 56999 ∧ 56999 < 57000) ∧ 57000 ≤ 57000 := by decide

/-- The management rail is up and the always-on rails are not. -/
def mgmtState : State := { State.reset with dev.sys.mgmt.power := { PowerState.reset with stages := true, mgmtRail := true } }
/-- The stages run and no rail is up. -/
def stagesState : State := { State.reset with dev.sys.mgmt.power.stages := true }
/-- RESET_N is held low. -/
def lowState : State := { up with dev.sys.mgmt.power.resetLow := true }

theorem wit_RailsStartBringUp :
    (stagesState.dev.sys.mgmt.power.stages = true ∧ stagesState.dev.sys.mgmt.power.mgmtRail = false)
    ∧ (mgmtState.dev.sys.mgmt.power.mgmtRail = true ∧ mgmtState.dev.sys.mgmt.power.rails = false
      ∧ mgmtState.dev.sys.mgmt.power.resetLow = false)
    ∧ ({ mgmtState with dev.sys.mgmt.power.resetLow := true } : State).dev.sys.mgmt.power.rails = false := by decide

theorem wit_ResetPinRestarts :
    (10000 ≤ 10000 ∧ up.dev.sys.mgmt.power.resetLow = false ∧ up.dev.sys.mgmt.power.mgmtRail = true) ∧ 999 < 1000
    ∧ (lowState.dev.sys.mgmt.power.resetLow = true ∧ lowState.dev.sys.mgmt.power.mgmtRail = true
      ∧ lowState.dev.sys.mgmt.power.rails = true) := by decide

theorem wit_ReferenceClockWait :
    let s : State := { inPhaseState 2 with dev.sys.mgmt.power.refclk := false }
    s.dev.sys.mgmtUp = true ∧ s.dev.sys.mgmt.power.pgood = true ∧ s.dev.sys.mgmt.power.refclk = false
      ∧ s.dev.sys.mgmt.bring.discs.length < 256 ∧ ∀ x ∈ s.dev.sys.mgmt.bring.discs, x.kind ≠ 4 := by decide

/-- A READY device whose raise window has all its samples. -/
def fullWindow : State := { up with dev.sys.mgmt.power := { up.dev.sys.mgmt.power with samples := 25000, windowDue := true } }

theorem wit_PowerSampleLowersSteps : up.dev.sys.loopsRun = true ∧ up.dev.sys.mgmt.power.windowDue = false
    ∧ (⟨48000, 20000, 960, List.replicate 15 0x42C80000⟩ : PowerReading).temps.length = 15 := by decide +kernel

theorem wit_RaiseWindowRaisesSteps : fullWindow.dev.sys.loopsRun = true ∧ fullWindow.dev.sys.mgmt.power.windowDue = true
    ∧ fullWindow.dev.sys.mgmt.power.samples ≠ 0 := by decide +kernel

/-- A READY device whose lasers are at their levels and held. -/
def litState : State := { up with
  dev.sys.mgmt.power := { up.dev.sys.mgmt.power with lineUp := List.replicate 6 255, laserHeld := List.replicate 6 true } }

theorem wit_TripAndLaserLevels :
    litState.dev.sys.mgmt.power.mgmtRail = true ∧ (14 < 15 ∧ f32At 0x42E60000 115 = true)
    ∧ (5 < 6 ∧ 0 < engineLines 5 ∧ laserMin - 1 < laserMin ∧ litState.dev.sys.mgmt.power.lit 5 = true
      ∧ litState.dev.sys.mgmt.power.laserHeld.length = 6 ∧ litState.dev.sys.mgmt.power.laserLoss.length = 6)
    ∧ (laserMin ≤ laserMin ∧ litState.dev.sys.mgmt.power.lineUp.length = 6) := by decide +kernel

/-- R57: at 100 °C the thermal step falls by one. -/
theorem test_power_sample_hot : Gives (.powerSample ⟨48000, 10000, 480, List.replicate 15 0x42C80000⟩) up
    (fun t => t.dev.sys.mgmt.power.thermStep = 31 ∧ t.dev.sys.mgmt.power.capStep = 32 ∧ t.dev.sys.mgmt.power.cool = false) :=
  .of _ rfl (by decide +kernel)

/-- Both firmware images fail step 1. -/
def badImages : State := { inPhaseState 1 with dev.sys.mgmt.sec.images := List.replicate 2 { ImageSlot.factory with contentStep := 1 } }

theorem wit_FirmwareVerifyEnds :
    (inPhaseState 1).dev.sys.inPhase 1 = true ∧ ((inPhaseState 1).dev.sys.image 0).failStep 1 = 0
    ∧ (inPhaseState 1).dev.sys.mgmt.sec.mfgFloor = 1 ∧ (inPhaseState 1).dev.sys.mgmt.dict.store = []
    ∧ badImages.dev.sys.inPhase 1 = true ∧ ∀ k : Nat, k < 2 → (badImages.dev.sys.image k).failStep 1 ≠ 0 := by
  refine ⟨by decide +kernel, by decide +kernel, rfl, rfl, by decide +kernel, fun k hk => ?_⟩
  revert hk; revert k; decide +kernel

theorem wit_ClockStartEnds :
    ((inPhaseState 2).dev.sys.inPhase 2 = true ∧ (inPhaseState 2).dev.sys.mgmt.power.refclk = true
      ∧ (inPhaseState 2).dev.sys.mgmt.bring.stackDone.length = 8 ∧ (inPhaseState 2).dev.sys.mgmt.bring.stackReason.length = 8)
    ∧ (⟨0, 0, 3, 0⟩ : UncoreReading).uncoreUnit ≠ 0 ∧ (⟨255, 0, 0, 0⟩ : UncoreReading).uncoreUnit = 0
    ∧ (∀ st < 8, bit (⟨255, 0, 0, 0⟩ : UncoreReading).sliceFail st = true)
    ∧ ({ inPhaseState 2 with dev.sys.mgmt.power.bootMode := 1 } : State).dev.sys.mgmt.power.bootMode % 2 = 1
    ∧ ((inPhaseState 2).dev.sys.mgmt.power.bootMode % 2 = 0 ∧ (inPhaseState 2).dev.sys.mgmt.bring.stackReason = rep0 8
      ∧ (inPhaseState 2).dev.sys.mgmt.bring.stackDone.getD 7 true = false) := by decide +kernel

/-- STACK_TRAIN with only stack 7 still to come. -/
def lastStack : State := { inPhaseState 3 with dev.sys.mgmt.bring.stackDone := List.replicate 7 true ++ [false] }

theorem wit_StackTrainingOutcomes :
    (let s := inPhaseState 3
     s.dev.sys.inPhase 3 = true ∧ 7 < 8 ∧ s.dev.sys.mgmt.bring.stackDone.length = 8 ∧ s.dev.sys.mgmt.bring.stackReason.length = 8
      ∧ s.dev.sys.mgmt.bring.stackDone.getD 7 true = false ∧ s.dev.mem.dram.length = 8 ∧ s.dev.mem.slices.length = 8
      ∧ (∃ j < 8, j ≠ 7 ∧ s.dev.sys.mgmt.bring.stackDone.getD j true = false) ∧ [1, 2, 3, 4, 6].contains 6 = true)
    ∧ lastStack.dev.sys.inPhase 3 = true ∧ lastStack.dev.sys.mgmt.bring.stackDone.getD 7 true = false
    ∧ (∀ j < 8, lastStack.dev.sys.mgmt.bring.stackDone.getD j true = false → j = 7) := by decide +kernel

theorem wit_LinkTrainDeadlineEnds : (inPhaseState 4).dev.sys.inPhase 4 = true := by decide

theorem wit_RowsTestedAndPowered :
    ((inPhaseState 5).dev.sys.inPhase 5 = true ∧ (inPhaseState 5).dev.sys.mgmt.bring.rowsTested = 0
      ∧ (∀ x ∈ List.replicate 10 (⟨5, 0⟩ : SiteReading), 1 ≤ x.result ∧ x.result ≤ 5)
      ∧ (inPhaseState 5).dev.sys.mgmt.bring.results.length = 160)
    ∧ ((inPhaseState 6).dev.sys.inPhase 6 = true
      ∧ ({ inPhaseState 6 with dev.sys.mgmt.bring.wavesDone := 15 } : State).dev.sys.mgmt.bring.wavesDone = 15
      ∧ ({ inPhaseState 5 with dev.sys.mgmt.bring.rowsTested := 15 } : State).dev.sys.mgmt.bring.rowsTested = 15) := by decide +kernel

theorem wit_AssignmentCommitted : (inPhaseState 7).dev.sys.inPhase 7 = true ∧ (inPhaseState 7).dev.sys.mgmt.bring.resetWritten = false
    ∧ ({ inPhaseState 7 with dev.sys.mgmt.bring.resetWritten := true } : State).dev.sys.inPhase 7 = true := by decide

/-- R103: a good site keeps its result. -/
theorem test_core_test_row : Gives (.coreTestRow 0 (List.replicate 10 ⟨2, 0⟩)) (inPhaseState 5)
    (fun t => nth t.dev.sys.mgmt.bring.results 9 = 2 ∧ nth t.dev.sys.mgmt.bring.results 10 = 0) := .of _ rfl (by decide +kernel)

/-- R96: training leaves a stack of zeros. -/
theorem test_stack_trained : Gives (.stackTrained 2 0) (inPhaseState 3)
    (fun t => (t.dev.mem.stack 2).trained = true ∧ (t.dev.mem.stack 1).trained = false) := .of _ rfl (by decide +kernel)

/-- Table 3-1: READY follows the assignment's commit. -/
theorem test_ready : Gives .coreAssignCommit (inPhaseState 7) (fun t => t.dev.sys.ready = true ∧ t.dev.sys.core.cycles = 0) :=
  .of _ rfl (by decide +kernel)

theorem wit_invariants : State.reset.dev.mem.Coherent ∧ State.reset.dev.sys.core.Ok ∧ State.reset.dev.sys.mgmt.power.StepsOk
    ∧ State.reset.dev.sys.mgmt.sec.debugOpen = false ∧ step State.reset = .next (idle State.reset) :=
  ⟨Mem.reset_coherent, ⟨List.nodup_nil, nofun, nofun, nofun, nofun, nofun, List.Pairwise.nil, nofun⟩, by refine ⟨?_, ?_, ?_, ?_⟩ <;> decide, rfl, rfl⟩

theorem wit_Sized : State.reset.dev.sys.Sized :=
  ⟨rfl, rfl, rfl, rfl, rfl, rfl, rfl, rfl, rfl, rfl, rfl, by decide +kernel, rfl, rfl, rfl, nofun, rfl, rfl, rfl, rfl, rfl, rfl, rfl, rfl⟩

/-! ## Sessions, reads and writes -/

/-- The device of `up` with Ethernet port 0 up and an unlocked session of expert role in slot 0. -/
def sess : State := { up with
  dev.sys.host.eth := [{ EthPort.reset with up := true }, EthPort.reset]
  dev.sys.mgmt.dict.sessions := setNth (List.replicate 16 Session.free) 0
    { Session.free with phase := 2, sid := 7, role := 3, src := 5, sport := 6, unlocked := true }
  dev.sys.mgmt.dict.values := [(0x9001 * 256 + 1, natLe 4 0x0A000001), (0xF020 * 256 + 1, natLe 1 2 ++ zeros 57)]
  dev.sys.fab.epochs := [{ Epoch.reset with state := 2, target := 5, committed := 4 }] ++ List.replicate 7 Epoch.reset
  dev.sys.fab.ports := [{ Port.reset with state := 3 }] ++ List.replicate 15 Port.reset
  dev.sys.fab.circuits := [⟨9, 1, 0, 0, 0, 0, 1, 0⟩]
  dev.sys.mgmt.bring.coreMap := [3, 4] ++ List.replicate 142 65535
  dev.sys.mgmt.bring.spares := [150]
  dev.sys.mgmt.bring.runningImage := 0
  dev.sys.core.failed := [1]
  dev.sys.mgmt.rel.remaps := [(2, ⟨1, 1, 150, 0, 65535, true⟩)] }

/-- A request of opcode `op` with the tag of that session's key. -/
def tagged (op : Nat) (r : OdpReq) : OdpReq := { r with tag := reqTag [] r op }

/-- The next request of that session, about an object. -/
def req (i sub ty : Nat) (data : List Byte) : OdpReq := ⟨0, 7, 5, 6, 1, i, sub, ty, data, none, 0, .v4 0x0A000001, 7450, 0, []⟩

/-- Its write of `data` to an object. -/
def rq (i sub ty : Nat) (data : List Byte) : OdpReq := tagged 0x11 (req i sub ty data)

theorem takes_of {d : Dev} {r : OdpReq} {k op : Nat} (ht : r.tag = reqTag (d.sys.session k).key r op)
    (h1 : d.sys.odpTakes r.iface r.dst r.dport = true ∧ d.sys.mgmt.dict.jpending = none
      ∧ d.sys.sessionOf 2 r.iface r.sid r.src r.sport = some k
      ∧ r.seq = ((d.sys.session k).lastSeq + 1) % 2 ^ 32 ∧ r.bad = 0) : d.Takes r k op :=
  ⟨⟨h1.1, h1.2.1⟩, h1.2.2.1, ht, h1.2.2.2⟩

/-- A write in one request that every check accepts. -/
theorem accepts_of {d : Dev} {w : WriteRow} {r : OdpReq} {k : Nat} (h0 : r.block = none)
    (ht : r.tag = reqTag (d.sys.session k).key r 0x11)
    (h1 : d.sys.odpTakes r.iface r.dst r.dport = true ∧ d.sys.mgmt.dict.jpending = none
      ∧ d.sys.sessionOf 2 r.iface r.sid r.src r.sport = some k
      ∧ r.seq = ((d.sys.session k).lastSeq + 1) % 2 ^ 32 ∧ r.bad = 0)
    (h2 : d.sys.rowFor r = w) (h3 : d.heard.writeAbort k r r.data = none) : d.Accepts w r k r.data :=
  ⟨by simpa [reqOp, h0] using takes_of ht h1, by simp only [Dev.Completes, h0], h2, by simp only [Sys.wholeData, h0],
    by simpa [Dev.settled, h0] using h3⟩

theorem wit_takes : sess.dev.Takes (rq 0x2010 1 4 (natLe 4 1000)) 0 0x11 := takes_of rfl (by decide +kernel)

/-- A request waits for its journal record, with nothing held behind it, or 64 datagrams. -/
def busyOdp (n : Nat) : State := { sess with
  dev.sys.mgmt.dict.jpending := some ⟨rq 0x2010 1 4 (natLe 4 1000), 0, [(0x201001, natLe 4 1000)], none⟩
  dev.sys.mgmt.dict.held := List.replicate n (.read (req 0x2010 1 0 [])) }

theorem wit_DatagramsWaitTheirTurn :
    (∃ j, (busyOdp 63).dev.sys.mgmt.dict.jpending = some j ∧ j.repeats (.read { req 0x2010 1 0 [] with seq := 2 }) = false)
    ∧ (busyOdp 63).dev.sys.odpTakes 0 (.v4 0x0A000001) 7450 = true ∧ (busyOdp 63).dev.sys.odpTakes 0 (.v4 0x0A000001) 7451 = false
    ∧ (busyOdp 63).dev.sys.mgmt.dict.held.length < 64 ∧ 64 ≤ (busyOdp 64).dev.sys.mgmt.dict.held.length :=
  ⟨⟨_, rfl, by decide +kernel⟩, by decide +kernel⟩

/-- The device of `sess` with every slot open. -/
def fullSess : State := { sess with dev.sys.mgmt.dict.sessions := List.replicate 16 { Session.free with phase := 2 } }
def open0 : OpenReq := ⟨0, 9, 9, 1, 0, zeros 32, zeros 56, [], .v4 0x0A000001, 7450⟩

theorem wit_OpenTakesASlot :
    (sess.dev.sys.mgmtUp = true ∧ 2 < 3) ∧ (fullSess.dev.sys.odpTakes 0 open0.dst open0.dport = true ∧ fullSess.dev.sys.mgmt.dict.jpending = none ∧ openLengths open0 = true
      ∧ ∀ k < 16, (fullSess.dev.sys.session k).phase ≠ 0)
    ∧ (sess.dev.sys.odpTakes 0 open0.dst open0.dport = true ∧ open0.keySlot ≠ 255 ∧ sess.dev.sys.mgmt.dict.sessions.length = 16
      ∧ (sess.dev.sys.session 1).phase = 0 ∧ ∀ j < 1, (sess.dev.sys.session j).phase ≠ 0) := by decide +kernel

/-- A challenge waits in slot 1 for a client that names key slot 0. -/
def challenged : State := { sess with
  dev.sys.mgmt.dict.sessions := setNth sess.dev.sys.mgmt.dict.sessions 1
    { Session.free with phase := 1, sid := 8, role := 2, src := 5, sport := 6 } }
def prove0 : ProveReq :=
  let p : ProveReq := ⟨0, 8, 5, 6, 1, zeros 114, .v4 0x0A000001, 7450, 0, []⟩
  { p with tag := proveTag [] p }

/-- The signature check is a function of Config without a body: where it passes the session opens, and with a role above the key's it
does not. -/
theorem wit_ProveOpensOrFrees :
    prove0.tag = proveTag (challenged.dev.sys.session 1).key prove0
    ∧ (challenged.dev.sys.odpTakes 0 prove0.dst prove0.dport = true ∧ challenged.dev.sys.mgmt.dict.sessions.length = 16
      ∧ challenged.dev.sys.sessionOf 1 0 8 5 6 = some 1 ∧ prove0.seq = 1)
    ∧ (challenged.dev.sys.roleKey (challenged.dev.sys.session 1).keySlot ≠ [] ∧ 1 ≤ (challenged.dev.sys.session 1).role
      ∧ (challenged.dev.sys.session 1).role ≤ field (challenged.dev.sys.roleKey (challenged.dev.sys.session 1).keySlot) 0 1)
    ∧ ({ challenged with dev.sys.mgmt.dict.values := [] } : State).dev.sys.roleKey 0 = [] := ⟨rfl, by decide +kernel⟩

theorem wit_SessionEndDiscardsSets : sess.dev.Takes (tagged 5 (req 0 0 0 [])) 0 5
    ∧ sess.dev.sys.mgmt.dict.sessions.length = 16 ∧ 0 < 16
    ∧ sess.dev.sys.mgmtUp = true ∧ (sess.dev.sys.session 0).phase ≠ 0 ∧ sess.dev.sys.mgmt.dict.jpending = none :=
  ⟨takes_of rfl (by decide +kernel), by decide +kernel⟩

/-- A read of Role plan, and a segment of a read of the thresholds, a DOMAIN of 3,072 bytes. -/
theorem wit_ReadsAnswerTheValue :
    sess.dev.Takes (tagged 0x10 (req 0x2010 1 0 [])) 0 0x10
    ∧ sess.dev.Takes (tagged 0x12 { req 0x5210 1 0 [] with block := some (0, 0) }) 0 0x12
    ∧ (sess.dev.heard.sys.readAbort 0x2010 1 = none ∧ (sess.dev.heard.readObject 0 0x2010 1).length ≤ 1032)
    ∧ (sess.dev.heard.sys.readAbort 0x5210 1 = none ∧ sess.dev.sys.mgmt.dict.sessions.length = 16
      ∧ objType 0x5210 1 = 10 ∧ 1024 < (sess.dev.heard.readObject 0 0x5210 1).length) :=
  ⟨takes_of rfl (by decide +kernel), takes_of rfl (by decide +kernel), by decide +kernel⟩

theorem wit_RejectedWriteChangesNoObject : sess.dev.Takes (rq 0x2010 1 4 (natLe 4 999)) 0 0x11
    ∧ sess.dev.sys.rowFor (rq 0x2010 1 4 (natLe 4 999)) = .write
    ∧ sess.dev.heard.writeAbort 0 (rq 0x2010 1 4 (natLe 4 999)) (natLe 4 999) = some (0x00030002, 1)
    ∧ WriteRow.Names (rq 0x2010 1 4 (natLe 4 999)) ⟨[], [], [], []⟩ false (.odpWrite (rq 0x2010 1 4 (natLe 4 999))) .write
    ∧ readingOk ⟨List.replicate 160 0, List.replicate 28 0, List.replicate 8 (0, 0), List.replicate 6 0⟩ = true := by
  refine ⟨takes_of rfl ?_, ?_, ?_, rfl, ?_⟩ <;> decide +kernel

/-- A plain object that is journalled, one that is not, and the first segment of a DOMAIN of 3,072 bytes. -/
theorem wit_AcceptedWriteTakesEffect :
    sess.dev.Accepts .write (rq 0x2010 1 4 (natLe 4 1000)) 0 (natLe 4 1000)
    ∧ sess.dev.sys.recordOf (rq 0x2010 1 4 (natLe 4 1000)) (natLe 4 1000) = some [(0x201001, natLe 4 1000)]
    ∧ sess.dev.Accepts .write (rq 0xF010 2 3 (natLe 2 1)) 0 (natLe 2 1)
    ∧ keeps 0xF010 2 = true ∧ sess.dev.sys.recordOf (rq 0xF010 2 3 (natLe 2 1)) (natLe 2 1) = none
    ∧ rowOf 0xF010 2 (natLe 2 1) = .write := by
  refine ⟨accepts_of rfl rfl ?_ ?_ ?_, ?_, accepts_of rfl rfl ?_ ?_ ?_, ?_, ?_, ?_⟩ <;> decide +kernel

def segReq : OdpReq := tagged 0x13 { req 0x5210 1 10 (zeros 1024) with block := some (0, 3072) }

theorem wit_AcceptedWriteTakesEffect_segment : sess.dev.Takes segReq 0 0x13 ∧ sess.dev.sys.SegmentFits 0 segReq 0 3072
    ∧ 0 + segReq.data.length < 3072 ∧ sess.dev.sys.phaseAbort segReq.index true = none ∧ segReq.index ≠ 0xB021
    ∧ sess.dev.sys.mgmt.dict.sessions.length = 16 :=
  ⟨takes_of rfl (by decide +kernel), ⟨by decide +kernel, by decide +kernel, by decide +kernel, by decide +kernel, .inl rfl⟩,
    by decide +kernel⟩

/-- A journalled write waits for its record. -/
def waiting : State := { sess with
  dev.sys.mgmt.dict.jpending := some ⟨rq 0x2010 1 4 (natLe 4 1000), 0, [(0x201001, natLe 4 1000)], none⟩ }
def fullJournal : State := { sess with dev.sys.mgmt.dict.journalUsed := 786432 }

theorem wit_JournalRecordIsAtomic :
    waiting.dev.sys.mgmtUp = true ∧ waiting.dev.sys.mgmt.dict.RecordFits ∧ rowOf 0x2010 1 (natLe 4 1000) = .write
    ∧ keeps 0x2010 1 = true ∧ (1 < 2 ∧ 2 ≤ 2) ∧ rowOf 0x2010 1 (natLe 4 1000) ≠ .token
    ∧ fullJournal.dev.sys.mgmtUp = true ∧ fullJournal.dev.sys.mgmt.dict.full = true ∧ fullJournal.dev.sys.mgmt.dict.jpending = none := by
  refine ⟨?_, ⟨?_, ?_, ?_⟩, ?_, ?_, ?_, ?_⟩ <;> decide +kernel

/-- Session 0 owns the pending set of the link's allocation. -/
def pendingSet : State := { sess with dev.sys.mgmt.dict.pending := [(0x6010, ⟨some 0, [(1, natLe 2 74)], 0⟩)] }

theorem wit_PendingSetsHoldMembers :
    sess.dev.Accepts .member (rq 0x6010 1 3 (natLe 2 74)) 0 (natLe 2 74)
    ∧ pendingSet.dev.Accepts .discard (rq 0x6010 0xFE 2 [0]) 0 [0] ∧ (pendingSet.dev.sys.pending 0x6010).values ≠ [] := by
  refine ⟨accepts_of rfl rfl ?_ ?_ ?_, accepts_of rfl rfl ?_ ?_ ?_, ?_⟩ <;> decide +kernel

/-- Pending sets of a group with a P member, of one without, and one that breaks a rule. -/
def qosSet : State := { sess with
  dev.sys.mgmt.dict.pending := [(0x8010, ⟨some 0, [(1, [1, 2, 32, 0, 1, 1, 1, 1, 1, 1, 1, 1, 1, 1, 1, 1])], 0⟩)] }
def badSet : State := { sess with dev.sys.mgmt.dict.pending := [(0x6010, ⟨some 0, [(1, natLe 2 34)], 0⟩)] }
/-- A commit of the update defaults waits for its record. -/
def waitingCommit : State := { sess with
  dev.sys.mgmt.dict.pending := [(0x7100, ⟨some 0, [(1, natLe 4 0)], 0⟩)]
  dev.sys.mgmt.dict.jpending := some ⟨rq 0x7100 0xFE 2 [1], 0, [(0x710001, natLe 4 0)], some 0x7100⟩ }

theorem wit_CommitIsAllOrNothing :
    qosSet.dev.Accepts .commit (rq 0x8010 0xFE 2 [1]) 0 [1] ∧ groupPersists 0x8010 = false
    ∧ pendingSet.dev.Accepts .commit (rq 0x6010 0xFE 2 [1]) 0 [1] ∧ groupPersists 0x6010 = true
    ∧ (waitingCommit.dev.sys.mgmtUp = true ∧ waitingCommit.dev.sys.mgmt.dict.RecordFits
      ∧ rowOf 0x7100 0xFE [1] = .commit)
    ∧ (badSet.dev.Takes (rq 0x6010 0xFE 2 [1]) 0 0x11 ∧ badSet.dev.sys.rowFor (rq 0x6010 0xFE 2 [1]) = .commit
      ∧ (badSet.dev.sys.pending 0x6010).values ≠ [] ∧ (badSet.dev.sys.pending 0x6010).owner = some 0
      ∧ badSet.dev.heard.writeAbort 0 (rq 0x6010 0xFE 2 [1]) [1] = some (0x00040121, 1)) := by
  refine ⟨accepts_of rfl rfl ?_ ?_ ?_, ?_, accepts_of rfl rfl ?_ ?_ ?_, ?_, ⟨?_, ⟨?_, ?_, ?_⟩, ?_⟩, takes_of rfl ?_, ?_, ?_, ?_, ?_⟩ <;> decide +kernel

theorem wit_UnlockAndRoleKeys :
    sess.dev.sys.mgmt.dict.sessions.length = 16 ∧ sess.dev.Accepts .unlock (rq 0xF010 1 1 [1]) 0 [1]
    ∧ sess.dev.Accepts .roleKey (rq 0xF020 1 10 (natLe 1 3 ++ zeros 57)) 0 (natLe 1 3 ++ zeros 57) ∧ sess.dev.sys.roleKey 0 ≠ [] := by
  refine ⟨?_, accepts_of rfl rfl ?_ ?_ ?_, accepts_of rfl rfl ?_ ?_ ?_, ?_⟩ <;> decide +kernel

/-! ## Objects with behaviour of their own -/

theorem wit_AcceptOpensAPort :
    sess.dev.sys.fab.ports.length = 16 ∧ sess.dev.Accepts .accept (rq 0x6020 1 1 [1]) 0 [1] ∧ (sess.dev.sys.port 0).state = 3
    ∧ sess.dev.Accepts .accept (rq 0x6020 2 1 [1]) 0 [1] ∧ (sess.dev.sys.port 1).state ≠ 3 := by
  refine ⟨?_, accepts_of rfl rfl ?_ ?_ ?_, ?_, accepts_of rfl rfl ?_ ?_ ?_, ?_⟩ <;> decide +kernel

def window0 : List Byte := natLe 2 4095 ++ natLe 1 1 ++ natLe 1 0 ++ natLe 1 31 ++ [0] ++ natLe 4 77 ++ natLe 8 0 ++ natLe 8 4096 ++ zeros 8

theorem wit_FabricTablesTakeTheirEntry :
    sess.dev.Accepts .window (rq 0x6501 1 10 window0) 0 window0
    ∧ sess.dev.Accepts .replayArea (rq 0x6502 1 10 (zeros 8 ++ natLe 2 1 ++ zeros 6)) 0 (zeros 8 ++ natLe 2 1 ++ zeros 6)
    ∧ sess.dev.Accepts .multicast (rq 0x6601 1 10 (natLe 2 4095 ++ natLe 4 3)) 0 (natLe 2 4095 ++ natLe 4 3)
    ∧ sess.dev.sys.fab.replay.length = 16 := by
  refine ⟨accepts_of rfl rfl ?_ ?_ ?_, accepts_of rfl rfl ?_ ?_ ?_, accepts_of rfl rfl ?_ ?_ ?_, ?_⟩ <;> decide +kernel

theorem wit_PortAndCircuitWrites :
    sess.dev.sys.fab.ports.length = 16 ∧ sess.dev.Accepts .accept (rq 0x6020 1 1 [1]) 0 [1]
    ∧ sess.dev.Accepts .portEnable (rq 0x6021 1 3 (natLe 2 1)) 0 (natLe 2 1)
    ∧ sess.dev.Accepts .circuit (rq 0x6411 1 10 (natLe 4 9 ++ zeros 4)) 0 (natLe 4 9 ++ zeros 4) := by
  refine ⟨?_, accepts_of rfl rfl ?_ ?_ ?_, accepts_of rfl rfl ?_ ?_ ?_, accepts_of rfl rfl ?_ ?_ ?_⟩ <;> decide +kernel

theorem wit_StatisticsWrites :
    sess.dev.Accepts .clearSets (rq 0x5201 16 5 (natLe 8 (2 ^ 63))) 0 (natLe 8 (2 ^ 63))
    ∧ sess.dev.Accepts .threshold (rq 0x5210 1 10 (zeros 3072)) 0 (zeros 3072) := by
  refine ⟨accepts_of rfl rfl ?_ ?_ ?_, accepts_of rfl rfl ?_ ?_ ?_⟩ <;> decide +kernel

theorem wit_EpochWrites :
    sess.dev.sys.fab.epochs.length = 8 ∧ sess.dev.Accepts .epochLoad (rq 0x7403 2 5 (natLe 8 3)) 0 (natLe 8 3)
    ∧ sess.dev.Accepts .resolve (rq 0x7402 1 10 (natLe 8 5 ++ [2] ++ zeros 7)) 0 (natLe 8 5 ++ [2] ++ zeros 7)
    ∧ sess.dev.Accepts .resolve (rq 0x7402 1 10 (natLe 8 5 ++ [1] ++ zeros 7)) 0 (natLe 8 5 ++ [1] ++ zeros 7) := by
  refine ⟨?_, accepts_of rfl rfl ?_ ?_ ?_, accepts_of rfl rfl ?_ ?_ ?_, accepts_of rfl rfl ?_ ?_ ?_⟩ <;> decide +kernel

/-- The device of `sess` in HOLD, where ODP is served on T1S. -/
def holdSess : State := { sess with
  dev.sys.mgmt.bring.phase := 0x0F
  dev.sys.mgmt.dict.sessions := setNth (List.replicate 16 Session.free) 0
    { Session.free with phase := 2, sid := 7, role := 3, iface := 2, src := 5, sport := 6, unlocked := true } }
def holdReq : OdpReq := tagged 0x11 { req 0x2101 1 1 [1] with iface := 2, dst := .v6 (linkLocal sess.dev.sys.mgmt.sec.mgmtMac) }

theorem wit_ResetWrites :
    sess.dev.Accepts .deviceReset (rq 0x8020 1 1 [1]) 0 [1] ∧ sess.dev.Accepts .partReset (rq 0x8021 1 1 [1]) 0 [1]
    ∧ sess.dev.sys.host.parts.length = 16 ∧ sess.dev.sys.resetting 0 = false
    ∧ holdSess.dev.Accepts .holdRelease holdReq 0 [1] ∧ holdSess.dev.sys.mgmt.bring.stackReason = rep0 8
    ∧ holdSess.dev.sys.mgmt.bring.stackDone = List.replicate 8 false := by
  refine ⟨accepts_of rfl rfl ?_ ?_ ?_, accepts_of rfl rfl ?_ ?_ ?_, ?_, ?_, accepts_of rfl rfl ?_ ?_ ?_, ?_, ?_⟩ <;> decide +kernel

/-- All but the last 1,024 bytes of an image have arrived. -/
def imageSess : State := { sess with
  dev.sys.mgmt.dict.sessions := setNth (List.replicate 16 Session.free) 0
    { Session.free with phase := 2, sid := 7, role := 3, src := 5, sport := 6, unlocked := true, wrKey := blockKey 0xB021 1,
                        wrTotal := 262144, wrData := zeros 261120 } }
def imageReq : OdpReq := tagged 0x13 { req 0xB021 1 10 (zeros 1024) with block := some (261120, 262144) }

theorem wit_ImageWrites :
    sess.dev.sys.mgmt.sec.images.length = 2
    ∧ sess.dev.Accepts .activate (rq 0xB023 1 2 [1]) 0 [1] ∧ sess.dev.Accepts .floor (rq 0xB022 1 4 (natLe 4 1)) 0 (natLe 4 1)
    ∧ sess.dev.sys.mgmt.dict.journalUsed < 786432 := by
  refine ⟨?_, accepts_of rfl rfl ?_ ?_ ?_, accepts_of rfl rfl ?_ ?_ ?_, ?_⟩ <;> decide +kernel

theorem wit_QueuePairRecordMoves :
    sess.dev.Accepts .qpRecord (rq 0x9200 1 10 (zeros 64)) 0 (zeros 64)
    ∧ sess.dev.Accepts .qpRecord (rq 0x92FF 16 10 (zeros 64)) 0 (zeros 64) := by
  refine ⟨accepts_of rfl rfl ?_ ?_ ?_, accepts_of rfl rfl ?_ ?_ ?_⟩ <;> decide +kernel

theorem wit_QuarantineKillsContexts :
    sess.dev.Accepts .quarantine (rq 0xA200 1 2 [0]) 0 [0] ∧ sess.dev.sys.core.failed.contains 0 = false
    ∧ sess.dev.sys.siteOf 0 ≠ 65535 := by
  refine ⟨accepts_of rfl rfl ?_ ?_ ?_, ?_, ?_⟩ <;> decide +kernel

/-- Remap requests 1, 2 and 3 of the failed number 1, and a cancel of number 2's test. -/
def sess1 : State := { sess with dev.sys.mgmt.rel.remaps := [] }

theorem wit_RemapRequests :
    sess1.dev.Accepts .spare (rq 0xA210 1 10 (natLe 1 1 ++ natLe 1 1 ++ natLe 2 150 ++ zeros 4)) 0 (natLe 1 1 ++ natLe 1 1 ++ natLe 2 150 ++ zeros 4)
    ∧ sess1.dev.Accepts .retest (rq 0xA210 1 10 (natLe 1 1 ++ natLe 1 3 ++ zeros 6)) 0 (natLe 1 1 ++ natLe 1 3 ++ zeros 6)
    ∧ sess1.dev.Accepts .absent (rq 0xA210 1 10 (natLe 1 1 ++ natLe 1 2 ++ zeros 6)) 0 (natLe 1 1 ++ natLe 1 2 ++ zeros 6)
    ∧ (sess1.dev.sys.mgmt.bring.assignment.getD sess1.dev.sys.mgmt.bring.coreMap).length = 144
    ∧ sess.dev.Accepts .cancel (rq 0xA210 1 10 (natLe 1 2 ++ zeros 7)) 0 (natLe 1 2 ++ zeros 7) := by
  refine ⟨accepts_of rfl rfl ?_ ?_ ?_, accepts_of rfl rfl ?_ ?_ ?_, accepts_of rfl rfl ?_ ?_ ?_, ?_, accepts_of rfl rfl ?_ ?_ ?_⟩ <;> decide +kernel

theorem wit_RemapTestsAndAgeing :
    (sess.dev.sys.mgmtUp = true ∧ (sess.dev.sys.remapOf 2).testing = true ∧ (sess.dev.sys.remapOf 2).state = 1 ∧ 2 < 144
      ∧ (sess.dev.sys.remapOf 2).action = 1 ∧ (sess.dev.sys.mgmt.bring.assignment.getD sess.dev.sys.mgmt.bring.coreMap).length = 144
      ∧ (1 ≤ 2 ∧ 2 ≤ 2) ∧ (3 ≤ 3 ∧ 3 ≤ 5))
    ∧ sess.dev.sys.loopsRun = true ∧ sess.dev.Accepts .sampleNow (rq 0x2210 4 1 [1]) 0 [1] := by
  refine ⟨?_, ?_, accepts_of rfl rfl ?_ ?_ ?_⟩ <;> decide +kernel

/-- The queue pair of a transport engine's fault is ready. -/
def faulty : State := { sess with
  dev.sys.host.qps := [(3, { Qp.reset with record := natLe 1 1 ++ zeros 63 })]
  dev.sys.mgmt.rel.maskedChanged := List.replicate 30 true }

theorem wit_FaultOutcomes :
    faulty.dev.sys.mgmt.rel.mgmtStopped = false ∧ faulty.dev.sys.mgmt.rel.masked.length = 30 ∧ faulty.dev.sys.mgmt.rel.detected.length = 30
    ∧ (masks 0x15 = true ∧ faulty.dev.sys.mgmt.power.rails = true)
    ∧ (faulty.dev.sys.mgmtUp = true ∧ faulty.dev.sys.mgmt.rel.maskedChanged.getD 2 false = true
      ∧ faulty.dev.sys.mgmt.rel.log.length < 4096)
    ∧ faulty.dev.sys.mgmt.bring.phase ≠ 0 ∧ faulty.dev.sys.mgmt.power.mgmtRail = true ∧ (faulty.dev.sys.qp 3).st = 1 := by decide +kernel

/-- The checks of a write whose unit's check alone is left to show. -/
theorem writeAbort_of {d : Dev} {k : Nat} {r : OdpReq} {v : List Byte}
    (h1 : d.sys.headAbort k r v.length = none) (h2 : ((objRow r.index r.sub).map (fun o => rangeAbort o v)).getD none = none)
    (h3 : d.sys.domainAbort r.index r.sub v = none) (h4 : d.sys.phaseAbort r.index true = none) (h5 : d.unitAbort k r v = none)
    (h6 : rowOf r.index r.sub v ≠ .member ∧ rowOf r.index r.sub v ≠ .discard ∧ rowOf r.index r.sub v ≠ .commit) :
    d.writeAbort k r v = none := by
  simp [Dev.writeAbort, h1, h2, h3, h4, h5, firstAbort, h6]

/-- An image's last segment: every byte has arrived, and each check passes. -/
theorem wit_ImageAccepted : imageSess.dev.Accepts .image imageReq 0 (zeros 261120 ++ zeros 1024) := by
  have hw : imageSess.dev.sys.wholeData imageReq = zeros 261120 ++ zeros 1024 := by
    have h : imageSess.dev.sys.sessionOf 2 0 7 5 6 = some 0 := by decide +kernel
    have h2 : (imageSess.dev.sys.session 0).wrData = zeros 261120 := rfl
    simp [Sys.wholeData, imageReq, tagged, req, h, h2]
  have hrow : ∀ v, rowOf 0xB021 1 v = .image := fun v => rfl
  refine ⟨takes_of rfl (by decide +kernel), ?_, ?_, hw.symm, ?_⟩
  · refine ⟨by decide +kernel, by decide +kernel, by decide +kernel, by decide +kernel, by decide +kernel, .inr ⟨rfl, rfl, (zeros_length 261120).symm⟩⟩
  · have : reqPartial imageReq = false := by decide +kernel
    simp only [Sys.rowFor, this, Bool.false_eq_true, if_false, hw]
    rw [show rowOf imageReq.index imageReq.sub (zeros 261120 ++ zeros 1024) = .image from hrow _]
    rfl
  · have hl : (zeros 261120 ++ zeros 1024).length = 262144 := by simp
    refine writeAbort_of ?_ ?_ ?_ ?_ ?_ ?_
    · rw [hl]; decide +kernel
    · rfl
    · simp [Sys.domainAbort, imageReq, tagged, req]
    · decide +kernel
    · decide +kernel
    · simp only [imageReq, tagged, req, hrow]; decide

/-- The device of `sess` with a salt, whose port can seal. -/
def salted : State := { sess with dev.sys.mgmt.sec.salt := some (zeros 32) }
def wrap0 : List Byte := [1] ++ zeros 32
def unwrap0 : List Byte := [2] ++ zeros 56
def token0 : List Byte := natLe 4 0x4F514442 ++ natLe 2 1 ++ zeros 2 ++ zeros 16 ++ zeros 32 ++ natLe 4 1 ++ zeros 132

theorem heard_sec (d : Dev) : d.heard.sys.mgmt.sec = d.sys.mgmt.sec := rfl
theorem heard_session (d : Dev) (k : Nat) : d.heard.sys.session k = d.sys.session k := rfl
theorem heard_cfgN (d : Dev) (i sub : Nat) : d.heard.sys.cfgN i sub = d.sys.cfgN i sub := rfl

/-- A nonce is accepted; a seal, an unsealing and a token are where the functions of Config pass their tags and signature. -/
theorem wit_SecurityWrites :
    sess.dev.sys.mgmt.dict.sessions.length = 16 ∧ sess.dev.Accepts .nonce (rq 0xB000 1 10 (zeros 32)) 0 (zeros 32)
    ∧ (∀ x, Config.gcmOpen (transferKey (salted.dev.sys.session 0)) (transferNonce 1 0) [] (wrap0.drop 16) = some x →
        salted.dev.Accepts .wrap (rq 0xB040 1 10 wrap0) 0 wrap0)
    ∧ (∀ x, Config.gcmOpen salted.dev.sys.mgmt.sec.sealKey (((unwrap0.drop 16).drop 12).take 12) ((unwrap0.drop 16).take 24)
          ((unwrap0.drop 16).drop 24) = some x → salted.dev.Accepts .unwrap (rq 0xB040 1 10 unwrap0) 0 unwrap0)
    ∧ (Config.ed448Verify Config.debugKey (txClxDbg ++ token0.take 64) ((token0.drop 64).take 114) = true →
        sess.dev.Accepts .token (rq 0xB050 2 10 token0) 0 token0) := by
  refine ⟨rfl, accepts_of rfl rfl ?_ ?_ ?_, fun x hx => accepts_of rfl rfl ?_ ?_ (writeAbort_of ?_ ?_ ?_ ?_ ?_ ?_),
    fun x hx => accepts_of rfl rfl ?_ ?_ (writeAbort_of ?_ ?_ ?_ ?_ ?_ ?_), fun hx => accepts_of rfl rfl ?_ ?_ (writeAbort_of ?_ ?_ ?_ ?_ ?_ ?_)⟩
  all_goals try decide +kernel
  · have h : sealWf wrap0 = true ∧ field wrap0 0 1 = 1 := by decide +kernel
    have h2 : salted.dev.sys.mgmt.sec.debugOpen = false ∧ salted.dev.sys.mgmt.sec.salt = some (zeros 32) := ⟨rfl, rfl⟩
    simp only [rq, tagged, req] at hx ⊢
    simp [Dev.unitAbort, Sys.sealAbort, heard_sec, heard_session, heard_cfgN, h, h2, hx]
  · have h : sealWf unwrap0 = true ∧ field unwrap0 0 1 = 2 ∧ field (unwrap0.drop 16) 4 4 = 0 ∧ field (unwrap0.drop 16) 8 4 = 0 := by
      decide +kernel
    have h2 : salted.dev.sys.mgmt.sec.debugOpen = false ∧ salted.dev.sys.mgmt.sec.salt = some (zeros 32)
      ∧ salted.dev.sys.cfgN 0xB041 1 = 0 := by decide +kernel
    simp only [List.drop_drop] at hx
    simp only [rq, tagged, req]
    simp [Dev.unitAbort, Sys.sealAbort, heard_sec, heard_session, heard_cfgN, h, h2, hx]
  · have h : field token0 0 4 = 0x4F514442 ∧ field token0 4 2 = 1 ∧ resZero token0 6 2 = true
        ∧ (token0.drop 8).take 16 = sess.dev.sys.mgmt.sec.serial16 ∧ field token0 56 4 = 1 ∧ resZero token0 60 4 = true
        ∧ resZero token0 178 14 = true ∧ (token0.drop 24).take 32 = sess.dev.sys.mgmt.sec.challenge
        ∧ sess.dev.sys.mgmt.sec.debugOpen = false := by decide +kernel
    simp only [rq, tagged, req]
    simp [Dev.unitAbort, Sys.tokenAbort, heard_sec, h, hx]

/-! ## Instructions of the cores -/

/-- A block of partition 0 and ring 0 on core 0 with 16 registers a thread, 64 KiB of core store and 64 granules. -/
def blk0 (code : List CoreInst) : Block :=
  { id := 0, uid := 9, part := 0, ring := 0, cmd := 0, core := 0, bidx := 0, threads := 1, regsPer := 16, csBytes := 65536, accN := 64,
    code := code.map CoreInst.word, store := [], acc := [], tags := [], sums := [], barrier := none }

/-- Its one group, of one thread, at instruction 0, with the registers given. -/
def grp0 (regs : NMap) : Group :=
  { gid := gid0, block := 0, gidx := 0, pc := 0, mask := 1, live := 1, stop := none, stack := [], parked := [], wait := .none,
    reported := false, regs := regs, preds := List.replicate 7 0, busy := [], lastIssue := 0, wpc := 0 }

/-- The device of `up` with that block and group. -/
def at0 (code : List CoreInst) (g : Group) : State := { up with
  dev.sys.core.blocks := [blk0 code]
  dev.sys.core.groups := [g] }

/-- One instruction, of one thread with the registers given. -/
def one (c : CoreInst) (regs : NMap) : State := at0 [c] (grp0 regs)

/-- An instruction of opcode `op` issues from `gid0`, which is picked, and `P` holds of it. -/
def goes (s : State) (op : Nat) (P : Issue → Bool) : Bool :=
  s.dev.picked gid0 &&
    match s.dev.sys.prepare op gid0 with
    | .go i => P i
    | _ => false

theorem goes_of {s : State} {op : Nat} {P : Issue → Bool} (h : goes s op P = true) :
    ∃ i, s.dev.Goes op gid0 i ∧ P i = true := by
  obtain ⟨hp, h⟩ := Bool.and_eq_true_iff.1 h
  split at h
  · rename_i i hi; exact ⟨i, ⟨hp, hi⟩, h⟩
  · cases h

/-- Nothing in a collector and no result on its way. -/
theorem flight_of_empty {c : CoreState} (h1 : c.collectors = []) (h2 : c.results = []) : c.FlightOk := by
  have : c.flying = [] := by simp [CoreState.flying, h1, h2]
  exact ⟨by simp [this], by simp [this], by simp [h2]⟩

/-- Cores with one sound group, blocks of empty stores, and nothing pending are sound. -/
theorem ok_of {s : State} {g : Group} {code : List CoreInst} (hb : s.dev.sys.core.blocks = [blk0 code])
    (hg : s.dev.sys.core.groups = [g]) (h1 : g.regs.wf = true) (h2 : g.preds.length = 7) (h3 : g.mask &&& ~~~g.live = 0)
    (hs : s.dev.sys.core.stores = []) (hc : s.dev.sys.core.copies = [])
    (hf : s.dev.sys.core.FlightOk) : s.dev.sys.core.Ok := by
  refine ⟨by simp [hg], ?_, ?_, by simp [hs], by simp [hc], hf⟩
  · intro x hx; rw [hg] at hx; obtain rfl := List.mem_singleton.1 hx; exact ⟨h1, h2, h3⟩
  · intro x hx; rw [hb] at hx; obtain rfl := List.mem_singleton.1 hx; exact ⟨rfl, rfl⟩

theorem one_ok (c : CoreInst) (regs : NMap) (h : regs.wf = true) : (one c regs).dev.sys.core.Ok :=
  ok_of (code := [c]) (g := grp0 regs) rfl rfl h rfl (by show (1#32 &&& ~~~1#32) = 0; decide) rfl rfl (flight_of_empty rfl rfl)

/-- An instruction of an opcode in type `ty`, of registers 2 from 4, 6 and, where it has a third source, 8. -/
def alu (op ty : Nat) (srcs : Nat) : CoreInst := ⟨op, false, 7, 2, 4, if srcs = 1 then 0 else 6, if srcs = 3 then 8 else 0, ty * 2 ^ 16⟩

/-- Every row of `laneRow` has an instruction that issues: each of Table 5-8 in its first type, and `cvt`, `selp`, `mov`, `movhi`,
`rdsr`, `vote` and `shfl`. -/
theorem wit_LanesTakeTheirValues :
    (([(.add gid0, alu 0x00 0 2), (.sub gid0, alu 0x01 0 2), (.mul gid0, alu 0x02 0 2), (.mulhi gid0, alu 0x03 0 2),
      (.mad gid0, alu 0x04 0 3), (.fma gid0, alu 0x05 4 3), (.min gid0, alu 0x06 1 2), (.max gid0, alu 0x07 3 2),
      (.and gid0, alu 0x08 2 2), (.or gid0, alu 0x09 0 2), (.xor gid0, alu 0x0A 0 2), (.not gid0, alu 0x0B 0 1),
      (.shl gid0, alu 0x0C 0 2), (.shr gid0, alu 0x0D 1 2), (.popc gid0, alu 0x0E 0 1), (.clz gid0, alu 0x0F 0 1),
      (.abs gid0, alu 0x10 1 1), (.neg gid0, alu 0x11 5 1), (.rcp gid0, alu 0x40 4 1), (.sqrt gid0, alu 0x41 4 1),
      (.div gid0, alu 0x42 5 2), (.ex2 gid0, alu 0x43 4 1), (.lg2 gid0, alu 0x44 4 1), (.sin gid0, alu 0x45 4 1),
      (.cos gid0, alu 0x46 4 1), (.cvt gid0, ⟨0x48, false, 7, 2, 4, 0, 0, 8 + 9 * 16⟩), (.selp gid0, ⟨0x51, false, 7, 2, 4, 6, 7, 0⟩),
      (.mov gid0, ⟨0x58, false, 7, 2, 4, 0, 0, 0⟩), (.movhi gid0, ⟨0x59, false, 7, 2, 0, 0, 0, 0xABCD⟩),
      (.rdsr gid0, ⟨0x5A, false, 7, 2, 0, 0, 0, 4⟩), (.vote gid0, ⟨0x5B, false, 7, 2, 7, 0, 0, 2⟩),
      (.shfl gid0, ⟨0x5C, false, 7, 2, 4, 6, 0, 0⟩)] : List (Instr × CoreInst)).all (fun x =>
        match x.1.laneRow with
        | some row => row.gid == gid0 && row.op == x.2.op && goes (one x.2 [(4, 7), (6, 9)]) row.op (fun i => i.act == [0] && i.grp.stop == none)
        | none => false)) = true ∧ ∀ c, (one c [(4, 7), (6, 9)]).dev.sys.core.Ok :=
  ⟨by decide +kernel, fun c => one_ok c _ (by decide)⟩

theorem wit_IntegerResultsWrap : (1 < 4 ∧ 2 ^ 31 < 2 ^ tyBits 1 ∧ 2 ^ 32 - 1 < 2 ^ tyBits 1 ∧ 0 < 2 ^ tyBits 1)
    ∧ (2 < 4 ∧ 2 ^ 64 - 1 < 2 ^ tyBits 2) := by decide

theorem wit_PredicatesAreWritten :
    goes (one ⟨0x50, false, 7, 0, 4, 6, 0, 0⟩ []) 0x50 (fun i => i.act == [0] && i.grp.stop == none) = true
    ∧ goes (one ⟨0x52, false, 7, 0, 7, 1, 0, 2⟩ []) 0x52 (fun i => i.act == [0]) = true
    ∧ goes (one ⟨0xA4, false, 7, 0, 0, 0, 0, 0⟩ []) 0xA4 (fun _ => true) = true
    ∧ (∀ c, (one c []).dev.sys.core.Ok) := by
  refine ⟨?_, ?_, ?_, fun c => one_ok c _ rfl⟩ <;> decide +kernel

def nopI : CoreInst := ⟨0xA4, false, 7, 0, 0, 0, 0, 0⟩
/-- Two threads, of which p0 holds for the first, with an entry count on the stack. -/
def grp2 (n : Nat) : Group := { grp0 [] with mask := 3, live := 3, preds := [1] ++ List.replicate 6 0, stack := List.replicate n ⟨0, 0, none⟩ }
def branch (c : CoreInst) (n : Nat) : State := at0 [c, nopI, nopI] (grp2 n)

theorem branch_ok (c : CoreInst) (n : Nat) : (branch c n).dev.sys.core.Ok :=
  ok_of (code := [c, nopI, nopI]) (g := grp2 n) rfl rfl rfl rfl (by show (3#32 &&& ~~~3#32) = 0; decide) rfl rfl (flight_of_empty rfl rfl)

/-- Each branch: taken by none (p1), by all, by one of two with room on the stack and without, with a target outside the image; a call,
a return and an exit. -/
theorem wit_ControlMovesThePath :
    let tgt (i : Issue) : Int := (i.grp.pc : Int) + 1 + toSigned 20 i.inst.mod
    let inside (i : Issue) (x : Int) : Bool := decide (0 ≤ x ∧ x < i.blk.code.length)
    let taken (i : Issue) := i.grp.actMask i.inst
    goes (branch ⟨0xA0, false, 1, 0, 0, 0, 0, 1⟩ 0) 0xA0 (fun i => taken i == 0 && i.grp.stop != some (i.grp.pc + 1)) = true
    ∧ goes (branch ⟨0xA0, false, 7, 0, 0, 0, 0, 1⟩ 0) 0xA0 (fun i => taken i == i.grp.mask && inside i (tgt i)
        && i.grp.stop != some (tgt i).toNat) = true
    ∧ goes (branch ⟨0xA0, false, 0, 0, 2, 0, 0, 0⟩ 30) 0xA0 (fun i => taken i != 0 && taken i != i.grp.mask && inside i (tgt i)
        && decide (i.grp.stack.length + 2 ≤ 32) && decide (some (i.inst.d * 256 + i.inst.a) ≠ some (tgt i).toNat)) = true
    ∧ goes (branch ⟨0xA0, false, 0, 0, 2, 0, 0, 0⟩ 31) 0xA0 (fun i => taken i != 0 && taken i != i.grp.mask && inside i (tgt i)
        && decide (32 < i.grp.stack.length + 2)) = true
    ∧ goes (branch ⟨0xA0, false, 7, 0, 0, 0, 0, 2⟩ 0) 0xA0 (fun i => taken i != 0 && !inside i (tgt i)) = true
    ∧ goes (branch ⟨0xA1, false, 7, 2, 0, 0, 0, 1⟩ 0) 0xA1 (fun i => i.act != [] && inside i (tgt i) && i.grp.stop == none) = true
    ∧ goes (branch ⟨0xA2, false, 7, 0, 4, 0, 0, 0⟩ 0) 0xA2 (fun i => i.act != [] && i.act.all (fun l => i.grp.reg l i.inst.a == 0)
        && inside i 0 && i.grp.stop == none) = true
    ∧ goes (branch ⟨0xA3, false, 7, 0, 0, 0, 0, 0⟩ 0) 0xA3 (fun _ => true) = true
    ∧ (∀ c n, (branch c n).dev.sys.core.Ok) := by
  refine ⟨?_, ?_, ?_, ?_, ?_, ?_, ?_, ?_, branch_ok⟩ <;> decide +kernel

/-! ## Accesses of the cores -/

/-- A thread behind a `fence.dev` whose store waits. -/
def held (c : CoreInst) (regs : NMap) : State := { one c regs with
  dev.sys.core.stores := [⟨gid0, [0], 0, 0, 0, 9, 0, 0, 128, natLe 4 7, 3, none, 0⟩] }

theorem wit_CoreStoreReadsAndWrites :
    let at_ (i : Issue) (l : Nat) := i.grp.effAddr i.inst l
    let good (i : Issue) : Bool := i.act.all (fun l => at_ i l % 4 == 0 && decide (at_ i l + 4 ≤ i.blk.csBytes))
    let ld : CoreInst := ⟨0x60, false, 7, 2, 4, 0, 0, 2⟩
    let st : CoreInst := ⟨0x61, false, 7, 0, 4, 6, 0, 2⟩
    goes (one ld [(4, 64)]) 0x60 (fun i => good i && i.act == [0] && !fenceHeld i (one ld [(4, 64)]).dev) = true
    ∧ goes (one ld [(4, 65536)]) 0x60 (fun i => !good i && !fenceHeld i (one ld [(4, 65536)]).dev) = true
    ∧ goes (held ld [(4, 64)]) 0x60 (fun i => fenceHeld i (held ld [(4, 64)]).dev) = true
    ∧ goes (one st [(4, 65532)]) 0x61 (fun i => good i && i.act == [0] && !fenceHeld i (one st [(4, 65532)]).dev) = true
    ∧ goes (one st [(4, 2)]) 0x61 (fun i => !good i && !fenceHeld i (one st [(4, 2)]).dev) = true
    ∧ goes (held st [(4, 64)]) 0x61 (fun i => fenceHeld i (held st [(4, 64)]).dev) = true
    ∧ (∀ c a, (one c [(4, a + 1)]).dev.sys.core.Ok ∧ (one c [(4, a + 1)]).dev.sys.StoreQuiet 0) := by
  refine ⟨?_, ?_, ?_, ?_, ?_, ?_, fun c a => ⟨one_ok c _ ?_, nofun, nofun⟩⟩ <;> first | decide +kernel | simp [NMap.wf]

theorem wit_AtomicsUpdateOnce :
    let c : CoreInst := ⟨0x79, false, 7, 2, 4, 6, 0, 0⟩
    let g : CoreInst := ⟨0x78, false, 7, 2, 4, 6, 0, 0⟩
    goes (one c [(4, 64)]) 0x79 (fun i => i.act == [0] && atomOk true i (one c [(4, 64)]).dev && i.grp.regN 0 i.inst.a 1 == 64
        && decide (64 + 4 ≤ i.blk.csBytes)) = true
    ∧ goes (one g [(4, 64)]) 0x78 (fun i => i.act == [0] && atomGOk i (one g [(4, 64)]).dev && i.grp.regN 0 i.inst.a 2 == 64
        && (one g [(4, 64)]).dev.rangeOk i.blk.part 64 4 true
        && !((one g [(4, 64)]).dev.mem.lineOf ((one g [(4, 64)]).dev.locate 0 64).1 (((one g [(4, 64)]).dev.locate 0 64).2 / 64)).poison) = true
    ∧ goes (one g [(4, 66)]) 0x78 (fun i => i.grp.regN 0 i.inst.a 2 % 4 != 0) = true
    ∧ goes (held g [(4, 64)]) 0x78 (fun i => !atomGOk i (held g [(4, 64)]).dev && i.grp.regN 0 i.inst.a 2 == 64) = true
    ∧ goes (held c [(4, 64)]) 0x79 (fun i => !atomOk true i (held c [(4, 64)]).dev) = true
    ∧ goes (one c [(4, 62)]) 0x79 (fun i => i.act == [0] && atomOk true i (one c [(4, 62)]).dev && i.grp.regN 0 i.inst.a 1 == 62) = true
    ∧ (one c [(4, 64)]).dev.sys.StoreQuiet 0 ∧ (∀ p a n, (one g [(4, 64)]).dev.CleanRange p a n) ∧ (one c [(4, 62)]).dev.sys.core.Ok
    ∧ (one c [(4, 64)]).dev.sys.core.Ok ∧ (one g [(4, 64)]).dev.sys.core.Ok ∧ (one g [(4, 64)]).dev.mem.Coherent := by
  refine ⟨?_, ?_, ?_, ?_, ?_, ?_, ⟨nofun, nofun⟩, fun p a n => up_clean p a n, one_ok _ _ rfl, one_ok _ _ rfl, one_ok _ _ rfl, up_coherent⟩
    <;> decide +kernel

def pstore0 : PStore := ⟨gid0, [0], 0, 0, 0, 9, 0, 0, 128, natLe 4 0xA1B2C3D4, 0, none, 0⟩
def pload0 : PLoad := ⟨gid0, 0, 1, 0, 192, 4, false, 2, 0⟩
/-- A store and a load of that group wait, the store's fence ordered nothing. -/
def waitingAccess : State := { one nopI [] with
  dev.sys.core.stores := [pstore0]
  dev.sys.core.loads := [pload0] }

theorem waitingAccess_ok : waitingAccess.dev.sys.core.Ok := by
  refine ⟨by decide, ?_, ?_, ?_, ?_, flight_of_empty rfl rfl⟩
  · intro x hx; obtain rfl := List.mem_singleton.1 hx; exact ⟨rfl, rfl, by decide⟩
  · intro x hx; obtain rfl := List.mem_singleton.1 hx; exact ⟨rfl, rfl⟩
  · intro x hx; obtain rfl := List.mem_singleton.1 hx; decide
  · intro x hx; cases hx

theorem wit_ShofelAccessesReachTheirBytes :
    let st : CoreInst := ⟨0x63, false, 7, 0, 4, 6, 0, 2⟩
    let ld : CoreInst := ⟨0x62, false, 7, 2, 4, 0, 0, 2⟩
    let good (s : State) (i : Issue) (w : Bool) : Bool := i.act == [0] && i.grp.effAddr i.inst 0 == 64 && s.dev.rangeOk i.blk.part 64 4 w
    goes (one st [(4, 64)]) 0x63 (fun i => good (one st [(4, 64)]) i true && stGOk i (one st [(4, 64)]).dev) = true
    ∧ goes (one ld [(4, 64)]) 0x62 (fun i => good (one ld [(4, 64)]) i false && ldGOk i (one ld [(4, 64)]).dev
        && !((one ld [(4, 64)]).dev.mem.lineOf ((one ld [(4, 64)]).dev.locate 0 64).1 (((one ld [(4, 64)]).dev.locate 0 64).2 / 64)).poison) = true
    ∧ (one st [(4, 64)]).dev.sys.core.Ok ∧ (one ld [(4, 64)]).dev.sys.core.Ok ∧ (one ld [(4, 64)]).dev.mem.Coherent
    ∧ (waitingAccess.dev.sys.core.stores[0]? = some pstore0 ∧ earlierStore waitingAccess.dev.sys.core.stores 0 pstore0 = false
      ∧ waitingAccess.dev.stackUp 0 = true ∧ (waitingAccess.dev.mem.lineOf 0 2).poison = false)
    ∧ pload0 ∈ waitingAccess.dev.sys.core.loads ∧ pload0.addr / 64 = 3
    ∧ ((waitingAccess.dev.mem.stack 7).trained = true ∧ waitingAccess.dev.sys.unitStopped 0x02 7 = false
      ∧ waitingAccess.dev.sys.unitStopped 0x1B 7 = false) := by
  refine ⟨?_, ?_, one_ok _ _ rfl, one_ok _ _ rfl, up_coherent, ?_, ?_, ?_, ?_⟩ <;> decide +kernel

/-! ## Order, waiting and copies -/

/-- A thread at a fence of a scope; the waiting accesses of `waitingAccess` belong to it. -/
def fenceAt (sc : Nat) (busy : Bool) : State := { one ⟨0x70, false, 7, 0, 0, 0, 0, sc⟩ [] with
  dev.sys.core.stores := if busy then [pstore0] else []
  dev.sys.core.loads := if busy && decide (sc < 2) then [pload0] else [] }

theorem wit_FencesOrderEarlierAccesses : (∀ sc < 4, ∀ busy,
      goes (fenceAt sc busy) 0x70 (fun i => bits i.inst.mod 1 0 == sc && i.act == [0] && i.blk.id == 0) = true)
    ∧ (∀ sc < 4, (fenceAt sc false).dev.sys.core.loads = [] ∧ (fenceAt sc false).dev.sys.core.stores = [])
    ∧ (∀ sc < 2, (fenceAt sc true).dev.sys.core.loads = [pload0]) ∧ (∀ sc < 4, 2 ≤ sc → (fenceAt sc true).dev.sys.core.stores = [pstore0])
    ∧ pload0.gid = gid0 ∧ pload0.lane = 0 ∧ pstore0.gid = gid0 ∧ pstore0.lanes = [0] ∧ pstore0.block = 0
    ∧ ∀ sc, (fenceAt sc false).dev.sys.core.Ok :=
  ⟨by decide +kernel, by decide, by decide, by decide, rfl, rfl, rfl, rfl, rfl,
    fun sc => ok_of (code := [⟨0x70, false, 7, 0, 0, 0, 0, sc⟩]) (g := grp0 []) rfl rfl rfl rfl (by decide) rfl rfl (flight_of_empty rfl rfl)⟩

/-- A thread at `blk.join 3`, of a block whose barrier is as given and whose group has `live` threads. -/
def joinAt (barrier : Option Nat) (live : BitVec 32) : State :=
  let c : CoreInst := ⟨0x74, false, 7, 0, 0, 0, 0, 3⟩
  { up with
    dev.sys.core.blocks := [{ blk0 [c, nopI] with barrier := barrier }]
    dev.sys.core.groups := [{ grp0 [] with live := live }] }
def arrAt (a : Nat) : State := one ⟨0x81, false, 7, 0, 4, 6, 0, 0⟩ [(4, a)]

theorem joinAt_ok (b : Option Nat) : (joinAt b 1).dev.sys.core.Ok ∧ (joinAt b 3).dev.sys.core.Ok := by
  constructor <;> refine ⟨by show [gid0].Nodup; decide, ?_, ?_, (fun x hx => nomatch hx), (fun x hx => nomatch hx), flight_of_empty rfl rfl⟩
  all_goals intro x hx; obtain rfl := List.mem_singleton.1 hx
  · exact ⟨rfl, rfl, by decide⟩
  · exact ⟨rfl, rfl⟩
  · exact ⟨rfl, rfl, by decide⟩
  · exact ⟨rfl, rfl⟩

theorem wit_GroupsWaitAndGoOn :
    let after (m : BitVec 32) (h : Group) : BitVec 32 := if h.gid = gid0 then h.parkedMask ||| m else h.parkedMask
    let arrived (s : State) (i : Issue) := ((s.dev.sys.blockGroups i.grp.block).map (fun h => maskCount (after (i.grp.actMask i.inst) h))).sum
    let expected (s : State) (i : Issue) := ((s.dev.sys.blockGroups i.grp.block).map (fun h => maskCount h.live)).sum
    goes (joinAt none 3) 0x74 (fun i => i.grp.actMask i.inst != 0 && i.blk.barrier == none
        && arrived (joinAt none 3) i != expected (joinAt none 3) i && bits i.inst.mod 3 0 == 3) = true
    ∧ goes (joinAt (some 3) 1) 0x74 (fun i => i.grp.actMask i.inst != 0 && i.blk.barrier == some 3
        && arrived (joinAt (some 3) 1) i == expected (joinAt (some 3) 1) i
        && ((joinAt (some 3) 1).dev.sys.blockGroups i.grp.block).all (fun h => decide (h.stack.length + h.parked.length + 1 ≤ 32))) = true
    ∧ goes (joinAt (some 4) 1) 0x74 (fun i => i.grp.actMask i.inst != 0 && i.blk.barrier == some 4 && bits i.inst.mod 3 0 != 4) = true
    ∧ goes (arrAt 64) 0x81 (fun i => i.act == [0] && i.grp.reg 0 i.inst.a == 64 && decide (64 + 4 ≤ i.blk.csBytes)) = true
    ∧ goes (arrAt 66) 0x81 (fun i => i.act == [0] && i.grp.reg 0 i.inst.a % 4 != 0) = true
    ∧ (joinAt none 3).dev.sys.core.loads = [] ∧ (joinAt none 3).dev.sys.core.Ok ∧ (joinAt (some 3) 1).dev.sys.core.Ok
    ∧ (joinAt (some 4) 1).dev.sys.core.Ok ∧ (arrAt 64).dev.sys.core.Ok := by
  refine ⟨?_, ?_, ?_, ?_, ?_, rfl, (joinAt_ok _).2, (joinAt_ok _).1, (joinAt_ok _).1, one_ok _ _ rfl⟩ <;> decide +kernel

def dmaAt (len : Nat) : State := one ⟨0x80, false, 7, 2, 4, 6, 8, 1⟩ [(2, 4), (4, 64), (6, 128), (8, len)]
def copy0 : Copy := ⟨5, gid0, 0, 0, 0, true, false, 64, 128, 16, 4, 5, 0, zeros 16, [3, 9]⟩
def copying : State := { one nopI [] with dev.sys.core.copies := [copy0] }

theorem wit_CopiesMoveTheirBytes :
    goes (dmaAt 16) 0x80 (fun i => i.act == [0] && copyOk i (dmaAt 16).dev 0 && (dmaAt 16).dev.sys.asyncRoom gid0 1
        && copyClear i (dmaAt 16).dev 0) = true
    ∧ goes (dmaAt 20) 0x80 (fun i => i.act == [0] && !copyOk i (dmaAt 20).dev 0) = true
    ∧ (∀ p a n, (dmaAt 16).dev.CleanRange p a n) ∧ (dmaAt 16).dev.sys.core.Ok ∧ (dmaAt 20).dev.sys.core.Ok ∧ (dmaAt 16).dev.mem.Coherent
    ∧ (copying.dev.sys.core.copies.find? (fun x => x.id == 5) = some copy0 ∧ copying.dev.sys.blk 0 = some (blk0 [nopI])
      ∧ copying.dev.sys.dying 0 0 = false ∧ copying.dev.rangeOk 0 128 16 true = true
      ∧ copy0.snap = (List.range 16).map (fun j => (copying.dev.sys.csRead 0 (64 + j) 1).headD 0))
    ∧ copying.dev.CleanRange 0 128 16 ∧ copying.dev.sys.core.Ok := by
  refine ⟨?_, ?_, fun p a n => up_clean p a n, one_ok _ _ rfl, one_ok _ _ rfl, up_coherent, ?_, up_clean 0 128 16, ?_⟩
  · decide +kernel
  · decide +kernel
  · decide +kernel
  · refine ⟨by decide, ?_, ?_, (fun x hx => nomatch hx), ?_, flight_of_empty rfl rfl⟩
    · intro x hx; obtain rfl := List.mem_singleton.1 hx; exact ⟨rfl, rfl, by decide⟩
    · intro x hx; obtain rfl := List.mem_singleton.1 hx; exact ⟨rfl, rfl⟩
    · intro x hx; obtain rfl := List.mem_singleton.1 hx; decide

/-- Two instructions of one quarter in collectors, of which the second has all its sources; two results of one bank. -/
def collected : State := { at0 [nopI] { grp0 [] with busy := [2, 3, 1, 5, 6] } with
  dev.sys.core.collectors := [⟨gid0, [4, 8, 6], [2], 0, [(2, 9)]⟩, ⟨gid0, [], [3], 0, [(3, 8)]⟩]
  dev.sys.core.results := [⟨gid0, [1], [(1, 5)]⟩, ⟨gid0, [5], [(5, 5)]⟩, ⟨gid0, [6], [(6, 5)]⟩] }

theorem wit_CollectorsBanksAndResults : collected.dev.sys.core.Ok ∧ collected.dev.sys.coreClock = true ∧ ({ up with dev.sys.mgmt.rel.stopped := [(0x1B, 8)] } : State).dev.sys.coreClock = false
    ∧ collected.dev.sys.core.collectors.find? (fun x => x.gid == gid0 && x.reads == []) = some ⟨gid0, [], [3], 0, [(3, 8)]⟩
    ∧ (∀ r ∈ collected.dev.sys.core.results, r.gid.core = 0 ∧ r.gid.quarter = 0 ∧ collected.dev.sys.loading r.gid r.dests = false)
    ∧ collected.dev.sys.core.csPend = [] :=
  ⟨ok_of (code := [nopI]) (g := { grp0 [] with busy := [2, 3, 1, 5, 6] }) rfl rfl rfl rfl (by decide) rfl rfl
      ⟨by decide +kernel, by decide +kernel, by decide +kernel⟩, by decide +kernel, by decide +kernel, by decide, by decide +kernel, rfl⟩

/-- A group that waits for its counter; a context of ring 0 that is being killed. -/
def stalled (rep : Bool) : State := at0 [nopI] { grp0 [] with wait := .arr [(0, 64, 1)], reported := rep }
def dyingState : State := { one nopI [] with dev.sys.core.kills := [⟨0, 0, 0x0103, 0, zeros 16, false⟩] }

theorem wit_StallsAndKills :
    (∀ rep, ∃ x, (stalled rep).dev.sys.core.group? gid0 = some x ∧ (stalled rep).dev.sys.blk x.block = some (blk0 [nopI]) ∧ x.wait ≠ .none
      ∧ (stalled rep).dev.sys.dying 0 0 = false ∧ x.reported = rep)
    ∧ (stalled false).dev.sys.mgmt.rel.mgmtStopped = false ∧ (stalled false).dev.sys.partEnabled 0 = true
    ∧ dyingState.dev.sys.core.kills.find? (fun x => x.ring == 0) = some ⟨0, 0, 0x0103, 0, zeros 16, false⟩
    ∧ (dyingState.dev.sys.resetting 0 = false ∧ dyingState.dev.sys.partEnabled 0 = true) := by
  refine ⟨fun rep => ⟨_, rfl, by cases rep <;> decide, (by intro h; cases h), by cases rep <;> decide +kernel, rfl⟩, ?_, ?_, ?_, ?_⟩ <;> decide +kernel

/-! ## The matrix array and grids -/

/-- Bytes of a core store, of a stack's DRAM, or of any store: `bs` from address `a`, none listed that is zero. -/
def cellsAt (a : Nat) (bs : List Byte) : List Host.Cell :=
  (((List.range bs.length).zip bs).filter (fun x => x.2 != 0)).map (fun x => (a + x.1, x.2))

/-- An issue of a 16 by 16 tile at granule 0, K = 32, initialised, of a format; a drain of it in FP32. -/
def issueDesc (fmt : Nat) : List Byte :=
  natLe 4 (1 + fmt * 16 + fmt * 256 + 2 ^ 20) ++ natLe 2 16 ++ natLe 2 16 ++ natLe 4 32 ++ natLe 4 1024 ++ natLe 4 64 ++ natLe 4 2048
    ++ natLe 4 64 ++ zeros 36
def drainDesc : List Byte :=
  natLe 4 (2 + 8 * 16 + 2 ^ 16) ++ natLe 2 16 ++ natLe 2 16 ++ natLe 4 4096 ++ natLe 4 64 ++ zeros 48

/-- A thread at a matrix instruction that names the descriptor at core store address `a`, with `n` operations queued. -/
def mxAt (op a : Nat) (desc : List Byte) (n : Nat) : State := { up with
  dev.sys.core.blocks := [{ blk0 [⟨op, false, 7, 0, 4, 0, 0, 0⟩] with store := cellsAt 64 desc }]
  dev.sys.core.groups := [grp0 [(4, a)]]
  dev.sys.core.mq := List.replicate n ⟨3, 0, 0, gid0, 0, false, issueDesc 0, [], 0, 0, none⟩ }

theorem mxAt_ok (op n : Nat) : (mxAt op 64 (issueDesc 0) n).dev.sys.core.Ok ∧ (mxAt op 64 drainDesc n).dev.sys.core.Ok := by
  constructor <;> refine ⟨by show [gid0].Nodup; decide, ?_, ?_, (fun x hx => nomatch hx), (fun x hx => nomatch hx), flight_of_empty rfl rfl⟩
  all_goals intro x hx; obtain rfl := List.mem_singleton.1 hx
  · exact ⟨rfl, rfl, by decide⟩
  · exact ⟨by show cellsWf (cellsAt 64 (issueDesc 0)) = true; decide +kernel, rfl⟩
  · exact ⟨rfl, rfl, by decide⟩
  · exact ⟨by show cellsWf (cellsAt 64 drainDesc) = true; decide +kernel, rfl⟩

theorem wit_MatrixQueueTakesDescriptors :
    let placed (i : Issue) : Bool := i.act == [0] && decide (i.grp.reg 0 i.inst.a % 64 = 0 ∧ i.grp.reg 0 i.inst.a + 64 ≤ i.blk.csBytes)
    let len (s : State) := (s.dev.sys.core.mq.filter (fun o => o.core == gid0.core)).length
    let ds (i : Issue) := i.blk.csRead (i.grp.reg 0 i.inst.a) 64
    let e := up.dev.sys.expertOn 0
    goes (mxAt 0x88 64 (issueDesc 0) 23) 0x88 (fun i => placed i && issueWf e i.blk.accN (ds i) && issueRanges i.blk (ds i)) = true
    ∧ goes (mxAt 0x88 64 (issueDesc 0) 24) 0x88 (fun i => i.act == [0]) = true
    ∧ goes (mxAt 0x88 65536 (issueDesc 0) 0) 0x88 (fun i => i.act == [0] && !placed i) = true
    ∧ goes (mxAt 0x88 64 drainDesc 0) 0x88 (fun i => placed i && !issueWf e i.blk.accN (ds i)) = true
    ∧ goes (mxAt 0x89 64 drainDesc 23) 0x89 (fun i => placed i && drainWf e i.blk.accN (ds i) && drainRangesOk i.blk (ds i)) = true
    ∧ goes (mxAt 0x89 64 drainDesc 24) 0x89 (fun i => i.act == [0]) = true
    ∧ goes (mxAt 0x89 65536 drainDesc 0) 0x89 (fun i => i.act == [0] && !placed i) = true
    ∧ goes (mxAt 0x89 64 (issueDesc 0) 0) 0x89 (fun i => placed i && !drainWf e i.blk.accN (ds i)) = true
    ∧ goes (mxAt 0x8A 0 (issueDesc 0) 1) 0x8A (fun i => i.act == [0] && decide (i.grp.reg 0 i.inst.a < i.blk.accN)) = true
    ∧ len (mxAt 0x88 64 (issueDesc 0) 23) = 23 ∧ len (mxAt 0x88 64 (issueDesc 0) 24) = 24 ∧ len (mxAt 0x89 64 drainDesc 24) = 24 := by
  refine ⟨?_, ?_, ?_, ?_, ?_, ?_, ?_, ?_, ?_, ?_, ?_, ?_⟩ <;> decide +kernel

/-- With no executing thread, behind a waiting `fence.dev`, and a tile out of the allocation. -/
theorem wit_MatrixQueueTakesDescriptors_held :
    goes (one ⟨0x74, false, 1, 0, 0, 0, 0, 3⟩ []) 0x74 (fun i => i.act == [] && i.grp.actMask i.inst == 0) = true
    ∧ (∀ op, [0x88, 0x89, 0x8A, 0x81].contains op = true →
      goes (one ⟨op, false, 1, 0, 4, 0, 0, 0⟩ []) op (fun i => i.act == [] && i.grp.actMask i.inst == 0) = true)
    ∧ (∀ op, [0x88, 0x89, 0x8A, 0x81].contains op = true →
      goes (held ⟨op, false, 7, 0, 4, 0, 0, 0⟩ [(4, 64)]) op (fun i => i.act == [0] && fenceHeld i (held ⟨op, false, 7, 0, 4, 0, 0, 0⟩ [(4, 64)]).dev) = true)
    ∧ goes (mxAt 0x8A 64 (issueDesc 0) 0) 0x8A (fun i => decide (i.blk.accN ≤ i.grp.reg 0 i.inst.a)) = true := by
  refine ⟨by decide +kernel, fun op h => ?_, fun op h => ?_, by decide +kernel⟩ <;>
    (simp only [List.contains_eq_mem, List.mem_cons, List.not_mem_nil, or_false, decide_eq_true_eq] at h
     rcases h with rfl | rfl | rfl | rfl <;> decide +kernel)

/-- An issue, or a drain, at the head of core 0's queue, of a block whose core store is as it was at the issue. -/
def mxHead (drain : Bool) (desc : List Byte) : State := { mxAt 0x88 64 desc 0 with
  dev.sys.core.mq := [⟨3, 0, 0, gid0, 0, drain, desc, cellsAt 64 desc, 0, 0, none⟩] }

theorem wit_MatrixOperationAccumulates : ∀ fmt, fmt = 0 ∨ fmt = 7 →
    let o : MxOp := ⟨3, 0, 0, gid0, 0, false, issueDesc fmt, cellsAt 64 (issueDesc fmt), 0, 0, none⟩
    let b : Block := { blk0 [⟨0x88, false, 7, 0, 4, 0, 0, 0⟩] with store := cellsAt 64 (issueDesc fmt) }
    let s := mxHead false (issueDesc fmt)
    s.dev.sys.coreClock = true ∧ s.dev.sys.core.mq.find? (fun q => q.core == 0 && !q.drain) = some o ∧ s.dev.sys.blk o.block = some b ∧ s.dev.sys.dying b.part b.ring = false
      ∧ o.snap = b.store ∧ (ahead s.dev.sys o).all (fun q => !(q.drain && q.block == o.block && coversOverlap (s.dev.sys.mxCover q) (s.dev.sys.mxCover o))) = true
      ∧ (IssueD.of o.desc).init = true ∧ (IssueD.of o.desc).aFmt = fmt ∧ (IssueD.of o.desc).pair = false := by
  rintro fmt (rfl | rfl) <;> decide +kernel

/-- A drain of an empty tile agrees with its checksums. -/
theorem wit_DrainWritesItsTile :
    let o : MxOp := ⟨3, 0, 0, gid0, 0, true, drainDesc, cellsAt 64 drainDesc, 0, 0, none⟩
    let b : Block := { blk0 [⟨0x88, false, 7, 0, 4, 0, 0, 0⟩] with store := cellsAt 64 drainDesc }
    let s := mxHead true drainDesc
    let x := DrainD.of o.desc
    let cnt := tileGranules x.m x.n 4
    s.dev.sys.coreClock = true ∧ o.out = none ∧ s.dev.sys.core.mq.find? (fun q => q.core == 0 && q.drain) = some o ∧ s.dev.sys.blk o.block = some b
      ∧ s.dev.sys.dying b.part b.ring = false ∧ o.snap = b.store ∧ x.out = 8 ∧ x.mode = 0 ∧ x.sieve = false ∧ b.drainFmt x = 0
      ∧ 4 * x.n ≤ x.dstStr ∧ b.tagsOk x.tile cnt 0 x.m x.n = true ∧ x.clear = true
      ∧ (ahead s.dev.sys o).all (fun q => !(!q.drain && q.block == o.block && coversOverlap (s.dev.sys.mxCover q) (x.tile, cnt))) = true := by
  decide +kernel

/-- The bytes of stack 0, which hold the pieces given in rising order; partition 0's first GiB lies there. -/
def withBytes (s : State) (l : List (Nat × List Byte)) : State := { s with
  dev.mem.dram := setNth s.dev.mem.dram 0 { Stack.reset with trained := true, cells := l.flatMap (fun x => cellsAt x.1 x.2) } }

/-- Ring 0 of partition 0: 64 entries at 1 MiB, completion queue of 64 entries, on queue pair 0. -/
def rec0 : List Byte :=
  natLe 1 1 ++ natLe 1 0 ++ natLe 2 0 ++ natLe 4 64 ++ natLe 8 (2 ^ 20) ++ natLe 8 (2 ^ 15) ++ natLe 4 5 ++ natLe 4 64 ++ zeros 32

/-- The device of `up` with that ring in effect, its queue pair ready, QoS of partition 0 with Kettle on, cores 0 and 1 at sites 3
and 4, and the commands given. -/
def ringUp (cmds : List RCmd) : State := { up with
  dev.sys.mgmt.dict.values := [(0x8010 * 256 + 1, [1] ++ zeros 15), (0x9100 * 256 + 1, rec0)]
  dev.sys.mgmt.bring.coreMap := [3, 4] ++ List.replicate 142 65535
  dev.sys.host.qps := [(0, { Qp.reset with record := natLe 1 1 ++ zeros 63 })]
  dev.sys.host.nextCmd := 20
  dev.sys.host.rings := setNth (List.replicate 64 Ring.reset) 0
    { Ring.reset with inEffect := true, state := 1, cmds := cmds, readIdx := cmds.length, producer := cmds.length } }

/-- A command of a kind with the bytes from offset 16 on, started and not begun. -/
def cmdOf (kind : Nat) (rest : List Byte) : RCmd :=
  ⟨0, 9, natLe 1 kind ++ zeros 7 ++ natLe 8 77 ++ rest ++ zeros (48 - rest.length), false, 1, false, false, false, [], []⟩

theorem coherent_ringUp (cmds : List RCmd) : (ringUp cmds).dev.mem.Coherent := up_coherent

def launch0 (blocks : Nat) : RCmd :=
  cmdOf 1 (natLe 8 0 ++ natLe 4 8 ++ natLe 4 blocks ++ natLe 2 32 ++ natLe 2 16 ++ natLe 4 4096 ++ natLe 2 1 ++ zeros 6 ++ natLe 8 4096)

def grid0 (images : List (Nat × List DWord)) : Grid :=
  { uid := 9, part := 0, ring := 0, cmd := 0, codeAddr := 0, codeBytes := 8, blocks := 2, threads := 32, regsPer := 16, csBytes := 4096,
    accN := 1, argAddr := 4096, nextBlock := 0, ended := 1, images := images }
def placing (images : List (Nat × List DWord)) : State := { ringUp [launch0 2] with dev.sys.core.grids := [grid0 images] }
/-- A block whose threads have exited. -/
def ending : State := { ringUp [{ launch0 2 with begun := true }] with
  dev.sys.core.grids := [grid0 []]
  dev.sys.core.blocks := [blk0 []] }

theorem wit_GridsPlaceAndEndBlocks :
    (∀ n, (ringUp [launch0 n]).dev.mem.Coherent)
    ∧ ((ringUp [launch0 0]).dev.sys.startedCmd 0 0 1 0 = some (launch0 0) ∧ field (launch0 0).bytes 28 4 = 0)
    ∧ ((ringUp [launch0 2]).dev.sys.startedCmd 0 0 1 0 = some (launch0 2) ∧ field (launch0 2).bytes 28 4 = 2
      ∧ fitsEmpty (field (launch0 2).bytes 32 2) (field (launch0 2).bytes 34 2) (field (launch0 2).bytes 36 4) (field (launch0 2).bytes 40 2) = true
      ∧ (ringUp [launch0 2]).dev.sys.coreUsable 0 0 = true)
    ∧ (({ ringUp [launch0 2] with dev.sys.mgmt.bring.coreMap := List.replicate 144 65535 } : State).dev.sys.startedCmd 0 0 1 0 = some (launch0 2)
      ∧ ∀ k < 144, ({ ringUp [launch0 2] with dev.sys.mgmt.bring.coreMap := List.replicate 144 65535 } : State).dev.sys.coreUsable 0 k = false)
    ∧ (∀ im, im = [] ∨ im = [(0, [nopI.word])] →
        (placing im).dev.sys.core.grids.find? (fun x => x.uid == 9) = some (grid0 im) ∧ (placing im).dev.sys.coreRuns = true
        ∧ (placing im).dev.sys.unitStopped 0x0F 0 = false ∧ (placing im).dev.sys.resetting 0 = false ∧ (placing im).dev.sys.dying 0 0 = false
        ∧ (grid0 im).nextBlock < (grid0 im).blocks ∧ (placing im).dev.sys.coreUsable 0 0 = true
        ∧ (placing im).dev.sys.roomFor (grid0 im) 0 [0] = true ∧ (placing im).dev.rangeOk 0 0 8 false = true)
    ∧ (placing []).dev.CleanRange 0 0 8
    ∧ (ending.dev.sys.blk 0 = some (blk0 []) ∧ ending.dev.sys.coreRuns = true ∧ ending.dev.sys.dying 0 0 = false
      ∧ ending.dev.sys.blockDone (blk0 []) = true ∧ ending.dev.sys.core.grids.find? (fun x => x.uid == (blk0 []).uid) = some (grid0 [])
      ∧ (grid0 []).ended + 1 = (grid0 []).blocks) := by
  refine ⟨fun n => coherent_ringUp _, ?_, ?_, ?_, ?_, up_clean 0 0 8, ?_⟩
  · decide +kernel
  · decide +kernel
  · decide +kernel
  · rintro im (rfl | rfl) <;> decide +kernel
  · decide +kernel

/-! ## Kettle engines -/

/-- A GEMV of 1 row of 32 E4M3 weights with 1 vector, a Scale pass of 32 FP32 elements to E4M3 blocks, a root of a 1 by 1 matrix, an
update of rule 1 of one element; their descriptors lie at 4096. -/
def gemv0 : List Byte :=
  natLe 4 (1 + 256 + 2 * 4096) ++ natLe 4 1 ++ natLe 4 32 ++ zeros 4 ++ natLe 8 65536 ++ natLe 4 32 ++ zeros 12 ++ natLe 8 131072
    ++ natLe 8 196608 ++ natLe 4 16 ++ zeros 4
def scale0 : List Byte :=
  natLe 4 (2 + 8 * 256 + 2 * 4096 + 65536) ++ natLe 4 32 ++ natLe 8 65536 ++ natLe 8 131072 ++ natLe 8 196608 ++ zeros 32
def root0 : List Byte := natLe 4 (4 + 256 + 4096) ++ zeros 4 ++ natLe 8 65536 ++ natLe 8 131072 ++ zeros 40
def upd0 : List Byte := natLe 4 (3 + 256) ++ natLe 4 1 ++ natLe 8 8192 ++ natLe 8 12288 ++ zeros 40
def shard0 : List Byte :=
  zeros 16 ++ ((List.range 5).map (fun k => natLe 8 (65536 + 8192 * k) ++ natLe 8 (69632 + 8192 * k))).flatten ++ zeros 96 ++ natLe 2 0
    ++ natLe 2 0xFFFF ++ zeros 60

/-- A task of a command, pending, of a kind with a descriptor. -/
def task0 (kind : Nat) (desc : List Byte) : KTask :=
  { id := 4, owner := 0, part := 0, ring := 0, idx := 0, uid := 9, queue := 0, order := 0, stack := 0, kind := kind, barrier := false,
    addr := 4096, desc := desc, shard := shard0, coef := zeros 64, setting := 0, target := 5, vectors := [], firstVec := 0, phase := 0,
    attempts := 0, status := 0, snap := [], under := [] }
/-- The task as it runs, its sources read. -/
def running (s : State) (x : KTask) : KTask := { x with
  phase := 1
  snap := x.reads.map (fun r => (r.addr, (List.range r.len).map (fun j => s.dev.byteOf x.part (r.addr + j)))) }
def tasked (s : State) (xs : List KTask) : State := { s with dev.sys.host.tasks := xs }

theorem wit_DescriptorsStartAndTakeTurns :
    let x := task0 1 gemv0
    let s := tasked up [x]
    s.dev.mem.Coherent ∧ (s.dev.sys.task? 4 = some x ∧ s.dev.sys.ready = true ∧ s.dev.sys.engineFree x.stack x.kind = true ∧ s.dev.sys.kettleRuns x.stack = true
      ∧ s.dev.sys.taskReady x = true ∧ (s.dev.mem.stack x.stack).trained = true ∧ x.phase = 0)
    ∧ (∀ r ∈ x.reads, s.dev.CleanRange x.part r.addr r.len)
    ∧ ((tasked up [{ x with phase := 2 }]).dev.sys.task? 4 = some { x with phase := 2 }
      ∧ (tasked up [{ x with phase := 2 }]).dev.sys.engineFree 0 1 = true
      ∧ (tasked up [{ x with phase := 2 }]).dev.sys.taskReady { x with phase := 2 } = true)
    ∧ ((tasked up [running up x]).dev.sys.host.tasks.find? (fun t => t.stack == 0 && t.kind == 1 && t.phase == 1) = some (running up x)
      ∧ (running up x).part < 16) :=
  ⟨up_coherent, by decide +kernel, fun r _ => up_clean _ _ _, by decide +kernel, by decide +kernel, by decide +kernel⟩

theorem up_sized : up.dev.sys.Sized := by
  refine ⟨?_, ?_, ?_, ?_, ?_, ?_, ?_, ?_, ?_, ?_, ?_, ?_, ?_, ?_, ?_, ?_, ?_, ?_, ?_, ?_, ?_, ?_, ?_, ?_⟩
  case refine_16 => intro l h; cases h
  all_goals decide +kernel

theorem writable_of {d : Dev} {p : Nat} {ws : List (Nat × List Byte)} (h1 : (d.places p ws).Nodup)
    (h2 : ws.all (fun w => d.rangeOk p w.1 w.2.length true) = true) (h3 : ∀ a n, d.CleanRange p a n) : d.Writable p ws :=
  ⟨h1, fun w hw => ⟨List.all_eq_true.1 h2 w hw, h3 _ _⟩⟩

theorem running_stands (x : KTask) : (tasked up [running up x]).dev.SourcesStand (running up x) := ⟨fun _ _ => up_clean _ _ _, rfl⟩

/-- Destinations that nothing has written since the start, and one that something has. -/
theorem wit_DestsStand :
    let g := running up (task0 1 gemv0)
    let laid (b : List Byte) : KTask := { g with under := [(g.gemv.out, b)] }
    (tasked up [laid (zeros 4)]).dev.DestsStand (laid (zeros 4)) ∧ ¬(tasked up [laid [1]]).dev.DestsStand (laid [1]) := by
  unfold Dev.DestsStand; decide +kernel

/-- Sources of zeros: a GEMV, a Scale pass and an update with the status words they end with. -/
theorem wit_DescriptorsWriteTheirResults :
    let g := running up (task0 1 gemv0)
    let sc := running up (task0 2 scale0)
    let u := running up (task0 3 upd0)
    let rd := readBack
    (∀ x, (tasked up [running up x]).dev.SourcesStand (running up x)) ∧ (∀ xs, (tasked up xs).dev.mem.Coherent)
    ∧ ((tasked up [g]).dev.sys.task? 4 = some g ∧ (tasked up [g]).dev.sys.ready = true ∧ (tasked up [g]).dev.sys.kettleRuns 0 = true ∧ g.gemv.dst = 0)
    ∧ (tasked up [g]).dev.Writable 0 (g.gemv.outs (rd g.snap) g.vectors g.gemv.v ++ [statusWord g.addr 0 0 0])
    ∧ (tasked up [sc]).dev.Writable 0 (((ScaleD.of sc.desc).run (rd sc.snap) sc.setting).writes ++ [statusWord sc.addr
        ((ScaleD.of sc.desc).run (rd sc.snap) sc.setting).status 0 ((ScaleD.of sc.desc).run (rd sc.snap) sc.setting).detail])
    ∧ (tasked up [u]).dev.Writable 0 ((u.upd.run (rd u.snap)).writes ++ [statusWord u.addr
        (if (u.upd.run (rd u.snap)).nonfinite = 0 then 0 else 7) 0 0])
    ∧ (∀ y ∈ (tasked up [g]).dev.sys.host.tasks, g.kin y = true → y.id = 4 ∨ y.phase = 3) := by
  refine ⟨running_stands, fun _ => up_coherent, ?_, writable_of ?_ ?_ (fun _ _ => up_clean _ _ _),
    writable_of ?_ ?_ (fun _ _ => up_clean _ _ _), writable_of ?_ ?_ (fun _ _ => up_clean _ _ _), ?_⟩
  all_goals decide +kernel

/-- The device of `up` whose matrix of one element at 65536 has the FP32 code given. -/
def rootState (code : Nat) : State := withBytes up [(65536, natLe 4 code)]
def rootTask (code attempts : Nat) : KTask := running (rootState code) { task0 4 root0 with attempts := attempts }
def rooted (code attempts : Nat) : State := tasked (rootState code) [rootTask code attempts]
/-- 1 to the power −1, within the unit in the last place that `u` picks. -/
def oneRoot (u : Nat) : Nat := Num.nudge Num.fp64 1 (.fin false (2 ^ 3148) (-3148)) 0x3FF0000000000000 u

set_option exponentiation.threshold 4000 in
theorem root_of_one (u : Nat) :
    [toF32 (dadd 0 (dmul (dmul 0x3FF0000000000000 (oneRoot u)) 0x3FF0000000000000))].all finite32 = true := by
  have h : oneRoot u = oneRoot (u % 3) := by simp [oneRoot, Num.nudge]
  have h3 : u % 3 < 3 := Nat.mod_lt _ (by decide)
  rw [h]
  revert h3
  generalize u % 3 = k
  intro h3
  interval_cases k <;> decide +kernel

set_option exponentiation.threshold 4000 in
set_option maxRecDepth 8000 in
/-- The root of 1 converges at the first attempt, whatever unit in the last place Config gives. -/
theorem root_one : ∃ c, rootAttemptAt (RootD.of root0) (readBack (rootTask 0x3F800000 0).snap) 0 0 = .ok [c] := by
  have h : rootAttemptAt (RootD.of root0) (readBack (rootTask 0x3F800000 0).snap) 0 0 = (fun u =>
      if [toF32 (dadd 0 (dmul (dmul 0x3FF0000000000000 (oneRoot u)) 0x3FF0000000000000))].all finite32 then
        .ok [toF32 (dadd 0 (dmul (dmul 0x3FF0000000000000 (oneRoot u)) 0x3FF0000000000000))]
      else .error 4) (Config.rootUlp 1 0x3FF0000000000000#64) := by with_unfolding_all rfl
  exact ⟨_, by rw [h]; exact if_pos (root_of_one _)⟩

theorem rooted_clean (code n p a k : Nat) : (rooted code n).dev.CleanRange p a k := by
  refine clean_of_sound p a k (fun t ht => ?_) (show ∀ c ∈ up.dev.mem.slices, _ by decide +kernel)
  simp only [rooted, tasked, rootState, withBytes] at ht
  rw [show setNth up.dev.mem.dram 0 ({ Stack.reset with
      trained := true, cells := [(65536, natLe 4 code)].flatMap (fun x => cellsAt x.1 x.2) } : Stack)
    = { Stack.reset with trained := true, cells := [(65536, natLe 4 code)].flatMap (fun x => cellsAt x.1 x.2) }
      :: List.replicate 7 { Stack.reset with trained := true } from rfl] at ht
  rcases List.mem_cons.1 ht with rfl | h
  · rfl
  · rw [(List.mem_replicate.1 h).2]; rfl

/-- A root that converges; one with a NaN, one with a bad trace, one at its tenth attempt and one that is tried again. -/
theorem wit_RootsConvergeOrAreHeld :
    (∀ code n, (rooted code n).dev.sys.task? 4 = some (rootTask code n) ∧ (rootTask code n).owner = 0 ∧ (rootTask code n).phase = 1
      ∧ (rootTask code n).kind = 4 ∧ (rooted code n).dev.SourcesStand (rootTask code n)
      ∧ (rooted code n).dev.DestsStand (rootTask code n))
    ∧ (∀ code, code ∈ [0x3F800000, 0x7FC00000, 0xBF800000, 0] → (rooted code 0).dev.mem.Coherent)
    ∧ (∃ c, rootAttemptAt (RootD.of root0) (readBack (rootTask 0x3F800000 0).snap) 0 0 = .ok [c]
      ∧ (rooted 0x3F800000 0).dev.Writable 0 [((RootD.of root0).r, ([c].map (natLe 4)).flatten), statusWord 4096 0 1 0])
    ∧ rootAttemptAt (RootD.of root0) (readBack (rootTask 0x7FC00000 0).snap) 0 0 = .error 1
    ∧ (rootAttemptAt (RootD.of root0) (readBack (rootTask 0xBF800000 0).snap) 0 0 = .error 2
      ∧ traceBad (RootD.of root0) (readBack (rootTask 0xBF800000 0).snap) = true)
    ∧ rootAttemptAt (RootD.of root0) (readBack (rootTask 0 9).snap) 0 9 = .error 5
    ∧ rootAttemptAt (RootD.of root0) (readBack (rootTask 0 3).snap) 0 3 = .error 5
    ∧ ∀ code ∈ [0x7FC00000, 0xBF800000, 0], ∀ k ∈ [1, 2, 5], (rooted code 0).dev.Writable 0 [statusWord 4096 8 k 1] := by
  refine ⟨fun code n => ⟨?_, rfl, rfl, rfl, ⟨fun _ _ => rooted_clean _ _ _ _ _, rfl⟩, fun r hr => nomatch hr⟩, ?_, ?_, ?_, ⟨?_, ?_⟩, ?_, ?_, ?_⟩
  · simp [rooted, tasked, Sys.task?, rootTask, running, task0]
  · intro code h
    exact coherent_of_cold (by revert code; decide +kernel) rfl rfl
  · obtain ⟨c, hc⟩ := root_one
    have h4 : ([c].map (natLe 4)).flatten.length = 4 := by simp
    refine ⟨c, hc, writable_of ?_ ?_ (rooted_clean _ _ _)⟩
    · have : ∀ bs : List Byte, bs.length = 4 → (rooted 0x3F800000 0).dev.places 0 [(131072, bs), statusWord 4096 0 1 0]
          = (rooted 0x3F800000 0).dev.places 0 [(131072, zeros 4), statusWord 4096 0 1 0] := fun bs h => by
        simp only [Dev.places, List.flatMap_cons, h, zeros_length]
      rw [show (RootD.of root0).r = 131072 from by decide +kernel, this _ h4]
      decide +kernel
    · simp only [List.all_cons, h4]
      decide +kernel
  all_goals first | decide +kernel | skip
  intro code h k hk
  exact writable_of (by revert code k; decide +kernel) (by revert code k; decide +kernel) (rooted_clean _ _ 0)

/-- A ring with a command and stack 0's bytes as given. -/
def ringWith (cmds : List RCmd) (l : List (Nat × List Byte)) : State := withBytes (ringUp cmds) l
def kettleOff (s : State) : State := { s with dev.sys.mgmt.dict.values := [(0x8010 * 256 + 1, zeros 16), (0x9100 * 256 + 1, rec0)] }

/-- The stacks of a state whose stack 0 alone was given bytes hold no poison. -/
theorem with_clean {s : State} {cells : List Host.Cell}
    (h : s.dev.mem.dram = { Stack.reset with trained := true, cells := cells } :: List.replicate 7 { Stack.reset with trained := true })
    (hs : s.dev.mem.slices = List.replicate 8 Slice.reset) (p a n : Nat) : s.dev.CleanRange p a n := by
  refine clean_of_sound p a n (fun t ht => ?_) (fun c hc l hl => ?_)
  · rw [h] at ht
    rcases List.mem_cons.1 ht with rfl | hr
    · rfl
    · rw [(List.mem_replicate.1 hr).2]; rfl
  · rw [hs] at hc; rw [(List.mem_replicate.1 hc).2] at hl; cases hl

def gemvCmd (n : Nat) : RCmd := cmdOf 5 (natLe 8 1 ++ natLe 8 4096 ++ natLe 4 n)
def scaleCmd (n : Nat) : RCmd := cmdOf 2 (natLe 8 2 ++ natLe 8 4096 ++ zeros 8 ++ natLe 8 n)
def gemvRing (n : Nat) : State := ringWith [gemvCmd n] [(4096, gemv0)]
def scaleRing (n : Nat) : State := ringWith [scaleCmd n] [(4096, scale0)]

theorem wit_ListsAreCheckedWhole :
    (∀ n, (gemvRing n).dev.sys.startedCmd 0 0 5 1 = some (gemvCmd n) ∧ (scaleRing n).dev.sys.startedCmd 0 0 2 2 = some (scaleCmd n))
    ∧ (∀ n, (gemvRing n).dev.mem.Coherent ∧ (scaleRing n).dev.mem.Coherent)
    ∧ (∀ n p a k, (gemvRing n).dev.CleanRange p a k ∧ (scaleRing n).dev.CleanRange p a k)
    ∧ (field (gemvCmd 2).bytes 32 4 = 2 ∧ field (gemvCmd 1).bytes 24 8 = 4096 ∧ field (scaleCmd 1).bytes 40 8 = 1)
    ∧ ((gemvRing 2).dev.listPoison 0 false 4096 2 = none ∧ (scaleRing 2).dev.listPoison 0 false 4096 2 = none)
    ∧ ((gemvRing 1).dev.checkDesc 0 false false [1] ((List.range 64).map (fun j => (gemvRing 1).dev.byteOf 0 (4096 + j)))).fail = none
    ∧ ((scaleRing 1).dev.checkDesc 0 false false [2] ((List.range 64).map (fun j => (scaleRing 1).dev.byteOf 0 (4096 + j)))).fail = none
    ∧ ((gemvRing 2).dev.checkDesc 0 false false [1] ((List.range 64).map (fun j => (gemvRing 2).dev.byteOf 0 (4160 + j)))).fail ≠ none
    ∧ field ((gemvRing 0).dev.sys.qos 0) 0 1 = 1 ∧ field ((kettleOff (gemvRing 0)).dev.sys.qos 0) 0 1 = 0 := by
  refine ⟨fun n => ⟨?_, ?_⟩, fun n => ⟨coherent_of_cold ?_ rfl rfl, coherent_of_cold ?_ rfl rfl⟩,
    fun n p a k => ⟨with_clean rfl rfl p a k, with_clean rfl rfl p a k⟩, ?_, ?_, ?_, ?_, ?_, ?_⟩
  · rfl
  · rfl
  · exact (by decide +kernel : (gemvRing 0).dev.mem.wf = true)
  · exact (by decide +kernel : (scaleRing 0).dev.mem.wf = true)
  all_goals decide +kernel

/-! ## Decode queues -/

/-- A GEMV with queue vectors, and a binding of stack 0 with K = 32 and threshold 2. -/
def gemvQ : List Byte :=
  natLe 4 (1 + 256 + 2 * 4096 + 2 ^ 18) ++ natLe 4 1 ++ natLe 4 32 ++ zeros 4 ++ natLe 8 65536 ++ natLe 4 32 ++ zeros 20 ++ natLe 8 196608
    ++ natLe 4 16 ++ zeros 4
def binding0 : List Byte := natLe 4 1 ++ natLe 4 32 ++ natLe 1 2 ++ zeros 23 ++ natLe 8 4096 ++ zeros 88

def queue0 (takes : List Take) (pushes : List Push) (cur : List PushVec) (released : List Batch) (claimed : List Claimed) : DecodeQueue :=
  { DecodeQueue.reset with
    isOpen := true, t := 2, b := 1800, binding := binding0, descs := [(0, gemvQ)], takeSize := 320, rows := 1
    takes := takes, pushes := pushes, cur := cur, released := released, claimed := claimed }

def openCmd : RCmd := cmdOf 5 ([2, 0] ++ zeros 6 ++ natLe 8 8192)
def openRing : State := ringWith [openCmd] [(4096, gemvQ), (8192, binding0)]
def closeCmd : RCmd := cmdOf 5 ([3, 0] ++ zeros 6)
def take0 : Take := ⟨3, gid0, 0, 0, 64, 4⟩
def closeRing (q : DecodeQueue) : State := { ringUp [closeCmd] with
  dev.sys.host.queues := setNth (List.replicate 16 DecodeQueue.reset) 0 q
  dev.sys.core.blocks := [blk0 []] }

theorem ringUp_sized (cs : List RCmd) : (ringUp cs).dev.sys.Sized := by
  refine ⟨?_, ?_, ?_, ?_, ?_, ?_, ?_, ?_, ?_, ?_, ?_, ?_, ?_, ?_, ?_, ?_, ?_, ?_, ?_, ?_, ?_, ?_, ?_, ?_⟩
  case refine_16 => intro l h; cases h
  case refine_12 => exact up_sized.2.2.2.2.2.2.2.2.2.2.2.1
  all_goals rfl

theorem closeRing_ok (q : DecodeQueue) : (closeRing q).dev.sys.core.Ok := by
  refine ⟨List.nodup_nil, (fun x hx => nomatch hx), ?_, (fun x hx => nomatch hx), (fun x hx => nomatch hx), flight_of_empty rfl rfl⟩
  intro x hx; obtain rfl := List.mem_singleton.1 hx; exact ⟨rfl, rfl⟩

theorem wit_OpensQueue : openRing.dev.OpensQueue 0 openCmd binding0 2 (openRing.dev.sys.cfgN 0x4300 1) := by
  refine ⟨with_clean rfl rfl _ _ _, ?_, ?_, rfl, ?_, ?_, ?_, ?_, fun st hst => ?_, ?_, ?_⟩
  case refine_7 =>
    obtain rfl : st = 0 := by
      have : st ∈ [0] := (by decide +kernel : bindStacks binding0 = [0]) ▸ hst
      exact List.mem_singleton.1 this
    refine ⟨?_, ?_, with_clean rfl rfl _ _ _, ?_, ?_, ?_, ?_, fun st' h' => ?_⟩
    case refine_7 =>
      obtain rfl : st' = 0 := by
        have : st' ∈ [0] := (by decide +kernel : bindStacks binding0 = [0]) ▸ h'
        exact List.mem_singleton.1 this
      exact ⟨rfl, rfl, rfl, rfl, .inl rfl⟩
    all_goals decide +kernel
  all_goals decide +kernel

theorem wit_DecodeQueuesOpenAndClose :
    openRing.dev.sys.startedCmd 0 0 5 2 = some openCmd ∧ openRing.dev.mem.Coherent ∧ (ringUp [openCmd]).dev.sys.Sized
    ∧ field ((kettleOff openRing).dev.sys.qos 0) 0 1 = 0
    ∧ (∀ q, (closeRing q).dev.sys.startedCmd 0 0 5 3 = some closeCmd ∧ (closeRing q).dev.sys.core.Ok ∧ (closeRing q).dev.mem.Coherent)
    ∧ ((closeRing DecodeQueue.reset).dev.sys.queue 0).isOpen = false
    ∧ (((closeRing (queue0 [] [] [] [] [⟨take0, ⟨0, 0, []⟩, 0, 1, [], binding0, 1⟩])).dev.sys.queue 0).claimed ≠ [])
    ∧ ((closeRing (queue0 [take0] [] [] [] [])).dev.sys.queue 0 = queue0 [take0] [] [] [] []
      ∧ (closeRing (queue0 [take0] [] [] [] [])).dev.sys.blk 0 = some (blk0 []) ∧ overlaps take0.counter 4 take0.buf 320 = false) := by
  refine ⟨by decide +kernel, coherent_of_cold (by decide +kernel) rfl rfl, ringUp_sized _, by decide +kernel,
    fun q => ⟨rfl, closeRing_ok q, up_coherent⟩, by decide +kernel, by decide +kernel, by decide +kernel, by decide +kernel, by decide +kernel⟩

/-- A thread at `dq.push` or `dq.take` of queue 0, its source or buffer at `a` and its counter at 4. -/
def dqAt (op a : Nat) (q : DecodeQueue) : State := { one ⟨op, false, 7, 2, 4, if op = 0x8C then 6 else 0, 0, 0⟩ [(2, 4), (4, a), (6, 99)] with
  dev.sys.host.queues := setNth (List.replicate 16 DecodeQueue.reset) 0 q }

theorem dqAt_ok (op a : Nat) (q : DecodeQueue) : (dqAt op (a + 1) q).dev.sys.core.Ok :=
  ok_of (code := [_]) (g := grp0 _) rfl rfl (by simp [grp0, NMap.wf]) rfl (by show (1#32 &&& ~~~1#32) = 0; decide) rfl rfl (flight_of_empty rfl rfl)

theorem wit_PushesAndTakesWait :
    let q := queue0 [] [] [] [] []
    let placed (i : Issue) (n : Nat) : Bool := i.act == [0] && decide (i.grp.reg 0 i.inst.a % 16 = 0 ∧ i.grp.reg 0 i.inst.a + n ≤ i.blk.csBytes
      ∧ i.grp.reg 0 i.inst.d % 4 = 0 ∧ i.grp.reg 0 i.inst.d + 4 ≤ i.blk.csBytes)
      && !overlaps (i.grp.reg 0 i.inst.d) 4 (i.grp.reg 0 i.inst.a) n
    goes (one ⟨0x8C, false, 1, 2, 4, 6, 0, 0⟩ []) 0x8C (fun i => i.act == []) = true
    ∧ goes (one ⟨0x8D, false, 1, 2, 4, 0, 0, 0⟩ []) 0x8D (fun i => i.act == []) = true
    ∧ goes (held ⟨0x8C, false, 7, 2, 4, 6, 0, 0⟩ [(4, 64)]) 0x8C (fun i => i.act == [0] && fenceHeld i (held ⟨0x8C, false, 7, 2, 4, 6, 0, 0⟩ [(4, 64)]).dev) = true
    ∧ goes (held ⟨0x8D, false, 7, 2, 4, 0, 0, 0⟩ [(4, 64)]) 0x8D (fun i => i.act == [0] && fenceHeld i (held ⟨0x8D, false, 7, 2, 4, 0, 0, 0⟩ [(4, 64)]).dev) = true
    ∧ goes (dqAt 0x8C 64 q) 0x8C (fun i => placed i (2 * q.k) && i.inst.mod % 16 == 0) = true
    ∧ goes (dqAt 0x8C 64 DecodeQueue.reset) 0x8C (fun i => i.act == [0] && i.inst.mod % 16 == 0) = true
    ∧ goes (dqAt 0x8C 72 q) 0x8C (fun i => i.act == [0] && i.inst.mod % 16 == 0 && !placed i (2 * q.k)) = true
    ∧ goes (dqAt 0x8D 64 q) 0x8D (fun i => placed i q.takeSize && i.inst.mod % 16 == 0) = true
    ∧ goes (dqAt 0x8D 64 DecodeQueue.reset) 0x8D (fun i => i.act == [0] && i.inst.mod % 16 == 0) = true
    ∧ goes (dqAt 0x8D 72 q) 0x8D (fun i => i.act == [0] && i.inst.mod % 16 == 0 && !placed i q.takeSize) = true
    ∧ (∀ op ∈ [0x8C, 0x8D], ∀ a ∈ [64, 72], ∀ x ∈ [q, DecodeQueue.reset],
        (dqAt op a x).dev.sys.asyncRoom gid0 1 = true ∧ (dqAt op a x).dev.sys.queue 0 = x)
    ∧ (q.isOpen = true ∧ q.part = 0 ∧ DecodeQueue.reset.isOpen = false)
    ∧ ∀ op a x, (dqAt op (a + 1) x).dev.sys.core.Ok := by
  refine ⟨?_, ?_, ?_, ?_, ?_, ?_, ?_, ?_, ?_, ?_, ?_, ?_, fun op a x => dqAt_ok op a x⟩ <;> decide +kernel

def push0 : Push := ⟨3, gid0, 0, 0, 64, 4, 99, zeros 64⟩
def vec0 : PushVec := ⟨7, zeros 64⟩
def batch0 (n : Nat) : Batch := ⟨0, 0, List.replicate n vec0⟩
def claimed0 : Claimed := ⟨take0, batch0 2, 0, 1, [], binding0, 1⟩
/-- A queue with its block resident. -/
def queued (q : DecodeQueue) : State := { up with
  dev.sys.host.queues := setNth (List.replicate 16 DecodeQueue.reset) 0 q
  dev.sys.core.blocks := [blk0 []] }
/-- The same queue on the array's path, its input buffer at 256 KiB. -/
def arrayQueue (bt : Batch) : DecodeQueue := { queue0 [take0] [] [] [bt] [] with
  t := 16, binding := natLe 4 (1 + 2 * 256) ++ natLe 4 32 ++ natLe 1 16 ++ zeros 7 ++ natLe 8 262144 ++ zeros 8 ++ natLe 8 4096 ++ zeros 88 }

theorem arrayBuffer_nodup : ((queued (arrayQueue (batch0 16))).dev.places 0 [(262144, zeros 1024)]).Nodup := by
  rw [show (queued (arrayQueue (batch0 16))).dev.places 0 [(262144, zeros 1024)] = (List.range 1024).map (fun j => (0, 262144 + j)) from by
    decide +kernel]
  exact List.nodup_range.map (fun a b h => by simpa using h)

theorem wit_BatchesFormAndAreTaken :
    (∀ q, (queued q).dev.sys.core.Ok ∧ (queued q).dev.mem.Coherent ∧ (queued q).dev.sys.ready = true ∧ (queued q).dev.sys.queue 0 = q
      ∧ (queued q).dev.sys.blk 0 = some (blk0 []) ∧ (queued q).dev.sys.dying 0 0 = false)
    ∧ (∀ cur, cur = [] ∨ cur = [vec0] → (queue0 [] [push0] cur [] []).held < 2 * (queue0 [] [push0] cur [] []).t
        ∧ push0.data.length = 2 * (queue0 [] [push0] cur [] []).k ∧ push0.part = (queue0 [] [push0] cur [] []).part)
    ∧ push0.data = (queued (queue0 [] [push0] [] [] [])).dev.sys.csRead 0 64 64
    ∧ (queue0 [] [] [vec0] [] []).cur ≠ []
    ∧ arrayPath (bindOverride binding0) 0 (batch0 2).vecs.length = false
    ∧ (arrayPath (bindOverride (arrayQueue (batch0 16)).binding) 0 (batch0 16).vecs.length = true
      ∧ field (arrayQueue (batch0 16)).binding 16 8 = 262144)
    ∧ (∀ a n, (queued (arrayQueue (batch0 16))).dev.CleanRange 0 a n)
    ∧ ((queued (arrayQueue (batch0 16))).dev.rangeOk 0 262144 1024 true = true
      ∧ ((queued (arrayQueue (batch0 16))).dev.places 0 [(262144, zeros 1024)]).Nodup)
    ∧ ((queue0 [] [] [] [] [claimed0]).claimed.find? (fun c => c.take.id == 3) = some claimed0 ∧ claimed0.results = []
      ∧ (queued (queue0 [] [] [] [] [claimed0])).dev.sys.host.tasks = [] ∧ overlaps take0.counter 4 take0.buf 320 = false
      ∧ claimed0.batch.vecs.length ≤ 64) := by
  refine ⟨fun q => ⟨closeRing_ok q, up_coherent, by rfl, by rfl, by rfl, by rfl⟩, ?_, ?_, ?_, ?_, ?_, fun a n => up_clean 0 a n, ⟨?_, arrayBuffer_nodup⟩, ?_⟩
  · rintro cur (rfl | rfl) <;> decide +kernel
  all_goals decide +kernel

/-! ## Command rings -/

/-- Ring 0 changed, and the bytes of stack 0. -/
def onRing0 (s : State) (f : Ring → Ring) : State := { s with dev.sys.host.rings := modNth s.dev.sys.host.rings 0 f }
/-- Ring 0 stopped, a restart at its index 0 on its page, one command written. -/
def restarting : State := withBytes (onRing0 (ringUp []) (fun g => { g with state := 4, stop := 1 })) [(2 ^ 20, natLe 8 1), (2 ^ 20 + 16, natLe 8 1)]
/-- Ring 0's page at an address that does not translate. -/
def badPage : State := { ringUp [] with
  dev.sys.mgmt.dict.values := [(0x9100 * 256 + 1, rec0.take 8 ++ natLe 8 (2 ^ 32) ++ rec0.drop 16)] }

theorem wit_DoorbellPagesAreRead :
    ((ringUp []).dev.mem.Coherent ∧ (ringUp []).dev.sys.Sized ∧ (ringUp []).dev.sys.serves 0 = true
      ∧ (ringUp []).dev.rangeOk 0 (2 ^ 20) 4096 true = true ∧ (∀ n, (ringUp []).dev.CleanRange 0 (2 ^ 20) n)
      ∧ ((ringUp []).dev.sys.ring 0).state ≠ 4 ∧ ringAddr ((ringUp []).dev.sys.ringRec 0) = 2 ^ 20 ∧ (ringUp []).dev.sys.ringPart 0 = 0)
    ∧ (restarting.dev.mem.Coherent ∧ restarting.dev.sys.serves 0 = true ∧ restarting.dev.numAt 0 (2 ^ 20 + 16) 8 = 1
      ∧ (restarting.dev.sys.ring 0).state = 4 ∧ (restarting.dev.sys.ring 0).cmds = [] ∧ restarting.dev.sys.dying 0 0 = false
      ∧ (restarting.dev.sys.ring 0).stop ≠ 4 ∧ (restarting.dev.sys.ring 0).readIdx ≤ 1 - 1 + ringEntries (restarting.dev.sys.ringRec 0)
      ∧ 1 - 1 ≤ restarting.dev.numAt 0 (2 ^ 20) 8)
    ∧ (badPage.dev.sys.serves 0 = true ∧ badPage.dev.rangeOk 0 (2 ^ 32) 4096 true = false
      ∧ ringAddr (badPage.dev.sys.ringRec 0) = 2 ^ 32 ∧ (badPage.dev.sys.ring 0).state ≠ 4)
    ∧ ((List.range 64).filter (ringUp []).dev.sys.serves = [0]) := by
  refine ⟨⟨up_coherent, ringUp_sized _, ?_, ?_, fun n => up_clean _ _ n, ?_, ?_, ?_⟩, ⟨coherent_of_cold ?_ rfl rfl, ?_, ?_, ?_, ?_, ?_, ?_, ?_, ?_⟩,
    ?_, ?_⟩
  all_goals decide +kernel

def waitCmd (kind : Nat) (rest : List Byte) : RCmd := { cmdOf kind rest with phase := 0 }
/-- One command written and not yet read; the bytes of its slot. -/
def toRead (producer : Nat) (bs : List Byte) : State := withBytes (onRing0 (ringUp []) (fun g => { g with producer := producer })) [(2 ^ 20 + 4096, bs)]
def noQp (s : State) : State := { s with dev.sys.host.qps := [] }
def signalCmd : RCmd := cmdOf 7 ([1] ++ zeros 7 ++ natLe 8 4096 ++ natLe 8 55)

theorem wit_CommandsAreReadAndStarted :
    let g (s : State) := s.dev.sys.ring 0
    (∀ n ≤ 65, ∀ bs ∈ [[], signalCmd.bytes], (toRead n bs).dev.mem.wf = true ∧ (toRead n bs).dev.sys.serves 0 = true
      ∧ (g (toRead n bs)).state ≠ 4 ∧ (toRead n bs).dev.sys.dying 0 0 = false ∧ (g (toRead n bs)).held = false
      ∧ (g (toRead n bs)).started.length < 64 ∧ (g (toRead n bs)).readIdx = 0 ∧ (g (toRead n bs)).producer = n)
    ∧ ((0 ≤ 0 ∧ 0 ≤ (g (toRead 0 [])).oldest + ringEntries rec0) ∧ (64 ≤ (g (toRead 64 [])).oldest + ringEntries rec0)
      ∧ ¬65 ≤ (g (toRead 65 [])).oldest + ringEntries rec0)
    ∧ ((noQp (toRead 1 [])).dev.sys.ringQpReady 0 = false ∧ (toRead 1 []).dev.sys.ringQpReady 0 = true
      ∧ (toRead 1 []).dev.rangeOk 0 (2 ^ 20 + 4096) 64 true = true)
    ∧ (toRead 1 signalCmd.bytes).dev.commandOk 0 ((List.range 64).map (fun j => (toRead 1 signalCmd.bytes).dev.byteOf 0 (2 ^ 20 + 4096 + j))) = true
    ∧ (toRead 1 []).dev.commandOk 0 ((List.range 64).map (fun j => (toRead 1 []).dev.byteOf 0 (2 ^ 20 + 4096 + j))) = false
    ∧ (∀ n bs a k, (toRead n bs).dev.CleanRange 0 a k)
    ∧ ((g (ringUp [{ signalCmd with phase := 0 }])).cmds.find? (fun x => x.phase == 0) = some { signalCmd with phase := 0 }
      ∧ (ringUp [{ signalCmd with phase := 0 }]).dev.startWaits 0 [] { signalCmd with phase := 0 } = false
      ∧ { signalCmd with phase := 0 }.kind ≠ 2) := by
  refine ⟨?_, ?_, ?_, ?_, ?_, fun n bs a k => with_clean rfl rfl 0 a k, ?_⟩ <;> decide +kernel

def fenceCmd (scope : Nat) : RCmd := cmdOf 6 (natLe 1 scope)
def eventCmd (op v : Nat) (begun : Bool) : RCmd := { cmdOf 7 (natLe 1 op ++ zeros 7 ++ natLe 8 4096 ++ natLe 8 v) with begun := begun }

/-- A fence that comes first, one behind an earlier command, a signal, a wait reached and one not reached, each before and after its
row has begun. -/
theorem wit_FencesAndEventsComplete :
    (∀ sc < 2, (ringUp [fenceCmd sc]).dev.sys.startedCmd 0 0 6 0 = some (fenceCmd sc) ∧ (fenceCmd sc).op = sc
      ∧ (ringUp [fenceCmd sc]).dev.sys.fab.fences = [] ∧ ((ringUp [fenceCmd sc]).dev.sys.ring 0).cmds.head? = some (fenceCmd sc)
      ∧ (ringUp [fenceCmd sc]).dev.sys.uidsLive (fenceCmd sc).waits = false
      ∧ (ringUp [{ signalCmd with uid := 8, idx := 1 }, fenceCmd sc]).dev.sys.startedCmd 0 0 6 0 = some (fenceCmd sc)
      ∧ ((ringUp [{ signalCmd with uid := 8, idx := 1 }, fenceCmd sc]).dev.sys.ring 0).cmds.head? ≠ some (fenceCmd sc))
    ∧ ((ringUp [eventCmd 1 55 false]).dev.sys.startedCmd 0 0 7 1 = some (eventCmd 1 55 false)
      ∧ (ringUp [eventCmd 1 55 false]).dev.rangeOk 0 4096 8 true = true)
    ∧ (ringUp [eventCmd 1 55 false]).dev.Writable 0 [(4096, natLe 8 55)]
    ∧ (∀ v < 2, (ringUp [eventCmd 2 v false]).dev.sys.startedCmd 0 0 7 2 = some (eventCmd 2 v false)
      ∧ (ringUp [eventCmd 2 v false]).dev.rangeOk 0 4096 8 false = true ∧ (eventCmd 2 v false).begun = false
      ∧ (((ringUp [eventCmd 2 v false]).dev.numAt 0 4096 8 : Int) - field (eventCmd 2 v false).bytes 32 8) % 2 ^ 64
          = if v = 0 then 0 else 2 ^ 64 - 1)
    ∧ (∀ v < 2, (ringUp [eventCmd 2 v true]).dev.sys.serves 0 = true ∧ (ringUp [eventCmd 2 v true]).dev.sys.dying 0 0 = false
      ∧ ((ringUp [eventCmd 2 v true]).dev.sys.ring 0).cmds.find? (fun x => x.phase == 1 && x.begun && x.kind == 7 && x.op == 2)
        = some (eventCmd 2 v true))
    ∧ ∀ cs a n, (ringUp cs).dev.CleanRange 0 a n :=
  ⟨by decide +kernel, by decide +kernel, writable_of (by decide +kernel) (by decide +kernel) (fun _ _ => up_clean _ _ _), by decide +kernel,
    by decide +kernel, fun _ a n => up_clean 0 a n⟩

def copyCmd (op a b n : Nat) : RCmd := cmdOf 2 (natLe 1 op ++ zeros 7 ++ natLe 8 a ++ natLe 8 b ++ natLe 8 n ++ natLe 4 66)
def rec1 : CRec := ⟨1, 9, 77, 0, 0, 2, 0⟩
def recording : State := onRing0 (ringUp []) (fun g => { g with records := [rec1] })
/-- Queue pair 0 with `n` reads outstanding. -/
def readsOut (s : State) (n : Nat) : State := { s with
  dev.sys.host.qps := [(0, { Qp.reset with record := natLe 1 1 ++ zeros 63, outstanding := List.replicate n ⟨true, 0, 0, [], 8, 1, none, 0⟩ })] }

theorem wit_CopiesAndRecordsGoOut :
    let s := ringUp [copyCmd 1 4096 8192 16]
    (s.dev.sys.startedCmd 0 0 2 1 = some (copyCmd 1 4096 8192 16) ∧ s.dev.rangeOk 0 4096 16 false = true
      ∧ s.dev.rangeOk 0 8192 16 true = true)
    ∧ s.dev.Writable 0 [(8192, (List.range 16).map (fun j => s.dev.byteOf 0 (4096 + j)))]
    ∧ (∀ n, n = 0 ∨ n = 16 → (ringUp [copyCmd 4 4096 0 n]).dev.sys.startedCmd 0 0 2 4 = some (copyCmd 4 4096 0 n)
      ∧ (ringUp [copyCmd 4 4096 0 n]).dev.sys.ringQpReady 0 = true ∧ (ringUp [copyCmd 4 4096 0 n]).dev.rangeOk 0 4096 n false = true
      ∧ (ringUp [copyCmd 5 0 8192 n]).dev.sys.startedCmd 0 0 2 5 = some (copyCmd 5 0 8192 n))
    ∧ (((readsOut (ringUp [copyCmd 5 0 8192 16]) 15).dev.sys.qp 0).outstanding.filter QpReq.read).length = 15
    ∧ ((readsOut (ringUp [copyCmd 5 0 8192 16]) 16).dev.sys.startedCmd 0 0 2 5 = some (copyCmd 5 0 8192 16)
      ∧ (((readsOut (ringUp [copyCmd 5 0 8192 16]) 16).dev.sys.qp 0).outstanding.filter QpReq.read).length = 16)
    ∧ (recording.dev.sys.coreRuns = true ∧ (recording.dev.sys.ring 0).inEffect = true ∧ recording.dev.sys.unitStopped 0x0F 0 = false
      ∧ (recording.dev.sys.ring 0).records = [rec1] ∧ recording.dev.sys.core.stores = []
      ∧ rec1.seq ≤ (recording.dev.sys.ring 0).consumed + field (recording.dev.sys.ringRec 0) 28 4 ∧ recording.dev.sys.ringQpReady 0 = true
      ∧ (noQp recording).dev.sys.ringQpReady 0 = false) := by
  refine ⟨?_, writable_of ?_ ?_ (fun _ _ => up_clean _ _ _), ?_, ?_, ?_, ?_⟩
  case refine_4 => rintro n (rfl | rfl) <;> decide +kernel
  all_goals decide +kernel


/-! ## Parameter update -/

/-- The basic record of slot 0: partition 0, one rank, coordinator fabric ID 1, non-finite policy `nf`. -/
def slotRec0 (nf : Nat) : List Byte := natLe 1 1 ++ zeros 3 ++ natLe 4 1 ++ zeros 32 ++ natLe 4 1 ++ natLe 1 0 ++ natLe 1 nf ++ zeros 18

/-- A ring, fabric ID 1 with role 2, slot 0 with the rank given as its one owner, and the block manager at 1. -/
def slotUp (cmds : List RCmd) (nf rank : Nat) (e : Epoch) : State := { ringUp cmds with
  dev.sys.mgmt.dict.values := [(0x6110 * 256 + 1, natLe 1 2), (0x6110 * 256 + 2, natLe 1 1), (0x6110 * 256 + 5, natLe 1 1),
    (0x7000 * 256 + 1, slotRec0 nf), (0x7412 * 256 + 1, natLe 4 (2 ^ 31 + 1)), (0x8010 * 256 + 1, [1] ++ zeros 15), (0x9100 * 256 + 1, rec0)]
  dev.sys.fab.slots := setNth (List.replicate 8 Slot.reset) 0 { Slot.reset with ranks := [rank] }
  dev.sys.fab.epochs := setNth (List.replicate 8 Epoch.reset) 0 e }

def updCmd (mode target n : Nat) (checked : Bool) : RCmd :=
  { cmdOf 4 (natLe 1 0 ++ natLe 1 mode ++ zeros 6 ++ natLe 8 target ++ natLe 8 4096 ++ natLe 4 n) with checked := checked }
/-- An UPDATE of one descriptor of rule 1, its shard record in place. -/
def updState (mode target : Nat) (checked : Bool) (e : Epoch) : State :=
  withBytes (slotUp [updCmd mode target 1 checked] 0 1 e) [(4096, upd0), (8192, shard0)]

theorem updState_clean (m t : Nat) (c : Bool) (e : Epoch) (p a n : Nat) : (updState m t c e).dev.CleanRange p a n := with_clean rfl rfl p a n

/-- Each command in its mode with a target that passes and one that does not; a checked step whose machine is busy, and one that starts. -/
theorem wit_UpdatesAreCheckedAndStart :
    (∀ mode ∈ [1, 2], ∀ target ∈ [0, 1, 9], ∀ c : Bool, ∀ e ∈ [Epoch.reset, { Epoch.reset with state := 2 }],
      (updState mode target c e).dev.sys.startedCmd 0 0 4 0 = some (updCmd mode target 1 c) ∧ (updState mode target c e).dev.sys.epoch 0 = e
      ∧ (updState mode target c e).dev.mem.wf = true)
    ∧ ((updCmd 1 1 1 false).op = 0 ∧ field (updCmd 1 1 1 false).bytes 17 1 = 1 ∧ field (updCmd 1 1 1 false).bytes 24 8 = 1
      ∧ field (updCmd 1 9 1 false).bytes 24 8 = 9 ∧ field (updCmd 2 0 1 false).bytes 17 1 = 2)
    ∧ (let s := updState 1 1 false Epoch.reset
      s.dev.sys.slotOn 0 = true ∧ s.dev.sys.slotPart 0 = 0 ∧ s.dev.sys.bmValid = true
        ∧ bits (field ((List.range 64).map (fun j => s.dev.byteOf 0 (4096 + j))) 0 4) 3 0 = 3)
    ∧ (let s := updState 1 1 true Epoch.reset
      field (s.dev.sys.qos 0) 0 1 ≠ 0 ∧ s.dev.listPoison 0 false 4096 1 = none ∧ s.dev.sys.host.tasks = []
        ∧ (s.dev.checkDesc 0 false false [3, 4] ((List.range 64).map (fun j => s.dev.byteOf 0 (4096 + j)))).fail = none)
    ∧ ∀ m t c e p a n, (updState m t c e).dev.CleanRange p a n := by
  refine ⟨?_, ?_, ?_, ?_, updState_clean⟩ <;> decide +kernel

/-- A control record from fabric ID 1 at the head of the queue. -/
def ctrlState (nf rank ctype : Nat) (payload : List Byte) (e : Epoch) : State := { slotUp [] nf rank e with
  dev.sys.fab.ctrlIn := [⟨1, ctype, payload⟩] }
def gathered (slot target : Nat) (sent : Bool) : Gather := ⟨slot, target, 0, [], sent⟩
def withVotes (s : State) (o b : List Gather) : State := { s with
  dev.sys.fab.ownerVotes := o
  dev.sys.fab.blockVotes := b }

theorem wit_VotesBecomeDecisions :
    let v (vote flags : Nat) := voteBytes 0 vote flags 1 5 1 0
    let s (nf rank k vote flags : Nat) := ctrlState nf rank k (v vote flags) Epoch.reset
    ((s 0 1 1 1 0).dev.sys.mgmtUp = true ∧ (s 0 1 1 1 0).dev.sys.role = 2 ∧ (s 0 1 1 1 0).dev.sys.slotOn 0 = true
      ∧ (s 0 1 1 1 0).dev.sys.blockOwners 0 = [1] ∧ recSlot (v 1 0) = 0 ∧ field (v 2 0) 1 1 = 2 ∧ field (v 1 0) 8 8 = 5)
    ∧ (s 0 4 1 1 0).dev.sys.blockOwners 0 = []
    ∧ ({ s 0 1 1 1 0 with dev.sys.fab.slots := setNth (List.replicate 8 Slot.reset) 0 { Slot.reset with ranks := [1, 2] } } : State).dev.sys.blockOwners 0
        = [1, 2]
    ∧ (decidedBefore [] 0 5 0 = false ∧ decidedBefore [gathered 0 5 true] 0 5 0 = true)
    ∧ ((s 0 1 2 1 0).dev.sys.fidValid = true ∧ (s 0 1 2 1 0).dev.sys.coordinator 0 = (s 0 1 2 1 0).dev.sys.fid ∧ (s 0 1 2 1 0).dev.sys.fid = 1
      ∧ blockOf 1 ∈ ((s 0 1 2 1 0).dev.sys.ranks 0).map blockOf ∧ (∀ f ∈ (s 0 1 2 1 0).dev.sys.ranks 0, blockOf f = blockOf 1)
      ∧ field ((s 1 1 2 1 1).dev.sys.slotRec 0) 45 1 = 1 ∧ field (v 1 1) 2 1 % 2 = 1
      ∧ blockOf 1 ∉ ((s 0 4 2 1 0).dev.sys.ranks 0).map blockOf)
    ∧ ((withVotes (s 0 1 1 1 0) [gathered 0 5 false] []).dev.sys.fab.ownerVotes.find? (fun x => x.slot == 0 && !x.sent) = some (gathered 0 5 false)
      ∧ (withVotes (s 0 1 1 1 0) [] [gathered 0 5 false]).dev.sys.fab.blockVotes.find? (fun x => x.slot == 0 && !x.sent)
        = some (gathered 0 5 false)) := by decide +kernel

/-- The machine of slot 0 in a state, waiting for the decision on its target 5. -/
def epochIn (st : Nat) : Epoch := { Epoch.reset with state := st, target := 5, committed := 4, part := 0, ring := 0, uid := 9 }
def ctrlPkt : Pkt := { pkt0 with kind := 8, dst := 1, src := 1, flags := 0, window := 0, key := 0, len := 32, offset := 1,
                                 payload := voteBytes 0 1 0 1 5 1 0 }
def resending (ctype st : Nat) : State := { slotUp [] 0 1 (epochIn st) with
  dev.sys.fab.ctrlOut := [⟨1, 3, ctype, 0, 5, 0, zeros 32, (2, 5, 0)⟩] }

theorem wit_EpochsCommitOrAbort :
    let dec (d : Nat) := decisionBytes 0 d 0 1 5 0
    let s (d : Nat) := ctrlState 0 1 3 (dec d) (epochIn 2)
    (∀ d ∈ [1, 2], (s d).dev.sys.mgmtUp = true ∧ (s d).dev.sys.fab.ctrlIn = [⟨1, 3, dec d⟩] ∧ recSlot (dec d) = 0
      ∧ (s d).dev.sys.slotOn 0 = true ∧ (s d).dev.sys.coordinator 0 = 1 ∧ (s d).dev.sys.epoch 0 = epochIn 2 ∧ field (dec d) 8 8 = 5
      ∧ field (dec d) 16 4 = 0 ∧ field (dec d) 1 1 = d)
    ∧ ((resending 2 2).dev.sys.bmValid = true ∧ (resending 2 2).dev.sys.bmFid = 1)
    ∧ ((epochIn 2).inDoubt = false ∧ (s 1).dev.sys.partEnabled 0 = true ∧ (s 1).dev.sys.mgmt.rel.mgmtStopped = false)
    ∧ ((slotUp [] 0 1 (epochIn 3)).dev.sys.epoch 0 = epochIn 3 ∧ (slotUp [] 0 1 (epochIn 3)).dev.sys.fab.ops = [])
    ∧ ((slotUp [updCmd 1 5 1 true] 0 1 (epochIn 3)).dev.sys.ring 0).cmds.find? (fun x => x.uid == 9) = some (updCmd 1 5 1 true)
    ∧ (∀ k ∈ [1, 2], ∀ st ∈ [2, 3], (resending k st).dev.sys.fab.ctrlOut[0]? = some ⟨1, 3, k, 0, 5, 0, zeros 32, (2, 5, 0)⟩
      ∧ ((resending k st).dev.sys.epoch 0).state = st)
    ∧ (let s := ctrlState 0 1 3 (dec 2) { epochIn 0 with target := 0 }
      (s.dev.sys.epoch 0).state = 0 ∧ field (dec 2) 8 8 = (s.dev.sys.epoch 0).committed + 1 ∧ s.dev.sys.coordinator 0 = 1)
    ∧ (let s := ctrlState 0 1 3 (dec 2) (epochIn 2)
      ({ s with dev.sys.fab.ctrlIn := [⟨9, 3, dec 2⟩] } : State).dev.sys.coordinator 0 ≠ 9 ∧ s.dev.sys.bmFid ≠ 9) := by decide +kernel

/-- A CTRL packet in its delivery queue. -/
def ctrlArrives : State := { slotUp [] 0 1 (epochIn 2) with dev.sys.fab.deliver := [⟨ctrlPkt, 0, 0, 3, false⟩] }

theorem wit_CtrlPacketArrives : ctrlArrives.Comes ctrlPkt ⟨ctrlPkt, 0, 0, 3, false⟩ ∧ ctrlArrives.dev.sys.mgmtUp = true ∧ ctrlPkt.kind = 8 := by
  refine ⟨⟨?_, ?_, ?_, ?_, ?_, ?_⟩, ?_, ?_⟩ <;> decide +kernel

theorem slotUp_sized (cs : List RCmd) (nf rank : Nat) (e : Epoch) : (slotUp cs nf rank e).dev.sys.Sized := by
  refine ⟨?_, ?_, ?_, ?_, ?_, ?_, ?_, ?_, ?_, ?_, ?_, ?_, ?_, ?_, ?_, ?_, ?_, ?_, ?_, ?_, ?_, ?_, ?_, ?_⟩
  case refine_16 => intro l h; cases h
  case refine_12 => exact up_sized.2.2.2.2.2.2.2.2.2.2.2.1
  all_goals rfl
theorem slotUp_coherent (cs : List RCmd) (nf rank : Nat) (e : Epoch) : (slotUp cs nf rank e).dev.mem.Coherent := up_coherent

/-! ## Pogil ports -/

/-- Fabric ID 1, a plan entry for port 0, and port 0 as given. -/
def plan0 : List Byte := natLe 1 1 ++ natLe 1 2 ++ natLe 1 1 ++ zeros 1 ++ zeros 16 ++ zeros 12
def portState (p : Port) : State := { slotUp [] 0 1 Epoch.reset with
  dev.sys.fab.ports := setNth (List.replicate 16 Port.reset) 0 p
  dev.sys.mgmt.dict.values := [(0x6100 * 256 + 1, plan0), (0x6110 * 256 + 1, natLe 1 2), (0x6110 * 256 + 2, natLe 1 1),
    (0x6110 * 256 + 5, natLe 1 1)] }
def inTrain (train st : Nat) : Port := { Port.reset with train := train, state := st, good := 255, width := 8, rxMask := 255 }
def far (mask : Nat) : TrainFar := ⟨1, mask, 0, false, 300⟩

theorem portState_sized (p : Port) : (portState p).dev.sys.Sized := by
  refine ⟨?_, ?_, ?_, ?_, ?_, ?_, ?_, ?_, ?_, ?_, ?_, ?_, ?_, ?_, ?_, ?_, ?_, ?_, ?_, ?_, ?_, ?_, ?_, ?_⟩
  case refine_16 => intro l h; cases h
  case refine_12 => exact up_sized.2.2.2.2.2.2.2.2.2.2.2.1
  all_goals rfl

/-- A TRAIN flit with the echo of token 7. -/
def trainFlit0 : Flit := { flit0 with ty := 2, payload := zeros 10 ++ natLe 2 7 ++ zeros 228 }

/-- Each training state, far ends of every width, a verify window with failures on its first and its last repetition, an up port. -/
theorem wit_PortsTrainStepByStep :
    (∀ tr < 7, ∀ st < 6, (portState (inTrain tr st)).dev.sys.port 0 = inTrain tr st
      ∧ (0 < tr → (portState (inTrain tr st)).dev.sys.portRuns 0 = true))
    ∧ (min (popcount8 255) (popcount8 (far 1).mask) < 2 ∧ min (popcount8 255) (popcount8 (far 255).mask) = 8
      ∧ min (popcount8 255) (popcount8 (far 63).mask) = 6 ∧ min (popcount8 255) (popcount8 (far 15).mask) = 4
      ∧ min (popcount8 255) (popcount8 (far 3).mask) = 2)
    ∧ (1 &&& (inTrain 5 2).rxMask ≠ 0 ∧ (inTrain 5 2).reps < 3 ∧ 3 ≤ ({ inTrain 5 2 with reps := 3 } : Port).reps ∧ 0 &&& (inTrain 5 2).rxMask = 0)
    ∧ (inTrain 7 4).live = true ∧ (inTrain 5 2).live = false ∧ (portState { inTrain 5 2 with reps := 3 }).dev.sys.portRuns 0 = true
    ∧ (trainFlit0.ty = 2 ∧ flitSound trainFlit0 true (flitCrc trainFlit0) = true) := by decide +kernel

/-- Port 0 with a hello from its far end waiting. -/
def greeted (p : Port) (h : Hello) : State := { portState p with dev.sys.fab.hellos := [(0, h)] }

/-- A hello that fits the plan and one from another port, at a port in DONE, up, quarantined; a hello to send. -/
theorem wit_HellosDecideThePortState :
    let h : Hello := ⟨1, 2, 0, zeros 16, 0, 5, 0⟩
    (∀ p, (greeted p h).dev.sys.fab.hellos.head? = some (0, h) ∧ (greeted p h).dev.sys.cfg 0x6100 1 = plan0
      ∧ (greeted p h).dev.sys.port 0 = p ∧ (greeted p h).dev.sys.mgmtUp = true)
    ∧ (field plan0 0 1 = 1 ∧ (plan0.drop 4).take 16 = h.serial ∧ field plan0 1 1 = h.port ∧ bit (field plan0 2 1) h.role = true)
    ∧ ¬field plan0 1 1 = ({ h with port := 3 } : Hello).port
    ∧ ((inTrain 6 2).train = 6 ∧ (inTrain 7 4).train ≠ 6 ∧ (inTrain 7 4).live = true ∧ (inTrain 7 4).windowOver = false
      ∧ (inTrain 7 5).state = 5 ∧ (inTrain 7 5).train ≠ 6)
    ∧ ((portState { inTrain 6 2 with poolCredits := 1 }).dev.sys.portRuns 0 = true ∧ (portState (inTrain 7 4)).dev.sys.portRuns 0 = true)
    ∧ decide ((val32 0x3F800000).cmp (val32 ((portState (inTrain 7 4)).dev.sys.cfgN 0x6041 1)) = some 1) = true
    ∧ decide ((val32 0).cmp (val32 ((portState (inTrain 7 4)).dev.sys.cfgN 0x6041 1)) = some 1) = false
    ∧ ((portState (inTrain 7 4)).dev.sys.ready = true ∧ (portState (inTrain 7 4)).dev.sys.partEnabled 0 = true) :=
  ⟨fun _ => ⟨rfl, rfl, rfl, rfl⟩, by decide +kernel⟩

/-- A DATA flit, first of its packet, with the header of a PUT of no bytes. -/
def dataFlit (seq : Nat) (eop : Bool) : Flit :=
  { flit0 with ty := 1, seq := seq, vc := 2, sop := true, eop := eop, payload := natLe 1 2 ++ zeros 239 }
def creditFlit : Flit := { flit0 with ty := 0, credit0 := ⟨2, 0, false, true, 3⟩ }
def sending (rep : List Flit) (pos n : Nat) (cur : Option TxCur) : Port := { inTrain 7 4 with replay := rep, replayPos := pos, replays := n, cur := cur }

theorem wit_FlitsGoInOrder :
    (∀ p ∈ [inTrain 7 4, inTrain 7 3, inTrain 6 2, inTrain 5 2, inTrain 2 2, sending [dataFlit 0 true] 0 0 none, sending [dataFlit 0 true] 1 0 none,
        sending [dataFlit 0 true] 1 8 none, { sending [dataFlit 0 true] 1 8 none with train := 6, state := 2 },
        sending [] 0 0 (some ⟨[zeros 240], true, 2, 0, false⟩)],
      (portState p).dev.sys.portRuns 0 = true ∧ p.replays ≤ 8 ∧ (portState p).dev.sys.port 0 = p)
    ∧ ((inTrain 7 4).live = true ∧ (inTrain 5 2).live = false ∧ (inTrain 2 2).live = false)
    ∧ ((dataFlit 0 true).ty = 1 ∧ flitTypeOk (dataFlit 0 true) = true ∧ (dataFlit 0 true).ackValid = false ∧ (dataFlit 0 true).nak = false
      ∧ (dataFlit 0 true).credit0.valid = false ∧ (dataFlit 0 true).credit1.valid = false ∧ (dataFlit 0 true).seq = (inTrain 7 4).expSeq
      ∧ (dataFlit 0 true).sop = true ∧ (dataFlit 0 true).vc ≠ 11
      ∧ (dataFlit 1 true).seq ≠ (inTrain 7 4).expSeq ∧ knownKind (field (dataFlit 0 true).payload 0 1) = true
      ∧ field (dataFlit 0 true).payload 22 2 ≤ 4096 ∧ (dataFlit 0 false).eop = false)
    ∧ (let f := { dataFlit 0 true with vc := 11, payload := [0xE1, 1] ++ zeros 238 }
      flitTypeOk f = true ∧ f.seq = (inTrain 7 4).expSeq ∧ f.eop = true ∧ field f.payload 0 1 = 0xE1)
    ∧ (flitSound (dataFlit 0 true) false 0 = false ∧ flitSound creditFlit false 0 = false ∧ flitSound trainFlit0 false 0 = false)
    ∧ (creditFlit.ty = 0 ∧ flitTypeOk creditFlit = true ∧ creditFlit.credit0.valid = true ∧ creditFlit.credit0.pool = false
      ∧ creditFlit.ackValid = false ∧ creditFlit.nak = false ∧ creditFlit.credit1.valid = false)
    ∧ (let f := { flit0 with ackValid := true, ackSeq := 1 }
      flitTypeOk f = true ∧ f.ty = 0 ∧ f.nak = false ∧ f.credit0.valid = false ∧ f.credit1.valid = false
        ∧ (sending [dataFlit 0 true, dataFlit 1 true] 2 0 none).replay = [dataFlit 0 true] ++ dataFlit 1 true :: [] ∧ (dataFlit 1 true).seq = f.ackSeq
        ∧ ∀ y ∈ [dataFlit 0 true], y.seq ≠ f.ackSeq)
    ∧ (sending [dataFlit 0 true] 0 0 none).replay[0]? = some (dataFlit 0 true)
    ∧ ((sending (List.replicate 1024 (dataFlit 0 true)) 1024 0 none).replay[1024]? = none
      ∧ 1024 ≤ (sending (List.replicate 1024 (dataFlit 0 true)) 1024 0 none).replay.length)
    ∧ (portState (sending (List.replicate 1024 (dataFlit 0 true)) 1024 0 none)).dev.sys.portRuns 0 = true := by decide +kernel

/-! ## Remote operations -/

/-- The descriptor of a kind: 16 bytes at offset 0 of window 0 of fabric ID 2, local Shofel or core store bytes at 128. -/
def fabDesc0 (kind : Nat) (shofel : Bool) : List Byte :=
  natLe 4 (kind + (if shofel then 256 else 0)) ++ natLe 4 (if kind = 5 ∨ kind = 6 then 0 else 16) ++ natLe 4 2 ++ natLe 2 0 ++ zeros 2
    ++ natLe 4 77 ++ zeros 4 ++ natLe 8 0 ++ natLe 8 128 ++ zeros 24

/-- A thread at a fabric instruction whose descriptor lies at core store address `a`, its counter at 4. -/
def fabAt (op a : Nat) (desc : List Byte) : State := { slotUp [] 0 1 Epoch.reset with
  dev.sys.core.blocks := [{ blk0 [⟨op, false, 7, 2, if op = 0x96 then 0 else 4, 0, 0, 0⟩] with store := cellsAt 64 desc }]
  dev.sys.core.groups := [grp0 [(2, 4), (4, a)]] }

theorem wit_RemoteOperationsEnter :
    let s (k : Nat) := fabAt (0x8F + k) 64 (fabDesc0 k false)
    let b (i : Issue) := i.blk.csRead (i.grp.reg 0 i.inst.a) 64
    let placed (i : Issue) : Bool := i.act == [0] && decide (i.grp.reg 0 i.inst.a % 64 = 0 ∧ i.grp.reg 0 i.inst.a + 64 ≤ i.blk.csBytes
      ∧ i.grp.reg 0 i.inst.d % 4 = 0 ∧ i.grp.reg 0 i.inst.d + 4 ≤ i.blk.csBytes)
    (∀ k, k ∈ [1, 2, 3, 4, 5, 6] → goes (s k) (0x8F + k) (fun i => placed i && fabReady i (s k).dev && (s k).dev.sys.fabWf 0 k (b i)
        && (FabD.of (b i)).loc == 128 && !(FabD.of (b i)).shofel && decide (128 + 16 ≤ i.blk.csBytes) && !overlaps 4 4 128 16) = true)
    ∧ goes (fabAt 0x91 65536 (fabDesc0 2 false)) 0x91 (fun i => i.act == [0] && !placed i && fabReady i (fabAt 0x91 65536 (fabDesc0 2 false)).dev) = true
    ∧ goes (fabAt 0x91 64 (fabDesc0 1 false)) 0x91 (fun i => placed i && fabReady i (fabAt 0x91 64 (fabDesc0 1 false)).dev
        && !(fabAt 0x91 64 (fabDesc0 1 false)).dev.sys.fabWf 0 2 (b i)) = true
    ∧ (let d := (fabDesc0 2 false).take 32 ++ natLe 8 136 ++ zeros 24
      goes (fabAt 0x91 64 d) 0x91 (fun i => placed i && (fabAt 0x91 64 d).dev.sys.fabWf 0 2 (b i) && (FabD.of (b i)).loc % 16 != 0) = true)
    ∧ goes (fabAt 0x96 64 []) 0x96 (fun i => i.act == [0] && i.grp.reg 0 i.inst.d == 4) = true
    ∧ (fabAt 0x96 64 []).dev.sys.asyncRoom gid0 1 = true ∧ (fabAt 0x96 64 []).dev.sys.fab.fences = []
    ∧ goes { fabAt 0x96 64 [] with dev.sys.core.groups := [grp0 [(2, 6)]] } 0x96 (fun i => i.act == [0] && i.grp.reg 0 i.inst.d % 4 != 0) = true := by
  refine ⟨?_, ?_, ?_, ?_, ?_, ?_, ?_, ?_⟩ <;> decide +kernel

/-- With 64 operations of the quarter in flight, and with no executing thread. -/
theorem wit_RemoteOperationsEnter_held :
    (∀ op ∈ [0x90, 0x91, 0x92, 0x93, 0x94, 0x95, 0x96],
      goes { fabAt op 64 [] with dev.sys.core.copies := List.replicate 64 copy0 } op (fun i => i.act == [0]
          && !fabReady i ({ fabAt op 64 [] with dev.sys.core.copies := List.replicate 64 copy0 } : State).dev) = true
      ∧ ({ fabAt op 64 [] with dev.sys.core.copies := List.replicate 64 copy0 } : State).dev.sys.asyncRoom gid0 1 = false
      ∧ goes (one ⟨op, false, 1, 2, if op = 0x96 then 0 else 4, 0, 0, 0⟩ []) op (fun i => i.act == []) = true) := by decide +kernel

theorem fabAt_ok (op : Nat) (desc : List Byte) (h : cellsWf (cellsAt 64 desc) = true) : (fabAt op 64 desc).dev.sys.core.Ok := by
  refine ⟨by show [gid0].Nodup; decide, ?_, ?_, (fun x hx => nomatch hx), (fun x hx => nomatch hx), flight_of_empty rfl rfl⟩
  · intro x hx; obtain rfl := List.mem_singleton.1 hx; exact ⟨rfl, rfl, by decide⟩
  · intro x hx; obtain rfl := List.mem_singleton.1 hx; exact ⟨h, rfl⟩

theorem wit_fabAt_ok : (fabAt 0x96 64 []).dev.sys.core.Ok ∧ (fabAt 0x91 64 (fabDesc0 2 false)).dev.sys.core.Ok :=
  ⟨fabAt_ok _ _ rfl, fabAt_ok _ _ (by decide +kernel)⟩

def fabCmd : RCmd := cmdOf 2 (natLe 1 3 ++ zeros 7 ++ natLe 8 4096)
def copyFab (shofel : Bool) : State := withBytes (slotUp [fabCmd] 0 1 Epoch.reset) [(4096, fabDesc0 2 shofel)]

theorem wit_CopiesEnterRemoteOperations :
    (∀ sh : Bool, (copyFab sh).dev.sys.startedCmd 0 0 2 3 = some fabCmd ∧ (copyFab sh).dev.mem.wf = true
      ∧ (FabD.of ((List.range 64).map (fun j => (copyFab sh).dev.byteOf 0 (4096 + j)))).shofel = sh)
    ∧ (copyFab true).dev.sys.fabWf 0 2 ((List.range 64).map (fun j => (copyFab true).dev.byteOf 0 (4096 + j))) = true
    ∧ (copyFab true).dev.rangeOk 0 128 16 false = true
    ∧ ∀ sh p a n, (copyFab sh).dev.CleanRange p a n := by
  refine ⟨?_, ?_, ?_, fun sh p a n => with_clean rfl rfl p a n⟩ <;> decide +kernel

/-- Routes: +x by port 0 for x coordinate 2, fabric ID 3 unreachable; window 0 open to key 77; and the tables given. -/
def fabState (mask : Nat) (f : FabState → FabState) : State :=
  let s := slotUp [] 0 1 Epoch.reset
  { s with
    dev.sys.mgmt.dict.values := [(0x6110 * 256 + 2, natLe 1 1), (0x6110 * 256 + 5, natLe 1 1),
      (0x6300 * 256 + 1, zeros 2 ++ [1] ++ zeros 61), (0x6300 * 256 + 4, natLe 2 1 ++ zeros 10), (0x6300 * 256 + 5, natLe 2 mask),
      (0x6300 * 256 + 7, natLe 4 3)]
    dev.sys.fab := f { s.dev.sys.fab with windows := [(0, ⟨1, 0, 31, 77, 0, 4096⟩)] } }

theorem fabState_sized (m : Nat) (g : FabState → FabState) (h : ∀ f, (g f).ports = f.ports ∧ (g f).slots = f.slots ∧ (g f).epochs = f.epochs
      ∧ (g f).replay.length = f.replay.length ∧ (g f).observed = f.observed ∧ (g f).missed = f.missed) : (fabState m g).dev.sys.Sized := by
  have hs := slotUp_sized [] 0 1 Epoch.reset
  simp only [Sys.Sized] at hs ⊢
  simpa only [fabState, h] using hs

def putP : Pkt := ⟨2, 0, 0, 0, 0, 1, 2, 0, 1, 77, 0, 16, 64, zeros 16⟩
def toward (dst : Nat) : RPkt := ⟨{ putP with dst := dst, src := 9 }, 2, 0, 1, false⟩
def op0 (kind left : Nat) : FabOp := { FabOp.blank with id := 3, kind := kind, left := left, counter := 4, descAddr := 64, uid := 9 }
def reqOf (kind phase : Nat) : FabReq :=
  ⟨5, 3, 0, 2, ⟨kind, 0, 0, 0, 0, 2, 1, 0, 1, 77, 0, if kind = 1 ∨ kind = 2 ∨ kind = 4 then 16 else if kind = 5 then 16 else 8, 64,
    if kind = 5 then zeros 16 else []⟩, phase, 0, 128, if kind = 2 then zeros 16 else []⟩
/-- A request of an operation of a block's thread. -/
def asking (kind phase left : Nat) (queued : Bool) : State :=
  let s := fabState 1 (fun f => { f with ops := [op0 kind left], reqs := [reqOf kind phase], queue := if queued then [5] else [], routeGen := 1 })
  { s with dev.sys.core.blocks := [blk0 []] }

/-- A state with no valid fabric ID. -/
def nameless (s : State) : State := { s with dev.sys.mgmt.dict.values := s.dev.sys.mgmt.dict.values.filter (fun x => x.1 != 0x6110 * 256 + 5) }

theorem wit_PacketsTakeTheirRoutes :
    (∀ dst ∈ [1, 2, 3, 5], ∀ m ∈ [0, 1], (fabState m (fun f => { f with router := [toward dst] })).dev.sys.routerUp = true
      ∧ (fabState m (fun f => { f with router := [toward dst] })).dev.sys.fab.router[0]? = some (toward dst)
      ∧ (fabState m (fun f => { f with router := [toward dst] })).dev.sys.fidValid = true)
    ∧ (let s := fabState 1 id
      s.dev.sys.fid = 1 ∧ s.dev.sys.unreachable 3 = true ∧ s.dev.sys.routeDir 5 = none ∧ s.dev.sys.routeDir 2 = some 0
        ∧ s.dev.sys.unreachable 2 = false ∧ maskPorts (s.dev.sys.dirPorts 0 &&& s.dev.sys.routingMask) = [0]
        ∧ (s.dev.sys.cfgN 0x6505 1 = 0 ∨ combinable (toward 2).pkt = false))
    ∧ maskPorts ((fabState 0 id).dev.sys.dirPorts 0 &&& (fabState 0 id).dev.sys.routingMask) = []
    ∧ (let s := asking 2 0 1 true
      s.dev.sys.op? 3 = some (op0 2 1) ∧ carries (reqOf 2 0).pkt = true ∧ (op0 2 1).localShofel = false
        ∧ (reqOf 2 0).snap = s.dev.sys.csRead 0 128 16 ∧ s.dev.sys.fab.router = []
        ∧ (s.dev.sys.fab.queue[0]?).bind s.dev.sys.req? = some (reqOf 2 0) ∧ (s.dev.sys.injPick 2).map Prod.fst = some 0
        ∧ (s.dev.sys.injHead 2 0).map FabReq.uid = some 5)
    ∧ (∀ ph ∈ [1, 2], (asking 2 ph 1 false).dev.sys.fab.reqs[0]? = some (reqOf 2 ph) ∧ (asking 2 ph 1 false).dev.sys.resetting 0 = false
      ∧ (reqOf 2 ph).gen < (asking 2 ph 1 false).dev.sys.fab.routeGen)
    ∧ (let s := fabState 1 (fun f => { f with router := [toward 2, toward 3] })
      s.dev.sys.fab.router[1]? = some (toward 3) ∧ s.dev.sys.fab.router[0]? = some (toward 2))
    ∧ (let s := nameless (fabState 1 (fun f => { f with router := [{ toward 2 with origin := 16 }] }))
      s.dev.sys.fidValid = false ∧ isReply (toward 2).pkt = false ∧ s.dev.sys.routerUp = true)
    ∧ (let s := asking 2 1 1 false
      let o := { op0 2 1 with timedOut := true }
      ({ s with dev.sys.fab.ops := [o] } : State).dev.sys.op? 3 = some o ∧ s.dev.sys.fab.reqs[0]? = some (reqOf 2 1))
    ∧ (let s := asking 2 1 1 false
      s.dev.sys.op? 3 = some (op0 2 1) ∧ s.dev.sys.ready = true ∧ (op0 2 1).timedOut = false
        ∧ s.dev.sys.fab.reqs.find? (fun y => y.op == 3) = some (reqOf 2 1)) := by decide +kernel

/-! ## Packets at their target -/

def rp (p : Pkt) (origin : Nat) : RPkt := ⟨p, if isReply p then 1 else 2, 0, origin, false⟩
/-- A packet in its delivery queue. -/
def bring (s : State) (p : Pkt) (origin : Nat) : State := { s with dev.sys.fab.deliver := [rp p origin] }

theorem comes_of {s : State} {p : Pkt} {x : RPkt}
    (h : s.dev.sys.ready = true ∧ s.dev.sys.routerUp = true ∧ pktWf p = true ∧ x.pkt = p
      ∧ s.dev.sys.fab.deliver.find? (fun y => y.pkt == p) = some x
      ∧ (s.dev.sys.fab.deliver.filter (fun y => y.vc == x.vc)).head? = some x) : s.Comes p x := h

def isFresh : Replay → Bool
  | .fresh _ => true
  | _ => false
def isRecorded : Replay → Bool
  | .recorded _ _ _ => true
  | _ => false
def isUnknown : Replay → Bool
  | .unknown _ => true
  | _ => false

/-- The replay directory of partition 0 holds the record of stream (2, 0) with the slots given. -/
def replaying (slots : List ReplaySlot) (f : FabState) : FabState :=
  { f with replay := setNth (List.replicate 16 ⟨0, 0, []⟩) 0 ⟨0, 1, [⟨2, 0, 0, slots⟩]⟩ }
def target (slots : List ReplaySlot) (p : Pkt) : State := bring (fabState 1 (replaying slots)) p 3

/-- Packets of each kind at window 0. -/
def tPkt (kind : Nat) : Pkt :=
  if kind = 1 then { putP with kind := 1, payload := [] }
  else if kind = 6 then { putP with kind := 6, len := 8, payload := zeros 8 }
  else if kind = 7 then { putP with kind := 7, len := 32, payload := zeros 4 ++ natLe 4 1 ++ natLe 8 5 ++ zeros 4 ++ natLe 4 2 ++ natLe 8 6 }
  else { putP with kind := kind }
def mputP : Pkt := { putP with kind := 3, flags := 4, dst := 0 }
/-- A group of ports and bits `e`, an MPUT from `origin` at it. -/
def tree0 (slots : List ReplaySlot) (e origin : Nat) : State :=
  bring (fabState 1 (fun f => { replaying slots f with multicast := [(0, e)] })) mputP origin
def outsOf (e origin : Nat) : List Nat := (List.range 16).filter (fun q => bit e q && q != origin)

theorem wit_TargetsCheckAndStore :
    (∀ k, k = 1 ∨ k = 2 ∨ k = 6 → (target [] (tPkt k)).Comes (tPkt k) (rp (tPkt k) 3))
    ∧ (∀ p, (target [] p).dev.sys.window 0 = ⟨1, 0, 31, 77, 0, 4096⟩)
    ∧ ((target [] (tPkt 1)).dev.WindowStatus (tPkt 1) 16 0 false 0 ∧ (target [] (tPkt 2)).dev.WindowStatus (tPkt 2) 16 1 true 0
      ∧ (target [] (tPkt 6)).dev.WindowStatus (tPkt 6) 8 1 true 0
      ∧ (target [] { tPkt 1 with key := 78 }).dev.WindowStatus { tPkt 1 with key := 78 } 16 0 false 2)
    ∧ ((target [] (tPkt 1)).dev.rangeUp 0 64 16 = true ∧ (target [] (tPkt 6)).dev.rangeUp 0 64 8 = true)
    ∧ (∀ sl p a n, (target sl p).dev.CleanRange 0 a n) ∧ (target [] (tPkt 2)).dev.Writable 0 [(64, zeros 16)]
    ∧ (target [] (tPkt 6)).dev.Writable 0 [(64, zeros 8)]
    ∧ (∀ k ∈ [2, 6], ((target [] (tPkt k)).dev.sys.less (rp (tPkt k) 3)).isSegment (rp (tPkt k) 3) = false
      ∧ isFresh (((target [] (tPkt k)).dev.sys.less (rp (tPkt k) 3)).replayOf 0 (tPkt k)) = true
      ∧ isRecorded (((target [⟨1, 1, 0, 0⟩] (tPkt k)).dev.sys.less (rp (tPkt k) 3)).replayOf 0 (tPkt k)) = true
      ∧ isUnknown (((target [⟨1, 4097, 0, 0⟩] (tPkt k)).dev.sys.less (rp (tPkt k) 3)).replayOf 0 (tPkt k)) = true) := by
  refine ⟨?_, fun p => rfl, ⟨?_, ?_, ?_, ?_⟩, ⟨?_, ?_⟩, fun _ _ a n => up_clean 0 a n, ?_, ?_, ?_⟩
  all_goals try decide +kernel
  · rintro k (rfl | rfl | rfl) <;> exact comes_of (by decide +kernel)
  all_goals first | (unfold Dev.WindowStatus; decide +kernel) | exact writable_of (by decide +kernel) (by decide +kernel) (fun a n => up_clean 0 a n)

/-- An unknown group; a branch on a withdrawn port; one branch; no branch from here and from port 3; a local write, at a device with a
fabric ID and at one without. -/
theorem wit_TargetsCheckAndStore_tree :
    (∀ e origin, (tree0 [] e origin).Comes mputP (rp mputP origin) ∧ (tree0 [] e origin).dev.sys.mcast 0 = e)
    ∧ (bit 1 17 = false)
    ∧ (bit (2 ^ 17 + 2) 17 = true ∧ 1 ∈ outsOf (2 ^ 17 + 2) 16 ∧ bit (tree0 [] (2 ^ 17 + 2) 16).dev.sys.routingMask 1 = false)
    ∧ (bit (2 ^ 17 + 1) 17 = true ∧ bit (2 ^ 17 + 1) 16 = false ∧ outsOf (2 ^ 17 + 1) 3 = [0] ∧ bit (tree0 [] (2 ^ 17 + 1) 3).dev.sys.routingMask 0 = true)
    ∧ (outsOf (2 ^ 17 + 2 ^ 16) 16 = [] ∧ outsOf (2 ^ 17 + 2 ^ 16) 3 = [] ∧ bit (2 ^ 17 + 2 ^ 16) 16 = true ∧ bit (2 ^ 17 + 2 ^ 16) 17 = true)
    ∧ (nameless (tree0 [] (2 ^ 17 + 2 ^ 16) 3)).dev.sys.fidValid = false ∧ (tree0 [] (2 ^ 17 + 2 ^ 16) 3).dev.sys.fidValid = true
    ∧ (tree0 [] (2 ^ 17 + 2 ^ 16) 3).dev.WindowStatus mputP 16 2 true 0
    ∧ isFresh (((tree0 [] (2 ^ 17 + 2 ^ 16) 3).dev.sys.less (rp mputP 3)).replayOf 0 mputP) = true
    ∧ (tree0 [] (2 ^ 17 + 2 ^ 16) 3).dev.Writable 0 [(64, zeros 16)] := by
  refine ⟨fun e o => ⟨comes_of ⟨by exact (by decide +kernel : (tree0 [] 0 0).dev.sys.ready = true), by exact (by decide +kernel : (tree0 [] 0 0).dev.sys.routerUp = true),
    by decide +kernel, rfl, by simp [tree0, bring, rp], by simp [tree0, bring, rp]⟩, by simp [tree0, bring, Sys.mcast, fabState, NMap.get]⟩, ?_, ?_, ?_, ?_, ?_, ?_, ?_, ?_, ?_⟩
  all_goals try decide +kernel
  all_goals first | (unfold Dev.WindowStatus; decide +kernel) | exact writable_of (by decide +kernel) (by decide +kernel) (fun a n => up_clean 0 a n)

/-- The operation of a stack's executor. -/
def executing (p : Pkt) : State := { target [] p with dev.sys.host.execQ := setNth (List.replicate 8 []) 0 [⟨p, 0, 0⟩] }
def getsP : Pkt := { tPkt 7 with op := 15, payload := zeros 4 ++ natLe 4 1 ++ natLe 8 16 ++ zeros 4 ++ natLe 4 2 ++ natLe 8 16 }

theorem wit_ExecutorsApplyAtomics :
    (∀ p, p = tPkt 4 ∨ p = tPkt 5 ∨ p = tPkt 7 ∨ p = getsP → (target [] p).Comes p (rp p 3))
    ∧ ((target [] (tPkt 4)).dev.WindowStatus (tPkt 4) 16 3 true 0 ∧ (target [] (tPkt 5)).dev.WindowStatus (tPkt 5) 4 4 true 0
      ∧ (target [] (tPkt 7)).dev.WindowStatus (tPkt 7) 4 4 true 0 ∧ (target [] getsP).dev.WindowStatus getsP 16 0 false 0
      ∧ (target [] { tPkt 4 with key := 78 }).dev.WindowStatus { tPkt 4 with key := 78 } 16 3 true 2)
    ∧ (∀ k ∈ [4, 5], isFresh (((target [] (tPkt k)).dev.sys.less (rp (tPkt k) 3)).replayOf 0 (tPkt k)) = true
      ∧ isRecorded (((target [⟨1, 1, 5, 9⟩] (tPkt k)).dev.sys.less (rp (tPkt k) 3)).replayOf 0 (tPkt k)) = true
      ∧ isUnknown (((target [⟨1, 4097, 0, 0⟩] (tPkt k)).dev.sys.less (rp (tPkt k) 3)).replayOf 0 (tPkt k)) = true)
    ∧ (pktWf { tPkt 4 with len := 0, payload := [] } = true ∧ (tPkt 4).len ≠ 0)
    ∧ (getsP.op = 15 ∧ (tPkt 7).op ≠ 15 ∧ min (field getsP.payload 8 8) 4096 = 16 ∧ (target [] getsP).dev.rangeUp 0 64 16 = true)
    ∧ (∀ k ∈ [4, 5, 7], pktWf (tPkt k) = true ∧ (executing (tPkt k)).dev.sys.host.execQ.getD 0 [] = [⟨tPkt k, 0, 0⟩]
      ∧ (executing (tPkt k)).dev.sys.ready = true ∧ (executing (tPkt k)).dev.sys.kettleRuns 0 = true)
    ∧ (executing (tPkt 4)).dev.Writable 0 [(64, zeros 16)] ∧ (executing (tPkt 5)).dev.Writable 0 [(64, zeros 4)]
    ∧ constituents (tPkt 7).payload ≠ [] := by
  refine ⟨?_, ⟨?_, ?_, ?_, ?_, ?_⟩, ?_, ?_, ?_, ?_, ?_, ?_, ?_⟩
  all_goals try decide +kernel
  · rintro p (rfl | rfl | rfl | rfl) <;> exact comes_of (by decide +kernel)
  all_goals first | (unfold Dev.WindowStatus; decide +kernel) | exact writable_of (by decide +kernel) (by decide +kernel) (fun a n => up_clean 0 a n)

/-! ## Answers -/

/-- The answer of a kind to the request of `asking`, and to the control packet that waits. -/
def answerTo (k kind status : Nat) : Pkt :=
  replyTo (reqOf k 1).pkt kind status (if kind = kData then zeros 16 else if kind = kResult then zeros 8 else [])
def answered (k kind status left : Nat) : State := bring (asking k 1 left false) (answerTo k kind status) 3
/-- Its operation with local bytes in Shofel, or that of a COPY. -/
def ofOp (s : State) (f : FabOp → FabOp) : State := { s with dev.sys.fab.ops := s.dev.sys.fab.ops.map f }

theorem wit_RepliesEndTheirRequests :
    (∀ y ∈ [(1, kData, 0), (2, kAck, 0), (5, kResult, 0), (2, kNak, 3), (2, kNak, 4)], ∀ n ∈ [1, 2],
      let s := answered y.1 y.2.1 y.2.2 n
      let p := answerTo y.1 y.2.1 y.2.2
      (s.dev.sys.ready = true ∧ s.dev.sys.routerUp = true ∧ pktWf p = true ∧ (rp p 3).pkt = p
        ∧ s.dev.sys.fab.deliver.find? (fun y => y.pkt == p) = some (rp p 3)
        ∧ (s.dev.sys.fab.deliver.filter (fun y => y.vc == (rp p 3).vc)).head? = some (rp p 3))
      ∧ bit p.flags 3 = false ∧ isMcast p = false ∧ isCtrlReply p = false ∧ s.dev.sys.answers p = some (reqOf y.1 1)
        ∧ s.dev.sys.op? 3 = some (op0 y.1 n) ∧ (op0 y.1 n).owner = 0 ∧ (op0 y.1 n).localShofel = false ∧ s.dev.sys.fab.fences = []
        ∧ s.dev.sys.opDying (op0 y.1 n) = false ∧ s.dev.sys.blk 0 = some (blk0 []) ∧ overlaps 4 4 (64 + 56) 4 = false
        ∧ overlaps 4 4 128 16 = false ∧ overlaps (64 + 56) 4 128 16 = false)
    ∧ (∀ (s : State) (p : Pkt), s.dev.sys.fab.deliver = [rp p 3] → s.dev.sys.ready = true → s.dev.sys.routerUp = true → pktWf p = true → s.Comes p (rp p 3))
    ∧ (let s := ofOp (answered 1 kData 0 2) (fun o => { o with localShofel := true })
      (s.dev.sys.op? 3).map FabOp.localShofel = some true ∧ s.dev.rangeUp 0 128 16 = true)
    ∧ (let s := ofOp (answered 2 kAck 0 1) (fun o => { o with owner := 1, descAddr := 4096 })
      (s.dev.sys.op? 3).map FabOp.owner = some 1 ∧ s.dev.rangeOk 0 (4096 + 56) 4 true = true)
    ∧ (ofOp (answered 1 kData 0 2) (fun o => { o with localShofel := true })).dev.Writable 0 [(128, zeros 16)]
    ∧ (ofOp (answered 2 kAck 0 1) (fun o => { o with owner := 1, descAddr := 4096 })).dev.Writable 0 [(4096 + 56, natLe 4 0)]
    ∧ ({ answered 2 kAck 0 1 with dev.sys.fab.reqs := [] } : State).dev.sys.answers (answerTo 2 kAck 0) = none := by
  refine ⟨by decide +kernel, fun s p h1 h2 h3 h4 => comes_of ⟨h2, h3, h4, rfl, by simp [h1, rp], by simp [h1]⟩, by decide +kernel, by decide +kernel, ?_, ?_,
    by decide +kernel⟩ <;>
    exact writable_of (by decide +kernel) (by decide +kernel) (fun a n => up_clean 0 a n)

def ctrlAck : Pkt := replyTo ⟨8, 0, 0, 0, 0, 2, 1, 0, 3, 0, 0, 32, 2, zeros 32⟩ kAck 0 []
def ctrlOut0 : CtrlOut := ⟨2, 3, 2, 0, 5, 0, zeros 32, (2, 5, 0)⟩
/-- The reply to a COMBINED packet, and an answer from a tree's port 3. -/
def combReply (kind status : Nat) : Pkt :=
  { replyTo { tPkt 7 with src := 1, dst := 2, flags := 8 } kind status (if kind = kData then zeros 16 else if kind = kResult then zeros 8 else [])
    with flags := 8 }
def treeAck : Pkt := replyTo { mputP with src := 1, dst := 0 } kAck 0 []
def mput0 : MputRec := ⟨{ mputP with src := 1, dst := 0 }, 16, [3, 5], 0⟩

theorem wit_RepliesEndTheirRequests_others :
    (let s := bring (fabState 1 (fun f => { f with ctrlOut := [ctrlOut0] })) ctrlAck 3;
      isMcast ctrlAck = false ∧ isCtrlReply ctrlAck = true ∧ ctrlAck.kind = kAck ∧ s.dev.sys.ctrl? ctrlAck = some ctrlOut0
        ∧ s.dev.sys.ready = true ∧ s.dev.sys.routerUp = true ∧ pktWf ctrlAck = true)
    ∧ (∀ y ∈ [(kData, 0), (kResult, 0), (kNak, 2)],
      let s := bring (fabState 1 (fun f => { f with combined := [⟨1, [tPkt 5]⟩] })) (combReply y.1 y.2) 3
      let p := combReply y.1 y.2
      bit p.flags 3 = true ∧ p.dst = s.dev.sys.fid ∧ isMcast p = false ∧ pktWf p = true
        ∧ s.dev.sys.fab.combined.find? (fun y => y.seq == p.seq) = some ⟨1, [tPkt 5]⟩ ∧ bit (tPkt 5).flags 4 = false ∧ (tPkt 5).kind = kAtom)
    ∧ (let s := bring (fabState 1 (fun f => { f with mputs := [mput0] })) treeAck 3
      isMcast treeAck = true ∧ treeAck.kind = kAck ∧ pktWf treeAck = true
        ∧ s.dev.sys.mput? treeAck.dst treeAck.part treeAck.seq treeAck.src = some mput0 ∧ 3 ∈ mput0.ports ∧ 5 ∈ mput0.ports) := by decide +kernel

/-! ## Block managers and collectives -/

/-- A member that answers with a port table and failed cores as given. -/
def answers0 (failed : List (Nat × Nat)) : PollAnswer :=
  ⟨zeros 15 ++ [7], 1, 0, List.replicate 16 ⟨3, 6, true, 0, zeros 16, 0⟩, failed⟩
/-- A block manager with policies `k ↦ v` of 0x6400, the misses of member 5 and a procedure. -/
def bmState (pols : List (Nat × Nat)) (missed : Nat) (sp : Option Splice) : State :=
  let s := slotUp [] 0 1 Epoch.reset
  { s with
    dev.sys.mgmt.dict.values := s.dev.sys.mgmt.dict.values ++ pols.map (fun x => (0x6400 * 256 + x.1, natLe 1 x.2))
    dev.sys.fab := { s.dev.sys.fab with missed := NMap.set [] 5 missed, splice := sp } }
def splice0 (step : Nat) (spare : Option Nat) : Splice := ⟨5, 5, spare, step, [1], [((0, 6, 12), (0, 4, 12))], []⟩
theorem bmState_sized (pols : List (Nat × Nat)) (m : Nat) (sp : Option Splice) : (bmState pols m sp).dev.sys.Sized := by
  obtain ⟨h1, h2, h3, h4, h5, h6, h7, h8, h9, -, h11⟩ := slotUp_sized [] 0 1 Epoch.reset
  exact ⟨h1, h2, h3, h4, h5, h6, h7, h8, h9, NMap.set_wf _ _ rfl, h11⟩

/-- A member that answers; one that misses a poll short of the limit, with policy 0, with a procedure in progress, and at the limit; the
training timeout armed, not armed and with no procedure. -/
theorem wit_BlockManagersActOnPolls :
    (∀ pols m sp, (bmState pols m sp).dev.sys.mgmtUp = true ∧ (bmState pols m sp).dev.sys.ready = true
      ∧ (bmState pols m sp).dev.sys.fab.splice = sp ∧ (bmState pols m sp).dev.sys.Sized)
    ∧ (∀ w ∈ [0, 5], ∀ r ∈ [0, 2], (let s := (bmState [(1, w), (3, 0), (8, r)] 2 none).dev.sys
        s.role = 2 ∧ s.cfgN 0x6400 1 = w ∧ s.cfgN 0x6400 3 ≠ 1 ∧ s.cfgN 0x6400 8 = r))
    ∧ ((answers0 [(3, 0), (4, 1)]).failed.filter (fun y => y.2 == 0 || y.2 == 4) = [(3, 0)] ∧ (viewOf (answers0 []) 0).state = 3
      ∧ 5 ≤ (viewOf (answers0 []) 0).width)
    ∧ (let s := (bmState [(2, 1), (5, 3)] 1 none).dev.sys
      s.role = 2 ∧ NMap.get s.fab.missed 5 = 1 ∧ 1 + 1 < s.cfgN 0x6400 5)
    ∧ (∀ pol ∈ [0, 1, 2], ∀ m ∈ [2, 4], (let s := (bmState [(2, pol), (5, 3)] m none).dev.sys
        s.role = 2 ∧ s.cfgN 0x6400 5 ≤ NMap.get s.fab.missed 5 + 1 ∧ s.cfgN 0x6400 2 = pol ∧ s.placeOf 5 = some 5 ∧ 5 ∉ s.fab.handled))
    ∧ ((bmState [] 2 none).dev.sys.placeOf 66 = none)
    ∧ (∀ spare ∈ [none, some 64], ∀ step ∈ [2, 5], (splice0 step spare).step = step ∧ (splice0 step spare).spare = spare)
    ∧ (∀ pol ∈ [0, 1, 2], (bmState [(2, pol)] 0 (some (splice0 5 none))).dev.sys.role = 2
        ∧ (bmState [(2, pol)] 0 (some (splice0 5 none))).dev.sys.cfgN 0x6400 2 = pol) := by
  refine ⟨fun _ _ _ => ⟨rfl, rfl, rfl, bmState_sized _ _ _⟩, ?_, ?_, ?_, ?_, ?_, ?_, ?_⟩ <;> decide +kernel

/-- Places of rising addresses are distinct. -/
theorem nodup_of_rising {l : List (Nat × Nat)} (h : (l.map Prod.snd).IsChain (· < ·)) : l.Nodup :=
  List.Nodup.of_map _ ((List.isChain_iff_pairwise.1 h).imp (fun h => Nat.ne_of_lt h))

/-- Slot 0 of two ranks, this device the first: BF16 contributions, FP32 results, credit limit 4. -/
def wRec (compress : Nat) : List Byte :=
  natLe 1 1 ++ zeros 3 ++ natLe 4 2 ++ zeros 16 ++ natLe 8 (2 ^ 20) ++ zeros 2 ++ natLe 1 4 ++ zeros 1 ++ natLe 4 77 ++ natLe 4 1
    ++ natLe 1 compress ++ zeros 19
def wState (cmds : List RCmd) (compress mode : Nat) (t : Slot) (f : FabState → FabState) : State :=
  let s := slotUp cmds 0 1 Epoch.reset
  { s with
    dev.sys.mgmt.dict.values := [(0x6110 * 256 + 1, natLe 1 2), (0x6110 * 256 + 2, natLe 1 1), (0x6110 * 256 + 5, natLe 1 1),
      (0x6300 * 256 + 5, natLe 2 1), (0x7000 * 256 + 1, wRec compress), (0x7000 * 256 + 9, natLe 1 mode ++ zeros 15),
      (0x8010 * 256 + 1, [1] ++ zeros 15), (0x9100 * 256 + 1, rec0)]
    dev.sys.fab := f { s.dev.sys.fab with
      windows := [(0, ⟨1, 0, 31, 77, 0, 4096⟩)], slots := setNth (List.replicate 8 Slot.reset) 0 t
      replay := setNth (List.replicate 16 ⟨0, 0, []⟩) 0 ⟨0, 1, [⟨2, 0, 0, []⟩]⟩ } }
def wSlot : Slot := { Slot.reset with ranks := [1, 2] }
def coll0 (kind : Nat) : Coll :=
  { ring := 0, idx := 0, uid := 9, kind := kind, desc := 4096, e := 128, src := 65536, res := 131072, err := 196608, record := 262144,
    nextSeg := [], unacked := [], written := [], missing := [], mismatched := [], heldUse := [], nonfinite := 0, replaced := 0,
    status := 0, expired := false, stalled := false, tally := [], snap := ([], []) }
def runs (c : Coll) : Slot := { wSlot with running := some c }

/-- The descriptor of a collective of a kind on slot 0 over 128 elements. -/
def collD0 (kind e : Nat) : List Byte :=
  natLe 4 kind ++ zeros 4 ++ natLe 8 e ++ natLe 8 65536 ++ natLe 8 131072 ++ zeros 8 ++ natLe 8 (if kind = 1 then 262144 else 0)
    ++ natLe 4 (if kind = 1 then 256 else 0) ++ zeros 12
def collCmd (kind e : Nat) (checked : Bool) : RCmd :=
  { cmdOf 3 (zeros 8 ++ natLe 8 4096) with checked := checked, desc := if checked then collD0 kind e else [] }
def collState (kind e : Nat) (checked : Bool) (t : Slot) : State := withBytes (wState [collCmd kind e checked] 0 0 t id) [(4096, collD0 kind e)]
theorem collState_clean (k e : Nat) (c : Bool) (t : Slot) (p a n : Nat) : (collState k e c t).dev.CleanRange p a n := with_clean rfl rfl p a n
theorem wState_clean (cs : List RCmd) (k m : Nat) (t : Slot) (f : FabState → FabState) (p a n : Nat) :
    (wState cs k m t f).dev.CleanRange p a n := up_clean p a n
theorem wState_sized (cs : List RCmd) (k m : Nat) (t : Slot) (f : FabState → FabState) (h : ∀ x, (f x).ports = x.ports ∧ (f x).slots = x.slots
      ∧ (f x).epochs = x.epochs ∧ (x.replay.length = 16 → (f x).replay.length = 16) ∧ (f x).observed = x.observed ∧ (f x).missed = x.missed) :
    (wState cs k m t f).dev.sys.Sized := by
  have hs := slotUp_sized cs 0 1 Epoch.reset
  obtain ⟨h1, h2, h3, h4, h5, -, h7, -, h9⟩ := hs
  exact ⟨h1, h2, h3, h4, by simpa [wState, h] using h5, by simp [wState, h, setNth], by simpa [wState, h] using h7,
    by simp [wState, h, setNth], by simpa only [wState, h] using h9⟩
theorem wState_coherent (cs : List RCmd) (k m : Nat) (t : Slot) (f : FabState → FabState) : (wState cs k m t f).dev.mem.Coherent := up_coherent

/-- A sound descriptor of each kind, one whose E is too large, a slot that is idle and one that runs; both kinds of segment to an owner,
plain and compressed. -/
theorem wit_CollectivesStartAndSend :
    (∀ k ∈ [1, 2], ∀ e ∈ [128, 2 ^ 38], ∀ c : Bool, (collState k e c wSlot).dev.sys.startedCmd 0 0 3 0 = some (collCmd k e c)
      ∧ (collState k e c wSlot).dev.mem.wf = true ∧ (collState k e c wSlot).dev.sys.ringPart 0 = 0 ∧ field (collCmd k e c).bytes 24 8 = 4096)
    ∧ (∀ k ∈ [1, 2], (let s := collState k 128 false wSlot
        let b := (List.range 64).map (fun j => s.dev.byteOf 0 (4096 + j))
        s.dev.sys.collFail 0 b = none ∧ s.dev.collRanges 0 (CollD.of b) = true ∧ (CollD.of b).slot = 0))
    ∧ (let s := collState 1 (2 ^ 38) false wSlot
      s.dev.sys.collFail 0 ((List.range 64).map (fun j => s.dev.byteOf 0 (4096 + j))) = some 8)
    ∧ (∀ k ∈ [1, 2], (CollD.of (collCmd k 128 true).desc).slot = 0)
    ∧ ((collState 1 128 true wSlot).dev.sys.slot 0 = wSlot ∧ (collState 1 128 true (runs (coll0 1))).dev.sys.slot 0 = runs (coll0 1))
    ∧ (∀ k ∈ [1, 2], ∀ z ∈ [0, 1], (let s := wState [] z 0 (runs (coll0 k)) id
        s.dev.sys.coll 0 = some (coll0 k) ∧ (s.dev.sys.slotCfg 0).n = 2 ∧ 0 < (s.dev.sys.slotCfg 0).segs k 128 0 1
          ∧ 0 < (s.dev.sys.slotCfg 0).credit ∧ s.dev.sys.ready = true ∧ s.dev.sys.unitStopped 0x15 0 = false ∧ s.dev.sys.resetting 0 = false
          ∧ (s.dev.sys.slotCfg 0).compress = (z == 1)))
    ∧ (wState [] 1 0 (runs (coll0 1)) id).dev.Writable 0 [(196608 + 2 * 64, zeros (2 * 64))]
    ∧ (∀ cs k m t, (wState cs k m t id).dev.sys.Sized)
    ∧ (∀ k e c t p a n, (collState k e c t).dev.CleanRange p a n) ∧ (∀ cs k m t f p a n, (wState cs k m t f).dev.CleanRange p a n) := by
  refine ⟨?_, ?_, ?_, ?_, ?_, ?_, writable_of ?_ ?_ (fun a n => wState_clean _ _ _ _ _ 0 a n),
    fun _ _ _ _ => wState_sized _ _ _ _ _ (by simp), collState_clean, wState_clean⟩ <;> decide +kernel

/-- Rank `rank`'s only segment of sequence `seq` for a slot of two ranks and 128 elements. -/
def segP (gather : Bool) (src seq : Nat) : Pkt :=
  { putP with src := src, offset := seq * 2 ^ 32 + 2 ^ 38 + (if gather then 2 ^ 39 else 0), len := if gather then 256 else 128
              payload := zeros (if gather then 256 else 128) }
def seg0 (rank seq : Nat) (taken : Bool) : Seg := ⟨rank, seq, 0, segP false (rank + 1) seq, taken, []⟩

/-- The segment of `segP` on its slot's VC, in its delivery queue. -/
def segX (g : Bool) (q : Nat) : RPkt := ⟨segP g 2 q, 3, 0, 16, false⟩
def segS (g : Bool) (q : Nat) (t : Slot) (sl : List ReplaySlot) : State :=
  { wState [] 0 0 t (replaying sl) with dev.sys.fab.deliver := [segX g q] }

theorem segS_comes (g : Bool) (q : Nat) (hq : q ∈ [0, 1, 5]) (t : Slot) (sl : List ReplaySlot) :
    (segS g q t sl).Comes (segP g 2 q) (segX g q) := by
  have h : ∀ g : Bool, ∀ q ∈ [0, 1, 5], (segS g q wSlot []).dev.sys.ready = true ∧ (segS g q wSlot []).dev.sys.routerUp = true
      ∧ pktWf (segP g 2 q) = true := by decide +kernel
  exact comes_of ⟨(h g q hq).1, (h g q hq).2.1, (h g q hq).2.2, rfl, by simp [segS, segX], by simp [segS]⟩

/-- Slots for each clause: one staged, consumed, mismatched, missed segment; sequences ahead, current and out of reach; an all-gather
segment; the first and the last contribution. -/
theorem wit_SegmentsAreTakenOnce :
    (∀ g : Bool, ∀ q ∈ [0, 1, 5], ∀ t sl, (segS g q t sl).Comes (segP g 2 q) (segX g q))
    ∧ (∀ t sl, (wState [] 0 0 t (replaying sl)).dev.sys.Sized)
    ∧ (∀ g : Bool, ∀ q ∈ [0, 1, 5], (segS g q wSlot []).dev.sys.segSlot (segX g q) = some 0
        ∧ segGather (segP g 2 q) = g ∧ segSeq (segP g 2 q) = q ∧ segJ (segP g 2 q) = 0 ∧ segLast (segP g 2 q) = true)
    ∧ (let s := wState [] 0 0 wSlot (replaying [])
      s.dev.sys.unitStopped 0x15 0 = false ∧ s.dev.sys.window 0 = ⟨1, 0, 31, 77, 0, 4096⟩ ∧ s.dev.sys.resetting 0 = false
        ∧ (s.dev.sys.ranks 0).idxOf? 2 = some 1 ∧ (s.dev.sys.ranks 0).idxOf? 9 = none ∧ s.dev.sys.partEnabled 0 = true
        ∧ s.dev.sys.mgmt.rel.mgmtStopped = false)
    ∧ (isFresh (((segS false 0 wSlot []).dev.sys.less (segX false 0)).replayOf 0 (segP false 2 0)) = true
      ∧ isRecorded (((segS false 0 wSlot [⟨1, 1, 0, 0⟩]).dev.sys.less (segX false 0)).replayOf 0 (segP false 2 0)) = true
      ∧ isUnknown (((segS false 0 wSlot [⟨1, 4097, 0, 0⟩]).dev.sys.less (segX false 0)).replayOf 0 (segP false 2 0)) = true)
    ∧ (((seg0 1 0 false).seq % 64 == segSeq (segP false 2 0) && (seg0 1 0 false).j == segJ (segP false 2 0)) = true
      ∧ ((0 : Nat) % 64 == segSeq (segP false 2 0)) = true ∧ ((0 + 1) % 64 == segSeq (segP false 2 1)) = true
      ∧ (0 % 64 == segSeq (segP false 2 5)) = false ∧ ((0 + 1) % 64 == segSeq (segP false 2 5)) = false)
    ∧ (∀ g : Bool, (let k := (wState [] 0 0 (runs (coll0 (if g then 2 else 1))) (replaying [])).dev.sys.slotCfg 0
        k.segs (if g then 2 else 1) 128 1 0 = 1 ∧ (segP g 2 0).len = k.wire (if g then 2 else 1) 128 1 0 0 ∧ k.n = 2
          ∧ shardLen 128 2 0 = 64 ∧ shardSize 128 2 = 64 ∧ k.outBytes = 4 ∧ segLen (shardLen 128 2 0) k.g 0 = 64))
    ∧ (wState [] 0 0 (runs (coll0 2)) (replaying [])).dev.Writable 0 [(131072 + 1 * 64 * 4, zeros 256)]
    ∧ (wState [] 0 0 { runs (coll0 1) with staged := [seg0 0 0 true] } (replaying [])).dev.Writable 0 [(131072, zeros 256)] := by
  refine ⟨fun g q hq t sl => segS_comes g q hq t sl, fun _ _ => wState_sized _ _ _ _ _ (by simp [replaying, setNth]), ?_, ?_, ?_, ?_, ?_,
    writable_of (nodup_of_rising ?_) ?_ (fun a n => wState_clean _ _ _ _ _ 0 a n),
    writable_of (nodup_of_rising ?_) ?_ (fun a n => wState_clean _ _ _ _ _ 0 a n)⟩ <;> decide +kernel

/-- A reduce-scatter whose budget ends, a stalled one, and one of each kind that has sent and written all. -/
def ended (kind : Nat) : Coll :=
  { coll0 kind with written := [(0, 0), (1, 0)], nextSeg := [(0, 1), (1, 1)] }
def straggling : Slot := { runs (coll0 1) with consumed := [(0, 0, 0)] }
theorem wit_CollectivesEnd :
    (let s := wState [] 0 2 straggling id;
      s.dev.sys.coll 0 = some (coll0 1) ∧ (s.dev.sys.slotCfg 0).mode ≠ 0
        ∧ (List.range (s.dev.sys.slotCfg 0).n).any (fun r => (s.dev.sys.slot 0).consumed.any (fun y => y.1 == r && y.2.1 == (s.dev.sys.slot 0).seq)) = true
        ∧ s.dev.sys.received 0 (coll0 1) = false ∧ s.dev.sys.partEnabled 0 = true ∧ s.dev.sys.mgmt.rel.mgmtStopped = false)
    ∧ (({ coll0 1 with stalled := true } : Coll).stalled = true ∧ (wState [] 0 2 straggling id).dev.sys.received 0 (coll0 1) = false)
    ∧ (∀ k ∈ [1, 2], (let s := wState [{ collCmd 1 128 true with begun := true }] 0 0 (runs (ended k)) id
        s.dev.sys.coll 0 = some (ended k) ∧ s.dev.sys.received 0 (ended k) = true ∧ s.dev.sys.sentAll 0 (ended k) = true
          ∧ (∃ y ∈ (s.dev.sys.ring 0).cmds, y.uid = 9)))
    ∧ (let s := wState [{ collCmd 1 128 true with begun := true }] 0 0 (runs (ended 2)) id
      s.dev.Writable 0 [statusWord 4096 0 0 0])
    ∧ (let s := wState [{ collCmd 1 128 true with begun := true }] 0 0 (runs (ended 1)) id
      s.dev.Writable 0 [(262144, zeros (64 + 4 * ((ended 1).missing ++ (ended 1).mismatched).dedup.length
        + 8 * ((ended 1).heldUse.filter (fun h => decide (h.rank < 2))).length)), statusWord 4096 0 0 0]) := by
  refine ⟨?_, ?_, ?_, writable_of ?_ ?_ (fun a n => wState_clean _ _ _ _ _ 0 a n), writable_of ?_ ?_ (fun a n => wState_clean _ _ _ _ _ 0 a n)⟩
    <;> decide +kernel

/-! ## Events, partition resets, Ethernet ports and queue pairs -/

/-- Partition 0 with an event ring of four slots at 32768, its sequences and losses, and the events that wait. -/
def evState (next lostSince : Nat) (es : List EvRec) : State := { up with
  dev.sys.host.parts := setNth (List.replicate 16 Partition.reset) 0 { Partition.reset with
    nextSeq := next, lostSince := lostSince
    inForce := ⟨entry0.take 32 ++ natLe 8 32768 ++ natLe 4 4 ++ zeros 20, [(0, 3 + 1024 * 2 ^ 30)]⟩ }
  dev.sys.host.events := es }
def ev0 (part : Nat) : EvRec := ⟨part, 0x0403, 2, natLe 4 7⟩

theorem evState_clean (n l : Nat) (es : List EvRec) (p a k : Nat) : (evState n l es).dev.CleanRange p a k :=
  clean_of_sound p a k (by decide +kernel : ∀ t ∈ up.dev.mem.dram, t.poisoned = []) (by decide +kernel : ∀ c ∈ up.dev.mem.slices, ∀ l ∈ c.lines, l.poison = false)

/-- An event of a disabled partition, one that finds room, one that finds none; a poll without a loss, and one with a loss and room. -/
theorem wit_EventsReachTheirRings :
    (∀ n ∈ [1, 4, 5], ∀ l ∈ [0, 3], (let s := evState n l [ev0 0]
        s.dev.mem.wf = true ∧ s.dev.sys.mgmt.rel.mgmtStopped = false ∧ s.dev.sys.host.events = [ev0 0] ∧ s.dev.sys.ready = true
          ∧ s.dev.sys.partEnabled 0 = true ∧ (s.dev.sys.part 0).evEntries = 4
          ∧ s.dev.rangeOk 0 (s.dev.sys.part 0).evAddr (64 + 32 * 4) true = true ∧ s.dev.numAt 0 (s.dev.sys.part 0).evAddr 8 = 0
          ∧ (s.dev.sys.part 0).lostSince = l ∧ (s.dev.sys.part 0).nextSeq = n))
    ∧ (4 ≤ 0 + 4 ∧ ¬5 ≤ 0 + 4) ∧ (∀ n l es p a k, (evState n l es).dev.CleanRange p a k)
    ∧ (evState 1 0 [ev0 3]).dev.sys.partEnabled 3 = false ∧ (evState 1 0 []).dev.sys.host.events = []
    ∧ (evState 1 0 [ev0 0]).dev.Writable 0 [(32768 + 64 + 32 * ((1 - 1) % 4), natLe 2 0x0403 ++ natLe 2 2 ++ natLe 1 0 ++ zeros 3
        ++ natLe 8 1 ++ ((ev0 0).detail ++ zeros 16).take 16)]
    ∧ (evState 4 3 []).dev.Writable 0 [(32768 + 64 + 32 * ((4 - 1) % 4), natLe 2 0x0601 ++ natLe 2 0 ++ natLe 1 0 ++ zeros 3
        ++ natLe 8 4 ++ (natLe 8 3 ++ zeros 16).take 16), (32768 + 8, natLe 8 (0 + 3))] := by
  refine ⟨?_, ?_, evState_clean, ?_, ?_, writable_of ?_ ?_ (fun a k => evState_clean _ _ _ 0 a k),
    writable_of ?_ ?_ (fun a k => evState_clean _ _ _ 0 a k)⟩ <;> decide +kernel

/-- Partition 0 in a step of its reset with a set that waits, and an operation of an executor. -/
def resetState (step : Nat) (w : Option PartSet) (q : List (List ExecOp)) : State := { up with
  dev.sys.host.parts := setNth up.dev.sys.host.parts 0 { up.dev.sys.part 0 with resetStep := step, waiting := w }
  dev.sys.host.execQ := q }

theorem wit_PartitionResetsApply :
    (∀ step ∈ [0, 5], ∀ w ∈ [none, some ⟨entry0, [(0, 3 + 1024 * 2 ^ 30)]⟩], (let s := resetState step w (List.replicate 8 [])
        s.dev.mem.wf = true ∧ (s.dev.sys.part 0).resetStep = step ∧ (s.dev.sys.part 0).waiting = w ∧ s.dev.sys.readyRemaps = []
          ∧ s.dev.sys.partEnabled 0 = true ∧ s.dev.sys.mgmt.rel.mgmtStopped = false ∧ field entry0 0 1 = 1
          ∧ ¬∃ l ∈ s.dev.sys.host.execQ, ∃ o ∈ l, o.part = 0))
    ∧ (∃ l ∈ (resetState 5 none (setNth (List.replicate 8 []) 0 [⟨tPkt 4, 0, 0⟩])).dev.sys.host.execQ, ∃ o ∈ l, o.part = 0) := by
  refine ⟨?_, [⟨tPkt 4, 0, 0⟩], ?_, ⟨tPkt 4, 0, 0⟩, ?_, rfl⟩ <;> decide +kernel

/-- Ethernet port 0 as given, priority 0 with flow control or without. -/
def ethState (pfc : Nat) (e : EthPort) : State := { up with
  dev.sys.mgmt.dict.values := [(0x9002 * 256 + 1, natLe 1 pfc), (0x9001 * 256 + 1, natLe 4 5)]
  dev.sys.host.eth := setNth up.dev.sys.host.eth 0 e }
def ethUp (fill : Nat) (x : Bool) : EthPort :=
  { EthPort.reset with up := true, fill := setNth (rep0 8) 0 fill, xoff := setNth (List.replicate 8 false) 0 x }
def frame0 (n : FrameNet) : FrameIn := ⟨true, 1500, 0, 0, true, 0, n⟩

theorem eth_sized (e : EthPort) (h : e.counts.length = 8 ∧ e.fill.length = 8 ∧ e.xoff.length = 8 ∧ e.pausedTx.length = 8 ∧ e.heldTx.length = 8) :
    ∀ x ∈ setNth up.dev.sys.host.eth 0 e, x.counts.length = 8 ∧ x.fill.length = 8 ∧ x.xoff.length = 8 ∧ x.pausedTx.length = 8
      ∧ x.heldTx.length = 8 := by
  intro x hx
  rw [show setNth up.dev.sys.host.eth 0 e = [e, EthPort.reset] from rfl] at hx
  rcases List.mem_cons.1 hx with rfl | hx
  · exact h
  · rw [List.mem_singleton.1 hx]; exact ⟨rfl, rfl, rfl, rfl, rfl⟩
theorem ethUp_sized (fill : Nat) (x : Bool) : (ethUp fill x).counts.length = 8 ∧ (ethUp fill x).fill.length = 8
    ∧ (ethUp fill x).xoff.length = 8 ∧ (ethUp fill x).pausedTx.length = 8
    ∧ (ethUp fill x).heldTx.length = 8 := ⟨rfl, rfl, rfl, rfl, rfl⟩

theorem ethState_sized (pfc : Nat) (e : EthPort) (h : e.counts.length = 8 ∧ e.fill.length = 8 ∧ e.xoff.length = 8 ∧ e.pausedTx.length = 8 ∧ e.heldTx.length = 8) :
    (ethState pfc e).dev.sys.Sized := by
  refine ⟨?_, ?_, ?_, ?_, ?_, ?_, ?_, ?_, ?_, ?_, ?_, ?_, ?_, ?_, ?_, ?_, ?_, ?_, ?_, ?_, ?_, ?_, ?_, ?_⟩
  case refine_16 => intro l h; cases h
  case refine_12 => exact eth_sized e h
  all_goals rfl

/-- Port 0 down, with the external laser lines given and every hold over. -/
def ethLit (lineUp : List Nat) : State :=
  let s := ethState 0 EthPort.reset
  { s with dev.sys.mgmt.power := { s.dev.sys.mgmt.power with lineUp := lineUp, laserHeld := List.replicate 6 true } }

/-- A port that is up and one that is down, lit and dark, a sound frame and frames of each fault, buffers below, between and above the marks. -/
theorem wit_EthernetPortsKeepTheirBuffers :
    (∀ pfc fill x, (ethState pfc (ethUp fill x)).dev.sys.Sized) ∧ (ethState 0 EthPort.reset).dev.sys.Sized
    ∧ (∀ pfc e, (ethState pfc e).dev.sys.mgmt.bring.phase = 8 ∧ (ethState pfc e).dev.sys.mgmt.rel.mgmtStopped = false)
    ∧ (∀ fill ∈ [0, 262000, 600000, 800000], ∀ x : Bool, ∀ pfc ∈ [0, 1], (let s := ethState pfc (ethUp fill x)
        s.dev.sys.eth 0 = ethUp fill x ∧ (ethUp fill x).up = true ∧ nth (ethUp fill x).fill 0 = fill ∧ (ethUp fill x).xoff.getD 0 false = x
          ∧ bit (s.dev.sys.cfgN 0x9002 1) 0 = (pfc == 1)))
    ∧ ((ethState 0 EthPort.reset).dev.sys.eth 0).up = false ∧ (ethState 1 (ethUp 0 false)).dev.sys.vlanOk 0 0 = true
    ∧ (ethState 1 (ethUp 0 false)).dev.sys.vlanOk 0 7 = false
    ∧ ¬((frame0 .other).fcsOk = false ∨ (frame0 .other).len < 64 ∨ 9216 < (frame0 .other).len ∨ (frame0 .other).dest = 1
        ∨ (frame0 .other).supported = false)
    ∧ (0 + (frame0 .other).len ≤ 262144 ∧ ¬262000 + (frame0 .other).len ≤ 262144 ∧ 786432 < 800000)
    ∧ ((ethState 0 (ethUp 0 false)).dev.sys.ownAddr 0 (.v4 5) = true ∧ (ethState 0 (ethUp 0 false)).dev.sys.ownAddr 0 (.v4 6) = false
      ∧ (frame0 (.ask (.v4 5))).net = .ask (.v4 5) ∧ linkLocal (ethState 0 (ethUp 0 false)).dev.sys.mgmt.sec.mgmtMac ≠ zeros 16
      ∧ (ethState 0 (ethUp 0 false)).dev.sys.mgmtUp = true)
    ∧ (∀ lineUp ∈ [rep0 6, List.replicate 6 0xFFFF], (ethLit lineUp).dev.sys.mgmt.power.lit 4 = (lineUp != rep0 6)
      ∧ (ethLit lineUp).dev.sys.mgmt.power.laserHeld.getD 4 false = true ∧ ((ethLit lineUp).dev.sys.eth 0).up = false) := by
  refine ⟨fun _ _ _ => ethState_sized _ _ (ethUp_sized _ _), ethState_sized _ _ ⟨rfl, rfl, rfl, rfl, rfl⟩, fun _ _ => ⟨rfl, rfl⟩, ?_, ?_, ?_, ?_, ?_, ?_, ?_, ?_⟩ <;> decide +kernel

/-- Ring 0's queue pair 0, ready on an Ethernet port that is up: key 5, access bits 0 to 2 as given, retry count 3, RNR retry count `rnr`, `slots` SEND slots at
65536. -/
def qpRec (access slots rnr : Nat) : List Byte :=
  natLe 1 1 ++ zeros 43 ++ natLe 4 5 ++ natLe 1 access ++ natLe 1 (3 + rnr * 16) ++ zeros 2 ++ natLe 4 slots ++ natLe 8 65536
def qpState (cmds : List RCmd) (access slots : Nat) (f : Qp → Qp) : State := { ringUp cmds with
  dev.sys.host.eth := setNth up.dev.sys.host.eth 0 (ethUp 0 false)
  dev.sys.host.qps := [(0, f { Qp.reset with record := qpRec access slots 0 })] }
def message (read : Bool) : QpReq := ⟨read, 0, 5, if read then [] else zeros 8, 8, 0, if read then some 0 else none, 4096⟩
def waitingQp (read : Bool) (retries : Nat) (q : Qp) : Qp := { q with outstanding := [message read], retries := retries }

theorem qpState_sized (cs : List RCmd) (a n : Nat) (f : Qp → Qp) : (qpState cs a n f).dev.sys.Sized := by
  refine ⟨?_, ?_, ?_, ?_, ?_, ?_, ?_, ?_, ?_, ?_, ?_, ?_, ?_, ?_, ?_, ?_, ?_, ?_, ?_, ?_, ?_, ?_, ?_, ?_⟩
  case refine_16 => intro l h; cases h
  case refine_12 => exact eth_sized _ (ethUp_sized 0 false)
  all_goals rfl
theorem qpState_clean (cs : List RCmd) (n k : Nat) (f : Qp → Qp) (p a m : Nat) : (qpState cs n k f).dev.CleanRange p a m := up_clean p a m

/-- Accesses granted and refused, areas of none and of one slot, a write, a read and a SEND that pass, and requests outstanding. -/
theorem wit_QueuePairsAnswer :
    (∀ cs n k f, (qpState cs n k f).dev.sys.Sized ∧ (qpState cs n k f).dev.mem.Coherent)
    ∧ (∀ n ∈ [0, 7], ∀ k ∈ [0, 1], (let s := qpState [] n k id
        s.dev.sys.qpLive 0 = true ∧ (s.dev.sys.qp 0).part = 0 ∧ (s.dev.sys.qp 0).rkey = 5 ∧ (s.dev.sys.qp 0).slots = k
          ∧ (s.dev.sys.qp 0).access 0 = (n == 7) ∧ (s.dev.sys.qp 0).access 1 = (n == 7) ∧ (s.dev.sys.qp 0).access 2 = (n == 7)
          ∧ (s.dev.sys.qp 0).area = 65536))
    ∧ (let s := qpState [] 7 1 id
      s.dev.rangeOk 0 4096 8 true = true ∧ s.dev.rangeUp 0 4096 8 = true ∧ s.dev.rangeOk 0 4096 8 false = true
        ∧ s.dev.rangeOk 0 65536 (64 + 4160 * 1) true = true ∧ s.dev.rangeUp 0 65536 (64 + 4160 * 1) = true
        ∧ s.dev.numAt 0 65536 8 = 0 ∧ (s.dev.sys.qp 0).sends + 1 ≤ 0 + 1)
    ∧ ((qpState [] 7 1 (fun q => { q with sends := 1 })).dev.sys.qp 0).sends = 1
    ∧ (qpState [] 7 1 (fun q => { q with record := q.record.take 56 ++ natLe 8 (2 ^ 32) })).dev.rangeOk 0 (2 ^ 32) (64 + 4160 * 1) true = false
    ∧ (∀ cs f, (qpState cs 7 1 f).dev.Writable 0 [(4096, zeros 8)])
    ∧ (qpState [] 7 1 id).dev.Writable 0 [(65536 + 64, zeros 8), (65536 + 64 + 4096, natLe 4 8), (65536 + 64 + 4104, natLe 8 (0 + 1))]
    ∧ (∀ rd : Bool, ∀ n ∈ [0, 3], (let q := (qpState [cmdOf 2 []] 7 1 (waitingQp rd n)).dev.sys.qp 0
        q.outstanding = [message rd] ∧ q.retries = n ∧ bits (field q.record 49 1) 2 0 = 3 ∧ (message rd).read = rd))
    ∧ (∀ n ∈ [0, 2, 7], bits (field (qpRec 7 1 n) 49 1) 6 4 = n ∧ bits (field (qpRec 7 1 n) 49 1) 2 0 = 3)
    ∧ (let s := qpState [cmdOf 2 []] 7 1 (waitingQp true 0)
      (s.dev.sys.ring 0).cmd? 0 = some (cmdOf 2 []) ∧ (message true).cmd = some 0 ∧ (zeros 8).length = (message true).len
        ∧ s.dev.sys.ringPart 0 = 0 ∧ s.dev.rangeOk 0 4096 8 true = true ∧ s.dev.rangeUp 0 4096 8 = true) := by
  refine ⟨fun _ _ _ _ => ⟨qpState_sized _ _ _ _, up_coherent⟩, ?_, ?_, ?_, ?_,
    fun cs f => writable_of (d := (qpState cs 7 1 f).dev) ?_ ?_ (fun a m => qpState_clean _ _ _ _ 0 a m),
    writable_of ?_ ?_ (fun a m => qpState_clean _ _ _ _ 0 a m), ?_, ?_, ?_⟩
  case refine_5 => exact (by decide +kernel : (up.dev.places 0 [(4096, zeros 8)]).Nodup)
  case refine_6 => exact (by decide +kernel : up.dev.rangeOk 0 4096 8 true && true = true)
  all_goals decide +kernel


/-! ## The test access port -/

/-- A powered port, open for a scope or closed. -/
def tapState (op : Bool) (scope : Nat) : State := { inPhaseState 8 with
  dev.sys.mgmt.sec.debugOpen := op
  dev.sys.mgmt.sec.scope := scope }

theorem wit_ClosedPortBypasses : (tapState false 0).dev.sys.mgmt.power.mgmtRail = true ∧ (tapState false 0).dev.sys.mgmt.sec.debugOpen = false
    ∧ (tapState false 0).dev.sys.mgmt.power.atRest = false := by
  decide +kernel

/-- An address below the key area's end, one beyond it, and the last word. -/
theorem wit_OpenPortExecutes :
    ((tapState true 3).dev.sys.mgmt.power.mgmtRail = true ∧ (tapState true 3).dev.sys.mgmt.sec.debugOpen = true
      ∧ (tapState true 3).dev.sys.mgmt.sec.scope = 3)
    ∧ ((tapState true 3).dev.sys.mgmt.sec.isKey 4095 = true ∧ (tapState true 3).dev.sys.mgmt.sec.isKey 4096 = false
      ∧ (tapState true 3).dev.sys.mgmt.sec.isKey (2 ^ 32 - 1) = false ∧ 2 ^ 32 - 8 + 7 < 2 ^ 32) ∧ 159 < 2 ^ 16 := by
  decide +kernel
end Sys2Proof.Tests
end

section
/-! PROOF. Commands complete: a command's meaning changes the device alone. -/

namespace Sys2Proof.Machine

open Sys2Proof

/-- Every command but the one with a stop is one effect on the device, lifted by `onDev`, `onSys` or `onRings`. -/
theorem exec_onDev (c : Instr) (s : State) (h : ∀ mv, c ≠ .vin48OvervoltageStop mv) :
    ∃ d, exec c s = .next { s with dev := d } := by
  cases c with
  | vin48OvervoltageStop mv => exact absurd rfl (h mv)
  | _ => exact ⟨_, rfl⟩

/-- Settles O2, from the shape of a command's meaning and the one guard on VIN48 (R2, R44). -/
theorem execKeepsQueue : Obligations.ExecKeepsQueue := by
  refine fun c s => ⟨fun h => ?_, ?_⟩
  · by_cases hc : ∃ mv, c = .vin48OvervoltageStop mv
    · obtain ⟨mv, rfl⟩ := hc
      exact ⟨{ s with dev := vin48Over mv s.dev }, if_neg (Nat.not_lt.2 (h mv rfl)), rfl⟩
    · obtain ⟨d, hd⟩ := exec_onDev c s (fun mv e => hc ⟨mv, e⟩)
      exact ⟨_, hd, rfl⟩
  · rintro mv rfl hmv
    exact if_pos hmv

end Sys2Proof.Machine
end

section
/-! PROOF. Core store accesses: what they leave alone, which take effect, and what those read and write (R220, R229, R271). -/

namespace Sys2Proof.Machine

open Sys2Proof

/-! ### Groups and blocks by their names -/

theorem CoreState.mem_of_group? {c : CoreState} {h : Gid} {x : Group} (hx : c.group? h = some x) : x ∈ c.groups ∧ x.gid = h :=
  ⟨List.mem_of_find?_eq_some hx, by simpa using List.find?_some hx⟩

theorem CoreState.mem_of_block? {c : CoreState} {id : Nat} {b : Block} (hb : c.block? id = some b) : b ∈ c.blocks ∧ b.id = id :=
  ⟨List.mem_of_find?_eq_some hb, by simpa using List.find?_some hb⟩

theorem CoreState.group_unique {c : CoreState} (hn : (c.groups.map Group.gid).Nodup) {x y : Group} (hx : x ∈ c.groups)
    (hy : y ∈ c.groups) (h : x.gid = y.gid) : x = y := List.inj_on_of_nodup_map hn hx hy h

/-- A block after an update that keeps the blocks' names. -/
theorem Sys.onBlock_blk (s : Sys) {id : Nat} {f : Block → Block} (hf : ∀ b, (f b).id = b.id) (k : Nat) :
    (s.onBlock id f).blk k = (s.blk k).map (fun b => if b.id == id then f b else b) := by
  have hp : ((fun b : Block => b.id == k) ∘ fun b => if b.id == id then f b else b) = fun b => b.id == k := by
    funext b
    show ((if b.id == id then f b else b).id == k) = (b.id == k)
    split
    · rw [hf]
    · rfl
  show ((s.core.blocks.map _).find? _) = _
  rw [List.find?_map, hp]
  rfl

theorem Sys.csRead_of_blk {s : Sys} {id : Nat} {b : Block} (h : s.blk id = some b) (a n : Nat) :
    s.csRead id a n = cellsRead b.store a n := by simp [Sys.csRead, h, Block.csRead]

theorem Sys.csRead_congr {s t : Sys} {id : Nat} (h : t.blk id = s.blk id) (a n : Nat) : t.csRead id a n = s.csRead id a n := by
  simp [Sys.csRead, h]

theorem Sys.blk_congr {s t : Sys} (h : t.core.blocks = s.core.blocks) (id : Nat) : t.blk id = s.blk id := by
  simp [Sys.blk, CoreState.block?, h]

/-! ### Core store bytes after a store -/

/-- The block is resident and its core store is canonical. -/
def Sys.StoreOk (s : Sys) (id : Nat) : Prop := ∃ b, s.blk id = some b ∧ cellsWf b.store = true

@[simp] theorem Sys.wakeArr_blk (s : Sys) (id k : Nat) : (s.wakeArr id).blk k = s.blk k := rfl

theorem Sys.csWrite_blk (s : Sys) (id a : Nat) (bs : List Byte) (k : Nat) :
    (s.csWrite id a bs).blk k = (s.blk k).map (fun b => if b.id == id then b.csWrite a bs else b) :=
  s.onBlock_blk (f := fun b => b.csWrite a bs) (fun _ => rfl) k

theorem Sys.csStore_blk_same {s : Sys} {id : Nat} {b : Block} (h : s.blk id = some b) (a : Nat) (bs : List Byte) :
    (s.csStore id a bs).blk id = some (b.csWrite a bs) := by
  simp [Sys.csStore, Sys.csWrite_blk, h, (CoreState.mem_of_block? h).2]

theorem Sys.csWrite_blk_other (s : Sys) {id k : Nat} (h : k ≠ id) (a : Nat) (bs : List Byte) :
    (s.csWrite id a bs).blk k = s.blk k := by
  rw [Sys.csWrite_blk]
  cases hk : s.blk k with
  | none => rfl
  | some b => simp [(CoreState.mem_of_block? hk).2, h]

theorem Sys.StoreOk.csStore {s : Sys} {id : Nat} (h : s.StoreOk id) (a : Nat) (bs : List Byte) : (s.csStore id a bs).StoreOk id := by
  obtain ⟨b, hb, hw⟩ := h
  exact ⟨b.csWrite a bs, Sys.csStore_blk_same hb a bs, cellsWrite_wf a bs hw⟩

/-- Bytes stored read back. -/
theorem Sys.csRead_csStore_same {s : Sys} {id : Nat} (h : s.StoreOk id) (a : Nat) (bs : List Byte) :
    (s.csStore id a bs).csRead id a bs.length = bs := by
  obtain ⟨b, hb, hw⟩ := h
  rw [Sys.csRead_of_blk (Sys.csStore_blk_same hb a bs)]
  exact cellsRead_cellsWrite a bs hw

theorem overlaps_eq_false {a n b m : Nat} : overlaps a n b m = false ↔ b + m ≤ a ∨ a + n ≤ b := by
  simp only [overlaps, decide_eq_false_iff_not]
  omega

/-- Bytes apart from those stored read as before. -/
theorem Sys.csRead_csStore_apart {s : Sys} {id : Nat} (h : s.StoreOk id) {a x n : Nat} {bs : List Byte}
    (hd : overlaps x n a bs.length = false) : (s.csStore id a bs).csRead id x n = s.csRead id x n := by
  obtain ⟨b, hb, hw⟩ := h
  rw [Sys.csRead_of_blk (Sys.csStore_blk_same hb a bs), Sys.csRead_of_blk hb]
  exact cellsRead_cellsWrite_other a x n bs hw (overlaps_eq_false.1 hd).symm

/-! ### What work on one block's core store leaves alone -/

/-- Every group of `t` has the registers, predicates and living threads of one of `s`. -/
def Sys.ThreadsFrom (s t : Sys) : Prop :=
  ∀ y ∈ t.core.groups, ∃ x ∈ s.core.groups, y.gid = x.gid ∧ y.regs = x.regs ∧ y.preds = x.preds ∧ y.live = x.live

theorem Sys.ThreadsFrom.of_map {s t : Sys} {f : Group → Group} (h : t.core.groups = s.core.groups.map f)
    (hf : ∀ g, (f g).gid = g.gid ∧ (f g).regs = g.regs ∧ (f g).preds = g.preds ∧ (f g).live = g.live) : s.ThreadsFrom t := by
  intro y hy
  rw [h] at hy
  obtain ⟨x, hx, rfl⟩ := List.mem_map.1 hy
  exact ⟨x, hx, hf x⟩

theorem Sys.ThreadsFrom.of_eq {s t : Sys} (h : t.core.groups = s.core.groups) : s.ThreadsFrom t :=
  fun y hy => ⟨y, h ▸ hy, rfl, rfl, rfl, rfl⟩

theorem Sys.ThreadsFrom.trans {s t u : Sys} (h : s.ThreadsFrom t) (h' : t.ThreadsFrom u) : s.ThreadsFrom u := by
  intro z hz
  obtain ⟨y, hy, g1, r1, p1, l1⟩ := h' z hz
  obtain ⟨x, hx, g2, r2, p2, l2⟩ := h y hy
  exact ⟨x, hx, g1.trans g2, r1.trans r2, p1.trans p2, l1.trans l2⟩

theorem Sys.ThreadsFrom.regsKeep {s t : State} (hn : (s.dev.sys.core.groups.map Group.gid).Nodup)
    (h : s.dev.sys.ThreadsFrom t.dev.sys) : s.RegsKeep t := by
  intro k x y hx hy
  obtain ⟨hx, gx⟩ := CoreState.mem_of_group? hx
  obtain ⟨hy, gy⟩ := CoreState.mem_of_group? hy
  obtain ⟨x', hx', g, rest⟩ := h y hy
  rwa [CoreState.group_unique hn hx hx' (by rw [gx, ← g, gy])]

/-- From `s` to `t` only the core store of block `id`, free values, values that wait for registers, what is still to take effect and the
matrix queue may have changed, and groups may have moved on. -/
structure Sys.CsFrame (id : Nat) (s t : Sys) : Prop where
  host : t.host = s.host
  fab : t.fab = s.fab
  mgmt : t.mgmt = s.mgmt
  kills : t.core.kills = s.core.kills
  stores : t.core.stores = s.core.stores
  forms : t.core.forms = s.core.forms
  threads : s.ThreadsFrom t
  blk : ∀ k, k ≠ id → t.blk k = s.blk k

variable {id : Nat} {s t u : Sys}

theorem Sys.CsFrame.refl (id : Nat) (s : Sys) : s.CsFrame id s := ⟨rfl, rfl, rfl, rfl, rfl, rfl, .of_eq rfl, fun _ _ => rfl⟩

theorem Sys.CsFrame.trans (h : Sys.CsFrame id s t) (h' : Sys.CsFrame id t u) : Sys.CsFrame id s u where
  host := h'.host.trans h.host
  fab := h'.fab.trans h.fab
  mgmt := h'.mgmt.trans h.mgmt
  kills := h'.kills.trans h.kills
  stores := h'.stores.trans h.stores
  forms := h'.forms.trans h.forms
  threads := h.threads.trans h'.threads
  blk k hk := (h'.blk k hk).trans (h.blk k hk)

theorem Sys.csFrame_drew (s : Sys) (n : Nat) : s.CsFrame id (s.drew n) := ⟨rfl, rfl, rfl, rfl, rfl, rfl, .of_eq rfl, fun _ _ => rfl⟩

theorem Sys.csFrame_csPend (s : Sys) (l : List CsAcc) : s.CsFrame id (s.onCore (fun c => { c with csPend := l })) :=
  ⟨rfl, rfl, rfl, rfl, rfl, rfl, .of_eq rfl, fun _ _ => rfl⟩

theorem Sys.csFrame_mq (s : Sys) (f : List MxOp → List MxOp) : s.CsFrame id (s.onCore (fun c => { c with mq := f c.mq })) :=
  ⟨rfl, rfl, rfl, rfl, rfl, rfl, .of_eq rfl, fun _ _ => rfl⟩

theorem Sys.csFrame_csWrite (s : Sys) (id a : Nat) (bs : List Byte) : s.CsFrame id (s.csWrite id a bs) :=
  ⟨rfl, rfl, rfl, rfl, rfl, rfl, .of_eq rfl, fun _ hk => Sys.csWrite_blk_other s hk a bs⟩

theorem Sys.csFrame_wakeArr (s : Sys) (b : Nat) : s.CsFrame id (s.wakeArr b) := by
  refine ⟨rfl, rfl, rfl, rfl, rfl, rfl, .of_map rfl fun g => ?_, fun _ _ => rfl⟩
  split
  · split <;> exact ⟨rfl, rfl, rfl, rfl⟩
  · exact ⟨rfl, rfl, rfl, rfl⟩

theorem Sys.csFrame_csStore (s : Sys) (id a : Nat) (bs : List Byte) : s.CsFrame id (s.csStore id a bs) :=
  (s.csFrame_csWrite id a bs).trans (Sys.csFrame_wakeArr _ id)

theorem Sys.hold_forms (s : Sys) (gid : Gid) (d : Nat) (vals : List (Nat × Nat)) : (s.hold gid d vals).core.forms = s.core.forms := by
  simp only [Sys.hold, CoreState.forms, Sys.onCore_core, List.map_map]
  refine List.map_congr_left fun k _ => ?_
  simp only [Function.comp_apply]
  split <;> rfl

theorem Sys.csFrame_hold (s : Sys) (gid : Gid) (d : Nat) (vals : List (Nat × Nat)) : s.CsFrame id (s.hold gid d vals) :=
  ⟨rfl, rfl, rfl, rfl, rfl, s.hold_forms gid d vals, .of_eq rfl, fun _ _ => rfl⟩

theorem Sys.csFrame_holdAtom (s : Sys) (gid : Gid) (w : AtomWork) (olds : List (Nat × Nat)) : s.CsFrame id (s.holdAtom gid w olds) := by
  unfold Sys.holdAtom
  split
  · exact Sys.csFrame_hold ..
  · exact .refl _ _

theorem csFrame_csDo (a : CsAcc) (s : Sys) : s.CsFrame a.block (csDo a s) := by
  unfold csDo
  cases a.work with
  | load => exact s.csFrame_hold ..
  | store => exact s.csFrame_csStore ..
  | atom => exact (s.csFrame_csStore ..).trans (Sys.csFrame_holdAtom ..)

theorem csFrame_runAll {β : Type} {f : β → Sys → Sys} {l : List β} (h : ∀ b ∈ l, ∀ x, Sys.CsFrame id x (f b x)) (s : Sys) :
    s.CsFrame id (runAll f l s) :=
  runAll_mem (P := s.CsFrame id) (fun b hb x hx => hx.trans (h b hb x)) (.refl id s)

/-! ### Accesses that take effect, and those that wait -/

theorem csDue_mem (p : Nat → CsAcc → Bool) (k : Nat) (l : List CsAcc) (a : CsAcc) :
    (a ∈ (csDue p k l).1 ∨ a ∈ (csDue p k l).2) ↔ a ∈ l := by
  induction l generalizing k with
  | nil => simp [csDue]
  | cons b l ih =>
    simp only [csDue, List.mem_cons, ← ih (k + 1)]
    split <;> simp only [List.mem_cons] <;> tauto

/-- Accesses of one block wait for no access of another. -/
theorem csDue_block {p : Nat → CsAcc → Bool} (hp : ∀ k a, p k a = true → a.block = id) (k : Nat) (l : List CsAcc) :
    ∀ a ∈ (csDue p k l).1, a.block = id := by
  induction l generalizing k with
  | nil => simp [csDue]
  | cons b l ih =>
    simp only [csDue]
    split
    · rename_i h
      refine List.forall_mem_cons.2 ⟨?_, ih (k + 1)⟩
      rcases (Bool.or_eq_true_iff).1 h with h | h
      · exact hp k b h
      · obtain ⟨c, hc, hbc⟩ := List.any_eq_true.1 h
        simp only [CsAcc.before, Bool.and_eq_true, beq_iff_eq] at hbc
        exact hbc.1.1.1.trans (ih (k + 1) c hc)
    · exact ih (k + 1)

/-- Of the waiting accesses and the new ones, some of the block take effect in order and the rest wait. -/
theorem Sys.csEnter_split (s : Sys) (id : Nat) (now : Bool) (as : List CsAcc) :
    ∃ due rest, s.csEnter id now as
        = runAll csDo due ((s.drew (s.core.csPend.length + as.length)).onCore (fun c => { c with csPend := rest }))
      ∧ (∀ a ∈ due, a.block = id) ∧ ∀ a, (a ∈ due ∨ a ∈ rest) ↔ (a ∈ s.core.csPend ∨ a ∈ as) := by
  refine ⟨_, _, rfl, csDue_block (fun k a h => ?_) 0 _, fun a => (csDue_mem _ 0 _ a).trans List.mem_append⟩
  simp only [Bool.and_eq_true, beq_iff_eq] at h
  exact h.1

theorem Sys.csFrame_csEnter (s : Sys) (id : Nat) (now : Bool) (as : List CsAcc) : s.CsFrame id (s.csEnter id now as) := by
  obtain ⟨due, rest, he, hb, -⟩ := s.csEnter_split id now as
  rw [he]
  exact ((s.csFrame_drew _).trans (Sys.csFrame_csPend _ rest)).trans (csFrame_runAll (fun a ha x => hb a ha ▸ csFrame_csDo a x) _)

/-! ### Drains under way -/

theorem Sys.csFrame_drainWrite (s : Sys) (o : MxOp) (ws : List (Nat × Byte)) : s.CsFrame o.block (s.drainWrite o ws) :=
  ((s.csFrame_drew _).trans (csFrame_runAll (fun _ _ x => x.csFrame_csWrite ..) _)).trans (Sys.csFrame_mq _ _)

theorem Sys.csFrame_drainProgress (s : Sys) (id : Nat) : s.CsFrame id (s.drainProgress id) := by
  unfold Sys.drainProgress
  split
  · exact .refl id s
  split
  · exact .refl id s
  rename_i o _
  split
  · exact .refl id s
  rename_i ho
  obtain rfl : o.block = id := by tauto
  split
  · exact .refl _ s
  dsimp only
  split
  · exact ((s.csFrame_drew _).trans (Sys.csFrame_mq _ _)).trans (Sys.csFrame_drainWrite _ o _)
  · exact .refl _ s

/-- Where no drain of a block is queued, none is under way (R271). -/
theorem Sys.drainProgress_quiet (h : s.StoreQuiet id) : s.drainProgress id = s := by
  unfold Sys.drainProgress
  split
  · rfl
  split
  · rfl
  rename_i o ho
  have hd : o.drain = true := by
    have := List.find?_some ho
    simp only [Bool.and_eq_true] at this
    exact this.2
  rw [if_pos (.inl (h.2 o (List.mem_of_find?_eq_some ho) hd))]

theorem csFrame_enterCs (i : Issue) (now : Bool) (as : List CsAcc) (s : Sys) : s.CsFrame i.blk.id (enterCs i now as s) :=
  (s.csFrame_drainProgress _).trans (Sys.csFrame_csEnter _ _ now as)

/-! ### Loads and stores that take effect in order -/

/-- The values a load of core store brings to its registers. -/
def CsAcc.loads (a : CsAcc) (sx : Bool) (d : Nat) (s : Sys) : List (Nat × Nat) :=
  a.lanes.flatMap (fun l => regVals l d (max 1 (a.size / 4)) (extend sx a.size (leNat (s.csRead a.block a.addr a.size))))

theorem csDo_load {a : CsAcc} {sx : Bool} {d : Nat} (h : a.work = .load sx d) (s : Sys) :
    csDo a s = s.hold a.gid d (a.loads sx d s) := by
  unfold csDo; rw [h]; rfl

theorem csDo_store {a : CsAcc} {bs : List Byte} (h : a.work = .store bs) (s : Sys) : csDo a s = s.csStore a.block a.addr bs := by
  unfold csDo; rw [h]

theorem CsAcc.loads_congr {s t : Sys} (h : t.core.blocks = s.core.blocks) (a : CsAcc) (sx : Bool) (d : Nat) :
    a.loads sx d t = a.loads sx d s := by
  simp only [CsAcc.loads, Sys.csRead_congr (Sys.blk_congr h a.block)]

@[simp] theorem csDo_csPend (a : CsAcc) (s : Sys) : (csDo a s).core.csPend = s.core.csPend := by
  unfold csDo
  split
  · rfl
  · rfl
  · unfold Sys.holdAtom; split <;> rfl

/-- The last collector is of group `gid` with destinations `dests`, holds `vals` among its values, and no collector before it of that
group has one of these destinations. -/
def Sys.LastHolds (s : Sys) (cs : List Collector) (gid : Gid) (dests : List Nat) (vals : List (Nat × Nat)) : Prop :=
  (∀ k ∈ cs, k.gid = gid → ∀ r ∈ dests, r ∉ k.dests)
    ∧ ∃ c, s.core.collectors = cs ++ [c] ∧ c.gid = gid ∧ c.dests = dests ∧ ∀ v ∈ vals, v ∈ c.vals

theorem Sys.LastHolds.hold {s : Sys} {cs : List Collector} {gid : Gid} {dests : List Nat} {vals : List (Nat × Nat)}
    (h : s.LastHolds cs gid dests vals) {d : Nat} (hd : d ∈ dests) (new : List (Nat × Nat)) :
    (s.hold gid d new).LastHolds cs gid dests (vals ++ new) := by
  obtain ⟨hf, c, hc, rfl, rfl, hv⟩ := h
  refine ⟨hf, { c with vals := c.vals ++ new }, ?_, rfl, rfl, fun v hm => ?_⟩
  · have hcs : cs.map (fun k => if k.gid == c.gid && k.dests.contains d then { k with vals := k.vals ++ new } else k) = cs := by
      refine (List.map_congr_left fun k hk => if_neg ?_).trans (List.map_id' cs)
      simp only [Bool.and_eq_true, beq_iff_eq, List.contains_iff_mem]
      exact fun hk' => hf k hk hk'.1 d hd hk'.2
    simp only [Sys.hold, Sys.onCore_core, hc, List.map_append, hcs, List.map_cons, List.map_nil]
    simp [hd]
  · rcases List.mem_append.1 hm with hm | hm
    · exact List.mem_append_left _ (hv v hm)
    · exact List.mem_append_right _ hm

/-- Loads change no core store, and each brings its bytes as they stand to the collector of its instruction. -/
theorem runAll_loads {cs : List Collector} {gid : Gid} {dests : List Nat} (due : List CsAcc) (s : Sys) (vals : List (Nat × Nat))
    (hl : ∀ a ∈ due, a.gid = gid ∧ ∃ sx, ∃ d ∈ dests, a.work = .load sx d) (hs : s.LastHolds cs gid dests vals) :
    (runAll csDo due s).core.blocks = s.core.blocks
      ∧ ∃ vals', (runAll csDo due s).LastHolds cs gid dests vals' ∧ (∀ v ∈ vals, v ∈ vals')
        ∧ ∀ a ∈ due, ∀ sx d, a.work = .load sx d → ∀ v ∈ a.loads sx d s, v ∈ vals' := by
  induction due generalizing s vals with
  | nil => exact ⟨rfl, vals, hs, fun _ hv => hv, nofun⟩
  | cons a due ih =>
    obtain ⟨⟨rfl, sx, d, hd, hw⟩, hl⟩ := List.forall_mem_cons.1 hl
    obtain ⟨hb, vals', hv, hsub, hmem⟩ := ih _ _ hl (hs.hold hd (a.loads sx d s))
    simp only [runAll, csDo_load hw]
    refine ⟨hb, vals', hv, fun v h => hsub v (List.mem_append_left _ h), List.forall_mem_cons.2 ⟨fun sx' d' hw' v h => ?_, hmem⟩⟩
    obtain ⟨rfl, rfl⟩ : sx = sx' ∧ d = d' := by simpa [hw] using hw'
    exact hsub v (List.mem_append_right _ h)

/-- A store of block `id` with as many bytes as its size. -/
def CsAcc.StoresTo (a : CsAcc) (id : Nat) (bs : List Byte) : Prop := a.block = id ∧ a.work = .store bs ∧ bs.length = a.size

/-- Stores keep the bytes apart from theirs. -/
theorem runAll_stores_apart {id : Nat} (due : List CsAcc) (s : Sys) (hs : s.StoreOk id) (hw : ∀ a ∈ due, ∃ bs, a.StoresTo id bs)
    {x n : Nat} (hx : ∀ a ∈ due, overlaps x n a.addr a.size = false) :
    (runAll csDo due s).csRead id x n = s.csRead id x n := by
  induction due generalizing s with
  | nil => rfl
  | cons a due ih =>
    obtain ⟨⟨bs, rfl, hab, hn⟩, hw⟩ := List.forall_mem_cons.1 hw
    obtain ⟨ha, hx⟩ := List.forall_mem_cons.1 hx
    rw [runAll, csDo_store hab, ih _ (hs.csStore a.addr bs) hw hx, Sys.csRead_csStore_apart hs (hn ▸ ha)]

/-- Where any two of some stores are one or lie apart, each one's bytes read back. -/
theorem runAll_stores_read {id : Nat} (due : List CsAcc) (s : Sys) (hs : s.StoreOk id) (hw : ∀ a ∈ due, ∃ bs, a.StoresTo id bs)
    (hd : ∀ a ∈ due, ∀ b ∈ due, a = b ∨ overlaps a.addr a.size b.addr b.size = false) {a : CsAcc} (ha : a ∈ due) {bs : List Byte}
    (hab : a.work = .store bs) : (runAll csDo due s).csRead id a.addr a.size = bs := by
  induction due generalizing s with
  | nil => cases ha
  | cons b due ih =>
    obtain ⟨⟨cs, rfl, hbc, hn⟩, hw⟩ := List.forall_mem_cons.1 hw
    have hs' := hs.csStore b.addr cs
    rw [runAll, csDo_store hbc]
    by_cases hm : a ∈ due
    · exact ih _ hs' hw (fun x hx y hy => hd x (List.mem_cons_of_mem _ hx) y (List.mem_cons_of_mem _ hy)) hm
    · obtain rfl : a = b := (List.mem_cons.1 ha).resolve_right hm
      obtain rfl : cs = bs := by simpa [hbc] using hab
      rw [runAll_stores_apart due _ hs' hw (fun x hx => (hd a ha x (List.mem_cons_of_mem _ hx)).resolve_left (fun e => hm (e ▸ hx))),
        ← hn, Sys.csRead_csStore_same hs]

/-! ### The issue of a core store access -/

theorem Dev.Goes.group {d : Dev} {op : Nat} {g : Gid} {i : Issue} (h : d.Goes op g i) :
    i.grp ∈ d.sys.core.groups ∧ i.grp.gid = g := CoreState.mem_of_group? (Sys.prepare_go h.2).1

theorem Dev.Goes.block {d : Dev} {op : Nat} {g : Gid} {i : Issue} (h : d.Goes op g i) :
    d.sys.core.block? i.grp.block = some i.blk := (Sys.prepare_go h.2).2.2.1

theorem Dev.Goes.blk {d : Dev} {op : Nat} {g : Gid} {i : Issue} (h : d.Goes op g i) : d.sys.blk i.blk.id = some i.blk := by
  have := h.block
  rwa [← (CoreState.mem_of_block? h.block).2] at this

theorem Dev.Goes.storeOk {d : Dev} {op : Nat} {g : Gid} {i : Issue} (h : d.Goes op g i) (hok : d.sys.core.Ok) :
    d.sys.StoreOk i.blk.id := by
  obtain ⟨-, -, hb, -⟩ := hok
  exact ⟨i.blk, h.blk, (hb _ (CoreState.mem_of_block? h.block).1).1⟩

theorem Dev.Goes.opInfo {d : Dev} {op : Nat} {g : Gid} {i : Issue} (h : d.Goes op g i) :
    i.inst.op = op ∧ Machine.opInfo i.blk.regsPer i.inst = some i.info := by
  obtain ⟨-, -, -, -, ho, -, hi, -⟩ := Sys.prepare_go h.2
  exact ⟨ho, hi⟩

/-- The context of a group that issues is not being killed, and the instruction's registers await no result (R179, R204). -/
theorem Dev.Goes.canIssue {d : Dev} {op : Nat} {g : Gid} {i : Issue} (h : d.Goes op g i) :
    d.sys.dying i.blk.part i.blk.ring = false ∧ hazardFree i.grp i.info = true := by
  obtain ⟨-, hc, hb, hx, ho, hd, hi, -⟩ := Sys.prepare_go h.2
  have hn : d.sys.nextInfo i.grp = some i.info := by
    simp only [Sys.nextInfo, hx, ho, hd, if_true, Sys.limitOf, hb, hi]
  simp only [Sys.canIssue, hb, hn, Bool.and_eq_true, Bool.not_eq_true'] at hc
  exact ⟨hc.1.1.2, hc.2⟩

/-- No collector of the group has one of the instruction's destinations (R179). -/
theorem Dev.Goes.fresh {d : Dev} {op : Nat} {g : Gid} {i : Issue} (h : d.Goes op g i) (hok : d.sys.core.Ok) :
    ∀ k ∈ d.sys.core.collectors, k.gid = g → ∀ r ∈ i.info.dests, r ∉ k.dests := by
  intro k hk hg r hr hkr
  obtain ⟨hn, -, -, -, -, hfl, -⟩ := hok
  obtain ⟨x, hx, hxg, hb⟩ := hfl (k.gid, k.dests) (List.mem_append_left _ (List.mem_map_of_mem hk)) r hkr
  obtain ⟨hgm, hgg⟩ := h.group
  obtain rfl := CoreState.group_unique hn hx hgm (hxg.trans (hg.trans hgg.symm))
  have := List.all_eq_true.1 h.canIssue.2 r (List.mem_append_left _ (List.mem_append_right _ hr))
  simp [hb] at this

/-- A fault of the issuing thread starts the kill of its context (R203, Table 16-7). -/
theorem Dev.Goes.groupFault {d : Dev} {op : Nat} {g : Gid} {i : Issue} (h : d.Goes op g i) (code : Nat) :
    d.sys.groupFault i.grp code
      = d.sys.onCore (fun c => { c.countFault code with kills := c.kills ++ [i.kill code], nKills := c.nKills + 1 }) := by
  have hk : (d.sys.core.countFault code).kills = d.sys.core.kills ∧ (d.sys.core.countFault code).nKills = d.sys.core.nKills := by
    unfold CoreState.countFault; split <;> exact ⟨rfl, rfl⟩
  simp only [Sys.groupFault, h.block, Sys.killContext, h.canIssue.1, Sys.onCore, hk.1, hk.2]
  rfl

theorem Group.settleN_threads (n : Nat) (g : Group) : (Group.settleN n g).gid = g.gid ∧ (Group.settleN n g).regs = g.regs
    ∧ (Group.settleN n g).preds = g.preds ∧ (Group.settleN n g).live = g.live := by
  induction n generalizing g with
  | zero => exact ⟨rfl, rfl, rfl, rfl⟩
  | succ n ih =>
    unfold Group.settleN
    split
    · exact ⟨rfl, rfl, rfl, rfl⟩
    · split
      · exact ih _
      · split <;> exact ⟨rfl, rfl, rfl, rfl⟩

theorem Sys.csFrame_settle {id : Nat} (s : Sys) (g : Gid) : s.CsFrame id (s.settle g) := by
  refine ⟨rfl, rfl, rfl, rfl, rfl, rfl, fun y hy => ?_, fun _ _ => rfl⟩
  exact Sys.ThreadsFrom.of_map (s := s) (t := s.onGroup g Group.settle) rfl
    (fun x => by split; exact Group.settleN_threads _ x; exact ⟨rfl, rfl, rfl, rfl⟩) y (List.mem_filter.1 hy).1

theorem Sys.book_threads (s : Sys) (i : Issue) : s.ThreadsFrom (s.book i) := by
  refine .of_map rfl fun g => ?_
  split <;> exact ⟨rfl, rfl, rfl, rfl⟩

end Sys2Proof.Machine
end

section
/-! PROOF. `ld.c` and `st.c` (Table 5-10). -/

namespace Sys2Proof.Machine

open Sys2Proof

/-! ### The accesses of an instruction (Table 5-10) -/

theorem csHalves_eq (i : Issue) (l : Nat) (work : Nat → Nat → CsWork) :
    csHalves i l work = (halves (accSize i.inst)).map (fun h =>
      ⟨i.grp.gid, [l], i.blk.id, i.grp.effAddr i.inst l + h.1, h.2, work h.1 h.2, false⟩) := by
  unfold csHalves halves
  dsimp only
  split <;> rfl

/-- Every executing lane's address is aligned and inside the allocation (R220). -/
def Issue.CsGood (i : Issue) : Prop :=
  ∀ l ∈ i.act, i.grp.effAddr i.inst l % accSize i.inst = 0 ∧ i.grp.effAddr i.inst l + accSize i.inst ≤ i.blk.csBytes

theorem csBad_eq_none {i : Issue} {d : Dev} (h : i.CsGood) : csBad i d = none :=
  if_pos (by simpa [Block.csOk, Issue.CsGood] using h)

theorem csBad_eq_some {i : Issue} {d : Dev} (h : ¬i.CsGood) : csBad i d = some 0x0101 :=
  if_neg (by simpa [Block.csOk, Issue.CsGood] using h)

theorem mem_halves {n : Nat} {h : Nat × Nat} :
    h ∈ halves n ↔ (n = 16 ∧ (h = (0, 8) ∨ h = (8, 8))) ∨ (n ≠ 16 ∧ h = (0, n)) := by
  unfold halves
  split <;> simp [*]

/-- A part lies inside its access. -/
theorem halves_le {n : Nat} {h : Nat × Nat} (hh : h ∈ halves n) : h.1 + h.2 ≤ n := by
  obtain ⟨rfl, rfl | rfl⟩ | ⟨-, rfl⟩ := mem_halves.1 hh <;> simp

/-- Two parts of an access are one or lie apart. -/
theorem halves_apart {n : Nat} {h k : Nat × Nat} (hh : h ∈ halves n) (hk : k ∈ halves n) (a : Nat) :
    h = k ∨ overlaps (a + h.1) h.2 (a + k.1) k.2 = false := by
  by_cases hn : n = 16
  · simp only [mem_halves, hn, true_and, ne_eq, not_true_eq_false, false_and, or_false] at hh hk
    obtain rfl | rfl := hh <;> obtain rfl | rfl := hk <;> simp [overlaps_eq_false]
  · simp only [mem_halves, hn, false_and, ne_eq, not_false_eq_true, true_and, false_or] at hh hk
    exact .inl (hh.trans hk.symm)

theorem leNat_lt (bs : List Byte) : leNat bs < 256 ^ bs.length := by
  induction bs with
  | nil => simp [leNat]
  | cons b bs ih =>
    have := b.isLt
    simp only [leNat, List.length_cons, pow_succ']
    omega

/-- The extension of Table 5-10, of a value of its size that is sign-extended only from one or two bytes. -/
theorem extend_eq_loaded {sx : Bool} {n v : Nat} (hv : v < 256 ^ n) (hs : sx = true → n = 1 ∨ n = 2) :
    extend sx n v = loaded sx n v := by
  cases sx with
  | false => simp [extend, loaded]
  | true =>
    simp only [extend, loaded, if_true, true_and, ofSigned, toSigned]
    obtain rfl | rfl := hs rfl
    · norm_num at hv ⊢
      split_ifs <;> omega
    · norm_num at hv ⊢
      split_ifs <;> omega

/-- Of the well-formed core store accesses only one of one or two bytes extends the sign, and a load's destinations are D's registers. -/
theorem opInfo_core {limit : Nat} {x : CoreInst} {o : OpInfo} (h : opInfo limit x = some o) (hx : x.op = 0x60 ∨ x.op = 0x61) :
    (bit x.mod 3 = true → bits x.mod 2 0 < 2)
      ∧ (x.op = 0x60 → o.dests = regRun x.d (accRegs (bits x.mod 2 0))) := by
  have hm : ∃ r, memInfo limit x = some r ∧ o = { r with preds := r.preds ++ [x.pred] } := by
    rcases hx with hx | hx <;> simp [opInfo, aluRow, hx] at h <;> obtain ⟨r, hr, rfl⟩ := h <;> exact ⟨r, hr, rfl⟩
  obtain ⟨r, hr, rfl⟩ := hm
  simp only [memInfo, Option.ite_none_right_eq_some, Bool.and_eq_true, Bool.or_eq_true, decide_eq_true_eq, Bool.not_eq_true'] at hr
  obtain ⟨⟨⟨⟨⟨⟨-, hsx⟩, -⟩, -⟩, -⟩, -⟩, hr⟩ := hr
  cases hr
  refine ⟨fun hb => (hsx.resolve_left (by simp [hb])).2, fun h60 => by simp [h60]⟩

/-- Each part of a load has its first register among the destinations. -/
theorem halves_dest {z d : Nat} {h : Nat × Nat} (hh : h ∈ halves (accBytes z)) : d + h.1 / 4 ∈ regRun d (accRegs z) := by
  have hz : accBytes z = 16 ↔ z = 4 := (Nat.pow_right_injective (le_refl 2)).eq_iff (b := 4)
  rw [mem_halves, ne_eq, hz] at hh
  refine List.mem_map.2 ⟨h.1 / 4, List.mem_range.2 ?_, rfl⟩
  obtain ⟨rfl, rfl | rfl⟩ | ⟨-, rfl⟩ := hh
  · simp [accRegs]
  · simp [accRegs]
  · unfold accRegs; split_ifs <;> simp

theorem regVals_mem {l r n v j : Nat} (hj : j < n) : (l * 256 + r + j, v / 2 ^ (32 * j) % 2 ^ 32) ∈ regVals l r n v :=
  List.mem_map.2 ⟨j, List.mem_range.2 hj, rfl⟩

theorem insertKey_perm (key : Nat → Nat) (x : Nat) (l : List Nat) : (insertKey key x l).Perm (x :: l) := by
  induction l with
  | nil => exact .refl _
  | cons y t ih =>
    unfold insertKey
    split
    · exact .refl _
    · exact (ih.cons y).trans (.swap x y t)

theorem freeOrder_perm (ctr : Nat) (l : List Nat) : (freeOrder ctr l).Perm l := by
  induction l with
  | nil => exact .refl _
  | cons x l ih => exact (insertKey_perm _ x _).trans (ih.cons x)

/-! ### What every core store access leaves -/

/-- The state in which an instruction's core store accesses have entered, `n` free values having been drawn before. -/
def State.entered (s : State) (i : Issue) (n : Nat) (as : List CsAcc) : State :=
  { s with dev := { s.dev with sys := (enterCs i false as ((s.dev.sys.book i).drew n)).settle i.grp.gid } }

theorem State.entered_frame (s : State) (i : Issue) (n : Nat) (as : List CsAcc) :
    ((s.dev.sys.book i).drew n).CsFrame i.blk.id (s.entered i n as).dev.sys :=
  (csFrame_enterCs i false as _).trans (Sys.csFrame_settle _ _)

theorem State.csBut_of_blk {s t : State} {id : Nat} (h : ∀ k, k ≠ id → t.dev.sys.blk k = s.dev.sys.blk k) {P : Nat → Prop}
    (hP : ∀ x, ¬P x → t.dev.sys.csRead id x 1 = s.dev.sys.csRead id x 1) : s.CsBut t id P := by
  intro b x
  by_cases hb : b = id
  · subst hb
    exact (em (P x)).imp (fun h => ⟨rfl, h⟩) (hP x)
  · exact .inr (Sys.csRead_congr (h b hb) x 1)

/-- The instruction waits in a collector, and nothing but its block's core store and the cores' accesses has changed. -/
theorem State.entered_issues {s : State} {i : Issue} (hok : s.dev.sys.core.Ok) (n : Nat) (as : List CsAcc) :
    let t := s.entered i n as
    s.OnlyCores t ∧ t.dev.mem = s.dev.mem ∧ t.dev.sys.host = s.dev.sys.host ∧ s.Enters t i ∧ s.CsBut t i.blk.id (fun _ => True)
      ∧ t.dev.sys.core.kills = s.dev.sys.core.kills ∧ t.dev.sys.core.stores = s.dev.sys.core.stores := by
  have hf := s.entered_frame i n as
  refine ⟨⟨rfl, hf.fab, hf.mgmt⟩, rfl, hf.host, ⟨?_, ?_⟩, State.csBut_of_blk hf.blk fun _ h => absurd trivial h, hf.kills, hf.stores⟩
  · rw [hf.forms]
    simp [CoreState.forms, Sys.book, Sys.onGroup]
  · exact Sys.ThreadsFrom.regsKeep hok.1 ((s.dev.sys.book_threads i).trans hf.threads)

/-- In a block whose earlier accesses have taken effect, some of the new accesses take effect in order and the others wait. -/
theorem State.entered_quiet {s : State} {i : Issue} (hq : s.dev.sys.StoreQuiet i.blk.id) (n : Nat) (as : List CsAcc) :
    ∃ due u, (s.entered i n as).dev.sys = (runAll csDo due u).settle i.grp.gid ∧ u.core.blocks = s.dev.sys.core.blocks
      ∧ u.core.collectors = (s.dev.sys.book i).core.collectors ∧ (∀ a ∈ due, a ∈ as)
      ∧ ∀ a ∈ as, a ∈ due ∨ a ∈ (s.entered i n as).dev.sys.core.csPend := by
  have hd : ((s.dev.sys.book i).drew n).drainProgress i.blk.id = (s.dev.sys.book i).drew n := Sys.drainProgress_quiet hq
  obtain ⟨due, rest, he, hb, hm⟩ := Sys.csEnter_split ((s.dev.sys.book i).drew n) i.blk.id false as
  have hs : (s.entered i n as).dev.sys = (((s.dev.sys.book i).drew n).csEnter i.blk.id false as).settle i.grp.gid := by
    simp only [State.entered, enterCs, hd]
  rw [he] at hs
  refine ⟨due, _, hs, rfl, rfl, fun a h => ?_, fun a h => ?_⟩
  · exact ((hm a).1 (.inl h)).resolve_left fun h' => hq.1 a h' (hb a h)
  · refine ((hm a).2 (.inr h)).imp id fun h' => ?_
    rw [hs]
    show a ∈ (runAll csDo due _).core.csPend
    rw [runAll_keeps csDo (fun x : Sys => x.core.csPend) csDo_csPend]
    exact h'

section
variable {s : State} {op : Nat} {g : Gid} {i : Issue} {body : Issue → Sys → Sys}

theorem csAccess_held (h : s.dev.Goes op g i) (hf : fenceHeld i s.dev = true) :
    onDev (issuePicked g (fun g => issueDev op g csReady csBad (fun i => liftSys (body i)))) s = .next s := by
  simp [onDev, issuePicked_of h.1, issueDev, h.2, csReady, hf]

theorem csAccess_bad (h : s.dev.Goes op g i) (hf : fenceHeld i s.dev = false) (hg : ¬i.CsGood) :
    onDev (issuePicked g (fun g => issueDev op g csReady csBad (fun i => liftSys (body i)))) s
      = .next { s with dev := liftSys (fun y => y.groupFault i.grp 0x0101) s.dev } := by
  simp only [onDev, issuePicked_of h.1, issueDev, h.2, csReady, hf, Bool.not_false, if_true, csBad_eq_some hg]

theorem csAccess_issues (h : s.dev.Goes op g i) (hf : fenceHeld i s.dev = false) (hg : i.CsGood) :
    onDev (issuePicked g (fun g => issueDev op g csReady csBad (fun i => liftSys (body i)))) s
      = .next { s with dev := { s.dev with sys := (body i (s.dev.sys.book i)).settle i.grp.gid } } := by
  simp only [onDev, issuePicked_of h.1, issueDev, h.2, csReady, hf, Bool.not_false, if_true, csBad_eq_none hg, h.group.2]
  rfl

end

/-! ### ld.c -/

/-- Part `h` of a lane's load. -/
def Issue.loadPart (i : Issue) (l : Nat) (h : Nat × Nat) : CsAcc :=
  ⟨i.grp.gid, [l], i.blk.id, i.grp.effAddr i.inst l + h.1, h.2, .load (bit i.inst.mod 3) (i.inst.d + h.1 / 4), false⟩

theorem mem_ldCLane {i : Issue} {a : CsAcc} :
    a ∈ i.act.flatMap (ldCLane i) ↔ ∃ l ∈ i.act, ∃ h ∈ halves (accSize i.inst), a = i.loadPart l h := by
  simp only [ldCLane, csHalves_eq, List.mem_flatMap, List.mem_map, Issue.loadPart, eq_comm]

theorem Issue.loadPart_value {i : Issue} (hsx : bit i.inst.mod 3 = true → bits i.inst.mod 2 0 < 2) {h : Nat × Nat}
    (hh : h ∈ halves (accSize i.inst)) (s : Sys) (l : Nat) :
    extend (bit i.inst.mod 3) h.2 (leNat (s.csRead i.blk.id (i.grp.effAddr i.inst l + h.1) h.2))
      = loaded (bit i.inst.mod 3) h.2 (leNat (s.csRead i.blk.id (i.grp.effAddr i.inst l + h.1) h.2)) := by
  refine extend_eq_loaded ?_ fun hb => ?_
  · refine (leNat_lt _).trans_eq (congrArg _ ?_)
    unfold Sys.csRead
    split <;> simp [Block.csRead]
  · have hz := hsx hb
    unfold accSize accBytes at hh
    interval_cases bits i.inst.mod 2 0 <;> simp [halves] at hh <;> simp [hh]

/-- Each part of each lane's load has brought its value, or is still to take effect (R229). -/
theorem State.entered_loads {s : State} {g : Gid} {i : Issue} (hg : s.dev.Goes 0x60 g i) (hok : s.dev.sys.core.Ok)
    (hq : s.dev.sys.StoreQuiet i.blk.id) :
    let t := s.entered i 0 (i.act.flatMap (ldCLane i))
    t.dev.sys.core.blocks = s.dev.sys.core.blocks
      ∧ ∀ l ∈ i.act, ∀ h ∈ halves (accSize i.inst), i.loadPart l h ∈ t.dev.sys.core.csPend
        ∨ s.Holds t l (i.inst.d + h.1 / 4) h.2
            (loaded (bit i.inst.mod 3) h.2 (leNat (s.dev.sys.csRead i.blk.id (i.grp.effAddr i.inst l + h.1) h.2))) := by
  intro t
  obtain ⟨due, u, ht, hub, huc, hdue, hwait⟩ := State.entered_quiet hq 0 (i.act.flatMap (ldCLane i))
  obtain ⟨hop, hinfo⟩ := hg.opInfo
  obtain ⟨hsx, hdests⟩ := opInfo_core hinfo (.inl hop)
  have hlast : u.LastHolds s.dev.sys.core.collectors i.grp.gid i.info.dests [] := by
    exact ⟨hg.group.2 ▸ hg.fresh hok, _, huc, rfl, rfl, nofun⟩
  have hloads : ∀ a ∈ due, a.gid = i.grp.gid ∧ ∃ sx, ∃ d ∈ i.info.dests, a.work = .load sx d := by
    intro a ha
    obtain ⟨l, -, h, hh, rfl⟩ := mem_ldCLane.1 (hdue a ha)
    exact ⟨rfl, _, _, hdests hop ▸ halves_dest hh, rfl⟩
  obtain ⟨hblocks, vals, ⟨-, c, hc, -, -, hsub⟩, -, hvals⟩ := runAll_loads due u [] hloads hlast
  refine ⟨(congrArg (fun x : Sys => x.core.blocks) ht).trans (hblocks.trans hub), fun l hl h hh => ?_⟩
  refine (hwait _ (mem_ldCLane.2 ⟨l, hl, h, hh, rfl⟩)).symm.imp id fun hd => ⟨c, ?_, fun j hj => hsub _ (hvals _ hd _ _ rfl _ ?_)⟩
  · exact (congrArg (fun x : Sys => x.core.collectors) ht).trans hc
  · rw [CsAcc.loads_congr hub, ← Issue.loadPart_value hsx hh]
    exact List.mem_flatMap.2 ⟨l, List.mem_singleton.2 rfl, regVals_mem hj⟩

/-! ### st.c -/

/-- The bytes that part `h` of a lane's store writes. -/
def Issue.storeBytes (i : Issue) (l : Nat) (h : Nat × Nat) : List Byte := ((storeData i l).drop h.1).take h.2

/-- Part `h` of a lane's store. -/
def Issue.storePart (i : Issue) (l : Nat) (h : Nat × Nat) : CsAcc :=
  ⟨i.grp.gid, [l], i.blk.id, i.grp.effAddr i.inst l + h.1, h.2, .store (i.storeBytes l h), false⟩

/-- The stores of an instruction, the lanes in a free order. -/
def Issue.stores (i : Issue) (ctr : Nat) : List CsAcc :=
  (freeOrder ctr i.act).flatMap (fun l => csHalves i l (fun o k => .store (((storeData i l).drop o).take k)))

theorem Issue.mem_stores {i : Issue} {ctr : Nat} {a : CsAcc} :
    a ∈ i.stores ctr ↔ ∃ l ∈ i.act, ∃ h ∈ halves (accSize i.inst), a = i.storePart l h := by
  simp only [Issue.stores, csHalves_eq, List.mem_flatMap, List.mem_map, (freeOrder_perm ctr i.act).mem_iff, Issue.storePart,
    Issue.storeBytes, eq_comm]

theorem Issue.storePart_storesTo {i : Issue} (l : Nat) {h : Nat × Nat} (hh : h ∈ halves (accSize i.inst)) :
    (i.storePart l h).StoresTo i.blk.id (i.storeBytes l h) := by
  refine ⟨rfl, rfl, ?_⟩
  have := halves_le hh
  simp only [Issue.storeBytes, storeData, Issue.storePart, List.length_take, List.length_drop, natLe_length]
  omega

/-- Only bytes of the executing lanes' stores may change, and where lanes have distinct bytes each part of each lane's store has been
written or is still to take effect (R229). -/
theorem State.entered_stores {s : State} {g : Gid} {i : Issue} (hg : s.dev.Goes 0x61 g i) (hok : s.dev.sys.core.Ok)
    (hq : s.dev.sys.StoreQuiet i.blk.id) (n ctr : Nat) :
    let t := s.entered i n (i.stores ctr)
    s.CsBut t i.blk.id (fun a => ∃ l ∈ i.act, i.grp.effAddr i.inst l ≤ a ∧ a < i.grp.effAddr i.inst l + accSize i.inst)
      ∧ ((∀ l ∈ i.act, ∀ l' ∈ i.act, l ≠ l' →
          overlaps (i.grp.effAddr i.inst l) (accSize i.inst) (i.grp.effAddr i.inst l') (accSize i.inst) = false) →
        ∀ l ∈ i.act, ∀ h ∈ halves (accSize i.inst), i.storePart l h ∈ t.dev.sys.core.csPend
          ∨ t.dev.sys.csRead i.blk.id (i.grp.effAddr i.inst l + h.1) h.2 = i.storeBytes l h) := by
  intro t
  obtain ⟨due, u, ht, hub, -, hdue, hwait⟩ := State.entered_quiet hq n (i.stores ctr)
  have hstore : ∀ a ∈ due, ∃ l ∈ i.act, ∃ h ∈ halves (accSize i.inst), a = i.storePart l h :=
    fun a ha => Issue.mem_stores.1 (hdue a ha)
  have hto : ∀ a ∈ due, ∃ bs, a.StoresTo i.blk.id bs := by
    intro a ha
    obtain ⟨l, -, h, hh, rfl⟩ := hstore a ha
    exact ⟨_, i.storePart_storesTo l hh⟩
  have hu : u.StoreOk i.blk.id := by
    obtain ⟨b, hb, hw⟩ := hg.storeOk hok
    exact ⟨b, (Sys.blk_congr hub _).trans hb, hw⟩
  have hread : ∀ x m, t.dev.sys.csRead i.blk.id x m = (runAll csDo due u).csRead i.blk.id x m :=
    fun x m => (congrArg (fun y : Sys => y.csRead i.blk.id x m) ht).trans (Sys.csRead_congr rfl x m)
  refine ⟨State.csBut_of_blk (s.entered_frame i n _).blk fun x hx => ?_, fun hapart l hl h hh => ?_⟩
  · rw [hread, runAll_stores_apart due u hu hto, Sys.csRead_congr (Sys.blk_congr hub _)]
    intro a ha
    obtain ⟨l, hl, h, hh, rfl⟩ := hstore a ha
    have hle := halves_le hh
    have hout : ¬(i.grp.effAddr i.inst l ≤ x ∧ x < i.grp.effAddr i.inst l + accSize i.inst) := fun hin => hx ⟨l, hl, hin⟩
    exact overlaps_eq_false.2 (by dsimp only [Issue.storePart]; omega)
  · refine (hwait _ (Issue.mem_stores.2 ⟨l, hl, h, hh, rfl⟩)).symm.imp id fun hd => ?_
    rw [hread]
    refine runAll_stores_read due u hu hto (fun a ha b hb => ?_) hd rfl
    obtain ⟨l, hl, h, hh, rfl⟩ := hstore a ha
    obtain ⟨l', hl', h', hh', rfl⟩ := hstore b hb
    by_cases hll : l = l'
    · subst hll
      exact (halves_apart hh hh' _).imp (fun e => by rw [e]) id
    · have hle := halves_le hh
      have hle' := halves_le hh'
      have hlanes := overlaps_eq_false.1 (hapart l hl l' hl' hll)
      exact .inr (overlaps_eq_false.2 (by dsimp only [Issue.storePart]; omega))

/-- Settles O14: what an access leaves alone is the frame of the core store, and a quiet block's accesses that take effect are among the
new ones, so each load finds the bytes before the instruction and each store's bytes stand. -/
theorem coreStoreReadsAndWrites : Obligations.CoreStoreReadsAndWrites := by
  intro s g i hok n at_ good issues bad quiet
  have hbad : ∀ {op : Nat}, s.dev.Goes op g i → ∀ c : Instr,
      exec c s = .next { s with dev := liftSys (fun y => y.groupFault i.grp 0x0101) s.dev } → bad c := by
    intro op hg c hc
    refine ⟨_, hc, ?_⟩
    rw [liftSys, hg.groupFault]
    exact ⟨⟨rfl, rfl, rfl⟩, rfl, rfl, rfl⟩
  have hissues : ∀ (c : Instr) (P : State → Prop) (k : Nat) (as : List CsAcc),
      exec c s = .next (s.entered i k as) → P (s.entered i k as) → issues c P := by
    intro c P k as hc hP
    obtain ⟨hcores, hmem, hhost, henters, hbut, hkills, hstores⟩ := State.entered_issues (i := i) hok k as
    exact ⟨_, hc, hcores, hmem, hhost, henters, hbut, hkills, hstores, hP⟩
  refine ⟨fun hg => ⟨fun hf => ?_, fun hf hn => ?_, fun hf hn => ?_⟩, fun hg => ⟨fun hf => ?_, fun hf hn => ?_, fun hf hn => ?_⟩⟩
  · exact csAccess_held (body := ldCBody) hg hf
  · exact hbad hg _ (csAccess_bad (body := ldCBody) hg hf hn)
  · refine hissues _ _ 0 (i.act.flatMap (ldCLane i)) (csAccess_issues (body := ldCBody) hg hf hn) fun hq => ?_
    exact hg.group.2 ▸ State.entered_loads hg hok hq
  · exact csAccess_held (body := stCBody) hg hf
  · exact hbad hg _ (csAccess_bad (body := stCBody) hg hf hn)
  · refine hissues _ _ 32 (i.stores _) (csAccess_issues (body := stCBody) hg hf hn) fun hq => ?_
    exact hg.group.2 ▸ State.entered_stores hg hok hq 32 _

end Sys2Proof.Machine
end

section
/-! PROOF. Memory stays coherent, part 1: the state's combinators, the slices and stacks, the cores and their copies, and Kettle's
engines. A lemma about `d.f` is `Mem.Coherent.f`, one about `f d` is `f_coherent`. -/

namespace Sys2Proof.Machine

open Sys2Proof

variable {d : Dev}

/-! ### Combinators

An effect on all but memory, and a choice between two devices, keep memory coherent. -/

theorem Mem.Coherent.lift (h : d.mem.Coherent) {f : Sys → Sys} : (liftSys f d).mem.Coherent := h

theorem Mem.Coherent.withSys {m : Mem} (h : m.Coherent) {s : Sys} : (Dev.mk m s).mem.Coherent := h

theorem Mem.Coherent.ite {c : Prop} [Decidable c] {a b : Dev} (ha : a.mem.Coherent) (hb : b.mem.Coherent) :
    (if c then a else b).mem.Coherent := by
  split
  · exact ha
  · exact hb

theorem guarded_coherent {c : Bool} {f : Dev → Dev} (h : d.mem.Coherent) (hf : (f d).mem.Coherent) :
    (guarded c f d).mem.Coherent := .ite hf h

theorem runAll_coherent {β : Type} {f : β → Dev → Dev} {l : List β} (h : d.mem.Coherent)
    (hf : ∀ b x, x.mem.Coherent → (f b x).mem.Coherent) : (runAll f l d).mem.Coherent :=
  runAll_inv f (fun x => x.mem.Coherent) hf l d h

/-! ### Slices and stacks -/

theorem Mem.Coherent.readRange (h : d.mem.Coherent) {p a n : Nat} : (d.readRange p a n).dev.mem.Coherent :=
  (Dev.readRange_spec h p a n).2.1.coherent

theorem Mem.Coherent.writeRange (h : d.mem.Coherent) {p a : Nat} {bs : List Byte} : (d.writeRange p a bs).mem.Coherent :=
  Dev.writeRange_coherent h p a bs

theorem Mem.Coherent.writePiece (h : d.mem.Coherent) {st L : Nat} {bs : List Byte} : (d.writePiece st L bs).mem.Coherent :=
  Dev.writePiece_coherent h st L bs

theorem Mem.Coherent.refuse (h : d.mem.Coherent) {a : Nat × Nat} : (d.refuse a).mem.Coherent := h.onStack_marks _ fun _ => rfl

theorem Mem.Coherent.poisonNote (h : d.mem.Coherent) {st line : Nat} : (d.poisonNote st line).mem.Coherent :=
  h.onStack_marks _ fun _ => rfl

theorem Mem.Coherent.eccAt (h : d.mem.Coherent) {st line ecc : Nat} : (d.eccAt st line ecc).mem.Coherent := by
  unfold Dev.eccAt
  refine .ite h (.ite ?_ (.ite ?_ h))
  · exact h.onStack_marks _ fun _ => rfl
  · refine Mem.Coherent.poisonNote ?_
    exact h.onStack_marks _ fun _ => rfl

theorem Mem.Coherent.fill {m : Mem} (h : m.Coherent) {st line : Nat} : (m.fill st line).Coherent :=
  (Mem.makeRoom_same h st line).coherent.onSlice fun ha => by
    have := Slice.put_agrees (l := ⟨line, false, ((m.makeRoom st line).stack st).isPoisoned line,
      ((m.makeRoom st line).stack st).lineData line⟩) ha fun _ => rfl
    simpa [Slice.Agrees] using this

/-! ### Loads, stores and atomics of the cores -/

theorem Mem.Coherent.serve (h : d.mem.Coherent) {ld : PLoad} : (d.serve ld).mem.Coherent := by
  unfold Dev.serve
  dsimp only
  split
  · exact h
  · exact .ite (h.onStack_marks _ fun _ => rfl) h

theorem loadPart_coherent {ld : PLoad} (h : d.mem.Coherent) : (loadPart ld d).mem.Coherent :=
  .ite h (Mem.Coherent.serve (Mem.touch_same h _ _).coherent)

theorem Mem.Coherent.atomDo (h : d.mem.Coherent) {x : PStore} {w : AtomWork} : (d.atomDo x w).mem.Coherent := by
  have ht := (Mem.touch_same h x.stack (x.addr / 64)).coherent
  exact .ite (ht.onStack_marks _ fun _ => rfl) (Dev.writePiece_coherent (d := ⟨_, d.sys⟩) ht _ _ _)

theorem Mem.Coherent.perform (h : d.mem.Coherent) {x : PStore} : (d.perform x).mem.Coherent := by
  unfold Dev.perform
  split
  · exact h.atomDo
  · exact h.writePiece

theorem storeAccept_coherent {k : Nat} (h : d.mem.Coherent) : (storeAccept k d).mem.Coherent := by
  unfold storeAccept
  split
  · exact h
  · exact .ite h h.perform.lift

theorem serveLine_coherent {st line : Nat} {hit : Bool} (h : d.mem.Coherent) : (serveLine st line hit d).mem.Coherent :=
  runAll_coherent (d := ⟨d.mem, _⟩) h fun _ _ hx => (Mem.Coherent.ite (Mem.touch_same hx st line).coherent hx).serve

theorem missFill_coherent {st line ecc : Nat} (h : d.mem.Coherent) : (missFill st line ecc d).mem.Coherent :=
  .ite (serveLine_coherent (.ite h h.eccAt.fill)) h

theorem scrubLine_coherent {st ecc : Nat} (h : d.mem.Coherent) : (scrubLine st ecc d).mem.Coherent := by
  have hs := h.eccAt (st := st) (line := (d.mem.stack st).scrubPos) (ecc := ecc)
  exact .ite (.ite (.ite (hs.onStack_marks _ fun _ => rfl) (hs.onStack_marks _ fun _ => rfl)) (hs.onStack_marks _ fun _ => rfl)) h

theorem ldGBody_coherent {i : Issue} (h : d.mem.Coherent) : (ldGBody i d).mem.Coherent :=
  runAll_coherent (d := ⟨d.mem, _⟩) h fun _ _ => loadPart_coherent

theorem stGBody_coherent {i : Issue} (h : d.mem.Coherent) : (stGBody i d).mem.Coherent := h

theorem atomGPlace_coherent {i : Issue} {x : (Nat × Nat) × List Nat} (h : d.mem.Coherent) : (atomGPlace i x d).mem.Coherent :=
  .ite h.lift.perform h.lift.lift

theorem atomGBody_coherent {i : Issue} (h : d.mem.Coherent) : (atomGBody i d).mem.Coherent :=
  runAll_coherent h.lift fun _ _ => atomGPlace_coherent

/-! ### The issue of an instruction -/

section
variable {op : Nat} {g : Gid} {ok : Issue → Dev → Bool} {check : Issue → Dev → Option Nat} {body : Issue → Dev → Dev}

theorem issueDev_coherent (h : d.mem.Coherent) (hb : ∀ i x, x.mem.Coherent → (body i x).mem.Coherent) :
    (issueDev op g ok check body d).mem.Coherent := by
  unfold issueDev
  split
  · exact h
  · exact h.lift
  · refine .ite ?_ h
    split
    · exact h.lift
    · exact (hb _ _ h.lift).lift

theorem issueCs_coherent (h : d.mem.Coherent) (hb : ∀ i x, x.mem.Coherent → (body i x).mem.Coherent) :
    (issueCs op g ok check body d).mem.Coherent := by
  unfold issueCs
  split
  · exact h
  · exact h.lift
  · refine .ite ?_ h
    dsimp only
    split
    · exact h.lift.lift
    · exact (hb _ _ h.lift.lift).lift

theorem issueG_coherent {addr : Issue → Nat → Nat} {size : Issue → Nat} {w : Bool} (h : d.mem.Coherent)
    (hb : ∀ i x, x.mem.Coherent → (body i x).mem.Coherent) : (issueG op g addr size w ok body d).mem.Coherent :=
  issueDev_coherent h fun i x hx => .ite (hb i x hx) hx

theorem issuePicked_coherent {run : Gid → Dev → Dev} (h : d.mem.Coherent) (hr : (run g d).mem.Coherent) :
    (issuePicked g run d).mem.Coherent := .ite hr h

end

/-! ### Copies -/

theorem releaseLines_coherent {ls : List (Nat × Nat)} (h : d.mem.Coherent) : (releaseLines ls d).mem.Coherent :=
  runAll_inv _ Mem.Coherent (fun x _ hm => (Mem.writeBack_same hm x.1 x.2).1.coherent.onSlice (Slice.drop_agrees x.2)) ls d.mem h

theorem copyRead_coherent {p a n : Nat} {na : Bool} (h : d.mem.Coherent) : (copyRead p a n na d).dev.mem.Coherent :=
  releaseLines_coherent h.readRange

theorem copyWrite_coherent {p a : Nat} {bs : List Byte} {na : Bool} (h : d.mem.Coherent) : (copyWrite p a bs na d).mem.Coherent :=
  releaseLines_coherent h.writeRange

theorem copyMove_coherent {c : Copy} {val : Nat → Byte} {offs : List Nat} (h : d.mem.Coherent) : (copyMove c val offs d).mem.Coherent :=
  .ite (runAll_coherent h fun _ _ hx => .ite (copyWrite_coherent hx) (runAll_coherent hx fun _ _ => copyWrite_coherent)) h

theorem startCopy_coherent {i : Issue} {l : Nat} (h : d.mem.Coherent) : (startCopy i l d).mem.Coherent := by
  unfold startCopy
  extract_lets n id tos noAlloc ctr r d1 d2
  have hr : r.dev.mem.Coherent := by
    unfold r
    split
    · exact h
    · exact copyRead_coherent h
  exact .ite hr (copyMove_coherent (d := d2) hr)

theorem dmaBody_coherent {i : Issue} (h : d.mem.Coherent) : (dmaBody i d).mem.Coherent :=
  .ite h (runAll_coherent h fun _ _ => startCopy_coherent)

theorem copyComplete_coherent {id : Nat} (h : d.mem.Coherent) : (copyComplete id d).mem.Coherent := by
  unfold copyComplete
  split
  · exact h
  · refine .ite h ?_
    extract_lets d1 r d2 drop vals d3
    have hr : r.dev.mem.Coherent := by
      unfold r
      split
      · exact h
      · split
        · exact h
        · exact copyRead_coherent h.lift
    exact .ite hr (copyMove_coherent (d := ⟨d2.mem, _⟩) hr)

end Sys2Proof.Machine
end

section
/-! PROOF. Memory stays coherent, part 2: Kettle's engines and their tasks, the command rings, the queue pairs, events, decode queues
and updates. -/

namespace Sys2Proof.Machine

open Sys2Proof

variable {d : Dev}

/-! ### Kettle's engines -/

/-- A write of part of the range's bytes at one of its pieces. -/
theorem kettlePiece_coherent {p a n : Nat} {bs : List Byte} {pc : Nat × Nat} (hpc : pc ∈ rangePieces a n) (h : d.mem.Coherent) :
    (d.kettleWritePiece (d.locate p pc.1).1 (d.locate p pc.1).2 ((bs.drop (pc.1 - a)).take pc.2)).mem.Coherent := by
  refine Dev.kettleWritePiece_coherent h ?_
  have hline := pieces_line hpc
  have hmod := (d.locate_add p pc.1 0 (Nat.mod_lt _ (by decide))).2
  have hlen := List.length_take_le pc.2 (bs.drop (pc.1 - a))
  omega

theorem Mem.Coherent.kettleWrite (h : d.mem.Coherent) {p a : Nat} {bs : List Byte} : (d.kettleWrite p a bs).mem.Coherent :=
  Dev.kettleWrite_coherent h p a bs

theorem Mem.Coherent.kettleRead (h : d.mem.Coherent) {p a n : Nat} : (d.kettleRead p a n).dev.mem.Coherent :=
  (Dev.kettleRead_spec h p a n).2.1.coherent

theorem Mem.Coherent.kettleWriteSome (h : d.mem.Coherent) {p a : Nat} {bs : List Byte} :
    (Dev.kettleWriteSome p a bs d).mem.Coherent :=
  runAll_mem (P := fun x : Dev => x.mem.Coherent) (fun _ hpc _ hx => Mem.Coherent.lift (.ite (kettlePiece_coherent hpc hx) hx)) h

theorem Mem.Coherent.kSources (h : d.mem.Coherent) {t : KTask} : (d.kSources t).dev.mem.Coherent :=
  runAll_inv (KRead.step t.part) (fun k => k.dev.mem.Coherent) (fun _ _ hk => hk.kettleRead) t.reads ⟨d, none, []⟩ h

theorem Mem.Coherent.kInput (h : d.mem.Coherent) {t : KTask} : (d.kInput t).dev.mem.Coherent := h.kSources

theorem Mem.Coherent.kPartial (h : d.mem.Coherent) {t : KTask} : (Dev.kPartial t d).mem.Coherent :=
  runAll_coherent h.kInput fun _ _ hx => hx.kettleWriteSome

theorem Mem.Coherent.kWriteAll (h : d.mem.Coherent) {t : KTask} {ws : List (Nat × List Byte)} : (d.kWriteAll t ws).mem.Coherent :=
  runAll_coherent h.lift fun _ _ hx => hx.kettleWrite

theorem Mem.Coherent.kWriteChecked (h : d.mem.Coherent) {t : KTask} {w : Nat × List Byte} : (Dev.kWriteChecked t w d).mem.Coherent :=
  .ite h.kettleWrite h.lift

/-! ### Tasks -/

theorem Mem.Coherent.putStatus (h : d.mem.Coherent) {p a c n x : Nat} : (d.putStatus p a c n x).mem.Coherent :=
  .ite h.writeRange h

theorem Mem.Coherent.taskDone (h : d.mem.Coherent) {t : KTask} {c n x : Nat} : (d.taskDone t c n x).mem.Coherent :=
  Mem.Coherent.lift (.ite h.putStatus h)

theorem Mem.Coherent.taskPoisoned (h : d.mem.Coherent) {t : KTask} {a : Nat × Nat} : (d.taskPoisoned t a).mem.Coherent :=
  .ite (Mem.Coherent.lift (runAll_coherent h fun _ _ hx => hx.kPartial)) h.lift

theorem kettleStart_coherent {id : Nat} (h : d.mem.Coherent) : (kettleStart id d).mem.Coherent := by
  unfold kettleStart
  split
  · exact h
  · refine .ite (.ite h.lift ?_) h
    dsimp only
    split
    · exact h.kSources.taskPoisoned
    · exact h.kSources.lift.kPartial.lift

theorem Mem.Coherent.finishTask (h : d.mem.Coherent) {id kind : Nat} {f : KTask → (Nat → Nat) → Dev → Dev}
    (hf : ∀ t rd x, x.mem.Coherent → (f t rd x).mem.Coherent) : (d.finishTask id kind f).mem.Coherent := by
  unfold Dev.finishTask
  split
  · exact h
  · refine .ite ?_ h
    dsimp only
    split
    · exact .ite h.kInput.lift.taskPoisoned (hf _ _ _ h.kInput.lift)
    · exact hf _ _ _ h.kInput

theorem gemvDone_coherent {t : KTask} {rd : Nat → Nat} (h : d.mem.Coherent) : (gemvDone t rd d).mem.Coherent :=
  .ite h.lift.taskDone (.ite (Mem.Coherent.taskDone (runAll_coherent h.lift fun _ _ hx => hx.kWriteChecked)) h.kWriteAll.taskDone)

theorem scaleDone_coherent {t : KTask} {rd : Nat → Nat} (h : d.mem.Coherent) : (scaleDone t rd d).mem.Coherent :=
  Mem.Coherent.taskDone (.ite h.kWriteAll h.kWriteAll.lift)

theorem updateDone_coherent {t : KTask} {rd : Nat → Nat} (h : d.mem.Coherent) : (updateDone t rd d).mem.Coherent :=
  h.kWriteAll.lift.taskDone

theorem rootStep_coherent {t : KTask} {rd : Nat → Nat} (h : d.mem.Coherent) : (rootStep t rd d).mem.Coherent := by
  have hheld : ∀ n r, (rootHeld t n r d).mem.Coherent := fun _ _ => h.lift.taskDone
  unfold rootStep
  dsimp only
  split
  · exact h.kWriteAll.taskDone
  · exact .ite (hheld _ _) (.ite (hheld _ _) (.ite (hheld _ _) h.lift))

/-! ### Lists of descriptors -/

theorem Mem.Coherent.malformed (h : d.mem.Coherent) {p a : Nat} {bad : List (Nat × Nat)} : (d.malformed p a bad).mem.Coherent :=
  runAll_coherent h fun _ _ hx => hx.putStatus

/-- The device that the start of a list leaves. -/
def ListEnd.dev : ListEnd → Dev
  | .ended d _ => d
  | .killed d => d
  | .started d => d

theorem Mem.Coherent.startList (h : d.mem.Coherent) {r : Nat} {c : RCmd} {kinds : List Nat} {a n t : Nat} {roots : Bool} :
    (d.startList r c kinds a n t roots).dev.mem.Coherent := by
  unfold Dev.startList
  dsimp only
  split
  · exact h.malformed
  · split
    · dsimp only [ListEnd.dev]
      exact h.refuse.lift
    · split
      · exact h.readRange.lift.malformed
      · split
        · exact h.readRange.lift
        · exact h.readRange.lift.lift

theorem listCommand_coherent {r idx kind op n : Nat} {kinds : List Nat} (h : d.mem.Coherent) :
    (listCommand r idx kind op n kinds d).mem.Coherent := by
  unfold listCommand
  split
  · exact h
  · dsimp only
    split <;> rename_i hl
    all_goals have hd := hl ▸ h.lift.startList
    · exact hd.lift
    · exact hd
    · exact hd

/-! ### Rings -/

theorem Mem.Coherent.syncRings (h : d.mem.Coherent) : d.syncRings.mem.Coherent := (Dev.syncRings_spec h).1

theorem Mem.Coherent.ringTakes (h : d.mem.Coherent) {r : Nat} : (d.ringTakes r).mem.Coherent := by
  unfold Dev.ringTakes
  exact .ite h.withSys.writeRange h.withSys

theorem Mem.Coherent.ringEffects (h : d.mem.Coherent) : d.ringEffects.mem.Coherent :=
  runAll_coherent h fun _ _ hx => .ite hx (.ite hx.ringTakes hx.withSys)

theorem Mem.Coherent.restart (h : d.mem.Coherent) {r v : Nat} : (d.restart r v).mem.Coherent :=
  .ite (.ite h.writeRange.withSys h.writeRange) h

theorem Mem.Coherent.sampleEvent (h : d.mem.Coherent) {r : Nat} : (d.sampleEvent r).mem.Coherent := by
  unfold Dev.sampleEvent
  split
  · exact h
  · refine .ite ?_ h
    dsimp only
    split
    · exact h.readRange.withSys
    · exact .ite h.readRange.withSys h.readRange

theorem Mem.Coherent.readPage (h : d.mem.Coherent) {r : Nat} : (d.readPage r).mem.Coherent := by
  unfold Dev.readPage
  refine .ite (.ite ?_ h.withSys) h
  dsimp only
  split
  · exact h.readRange.withSys
  · exact h.readRange.withSys.restart

theorem commandRead_coherent {r : Nat} (h : d.mem.Coherent) : (commandRead r d).mem.Coherent := by
  unfold commandRead
  refine .ite (.ite h.lift (.ite h (.ite h.lift (.ite ?_ h.lift)))) h
  dsimp only
  split
  · exact h.readRange.lift
  · exact h.readRange.withSys

theorem commandStart_coherent {r : Nat} (h : d.mem.Coherent) : (commandStart r d).mem.Coherent := by
  unfold commandStart
  refine .ite ?_ h
  split
  · exact h
  · exact .ite h (.ite h.lift h.withSys)

theorem eventSignal_coherent {r idx : Nat} (h : d.mem.Coherent) : (eventSignal r idx d).mem.Coherent := by
  unfold eventSignal
  split
  · exact h
  · exact .ite h.writeRange.lift h

theorem eventWait_coherent {r idx : Nat} (h : d.mem.Coherent) : (eventWait r idx d).mem.Coherent := by
  unfold eventWait
  split
  · exact h
  · exact h.lift.sampleEvent

theorem copyLocal_coherent {r idx : Nat} (h : d.mem.Coherent) : (copyLocal r idx d).mem.Coherent := by
  unfold copyLocal
  split
  · exact h
  · refine .ite ?_ h
    dsimp only
    split
    · exact h.readRange.writeRange.lift
    · exact h.readRange.writeRange.lift

theorem copyHostWrite_coherent {r idx : Nat} (h : d.mem.Coherent) : (copyHostWrite r idx d).mem.Coherent := by
  unfold copyHostWrite
  split
  · exact h
  · refine .ite h.lift (.ite ?_ h)
    dsimp only
    split
    · exact h.readRange.lift
    · exact h.readRange.lift

/-! ### Queue pairs -/

theorem rdmaWrite_coherent {i a k : Nat} {bs : List Byte} {ce : Bool} (h : d.mem.Coherent) : (rdmaWrite i a k bs ce d).mem.Coherent :=
  .ite (.ite h.lift.lift (.ite h.lift.writeRange.lift h.lift)) h

theorem rdmaRead_coherent {i a k n : Nat} (h : d.mem.Coherent) : (rdmaRead i a k n d).mem.Coherent := by
  unfold rdmaRead
  refine .ite (.ite h.lift (.ite ?_ h)) h
  dsimp only
  split
  · exact h.readRange.lift
  · exact h.readRange.lift

theorem sendReceive_coherent {i : Nat} {bs : List Byte} (h : d.mem.Coherent) : (sendReceive i bs d).mem.Coherent := by
  unfold sendReceive
  refine .ite (.ite h.lift (.ite h.lift (.ite h.lift (.ite h.lift (.ite ?_ h))))) h
  dsimp only
  split
  · exact h.readRange.lift
  · exact .ite h.readRange.lift h.readRange.writeRange.writeRange.writeRange.lift

theorem rdmaResponse_coherent {i kind : Nat} {bs : List Byte} (h : d.mem.Coherent) : (rdmaResponse i kind bs d).mem.Coherent := by
  unfold rdmaResponse
  refine .ite ?_ h
  split
  · exact h
  · refine .ite h.lift (.ite (.ite ?_ h) (.ite h.lift (.ite h.lift (.ite h.lift h))))
    dsimp only
    split
    · exact .ite h.lift.writeRange.lift h.lift
    · exact h.lift

/-! ### Events -/

theorem Mem.Coherent.evConsumed (h : d.mem.Coherent) {p : Nat} : (d.evConsumed p).1.mem.Coherent := by
  unfold Dev.evConsumed
  dsimp only
  split
  · split
    · exact h.readRange
    · exact h.readRange
  · exact h

theorem Mem.Coherent.evPut (h : d.mem.Coherent) {p c s : Nat} {bs : List Byte} : (d.evPut p c s bs).mem.Coherent := h.writeRange.lift

theorem Mem.Coherent.evCatchUp (h : d.mem.Coherent) {p : Nat} {c : Option Nat} : (d.evCatchUp p c).mem.Coherent := by
  have ht : (d.evTellLost p).mem.Coherent := h.lift.evPut.lift.writeRange
  exact .ite ht h

theorem eventRecordWrite_coherent (h : d.mem.Coherent) : (eventRecordWrite d).mem.Coherent := by
  unfold eventRecordWrite
  split
  · exact h
  · exact .ite h (.ite (.ite h.lift.evConsumed.evCatchUp.evPut h.lift.evConsumed.evCatchUp.lift) h.lift)

theorem eventRingPoll_coherent {p : Nat} (h : d.mem.Coherent) : (eventRingPoll p d).mem.Coherent := .ite h.evConsumed.evCatchUp h

/-! ### Decode queues -/

theorem decodeOpen_coherent {r idx : Nat} (h : d.mem.Coherent) : (decodeOpen r idx d).mem.Coherent := by
  unfold decodeOpen
  split
  · exact h
  · dsimp only
    split
    · exact h.lift.readRange.lift
    · have hsay {x : Dev} {p code : Nat} {f : Nat × Nat → Nat} {l : List (Nat × Nat)} (hx : x.mem.Coherent) :
          (runAll (fun (y : Nat × Nat) d => d.putStatus p (f y) code 0 y.2) l x).mem.Coherent :=
        runAll_coherent hx fun _ _ hx => hx.putStatus
      refine .ite (hsay h.lift.readRange).lift ?_
      split
      · exact h.lift.readRange.refuse.lift
      · exact .ite h.lift.readRange.lift.lift.lift (hsay h.lift.readRange.lift).lift

theorem takeClaim_coherent {qn : Nat} (h : d.mem.Coherent) : (takeClaim qn d).mem.Coherent := by
  unfold takeClaim
  dsimp only
  split
  · exact .ite (.ite h.lift.writeRange h.lift.lift) h
  · exact h

/-! ### Updates -/

theorem Mem.Coherent.startPublish (h : d.mem.Coherent) {g : Nat} : (d.startPublish g).mem.Coherent :=
  runAll_coherent h.lift fun _ _ hx => .ite hx hx.lift

theorem updateCheck_coherent {mode r idx : Nat} (h : d.mem.Coherent) : (updateCheck mode r idx d).mem.Coherent := by
  unfold updateCheck
  split
  · exact h
  · refine .ite ?_ h
    dsimp only
    split
    · exact h.refuse.lift
    · exact h.lift

theorem Mem.Coherent.beginStep (h : d.mem.Coherent) {r g : Nat} {c : RCmd} : (d.beginStep r g c).mem.Coherent := by
  unfold Dev.beginStep
  dsimp only
  split <;> rename_i hl
  all_goals have hd := hl ▸ h.startList; exact hd.lift

theorem Mem.Coherent.beginPublish (h : d.mem.Coherent) {r g : Nat} {c : RCmd} : (d.beginPublish r g c).mem.Coherent := by
  unfold Dev.beginPublish
  dsimp only
  split
  · exact h.refuse.lift
  · exact .ite h.lift.malformed.lift h.lift.lift.startPublish

theorem updateStart_coherent {r idx : Nat} (h : d.mem.Coherent) : (updateStart r idx d).mem.Coherent := by
  unfold updateStart
  split
  · exact h
  · exact .ite (.ite h.lift.lift.beginStep h.lift.lift.beginPublish) h

theorem Mem.Coherent.takeDecision (h : d.mem.Coherent) {g dec reason : Nat} : (d.takeDecision g dec reason).mem.Coherent :=
  .ite h.lift (.ite h.lift (.ite (.ite h.lift.lift h.lift.startPublish) h))

theorem decisionReceive_coherent (h : d.mem.Coherent) : (decisionReceive d).mem.Coherent := by
  unfold decisionReceive
  split
  · exact h
  · extract_lets d1 g t a coord mine d2 e dec d3
    have h2 : d2.mem.Coherent := .ite h.lift.lift h.lift
    have h3 : d3.mem.Coherent := .ite h2.takeDecision h2
    exact .ite (.ite h3.lift h3) h.lift.lift

end Sys2Proof.Machine
end

section
/-! PROOF. Memory stays coherent, part 3: the fabric, collectives, launches, resets, kills, faults and the dictionary; every command. -/

namespace Sys2Proof.Machine

open Sys2Proof

variable {d : Dev}

/-! ### Requests over the fabric -/

theorem fabBody_coherent {i : Issue} (h : d.mem.Coherent) : (fabBody i d).mem.Coherent := .ite h h.lift

theorem copyFabric_coherent {r idx : Nat} (h : d.mem.Coherent) : (copyFabric r idx d).mem.Coherent := by
  unfold copyFabric
  split
  · exact h
  · dsimp only
    split
    · exact h.readRange.lift
    · exact .ite h.readRange.lift.lift h.readRange.lift.lift

theorem Mem.Coherent.sendReq (h : d.mem.Coherent) {r : FabReq} {b : Bool} : (d.sendReq r b).mem.Coherent := by
  unfold Dev.sendReq
  refine .ite h.lift ?_
  dsimp only
  split
  · exact h.lift
  · refine .ite ?_ h.lift
    split
    · exact h.readRange.lift
    · exact h.readRange.lift

theorem packetRoute_coherent {k : Nat} (h : d.mem.Coherent) : (packetRoute k d).mem.Coherent := by
  unfold packetRoute
  refine .ite ?_ h
  split
  · exact .ite h h.lift
  · split
    · exact h
    · split
      · exact h
      · exact .ite h.lift.sendReq h

theorem Mem.Coherent.resendReq (h : d.mem.Coherent) {r : FabReq} {b : Bool} : (d.resendReq r b).mem.Coherent :=
  .ite h (.ite h.sendReq.lift h.sendReq)

theorem Mem.Coherent.routesChanged (h : d.mem.Coherent) : d.routesChanged.mem.Coherent :=
  runAll_coherent h.lift fun _ _ hx => hx.resendReq

theorem resendDelay_coherent {k : Nat} (h : d.mem.Coherent) : (resendDelay k d).mem.Coherent := by
  unfold resendDelay
  split
  · exact h
  · exact .ite (.ite h.resendReq (.ite h.resendReq h)) h

/-! ### Requests at their target -/

theorem Mem.Coherent.windowCheck (h : d.mem.Coherent) {p : Pkt} {n perm : Nat} {w : Bool} : (d.windowCheck p n perm w).2.mem.Coherent := by
  unfold Dev.windowCheck
  dsimp only
  split
  · exact h
  · split
    · exact h.lift
    · split
      · exact h.lift
      · exact h

theorem Mem.Coherent.remotePoison (h : d.mem.Coherent) {a : Nat × Nat} {p : Pkt} : (d.remotePoison a p).mem.Coherent := .ite h.lift h

theorem Mem.Coherent.store (h : d.mem.Coherent) {p : Pkt} {perm : Nat} : ∀ x ∈ d.store p perm, x.2.mem.Coherent := by
  have hc := h.windowCheck (p := p) (n := p.len) (perm := perm) (w := true)
  intro x hx
  unfold Dev.store at hx
  dsimp only at hx
  split at hx
  · cases hx; exact hc
  · split at hx
    · cases hx
    · cases hx; exact hc
    · cases hx; exact hc
    · split at hx <;> cases hx
      exact hc.withSys.writeRange.lift

theorem storeRow_coherent {p : Pkt} {kind perm : Nat} (h : d.mem.Coherent) : (storeRow p kind perm d).mem.Coherent := by
  unfold storeRow
  split
  · exact h
  · refine .ite h ?_
    split
    · exact h
    · rename_i hs
      exact (h.withSys.store _ hs).lift

theorem getPacket_coherent {p : Pkt} (h : d.mem.Coherent) : (getPacket p d).mem.Coherent := by
  unfold getPacket
  split
  · exact h
  · refine .ite h.withSys.windowCheck.lift (.ite ?_ h)
    dsimp only
    split
    · exact h.withSys.windowCheck.readRange.remotePoison
    · exact h.withSys.windowCheck.readRange.lift

theorem executorRow_coherent {p : Pkt} {kind n perm : Nat} (h : d.mem.Coherent) : (executorRow p kind n perm d).mem.Coherent := by
  unfold executorRow
  split
  · exact h
  · refine .ite h.withSys.windowCheck.lift ?_
    dsimp only
    split
    · exact h
    · exact h.withSys.windowCheck.withSys.lift
    · exact h.withSys.windowCheck.withSys.lift
    · exact .ite h.withSys.windowCheck.withSys.lift h.withSys.windowCheck.withSys.lift

theorem combinedPacket_coherent {p : Pkt} (h : d.mem.Coherent) : (combinedPacket p d).mem.Coherent := by
  unfold combinedPacket
  split
  · exact h
  · refine .ite h.withSys.windowCheck.lift (.ite (.ite ?_ h) h.withSys.windowCheck.lift.lift)
    dsimp only
    split
    · exact h.withSys.windowCheck.readRange.remotePoison
    · exact h.withSys.windowCheck.readRange.lift

theorem targetExec_coherent {st : Nat} {atom : Bool} (h : d.mem.Coherent) : (targetExec st atom d).mem.Coherent := by
  unfold targetExec
  split
  · exact h
  · refine .ite ?_ h
    dsimp only
    split
    · exact h.lift.kettleRead.lift.remotePoison
    · exact h.lift.kettleRead.kettleWrite.lift

theorem mputPacket_coherent {p : Pkt} (h : d.mem.Coherent) : (mputPacket p d).mem.Coherent := by
  unfold mputPacket
  split
  · exact h
  · refine .ite h.withSys (.ite h.withSys ?_)
    dsimp only
    split
    · exact h
    · rename_i st mute x hl
      suffices hx : x.mem.Coherent from hx.lift
      split at hl
      · cases hl; exact h
      · split at hl
        · obtain ⟨y, hy, he⟩ := Option.map_eq_some_iff.1 hl
          cases he
          exact h.withSys.store y hy
        · cases hl; exact h

/-! ### Replies -/

theorem Mem.Coherent.answered (h : d.mem.Coherent) {r : FabReq} {st : Nat} : (d.answered r st).mem.Coherent := by
  unfold Dev.answered
  dsimp only
  split
  · exact h.lift
  · exact .ite h.lift.writeRange h.lift

theorem Mem.Coherent.deliverLocal (h : d.mem.Coherent) {r : FabReq} {bs : List Byte} : (d.deliverLocal r bs).mem.Coherent := by
  unfold Dev.deliverLocal
  split
  · exact h
  · exact .ite h (.ite h.writeRange h.lift)

theorem dataReply_coherent {p : Pkt} (h : d.mem.Coherent) : (dataReply p d).mem.Coherent := by
  unfold dataReply
  split
  · exact h
  · split
    · exact h.withSys
    · split
      · exact h.withSys
      · exact .ite h.withSys.deliverLocal.answered h

theorem resultReply_coherent {p : Pkt} (h : d.mem.Coherent) : (resultReply p d).mem.Coherent := by
  unfold resultReply
  split
  · exact h
  · split
    · exact h.withSys
    · split
      · exact h.withSys
      · exact .ite h.withSys.answered (.ite h.withSys.deliverLocal.answered h)

theorem ackReply_coherent {p : Pkt} (h : d.mem.Coherent) : (ackReply p d).mem.Coherent := by
  unfold ackReply
  split
  · exact h
  · refine .ite h.withSys ?_
    split
    · split <;> exact h.withSys
    · split
      · exact h.withSys.answered
      · exact h.withSys

theorem nakReply_coherent {p : Pkt} (h : d.mem.Coherent) : (nakReply p d).mem.Coherent := by
  unfold nakReply
  split
  · exact h
  · refine .ite h.withSys ?_
    split
    · exact h.withSys
    · split
      · exact h.withSys
      · exact .ite h.withSys h.withSys.answered

/-! ### Collectives -/

theorem collective_coherent {r idx : Nat} (h : d.mem.Coherent) : (collective r idx d).mem.Coherent := by
  unfold collective
  split
  · exact h
  · refine .ite h ?_
    dsimp only
    split
    · exact h.readRange.lift
    · split
      · exact (Mem.Coherent.ite h.readRange.lift h.readRange).putStatus.lift
      · exact h.readRange.lift

theorem Mem.Coherent.formSeg (h : d.mem.Coherent) {g j : Nat} : (Dev.formSeg g j d).mem.Coherent := by
  unfold Dev.formSeg
  split
  · exact h
  · exact .ite h.writeRange.lift h

theorem Mem.Coherent.formAll (h : d.mem.Coherent) {g : Nat} : (d.formAll g).mem.Coherent := by
  unfold Dev.formAll
  split
  · exact h
  · exact runAll_coherent h fun _ _ hx => hx.formSeg

theorem Mem.Coherent.ingest (h : d.mem.Coherent) {g : Nat} {x : Seg} : (Dev.ingest g x d).mem.Coherent := by
  unfold Dev.ingest
  split
  · exact h
  · exact .ite h.lift (.ite h.lift.formAll (.ite h.lift.writeRange.lift h.lift.lift.formSeg))

theorem Mem.Coherent.segIn (h : d.mem.Coherent) {g rank : Nat} {p : Pkt} : (d.segIn g rank p).mem.Coherent := by
  unfold Dev.segIn
  refine .ite h.lift (.ite h.lift (.ite h.lift ?_))
  dsimp only
  split
  · exact h.lift
  · exact .ite h.lift.ingest (.ite h.lift (.ite h.lift h.lift))

theorem segmentRow_coherent {gather : Bool} {p : Pkt} (h : d.mem.Coherent) : (segmentRow gather p d).mem.Coherent := by
  unfold segmentRow
  split
  · exact h
  · split
    · exact h
    · refine .ite h (.ite h.withSys.lift (.ite h.withSys.lift ?_))
      split
      · exact h.withSys.lift
      · split
        · exact h
        · exact h.withSys
        · exact h.withSys
        · exact h.withSys.segIn

theorem collectiveStart_coherent {r idx : Nat} (h : d.mem.Coherent) : (collectiveStart r idx d).mem.Coherent := by
  unfold collectiveStart
  split
  · exact h
  · refine .ite ?_ h
    extract_lets g snap d1 d2
    have h2 : d2.mem.Coherent := .ite h.lift.lift h.lift
    exact runAll_coherent h2 fun _ _ hx => hx.ingest

theorem Mem.Coherent.eitherOf (h : d.mem.Coherent) {snap now : List Byte} {off : Nat} : (d.eitherOf snap off now).1.mem.Coherent := by
  unfold Dev.eitherOf
  dsimp only
  split
  · exact h.lift
  · exact h

theorem Mem.Coherent.errBlend (h : d.mem.Coherent) {snap now new : List Byte} {off : Nat} :
    (d.errBlend snap off now new).1.mem.Coherent := by
  unfold Dev.errBlend
  dsimp only
  split
  · exact h.lift
  · exact h

theorem segmentSend_coherent {g owner : Nat} (h : d.mem.Coherent) : (segmentSend g owner d).mem.Coherent := by
  unfold segmentSend
  split
  · exact h
  · refine .ite (.ite ?_ ?_) h
    · dsimp only
      split
      · exact h.readRange.lift
      · exact h.readRange.eitherOf.lift
    · dsimp only
      split
      · exact h.readRange.lift
      · refine .ite ?_ h.readRange.eitherOf.lift
        split
        · exact h.readRange.eitherOf.readRange.lift
        · exact h.readRange.eitherOf.readRange.eitherOf.errBlend.writeRange.lift

theorem budgetExpiry_coherent {g : Nat} (h : d.mem.Coherent) : (budgetExpiry g d).mem.Coherent := by
  unfold budgetExpiry
  split
  · exact h
  · exact .ite h.lift.formAll h

theorem collectiveComplete_coherent {g : Nat} (h : d.mem.Coherent) : (collectiveComplete g d).mem.Coherent := by
  unfold collectiveComplete
  split
  · exact h
  · refine .ite ?_ h
    extract_lets k t miss n d1 rec_ d2 d3 st d4
    have h1 : d1.mem.Coherent := .ite h h.writeRange.lift
    have h2 : d2.mem.Coherent := .ite h1.writeRange.lift h1
    have h3 : d3.mem.Coherent := .ite h2 h2.lift
    exact h3.putStatus.lift

/-! ### Launches -/

theorem Mem.Coherent.imageOn (h : d.mem.Coherent) {g : Grid} {core : Nat} : (d.imageOn g core).1.mem.Coherent := by
  unfold Dev.imageOn
  split
  · exact h
  · exact h.readRange

theorem blockPlace_coherent {uid core : Nat} {slots : List Nat} (h : d.mem.Coherent) : (blockPlace uid core slots d).mem.Coherent := by
  unfold blockPlace
  split
  · exact h
  · refine .ite ?_ h
    have hd := h.imageOn (g := ‹Grid›) (core := core)
    split <;> rename_i hi <;> rw [hi] at hd
    · exact hd.lift
    · exact hd.lift

/-! ### Power and bring-up -/

theorem Mem.Coherent.deviceReset (d : Dev) : d.deviceReset.mem.Coherent := Mem.reset_coherent

theorem Mem.Coherent.powerLoss (d : Dev) : d.powerLoss.mem.Coherent := Mem.reset_coherent

theorem Mem.Coherent.startUp (d : Dev) : d.startUp.mem.Coherent := (Mem.Coherent.deviceReset d).lift

theorem vin48Under_coherent {mv : Nat} (h : d.mem.Coherent) : (vin48Under mv d).mem.Coherent := .ite (.powerLoss d) h

theorem vin48Over_coherent {mv : Nat} (h : d.mem.Coherent) : (vin48Over mv d).mem.Coherent := .ite (Mem.Coherent.powerLoss d).lift h

theorem alwaysOn_coherent (h : d.mem.Coherent) : (alwaysOn d).mem.Coherent := .ite (.ite h.lift (.startUp _)) h

theorem resetNLow_coherent {ns : Nat} (h : d.mem.Coherent) : (resetNLow ns d).mem.Coherent :=
  .ite (Mem.Coherent.lift (.ite (.deviceReset _) h.lift)) h.lift

theorem resetNRise_coherent {slot boot : Nat} (h : d.mem.Coherent) : (resetNRise slot boot d).mem.Coherent :=
  .ite (.ite (.ite (.startUp _) h.lift.lift) h.lift) h

/-- A stack that completes training is empty, and so is its slice. -/
theorem Mem.Coherent.trained {m : Mem} (h : m.Coherent) (st : Nat) : Mem.Coherent { m with
    dram := setNth m.dram st { Stack.reset with trained := true }, slices := setNth m.slices st Slice.reset } := by
  rw [Mem.coherent_iff] at h ⊢
  obtain ⟨hd, hs, hagrees⟩ := h
  refine ⟨by simpa using hd, by simpa using hs, fun k => ?_⟩
  simp only [Mem.slice, Mem.stack, setNth_getD, hd, hs]
  split
  · simp [Slice.Agrees, Slice.reset, Stack.reset, cellsWf]
  · exact hagrees k

theorem stackTrained_coherent {st rows : Nat} (h : d.mem.Coherent) : (stackTrained st rows d).mem.Coherent :=
  .ite (h.trained st) h

theorem Mem.Coherent.startCounts {m : Mem} (h : m.Coherent) : Mem.Coherent { m with dram := m.dram.map Stack.startCounts } := by
  rw [Mem.coherent_iff] at h ⊢
  obtain ⟨hd, hs, hagrees⟩ := h
  refine ⟨by simpa using hd, hs, fun k => ?_⟩
  have hk : Mem.stack { m with dram := m.dram.map Stack.startCounts } k = (m.stack k).startCounts := by
    simp only [Mem.stack]
    exact List.getD_map (n := k) m.dram Stack.reset Stack.startCounts
  rw [hk]
  exact hagrees k

theorem coreAssign_coherent (h : d.mem.Coherent) : (coreAssign d).mem.Coherent := .ite h.startCounts h

/-! ### Kills, partitions and faults -/

theorem storeSome_coherent {x : PStore} (h : d.mem.Coherent) : (storeSome x d).mem.Coherent := by
  unfold storeSome
  refine .ite h ?_
  split
  · exact Mem.Coherent.lift (.ite h.atomDo h)
  · exact runAll_coherent h fun _ _ hx => Mem.Coherent.lift (.ite hx.writePiece hx)

theorem copySome_coherent {c : Copy} (h : d.mem.Coherent) : (copySome c d).mem.Coherent := .ite (copyMove_coherent h.lift) h

theorem Mem.Coherent.freeContext (h : d.mem.Coherent) {p r : Nat} : (d.freeContext p r).mem.Coherent :=
  Mem.Coherent.lift (runAll_coherent (runAll_coherent h fun _ _ => storeSome_coherent) fun _ _ => copySome_coherent)

theorem killComplete_coherent {r : Nat} (h : d.mem.Coherent) : (killComplete r d).mem.Coherent := by
  unfold killComplete
  split
  · exact h
  · exact h.freeContext.lift

theorem Mem.Coherent.resetStep2 (h : d.mem.Coherent) {p : Nat} : (d.resetStep2 p).mem.Coherent :=
  Mem.Coherent.lift (runAll_coherent h fun _ _ hx => hx.freeContext)

theorem Mem.Coherent.resetStep3 (h : d.mem.Coherent) {p : Nat} : (d.resetStep3 p).mem.Coherent := by
  unfold Dev.resetStep3
  exact Mem.Coherent.lift (runAll_coherent h fun _ _ hx => hx.kPartial)

theorem Mem.Coherent.startReset (h : d.mem.Coherent) {p : Nat} : (d.startReset p).mem.Coherent :=
  .ite h h.lift.resetStep2.resetStep3.lift

theorem Mem.Coherent.takeSet (h : d.mem.Coherent) {p : Nat} {s : PartSet} : (d.takeSet p s).mem.Coherent := by
  unfold Dev.takeSet
  extract_lets old d1 d2 n d3
  have h3 : d3.mem.Coherent := .ite (.ite h.lift.lift.writeRange h.lift.lift) h.lift
  exact h3.lift.ringEffects

theorem partitionResetApply_coherent {p : Nat} (h : d.mem.Coherent) : (partitionResetApply p d).mem.Coherent := by
  unfold partitionResetApply
  refine .ite ?_ h
  extract_lets moves olds w d1
  have h1 : d1.mem.Coherent := by
    unfold d1
    cases w with
    | none => exact h
    | some set => exact h.takeSet
  exact h1.lift

theorem maskedFault_coherent {u inst : Nat} {failed : Bool} (h : d.mem.Coherent) : (maskedFault u inst failed d).mem.Coherent := by
  unfold maskedFault
  refine .ite (.ite h.lift ?_) h
  dsimp only
  split
  · exact h.onStack_marks _ fun _ => rfl
  · exact h

/-- Poison marked in a slice changes no data. -/
theorem Slice.agrees_poison {c : Slice} {t : Stack} (line : Nat) (h : c.Agrees t) :
    Slice.Agrees { c with lines := c.lines.map (fun x => if x.line == line then { x with poison := true } else x) } t := by
  obtain ⟨hcells, hlen, hnodup, hdata⟩ := h
  have hkeep : ∀ x : SliceLine, ∀ y, y = (if x.line == line then { x with poison := true } else x) →
      y.line = x.line ∧ y.data = x.data ∧ y.dirty = x.dirty := by
    rintro x y rfl
    split <;> exact ⟨rfl, rfl, rfl⟩
  refine ⟨hcells, ?_, ?_, ?_⟩
  · intro y hy
    obtain ⟨x, hx, rfl⟩ := List.mem_map.1 hy
    rw [(hkeep x _ rfl).2.1]
    exact hlen x hx
  · rw [List.map_map, show SliceLine.line ∘ _ = SliceLine.line from funext fun x => (hkeep x _ rfl).1]
    exact hnodup
  · intro y hy hd
    obtain ⟨x, hx, rfl⟩ := List.mem_map.1 hy
    obtain ⟨hline, hsame, hdirty⟩ := hkeep x _ rfl
    rw [hsame, hline]
    exact hdata x hx (hdirty ▸ hd)

theorem Mem.Coherent.memFault (h : d.mem.Coherent) {f : FaultIn} : (d.memFault f).mem.Coherent := by
  unfold Dev.memFault
  refine .ite (.ite h.eccAt h) ?_
  split
  · exact h
  · refine .ite h (Mem.Coherent.poisonNote ?_)
    exact h.onSlice (Slice.agrees_poison f.line)

theorem detectedFault_coherent {f : FaultIn} (h : d.mem.Coherent) : (detectedFault f d).mem.Coherent :=
  .ite h (.ite h.memFault (.ite h.lift (.ite h.lift h.lift)))

/-! ### The dictionary -/

theorem Mem.Coherent.request (h : d.mem.Coherent) {r : OdpReq} {op : Nat} {f : Nat → Dev → Dev} (hf : ∀ k, (f k d).mem.Coherent) :
    (d.request r op f).mem.Coherent := by
  unfold Dev.request
  refine .ite ?_ h
  dsimp only
  split
  · exact h.withSys
  · exact .ite h.withSys (.ite h.withSys (.ite h.withSys (.ite (hf _) h.withSys)))

theorem readRequest_coherent {r : OdpReq} {k : Nat} (h : d.mem.Coherent) : (readRequest r k d).mem.Coherent := by
  unfold readRequest
  split
  · exact h.lift
  · exact .ite h.lift h.lift

theorem readBlockRequest_coherent {r : OdpReq} {k : Nat} (h : d.mem.Coherent) : (readBlockRequest r k d).mem.Coherent := by
  unfold readBlockRequest
  dsimp only
  split
  · exact h.lift
  · exact .ite h.lift (.ite h.lift h.lift)

theorem Mem.Coherent.commitPart (h : d.mem.Coherent) {sets : List (Nat × PartSet)} : (d.commitPart sets).mem.Coherent :=
  runAll_coherent h fun _ _ hx => .ite hx.lift hx.takeSet

theorem Mem.Coherent.commitApply (h : d.mem.Coherent) {slot i : Nat} : (d.commitApply slot i).mem.Coherent := by
  unfold Dev.commitApply
  extract_lets s vs sets ranks slots rings word leaves d1
  have h1 : d1.mem.Coherent := h.lift
  have h6110 : (d1.commit6110 word).mem.Coherent := .ite h1 h1.lift.routesChanged
  exact .ite h1.lift (.ite h6110.lift (.ite (Mem.Coherent.ite h1.lift h1).routesChanged
    (.ite (runAll_coherent h1 fun _ _ hx => .ite hx hx.lift) (.ite h1.commitPart (.ite h1.lift.ringEffects
      (.ite h1.lift (.ite h1.lift h1)))))))

theorem Mem.Coherent.objApply (h : d.mem.Coherent) {k : Nat} {r : OdpReq} {v : List Byte} {a : Option AgeingReading} {e : Bool} :
    (d.objApply k r v a e).mem.Coherent := by
  have hreset : (d.requestReset k).mem.Coherent := (Mem.Coherent.deviceReset _).lift
  unfold Dev.objApply
  dsimp only
  cases rowOf r.index r.sub v with
  | write | writeBlock | floor | image | roleKey => exact h
  | commit => exact h.commitApply
  | holdRelease | accept | unlock => exact .ite h.lift h
  | sampleNow =>
    dsimp only
    split
    · exact .ite h.lift h
    · exact h
  | resolve => exact h.lift.takeDecision
  | deviceReset => exact .ite hreset h
  | partReset => exact .ite (.ite h h.lift.startReset) h
  | token => exact (Mem.Coherent.deviceReset _).lift
  | _ => exact h.lift

theorem Mem.Coherent.applyWrite (h : d.mem.Coherent) {k : Nat} {r : OdpReq} {v : List Byte} {a : Option AgeingReading} {e : Bool} :
    (d.applyWrite k r v a e).mem.Coherent := by
  unfold Dev.applyWrite
  extract_lets had d1 d2 d3 d4
  have h1 : d1.mem.Coherent := .ite h.lift h
  have h2 : d2.mem.Coherent := .ite h1.lift h1
  have h3 : d3.mem.Coherent := .ite h2.lift h2
  exact .ite h3.objApply.lift h3.objApply

theorem Mem.Coherent.wholeWrite (h : d.mem.Coherent) {k : Nat} {r : OdpReq} {v : List Byte} {a : Option AgeingReading} {e : Bool} :
    (d.wholeWrite k r v a e).mem.Coherent := by
  unfold Dev.wholeWrite
  split
  · exact h.lift
  · refine .ite h.lift ?_
    split
    · exact h.lift
    · exact h.lift.applyWrite

theorem Mem.Coherent.segmentIn (h : d.mem.Coherent) {k : Nat} {r : OdpReq} {off total : Nat} {a : Option AgeingReading} {e : Bool} :
    (d.segmentIn k r off total a e).mem.Coherent := by
  unfold Dev.segmentIn
  extract_lets refuse domain state key d1 x v
  split
  · exact h.lift
  · have h1 : d1.mem.Coherent := .ite h.lift h
    exact .ite h1.lift (.ite h1.lift h1.lift.wholeWrite)

theorem Mem.Coherent.execute (h : d.mem.Coherent) (g : Datagram) : (d.execute g).mem.Coherent := by
  cases g with
  | openReq | prove => exact h.lift
  | close => exact h.request fun _ => h.lift
  | read => exact h.request fun _ => readRequest_coherent h
  | readBlock => exact h.request fun _ => readBlockRequest_coherent h
  | write r =>
    refine h.request fun k => ?_
    split
    · exact h.wholeWrite
    · exact h.segmentIn

theorem Mem.Coherent.arrive (h : d.mem.Coherent) {g : Datagram} : (Dev.arrive g d).mem.Coherent := by
  unfold Dev.arrive
  refine .ite ?_ h
  split
  · exact h.lift.execute g
  · exact .ite h (.ite h.lift h.lift)

theorem Mem.Coherent.serveAll {l : List Datagram} : ∀ {d : Dev}, d.mem.Coherent → (Dev.serveAll l d).mem.Coherent := by
  induction l with
  | nil => exact fun h => h.lift
  | cons g l ih => exact fun h => .ite h.lift (ih (h.execute g))

theorem Mem.Coherent.writeRequest (h : d.mem.Coherent) {w : WriteRow} {r : OdpReq} {a : Option AgeingReading} {e : Bool} :
    (Dev.writeRequest w r a e d).mem.Coherent := .ite h.arrive h

theorem Mem.Coherent.recordEnds (h : d.mem.Coherent) {n : Nat} {j : JPending} : (Dev.recordEnds n j d).mem.Coherent :=
  .ite h.lift (.ite h.lift h.lift.applyWrite)

theorem journalValid_coherent {n : Nat} (h : d.mem.Coherent) : (journalValid n d).mem.Coherent := by
  unfold journalValid
  split
  · exact h
  · exact .ite h h.lift.recordEnds.serveAll

theorem journalCompaction_coherent {n : Nat} (h : d.mem.Coherent) : (journalCompaction n d).mem.Coherent := by
  unfold journalCompaction
  refine .ite (.ite ?_ h.lift) h
  split
  · exact h.lift.serveAll
  · exact h.lift

/-! ### Every command -/

section
variable {s t : State}

theorem onSys_coherent {f : Sys → Sys} (ht : onSys f s = .next t) (h : s.dev.mem.Coherent) : t.dev.mem.Coherent := by
  cases ht
  exact h

theorem onDev_coherent {f : Dev → Dev} (ht : onDev f s = .next t) (h : (f s.dev).mem.Coherent) : t.dev.mem.Coherent := by
  cases ht
  exact h

theorem onRings_coherent {f : Dev → Dev} (ht : onRings f s = .next t) (h : (f s.dev).mem.Coherent) : t.dev.mem.Coherent :=
  onDev_coherent (f := fun d => (f d).syncRings) ht h.syncRings

/-- Every command keeps memory coherent: its meaning changes all but memory (`onSys`), or is an effect on the device that keeps memory
coherent, followed or not by the doorbell pages (`onRings`, `onDev`). Where that effect is written out, `show` names the meaning.
The last case is the writes of objects, each a row of `Dev.writeRequest`. -/
theorem exec_coherent {c : Instr} (ht : exec c s = .next t) (h : s.dev.mem.Coherent) : t.dev.mem.Coherent := by
  cases c with
  | vin48UndervoltageStop => exact onDev_coherent ht (vin48Under_coherent h)
  | resetNLow => exact onDev_coherent ht (resetNLow_coherent h)
  | resetNRise => exact onDev_coherent ht (resetNRise_coherent h)
  | stackTrained => exact onDev_coherent ht (stackTrained_coherent h)
  | odpOpen | odpProve | odpClose | odpRead | odpReadBlock => exact onDev_coherent ht h.arrive
  | journalRecordValid => exact onRings_coherent ht (journalValid_coherent h)
  | journalCompaction => exact onRings_coherent ht (journalCompaction_coherent h)
  | launch | blockEnd | decodeClose | takeHeaderWrite | copyHostRead | publishComplete | invalidRequest | rdmaRetransmitTimeout
    | fenceRing | fencePartition | completionRecordWrite =>
    exact onRings_coherent ht h.lift
  | blockPlace => exact onRings_coherent ht (blockPlace_coherent h)
  | add | sub | mul | mulhi | mad | fma | min | max | and | or | xor | not | shl | shr | popc | clz | abs | neg | rcp | sqrt | div
    | ex2 | lg2 | sin | cos | cvt | setp | selp | plog | mov | movhi | rdsr | vote | shfl | bra | call | ret | exit | nop =>
    exact onDev_coherent ht (issuePicked_coherent h h.lift)
  | ldC | stC | fenceGrp | fenceBlk | fenceDev | fenceSys | blkJoin | atomC =>
    exact onDev_coherent ht (issuePicked_coherent h (issueDev_coherent h fun _ _ hx => hx.lift))
  | ldG => exact onDev_coherent ht (issuePicked_coherent h (issueG_coherent h fun _ _ => ldGBody_coherent))
  | stG => exact onDev_coherent ht (issuePicked_coherent h (issueG_coherent h fun _ _ => stGBody_coherent))
  | dmaCs => exact onDev_coherent ht (issuePicked_coherent h (issueCs_coherent h fun _ _ => dmaBody_coherent))
  | dmaCopyComplete => exact onDev_coherent ht (guarded_coherent h (copyComplete_coherent h))
  | arrWait | mxaIssue | mxaDrain | mxaWait | dqPush | dqTake | fabFence =>
    exact onDev_coherent ht (issuePicked_coherent h (issueCs_coherent h fun _ _ hx => hx.lift))
  | atomG => exact onDev_coherent ht (issuePicked_coherent h (issueG_coherent h fun _ _ => atomGBody_coherent))
  | killComplete => exact onRings_coherent ht (killComplete_coherent h)
  | sliceMissFill => exact onDev_coherent ht (missFill_coherent h)
  | sliceStoreAccept => exact onDev_coherent ht (storeAccept_coherent h)
  | scrubLine => exact onDev_coherent ht (scrubLine_coherent h)
  | kettleDescriptorStart => exact onRings_coherent ht (kettleStart_coherent h)
  | gemvDescriptorComplete id =>
    exact onRings_coherent (show execGemvDescriptorComplete id s = _ from ht) (h.finishTask fun _ _ _ => gemvDone_coherent)
  | scalePassDescriptorComplete id =>
    exact onRings_coherent (show execScalePassDescriptorComplete id s = _ from ht) (h.finishTask fun _ _ _ => scaleDone_coherent)
  | updateDescriptorComplete id =>
    exact onRings_coherent (show execUpdateDescriptorComplete id s = _ from ht) (h.finishTask fun _ _ _ => updateDone_coherent)
  | rootAttempt id =>
    exact onRings_coherent (show execRootAttempt id s = _ from ht) (h.finishTask fun _ _ _ => rootStep_coherent)
  | targetRed | targetAtom => exact onDev_coherent ht (targetExec_coherent h)
  | gemvList | copyScalePass => exact onRings_coherent ht (listCommand_coherent h)
  | decodeOpen => exact onRings_coherent ht (decodeOpen_coherent h)
  | takeClaim => exact onDev_coherent ht (takeClaim_coherent h)
  | copyLocal => exact onRings_coherent ht (copyLocal_coherent h)
  | copyFabric => exact onRings_coherent ht (copyFabric_coherent h)
  | copyHostWrite => exact onRings_coherent ht (copyHostWrite_coherent h)
  | updateStep | updatePublish => exact onRings_coherent ht (updateCheck_coherent h)
  | updateStart => exact onRings_coherent ht (updateStart_coherent h)
  | fabGet | fabPut | fabMput | fabRed | fabAtom | fabPutFlag =>
    exact onDev_coherent ht (issuePicked_coherent h (issueCs_coherent h fun _ _ => fabBody_coherent))
  | packetRoute => exact onRings_coherent ht (packetRoute_coherent h)
  | getPacket => exact onDev_coherent ht (getPacket_coherent h)
  | putPacket | flagPacket => exact onDev_coherent ht (storeRow_coherent h)
  | mputPacket => exact onDev_coherent ht (mputPacket_coherent h)
  | redPacket | atomPacket => exact onDev_coherent ht (executorRow_coherent h)
  | combinedPacket => exact onDev_coherent ht (combinedPacket_coherent h)
  | dataReply => exact onRings_coherent ht (dataReply_coherent h)
  | ackReply => exact onRings_coherent ht (ackReply_coherent h)
  | resultReply => exact onRings_coherent ht (resultReply_coherent h)
  | nakReply => exact onRings_coherent ht (nakReply_coherent h)
  | resendDelayExpiry => exact onRings_coherent ht (resendDelay_coherent h)
  | collective => exact onRings_coherent ht (collective_coherent h)
  | collectiveStart => exact onRings_coherent ht (collectiveStart_coherent h)
  | segmentSend => exact onRings_coherent ht (segmentSend_coherent h)
  | segmentIngress | allGatherSegment => exact onRings_coherent ht (segmentRow_coherent h)
  | stragglerBudgetExpiry => exact onRings_coherent ht (budgetExpiry_coherent h)
  | collectiveComplete => exact onRings_coherent ht (collectiveComplete_coherent h)
  | partitionResetApply => exact onRings_coherent ht (partitionResetApply_coherent h)
  | eventRingPoll => exact onDev_coherent ht (eventRingPoll_coherent h)
  | rdmaWriteReceive => exact onDev_coherent ht (rdmaWrite_coherent h)
  | rdmaReadRequest => exact onDev_coherent ht (rdmaRead_coherent h)
  | sendReceive => exact onRings_coherent ht (sendReceive_coherent h)
  | doorbellNotice r => exact onRings_coherent (show execDoorbellNotice r s = _ from ht) (.ite h.readPage.sampleEvent h.readPage)
  | commandRead => exact onRings_coherent ht (commandRead_coherent h)
  | commandStart => exact onRings_coherent ht (commandStart_coherent h)
  | eventSignal => exact onRings_coherent ht (eventSignal_coherent h)
  | eventWait => exact onRings_coherent ht (eventWait_coherent h)
  | eventWaitSample r => exact onRings_coherent (show execEventWaitSample r s = _ from ht) (.ite h.sampleEvent h)
  | maskedFault => exact onDev_coherent ht (maskedFault_coherent h)
  | detectedFault => exact onRings_coherent ht (detectedFault_coherent h)
  | sampleNow r a => exact onRings_coherent (show execSampleNow r a s = _ from ht) (.ite h.writeRequest h)
  | rdmaResponseReceive => exact onRings_coherent ht (rdmaResponse_coherent h)
  | alwaysOnRailsUp => exact onDev_coherent ht (alwaysOn_coherent h)
  | coreAssignCommit => exact onDev_coherent ht (coreAssign_coherent h)
  | decisionReceive => exact onRings_coherent ht (decisionReceive_coherent h)
  | eventRecordWrite => exact onDev_coherent ht (eventRecordWrite_coherent h)
  | doorbellPoll => exact onRings_coherent ht (runAll_coherent h fun _ _ hx => hx.readPage)
  | vin48OvervoltageStop mv =>
    change (if 60000 < mv then _ else onDev (vin48Over mv) s) = _ at ht
    split at ht
    · cases ht
    · exact onDev_coherent ht (vin48Over_coherent h)
  | helloReceive p x => exact onSys_coherent (show execHelloReceive p x s = _ from ht) h
  | ethPortState p up => exact onSys_coherent (show execEthPortState p up s = _ from ht) h
  | vin48Start | vin48OvervoltageClear | managementRailUp | powerSample | thermalTrip | laserLineLoss | laserLineRestored
    | laserHoldExpiry | fwVerifyDone | clockStartDone | coreTestRow | powerWave | odpDatagramDiscard | sessionIdleTimeout
    | operandRead | laneDispatch | resultWriteback | mxaOperationComplete | mxaDrainComplete | progressStalled | kettleTurnEnd
    | pushAccept | batchBudgetExpiry | voteBudgetExpiry | coordinatorBudgetExpiry | epochInDoubt | ctrlPacket | ctrlResend
    | lockComplete | alignComplete | negotiateComplete | verifyWindowEnd | trainingStateTimeout | dataFlitReceive | nullFlitReceive
    | trainFlitReceive | flitTransmit | linkReplayTimeout | signalLost | portDegraded | helloSend | fabricTimeout | blockManagerPoll
    | collectiveStalled | frameReceive | pfcPauseReceive | pfcXoffRepeat | cnpReceive | rateIncrease | maskedSummary
    | remapTestComplete | ageingSample | tapBypass | samplePreload | tapExtest | mgmtHalt | mgmtMem | siteScan | stackTrainStepFailed
    | refclkValid | refclkLate | raiseWindowEnd | stackTrainTimeout | linkTrainDeadline | ownerVoteReceive | blockVoteReceive
    | spliceTrainingTimeout | mgmtStop | tapIdcode => exact onSys_coherent ht h
  | _ => exact onRings_coherent ht h.writeRequest

end

/-- Settles O3: an empty queue changes no memory, and each command is an effect that keeps memory coherent (R23, R25, R225). -/
theorem memoryStaysCoherent : Obligations.MemoryStaysCoherent := by
  intro s t h ht
  unfold step at ht
  split at ht
  · cases ht
    exact h
  · exact exec_coherent ht h

end Sys2Proof.Machine
end

section
/-! PROOF. A load's fill and the extension of Table 5-10: the model's `extend` cuts every sign-extended value to a register's 32 bits, the
statement's `loaded` does so only up to four bytes. No instruction sign-extends more than two bytes, but the statement takes every waiting
load, and nothing in the cores' soundness bounds the bytes of one that sign-extends. -/

namespace Sys2Proof.Machine

open Sys2Proof

/-- A sign-extending load of eight bytes at the start of stack 0, for register 2 of lane 0. -/
def wideLoad : PLoad := ⟨⟨0, 0, 0⟩, 0, 0, 0, 0, 8, true, 2, 0⟩

/-- The group of that load, which awaits registers 2 and 3. -/
def wideLoadGroup : Group where
  gid := ⟨0, 0, 0⟩
  block := 0
  gidx := 0
  pc := 0
  mask := 1
  live := 1
  stop := none
  stack := []
  parked := []
  wait := .none
  reported := false
  regs := []
  preds := List.replicate 7 0
  busy := [2, 3]
  lastIssue := 0
  wpc := 0

/-- Stack 0 trained, its first eight bytes the little-endian value `2 ^ 63 + 1`. -/
def wideLoadMem : Mem := Mem.reset.onStack 0 (fun t => { t with trained := true, cells := [(0, 1), (7, 128)] })

/-- The load waits for its line, and its instruction in a collector for the value. -/
def wideLoadState : State := { State.reset with
  dev.mem := wideLoadMem
  dev.sys.core.groups := [wideLoadGroup]
  dev.sys.core.collectors := [⟨⟨0, 0, 0⟩, [], [2, 3], 0, []⟩]
  dev.sys.core.loads := [wideLoad] }

theorem wideLoadMem_coherent : wideLoadMem.Coherent :=
  Mem.reset_coherent.onStack fun _ => ⟨rfl, nofun, List.nodup_nil, nofun⟩

theorem wideLoadState_ok : wideLoadState.dev.sys.core.Ok := by
  refine ⟨List.nodup_singleton _, ?_, nofun, nofun, nofun, ?_, List.pairwise_singleton _ _, nofun⟩
  · intro g hg
    obtain rfl := List.mem_singleton.1 hg
    exact ⟨rfl, rfl, rfl⟩
  · intro x hx r hr
    obtain rfl := List.mem_singleton.1 hx
    exact ⟨wideLoadGroup, List.mem_singleton.2 rfl, rfl, hr⟩

/-- The fill leaves the low 32 bits of the loaded value, 1, for register 2. -/
theorem wideLoadState_filled :
    (missFill 0 0 0 wideLoadState.dev).sys.core.collectors = [⟨⟨0, 0, 0⟩, [], [2, 3], 0, [(2, 1), (3, 0)]⟩] := by
  decide +kernel

/-- The statement's value of the loaded bytes is 0. -/
theorem wideLoad_loaded :
    loaded true 8 (leNat ((List.range 8).map (fun k => wideLoadState.dev.mem.byteAt 0 k))) = 0 := by
  decide +kernel

/-- Refutes O16: SLICE_MISS_FILL serves a sign-extending load of the eight bytes `2 ^ 63 + 1` with 1 for its first register, where the
statement's `loaded`, a subtraction of naturals, names 0. -/
theorem not_shofelAccessesReachTheirBytes : ¬ Obligations.ShofelAccessesReachTheirBytes := by
  intro h
  obtain ⟨-, -, -, hfill, -⟩ := h wideLoadState ⟨0, 0, 0⟩
    ⟨wideLoadGroup, ⟨0, 0, 0, 0, 0, 0, 0, 0, 0, 0, 0, [], [], [], [], [], none⟩, ⟨0, false, 0, 0, 0, 0, 0, 0⟩, ⟨[], [], [], 0⟩, []⟩
    wideLoadState_ok wideLoadMem_coherent
  obtain ⟨t, ht, -, -, -, -, -, -, -, hserved⟩ :=
    hfill 0 0 0 ⟨wideLoad, List.mem_singleton.2 rfl, rfl, rfl⟩ (by decide +kernel)
  have hdev : t.dev = missFill 0 0 0 wideLoadState.dev := by
    cases ht
    rfl
  rw [hdev, wideLoadState_filled] at hserved
  have hval := (hserved rfl (by decide +kernel)).2 wideLoad (List.mem_singleton.2 rfl) rfl rfl (by decide) (by decide +kernel) _
    (List.mem_singleton.2 rfl) rfl (by decide) 0 (by decide)
  simp only [wideLoad, Nat.zero_add, wideLoad_loaded] at hval
  revert hval
  decide

end Sys2Proof.Machine
end

section
/-! PROOF. Power-on, VIN48, the pins and the reference clock (R42 to R46, R52, R66, R70 to R79, R82, R93). -/

namespace Sys2Proof.Machine

open Sys2Proof

/-! ### Commands whose effect is known -/

theorem onSys_of {f : Sys → Sys} {s : State} {x : Sys} (h : f s.dev.sys = x) : onSys f s = .next { s with dev.sys := x } :=
  h ▸ rfl

theorem onDev_of {f : Dev → Dev} {s : State} {d : Dev} (h : f s.dev = d) : onDev f s = .next { s with dev := d } := h ▸ rfl

/-! ### Power-on -/

theorem CoreState.reset_ok : CoreState.reset.Ok := by
  refine ⟨List.nodup_nil, ?_, ?_, ?_, ?_, ?_, List.Pairwise.nil, ?_⟩ <;> intro x hx <;> cases hx

theorem PowerState.reset_stepsOk : PowerState.reset.StepsOk := ⟨by decide, by decide, by decide, by decide⟩

theorem HostState.reset_eth {e : EthPort} (h : e ∈ HostState.reset.eth) : e = EthPort.reset :=
  List.eq_of_mem_replicate (n := 2) h

theorem Sys.reset_sized : Sys.reset.Sized := by
  refine ⟨rfl, rfl, rfl, rfl, rfl, rfl, rfl, rfl, rfl, rfl, rfl, ?_, rfl, ?_, ?_, ?_, rfl, rfl, rfl, rfl, rfl, rfl, rfl, rfl⟩
  · intro e he
    obtain rfl := HostState.reset_eth he
    exact ⟨rfl, rfl, rfl, rfl, rfl⟩
  · exact List.length_replicate
  · exact List.length_replicate
  · intro l hl
    cases hl

/-- Settles O33: after power-on every table is the constant its reset value names (R52, R82, R638). -/
theorem resetLeavesAStoppedBlock : Obligations.ResetLeavesAStoppedBlock := by
  refine ⟨⟨rfl, Mem.reset_coherent.1, rfl, rfl, rfl, rfl, rfl, rfl, rfl, fun r => ?_, fun q => rfl, rfl, fun k => ?_, rfl, rfl, rfl, rfl, rfl⟩,
    Mem.reset_coherent, CoreState.reset_ok, PowerState.reset_stepsOk, Sys.reset_sized⟩
  · exact congrArg Ring.inEffect (List.getElem?_getD_replicate_default_eq (d := Ring.reset) 64 r)
  · exact congrArg Session.phase (List.getElem?_getD_replicate_default_eq (d := Session.free) 16 k)

/-! ### VIN48 -/

/-- Settles O6: the stages start from 42.0 V and a fall to 40.0 V takes everything with them (R42). -/
theorem stagesFollowVin48 : Obligations.StagesFollowVin48 := by
  refine fun s mv => ⟨fun hs ho h1 h2 => ?_, fun h => ?_, fun hs h => ?_, fun h => ?_⟩
  · exact onSys_of (f := vin48Start mv) (by simp [vin48Start, hs, ho, h1, h2, Sys.onPower])
  · exact onSys_of (f := vin48Start mv) (by simp [vin48Start, Nat.not_le.2 h])
  · exact ⟨_, onDev_of (f := vin48Under mv) (d := s.dev.powerLoss) (by simp [vin48Under, hs, h]), rfl, rfl, rfl, rfl, rfl, rfl, rfl, rfl⟩
  · exact onDev_of (f := vin48Under mv) (by simp [vin48Under, Nat.not_le.2 h])

theorem overvoltageStopsAndRestarts : Claims.OvervoltageStopsAndRestarts := by
  refine fun s mv => ⟨fun hs h1 h2 => ?_, fun h => if_pos h, fun ho h => ?_, fun h => ?_⟩
  · exact ⟨_, (if_neg (Nat.not_lt.2 h2)).trans (onDev_of (f := vin48Over mv)
      (d := liftSys (fun s => s.onPower (fun p => { p with overvolt := true })) s.dev.powerLoss) (by simp [vin48Over, hs, h1])),
      rfl, rfl, rfl, rfl, rfl, rfl, rfl⟩
  · exact onSys_of (f := vin48Clear mv) (by simp [vin48Clear, ho, h, Sys.onPower])
  · exact onSys_of (f := vin48Clear mv) (by simp [vin48Clear, Nat.not_lt.2 h])

/-! ### Rails and bring-up's start -/

/-- An incarnation drawn in 1 to 2^32 − 1, moved on where it is the one before, is neither 0 nor that one. -/
theorem Sys.bringUpStart_incarnation (s : Sys) :
    s.bringUpStart.fab.incarnation ≠ 0 ∧ s.bringUpStart.fab.incarnation ≠ s.fab.incarnation := by
  simp only [Sys.bringUpStart, Sys.journal, Sys.drew_fab, Sys.onDict_fab, Sys.onFab_fab]
  split <;> omega

theorem Sys.bringUpStart_bring (s : Sys) : s.bringUpStart.mgmt.bring
    = { s.mgmt.bring with phase := 1, status := 0, nBringUps := (s.mgmt.bring.nBringUps + 1) % 2 ^ 32 } := rfl

theorem Sys.bringUpStart_power (s : Sys) : s.bringUpStart.mgmt.power = s.mgmt.power := rfl

theorem railsStartBringUp : Claims.RailsStartBringUp := by
  refine fun s slot boot => ⟨fun hs hm => ?_, fun hm hr hl => ?_, fun hm hr hl => ?_⟩
  · refine ⟨_, rfl, rfl, rfl, ?_⟩
    simp [managementRail, hs, hm, PowerState.sample, Sys.freeBytes]
  · exact ⟨_, onDev_of (f := alwaysOn) (d := (liftSys (fun s => s.onPower (fun p => { p with rails := true })) s.dev).startUp)
      (by simp [alwaysOn, hm, hr, hl, liftSys]), rfl, rfl, rfl, rfl, rfl, rfl, rfl, Sys.bringUpStart_incarnation _⟩
  · exact onDev_of (f := alwaysOn) (by simp [alwaysOn, hm, hr, hl, liftSys, Sys.onPower])

/-! ### RESET_N -/

/-- The device once a low level on RESET_N has acted. -/
def Dev.heldLow (d : Dev) : Dev :=
  liftSys (fun s => s.onPower (fun p => { p with resetLow := true, pgood := false })) (if d.sys.mgmt.power.mgmtRail then d.deviceReset else d)

/-- A low level acts from 10 µs, may act from 1 µs, and acts once. -/
theorem resetNLow_cases (ns : Nat) (d : Dev) :
    (resetNLow ns d = liftSys (fun s => s.drew 1) d ∧ (10000 ≤ ns → d.sys.mgmt.power.resetLow = true))
      ∨ (resetNLow ns d = (liftSys (fun s => s.drew 1) d).heldLow ∧ 1000 ≤ ns ∧ d.sys.mgmt.power.resetLow = false) := by
  by_cases hl : d.sys.mgmt.power.resetLow = true
  · exact .inl ⟨by simp [resetNLow, liftSys, hl], fun _ => hl⟩
  · by_cases ha : 10000 ≤ ns ∨ (1000 ≤ ns ∧ d.sys.freeBool = true)
    · exact .inr ⟨by simp [resetNLow, Dev.heldLow, liftSys, ha, hl], by omega, by simpa using hl⟩
    · refine .inl ⟨by simp [resetNLow, liftSys, ha], fun h => absurd (.inl h) ha⟩

theorem resetPinRestarts : Claims.ResetPinRestarts := by
  refine fun s ns slot boot => ⟨fun h hl => ?_, fun h => ?_, fun hl => ?_⟩
  · refine ⟨_, rfl, rfl, ?_⟩
    obtain ⟨-, hc⟩ | ⟨he, -, -⟩ := resetNLow_cases ns s.dev
    · simp [hl] at hc; omega
    · simp only [he]
      cases hm : s.dev.sys.mgmt.power.mgmtRail
      · simp [Dev.heldLow, liftSys, hm, PowerState.pgoodPin, PowerState.atRest, PowerState.thermtripPin]
      · simp [Dev.heldLow, liftSys, hm, PowerState.pgoodPin, PowerState.atRest, PowerState.thermtripPin, Dev.deviceReset,
          PowerState.afterReset, BringUp.afterReset, BringUp.reset]
  · refine ⟨_, rfl, ?_⟩
    obtain ⟨he, -⟩ | ⟨he, hn, -⟩ := resetNLow_cases ns s.dev
    · exact .inl (by simp only [he]; rfl)
    · exact .inr ⟨hn, by simp only [he]; rfl⟩
  · refine ⟨_, rfl, rfl, ?_⟩
    cases hm : s.dev.sys.mgmt.power.mgmtRail <;> cases hr : s.dev.sys.mgmt.power.rails <;>
      simp [resetNRise, hl, liftSys, hm, hr, PowerState.sample, Dev.startUp, Dev.deviceReset, PowerState.afterReset,
        Sys.bringUpStart_bring, Sys.bringUpStart_power]

/-! ### The reference clock -/

/-- Entering a discrepancy changes the list, its count and the error log alone. -/
theorem Sys.disc_bring (s : Sys) (kind unit detail : Nat) : (s.disc kind unit detail).mgmt.bring = { s.mgmt.bring with
    discCount := min (s.mgmt.bring.discCount + 1) 65535
    discs := if s.mgmt.bring.discs.length < 256 then s.mgmt.bring.discs ++ [⟨s.mgmt.bring.phase, kind, unit, detail, s.mgmt.cycles⟩]
      else s.mgmt.bring.discs } := by
  simp [Sys.disc]

@[simp] theorem Sys.disc_core (s : Sys) (kind unit detail : Nat) : (s.disc kind unit detail).core = s.core := by simp [Sys.disc]
@[simp] theorem Sys.disc_host (s : Sys) (kind unit detail : Nat) : (s.disc kind unit detail).host = s.host := by simp [Sys.disc]
@[simp] theorem Sys.disc_fab (s : Sys) (kind unit detail : Nat) : (s.disc kind unit detail).fab = s.fab := by simp [Sys.disc]
@[simp] theorem Sys.disc_dict (s : Sys) (kind unit detail : Nat) : (s.disc kind unit detail).mgmt.dict = s.mgmt.dict := by simp [Sys.disc]
@[simp] theorem Sys.disc_power (s : Sys) (kind unit detail : Nat) : (s.disc kind unit detail).mgmt.power = s.mgmt.power := by simp [Sys.disc]
@[simp] theorem Sys.disc_sec (s : Sys) (kind unit detail : Nat) : (s.disc kind unit detail).mgmt.sec = s.mgmt.sec := by simp [Sys.disc]

theorem referenceClockWait : Claims.ReferenceClockWait := by
  refine fun s => ⟨?_, fun hu hp hr hd => ⟨_, rfl, rfl, rfl, ?_⟩⟩
  · refine onSys_of (f := refclkValid) ?_
    by_cases h : s.dev.sys.mgmt.bring.phase = 2 ∧ s.dev.sys.mgmt.bring.status = 2 <;> simp [refclkValid, Sys.onPower, Sys.onBring, h]
  · have hl : refclkLate s.dev.sys = s.dev.sys.disc 4 0 0 := by
      have hn : s.dev.sys.mgmt.bring.discs.any (fun x => x.kind == 4) = false := by simpa using hd
      simp [refclkLate, hu, hp, hr, hn]
    simp only [hl, Sys.disc_bring, Sys.disc_power, true_and]
    refine fun h => ⟨if_pos h, ?_⟩
    exact onSys_of (f := refclkLate) (by simp [refclkLate, Sys.disc_bring, h])

/-- Settles O35, from the four claims on VIN48, the rails, RESET_N and REFCLK. -/
theorem stagesClockAndReset : Obligations.StagesClockAndReset :=
  ⟨overvoltageStopsAndRestarts, railsStartBringUp, resetPinRestarts, referenceClockWait⟩

end Sys2Proof.Machine
end

section
/-! PROOF. The power-cap and thermal loops, the trip and the lasers (R17, R18, R52, R53, R57 to R59, R62, R63, R700). -/

namespace Sys2Proof.Machine

open Sys2Proof

/-! ### The throttle steps -/

/-- What a sample of `mw` leaves of the power state's cap loop (R52, R53). -/
theorem Sys.capSample_power (s : Sys) (mw : Nat) : (s.capSample mw).mgmt.power =
    if mw ≤ 1000 * s.cfgN 0x2010 1 then s.mgmt.power
    else if s.mgmt.power.capStep > 8 then { s.mgmt.power with capStep := s.mgmt.power.capStep - 1 }
    else { s.mgmt.power with nCapUnmet := min (s.mgmt.power.nCapUnmet + 1) (2 ^ 64 - 1), capEventSent := true } := by
  simp only [Sys.capSample, apply_ite Sys.mgmt, apply_ite MgmtState.power, Sys.log_power, Sys.raiseAll_power, Sys.onPower_power, ite_self]

theorem Sys.capSample_core (s : Sys) (mw : Nat) : (s.capSample mw).core = s.core := by
  simp only [Sys.capSample]
  split_ifs <;> simp

theorem Sys.capSample_fab (s : Sys) (mw : Nat) : (s.capSample mw).fab = s.fab := by
  simp only [Sys.capSample]
  split_ifs <;> simp

theorem powerSampleLowersSteps : Claims.PowerSampleLowersSteps := by
  intro s r hl hw ht
  refine ⟨_, rfl, rfl, rfl, ?_⟩
  have hc : ∀ f, (s.dev.sys.onPower f).cfgN 0x2010 1 = s.dev.sys.cfgN 0x2010 1 := fun _ => rfl
  simp only [powerSample, hl, Sys.windowFull, hw, ht, Bool.not_false, Bool.and_self, beq_self_eq_true, if_true, Sys.capSample_core,
    Sys.capSample_fab, Sys.capSample_power, Sys.onPower_core, Sys.onPower_fab, Sys.onPower_power, hc, true_and]
  by_cases h1 : r.milliwatts ≤ 1000 * s.dev.sys.cfgN 0x2010 1
  · simp [h1, Nat.not_lt.2 h1]
  · by_cases h2 : s.dev.sys.mgmt.power.capStep > 8
    · simp [h1, Nat.not_le.1 h1, h2, Nat.not_le.2 h2]
    · simp [h1, Nat.not_le.1 h1, h2, Nat.not_lt.1 h2]

theorem raiseWindowRaisesSteps : Claims.RaiseWindowRaisesSteps := by
  intro s hl hw hn
  refine ⟨_, rfl, rfl, rfl, ?_⟩
  simp only [raiseWindow, hl, Sys.windowFull, hw, bne_iff_ne.2 hn, Bool.and_self, if_true, apply_ite Sys.mgmt, apply_ite MgmtState.power,
    Sys.raiseAll_power, Sys.onPower_power, ite_self]
  simp

/-- Settles O36, from what a sample and the end of a window leave of the power state (R52, R53, R57, R58). -/
theorem throttleStepsMove : Obligations.ThrottleStepsMove := ⟨powerSampleLowersSteps, raiseWindowRaisesSteps⟩

/-! ### Entries and bits -/

theorem nth_modNth_same {l : List Nat} {i : Nat} (h : i < l.length) (f : Nat → Nat) : nth (modNth l i f) i = f (nth l i) :=
  (modNth_getD l i i f 0).trans (if_pos ⟨rfl, h⟩)

theorem setNth_getD_same {α : Type} {l : List α} {i : Nat} (h : i < l.length) (y d : α) : (setNth l i y).getD i d = y :=
  (setNth_getD l i i y d).trans (if_pos ⟨rfl, h⟩)

/-- A line's status after a level: its bit taken out of the engine's mask, and put back where the level suffices (R62). -/
theorem bit_replaced (m line : Nat) (on : Prop) [Decidable on] :
    bit (m - (if bit m line then 2 ^ line else 0) + (if on then 2 ^ line else 0)) line = decide on := by
  have hp : 0 < 2 ^ line := Nat.two_pow_pos line
  have hclear : (m - if bit m line then 2 ^ line else 0) / 2 ^ line % 2 = 0 := by
    by_cases h : m / 2 ^ line % 2 = 1
    · have h1 : (m - 2 ^ line) / 2 ^ line = m / 2 ^ line - 1 := by simpa using Nat.sub_mul_div m (2 ^ line) 1
      rw [if_pos (by simpa [bit] using h), h1]
      omega
    · rw [if_neg (by simpa [bit] using h)]
      simp; omega
  generalize (m - if bit m line then 2 ^ line else 0) = x at hclear
  by_cases h : on
  · simp [bit, h, Nat.add_div_right x hp]; omega
  · simp [bit, h]; omega

/-! ### What the ports' own operations leave alone -/

/-- The parts that no operation of a link or an Ethernet port changes: the cores, the dictionary, the power state and the identity. -/
def Sys.offLinks (s : Sys) : CoreState × DictState × PowerState × SecState := (s.core, s.mgmt.dict, s.mgmt.power, s.mgmt.sec)

theorem Sys.offLinks_eq {s t : Sys} (h : t.offLinks = s.offLinks) :
    t.core = s.core ∧ t.mgmt.dict = s.mgmt.dict ∧ t.mgmt.power = s.mgmt.power ∧ t.mgmt.sec = s.mgmt.sec := by
  simpa [Sys.offLinks] using h

@[simp] theorem Sys.onFab_offLinks (s : Sys) (f : FabState → FabState) : (s.onFab f).offLinks = s.offLinks := rfl
@[simp] theorem Sys.onHost_offLinks (s : Sys) (f : HostState → HostState) : (s.onHost f).offLinks = s.offLinks := rfl
@[simp] theorem Sys.onBring_offLinks (s : Sys) (f : BringUp → BringUp) : (s.onBring f).offLinks = s.offLinks := rfl
@[simp] theorem Sys.drew_offLinks (s : Sys) (n : Nat) : (s.drew n).offLinks = s.offLinks := rfl
@[simp] theorem Sys.onPort_offLinks (s : Sys) (i : Nat) (f : Port → Port) : (s.onPort i f).offLinks = s.offLinks := rfl
@[simp] theorem Sys.setPort_offLinks (s : Sys) (i st : Nat) : (s.setPort i st).offLinks = s.offLinks := rfl
@[simp] theorem Sys.enterTrain_offLinks (s : Sys) (i st : Nat) : (s.enterTrain i st).offLinks = s.offLinks := rfl
@[simp] theorem Sys.startPort_offLinks (s : Sys) (i : Nat) : (s.startPort i).offLinks = s.offLinks := rfl
@[simp] theorem Sys.nextPhase_offLinks (s : Sys) (ph st : Nat) : (s.nextPhase ph st).offLinks = s.offLinks := rfl

@[simp] theorem Sys.log_offLinks (s : Sys) (k u p c : Nat) (d : List Byte) : (s.log k u p c d).offLinks = s.offLinks := by
  simp [Sys.offLinks]

@[simp] theorem Sys.raiseAll_offLinks (s : Sys) (code src : Nat) (d : List Byte) : (s.raiseAll code src d).offLinks = s.offLinks := by
  simp [Sys.offLinks]

@[simp] theorem Sys.disc_offLinks (s : Sys) (k u d : Nat) : (s.disc k u d).offLinks = s.offLinks := by simp [Sys.offLinks]

@[simp] theorem Sys.portEvent_offLinks (s : Sys) (code i : Nat) (d : List Byte) : (s.portEvent code i d).offLinks = s.offLinks := by
  simp [Sys.portEvent, apply_ite Sys.offLinks]

@[simp] theorem Sys.portDown_offLinks (s : Sys) (i reason train : Nat) : (s.portDown i reason train).offLinks = s.offLinks := by
  simp [Sys.portDown, apply_ite Sys.offLinks]

@[simp] theorem ethPortState_offLinks (s : Sys) (port : Nat) (up : Bool) : (ethPortState port up s).offLinks = s.offLinks := by
  simp [ethPortState, Sys.onEth, apply_ite Sys.offLinks]

theorem runAll_offLinks {β : Type} {f : β → Sys → Sys} (h : ∀ b x, (f b x).offLinks = x.offLinks) (l : List β) (s : Sys) :
    (runAll f l s).offLinks = s.offLinks := runAll_keeps f Sys.offLinks h l s

@[simp] theorem Sys.engineDark_offLinks (s : Sys) (e : Nat) : (s.engineDark e).offLinks = s.offLinks := by
  unfold Sys.engineDark
  split_ifs
  · exact runAll_offLinks (fun k x => by simp [apply_ite Sys.offLinks]) _ s
  · simp

/-! ### Discrepancies and LINK_TRAIN's end -/

/-- A state with its discrepancies, its error log and its count of free values forgotten. -/
def Sys.unlogged (s : Sys) : Sys :=
  { s with
    freeCtr := 0
    mgmt.bring.discs := []
    mgmt.bring.discCount := 0
    mgmt.rel.log := []
    mgmt.rel.nextSeq := 0
    mgmt.rel.overwritten := 0 }

@[simp] theorem Sys.unlogged_core (s : Sys) : s.unlogged.core = s.core := rfl
@[simp] theorem Sys.unlogged_host (s : Sys) : s.unlogged.host = s.host := rfl
@[simp] theorem Sys.unlogged_fab (s : Sys) : s.unlogged.fab = s.fab := rfl
@[simp] theorem Sys.unlogged_dict (s : Sys) : s.unlogged.mgmt.dict = s.mgmt.dict := rfl
@[simp] theorem Sys.unlogged_power (s : Sys) : s.unlogged.mgmt.power = s.mgmt.power := rfl
@[simp] theorem Sys.unlogged_sec (s : Sys) : s.unlogged.mgmt.sec = s.mgmt.sec := rfl
@[simp] theorem Sys.unlogged_offLinks (s : Sys) : s.unlogged.offLinks = s.offLinks := rfl
@[simp] theorem Sys.unlogged_inPhase (s : Sys) (ph : Nat) : s.unlogged.inPhase ph = s.inPhase ph := rfl
@[simp] theorem Sys.drew_unlogged (s : Sys) (n : Nat) : (s.drew n).unlogged = s.unlogged := rfl

@[simp] theorem Sys.log_unlogged (s : Sys) (k u p c : Nat) (d : List Byte) : (s.log k u p c d).unlogged = s.unlogged := by
  unfold Sys.log; split <;> rfl

@[simp] theorem Sys.disc_unlogged (s : Sys) (k u d : Nat) : (s.disc k u d).unlogged = s.unlogged := by
  simp only [Sys.disc, Sys.log_unlogged]; rfl

theorem Sys.nextPhase_unlogged (s : Sys) (ph st : Nat) : (s.nextPhase ph st).unlogged = s.unlogged.nextPhase ph st := rfl

@[simp] theorem Sys.notTrained_unlogged (i : Nat) (s : Sys) : (Sys.notTrained i s).unlogged = s.unlogged := by
  simp [Sys.notTrained, apply_ite Sys.unlogged]

@[simp] theorem Sys.narrow_unlogged (i : Nat) (s : Sys) : (Sys.narrow i s).unlogged = s.unlogged := by
  simp [Sys.narrow, apply_ite Sys.unlogged]

@[simp] theorem Sys.laserLow_unlogged (e : Nat) (s : Sys) : (Sys.laserLow e s).unlogged = s.unlogged := by
  simp [Sys.laserLow, apply_ite Sys.unlogged]

/-- The ports of a list that have trained, as bits by their numbers modulo 16 (R100). -/
def Sys.trainedMask (s : Sys) (l : List Nat) : Nat := (l.filter s.portTrained).foldl (fun a i => a + 2 ^ (i % 16)) 0

/-- LINK_TRAIN ends in CORE_TEST with the trained ports reported; the rest is discrepancies (R100). -/
theorem Sys.endLinkTrain_unlogged (s : Sys) : s.endLinkTrain.unlogged = (s.unlogged.onBring (fun b => { b with
    portsTrained := s.trainedMask (List.range 16), ethTrained := s.trainedMask [16, 17] })).nextPhase 5 0 := by
  simp only [Sys.endLinkTrain, Sys.nextPhase_unlogged]
  rw [runAll_keeps _ Sys.unlogged Sys.laserLow_unlogged, runAll_keeps _ Sys.unlogged Sys.narrow_unlogged,
    runAll_keeps _ Sys.unlogged Sys.notTrained_unlogged]
  rfl

@[simp] theorem Sys.endLinkTrain_offLinks (s : Sys) : s.endLinkTrain.offLinks = s.offLinks := by
  rw [← Sys.unlogged_offLinks, Sys.endLinkTrain_unlogged]; rfl

@[simp] theorem Sys.linkTrainCheck_offLinks (s : Sys) : s.linkTrainCheck.offLinks = s.offLinks := by
  simp [Sys.linkTrainCheck, apply_ite Sys.offLinks]

/-! ### Lasers -/

theorem Sys.laserLevel_power (s : Sys) (e line uw : Nat) : (s.laserLevel e line uw).mgmt.power = { s.mgmt.power with
    lineUw := modNth s.mgmt.power.lineUw e (fun l => setNth l line uw)
    lineUp := modNth s.mgmt.power.lineUp e (fun m => m - (if bit m line then 2 ^ line else 0) + (if uw ≥ laserMin then 2 ^ line else 0)) } :=
  rfl

/-- A measured line shows whether it is at its minimum level (R62). -/
theorem Sys.laserLevel_bit {s : Sys} {e : Nat} (he : e < s.mgmt.power.lineUp.length) (line uw : Nat) :
    bit (nth (s.laserLevel e line uw).mgmt.power.lineUp e) line = decide (laserMin ≤ uw) := by
  rw [Sys.laserLevel_power, nth_modNth_same he, bit_replaced]

/-- The power state once a line of engine `e` has fallen below its level: a lit engine counts the loss and its hold ends (R63, R700). -/
theorem laserLoss_power {s : Sys} {e line uw : Nat} (hm : s.mgmt.power.mgmtRail = true) (hk : lineKnown e line = true) (hu : uw < laserMin) :
    (laserLoss e line uw s).core = s.core ∧ (laserLoss e line uw s).mgmt.power =
      if s.mgmt.power.lit e = true then { (s.laserLevel e line uw).mgmt.power with
        laserLoss := modNth s.mgmt.power.laserLoss e (fun n => (n + 1) % 2 ^ 32), laserHeld := setNth s.mgmt.power.laserHeld e false }
      else (s.laserLevel e line uw).mgmt.power := by
  simp only [laserLoss, hm, hk, hu, decide_true, Bool.and_self, if_true]
  split_ifs
  · obtain ⟨hc, -, hp, -⟩ := Sys.offLinks_eq ((Sys.linkTrainCheck_offLinks _).trans (Sys.engineDark_offLinks
      ((s.laserLevel e line uw).onPower (fun p => { p with
        laserLoss := modNth p.laserLoss e (fun n => (n + 1) % 2 ^ 32), laserHeld := setNth p.laserHeld e false })) e))
    exact ⟨hc, hp⟩
  · exact ⟨rfl, rfl⟩

theorem laserHold_power {s : Sys} {e : Nat} (hm : s.mgmt.power.mgmtRail = true) (he : e < 6) (hl : s.mgmt.power.lit e = true) :
    (laserHold e s).core = s.core ∧ (laserHold e s).mgmt.power = { s.mgmt.power with laserHeld := setNth s.mgmt.power.laserHeld e true } := by
  have hg : (s.mgmt.power.mgmtRail && decide (e < 6) && s.mgmt.power.lit e) = true := by simp [hm, he, hl]
  unfold laserHold
  rw [if_pos hg]
  dsimp only
  split_ifs
  · obtain ⟨hc, -, hp, -⟩ := Sys.offLinks_eq (runAll_offLinks (f := fun k s =>
      if s.portRuns (4 * e + k) && (s.port (4 * e + k)).train == 1 then (s.setPort (4 * e + k) 2).enterTrain (4 * e + k) 2 else s)
      (fun k x => by simp [apply_ite Sys.offLinks]) (List.range 4)
      (s.onPower (fun p => { p with laserHeld := setNth p.laserHeld e true })))
    exact ⟨hc, hp⟩
  · exact ⟨rfl, rfl⟩

/-- Settles O7, from the power state each of the four commands leaves (R59, R62, R63, R700). -/
theorem tripAndLaserLevels : Obligations.TripAndLaserLevels := by
  refine fun s sensor e line uw c hm => ⟨fun h1 h2 => ?_, fun he hl hu hh hs hn => ⟨_, rfl, rfl, rfl, ?_⟩,
    fun he hl hu hn => ?_, fun he hl hh => ⟨_, rfl, rfl, rfl, ?_⟩⟩
  · exact onSys_of (f := thermalTrip sensor c) (by simp [thermalTrip, hm, h1, h2, Sys.onPower])
  · obtain ⟨hc, hp⟩ := laserLoss_power (s := s.dev.sys) hm (decide_eq_true ⟨he, hl⟩) hu
    have hb : bit (nth (s.dev.sys.laserLevel e line uw).mgmt.power.lineUp e) line = false := by
      rw [Sys.laserLevel_bit (by omega)]; simpa using hu
    simp only [hp, hc, true_and]
    cases h : s.dev.sys.mgmt.power.lit e
    · exact ⟨hb, rfl, nofun⟩
    · exact ⟨hb, nth_modNth_same (by omega) _, fun _ => setNth_getD_same (by omega) _ _⟩
  · refine ⟨_, onSys_of (f := laserRestored e line uw) (x := s.dev.sys.laserLevel e line uw) ?_, rfl, rfl, ?_, rfl, rfl, rfl⟩
    · simp [laserRestored, hm, lineKnown, he, hl, hu]
    · exact (Sys.laserLevel_bit (by omega) line uw).trans (decide_eq_true hu)
  · obtain ⟨hc, hp⟩ := laserHold_power (s := s.dev.sys) hm he hl
    simp only [hp, hc, and_true]
    exact setNth_getD_same (by omega) _ _

end Sys2Proof.Machine
end

section
/-! PROOF. Bring-up from FW_VERIFY to LINK_TRAIN (R73, R77, R83 to R85, R90, R93 to R98, R100, R114, R661). -/

namespace Sys2Proof.Machine

open Sys2Proof

/-! ### Bits of a sum of powers -/

theorem bit_eq_testBit (x i : Nat) : bit x i = x.testBit i := Nat.testBit_eq_decide_div_mod_eq.symm

/-- The sum of the powers of two of the members of a list below `n` has their bits. -/
theorem foldl_pow_range (p : Nat → Bool) {n : Nat} (hn : n ≤ 16) :
    ((List.range n).filter p).foldl (fun a i => a + 2 ^ (i % 16)) 0 < 2 ^ n
      ∧ ∀ i < n, bit (((List.range n).filter p).foldl (fun a i => a + 2 ^ (i % 16)) 0) i = p i := by
  induction n with
  | zero => simp
  | succ n ih =>
    obtain ⟨hlt, hbit⟩ := ih (by omega)
    rw [List.range_succ, List.filter_append, List.foldl_append]
    generalize ((List.range n).filter p).foldl (fun a i => a + 2 ^ (i % 16)) 0 = x at hlt hbit
    have hn0 : bit x n = false := (bit_eq_testBit x n).trans (Nat.testBit_lt_two_pow hlt)
    cases hp : p n
    · refine ⟨by simp [hp, Nat.pow_succ]; omega, fun i hi => ?_⟩
      obtain rfl | hlt := Nat.lt_succ_iff_lt_or_eq.1 hi |>.symm
      · simp [hp, hn0]
      · simp [hp, hbit i hlt]
    · have hmod : n % 16 = n := by omega
      refine ⟨by simp [hp, hmod, Nat.pow_succ]; omega, fun i hi => ?_⟩
      obtain rfl | hlt := Nat.lt_succ_iff_lt_or_eq.1 hi |>.symm
      · simpa [hp, hmod, bit_eq_testBit, Nat.add_comm x, Nat.testBit_two_pow_add_eq] using hn0
      · simpa [hp, hmod, bit_eq_testBit, Nat.add_comm x, Nat.testBit_two_pow_add_gt hlt] using hbit i hlt

theorem Sys.trainedMask_bit (s : Sys) {i : Nat} (hi : i < 16) : bit (s.trainedMask (List.range 16)) i = s.portTrained i :=
  (foldl_pow_range s.portTrained (Nat.le_refl 16)).2 i hi

theorem linkTrainDeadlineEnds : Claims.LinkTrainDeadlineEnds := by
  intro s h
  have hl : linkDeadline s.dev.sys = s.dev.sys.endLinkTrain := if_pos h
  have hu := Sys.endLinkTrain_unlogged s.dev.sys
  refine ⟨_, onSys_of (f := linkDeadline) hl, rfl, rfl, congrArg (·.mgmt.bring.phase) hu, congrArg (·.mgmt.bring.status) hu,
    congrArg (·.core) hu, congrArg (·.host) hu, congrArg (·.fab) hu, fun i hi => ?_⟩
  rw [← s.dev.sys.trainedMask_bit hi]
  exact congrArg (fun x : Sys => bit x.mgmt.bring.portsTrained i) hu

/-! ### Runs of updates -/

/-- What a run of updates makes of a part, where each update makes of it a function of itself. -/
theorem runAll_map {α β γ : Type} {f : β → α → α} {f' : β → γ → γ} {g : α → γ} {P : α → Prop} (hP : ∀ b x, P x → P (f b x))
    {l : List β} (h : ∀ b ∈ l, ∀ x, P x → g (f b x) = f' b (g x)) {x : α} (hx : P x) : g (runAll f l x) = runAll f' l (g x) := by
  induction l generalizing x with
  | nil => rfl
  | cons b bs ih =>
    obtain ⟨hb, hbs⟩ := List.forall_mem_cons.1 h
    rw [runAll, runAll, ih hbs (hP b x hx), hb x hx]

/-- Setting the places of a list to one value. -/
theorem runAll_setNth_getD {α : Type} (y d : α) (is : List Nat) (l : List α) {j : Nat} (hj : j < l.length) :
    (runAll (fun i l => setNth l i y) is l).getD j d = if j ∈ is then y else l.getD j d := by
  induction is generalizing l with
  | nil => rfl
  | cons i is ih =>
    rw [runAll, ih _ (by simpa using hj), setNth_getD]
    by_cases h1 : j ∈ is
    · simp [h1]
    · by_cases h2 : i = j
      · subst h2; simp [hj]
      · simp [h1, h2, Ne.symm h2]

theorem runAll_setNth_length {α : Type} (y : α) (is : List Nat) (l : List α) : (runAll (fun i l => setNth l i y) is l).length = l.length :=
  runAll_keeps _ List.length (fun _ _ => setNth_length _ _ _) is l

/-! ### The end of STACK_TRAIN -/

/-- What is recorded of the stacks: the reasons of those untrained, and which are done. -/
def Sys.stacks (s : Sys) : List Nat × List Bool := (s.mgmt.bring.stackReason, s.mgmt.bring.stackDone)

theorem getD_default {α : Type} {l : List α} {i : Nat} (h : i < l.length) (d d' : α) : l.getD i d = l.getD i d' := by
  rw [List.getD_eq_getElem _ _ h, List.getD_eq_getElem _ _ h]

theorem all_id_iff {l : List Bool} {n : Nat} (h : l.length = n) : l.all id = true ↔ ∀ j < n, l.getD j false = true := by
  subst h
  simp only [List.all_eq_true, id, List.forall_mem_iff_getElem]
  exact forall₂_congr fun j hj => by rw [List.getD_eq_getElem _ _ hj]

/-- LINK_TRAIN may end as soon as it has begun; it records nothing of the stacks. -/
theorem Sys.linkTrainCheck_bring (s : Sys) :
    s.linkTrainCheck.stacks = s.stacks ∧ (s.linkTrainCheck.mgmt.bring.phase = s.mgmt.bring.phase ∨ s.linkTrainCheck.mgmt.bring.phase = 5) := by
  unfold Sys.linkTrainCheck
  split
  · have hu := s.endLinkTrain_unlogged
    exact ⟨(congrArg Sys.stacks hu :), .inr (congrArg (·.mgmt.bring.phase) hu)⟩
  · exact ⟨rfl, .inl rfl⟩

theorem Sys.beginLinkTrain_spec (s : Sys) :
    s.beginLinkTrain.offLinks = s.offLinks ∧ s.beginLinkTrain.stacks = s.stacks ∧ 4 ≤ s.beginLinkTrain.mgmt.bring.phase := by
  have hb : (runAll (fun i s => if bit (s.cfgN 0x6021 1) i then s.startPort i else s.setPort i 0) (List.range 16) (s.nextPhase 4 0)).mgmt.bring
      = (s.nextPhase 4 0).mgmt.bring :=
    runAll_keeps _ (fun x : Sys => x.mgmt.bring) (fun i x => by split <;> rfl) _ _
  refine ⟨?_, ?_, ?_⟩
  · rw [Sys.beginLinkTrain, Sys.linkTrainCheck_offLinks, runAll_offLinks (fun i x => by simp [apply_ite Sys.offLinks])]
    rfl
  · exact (Sys.linkTrainCheck_bring _).1.trans (congrArg (fun b => (b.stackReason, b.stackDone)) hb)
  · obtain hp | hp := (Sys.linkTrainCheck_bring (runAll (fun i s => if bit (s.cfgN 0x6021 1) i then s.startPort i else s.setPort i 0)
      (List.range 16) (s.nextPhase 4 0))).2
    · exact Nat.le_of_eq (hp.trans (congrArg BringUp.phase hb)).symm
    · exact Nat.le_of_lt (Nat.lt_of_lt_of_eq (by decide) hp.symm)

/-- STACK_TRAIN goes on while a stack is open, and ends once all are done. -/
theorem Sys.stacksCheck_spec {s : Sys} (h : s.mgmt.bring.stackDone.length = 8) :
    s.stacksCheck.offLinks = s.offLinks ∧ s.stacksCheck.stacks = s.stacks
      ∧ ((∃ j < 8, s.mgmt.bring.stackDone.getD j false = false) → s.stacksCheck = s)
      ∧ ((∀ j < 8, s.mgmt.bring.stackDone.getD j false = true) → 4 ≤ s.stacksCheck.mgmt.bring.phase) := by
  unfold Sys.stacksCheck
  have hall := all_id_iff h
  by_cases hd : s.mgmt.bring.stackDone.all id = true
  · rw [if_pos hd]
    obtain ⟨h1, h2, h3⟩ := s.beginLinkTrain_spec
    refine ⟨h1, h2, ?_, fun _ => h3⟩
    rintro ⟨j, hj, hf⟩
    exact Bool.noConfusion ((hall.1 hd j hj).symm.trans hf)
  · rw [if_neg hd]
    exact ⟨rfl, rfl, fun _ => rfl, fun ha => absurd (hall.2 ha) hd⟩

/-- The state once stack `st` is done: STACK_TRAIN goes on while another is open. -/
theorem Sys.stacksCheck_last {s x : Sys} {st : Nat} (h : s.mgmt.bring.stackDone.length = 8) (hst : st < 8)
    (hx : x.mgmt.bring.stackDone = setNth s.mgmt.bring.stackDone st true) (hp : x.mgmt.bring.phase = 3) :
    x.stacksCheck.offLinks = x.offLinks ∧ x.stacksCheck.stacks = x.stacks ∧ x.stacksCheck.mgmt.bring.stackDone.getD st false = true
      ∧ ((∃ j < 8, j ≠ st ∧ s.mgmt.bring.stackDone.getD j true = false) → x.stacksCheck.mgmt.bring.phase = 3)
      ∧ ((∀ j < 8, s.mgmt.bring.stackDone.getD j true = false → j = st) → 4 ≤ x.stacksCheck.mgmt.bring.phase) := by
  obtain ⟨h1, h2, h3, h4⟩ := Sys.stacksCheck_spec (s := x) (by rw [hx, setNth_length, h])
  have hself : x.mgmt.bring.stackDone.getD st false = true := by rw [hx]; exact setNth_getD_same (by omega) _ _
  have hother : ∀ j < 8, j ≠ st → x.mgmt.bring.stackDone.getD j false = s.mgmt.bring.stackDone.getD j true := fun j hj hne => by
    rw [hx, setNth_getD, if_neg (fun hh => hne hh.1.symm)]
    exact getD_default (by omega) _ _
  refine ⟨h1, h2, ?_, fun ⟨j, hj, hne, ho⟩ => ?_, fun hall => h4 fun j hj => ?_⟩
  · rw [show x.stacksCheck.mgmt.bring.stackDone = x.mgmt.bring.stackDone from congrArg Prod.snd h2]
    exact hself
  · rw [h3 ⟨j, hj, (hother j hj hne).trans ho⟩, hp]
  · by_cases hne : j = st
    · exact hne ▸ hself
    · rw [hother j hj hne]
      exact (Bool.eq_true_of_not_eq_false fun ho => hne (hall j hj ho))

/-! ### Stacks trained and untrained -/

theorem Sys.inPhase_phase {s : Sys} {ph : Nat} (h : s.inPhase ph = true) : s.mgmt.bring.phase = ph := by
  simp only [Sys.inPhase, Bool.and_eq_true, beq_iff_eq] at h
  exact h.2

/-- A stack recorded untrained: its reason and its end, and a discrepancy (R97). -/
theorem Sys.untrained_unlogged (s : Sys) (st reason : Nat) : (s.untrained st reason).unlogged = s.unlogged.onBring (fun b => { b with
    stackReason := setNth b.stackReason st reason, stackDone := setNth b.stackDone st true }) := by
  rw [Sys.untrained, Sys.disc_unlogged]; rfl

theorem Sys.stackOpen_eq {s : Sys} {st : Nat} (h : s.inPhase 3 = true) (hst : st < 8) :
    s.stackOpen st = !s.mgmt.bring.stackDone.getD st true := by
  rw [Sys.stackOpen, h, decide_eq_true hst, Bool.and_self, Bool.true_and]

theorem stackTrained_open {st rows : Nat} {d : Dev} (h : d.sys.stackOpen st = true) :
    ∃ x : Sys, x.unlogged = (d.sys.onBring (fun b => { b with stackDone := setNth b.stackDone st true })).unlogged
      ∧ stackTrained st rows d = ⟨{ d.mem with
          dram := setNth d.mem.dram st { Stack.reset with trained := true }, slices := setNth d.mem.slices st Slice.reset }, x.stacksCheck⟩ := by
  refine ⟨_, ?_, if_pos h⟩
  split
  · rfl
  · have hd := d.sys.disc_unlogged 0x11 st rows
    exact congrArg (fun x : Sys => x.onBring (fun b => { b with stackDone := setNth b.stackDone st true })) hd

/-- The stacks that have not finished when the timeout comes end untrained with reason 7. -/
def timeOut (st : Nat) (x : List Nat × List Bool) : List Nat × List Bool :=
  if x.2.getD st true = false then (setNth x.1 st 7, setNth x.2 st true) else x

theorem timeOut_length (st : Nat) (x : List Nat × List Bool) : (timeOut st x).2.length = x.2.length := by
  unfold timeOut
  split
  · exact setNth_length _ _ _
  · rfl

theorem runAll_timeOut {is : List Nat} (r : List Nat) (d : List Bool) {j : Nat} (hr : j < r.length) (hd : j < d.length) :
    (runAll timeOut is (r, d)).2.getD j false = (decide (j ∈ is) || d.getD j false)
      ∧ nth (runAll timeOut is (r, d)).1 j = if j ∈ is ∧ d.getD j true = false then 7 else nth r j := by
  induction is generalizing r d with
  | nil => simp [runAll]
  | cons i is ih =>
    rw [runAll]
    by_cases h : d.getD i true = false
    · rw [show timeOut i (r, d) = (setNth r i 7, setNth d i true) from if_pos h]
      obtain ⟨h1, h2⟩ := ih (setNth r i 7) (setNth d i true) (by simpa using hr) (by simpa using hd)
      rw [h1, h2, nth, setNth_getD, setNth_getD, setNth_getD]
      by_cases hi : i = j
      · subst hi; simp [-List.getD_eq_getElem?_getD, hr, hd, h]
      · simp [hi, Ne.symm hi, nth]
    · rw [show timeOut i (r, d) = (r, d) from if_neg h]
      obtain ⟨h1, h2⟩ := ih r d hr hd
      rw [h1, h2]
      by_cases hi : i = j
      · subst hi
        rw [getD_default hd false true]
        simp [-List.getD_eq_getElem?_getD, Bool.eq_true_of_not_eq_false h]
      · simp [Ne.symm hi]

theorem Sys.untrained_stacks (s : Sys) (st reason : Nat) :
    (s.untrained st reason).stacks = (setNth s.mgmt.bring.stackReason st reason, setNth s.mgmt.bring.stackDone st true) :=
  (congrArg Sys.stacks (s.untrained_unlogged st reason) :)

theorem Sys.untrained_offLinks (s : Sys) (st reason : Nat) : (s.untrained st reason).offLinks = s.offLinks :=
  (congrArg Sys.offLinks (s.untrained_unlogged st reason) :)

theorem Sys.untrained_inPhase (s : Sys) (st reason ph : Nat) : (s.untrained st reason).inPhase ph = s.inPhase ph :=
  (congrArg (fun x : Sys => x.inPhase ph) (s.untrained_unlogged st reason) :)

/-- What the timeout does of one stack. -/
def Sys.timedOut (st : Nat) (s : Sys) : Sys := if s.stackOpen st then s.untrained st 7 else s

theorem Sys.timedOut_inPhase {s : Sys} (st : Nat) (h : s.inPhase 3 = true) : (s.timedOut st).inPhase 3 = true := by
  unfold Sys.timedOut
  split
  · rwa [Sys.untrained_inPhase]
  · exact h

theorem Sys.timedOut_stacks {s : Sys} {st : Nat} (hst : st < 8) (h : s.inPhase 3 = true) : (s.timedOut st).stacks = timeOut st s.stacks := by
  cases hd : s.mgmt.bring.stackDone.getD st true
  · rw [Sys.timedOut, if_pos (by rw [Sys.stackOpen_eq h hst, hd]; rfl), Sys.untrained_stacks]
    exact (if_pos hd).symm
  · rw [Sys.timedOut, if_neg (by rw [Sys.stackOpen_eq h hst, hd]; decide)]
    exact (if_neg fun hf => Bool.noConfusion (hd.symm.trans hf)).symm

theorem Sys.timedOut_offLinks (st : Nat) (s : Sys) : (s.timedOut st).offLinks = s.offLinks := by
  simp [Sys.timedOut, apply_ite Sys.offLinks, Sys.untrained_offLinks]

/-- The timeout ends every stack, and gives reason 7 to those that had not finished (R97). -/
theorem stackTimeout_all {s : Sys} (hp : s.inPhase 3 = true) (hd : s.mgmt.bring.stackDone.length = 8)
    (hr : s.mgmt.bring.stackReason.length = 8) :
    ∃ x : Sys, stackTimeout s = x.stacksCheck ∧ x.offLinks = s.offLinks ∧ x.mgmt.bring.stackDone.length = 8
      ∧ ∀ st < 8, x.mgmt.bring.stackDone.getD st false = true
        ∧ nth x.mgmt.bring.stackReason st = if s.mgmt.bring.stackDone.getD st true = false then 7 else nth s.mgmt.bring.stackReason st := by
  have hs : (runAll Sys.timedOut (List.range 8) s).stacks = runAll timeOut (List.range 8) s.stacks :=
    runAll_map (f' := timeOut) (P := fun x : Sys => x.inPhase 3 = true) (fun st x => Sys.timedOut_inPhase st)
      (fun st hst x hx => Sys.timedOut_stacks (List.mem_range.1 hst) hx) hp
  have he : stackTimeout s = (runAll Sys.timedOut (List.range 8) s).stacksCheck := if_pos hp
  have hoff := runAll_offLinks Sys.timedOut_offLinks (List.range 8) s
  have hlen := runAll_keeps timeOut (fun y => y.2.length) timeOut_length (List.range 8) s.stacks
  generalize runAll Sys.timedOut (List.range 8) s = x at hs he hoff
  refine ⟨x, he, hoff, (congrArg (fun y : List Nat × List Bool => y.2.length) hs).trans (hlen.trans hd), fun st hst => ?_⟩
  obtain ⟨h1, h2⟩ := runAll_timeOut (is := List.range 8) s.mgmt.bring.stackReason s.mgmt.bring.stackDone (j := st) (by omega) (by omega)
  refine ⟨(congrArg (fun y : List Nat × List Bool => y.2.getD st false) hs).trans (h1.trans ?_),
    (congrArg (fun y : List Nat × List Bool => nth y.1 st) hs).trans (h2.trans ?_)⟩
  · rw [decide_eq_true (List.mem_range.2 hst), Bool.true_or]
  · simp only [List.mem_range, hst, true_and]

theorem stackTrainingOutcomes : Claims.StackTrainingOutcomes := by
  intro s hp hd hr hdram hsl
  have hph := Sys.inPhase_phase hp
  refine ⟨fun st hst ho => ⟨fun rows => ?_, fun reason hre => ?_⟩, ?_⟩
  · have hopen : s.dev.sys.stackOpen st = true := by rw [Sys.stackOpen_eq hp hst, show _ = false from ho]; rfl
    obtain ⟨x, hx, he⟩ := stackTrained_open (rows := rows) hopen
    have hdone : x.mgmt.bring.stackDone = setNth s.dev.sys.mgmt.bring.stackDone st true := (congrArg (·.mgmt.bring.stackDone) hx :)
    have hphase : x.mgmt.bring.phase = 3 := (congrArg (·.mgmt.bring.phase) hx :).trans hph
    obtain ⟨h1, h2, h3, h4, h5⟩ := Sys.stacksCheck_last hd hst hdone hphase
    have hstack : ∀ j, (Mem.stack { s.dev.mem with
          dram := setNth s.dev.mem.dram st { Stack.reset with trained := true }, slices := setNth s.dev.mem.slices st Slice.reset } j)
        = if st = j ∧ j < 8 then { Stack.reset with trained := true } else s.dev.mem.stack j := fun j => by
      rw [← hdram]; exact setNth_getD _ _ _ _ _
    have hself := (hstack st).trans (if_pos ⟨rfl, hst⟩)
    refine ⟨_, onDev_of (f := stackTrained st rows) he, rfl, congrArg Stack.trained hself, fun L => ?_, congrArg Stack.poisoned hself, ?_,
      fun j hj => (hstack j).trans (if_neg fun h => hj h.1.symm), h3, ?_, h4, h5⟩
    · rw [congrArg Stack.cells hself]; rfl
    · exact congrArg Slice.lines (setNth_getD_same (by omega) _ _)
    · exact (Sys.offLinks_eq h1).1.trans (congrArg (·.core) hx :)
  · have hopen : s.dev.sys.stackOpen st = true := by rw [Sys.stackOpen_eq hp hst, show _ = false from ho]; rfl
    have he : stackFailed st reason s.dev.sys = (s.dev.sys.untrained st reason).stacksCheck := if_pos (by simp [hopen, -List.contains_eq_mem, hre])
    have hs := s.dev.sys.untrained_stacks st reason
    obtain ⟨h1, h2, h3, h4, h5⟩ := Sys.stacksCheck_last hd hst (congrArg Prod.snd hs)
      ((congrArg (·.mgmt.bring.phase) (s.dev.sys.untrained_unlogged st reason) :).trans hph)
    refine ⟨_, onSys_of (f := stackFailed st reason) he, rfl, rfl, ?_, h3, ?_, h4, h5⟩
    · exact (congrArg (fun x : List Nat × List Bool => nth x.1 st) (h2.trans hs)).trans (setNth_getD_same (by omega) _ _)
    · exact (Sys.offLinks_eq (h1.trans (Sys.untrained_offLinks _ _ _))).1
  · obtain ⟨x, hx, hoff, hlen, hall⟩ := stackTimeout_all hp hd hr
    obtain ⟨h1, h2, -, h4⟩ := Sys.stacksCheck_spec hlen
    refine ⟨_, onSys_of (f := stackTimeout) hx, rfl, rfl, (Sys.offLinks_eq (h1.trans hoff)).1, h4 fun st hst => (hall st hst).1, fun st hst => ?_⟩
    obtain ⟨hdone, hreason⟩ := hall st hst
    have hr' := (congrArg (fun y : List Nat × List Bool => nth y.1 st) h2).trans hreason
    exact ⟨(congrArg (fun y : List Nat × List Bool => y.2.getD st false) h2).trans hdone, fun ho => hr'.trans (if_pos ho),
      fun ho => hr'.trans (if_neg ho)⟩

/-! ### CLOCK_START -/

/-- A slice's failed self test, as CLOCK_START records it (R94). -/
def Sys.sliceFailed (array st : Nat) (s : Sys) : Sys :=
  (s.onBring (fun b => { b with stackReason := setNth b.stackReason st 5 })).disc 5 0x03 array

theorem Sys.sliceFailed_unlogged (array st : Nat) (s : Sys) :
    (s.sliceFailed array st).unlogged = s.unlogged.onBring (fun b => { b with stackReason := setNth b.stackReason st 5 }) := by
  rw [Sys.sliceFailed, Sys.disc_unlogged]; rfl

/-- The failed slices change the reasons of their stacks alone. -/
theorem Sys.sliceFailed_all (array : Nat) (l : List Nat) (s : Sys) : (runAll (Sys.sliceFailed array) l s).unlogged
    = s.unlogged.onBring (fun b => { b with stackReason := runAll (fun st r => setNth r st 5) l b.stackReason }) := by
  induction l generalizing s with
  | nil => rfl
  | cons st l ih => rw [runAll, ih, Sys.sliceFailed_unlogged]; rfl

/-- The stacks untrained at once change their reasons and are done. -/
theorem Sys.untrained_all (l : List Nat) (s : Sys) : (runAll (fun st s => s.untrained st 5) l s).unlogged
    = s.unlogged.onBring (fun b => { b with
        stackReason := runAll (fun st r => setNth r st 5) l b.stackReason
        stackDone := runAll (fun st d => setNth d st true) l b.stackDone }) := by
  induction l generalizing s with
  | nil => rfl
  | cons st l ih => rw [runAll, ih, Sys.untrained_unlogged]; rfl

/-- STACK_TRAIN begins with the stacks of failed slices untrained, and goes on while another is open (R94). -/
theorem Sys.beginStackTrain_spec {s : Sys} (hd : s.mgmt.bring.stackDone.length = 8) (hr : s.mgmt.bring.stackReason.length = 8) :
    s.beginStackTrain.offLinks = s.offLinks
      ∧ (∀ st < 8, nth s.mgmt.bring.stackReason st = 5 → nth s.beginStackTrain.mgmt.bring.stackReason st = 5)
      ∧ (∀ st < 8, s.beginStackTrain.mgmt.bring.stackDone.getD st false = true
          ↔ nth s.mgmt.bring.stackReason st = 5 ∨ s.mgmt.bring.stackDone.getD st false = true)
      ∧ ((∃ st < 8, nth s.mgmt.bring.stackReason st ≠ 5 ∧ s.mgmt.bring.stackDone.getD st false = false) →
          s.beginStackTrain.mgmt.bring.phase = 3 ∧ s.beginStackTrain.mgmt.bring.status = 0)
      ∧ ((∀ st < 8, nth s.mgmt.bring.stackReason st = 5 ∨ s.mgmt.bring.stackDone.getD st false = true) →
          4 ≤ s.beginStackTrain.mgmt.bring.phase) := by
  have hbad : ∀ st < 8, (st ∈ (List.range 8).filter (fun st => nth s.mgmt.bring.stackReason st == 5) ↔ nth s.mgmt.bring.stackReason st = 5) :=
    fun st hst => by simp [hst]
  have hu := Sys.untrained_all ((List.range 8).filter (fun st => nth s.mgmt.bring.stackReason st == 5))
    (s.onBring (fun b => { b with phase := 3, status := 0 }))
  unfold Sys.beginStackTrain
  dsimp only
  generalize (List.range 8).filter (fun st => nth s.mgmt.bring.stackReason st == 5) = l at hbad hu
  generalize runAll (fun st s => Sys.untrained s st 5) l (s.onBring (fun b => { b with phase := 3, status := 0 })) = x at hu
  have hdone : x.mgmt.bring.stackDone = runAll (fun st d => setNth d st true) l s.mgmt.bring.stackDone := (congrArg (·.mgmt.bring.stackDone) hu :)
  have hreason : x.mgmt.bring.stackReason = runAll (fun st r => setNth r st 5) l s.mgmt.bring.stackReason :=
    (congrArg (·.mgmt.bring.stackReason) hu :)
  have hdone' : ∀ st < 8, (x.mgmt.bring.stackDone.getD st false = true
      ↔ nth s.mgmt.bring.stackReason st = 5 ∨ s.mgmt.bring.stackDone.getD st false = true) := fun st hst => by
    rw [hdone, runAll_setNth_getD _ _ _ _ (by omega), ← hbad st hst]
    by_cases hl : st ∈ l
    · simp only [hl, if_true, true_or]
    · simp only [hl, if_false, false_or]
  obtain ⟨h1, h2, h3, h4⟩ := Sys.stacksCheck_spec (s := x) (by rw [hdone, runAll_setNth_length, hd])
  refine ⟨h1.trans (congrArg Sys.offLinks hu :), fun st hst h5 => ?_, fun st hst => ?_, fun ⟨st, hst, h5, ho⟩ => ?_, fun hall => ?_⟩
  · rw [show x.stacksCheck.mgmt.bring.stackReason = _ from (congrArg Prod.fst h2).trans hreason, nth,
      runAll_setNth_getD _ _ _ _ (by omega), if_pos ((hbad st hst).2 h5)]
  · rw [show x.stacksCheck.mgmt.bring.stackDone = _ from congrArg Prod.snd h2]
    exact hdone' st hst
  · have hopen : x.mgmt.bring.stackDone.getD st false = false :=
      Bool.eq_false_of_not_eq_true fun hc => ((hdone' st hst).1 hc).elim h5 fun hc => Bool.noConfusion (ho.symm.trans hc)
    rw [h3 ⟨st, hst, hopen⟩]
    exact ⟨(congrArg (·.mgmt.bring.phase) hu :), (congrArg (·.mgmt.bring.status) hu :)⟩
  · exact h4 fun st hst => (hdone' st hst).2 (hall st hst)

/-- The rest of the measurement log that CLOCK_START makes (R667). -/
def Sys.clockMeasures (s : Sys) : Sys :=
  ((s.measure 5 s.mgmt.rel.planInForce.number (Config.shake256 64 s.mgmt.rel.planInForce.bytes)).measure 6
    (if s.mgmt.sec.debugOpen then 1 else 0) (zeros 64)).measure 7 ((roleTable s).filter (fun k => k != [])).length
      (Config.shake256 64 (roleTable s).flatten)

/-- CLOCK_START in its three ends, after the slices' results `x`. -/
theorem clockStart_ends {s : Sys} (r : UncoreReading) (hp : s.inPhase 2 = true) (hc : s.mgmt.power.refclk = true) :
    ∃ x : Sys, x.unlogged = s.unlogged.onBring (fun b => { b with
        stackReason := runAll (fun st r => setNth r st 5) ((List.range 8).filter (bit r.sliceFail)) b.stackReason })
      ∧ clockStart r s = if r.uncoreUnit ≠ 0 then (x.disc 5 r.uncoreUnit r.uncoreArray).failUp
          else if x.mgmt.power.bootMode % 2 = 1 then x.clockMeasures.nextPhase 0x0F 2 else (x.clockMeasures.nextPhase 3 0).beginStackTrain :=
  ⟨_, Sys.sliceFailed_all r.sliceArray _ s, if_pos (by rw [hp, hc]; rfl)⟩

theorem clockStartEnds : Claims.ClockStartEnds := by
  intro s r hp hc hd hr
  dsimp only
  obtain ⟨x, hx, he⟩ := clockStart_ends r hp hc
  have hcore : x.core = s.dev.sys.core := (congrArg (·.core) hx :)
  have hpower : x.mgmt.power = s.dev.sys.mgmt.power := (congrArg (·.mgmt.power) hx :)
  have hsec : x.mgmt.sec = s.dev.sys.mgmt.sec := (congrArg (·.mgmt.sec) hx :)
  have hdone : x.mgmt.bring.stackDone = s.dev.sys.mgmt.bring.stackDone := (congrArg (·.mgmt.bring.stackDone) hx :)
  have hreason : x.mgmt.bring.stackReason = runAll (fun st r => setNth r st 5) ((List.range 8).filter (bit r.sliceFail))
    s.dev.sys.mgmt.bring.stackReason := (congrArg (·.mgmt.bring.stackReason) hx :)
  have hlen : x.mgmt.bring.stackReason.length = 8 := by rw [hreason, runAll_setNth_length, hr]
  have hbad : ∀ st < 8, (nth x.mgmt.bring.stackReason st = 5 ↔ bit r.sliceFail st = true ∨ nth s.dev.sys.mgmt.bring.stackReason st = 5) :=
    fun st hst => by
      rw [hreason, nth, runAll_setNth_getD _ _ _ _ (by omega)]
      by_cases hb : bit r.sliceFail st = true
      · rw [if_pos (List.mem_filter.2 ⟨List.mem_range.2 hst, hb⟩)]; simp only [hb, true_or]
      · rw [if_neg fun h => hb (List.mem_filter.1 h).2]; simp only [hb, Bool.false_eq_true, false_or]; rfl
  rw [hpower] at he
  by_cases hu : r.uncoreUnit = 0
  · rw [if_neg (by simpa using hu)] at he
    have hm : x.clockMeasures.mgmt.sec.measures.length = s.dev.sys.mgmt.sec.measures.length + 3 := by
      simp [Sys.clockMeasures, Sys.measure, hsec]
    by_cases hb : s.dev.sys.mgmt.power.bootMode % 2 = 1
    · rw [if_pos hb] at he
      exact ⟨_, onSys_of (f := clockStart r) he, rfl, rfl, hcore, hpower, fun st hst h => (hbad st hst).2 (.inl h), fun h => absurd hu h,
        fun _ => hm, fun _ _ => ⟨rfl, rfl⟩, fun _ h => by omega⟩
    · rw [if_neg hb] at he
      obtain ⟨h1, h2, h3, h4, h5⟩ := Sys.beginStackTrain_spec (s := x.clockMeasures.nextPhase 3 0) (hdone ▸ hd :) hlen
      obtain ⟨hc1, -, hc3, hc4⟩ := Sys.offLinks_eq h1
      refine ⟨_, onSys_of (f := clockStart r) he, rfl, rfl, hc1.trans hcore, hc3.trans hpower, fun st hst h => h2 st hst ((hbad st hst).2 (.inl h)),
        fun h => absurd hu h, fun _ => (congrArg (fun k : SecState => k.measures.length) hc4).trans hm, fun _ h => absurd h hb, fun _ _ => ⟨?_, ?_, ?_⟩⟩
      · exact fun st hst => (h3 st hst).trans (or_congr (hbad st hst) (by rw [← hdone]; rfl))
      · rintro ⟨st, hst, hnb, ho⟩
        exact h4 ⟨st, hst, fun h => hnb ((hbad st hst).1 h), hdone ▸ ho⟩
      · exact fun hall => h5 fun st hst => (hall st hst).imp (hbad st hst).2 fun h => hdone ▸ h
  · rw [if_pos hu] at he
    have hf : (x.disc 5 r.uncoreUnit r.uncoreArray).failUp.unlogged = x.unlogged.failUp := congrArg Sys.failUp (x.disc_unlogged _ _ _)
    exact ⟨_, onSys_of (f := clockStart r) he, rfl, rfl, (congrArg (·.core) hf :).trans hcore, (congrArg (·.mgmt.power) hf :).trans hpower,
      fun st hst h => (congrArg (fun y : Sys => nth y.mgmt.bring.stackReason st) hf :).trans ((hbad st hst).2 (.inl h)), fun _ => ⟨rfl, rfl⟩,
      fun h => absurd h hu, fun h => absurd h hu, fun h => absurd h hu⟩

end Sys2Proof.Machine
end

section
/-! PROOF. FW_VERIFY (R73, R83 to R85, R90, R661, R662, R667, R671). -/

namespace Sys2Proof.Machine

open Sys2Proof

/-! ### What the boot ROM's steps leave alone -/

/-- The parts that no step of FW_VERIFY changes, with the measurement log and the stopped units. -/
def Sys.offBoot (s : Sys) : CoreState × HostState × FabState × PowerState × List Measure :=
  (s.core, s.host, s.fab, s.mgmt.power, s.mgmt.sec.measures)

theorem Sys.offBoot_eq {s t : Sys} (h : t.offBoot = s.offBoot) : t.core = s.core ∧ t.host = s.host ∧ t.fab = s.fab
    ∧ t.mgmt.power = s.mgmt.power ∧ t.mgmt.sec.measures = s.mgmt.sec.measures := by
  simpa [Sys.offBoot] using h

@[simp] theorem Sys.onDict_offBoot (s : Sys) (f : DictState → DictState) : (s.onDict f).offBoot = s.offBoot := rfl
@[simp] theorem Sys.onBring_offBoot (s : Sys) (f : BringUp → BringUp) : (s.onBring f).offBoot = s.offBoot := rfl
@[simp] theorem Sys.onRel_offBoot (s : Sys) (f : RelState → RelState) : (s.onRel f).offBoot = s.offBoot := rfl
@[simp] theorem Sys.drew_offBoot (s : Sys) (n : Nat) : (s.drew n).offBoot = s.offBoot := rfl
@[simp] theorem Sys.journal_offBoot (s : Sys) : s.journal.offBoot = s.offBoot := rfl
@[simp] theorem Sys.failUp_offBoot (s : Sys) : s.failUp.offBoot = s.offBoot := rfl
@[simp] theorem Sys.onImage_offBoot (s : Sys) (k : Nat) (f : ImageSlot → ImageSlot) : (s.onImage k f).offBoot = s.offBoot := rfl
@[simp] theorem Sys.log_offBoot (s : Sys) (k u p c : Nat) (d : List Byte) : (s.log k u p c d).offBoot = s.offBoot := by
  simp [Sys.offBoot]
@[simp] theorem Sys.disc_offBoot (s : Sys) (k u d : Nat) : (s.disc k u d).offBoot = s.offBoot := by simp [Sys.offBoot]

@[simp] theorem Sys.unlogged_offBoot (s : Sys) : s.unlogged.offBoot = s.offBoot := rfl

@[simp] theorem Sys.tryImage_offBoot (s : Sys) (k : Nat) : (s.tryImage k).1.offBoot = s.offBoot := by
  unfold Sys.tryImage
  dsimp only
  split
  · rfl
  · exact (Sys.disc_offBoot _ _ _ _).trans rfl

@[simp] theorem Sys.replayJournal_offBoot (s : Sys) : s.replayJournal.offBoot = s.offBoot := by
  unfold Sys.replayJournal
  dsimp only
  split
  · exact (Sys.log_offBoot _ _ _ _ _ _).trans rfl
  · rfl

@[simp] theorem Sys.makeSalt_offBoot (s : Sys) : s.makeSalt.offBoot = s.offBoot := by
  unfold Sys.makeSalt
  dsimp only
  split <;> rfl

/-! ### The images -/

theorem Sys.onImage_failStep (s : Sys) (k j floor : Nat) {f : ImageSlot → ImageSlot}
    (hf : ∀ m, (f m).header = m.header ∧ (f m).contentStep = m.contentStep) :
    ((s.onImage k f).image j).failStep floor = (s.image j).failStep floor := by
  have h : (s.onImage k f).image j = if k = j ∧ j < s.mgmt.sec.images.length then f (s.image j) else s.image j := modNth_getD _ _ _ _ _
  rw [h]
  split
  · unfold ImageSlot.failStep ImageSlot.secVersion
    rw [(hf _).1, (hf _).2]
  · rfl

/-- An image's first failing step does not depend on the marks the boot ROM leaves on the slots (Table 19-3). -/
theorem Sys.tryImage_failStep (s : Sys) (k j floor : Nat) : ((s.tryImage k).1.image j).failStep floor = (s.image j).failStep floor := by
  unfold Sys.tryImage
  dsimp only
  split
  · exact s.onImage_failStep k j floor fun _ => ⟨rfl, rfl⟩
  · simp only [Sys.image, Sys.disc_sec]
    exact s.onImage_failStep k j floor fun _ => ⟨rfl, rfl⟩

theorem Sys.tryImage_floor (s : Sys) (k : Nat) : (s.tryImage k).1.mgmt.sec.floor = s.mgmt.sec.floor := by
  unfold Sys.tryImage
  dsimp only
  split
  · rfl
  · rw [Sys.disc_sec]; rfl

theorem Sys.tryImage_snd (s : Sys) (k : Nat) : (s.tryImage k).2 = decide ((s.image k).failStep s.mgmt.sec.floor = 0) := by
  unfold Sys.tryImage
  dsimp only
  split <;> simp [*]

/-- The image that boots: the first that passes of `first` and the other (R84, R661). -/
def Sys.boots (s : Sys) (first : Nat) : Option Nat :=
  if (s.image first).failStep s.mgmt.sec.floor = 0 then some first
  else if (s.image (1 - first)).failStep s.mgmt.sec.floor = 0 then some (1 - first) else none

/-- The images tried. -/
def Sys.tried (s : Sys) (first : Nat) : Sys := if (s.tryImage first).2 then (s.tryImage first).1 else ((s.tryImage first).1.tryImage (1 - first)).1

theorem Sys.tried_offBoot (s : Sys) (first : Nat) : (s.tried first).offBoot = s.offBoot := by
  simp [Sys.tried, apply_ite Sys.offBoot]

/-- What FW_VERIFY does once the images are tried and the journal is replayed. -/
def Sys.fwEnd (r : FwReading) (p : PowerState) (k : Option Nat) (s : Sys) : Sys :=
  match k with
  | some k =>
    let s := s.onBring (fun b => { b with runningImage := k })
    if r.puf ≠ 0 then (s.disc 6 0 r.puf).failUp
    else if r.recordFault ≠ 0 then (s.disc 3 0 r.recordFault).failUp
    else
      let s := ((s.measure 1 0 s.mgmt.sec.romDigest).measure 2 k (s.image k).digest).measure 3 s.mgmt.bring.recVersion s.mgmt.sec.recordDigest
      let s := s.measure 4 p.bootMode (zeros 64)
      (s.onRel (fun q => { q with planInForce := planOf (s.cfg 0xA400 1) })).nextPhase 2 (if p.refclk then 0 else 2)
  | none => (s.onBring (fun b => { b with runningImage := 255 })).failUp

/-- The image FW_VERIFY tries first (R85). -/
def Sys.firstImage (s : Sys) : Nat :=
  if s.mgmt.power.bootMode = 2 then 1 - leNat (s.stored 0xB020 1) % 2 else leNat (s.stored 0xB020 1) % 2

/-- The floor FW_VERIFY takes (R662). -/
def Sys.bootFloor (s : Sys) (ok : Bool) : Nat :=
  if s.mgmt.dict.store.any (fun v => v.1 == 0xB022 * 256 + 1) && ok then max s.mgmt.sec.mfgFloor (leNat (s.stored 0xB022 1)) else s.mgmt.sec.mfgFloor

/-- The state in which the images are tried: a reserved strap noted, the floor taken. -/
def Sys.floored (s : Sys) (ok : Bool) : Sys := (if s.mgmt.power.bootMode = 3 then s.disc 1 0 3 else s).takeFloor ok

theorem Sys.takeFloor_unlogged (s : Sys) (ok : Bool) :
    (s.takeFloor ok).unlogged = s.unlogged.onSec (fun k => { k with floor := s.bootFloor ok }) := by
  have h : (if s.mgmt.dict.store.any (fun v => v.1 == 0xB022 * 256 + 1) && !ok then s.disc 7 0 0 else s).unlogged = s.unlogged := by
    simp [apply_ite Sys.unlogged]
  exact congrArg (fun x : Sys => x.onSec (fun k => { k with
    floor := if s.mgmt.dict.store.any (fun v => v.1 == 0xB022 * 256 + 1) && ok then max k.mfgFloor (leNat (s.stored 0xB022 1)) else k.mfgFloor })) h

theorem Sys.floored_unlogged (s : Sys) (ok : Bool) :
    (s.floored ok).unlogged = s.unlogged.onSec (fun k => { k with floor := s.bootFloor ok }) := by
  have h : (if s.mgmt.power.bootMode = 3 then s.disc 1 0 3 else s).unlogged = s.unlogged := by simp [apply_ite Sys.unlogged]
  have hf : (if s.mgmt.power.bootMode = 3 then s.disc 1 0 3 else s).bootFloor ok = s.bootFloor ok := (congrArg (fun x : Sys => x.bootFloor ok) h :)
  rw [Sys.floored, Sys.takeFloor_unlogged, h, hf]

theorem fwVerify_eq {s : Sys} (r : FwReading) (h : s.inPhase 1 = true) : fwVerify r s
    = Sys.fwEnd r s.mgmt.power ((s.floored r.floorTagOk).boots s.firstImage) ((s.floored r.floorTagOk).tried s.firstImage).replayJournal.makeSalt := by
  have hstored : (s.floored r.floorTagOk).stored 0xB020 1 = s.stored 0xB020 1 :=
    (congrArg (fun x : Sys => x.stored 0xB020 1) (s.floored_unlogged r.floorTagOk) :)
  unfold Sys.floored at hstored ⊢
  simp only [fwVerify, if_pos h, hstored, Sys.firstImage]
  generalize Sys.takeFloor _ _ = z
  generalize (if s.mgmt.power.bootMode = 2 then 1 - leNat (s.stored 0xB020 1) % 2 else leNat (s.stored 0xB020 1) % 2) = first
  have hx := z.tryImage_snd first
  have hy := (z.tryImage first).1.tryImage_snd (1 - first)
  rw [Sys.tryImage_failStep, Sys.tryImage_floor] at hy
  unfold Sys.boots Sys.tried
  by_cases h1 : (z.image first).failStep z.mgmt.sec.floor = 0
  · simp only [h1, decide_true] at hx
    simp only [hx, h1, if_true]
    rfl
  · simp only [h1, decide_false] at hx
    by_cases h2 : (z.image (1 - first)).failStep z.mgmt.sec.floor = 0
    · simp only [h2, decide_true] at hy
      simp only [hx, hy, h1, h2, if_true, if_false, Bool.false_eq_true]
      rfl
    · simp only [h2, decide_false] at hy
      simp only [hx, hy, h1, h2, if_false, Bool.false_eq_true]
      rfl

/-- The boot ROM's bookkeeping leaves the parts the rules of FW_VERIFY speak of as they are. -/
theorem Sys.bootState_offBoot (s : Sys) (ok : Bool) (first : Nat) : ((s.floored ok).tried first).replayJournal.makeSalt.offBoot = s.offBoot := by
  rw [Sys.makeSalt_offBoot, Sys.replayJournal_offBoot, Sys.tried_offBoot]
  exact (congrArg Sys.offBoot (s.floored_unlogged ok) :)

theorem Sys.fwEnd_frame (s : Sys) (r : FwReading) (p : PowerState) (k : Option Nat) : (s.fwEnd r p k).core = s.core ∧ (s.fwEnd r p k).host = s.host
    ∧ (s.fwEnd r p k).fab = s.fab ∧ (s.fwEnd r p k).mgmt.power = s.mgmt.power := by
  cases k with
  | none => exact ⟨rfl, rfl, rfl, rfl⟩
  | some k =>
    unfold Sys.fwEnd
    dsimp only
    split_ifs <;> simp [Sys.failUp, Sys.nextPhase, Sys.measure]

/-- A boot with a sound identity and record ends in CLOCK_START with its first four measurements (R73, R667). -/
theorem Sys.fwEnd_sound (s : Sys) {r : FwReading} (p : PowerState) (k : Nat) (h1 : r.puf = 0) (h2 : r.recordFault = 0) :
    (s.fwEnd r p (some k)).mgmt.bring.phase = 2 ∧ (s.fwEnd r p (some k)).mgmt.bring.status = (if p.refclk then 0 else 2)
      ∧ (s.fwEnd r p (some k)).mgmt.bring.runningImage = k
      ∧ (s.fwEnd r p (some k)).mgmt.sec.measures.length = s.mgmt.sec.measures.length + 4 := by
  unfold Sys.fwEnd
  dsimp only
  rw [if_neg (not_not.2 h1), if_neg (not_not.2 h2)]
  simp [Sys.nextPhase, Sys.measure]

theorem Sys.fwEnd_failed (s : Sys) {r : FwReading} (p : PowerState) {k : Option Nat} (h : k = none ∨ r.puf ≠ 0 ∨ r.recordFault ≠ 0) :
    (s.fwEnd r p k).mgmt.bring.phase = 0xFE ∧ (s.fwEnd r p k).mgmt.bring.status = 3 := by
  cases k with
  | none => exact ⟨rfl, rfl⟩
  | some k =>
    unfold Sys.fwEnd
    dsimp only
    by_cases h1 : r.puf ≠ 0
    · rw [if_pos h1]; exact ⟨rfl, rfl⟩
    · have h2 : r.recordFault ≠ 0 := (h.resolve_left (Option.some_ne_none k)).resolve_left h1
      rw [if_neg h1, if_pos h2]; exact ⟨rfl, rfl⟩

/-- What boots, in the words of the state before the boot: the floor is taken and no image has been tried (R84, R662). -/
theorem Sys.floored_boots (s : Sys) (ok : Bool) (first : Nat) : (s.floored ok).boots first =
    if (s.image first).failStep (s.bootFloor ok) = 0 then some first
    else if (s.image (1 - first)).failStep (s.bootFloor ok) = 0 then some (1 - first) else none :=
  (congrArg (fun x : Sys => x.boots first) (s.floored_unlogged ok) :)

theorem firmwareVerifyEnds : Claims.FirmwareVerifyEnds := by
  intro s r hp sec has floor good active first
  obtain ⟨hc, hh, hf, hpw, hm⟩ := Sys.offBoot_eq (s.dev.sys.bootState_offBoot r.floorTagOk first)
  have he : fwVerify r s.dev.sys = _ := fwVerify_eq r hp
  have hboots : (s.dev.sys.floored r.floorTagOk).boots first = if good first then some first else if good (1 - first) then some (1 - first) else none :=
    s.dev.sys.floored_boots r.floorTagOk first
  change fwVerify r s.dev.sys = Sys.fwEnd r s.dev.sys.mgmt.power ((s.dev.sys.floored r.floorTagOk).boots first)
    ((s.dev.sys.floored r.floorTagOk).tried first).replayJournal.makeSalt at he
  generalize ((s.dev.sys.floored r.floorTagOk).tried first).replayJournal.makeSalt = x at he hc hh hf hpw hm
  rw [hboots] at he
  obtain ⟨ec, eh, ef, ep⟩ := x.fwEnd_frame r s.dev.sys.mgmt.power (if good first then some first else if good (1 - first) then some (1 - first) else none)
  refine ⟨_, onSys_of (f := fwVerify r) he, rfl, rfl, ec.trans hc, eh.trans hh, ef.trans hf, ep.trans hpw, ?_, ?_, ?_⟩
  · rintro ⟨hg, h1, h2⟩
    by_cases hg1 : good first
    · rw [if_pos hg1]
      obtain ⟨e1, e2, e3, e4⟩ := x.fwEnd_sound s.dev.sys.mgmt.power first h1 h2
      exact ⟨e1, e2, fun _ => e3, fun h => absurd hg1 h, e4.trans (by rw [hm])⟩
    · rw [if_neg hg1, if_pos (hg.resolve_left hg1)]
      obtain ⟨e1, e2, e3, e4⟩ := x.fwEnd_sound s.dev.sys.mgmt.power (1 - first) h1 h2
      exact ⟨e1, e2, fun h => absurd h hg1, fun _ => e3, e4.trans (by rw [hm])⟩
  · rintro ⟨hg1, hg2⟩
    rw [if_neg hg1, if_neg hg2]
    rfl
  · refine fun h => x.fwEnd_failed s.dev.sys.mgmt.power (h.imp_left fun ⟨hg1, hg2⟩ => ?_)
    rw [if_neg hg1, if_neg hg2]

/-- Settles O37, phase by phase: FW_VERIFY, CLOCK_START, STACK_TRAIN and LINK_TRAIN. -/
theorem phasesEndInOrder : Obligations.PhasesEndInOrder :=
  ⟨firmwareVerifyEnds, clockStartEnds, stackTrainingOutcomes, linkTrainDeadlineEnds⟩

end Sys2Proof.Machine
end

section
/-! PROOF. Sizes of the tables, part 1: what a state's sizes are, and the updates of its parts that keep them. -/

namespace Sys2Proof.Machine

open Sys2Proof

/-! ### The sizes of a state

Every command but a reset, a row's test, the commit of the assignment, a remap, a poll of a block manager and the two loops of the
throttle steps leaves the sizes of the tables, and the throttle steps, exactly as they are. -/

/-- The sizes of an Ethernet port's tables. -/
def EthPort.sizes (e : EthPort) : Nat × Nat × Nat × Nat × Nat :=
  (e.counts.length, e.fill.length, e.xoff.length, e.pausedTx.length, e.heldTx.length)

/-- The sizes of the tables of partitions, rings, Ethernet ports, decode queues and executors. -/
def HostState.sizes (h : HostState) : Nat × Nat × Nat × Nat × List (Nat × Nat × Nat × Nat × Nat) :=
  (h.parts.length, h.rings.length, h.queues.length, h.execQ.length, h.eth.map EthPort.sizes)

/-- The sizes of the fabric's tables, and whether the counts of missed polls are in canonical form. -/
def FabState.sizes (f : FabState) : Nat × Nat × Nat × Nat × Nat × Bool :=
  (f.ports.length, f.slots.length, f.epochs.length, f.replay.length, f.observed.length, f.missed.wf)

/-- The sizes of bring-up's tables. -/
def BringUp.sizes (b : BringUp) : Nat × Nat × Nat × Nat × Nat :=
  (b.results.length, b.coreMap.length, (b.assignment.getD b.coreMap).length, b.stackDone.length, b.stackReason.length)

/-- The sizes of the engines' tables, and the throttle steps. -/
def PowerState.sizes (p : PowerState) : Nat × Nat × Nat × Nat × Nat :=
  (p.lineUp.length, p.laserLoss.length, p.laserHeld.length, p.capStep, p.thermStep)

def RelState.sizes (r : RelState) : Nat × Nat := (r.masked.length, r.detected.length)

/-- Everything `Sys.Sized` and `PowerState.StepsOk` speak of. -/
structure Sizes where
  host : Nat × Nat × Nat × Nat × List (Nat × Nat × Nat × Nat × Nat)
  fab : Nat × Nat × Nat × Nat × Nat × Bool
  sessions : Nat
  bring : Nat × Nat × Nat × Nat × Nat
  power : Nat × Nat × Nat × Nat × Nat
  images : Nat
  rel : Nat × Nat

def Sys.sizes (s : Sys) : Sizes :=
  ⟨s.host.sizes, s.fab.sizes, s.mgmt.dict.sessions.length, s.mgmt.bring.sizes, s.mgmt.power.sizes, s.mgmt.sec.images.length, s.mgmt.rel.sizes⟩

theorem HostState.eth_iff (h : HostState) :
    (∀ e ∈ h.eth, e.counts.length = 8 ∧ e.fill.length = 8 ∧ e.xoff.length = 8 ∧ e.pausedTx.length = 8 ∧ e.heldTx.length = 8)
      ↔ ∀ z ∈ h.eth.map EthPort.sizes, z = (8, 8, 8, 8, 8) := by
  simp only [List.forall_mem_map, EthPort.sizes, Prod.mk.injEq]

theorem BringUp.assignment_iff (b : BringUp) (c : Prop) :
    (b.coreMap.length = 144 ∧ (∀ l, b.assignment = some l → l.length = 144) ∧ c)
      ↔ b.coreMap.length = 144 ∧ (b.assignment.getD b.coreMap).length = 144 ∧ c := by
  cases b.assignment <;> simp

/-- From `s` to `t` the tables keep their sizes, and the throttle steps their range. -/
def Sys.Keeps (s t : Sys) : Prop := (s.Sized → t.Sized) ∧ (s.mgmt.power.StepsOk → t.mgmt.power.StepsOk)

theorem Sys.Keeps.refl (s : Sys) : s.Keeps s := ⟨id, id⟩

theorem Sys.Keeps.trans {s t u : Sys} (h : s.Keeps t) (k : t.Keeps u) : s.Keeps u := ⟨k.1 ∘ h.1, k.2 ∘ h.2⟩

/-- The invariants depend on the sizes alone. -/
theorem Sys.Keeps.of_sizes {s t : Sys} (h : t.sizes = s.sizes) : s.Keeps t := by
  simp only [Sys.sizes, HostState.sizes, FabState.sizes, BringUp.sizes, PowerState.sizes, RelState.sizes, Sizes.mk.injEq, Prod.mk.injEq] at h
  obtain ⟨⟨h1, h2, h3, h4, h5⟩, ⟨h6, h7, h8, h9, h10, h11⟩, h12, ⟨h13, h14, h15, h16, h17⟩, ⟨h18, h19, h20, h21, h22⟩,
    h23, h24, h25⟩ := h
  have heth := congrArg List.length h5
  simp only [List.length_map] at heth
  constructor
  · simp only [Sys.Sized, HostState.eth_iff, BringUp.assignment_iff]
    simp only [h1, h2, h3, h4, h5, h6, h7, h8, h9, h10, h11, h12, h13, h14, h15, h16, h17, h18, h19, h20, h23, h24, h25, heth, imp_self]
  · simp only [PowerState.StepsOk, h21, h22, imp_self]

/-! ### Lists -/

theorem map_modNth {α β : Type} {g : α → β} {f : α → α} (h : ∀ x, g (f x) = g x) (l : List α) (i : Nat) :
    (modNth l i f).map g = l.map g := by
  induction l generalizing i with
  | nil => rfl
  | cons a t ih => cases i <;> simp [modNth, h, ih]

@[simp] theorem addAt_length (l : List Nat) (i d : Nat) : (addAt l i d).length = l.length := modNth_length _ _ _

/-! ### The parts -/

section
variable (s : Sys)

@[simp] theorem Sys.onCore_sizes (f : CoreState → CoreState) : (s.onCore f).sizes = s.sizes := rfl
@[simp] theorem Sys.drew_sizes (n : Nat) : (s.drew n).sizes = s.sizes := rfl

variable {s}

@[simp] theorem Sys.onHost_sizes {f : HostState → HostState} (hp : ∀ x, (f x).parts.length = x.parts.length)
    (hr : ∀ x, (f x).rings.length = x.rings.length) (hq : ∀ x, (f x).queues.length = x.queues.length)
    (hx : ∀ x, (f x).execQ.length = x.execQ.length) (he : ∀ x, (f x).eth.map EthPort.sizes = x.eth.map EthPort.sizes) :
    (s.onHost f).sizes = s.sizes := by
  simp only [Sys.sizes, HostState.sizes, Sys.onHost, hp, hr, hq, hx, he]

@[simp] theorem Sys.onFab_sizes {f : FabState → FabState} (hp : ∀ x, (f x).ports.length = x.ports.length)
    (hs : ∀ x, (f x).slots.length = x.slots.length) (he : ∀ x, (f x).epochs.length = x.epochs.length)
    (hr : ∀ x, (f x).replay.length = x.replay.length) (ho : ∀ x, (f x).observed.length = x.observed.length)
    (hm : ∀ x, (f x).missed.wf = x.missed.wf) : (s.onFab f).sizes = s.sizes := by
  simp only [Sys.sizes, FabState.sizes, Sys.onFab, hp, hs, he, hr, ho, hm]

@[simp] theorem Sys.onDict_sizes {f : DictState → DictState} (h : ∀ x, (f x).sessions.length = x.sessions.length) :
    (s.onDict f).sizes = s.sizes := by
  simp only [Sys.sizes, Sys.onDict, h]

@[simp] theorem Sys.onBring_sizes {f : BringUp → BringUp} (hr : ∀ x, (f x).results.length = x.results.length)
    (hc : ∀ x, (f x).coreMap.length = x.coreMap.length)
    (ha : ∀ x, ((f x).assignment.getD (f x).coreMap).length = (x.assignment.getD x.coreMap).length)
    (hd : ∀ x, (f x).stackDone.length = x.stackDone.length)
    (hn : ∀ x, (f x).stackReason.length = x.stackReason.length) : (s.onBring f).sizes = s.sizes := by
  simp only [Sys.sizes, BringUp.sizes, Sys.onBring, hr, hc, ha, hd, hn]

@[simp] theorem Sys.onPower_sizes {f : PowerState → PowerState} (hu : ∀ x, (f x).lineUp.length = x.lineUp.length)
    (hl : ∀ x, (f x).laserLoss.length = x.laserLoss.length)
    (hh : ∀ x, (f x).laserHeld.length = x.laserHeld.length) (hc : ∀ x, (f x).capStep = x.capStep)
    (ht : ∀ x, (f x).thermStep = x.thermStep) : (s.onPower f).sizes = s.sizes := by
  simp only [Sys.sizes, PowerState.sizes, Sys.onPower, hu, hl, hh, hc, ht]

@[simp] theorem Sys.onRel_sizes {f : RelState → RelState} (hm : ∀ x, (f x).masked.length = x.masked.length)
    (hd : ∀ x, (f x).detected.length = x.detected.length) : (s.onRel f).sizes = s.sizes := by
  simp only [Sys.sizes, RelState.sizes, Sys.onRel, hm, hd]

@[simp] theorem Sys.onSec_sizes {f : SecState → SecState} (h : ∀ x, (f x).images.length = x.images.length) :
    (s.onSec f).sizes = s.sizes := by
  simp only [Sys.sizes, Sys.onSec, h]

end

theorem Sys.onFab_of_sizes {s : Sys} {f : FabState → FabState} (h : ∀ x, (f x).sizes = x.sizes) : (s.onFab f).sizes = s.sizes := by
  simp only [Sys.sizes, Sys.onFab, h]

theorem Sys.onBring_of_sizes {s : Sys} {f : BringUp → BringUp} (h : ∀ x, (f x).sizes = x.sizes) : (s.onBring f).sizes = s.sizes := by
  simp only [Sys.sizes, Sys.onBring, h]

/-! ### Entries of the tables -/

section
variable (s : Sys)

@[simp] theorem Sys.onPart_sizes (p : Nat) (f : Partition → Partition) : (s.onPart p f).sizes = s.sizes := by simp [Sys.onPart]
@[simp] theorem Sys.onRing_sizes (r : Nat) (f : Ring → Ring) : (s.onRing r f).sizes = s.sizes := by simp [Sys.onRing]
@[simp] theorem Sys.onQueue_sizes (q : Nat) (f : DecodeQueue → DecodeQueue) : (s.onQueue q f).sizes = s.sizes := by simp [Sys.onQueue]
@[simp] theorem Sys.onPort_sizes (i : Nat) (f : Port → Port) : (s.onPort i f).sizes = s.sizes := by simp [Sys.onPort]
@[simp] theorem Sys.onEpoch_sizes (g : Nat) (f : Epoch → Epoch) : (s.onEpoch g f).sizes = s.sizes := by simp [Sys.onEpoch]
@[simp] theorem Sys.onSlot_sizes (g : Nat) (f : Slot → Slot) : (s.onSlot g f).sizes = s.sizes := by simp [Sys.onSlot]
@[simp] theorem Sys.onReplay_sizes (q : Nat) (f : ReplayDir → ReplayDir) : (s.onReplay q f).sizes = s.sizes := by simp [Sys.onReplay]
@[simp] theorem Sys.onImage_sizes (k : Nat) (f : ImageSlot → ImageSlot) : (s.onImage k f).sizes = s.sizes := by simp [Sys.onImage]
@[simp] theorem Sys.onSession_sizes (k : Nat) (f : Session → Session) : (s.onSession k f).sizes = s.sizes := by simp [Sys.onSession]

/-- An Ethernet port's own tables keep their sizes where the update keeps them. -/
theorem Sys.onEth_of_sizes {f : EthPort → EthPort} (h : ∀ e, (f e).sizes = e.sizes) (i : Nat) : (s.onEth i f).sizes = s.sizes := by
  simp [Sys.onEth, map_modNth h]

@[simp] theorem Sys.onEth_sizes {f : EthPort → EthPort} (hc : ∀ e, (f e).counts.length = e.counts.length)
    (hf : ∀ e, (f e).fill.length = e.fill.length) (hx : ∀ e, (f e).xoff.length = e.xoff.length)
    (hp : ∀ e, (f e).pausedTx.length = e.pausedTx.length) (hh : ∀ e, (f e).heldTx.length = e.heldTx.length) (i : Nat) :
    (s.onEth i f).sizes = s.sizes :=
  Sys.onEth_of_sizes s (fun e => by simp only [EthPort.sizes, hc, hf, hx, hp, hh]) i

end

/-! ### Runs -/

@[simp] theorem runAll_sizes {β : Type} {f : β → Sys → Sys} (h : ∀ b x, (f b x).sizes = x.sizes) (l : List β) (s : Sys) :
    (runAll f l s).sizes = s.sizes := runAll_keeps f Sys.sizes h l s

@[simp] theorem runAll_sys_sizes {β : Type} {f : β → Dev → Dev} (h : ∀ b x, (f b x).sys.sizes = x.sys.sizes) (l : List β) (d : Dev) :
    (runAll f l d).sys.sizes = d.sys.sizes := runAll_keeps f (fun x => x.sys.sizes) h l d

@[simp] theorem guarded_sizes {c : Bool} {f : Sys → Sys} {s : Sys} (h : (f s).sizes = s.sizes) : (guarded c f s).sizes = s.sizes := by
  unfold guarded
  split
  · exact h
  · rfl

@[simp] theorem guarded_sys_sizes {c : Bool} {f : Dev → Dev} {d : Dev} (h : (f d).sys.sizes = d.sys.sizes) :
    (guarded c f d).sys.sizes = d.sys.sizes := by
  unfold guarded
  split
  · exact h
  · rfl

@[simp] theorem ite_sizes (c : Prop) [Decidable c] (s t : Sys) : (if c then s else t).sizes = if c then s.sizes else t.sizes := apply_ite _ _ _ _

@[simp] theorem ite_sys_sizes (c : Prop) [Decidable c] (d e : Dev) : (if c then d else e).sys.sizes = if c then d.sys.sizes else e.sys.sizes :=
  apply_ite (fun x : Dev => x.sys.sizes) _ _ _

@[simp] theorem liftSys_sys (f : Sys → Sys) (d : Dev) : (liftSys f d).sys = f d.sys := rfl

end Sys2Proof.Machine
end

section
/-! PROOF. Sizes of the tables, part 2: the memory, the cores, the command rings and the queue pairs leave the sizes as they are. Each lemma says so
of one function of the model, in the order of the model's files; a function that only one other calls is unfolded in its caller's lemma. -/

namespace Sys2Proof.Machine

open Sys2Proof

/-! ### Logs, counts and time -/

@[simp] theorem Sys.setCfg_sizes (s : Sys) (i sub : Nat) (v : List Byte) : (s.setCfg i sub v).sizes = s.sizes := by simp [Sys.setCfg]

@[simp] theorem Sys.log_sizes (s : Sys) (kind unit part cls : Nat) (detail : List Byte) : (s.log kind unit part cls detail).sizes = s.sizes := by
  simp [Sys.log]

@[simp] theorem Sys.raise_sizes (s : Sys) (p code source : Nat) (detail : List Byte) : (s.raise p code source detail).sizes = s.sizes := by
  simp [Sys.raise]

@[simp] theorem Sys.raiseAll_sizes (s : Sys) (code source : Nat) (detail : List Byte) : (s.raiseAll code source detail).sizes = s.sizes := by
  simp [Sys.raiseAll]

@[simp] theorem Sys.actionOther_sizes (s : Sys) (slot : Nat) : (s.actionOther slot).sizes = s.sizes := by simp [Sys.actionOther]

@[simp] theorem Sys.maskedCount_sizes (s : Sys) (u : Nat) : (s.maskedCount u).sizes = s.sizes := by simp [Sys.maskedCount]

@[simp] theorem Sys.detectedCount_sizes (s : Sys) (u : Nat) : (s.detectedCount u).sizes = s.sizes := by simp [Sys.detectedCount]

@[simp] theorem Sys.tick_sizes (s : Sys) : s.tick.sizes = s.sizes := rfl

/-! ### Tensor statistics -/

@[simp] theorem Sys.statsAdd_sizes (s : Sys) (p i : Nat) (counts : List Nat) (amax code source : Nat) :
    (s.statsAdd p i counts amax code source).sizes = s.sizes := by simp [Sys.statsAdd]

/-! ### Slices and stacks -/

@[simp] theorem Sys.transFault_sizes (s : Sys) (p : Nat) : (s.transFault p).sizes = s.sizes := by simp [Sys.transFault]

@[simp] theorem Dev.partialLost_sizes (d : Dev) (st line : Nat) : (d.partialLost st line).sys.sizes = d.sys.sizes := by simp [Dev.partialLost]

@[simp] theorem Dev.poisonNote_sizes (d : Dev) (st line : Nat) : (d.poisonNote st line).sys.sizes = d.sys.sizes := by simp [Dev.poisonNote]

@[simp] theorem Dev.writePiece_sizes (d : Dev) (st L : Nat) (bs : List Byte) : (d.writePiece st L bs).sys.sizes = d.sys.sizes := by
  simp [Dev.writePiece]

@[simp] theorem Sys.charge_sizes (s : Sys) (p n : Nat) : (s.charge p n).sizes = s.sizes := by simp [Sys.charge]

@[simp] theorem Dev.writeRange_sizes (d : Dev) (p a : Nat) (bs : List Byte) : (d.writeRange p a bs).sys.sizes = d.sys.sizes := by
  simp [Dev.writeRange]

@[simp] theorem Dev.refuse_sizes (d : Dev) (at_ : Nat × Nat) : (d.refuse at_).sys.sizes = d.sys.sizes := by simp [Dev.refuse]

@[simp] theorem Dev.kettleWritePiece_sizes (d : Dev) (st L : Nat) (bs : List Byte) : (d.kettleWritePiece st L bs).sys.sizes = d.sys.sizes := by
  simp [Dev.kettleWritePiece]

@[simp] theorem ReadRes.step_sizes (p : Nat) (pc : Nat × Nat) (r : ReadRes) : (r.step p pc).dev.sys.sizes = r.dev.sys.sizes := by
  simp only [ReadRes.step]
  split <;> rfl

@[simp] theorem Dev.readRange_sizes (d : Dev) (p a n : Nat) : (d.readRange p a n).dev.sys.sizes = d.sys.sizes := by
  simp [Dev.readRange, runAll_keeps (ReadRes.step p) (fun r => r.dev.sys.sizes) (ReadRes.step_sizes p)]

@[simp] theorem ReadRes.kettleStep_sizes (p : Nat) (pc : Nat × Nat) (r : ReadRes) : (r.kettleStep p pc).dev.sys.sizes = r.dev.sys.sizes := by
  simp only [ReadRes.kettleStep]
  split <;> rfl

@[simp] theorem Dev.kettleRead_sizes (d : Dev) (p a n : Nat) : (d.kettleRead p a n).dev.sys.sizes = d.sys.sizes :=
  runAll_keeps (ReadRes.kettleStep p) (fun r => r.dev.sys.sizes) (ReadRes.kettleStep_sizes p) _ _

@[simp] theorem Dev.kettleWrite_sizes (d : Dev) (p a : Nat) (bs : List Byte) : (d.kettleWrite p a bs).sys.sizes = d.sys.sizes := by
  simp [Dev.kettleWrite]

/-! ### Blocks and groups -/

@[simp] theorem Sys.onGroup_sizes (s : Sys) (g : Gid) (f : Group → Group) : (s.onGroup g f).sizes = s.sizes := by simp [Sys.onGroup]

@[simp] theorem Sys.onBlock_sizes (s : Sys) (id : Nat) (f : Block → Block) : (s.onBlock id f).sizes = s.sizes := by simp [Sys.onBlock]

@[simp] theorem Sys.killContext_sizes (s : Sys) (p ring code source : Nat) (detail : List Byte) :
    (s.killContext p ring code source detail).sizes = s.sizes := by simp [Sys.killContext]

@[simp] theorem Sys.groupFault_sizes (s : Sys) (gr : Group) (code : Nat) : (s.groupFault gr code).sizes = s.sizes := by
  unfold Sys.groupFault
  split <;> simp

@[simp] theorem Sys.lateFault_sizes (s : Sys) (gid : Gid) (block pc code : Nat) : (s.lateFault gid block pc code).sizes = s.sizes := by
  unfold Sys.lateFault
  split <;> simp

@[simp] theorem Sys.completeBarrier_sizes (s : Sys) (id : Nat) : (s.completeBarrier id).sizes = s.sizes := by
  unfold Sys.completeBarrier
  (repeat' split) <;> simp

@[simp] theorem Sys.book_sizes (s : Sys) (i : Issue) : (s.book i).sizes = s.sizes := by simp [Sys.book]

@[simp] theorem Sys.reap_sizes (s : Sys) (gid : Gid) : (s.reap gid).sizes = s.sizes := by simp [Sys.reap]

@[simp] theorem Sys.settle_sizes (s : Sys) (gid : Gid) : (s.settle gid).sizes = s.sizes := by simp [Sys.settle]

@[simp] theorem issueSys_sizes {op : Nat} {g : Gid} {body : Issue → Sys → Sys} (h : ∀ i x, (body i x).sizes = x.sizes) (s : Sys) :
    (issueSys op g body s).sizes = s.sizes := by
  unfold issueSys
  split <;> simp [h]

@[simp] theorem issueDev_sizes {op : Nat} {g : Gid} {ok : Issue → Dev → Bool} {check : Issue → Dev → Option Nat}
    {body : Issue → Dev → Dev} (h : ∀ i x, (body i x).sys.sizes = x.sys.sizes) (d : Dev) :
    (issueDev op g ok check body d).sys.sizes = d.sys.sizes := by
  unfold issueDev
  split
  · rfl
  · simp
  · split
    · split <;> simp [h]
    · rfl

@[simp] theorem Sys.hold_sizes (s : Sys) (gid : Gid) (dest : Nat) (vals : List (Nat × Nat)) : (s.hold gid dest vals).sizes = s.sizes := by
  simp [Sys.hold]

@[simp] theorem perLane_sizes (i : Issue) (f : Nat → Group → Group) (s : Sys) : (perLane i f s).sizes = s.sizes := by
  unfold perLane
  split <;> simp

/-! ### Core stores -/

@[simp] theorem Sys.csWrite_sizes (s : Sys) (id a : Nat) (bs : List Byte) : (s.csWrite id a bs).sizes = s.sizes := by simp [Sys.csWrite]

@[simp] theorem Sys.wakeArr_sizes (s : Sys) (id : Nat) : (s.wakeArr id).sizes = s.sizes := by simp [Sys.wakeArr]

@[simp] theorem Sys.csStore_sizes (s : Sys) (id a : Nat) (bs : List Byte) : (s.csStore id a bs).sizes = s.sizes := by simp [Sys.csStore]

@[simp] theorem Sys.bumpCounter_sizes (s : Sys) (id a : Nat) : (s.bumpCounter id a).sizes = s.sizes := by simp [Sys.bumpCounter]

@[simp] theorem Sys.holdAtom_sizes (s : Sys) (gid : Gid) (w : AtomWork) (olds : List (Nat × Nat)) : (s.holdAtom gid w olds).sizes = s.sizes := by
  unfold Sys.holdAtom
  split <;> simp

@[simp] theorem csDo_sizes (a : CsAcc) (s : Sys) : (csDo a s).sizes = s.sizes := by
  unfold csDo
  split <;> simp

@[simp] theorem Sys.csRun_sizes (s : Sys) (p : Nat → CsAcc → Bool) : (s.csRun p).sizes = s.sizes := by simp [Sys.csRun]

@[simp] theorem Sys.csOwn_sizes (s : Sys) (gid : Gid) (lns : List Nat) (block : Nat) : (s.csOwn gid lns block).sizes = s.sizes := by simp [Sys.csOwn]

@[simp] theorem Sys.csFence_sizes (s : Sys) (gid : Gid) (lns : List Nat) (block scope : Nat) : (s.csFence gid lns block scope).sizes = s.sizes := by
  simp [Sys.csFence]

@[simp] theorem Sys.raiseVis_sizes (s : Sys) (gid : Gid) (lns : List Nat) (block vis : Nat) : (s.raiseVis gid lns block vis).sizes = s.sizes := by
  simp [Sys.raiseVis]

/-! ### Arithmetic, operand collectors and results -/

@[simp] theorem aluBody_sizes (f : Nat → Nat → Nat → Nat → Nat) (dn : Nat → Nat) (i : Issue) (s : Sys) : (aluBody f dn i s).sizes = s.sizes := by
  simp [aluBody]

@[simp] theorem alu_sizes (op : Nat) (f : Nat → Nat → Nat → Nat → Nat) (gid : Gid) (s : Sys) : (alu op f gid s).sizes = s.sizes := by simp [alu]

@[simp] theorem braBody_sizes (i : Issue) (s : Sys) : (braBody i s).sizes = s.sizes := by simp [braBody]

@[simp] theorem callBody_sizes (i : Issue) (s : Sys) : (callBody i s).sizes = s.sizes := by simp [callBody]

@[simp] theorem retBody_sizes (i : Issue) (s : Sys) : (retBody i s).sizes = s.sizes := by
  unfold retBody
  split <;> simp

@[simp] theorem exitBody_sizes (i : Issue) (s : Sys) : (exitBody i s).sizes = s.sizes := by simp [exitBody]

@[simp] theorem operandRead_sizes (core quarter : Nat) (s : Sys) : (operandRead core quarter s).sizes = s.sizes := by simp [operandRead]

@[simp] theorem laneDispatch_sizes (gid : Gid) (s : Sys) : (laneDispatch gid s).sizes = s.sizes := by
  unfold laneDispatch
  split <;> simp

@[simp] theorem resultWriteback_sizes (core quarter : Nat) (s : Sys) : (resultWriteback core quarter s).sizes = s.sizes := by
  simp [resultWriteback, Sys.csSome, writeResult, Sys.csResult]

/-! ### Failing cores and sites -/

@[simp] theorem Sys.coreFailedEvent_sizes (s : Sys) (core : Nat) : (s.coreFailedEvent core).sizes = s.sizes := by
  unfold Sys.coreFailedEvent
  split <;> simp

@[simp] theorem Sys.finishFailing_sizes (s : Sys) : s.finishFailing.sizes = s.sizes :=
  runAll_sizes (fun n x => by simp) _ _

@[simp] theorem Sys.markFailed_sizes (s : Sys) (core reason cause : Nat) : (s.markFailed core reason cause).sizes = s.sizes := by
  simp [Sys.markFailed]

@[simp] theorem Sys.siteError_sizes (s : Sys) (core cause : Nat) : (s.siteError core cause).sizes = s.sizes := by simp [Sys.siteError]

@[simp] theorem Sys.datapathFault_sizes (s : Sys) (part ring core cause : Nat) (detail : List Byte) :
    (s.datapathFault part ring core cause detail).sizes = s.sizes := by simp [Sys.datapathFault]

/-! ### The matrix units -/

@[simp] theorem Sys.mxLeave_sizes (s : Sys) (id : Nat) : (s.mxLeave id).sizes = s.sizes := by simp [Sys.mxLeave]

@[simp] theorem Sys.mxFault_sizes (s : Sys) (o : MxOp) (code : Nat) : (s.mxFault o code).sizes = s.sizes := by
  unfold Sys.mxFault
  split <;> simp

@[simp] theorem mxOpComplete_sizes (core : Nat) (s : Sys) : (mxOpComplete core s).sizes = s.sizes := by
  unfold mxOpComplete
  (repeat' split) <;> simp

@[simp] theorem Sys.drainWrite_sizes (s : Sys) (o : MxOp) (ws : List (Nat × Byte)) : (s.drainWrite o ws).sizes = s.sizes := by simp [Sys.drainWrite]

@[simp] theorem Sys.drainProgress_sizes (s : Sys) (id : Nat) : (s.drainProgress id).sizes = s.sizes := by
  unfold Sys.drainProgress
  (repeat' split) <;> simp

@[simp] theorem mxDrainComplete_sizes (core : Nat) (s : Sys) : (mxDrainComplete core s).sizes = s.sizes := by
  unfold mxDrainComplete
  (repeat' split) <;> simp

@[simp] theorem issueCs_sizes {op : Nat} {g : Gid} {ok : Issue → Dev → Bool} {check : Issue → Dev → Option Nat}
    {body : Issue → Dev → Dev} (h : ∀ i x, (body i x).sys.sizes = x.sys.sizes) (d : Dev) :
    (issueCs op g ok check body d).sys.sizes = d.sys.sizes := by
  unfold issueCs
  split
  · rfl
  · simp
  · dsimp only
    split
    · split <;> simp [h]
    · rfl

@[simp] theorem mxBody_sizes (drain : Bool) (i : Issue) (s : Sys) : (mxBody drain i s).sizes = s.sizes := by simp [mxBody]

@[simp] theorem mxWaitBody_sizes (i : Issue) (s : Sys) : (mxWaitBody i s).sizes = s.sizes := by simp [mxWaitBody]

/-! ### Loads, stores, fences, atomics and copies of the cores -/

@[simp] theorem enterCs_sizes (i : Issue) (now : Bool) (as : List CsAcc) (s : Sys) : (enterCs i now as s).sizes = s.sizes := by
  simp [enterCs, Sys.csEnter]

@[simp] theorem ldCBody_sizes (i : Issue) (s : Sys) : (ldCBody i s).sizes = s.sizes := by simp [ldCBody]

@[simp] theorem stCBody_sizes (i : Issue) (s : Sys) : (stCBody i s).sizes = s.sizes := by simp [stCBody]

@[simp] theorem issueG_sizes {op : Nat} {g : Gid} {addr : Issue → Nat → Nat} {size : Issue → Nat} {w : Bool} {ok : Issue → Dev → Bool}
    {body : Issue → Dev → Dev} (h : ∀ i x, (body i x).sys.sizes = x.sys.sizes) (d : Dev) :
    (issueG op g addr size w ok body d).sys.sizes = d.sys.sizes :=
  issueDev_sizes (fun i x => by split <;> simp [h]) d

@[simp] theorem Dev.serve_sizes (d : Dev) (ld : PLoad) : (d.serve ld).sys.sizes = d.sys.sizes := by
  unfold Dev.serve
  split <;> simp

@[simp] theorem ldGBody_sizes (i : Issue) (d : Dev) : (ldGBody i d).sys.sizes = d.sys.sizes := by simp [ldGBody, loadPart]

@[simp] theorem stGBody_sizes (i : Issue) (d : Dev) : (stGBody i d).sys.sizes = d.sys.sizes := by simp [stGBody]

@[simp] theorem Dev.atomDo_sizes (d : Dev) (x : PStore) (w : AtomWork) : (d.atomDo x w).sys.sizes = d.sys.sizes := by simp [Dev.atomDo]

@[simp] theorem Dev.perform_sizes (d : Dev) (x : PStore) : (d.perform x).sys.sizes = d.sys.sizes := by
  unfold Dev.perform
  split <;> simp

@[simp] theorem storeAccept_sizes (k : Nat) (d : Dev) : (storeAccept k d).sys.sizes = d.sys.sizes := by
  unfold storeAccept
  split <;> simp

@[simp] theorem Dev.eccAt_sizes (d : Dev) (st line ecc : Nat) : (d.eccAt st line ecc).sys.sizes = d.sys.sizes := by simp [Dev.eccAt]

@[simp] theorem missFill_sizes (st line ecc : Nat) (d : Dev) : (missFill st line ecc d).sys.sizes = d.sys.sizes := by simp [missFill, serveLine]

@[simp] theorem scrubLine_sizes (st ecc : Nat) (d : Dev) : (scrubLine st ecc d).sys.sizes = d.sys.sizes := by simp [scrubLine]

@[simp] theorem fence_sizes (scope : Nat) (g : Gid) (d : Dev) : (fence scope g d).sys.sizes = d.sys.sizes := by simp [fence, fenceBody]

theorem joinBody.arrive_sizes (id : Nat) (m : BitVec 32) (i : Issue) (s : Sys) : (joinBody.arrive id m i s).sizes = s.sizes := by
  simp [joinBody.arrive]

@[simp] theorem joinBody_sizes (i : Issue) (s : Sys) : (joinBody i s).sizes = s.sizes := by
  simp only [joinBody]
  split
  · rfl
  · split
    · split <;> simp [joinBody.arrive_sizes]
    · exact joinBody.arrive_sizes _ _ _ _

@[simp] theorem atomRelease_sizes (core : Bool) (i : Issue) (s : Sys) : (atomRelease core i s).sizes = s.sizes := by simp [atomRelease]

@[simp] theorem atomCBody_sizes (i : Issue) (s : Sys) : (atomCBody i s).sizes = s.sizes := by simp [atomCBody]

@[simp] theorem atomGBody_sizes (i : Issue) (d : Dev) : (atomGBody i d).sys.sizes = d.sys.sizes := by simp [atomGBody, atomGPlace]

@[simp] theorem releaseLines_sizes (ls : List (Nat × Nat)) (d : Dev) : (releaseLines ls d).sys.sizes = d.sys.sizes := by simp [releaseLines]

@[simp] theorem copyRead_sizes (p a n : Nat) (na : Bool) (d : Dev) : (copyRead p a n na d).dev.sys.sizes = d.sys.sizes := by
  simp [copyRead]

@[simp] theorem copyWrite_sizes (p a : Nat) (bs : List Byte) (na : Bool) (d : Dev) : (copyWrite p a bs na d).sys.sizes = d.sys.sizes := by
  simp [copyWrite]

@[simp] theorem copyMove_sizes (c : Copy) (val : Nat → Byte) (offs : List Nat) (d : Dev) : (copyMove c val offs d).sys.sizes = d.sys.sizes := by
  simp [copyMove, copyPiece]

@[simp] theorem poisonFault_sizes (gid : Gid) (block pc : Nat) (d : Dev) : (poisonFault gid block pc d).sys.sizes = d.sys.sizes := by
  simp [poisonFault]

@[simp] theorem startCopy_sizes (i : Issue) (l : Nat) (d : Dev) : (startCopy i l d).sys.sizes = d.sys.sizes := by
  unfold startCopy
  extract_lets n id tos noAlloc ctr r d1 d2 bad now c d3
  have hr : r.dev.sys.sizes = d.sys.sizes := by
    unfold r
    split <;> simp
  split <;> simp [d3, d2, d1, hr]

@[simp] theorem dmaBody_sizes (i : Issue) (d : Dev) : (dmaBody i d).sys.sizes = d.sys.sizes := by simp [dmaBody]

@[simp] theorem copyComplete_sizes (id : Nat) (d : Dev) : (copyComplete id d).sys.sizes = d.sys.sizes := by
  unfold copyComplete
  split
  · rfl
  · split
    · rfl
    · extract_lets d1 r d2 drop vals d3
      have hr : r.dev.sys.sizes = d.sys.sizes := by
        unfold r
        split
        · simp [d1]
        · split <;> simp [d1]
      split <;> simp [d3, d2, drop, hr]

@[simp] theorem arrBody_sizes (i : Issue) (s : Sys) : (arrBody i s).sizes = s.sizes := by simp [arrBody]

@[simp] theorem progressStalled_sizes (gid : Gid) (s : Sys) : (progressStalled gid s).sizes = s.sizes := by
  unfold progressStalled
  (repeat' split) <;> simp

/-! ### Command rings -/

@[simp] theorem Sys.onQp_sizes (s : Sys) (i : Nat) (f : Qp → Qp) : (s.onQp i f).sizes = s.sizes := by simp [Sys.onQp]

@[simp] theorem Dev.syncRings_sizes (d : Dev) : d.syncRings.sys.sizes = d.sys.sizes := by simp [Dev.syncRings, Dev.syncRing]

@[simp] theorem Sys.ringLeaves_sizes (s : Sys) (r : Nat) : (s.ringLeaves r).sizes = s.sizes := by simp [Sys.ringLeaves]

@[simp] theorem Dev.ringEffects_sizes (d : Dev) : d.ringEffects.sys.sizes = d.sys.sizes := by simp [Dev.ringEffects, Dev.ringTakes]

@[simp] theorem Sys.completeUid_sizes (s : Sys) (r uid status detail : Nat) : (s.completeUid r uid status detail).sizes = s.sizes := by
  unfold Sys.completeUid
  split <;> simp

@[simp] theorem Sys.completeCmd_sizes (s : Sys) (r idx status detail : Nat) : (s.completeCmd r idx status detail).sizes = s.sizes := by
  unfold Sys.completeCmd
  split <;> simp

@[simp] theorem Sys.dropCmd_sizes (s : Sys) (r idx : Nat) : (s.dropCmd r idx).sizes = s.sizes := by simp [Sys.dropCmd]

@[simp] theorem Sys.stopRing_sizes (s : Sys) (r reason : Nat) : (s.stopRing r reason).sizes = s.sizes := by simp [Sys.stopRing]

@[simp] theorem Sys.poisonKill_sizes (s : Sys) (r idx : Nat) (at_ : Nat × Nat) : (s.poisonKill r idx at_).sizes = s.sizes := by simp [Sys.poisonKill]

@[simp] theorem Sys.qpError_sizes (s : Sys) (i : Nat) : (s.qpError i).sizes = s.sizes := by simp [Sys.qpError]

@[simp] theorem Sys.unreadable_sizes (s : Sys) (r : Nat) (poison : Option (Nat × Nat)) : (s.unreadable r poison).sizes = s.sizes := by
  unfold Sys.unreadable
  (repeat' split) <;> simp

@[simp] theorem Dev.restart_sizes (r val : Nat) (d : Dev) : (Dev.restart r val d).sys.sizes = d.sys.sizes := by simp [Dev.restart]

@[simp] theorem Dev.sampleEvent_sizes (r : Nat) (d : Dev) : (Dev.sampleEvent r d).sys.sizes = d.sys.sizes := by
  unfold Dev.sampleEvent
  split
  · rfl
  · dsimp only
    split
    · split
      · simp
      · split <;> simp
    · rfl

@[simp] theorem Dev.readPage_sizes (r : Nat) (d : Dev) : (Dev.readPage r d).sys.sizes = d.sys.sizes := by
  simp only [Dev.readPage]
  split
  · split
    · split <;> simp
    · simp
  · simp

@[simp] theorem commandRead_sizes (r : Nat) (d : Dev) : (commandRead r d).sys.sizes = d.sys.sizes := by
  simp only [commandRead]
  split
  · split
    · simp
    · split
      · rfl
      · split
        · simp
        · split
          · split <;> simp
          · simp
  · rfl

@[simp] theorem commandStart_sizes (r : Nat) (d : Dev) : (commandStart r d).sys.sizes = d.sys.sizes := by
  unfold commandStart
  dsimp only
  (repeat' split) <;> simp

@[simp] theorem Sys.begin_sizes (s : Sys) (r uid : Nat) : (s.begin r uid).sizes = s.sizes := by simp [Sys.begin]

@[simp] theorem fenceRow_sizes (scope r idx : Nat) (s : Sys) : (fenceRow scope r idx s).sizes = s.sizes := by
  unfold fenceRow
  split <;> simp

@[simp] theorem eventSignal_sizes (r idx : Nat) (d : Dev) : (eventSignal r idx d).sys.sizes = d.sys.sizes := by
  unfold eventSignal
  split <;> simp

@[simp] theorem eventWait_sizes (r idx : Nat) (d : Dev) : (eventWait r idx d).sys.sizes = d.sys.sizes := by
  unfold eventWait
  split <;> simp

theorem EthPort.send_sizes (e : EthPort) (prio n : Nat) : (e.send prio n).sizes = e.sizes := by
  simp only [EthPort.send]
  split_ifs <;> simp [EthPort.sizes]

@[simp] theorem Sys.ethSend_sizes (s : Sys) (port prio n : Nat) : (s.ethSend port prio n).sizes = s.sizes := by
  simp [Sys.ethSend, map_modNth fun e : EthPort => e.send_sizes prio n]

@[simp] theorem Sys.qpSend_sizes (s : Sys) (i : Nat) (m : QpReq) : (s.qpSend i m).sizes = s.sizes := by simp [Sys.qpSend]

@[simp] theorem completionRecordWrite_sizes (r : Nat) (s : Sys) : (completionRecordWrite r s).sizes = s.sizes := by
  unfold completionRecordWrite
  dsimp only
  split <;> simp

@[simp] theorem copyLocal_sizes (r idx : Nat) (d : Dev) : (copyLocal r idx d).sys.sizes = d.sys.sizes := by
  unfold copyLocal
  split
  · rfl
  · dsimp only
    split
    · split <;> simp
    · rfl

@[simp] theorem copyHostWrite_sizes (r idx : Nat) (d : Dev) : (copyHostWrite r idx d).sys.sizes = d.sys.sizes := by
  unfold copyHostWrite
  split
  · rfl
  · dsimp only
    split
    · simp
    · split
      · split <;> simp
      · rfl

@[simp] theorem copyHostRead_sizes (r idx : Nat) (s : Sys) : (copyHostRead r idx s).sizes = s.sizes := by
  unfold copyHostRead
  split <;> simp

/-! ### Ethernet and queue pairs -/

@[simp] theorem Sys.ethCount_sizes (s : Sys) (i k n : Nat) : (s.ethCount i k n).sizes = s.sizes := by simp [Sys.ethCount]

@[simp] theorem ethPortState_sizes (port : Nat) (up : Bool) (s : Sys) : (ethPortState port up s).sizes = s.sizes := by simp [ethPortState]

@[simp] theorem Sys.ethDrain_sizes (s : Sys) (port prio : Nat) : (s.ethDrain port prio).sizes = s.sizes := by simp [Sys.ethDrain]

@[simp] theorem Sys.netAnswer_sizes (s : Sys) (iface : Nat) (n : FrameNet) : (s.netAnswer iface n).sizes = s.sizes := by
  unfold Sys.netAnswer
  split <;> simp

@[simp] theorem frameReceive_sizes (port : Nat) (f : FrameIn) (s : Sys) : (frameReceive port f s).sizes = s.sizes := by
  simp [frameReceive, Sys.t1sFrame]

theorem EthPort.pause_sizes (e : EthPort) (prio : Nat) (stop : Bool) : (e.pause prio stop).sizes = e.sizes := by
  have h := ({ e with pausedTx := setNth e.pausedTx prio stop } : EthPort).send_sizes prio (nth e.heldTx prio)
  simp only [EthPort.pause]
  split <;> simp_all [EthPort.sizes]

@[simp] theorem pfcPause_sizes (port prio quanta : Nat) (s : Sys) : (pfcPause port prio quanta s).sizes = s.sizes := by
  simp only [pfcPause]
  split_ifs <;> simp [Sys.onEth_of_sizes _ fun e : EthPort => e.pause_sizes prio _]

@[simp] theorem pfcRepeat_sizes (port prio : Nat) (s : Sys) : (pfcRepeat port prio s).sizes = s.sizes := by simp [pfcRepeat]

@[simp] theorem cnpReceive_sizes (i : Nat) (s : Sys) : (cnpReceive i s).sizes = s.sizes := by simp [cnpReceive]

@[simp] theorem rateIncrease_sizes (i : Nat) (s : Sys) : (rateIncrease i s).sizes = s.sizes := by simp [rateIncrease]

@[simp] theorem Sys.qpReply_sizes (s : Sys) (i kind : Nat) (data : List Byte) : (s.qpReply i kind data).sizes = s.sizes := by simp [Sys.qpReply]

@[simp] theorem Sys.rdmaCount_sizes (s : Sys) (p k : Nat) : (s.rdmaCount p k).sizes = s.sizes := by simp [Sys.rdmaCount]

@[simp] theorem Sys.qpTook_sizes (s : Sys) (i n : Nat) : (s.qpTook i n).sizes = s.sizes := by simp [Sys.qpTook]

end Sys2Proof.Machine
end

section
/-! PROOF. Sizes of the tables, part 3: Kettle's engines, updates, the router, the fabric's requests and replies, and the links
leave the sizes as they are. -/

namespace Sys2Proof.Machine

open Sys2Proof

/-! ### Ethernet and queue pairs -/

@[simp] theorem Sys.qpRefuse_sizes (s : Sys) (i : Nat) : (s.qpRefuse i).sizes = s.sizes := by simp [Sys.qpRefuse]

@[simp] theorem rdmaWrite_sizes (i addr rkey : Nat) (data : List Byte) (ce : Bool) (d : Dev) :
    (rdmaWrite i addr rkey data ce d).sys.sizes = d.sys.sizes := by simp [rdmaWrite, Sys.congestion]

@[simp] theorem rdmaRead_sizes (i addr rkey len : Nat) (d : Dev) : (rdmaRead i addr rkey len d).sys.sizes = d.sys.sizes := by
  unfold rdmaRead
  dsimp only
  (repeat' split) <;> simp

@[simp] theorem invalidRequest_sizes (i : Nat) (s : Sys) : (invalidRequest i s).sizes = s.sizes := by simp [invalidRequest]

@[simp] theorem sendReceive_sizes (i : Nat) (data : List Byte) (d : Dev) : (sendReceive i data d).sys.sizes = d.sys.sizes := by
  unfold sendReceive
  dsimp only
  (repeat' split) <;> simp

@[simp] theorem Sys.qpAgain_sizes (s : Sys) (i : Nat) : (s.qpAgain i).sizes = s.sizes := by simp [Sys.qpAgain]

@[simp] theorem retransmit_sizes (i : Nat) (s : Sys) : (retransmit i s).sizes = s.sizes := by simp [retransmit]

@[simp] theorem rdmaResponse_sizes (i kind : Nat) (data : List Byte) (d : Dev) : (rdmaResponse i kind data d).sys.sizes = d.sys.sizes := by
  unfold rdmaResponse
  dsimp only
  (repeat' split) <;> simp [receiverNotReady, Sys.qpAnswered]

@[simp] theorem Sys.qpWrite_sizes (s : Sys) (i : Nat) (b : List Byte) : (s.qpWrite i b).sizes = s.sizes := by simp [Sys.qpWrite]

/-! ### Packets and streams -/

@[simp] theorem Sys.inject_sizes (s : Sys) (p : Pkt) (vc : Nat) : (s.inject p vc).sizes = s.sizes := by simp [Sys.inject]

@[simp] theorem Sys.pcount_sizes (s : Sys) (p k : Nat) : (s.pcount p k).sizes = s.sizes := by simp [Sys.pcount]

@[simp] theorem Sys.fencesDone_sizes (s : Sys) : s.fencesDone.sizes = s.sizes := by simp [Sys.fencesDone, Sys.fenceDone]

@[simp] theorem Sys.ackSeq_sizes (s : Sys) (part key seq : Nat) : (s.ackSeq part key seq).sizes = s.sizes := by simp [Sys.ackSeq]

@[simp] theorem Sys.onOp_sizes (s : Sys) (id : Nat) (g : FabOp → FabOp) : (s.onOp id g).sizes = s.sizes := by simp [Sys.onOp]

@[simp] theorem Sys.answered_sizes (s : Sys) (r : FabReq) (status : Nat) : (s.answered r status).sizes = s.sizes := by
  unfold Sys.answered
  dsimp only
  (repeat' split) <;> simp [Sys.opDone, Sys.dropOp, Sys.segAnswered, Sys.opStatus]

@[simp] theorem Sys.sendCtrl_sizes (s : Sys) (dest ctype slot target attempt : Nat) (payload : List Byte) :
    (s.sendCtrl dest ctype slot target attempt payload).sizes = s.sizes := by simp [Sys.sendCtrl]

/-! ### Epochs -/

@[simp] theorem Sys.enterEpoch_sizes (s : Sys) (g st : Nat) : (s.enterEpoch g st).sizes = s.sizes := by simp [Sys.enterEpoch]

@[simp] theorem Sys.finishEpoch_sizes (s : Sys) (g status : Nat) : (s.finishEpoch g status).sizes = s.sizes := by simp [Sys.finishEpoch]

@[simp] theorem Sys.stepEnded_sizes (s : Sys) (g status : Nat) : (s.stepEnded g status).sizes = s.sizes := by simp [Sys.stepEnded, Sys.castVote]

/-! ### Kettle's engines and their tasks -/

@[simp] theorem Sys.onTask_sizes (s : Sys) (id : Nat) (f : KTask → KTask) : (s.onTask id f).sizes = s.sizes := by simp [Sys.onTask]

@[simp] theorem KRead.step_sizes (p : Nat) (r : KRange) (k : KRead) : (k.step p r).dev.sys.sizes = k.dev.sys.sizes := by
  simp [KRead.step]

@[simp] theorem Dev.kSources_sizes (d : Dev) (t : KTask) : (d.kSources t).dev.sys.sizes = d.sys.sizes :=
  runAll_keeps (KRead.step t.part) (fun k => k.dev.sys.sizes) (fun r k => KRead.step_sizes t.part r k) _ _

@[simp] theorem Dev.kInput_sizes (d : Dev) (t : KTask) : (d.kInput t).dev.sys.sizes = d.sys.sizes := by
  simp [Dev.kInput]

@[simp] theorem Dev.kettleWriteSome_sizes (p a : Nat) (bs : List Byte) (d : Dev) : (Dev.kettleWriteSome p a bs d).sys.sizes = d.sys.sizes := by
  simp [Dev.kettleWriteSome]

@[simp] theorem Dev.kPartial_sizes (t : KTask) (d : Dev) : (Dev.kPartial t d).sys.sizes = d.sys.sizes := by simp [Dev.kPartial]

@[simp] theorem Dev.putStatus_sizes (d : Dev) (p a code attempts detail : Nat) : (d.putStatus p a code attempts detail).sys.sizes = d.sys.sizes := by
  simp [Dev.putStatus]

@[simp] theorem Sys.tasksEnded_sizes (s : Sys) (t : KTask) : (s.tasksEnded t).sizes = s.sizes := by
  unfold Sys.tasksEnded
  dsimp only
  (repeat' split) <;> simp

@[simp] theorem Dev.taskDone_sizes (d : Dev) (t : KTask) (code attempts detail : Nat) :
    (d.taskDone t code attempts detail).sys.sizes = d.sys.sizes := by simp [Dev.taskDone]

@[simp] theorem Dev.taskPoisoned_sizes (d : Dev) (t : KTask) (at_ : Nat × Nat) : (d.taskPoisoned t at_).sys.sizes = d.sys.sizes := by
  simp only [Dev.taskPoisoned]
  split
  · simp
  · rw [liftSys_sys]
    split <;> simp

@[simp] theorem kettleStart_sizes (id : Nat) (d : Dev) : (kettleStart id d).sys.sizes = d.sys.sizes := by
  unfold kettleStart
  split
  · rfl
  · split
    · split
      · simp
      · dsimp only
        split <;> simp
    · rfl

@[simp] theorem kettleTurn_sizes (stack engine : Nat) (s : Sys) : (kettleTurn stack engine s).sizes = s.sizes := by
  unfold kettleTurn
  split <;> simp

theorem Dev.finishTask_sizes {id kind : Nat} {f : KTask → (Nat → Nat) → Dev → Dev}
    (h : ∀ t rd x, (f t rd x).sys.sizes = x.sys.sizes) (d : Dev) :
    (d.finishTask id kind f).sys.sizes = d.sys.sizes := by
  unfold Dev.finishTask
  split
  · rfl
  next t _ =>
    have hk := Dev.kInput_sizes d t
    refine (ite_sys_sizes _ _ _).trans (ite_eq_right_iff.mpr fun _ => ?_)
    dsimp only
    split
    · split
      · rw [Dev.taskPoisoned_sizes, liftSys_sys, Sys.drew_sizes, hk]
      · rw [h, liftSys_sys, Sys.drew_sizes, hk]
    · rw [h, hk]

@[simp] theorem Dev.kWriteAll_sizes (d : Dev) (t : KTask) (ws : List (Nat × List Byte)) : (d.kWriteAll t ws).sys.sizes = d.sys.sizes := by
  simp [Dev.kWriteAll]

@[simp] theorem gemvDone_sizes (t : KTask) (rd : Nat → Nat) (d : Dev) : (gemvDone t rd d).sys.sizes = d.sys.sizes := by
  simp [gemvDone, Dev.kWriteChecked]

@[simp] theorem scaleDone_sizes (t : KTask) (rd : Nat → Nat) (d : Dev) : (scaleDone t rd d).sys.sizes = d.sys.sizes := by simp [scaleDone]

@[simp] theorem updateDone_sizes (t : KTask) (rd : Nat → Nat) (d : Dev) : (updateDone t rd d).sys.sizes = d.sys.sizes := by
  simp only [updateDone, Dev.taskDone_sizes, liftSys_sys]
  split
  · split <;> simp
  · simp

@[simp] theorem rootHeld_sizes (t : KTask) (attempts reason : Nat) (d : Dev) : (rootHeld t attempts reason d).sys.sizes = d.sys.sizes := by
  simp only [rootHeld, Dev.taskDone_sizes, liftSys_sys, Sys.raise_sizes]
  split <;> simp

@[simp] theorem rootStep_sizes (t : KTask) (rd : Nat → Nat) (d : Dev) : (rootStep t rd d).sys.sizes = d.sys.sizes := by
  unfold rootStep
  dsimp only
  split <;> simp

@[simp] theorem Dev.malformed_sizes (d : Dev) (p a : Nat) (bad : List (Nat × Nat)) : (d.malformed p a bad).sys.sizes = d.sys.sizes := by
  simp [Dev.malformed]

@[simp] theorem Sys.addTask_sizes (s : Sys) (r : Nat) (c : RCmd) (target : Nat) (runRoots : Bool) (p a : Nat) (x : Nat × List Byte × KCheck) :
    (s.addTask r c target runRoots p a x).sizes = s.sizes := by simp [Sys.addTask]

theorem Dev.startList_sizes (d : Dev) (r : Nat) (c : RCmd) (kinds : List Nat) (a n t : Nat) (roots : Bool) :
    (d.startList r c kinds a n t roots).dev.sys.sizes = d.sys.sizes := by
  unfold Dev.startList
  dsimp only
  split
  · simp [ListEnd.dev]
  · split
    · simp [ListEnd.dev]
    · split
      · simp [ListEnd.dev]
      · split <;> simp [ListEnd.dev]

@[simp] theorem listCommand_sizes (r idx kind op n : Nat) (kinds : List Nat) (d : Dev) :
    (listCommand r idx kind op n kinds d).sys.sizes = d.sys.sizes := by
  unfold listCommand
  split
  · rfl
  next c _ =>
    have h := Dev.startList_sizes (liftSys (fun s => s.begin r c.uid) d) r c kinds (field c.bytes 24 8)
      (field c.bytes n (if n = 32 then 4 else 8)) 0 true
    dsimp only
    split <;> simp_all [ListEnd.dev]

/-! ### Updates -/

theorem FabState.enter_sizes (f : FabState) (o part vc : Nat) (pkt : Pkt) (addr : Nat) (snap : List Byte) :
    (f.enter o part vc pkt addr snap).sizes = f.sizes := rfl

@[simp] theorem Dev.publishOne_sizes (g : Nat) (x : Nat × List Byte) (d : Dev) : (Dev.publishOne g x d).sys.sizes = d.sys.sizes := by
  unfold Dev.publishOne
  dsimp only
  split
  · rfl
  · exact Sys.onFab_of_sizes fun _ => runAll_keeps _ FabState.sizes (fun _ y => y.enter_sizes ..) _ _

@[simp] theorem Dev.startPublish_sizes (d : Dev) (g : Nat) : (d.startPublish g).sys.sizes = d.sys.sizes := by simp [Dev.startPublish]

@[simp] theorem publishComplete_sizes (g : Nat) (s : Sys) : (publishComplete g s).sizes = s.sizes := by simp [publishComplete]

@[simp] theorem updateCheck_sizes (mode r idx : Nat) (d : Dev) : (updateCheck mode r idx d).sys.sizes = d.sys.sizes := by
  unfold updateCheck
  dsimp only
  (repeat' split) <;> simp

@[simp] theorem Dev.beginStep_sizes (d : Dev) (r g : Nat) (c : RCmd) : (d.beginStep r g c).sys.sizes = d.sys.sizes := by
  have h := Dev.startList_sizes d r c [3, 4] (field c.bytes 32 8) (field c.bytes 40 4) (field c.bytes 24 8) c.roots
  unfold Dev.beginStep
  dsimp only
  split
  · simp_all [ListEnd.dev]
  · simp_all [ListEnd.dev]
  · dsimp only [liftSys]
    split <;> simp_all [ListEnd.dev]

@[simp] theorem Dev.beginPublish_sizes (d : Dev) (r g : Nat) (c : RCmd) : (d.beginPublish r g c).sys.sizes = d.sys.sizes := by
  unfold Dev.beginPublish
  dsimp only
  split <;> simp

@[simp] theorem updateStart_sizes (r idx : Nat) (d : Dev) : (updateStart r idx d).sys.sizes = d.sys.sizes := by
  unfold updateStart
  split <;> simp

@[simp] theorem Dev.takeDecision_sizes (d : Dev) (g dec reason : Nat) : (d.takeDecision g dec reason).sys.sizes = d.sys.sizes := by
  simp [Dev.takeDecision]

@[simp] theorem epochInDoubt_sizes (g : Nat) (s : Sys) : (epochInDoubt g s).sizes = s.sizes := by simp [epochInDoubt]

@[simp] theorem ctrlPacket_sizes (p : Pkt) (s : Sys) : (ctrlPacket p s).sizes = s.sizes := by simp [ctrlPacket]

@[simp] theorem Sys.ctrlDiscard_sizes (s : Sys) : s.ctrlDiscard.sizes = s.sizes := by simp [Sys.ctrlDiscard]

@[simp] theorem Sys.lateVote_sizes (s : Sys) : s.lateVote.sizes = s.sizes := by simp [Sys.lateVote]

@[simp] theorem Sys.sendBlockVote_sizes (s : Sys) (x : Gather) (vote : Nat) : (s.sendBlockVote x vote).sizes = s.sizes := by simp [Sys.sendBlockVote]

@[simp] theorem Sys.ctrlTake_sizes (s : Sys) : s.ctrlTake.sizes = s.sizes := by simp [Sys.ctrlTake]

@[simp] theorem ownerVote_sizes (s : Sys) : (ownerVote s).sizes = s.sizes := by
  unfold ownerVote
  dsimp only
  (repeat' split) <;> simp

@[simp] theorem voteBudget_sizes (g : Nat) (s : Sys) : (voteBudget g s).sizes = s.sizes := by
  unfold voteBudget
  split <;> simp

@[simp] theorem Sys.coordDecide_sizes (s : Sys) (x : Gather) (dec reason : Nat) : (s.coordDecide x dec reason).sizes = s.sizes := by
  simp [Sys.coordDecide]

@[simp] theorem blockVote_sizes (s : Sys) : (blockVote s).sizes = s.sizes := by
  unfold blockVote
  dsimp only
  (repeat' split) <;> simp

@[simp] theorem coordBudget_sizes (g : Nat) (s : Sys) : (coordBudget g s).sizes = s.sizes := by
  unfold coordBudget
  split <;> simp

@[simp] theorem decisionReceive_sizes (d : Dev) : (decisionReceive d).sys.sizes = d.sys.sizes := by
  unfold decisionReceive
  split <;> simp

@[simp] theorem ctrlResend_sizes (k : Nat) (s : Sys) : (ctrlResend k s).sizes = s.sizes := by
  unfold ctrlResend
  split <;> simp

/-! ### Requests over the fabric -/

@[simp] theorem Sys.enterOp_sizes (s : Sys) (o : FabOp) (x : FabD) (read : Nat → Nat → List Byte) : (s.enterOp o x read).sizes = s.sizes :=
  Sys.onFab_of_sizes fun _ => runAll_keeps _ FabState.sizes (fun _ y => y.enter_sizes ..) _ _

@[simp] theorem fab_sizes (op want : Nat) (g : Gid) (d : Dev) : (fab op want g d).sys.sizes = d.sys.sizes := by simp [fab, fabBody]

@[simp] theorem fabFenceBody_sizes (i : Issue) (s : Sys) : (fabFenceBody i s).sizes = s.sizes := by simp [fabFenceBody]

@[simp] theorem copyFabric_sizes (r idx : Nat) (d : Dev) : (copyFabric r idx d).sys.sizes = d.sys.sizes := by
  unfold copyFabric
  dsimp only
  (repeat' split) <;> simp

/-! ### The router -/

@[simp] theorem Dev.sendReq_sizes (d : Dev) (r : FabReq) (flagR : Bool) : (d.sendReq r flagR).sys.sizes = d.sys.sizes := by
  unfold Dev.sendReq
  dsimp only
  (repeat' split) <;> simp [Sys.sourcePoison, Sys.transmit]

@[simp] theorem Sys.pathFailed_sizes (s : Sys) (p : Pkt) : (s.pathFailed p).sizes = s.sizes := by simp [Sys.pathFailed]

@[simp] theorem Sys.join_sizes (s : Sys) (port i : Nat) (w : TxPkt) (p : Pkt) : (s.join port i w p).sizes = s.sizes := by simp [Sys.join]

@[simp] theorem Sys.toPort_sizes (s : Sys) (port : Nat) (x : RPkt) (lane : Nat) : (s.toPort port x lane).sizes = s.sizes := by
  unfold Sys.toPort
  (repeat' split) <;> simp

@[simp] theorem Sys.unrouted_sizes (s : Sys) : s.unrouted.sizes = s.sizes := by simp [Sys.unrouted]

@[simp] theorem Sys.route_sizes (s : Sys) (x : RPkt) : (s.route x).sizes = s.sizes := by
  unfold Sys.route
  dsimp only
  (repeat' split) <;> simp

theorem creditBack_length (ps : List Port) (x : RPkt) : (creditBack ps x).length = ps.length := by
  unfold creditBack
  split <;> simp

@[simp] theorem packetRoute_sizes (k : Nat) (d : Dev) : (packetRoute k d).sys.sizes = d.sys.sizes := by
  unfold packetRoute
  dsimp only
  split
  · split
    · split <;> simp [creditBack_length]
    · split
      · rfl
      · split
        · rfl
        · split <;> simp
  · rfl

@[simp] theorem Sys.dropMput_sizes (s : Sys) (src part seq group : Nat) : (s.dropMput src part seq group).sizes = s.sizes := by simp [Sys.dropMput]

@[simp] theorem Sys.mputEnd_sizes (s : Sys) (m : MputRec) : (s.mputEnd m).sizes = s.sizes := by simp [Sys.mputEnd]

@[simp] theorem Sys.withdraw_sizes (s : Sys) : s.withdraw.sizes = s.sizes := by
  refine runAll_sizes (fun port x => ?_) _ _
  dsimp only
  split
  · rfl
  · refine (runAll_sizes (fun w y => ?_) _ _).trans (by simp)
    split
    · rfl
    · split
      · split <;> simp
      · simp

@[simp] theorem Dev.resendReq_sizes (d : Dev) (r : FabReq) (flagR : Bool) : (d.resendReq r flagR).sys.sizes = d.sys.sizes := by simp [Dev.resendReq]

@[simp] theorem Dev.routesChanged_sizes (d : Dev) : d.routesChanged.sys.sizes = d.sys.sizes := by simp [Dev.routesChanged]

@[simp] theorem resendDelay_sizes (k : Nat) (d : Dev) : (resendDelay k d).sys.sizes = d.sys.sizes := by
  unfold resendDelay
  split <;> simp

@[simp] theorem fabricTimeout_sizes (op : Nat) (s : Sys) : (fabricTimeout op s).sizes = s.sizes := by
  unfold fabricTimeout
  (repeat' split) <;> simp

/-! ### Requests at their target -/

@[simp] theorem Sys.recordSlot_sizes (s : Sys) (q src part group seq status value : Nat) :
    (s.recordSlot q src part group seq status value).sizes = s.sizes := by simp [Sys.recordSlot]

@[simp] theorem Sys.recordReply_sizes (s : Sys) (q : Nat) (p : Pkt) (status value : Nat) : (s.recordReply q p status value).sizes = s.sizes := by
  simp [Sys.recordReply]

@[simp] theorem Sys.reply_sizes (s : Sys) (p : Pkt) (status value : Nat) : (s.reply p status value).sizes = s.sizes := by simp [Sys.reply]

@[simp] theorem Sys.unmarkOp_sizes (s : Sys) (o : ExecOp) : (s.unmarkOp o).sizes = s.sizes := by simp [Sys.unmarkOp, Sys.unmark]

theorem Sys.arrive_sizes {s t : Sys} {p : Pkt} {kind : Nat} {x : RPkt} (h : s.arrive p kind = some (x, t)) : t.sizes = s.sizes := by
  unfold Sys.arrive at h
  split at h
  · split at h
    · split at h
      · cases h
        simp
      · cases h
    · cases h
  · cases h

@[simp] theorem Dev.windowCheck_sizes (d : Dev) (p : Pkt) (n perm : Nat) (w : Bool) : (d.windowCheck p n perm w).2.sys.sizes = d.sys.sizes := by
  simp only [Dev.windowCheck]
  split
  · rfl
  · split
    · simp
    · split <;> simp

/-- The state that the look into the replay directory leaves, `s` where the request's first copy is still with the executor. -/
def Replay.after (s : Sys) : Replay → Sys
  | .fresh t => t
  | .recorded _ _ t => t
  | .unknown t => t
  | .busy => s

theorem Sys.replayOf_sizes (s : Sys) (q : Nat) (p : Pkt) : ((s.replayOf q p).after s).sizes = s.sizes := by
  unfold Sys.replayOf
  dsimp only
  split
  · split
    · simp [Replay.after]
    · split
      · split <;> simp [Replay.after]
      · split <;> simp [Replay.after]
  · split
    · rfl
    · split
      · rfl
      · simp [Replay.after]

theorem Sys.replayOf_eq_sizes {s : Sys} {q : Nat} {p : Pkt} {r : Replay} (h : s.replayOf q p = r) : (r.after s).sizes = s.sizes :=
  h ▸ s.replayOf_sizes q p

@[simp] theorem Dev.remotePoison_sizes (d : Dev) (at_ : Nat × Nat) (p : Pkt) : (d.remotePoison at_ p).sys.sizes = d.sys.sizes := by
  simp only [Dev.remotePoison]
  split <;> simp

theorem Dev.store_sizes {d : Dev} {p : Pkt} {perm : Nat} {x : Nat × Dev} (h : d.store p perm = some x) : x.2.sys.sizes = d.sys.sizes := by
  have hr := Sys.replayOf_sizes (d.windowCheck p p.len perm true).2.sys (d.sys.window p.window).part p
  unfold Dev.store at h
  dsimp only at h
  split at h
  · cases h
    simp
  · split at h
    · cases h
    · cases h
      simp_all [Replay.after]
    · cases h
      simp_all [Replay.after]
    · split at h <;> cases h
      simp_all [Replay.after]

@[simp] theorem storeRow_sizes (p : Pkt) (kind perm : Nat) (d : Dev) : (storeRow p kind perm d).sys.sizes = d.sys.sizes := by
  unfold storeRow
  split
  · rfl
  next x s hs =>
    split
    · rfl
    · split
      · rfl
      next hx => simp [Dev.store_sizes hx, Sys.arrive_sizes hs]

@[simp] theorem getPacket_sizes (p : Pkt) (d : Dev) : (getPacket p d).sys.sizes = d.sys.sizes := by
  unfold getPacket
  split
  · rfl
  next s hs =>
    dsimp only
    split
    · simp [Sys.arrive_sizes hs]
    · split
      · split <;> simp [Sys.arrive_sizes hs]
      · rfl

@[simp] theorem Dev.toExecutor_sizes (d : Dev) (p : Pkt) (part base : Nat) : (d.toExecutor p part base).sys.sizes = d.sys.sizes := by
  simp [Dev.toExecutor]

@[simp] theorem executorRow_sizes (p : Pkt) (kind n perm : Nat) (d : Dev) : (executorRow p kind n perm d).sys.sizes = d.sys.sizes := by
  unfold executorRow
  split
  · rfl
  next s hs =>
    have hr := Sys.replayOf_sizes (Dev.windowCheck { d with sys := s } p n perm true).2.sys (s.window p.window).part p
    have := Sys.arrive_sizes hs
    dsimp only
    split
    · simp_all
    · split
      · rfl
      · simp_all [Replay.after]
      · simp_all [Replay.after]
      · split <;> simp_all [Replay.after]

@[simp] theorem combinedPacket_sizes (p : Pkt) (d : Dev) : (combinedPacket p d).sys.sizes = d.sys.sizes := by
  unfold combinedPacket
  split
  · rfl
  next s hs =>
    have hx := Sys.arrive_sizes hs
    extract_lets w cs gets n c x d1
    have hc : c.2.sys.sizes = d.sys.sizes := (Dev.windowCheck_sizes ..).trans hx
    clear_value c n
    split
    · simp [hc]
    · split
      · split
        · split <;> simp [x, hc]
        · rfl
      · refine (Dev.toExecutor_sizes ..).trans ((runAll_sizes (fun k y => ?_) _ _).trans hc)
        dsimp only
        split
        next h => exact (Sys.recordReply_sizes ..).trans (Sys.replayOf_eq_sizes h)
        next h => exact (Sys.recordReply_sizes ..).trans (Sys.replayOf_eq_sizes h)
        next h => exact (Sys.recordReply_sizes ..).trans (Sys.replayOf_eq_sizes h)
        · rfl

@[simp] theorem targetExec_sizes (st : Nat) (atom : Bool) (d : Dev) : (targetExec st atom d).sys.sizes = d.sys.sizes := by
  unfold targetExec
  dsimp only
  (repeat' split) <;> simp

theorem mputLocal_sizes {d0 : Dev} {p : Pkt} {a b : Bool} {y : Nat × List Nat × Dev}
    (h : (if a = false then some (0, [], d0)
      else if b then (Dev.store d0 p 2).map (fun y => (y.1, [], y.2)) else some (0, [16], liftSys Sys.unrouted d0)) = some y) :
    y.2.2.sys.sizes = d0.sys.sizes := by
  split at h
  · cases h
    rfl
  · split at h
    · obtain ⟨z, hz, rfl⟩ := Option.map_eq_some_iff.mp h
      exact Dev.store_sizes hz
    · cases h
      simp

@[simp] theorem mputPacket_sizes (p : Pkt) (d : Dev) : (mputPacket p d).sys.sizes = d.sys.sizes := by
  unfold mputPacket
  split
  · rfl
  next x s hs =>
    have hx := Sys.arrive_sizes hs
    dsimp only
    split
    · simp [hx]
    · split
      · simp [hx]
      · split
        · rfl
        next h =>
          have h := mputLocal_sizes h
          simp_all

@[simp] theorem ctrlRow_sizes (p : Pkt) (s : Sys) : (ctrlRow p s).sizes = s.sizes := by
  unfold ctrlRow
  split
  next hs => split <;> simp [Sys.arrive_sizes hs]
  · rfl

/-! ### Replies -/

theorem Sys.uncombine_sizes {each : Pkt → Sys → Sys} (h : ∀ q x, (each q x).sizes = x.sizes) (s : Sys) (c : CombRec) :
    (s.uncombine c each).sizes = s.sizes := by
  simp [Sys.uncombine, h]

@[simp] theorem Dev.answered_sizes (d : Dev) (r : FabReq) (status : Nat) : (d.answered r status).sys.sizes = d.sys.sizes := by
  unfold Dev.answered
  split <;> simp

@[simp] theorem Dev.deliverLocal_sizes (d : Dev) (r : FabReq) (bs : List Byte) : (d.deliverLocal r bs).sys.sizes = d.sys.sizes := by
  unfold Dev.deliverLocal
  split <;> simp

@[simp] theorem dataReply_sizes (p : Pkt) (d : Dev) : (dataReply p d).sys.sizes = d.sys.sizes := by
  unfold dataReply
  split
  · rfl
  next s hs =>
    have hx := Sys.arrive_sizes hs
    split
    · simp [Sys.uncombine_sizes, hx]
    · split
      · exact hx
      · dsimp only
        split <;> simp [hx]

@[simp] theorem resultReply_sizes (p : Pkt) (d : Dev) : (resultReply p d).sys.sizes = d.sys.sizes := by
  unfold resultReply
  split
  · rfl
  next s hs =>
    have hx := Sys.arrive_sizes hs
    split
    · refine (Sys.uncombine_sizes (fun q y => ?_) _ _).trans hx
      split <;> simp
    · split
      · exact hx
      · dsimp only
        split
        · simp [hx]
        · split <;> simp [hx]

@[simp] theorem Sys.branchAnswer_sizes (s : Sys) (x : RPkt) : (s.branchAnswer x).sizes = s.sizes := by
  unfold Sys.branchAnswer
  split <;> simp [Sys.mputAnswer]

@[simp] theorem ackReply_sizes (p : Pkt) (d : Dev) : (ackReply p d).sys.sizes = d.sys.sizes := by
  unfold ackReply
  split
  · rfl
  next s hs =>
    have hx := Sys.arrive_sizes hs
    split
    · simp [hx]
    · split <;> split <;> simp [hx]

@[simp] theorem Sys.waitResend_sizes (s : Sys) (p : Pkt) (r : FabReq) : (s.waitResend p r).sizes = s.sizes := by simp [Sys.waitResend]

@[simp] theorem nakReply_sizes (p : Pkt) (d : Dev) : (nakReply p d).sys.sizes = d.sys.sizes := by
  unfold nakReply
  split
  · rfl
  next s hs =>
    have hx := Sys.arrive_sizes hs
    split
    · simp [hx]
    · split
      · simp [Sys.uncombine_sizes, hx]
      · split
        · exact hx
        · split <;> simp [hx]

/-! ### Links -/

@[simp] theorem Sys.portEvent_sizes (s : Sys) (code port : Nat) (detail : List Byte) : (s.portEvent code port detail).sizes = s.sizes := by
  simp [Sys.portEvent]

@[simp] theorem Sys.setPort_sizes (s : Sys) (i st : Nat) : (s.setPort i st).sizes = s.sizes := by simp [Sys.setPort]

@[simp] theorem Sys.portDown_sizes (s : Sys) (i reason train : Nat) : (s.portDown i reason train).sizes = s.sizes := by simp [Sys.portDown]

@[simp] theorem Sys.portUp_sizes (s : Sys) (i st : Nat) : (s.portUp i st).sizes = s.sizes := by simp [Sys.portUp]

@[simp] theorem Sys.enterTrain_sizes (s : Sys) (i st : Nat) : (s.enterTrain i st).sizes = s.sizes := by simp [Sys.enterTrain]

@[simp] theorem Sys.toLock_sizes (s : Sys) (i : Nat) : (s.toLock i).sizes = s.sizes := by simp [Sys.toLock]

@[simp] theorem lockComplete_sizes (i mask : Nat) (s : Sys) : (lockComplete i mask s).sizes = s.sizes := by simp [lockComplete]

@[simp] theorem alignComplete_sizes (i mask : Nat) (s : Sys) : (alignComplete i mask s).sizes = s.sizes := by simp [alignComplete]

@[simp] theorem negotiateComplete_sizes (i : Nat) (far : TrainFar) (s : Sys) : (negotiateComplete i far s).sizes = s.sizes := by
  simp [negotiateComplete]

@[simp] theorem verifyWindowEnd_sizes (i failMask : Nat) (uncorrectable : Bool) (s : Sys) :
    (verifyWindowEnd i failMask uncorrectable s).sizes = s.sizes := by simp [verifyWindowEnd]

@[simp] theorem trainingTimeout_sizes (i : Nat) (s : Sys) : (trainingTimeout i s).sizes = s.sizes := by simp [trainingTimeout]

@[simp] theorem Sys.quarantine_sizes (s : Sys) (i : Nat) : (s.quarantine i).sizes = s.sizes := by simp [Sys.quarantine]

@[simp] theorem Sys.compare_sizes (s : Sys) (i : Nat) : (s.compare i).sizes = s.sizes := by simp [Sys.compare]

@[simp] theorem helloReceive_sizes (i : Nat) (h : Hello) (s : Sys) : (helloReceive i h s).sizes = s.sizes := by simp [helloReceive, Sys.settlePort]

@[simp] theorem helloSend_sizes (i : Nat) (s : Sys) : (helloSend i s).sizes = s.sizes := by simp [helloSend]

@[simp] theorem Sys.helloAll_sizes (s : Sys) : s.helloAll.sizes = s.sizes := by simp [Sys.helloAll]

@[simp] theorem Sys.codeword_sizes (s : Sys) (i : Nat) (fecOk : Bool) : (s.codeword i fecOk).sizes = s.sizes := by simp [Sys.codeword]

@[simp] theorem Sys.flitBad_sizes (s : Sys) (i : Nat) (f : Flit) (fecOk : Bool) (crc : Nat) : (s.flitBad i f fecOk crc).sizes = s.sizes := by
  simp [Sys.flitBad]

@[simp] theorem Sys.replayLimit_sizes (s : Sys) (i : Nat) : (s.replayLimit i).sizes = s.sizes := by simp [Sys.replayLimit]

@[simp] theorem Sys.acceptFlit_sizes (s : Sys) (i : Nat) (f : Flit) : (s.acceptFlit i f).sizes = s.sizes := by
  unfold Sys.acceptFlit
  dsimp only
  split <;> simp

@[simp] theorem Sys.headerIn_sizes (s : Sys) (i : Nat) (f : Flit) : (s.headerIn i f).sizes = s.sizes := by simp [Sys.headerIn]

@[simp] theorem dataFlit_sizes (i : Nat) (f : Flit) (fecOk : Bool) (crc : Nat) (s : Sys) : (dataFlit i f fecOk crc s).sizes = s.sizes := by
  simp [dataFlit]

@[simp] theorem nullFlitIn_sizes (i : Nat) (f : Flit) (fecOk : Bool) (crc : Nat) (s : Sys) : (nullFlitIn i f fecOk crc s).sizes = s.sizes := by
  simp [nullFlitIn]

@[simp] theorem trainFlit_sizes (i : Nat) (f : Flit) (fecOk : Bool) (crc : Nat) (s : Sys) : (trainFlit i f fecOk crc s).sizes = s.sizes := by
  simp [trainFlit]

@[simp] theorem flitTransmit_sizes (i : Nat) (s : Sys) : (flitTransmit i s).sizes = s.sizes := by simp [flitTransmit]

@[simp] theorem replayTimeout_sizes (i : Nat) (s : Sys) : (replayTimeout i s).sizes = s.sizes := by simp [replayTimeout]

end Sys2Proof.Machine
end

section
/-! PROOF. Sizes of the tables, part 4: bring-up, events, decode queues, launches, collectives, resets of partitions and faults
leave the sizes as they are. -/

namespace Sys2Proof.Machine

open Sys2Proof

/-! ### Links -/

@[simp] theorem signalLost_sizes (i : Nat) (s : Sys) : (signalLost i s).sizes = s.sizes := by simp [signalLost]

@[simp] theorem portDegraded_sizes (i : Nat) (ratio : F32) (s : Sys) : (portDegraded i ratio s).sizes = s.sizes := by simp [portDegraded]

@[simp] theorem Sys.acceptPort_sizes (s : Sys) (i : Nat) : (s.acceptPort i).sizes = s.sizes := by simp [Sys.acceptPort]

@[simp] theorem Sys.startPort_sizes (s : Sys) (i : Nat) : (s.startPort i).sizes = s.sizes := by simp [Sys.startPort]

@[simp] theorem Sys.enablePorts_sizes (s : Sys) (mask : Nat) : (s.enablePorts mask).sizes = s.sizes := by simp [Sys.enablePorts, Sys.disablePort]

/-! ### Bring-up -/

@[simp] theorem Sys.disc_sizes (s : Sys) (kind unit detail : Nat) : (s.disc kind unit detail).sizes = s.sizes := by simp [Sys.disc]

@[simp] theorem Sys.journal_sizes (s : Sys) : s.journal.sizes = s.sizes := by simp [Sys.journal]

@[simp] theorem Sys.bringUpStart_sizes (s : Sys) : s.bringUpStart.sizes = s.sizes := by simp [Sys.bringUpStart]

@[simp] theorem Sys.nextPhase_sizes (s : Sys) (ph status : Nat) : (s.nextPhase ph status).sizes = s.sizes := by simp [Sys.nextPhase]

@[simp] theorem Sys.failUp_sizes (s : Sys) : s.failUp.sizes = s.sizes := by simp [Sys.failUp]

@[simp] theorem Sys.measure_sizes (s : Sys) (typ detail : Nat) (digest : List Byte) : (s.measure typ detail digest).sizes = s.sizes := by
  simp [Sys.measure]

@[simp] theorem Sys.takeFloor_sizes (s : Sys) (tagOk : Bool) : (s.takeFloor tagOk).sizes = s.sizes := by simp [Sys.takeFloor]

@[simp] theorem Sys.makeSalt_sizes (s : Sys) : s.makeSalt.sizes = s.sizes := by simp [Sys.makeSalt]

@[simp] theorem Sys.replayJournal_sizes (s : Sys) : s.replayJournal.sizes = s.sizes := by
  unfold Sys.replayJournal
  dsimp only
  split <;> simp

@[simp] theorem Sys.tryImage_sizes (s : Sys) (k : Nat) : (s.tryImage k).1.sizes = s.sizes := by
  simp only [Sys.tryImage]
  split <;> simp

/-- The state that FW_VERIFY leaves before the device identity and the manufacturing record are looked at. -/
theorem fwVerify_images_sizes (s : Sys) (a b : Nat) :
    (if (s.tryImage a).2 then s.tryImage a else (s.tryImage a).1.tryImage b).1.sizes = s.sizes := by
  split <;> simp

@[simp] theorem fwVerify_sizes (r : FwReading) (s : Sys) : (fwVerify r s).sizes = s.sizes := by
  unfold fwVerify
  split
  · extract_lets p s1 s2 active first x y s3 k s4 s5 s6
    have h1 : s1.sizes = s.sizes := by
      unfold s1
      split <;> simp
    have h3 : s3.sizes = s.sizes := by
      simp only [s3, Sys.makeSalt_sizes, Sys.replayJournal_sizes]
      exact (fwVerify_images_sizes s2 _ _).trans (by simp [s2, h1])
    clear_value s3
    split
    · split
      · simp [s4, h3]
      · split <;> simp [s6, s5, s4, h3]
    · simp [h3]
  · rfl

@[simp] theorem Sys.endLinkTrain_sizes (s : Sys) : s.endLinkTrain.sizes = s.sizes := by
  simp [Sys.endLinkTrain, Sys.notTrained, Sys.narrow, Sys.laserLow]

@[simp] theorem Sys.linkTrainCheck_sizes (s : Sys) : s.linkTrainCheck.sizes = s.sizes := by simp [Sys.linkTrainCheck]

@[simp] theorem linkDeadline_sizes (s : Sys) : (linkDeadline s).sizes = s.sizes := by simp [linkDeadline]

@[simp] theorem Sys.stacksCheck_sizes (s : Sys) : s.stacksCheck.sizes = s.sizes := by simp [Sys.stacksCheck, Sys.beginLinkTrain]

@[simp] theorem Sys.untrained_sizes (s : Sys) (st reason : Nat) : (s.untrained st reason).sizes = s.sizes := by simp [Sys.untrained]

@[simp] theorem Sys.beginStackTrain_sizes (s : Sys) : s.beginStackTrain.sizes = s.sizes := by simp [Sys.beginStackTrain]

@[simp] theorem stackTrained_sizes (st rows : Nat) (d : Dev) : (stackTrained st rows d).sys.sizes = d.sys.sizes := by simp [stackTrained]

@[simp] theorem stackFailed_sizes (st reason : Nat) (s : Sys) : (stackFailed st reason s).sizes = s.sizes := by simp [stackFailed]

@[simp] theorem stackTimeout_sizes (s : Sys) : (stackTimeout s).sizes = s.sizes := by simp [stackTimeout]

@[simp] theorem clockStart_sizes (r : UncoreReading) (s : Sys) : (clockStart r s).sizes = s.sizes := by simp [clockStart]

@[simp] theorem Sys.siteResult_sizes (row : Nat) (c : Nat) (x : SiteReading) (s : Sys) : (Sys.siteResult row c x s).sizes = s.sizes := by
  simp [Sys.siteResult]

@[simp] theorem powerWave_sizes (w : Nat) (s : Sys) : (powerWave w s).sizes = s.sizes := by simp [powerWave]

/-! ### Events -/

@[simp] theorem Dev.evPut_sizes (d : Dev) (p code source : Nat) (detail : List Byte) : (d.evPut p code source detail).sys.sizes = d.sys.sizes := by
  simp [Dev.evPut]

@[simp] theorem Sys.evLose_sizes (s : Sys) (p : Nat) : (s.evLose p).sizes = s.sizes := by simp [Sys.evLose]

@[simp] theorem Dev.evCatchUp_sizes (d : Dev) (p : Nat) (consumed : Option Nat) : (d.evCatchUp p consumed).sys.sizes = d.sys.sizes := by
  simp [Dev.evCatchUp, Dev.evTellLost]

@[simp] theorem Dev.evConsumed_sizes (d : Dev) (p : Nat) : (d.evConsumed p).1.sys.sizes = d.sys.sizes := by
  simp only [Dev.evConsumed]
  split
  · split <;> simp
  · rfl

@[simp] theorem eventRecordWrite_sizes (d : Dev) : (eventRecordWrite d).sys.sizes = d.sys.sizes := by
  unfold eventRecordWrite
  split
  · rfl
  · split
    · rfl
    · dsimp only
      split
      · split <;> simp
      · simp

@[simp] theorem eventRingPoll_sizes (p : Nat) (d : Dev) : (eventRingPoll p d).sys.sizes = d.sys.sizes := by
  simp only [eventRingPoll]
  split <;> simp

@[simp] theorem Dev.takeSet_sizes (d : Dev) (p : Nat) (set : PartSet) : (d.takeSet p set).sys.sizes = d.sys.sizes := by
  simp [Dev.takeSet, Sys.releaseQps]

/-! ### Decode queues -/

@[simp] theorem decodeOpen_sizes (r idx : Nat) (d : Dev) : (decodeOpen r idx d).sys.sizes = d.sys.sizes := by
  unfold decodeOpen
  dsimp only
  (repeat' split) <;> simp

@[simp] theorem Sys.deliver_sizes (s : Sys) (t : Take) (hdr : List Byte) : (s.deliver t hdr).sizes = s.sizes := by simp [Sys.deliver]

@[simp] theorem decodeClose_sizes (r idx : Nat) (s : Sys) : (decodeClose r idx s).sizes = s.sizes := by
  unfold decodeClose
  split <;> simp

@[simp] theorem dqPushBody_sizes (i : Issue) (s : Sys) : (dqPushBody i s).sizes = s.sizes := by simp [dqPushBody]

@[simp] theorem dqTakeBody_sizes (i : Issue) (s : Sys) : (dqTakeBody i s).sizes = s.sizes := by simp [dqTakeBody]

@[simp] theorem pushAccept_sizes (qn : Nat) (s : Sys) : (pushAccept qn s).sizes = s.sizes := by
  unfold pushAccept
  dsimp only
  split <;> simp

@[simp] theorem batchBudget_sizes (qn : Nat) (s : Sys) : (batchBudget qn s).sizes = s.sizes := by simp [batchBudget]

@[simp] theorem takeClaim_sizes (qn : Nat) (d : Dev) : (takeClaim qn d).sys.sizes = d.sys.sizes := by
  unfold takeClaim
  dsimp only
  split <;> simp

@[simp] theorem takeHeaderWrite_sizes (qn take : Nat) (s : Sys) : (takeHeaderWrite qn take s).sizes = s.sizes := by
  unfold takeHeaderWrite
  dsimp only
  split <;> simp [Sys.closeDone]

/-! ### Issue -/

theorem issuePicked_sizes {g : Gid} {run : Gid → Dev → Dev} {d : Dev} (h : (run g d).sys.sizes = d.sys.sizes) :
    (issuePicked g run d).sys.sizes = d.sys.sizes := by
  unfold issuePicked
  split
  · exact h
  · rfl

/-! ### Launches -/

@[simp] theorem launch_sizes (r idx : Nat) (s : Sys) : (launch r idx s).sizes = s.sizes := by
  unfold launch
  split <;> simp

@[simp] theorem Sys.onGrid_sizes (s : Sys) (uid : Nat) (f : Grid → Grid) : (s.onGrid uid f).sizes = s.sizes := by simp [Sys.onGrid]

@[simp] theorem Sys.place_sizes (s : Sys) (g : Grid) (core : Nat) (slots : List Nat) (code : List DWord) :
    (s.place g core slots code).sizes = s.sizes := by simp [Sys.place]

theorem Dev.imageOn_sizes (d : Dev) (g : Grid) (core : Nat) : (d.imageOn g core).1.sys.sizes = d.sys.sizes := by
  unfold Dev.imageOn
  split <;> simp

@[simp] theorem blockPlace_sizes (uid core : Nat) (slots : List Nat) (d : Dev) : (blockPlace uid core slots d).sys.sizes = d.sys.sizes := by
  unfold blockPlace
  split
  · rfl
  next g _ =>
    have h := d.imageOn_sizes g core
    dsimp only
    split
    · split <;> simp_all
    · rfl

@[simp] theorem blockEnd_sizes (id : Nat) (s : Sys) : (blockEnd id s).sizes = s.sizes := by
  unfold blockEnd
  dsimp only
  (repeat' split) <;> simp

/-! ### Power and its pins -/

@[simp] theorem vin48Start_sizes (mv : Nat) (s : Sys) : (vin48Start mv s).sizes = s.sizes := by simp [vin48Start]

@[simp] theorem vin48Clear_sizes (mv : Nat) (s : Sys) : (vin48Clear mv s).sizes = s.sizes := by simp [vin48Clear]

@[simp] theorem managementRail_sizes (slot boot : Nat) (s : Sys) : (managementRail slot boot s).sizes = s.sizes := by
  simp only [managementRail]
  split <;> simp [PowerState.sample]

@[simp] theorem refclkValid_sizes (s : Sys) : (refclkValid s).sizes = s.sizes :=
  (Sys.onBring_of_sizes fun b => by split <;> rfl).trans (by simp)

@[simp] theorem refclkLate_sizes (s : Sys) : (refclkLate s).sizes = s.sizes := by simp [refclkLate]

@[simp] theorem thermalTrip_sizes (sensor : Nat) (celsius : F32) (s : Sys) : (thermalTrip sensor celsius s).sizes = s.sizes := by simp [thermalTrip]

@[simp] theorem Sys.laserLevel_sizes (s : Sys) (e line uw : Nat) : (s.laserLevel e line uw).sizes = s.sizes := by simp [Sys.laserLevel]

@[simp] theorem laserLoss_sizes (e line uw : Nat) (s : Sys) : (laserLoss e line uw s).sizes = s.sizes := by simp [laserLoss, Sys.engineDark]

@[simp] theorem laserRestored_sizes (e line uw : Nat) (s : Sys) : (laserRestored e line uw s).sizes = s.sizes := by simp [laserRestored]

@[simp] theorem laserHold_sizes (e : Nat) (s : Sys) : (laserHold e s).sizes = s.sizes := by simp [laserHold]

/-! ### Collectives -/

@[simp] theorem collective_sizes (r idx : Nat) (d : Dev) : (collective r idx d).sys.sizes = d.sys.sizes := by
  unfold collective
  dsimp only
  (repeat' split) <;> simp

@[simp] theorem Sys.segReply_sizes (s : Sys) (part : Nat) (x : Seg) (status : Nat) : (s.segReply part x status).sizes = s.sizes := by
  simp [Sys.segReply]

@[simp] theorem Sys.unstage_sizes (s : Sys) (g : Nat) (x : Seg) : (s.unstage g x).sizes = s.sizes := by simp [Sys.unstage]

@[simp] theorem Sys.onColl_sizes (s : Sys) (g : Nat) (f : Coll → Coll) : (s.onColl g f).sizes = s.sizes := by simp [Sys.onColl]

@[simp] theorem Sys.wcount_sizes (s : Sys) (k n : Nat) : (s.wcount k n).sizes = s.sizes := by simp [Sys.wcount]

@[simp] theorem Sys.lateDrop_sizes (s : Sys) (g rank seq : Nat) : (s.lateDrop g rank seq).sizes = s.sizes := by simp [Sys.lateDrop]

@[simp] theorem Dev.formSeg_sizes (g j : Nat) (d : Dev) : (Dev.formSeg g j d).sys.sizes = d.sys.sizes := by
  unfold Dev.formSeg
  split <;> simp

@[simp] theorem Dev.formAll_sizes (d : Dev) (g : Nat) : (d.formAll g).sys.sizes = d.sys.sizes := by
  unfold Dev.formAll
  split <;> simp

@[simp] theorem Sys.countLeaf_sizes (s : Sys) (g : Nat) (c : Coll) (rank : Nat) (xs : List Nat) : (s.countLeaf g c rank xs).sizes = s.sizes := by
  simp [Sys.countLeaf]

@[simp] theorem Dev.ingest_sizes (g : Nat) (x : Seg) (d : Dev) : (Dev.ingest g x d).sys.sizes = d.sys.sizes := by
  unfold Dev.ingest
  split <;> simp

@[simp] theorem Dev.segIn_sizes (d : Dev) (g rank : Nat) (p : Pkt) : (d.segIn g rank p).sys.sizes = d.sys.sizes := by
  unfold Dev.segIn
  dsimp only
  (repeat' split) <;> simp [Sys.lateSeg]

@[simp] theorem segmentRow_sizes (gather : Bool) (p : Pkt) (d : Dev) : (segmentRow gather p d).sys.sizes = d.sys.sizes := by
  unfold segmentRow
  split
  · rfl
  next s hs =>
    have hx := Sys.arrive_sizes hs
    split
    · rfl
    · split
      · rfl
      · have hr := s.replayOf_sizes (s.window p.window).part p
        dsimp only
        split
        · simp [hx]
        · split
          · simp [hx]
          · split
            · simp [hx]
            · split <;> simp_all [Replay.after]

@[simp] theorem Sys.useHeld_sizes (s : Sys) (g e : Nat) : (s.useHeld g e).sizes = s.sizes := by simp [Sys.useHeld]

@[simp] theorem collectiveStart_sizes (r idx : Nat) (d : Dev) : (collectiveStart r idx d).sys.sizes = d.sys.sizes := by
  unfold collectiveStart
  split
  · rfl
  · extract_lets a x g snap d1 d2
    have h1 : d1.sys.sizes = d.sys.sizes := (Sys.onSlot_sizes ..).trans (Sys.begin_sizes ..)
    clear_value d1
    have h2 : d2.sys.sizes = d.sys.sizes := by
      unfold d2
      split <;> simp [h1]
    split
    · exact (runAll_sys_sizes (fun y e => Dev.ingest_sizes ..) _ _).trans h2
    · rfl

@[simp] theorem Sys.dropColl_sizes (s : Sys) (g : Nat) : (s.dropColl g).sizes = s.sizes := by simp [Sys.dropColl]

@[simp] theorem Sys.postSeg_sizes (s : Sys) (g owner j : Nat) (c : Coll) (pay : List Byte) : (s.postSeg g owner j c pay).sizes = s.sizes :=
  (Sys.onColl_sizes ..).trans (Sys.onFab_of_sizes fun _ => rfl)

@[simp] theorem Dev.eitherOf_sizes (d : Dev) (snap : List Byte) (off : Nat) (now : List Byte) :
    (d.eitherOf snap off now).1.sys.sizes = d.sys.sizes := by
  simp only [Dev.eitherOf]
  split <;> simp

@[simp] theorem Dev.errBlend_sizes (d : Dev) (snap : List Byte) (off : Nat) (now new : List Byte) :
    (d.errBlend snap off now new).1.sys.sizes = d.sys.sizes := by
  simp only [Dev.errBlend]
  split <;> simp

@[simp] theorem segmentSend_sizes (g owner : Nat) (d : Dev) : (segmentSend g owner d).sys.sizes = d.sys.sizes := by
  unfold segmentSend
  split
  · rfl
  · dsimp only
    split
    · split
      · split <;> simp
      · split
        · simp
        · split
          · split <;> simp
          · simp
    · rfl

@[simp] theorem budgetExpiry_sizes (g : Nat) (d : Dev) : (budgetExpiry g d).sys.sizes = d.sys.sizes := by
  unfold budgetExpiry
  split <;> simp

@[simp] theorem collectiveStalled_sizes (g : Nat) (s : Sys) : (collectiveStalled g s).sizes = s.sizes := by
  unfold collectiveStalled
  split <;> simp

@[simp] theorem collectiveComplete_sizes (g : Nat) (d : Dev) : (collectiveComplete g d).sys.sizes = d.sys.sizes := by
  unfold collectiveComplete
  split <;> simp

/-! ### Resets of partitions -/

@[simp] theorem storeSome_sizes (x : PStore) (d : Dev) : (storeSome x d).sys.sizes = d.sys.sizes := by
  unfold storeSome
  (repeat' split) <;> simp

@[simp] theorem Dev.freeContext_sizes (d : Dev) (p r : Nat) : (d.freeContext p r).sys.sizes = d.sys.sizes := by
  simp [Dev.freeContext, copySome, Sys.endOps, Sys.discardReq]

@[simp] theorem Sys.reportKill_sizes (s : Sys) (k : Kill) (inReset : Bool) : (s.reportKill k inReset).sizes = s.sizes := by simp [Sys.reportKill]

@[simp] theorem killComplete_sizes (r : Nat) (d : Dev) : (killComplete r d).sys.sizes = d.sys.sizes := by
  unfold killComplete
  split <;> simp [Sys.killEpoch]

@[simp] theorem Dev.startReset_sizes (d : Dev) (p : Nat) : (d.startReset p).sys.sizes = d.sys.sizes := by
  simp [Dev.startReset, Sys.resetStep1, Dev.resetStep2, Dev.resetStep3, Sys.resetEpoch, Sys.resetStep4]

@[simp] theorem Sys.remapEvent_sizes (s : Sys) (core action old new : Nat) : (s.remapEvent core action old new).sizes = s.sizes := by
  unfold Sys.remapEvent
  split <;> simp

@[simp] theorem Sys.action_sizes (s : Sys) (what core slot : Nat) : (s.action what core slot).sizes = s.sizes := by simp [Sys.action]

@[simp] theorem Sys.takeSite_sizes (s : Sys) (core : Nat) : (s.takeSite core).sizes = s.sizes := by
  refine (Sys.action_sizes ..).trans ((Sys.onCore_sizes ..).trans ((Sys.onBring_of_sizes fun b => ?_).trans (by simp)))
  cases h : b.assignment <;> simp [BringUp.sizes, h]

@[simp] theorem partitionResetApply_sizes (p : Nat) (d : Dev) : (partitionResetApply p d).sys.sizes = d.sys.sizes := by
  unfold partitionResetApply
  dsimp only
  (repeat' split) <;> simp [Sys.zeroCounts]

/-! ### Faults and repairs -/

@[simp] theorem Sys.stopUnit_sizes (s : Sys) (u inst : Nat) : (s.stopUnit u inst).sizes = s.sizes := by simp [Sys.stopUnit]

@[simp] theorem maskedFault_sizes (u inst : Nat) (failed : Bool) (d : Dev) : (maskedFault u inst failed d).sys.sizes = d.sys.sizes := by
  simp [maskedFault]

@[simp] theorem maskedSummary_sizes (u : Nat) (s : Sys) : (maskedSummary u s).sizes = s.sizes := by simp [maskedSummary]

@[simp] theorem mgmtStop_sizes (s : Sys) : (mgmtStop s).sizes = s.sizes := by
  unfold mgmtStop
  split
  · exact (Sys.onBring_of_sizes fun b => by split <;> rfl).trans (by simp)
  · rfl

@[simp] theorem Sys.datapathError_sizes (s : Sys) (f : FaultIn) : (s.datapathError f).sizes = s.sizes := by
  unfold Sys.datapathError
  dsimp only
  split <;> simp

@[simp] theorem Sys.attributed_sizes (s : Sys) (f : FaultIn) : (s.attributed f).sizes = s.sizes := by
  unfold Sys.attributed
  split <;> simp

@[simp] theorem Sys.packetLost_sizes (s : Sys) (u inst : Nat) (p : Pkt) : (s.packetLost u inst p).sizes = s.sizes := by
  unfold Sys.packetLost
  split <;> simp

@[simp] theorem Sys.loseAtRouter_sizes (s : Sys) (u k : Nat) : (s.loseAtRouter u k).sizes = s.sizes := by
  unfold Sys.loseAtRouter
  split <;> simp [creditBack_length]

@[simp] theorem Sys.loseAtExecutor_sizes (s : Sys) (st : Nat) : (s.loseAtExecutor st).sizes = s.sizes := by
  unfold Sys.loseAtExecutor
  split <;> simp

@[simp] theorem Dev.memFault_sizes (d : Dev) (f : FaultIn) : (d.memFault f).sys.sizes = d.sys.sizes := by
  unfold Dev.memFault
  (repeat' split) <;> simp

@[simp] theorem detectedFault_sizes (f : FaultIn) (d : Dev) : (detectedFault f d).sys.sizes = d.sys.sizes := by
  simp [detectedFault, Sys.arrayFault, Sys.railFault, Sys.clockFault]

end Sys2Proof.Machine
end

section
/-! PROOF. Sizes of the tables, part 5: repairs, the debug port, ODP and the written objects leave the sizes as they are. -/

namespace Sys2Proof.Machine

open Sys2Proof

/-! ### Faults and repairs -/

@[simp] theorem Sys.quarantineCore_sizes (s : Sys) (core slot : Nat) : (s.quarantineCore core slot).sizes = s.sizes := by simp [Sys.quarantineCore]

@[simp] theorem Sys.setRemap_sizes (s : Sys) (core : Nat) (r : Remap) : (s.setRemap core r).sizes = s.sizes := by simp [Sys.setRemap]

@[simp] theorem Sys.setRecord_sizes (s : Sys) (core site : Nat) : (s.setRecord core site).sizes = s.sizes := by simp [Sys.setRecord]

@[simp] theorem Sys.power_sizes (s : Sys) (site : Nat) (on : Bool) : (s.power site on).sizes = s.sizes := by simp [Sys.power]

@[simp] theorem Sys.remapReady_sizes (s : Sys) (core : Nat) (r : Remap) : (s.remapReady core r).sizes = s.sizes := by simp [Sys.remapReady]

@[simp] theorem Sys.remapApply_sizes (s : Sys) (b : List Byte) (slot : Nat) : (s.remapApply b slot).sizes = s.sizes := by simp [Sys.remapApply]

@[simp] theorem remapTest_sizes (core result : Nat) (s : Sys) : (remapTest core result s).sizes = s.sizes := by
  unfold remapTest
  dsimp only
  (repeat' split) <;> simp

@[simp] theorem Sys.sampleAgeing_sizes (s : Sys) (a : AgeingReading) : (s.sampleAgeing a).sizes = s.sizes := by simp [Sys.sampleAgeing]

@[simp] theorem ageingSample_sizes (a : AgeingReading) (s : Sys) : (ageingSample a s).sizes = s.sizes := by simp [ageingSample]

/-! ### Images, sealing and the debug port -/

@[simp] theorem Sys.programImage_sizes (s : Sys) (b : List Byte) : (s.programImage b).sizes = s.sizes := by simp [Sys.programImage]

@[simp] theorem Sys.activateApply_sizes (s : Sys) (k slot : Nat) : (s.activateApply k slot).sizes = s.sizes := by simp [Sys.activateApply]

@[simp] theorem Sys.newChallenge_sizes (s : Sys) : s.newChallenge.sizes = s.sizes := by simp [Sys.newChallenge]

@[simp] theorem Sys.bypass_sizes (s : Sys) (tdi : Bool) : (s.bypass tdi).sizes = s.sizes := by simp [Sys.bypass]

@[simp] theorem tapBypass_sizes (tdi : Bool) (s : Sys) : (tapBypass tdi s).sizes = s.sizes := by simp [tapBypass]

@[simp] theorem tapIdcode_sizes (s : Sys) : (tapIdcode s).sizes = s.sizes := by simp [tapIdcode]

@[simp] theorem samplePreload_sizes (pins preload : Nat) (s : Sys) : (samplePreload pins preload s).sizes = s.sizes := by simp [samplePreload]

@[simp] theorem tapExtest_sizes (pins : Nat) (s : Sys) : (tapExtest pins s).sizes = s.sizes := by simp [tapExtest]

@[simp] theorem mgmtHalt_sizes (halt : Bool) (s : Sys) : (mgmtHalt halt s).sizes = s.sizes := by simp [mgmtHalt]

@[simp] theorem mgmtMem_sizes (wr : Bool) (addr data : Nat) (s : Sys) : (mgmtMem wr addr data s).sizes = s.sizes := by simp [mgmtMem]

@[simp] theorem siteScan_sizes (site segment : Nat) (s : Sys) : (siteScan site segment s).sizes = s.sizes := by simp [siteScan]

/-! ### ODP sessions -/

@[simp] theorem Sys.sent_sizes (s : Sys) (iface dst dport : Nat) (frame : List Byte) : (s.sent iface dst dport frame).sizes = s.sizes := by
  simp [Sys.sent]

@[simp] theorem Sys.answer_sizes (s : Sys) (k seq op flags : Nat) (payload : List Byte) : (s.answer k seq op flags payload).sizes = s.sizes := by
  simp [Sys.answer]

@[simp] theorem Sys.respond_sizes (s : Sys) (k : Nat) (r : OdpReq) (op a sub : Nat) : (s.respond k r op a sub).sizes = s.sizes := by
  simp [Sys.respond]

@[simp] theorem Sys.discard_sizes (s : Sys) : s.discard.sizes = s.sizes := by simp [Sys.discard]

theorem Dev.request_sizes {r : OdpReq} {op : Nat} {f : Nat → Dev → Dev} (h : ∀ k x, (f k x).sys.sizes = x.sys.sizes) (d : Dev) :
    (d.request r op f).sys.sizes = d.sys.sizes := by
  unfold Dev.request
  dsimp only
  split
  · split
    · simp
    · split_ifs <;> simp [h]
  · rfl

@[simp] theorem Sys.endSession_sizes (k : Nat) (s : Sys) : (Sys.endSession k s).sizes = s.sizes := by simp [Sys.endSession]

@[simp] theorem Sys.endSessions_sizes (s : Sys) (p : Session → Bool) : (s.endSessions p).sizes = s.sizes := by simp [Sys.endSessions]

@[simp] theorem Sys.challenge_sizes (s : Sys) (k keySlot : Nat) (o : OpenReq) : (s.challenge k keySlot o).sizes = s.sizes := by simp [Sys.challenge]

@[simp] theorem odpOpen_sizes (o : OpenReq) (s : Sys) : (odpOpen o s).sizes = s.sizes := by
  unfold odpOpen
  (repeat' split) <;> simp [Sys.refuseOpen]

@[simp] theorem odpProve_sizes (p : ProveReq) (s : Sys) : (odpProve p s).sizes = s.sizes := by
  unfold odpProve
  (repeat' split) <;> simp

@[simp] theorem closeRequest_sizes (r : OdpReq) (k : Nat) (d : Dev) : (closeRequest r k d).sys.sizes = d.sys.sizes := by simp [closeRequest]

@[simp] theorem sessionIdle_sizes (k : Nat) (s : Sys) : (sessionIdle k s).sizes = s.sizes := by simp [sessionIdle]

@[simp] theorem datagramDiscard_sizes (iface : Nat) (s : Sys) : (datagramDiscard iface s).sizes = s.sizes := by simp [datagramDiscard]

/-! ### The block manager's acts -/

@[simp] theorem Sys.bmAct_sizes (s : Sys) (code member port abort : Nat) : (s.bmAct code member port abort).sizes = s.sizes := by
  simp [Sys.bmAct]

@[simp] theorem Sys.ask_sizes (s : Sys) (r : BmReq) : (s.ask r).1.sizes = s.sizes := by
  simp [Sys.ask]

@[simp] theorem Sys.askAll_sizes (s : Sys) (l : List BmReq) : (s.askAll l).1.sizes = s.sizes := by
  induction l generalizing s with
  | nil => rfl
  | cons r l ih =>
    simp only [Sys.askAll]
    split <;> simp [ih]

@[simp] theorem Sys.onView_sizes (s : Sys) (member port : Nat) (g : PortView → PortView) : (s.onView member port g).sizes = s.sizes := by
  simp [Sys.onView]

@[simp] theorem Sys.acceptNarrow_sizes (member : Nat) (a : PollAnswer) (s : Sys) : (Sys.acceptNarrow member a s).sizes = s.sizes := by
  simp [Sys.acceptNarrow]

@[simp] theorem Sys.withdrawPort_sizes (member : Nat) (p : Nat) (s : Sys) : (Sys.withdrawPort member p s).sizes = s.sizes := by
  unfold Sys.withdrawPort
  dsimp only
  (repeat' split) <;> simp

@[simp] theorem Sys.withdrawFailed_sizes (member : Nat) (a : PollAnswer) (s : Sys) : (Sys.withdrawFailed member a s).sizes = s.sizes := by
  simp [Sys.withdrawFailed]

@[simp] theorem Sys.remapFailed_sizes (member : Nat) (a : PollAnswer) (s : Sys) : (Sys.remapFailed member a s).sizes = s.sizes := by
  simp only [Sys.remapFailed]
  split
  · rfl
  · refine runAll_sizes (fun c x => ?_) _ _
    split
    · split <;> split <;> simp
    · rfl

@[simp] theorem Sys.masksWritten_sizes (s : Sys) (masks : List ((Nat × Nat) × (Nat × Nat))) : (s.masksWritten masks).sizes = s.sizes := by
  simp [Sys.masksWritten]

@[simp] theorem Sys.spliceFails_sizes (s : Sys) (member abort : Nat) : (s.spliceFails member abort).sizes = s.sizes := by simp [Sys.spliceFails]

@[simp] theorem Sys.postCircuits_sizes (s : Sys) (ends : List ((Nat × Nat × Nat) × (Nat × Nat × Nat))) :
    (s.postCircuits ends).1.sizes = s.sizes :=
  List.foldlRecOn (motive := fun x : Sys × List Nat => x.1.sizes = s.sizes) ends _ rfl fun x hx e _ => by simp [hx]

@[simp] theorem Sys.deviceFailed_sizes (member : Nat) (s : Sys) : (Sys.deviceFailed member s).sizes = s.sizes := by
  unfold Sys.deviceFailed
  split
  · rfl
  · split
    · rfl
    · dsimp only
      split <;> simp

@[simp] theorem Sys.spliceEnds_sizes (s : Sys) : s.spliceEnds.sizes = s.sizes := by
  simp [Sys.spliceEnds]

@[simp] theorem Sys.spliceConnect_sizes (s : Sys) (sp : Splice) : (s.spliceConnect sp).sizes = s.sizes := by
  unfold Sys.spliceConnect
  dsimp only
  split <;> simp

@[simp] theorem Sys.spliceRoutes_sizes (s : Sys) (sp : Splice) : (s.spliceRoutes sp).sizes = s.sizes := by
  unfold Sys.spliceRoutes
  dsimp only
  split <;> simp

@[simp] theorem Sys.circuitAck_sizes (s : Sys) (seq status : Nat) : (s.circuitAck seq status).sizes = s.sizes := by
  unfold Sys.circuitAck
  dsimp only
  split <;> simp

@[simp] theorem Sys.spliceGoOn_sizes (s : Sys) (sp : Splice) : (s.spliceGoOn sp).sizes = s.sizes := by simp [Sys.spliceGoOn]

@[simp] theorem spliceTimeout_sizes (s : Sys) : (spliceTimeout s).sizes = s.sizes := by
  unfold spliceTimeout
  split <;> simp

/-! ### Objects as read -/

@[simp] theorem readRequest_sizes (r : OdpReq) (k : Nat) (d : Dev) : (readRequest r k d).sys.sizes = d.sys.sizes := by
  unfold readRequest
  split <;> simp

@[simp] theorem readBlockRequest_sizes (r : OdpReq) (k : Nat) (d : Dev) : (readBlockRequest r k d).sys.sizes = d.sys.sizes := by
  unfold readBlockRequest
  split <;> simp [Sys.segmentOut]

/-! ### Commits -/

@[simp] theorem Sys.setPending_sizes (s : Sys) (i : Nat) (p : Pending) : (s.setPending i p).sizes = s.sizes := by simp [Sys.setPending]

@[simp] theorem Sys.takeValues_sizes (s : Sys) (vs : List (Nat × List Byte)) : (s.takeValues vs).sizes = s.sizes := by simp [Sys.takeValues]

@[simp] theorem Dev.commit6110_sizes (d : Dev) (old : Nat) : (d.commit6110 old).sys.sizes = d.sys.sizes := by simp [Dev.commit6110]

@[simp] theorem Dev.commitSlot_sizes (old : List (List Byte)) (ranks : List (List Nat)) (g : Nat) (d : Dev) :
    (Dev.commitSlot old ranks g d).sys.sizes = d.sys.sizes := by simp [Dev.commitSlot]

@[simp] theorem Dev.commitPart_sizes (sets : List (Nat × PartSet)) (d : Dev) : (Dev.commitPart sets d).sys.sizes = d.sys.sizes := by
  simp [Dev.commitPart]

@[simp] theorem Dev.commitApply_sizes (d : Dev) (slot i : Nat) : (d.commitApply slot i).sys.sizes = d.sys.sizes := by simp [Dev.commitApply]

/-! ### Acts of written objects -/

@[simp] theorem Sys.unlock_sizes (s : Sys) (k : Nat) : (s.unlock k).sizes = s.sizes := by simp [Sys.unlock]

@[simp] theorem Sys.clearSets_sizes (s : Sys) (p mask : Nat) : (s.clearSets p mask).sizes = s.sizes := by simp [Sys.clearSets]

@[simp] theorem Sys.setThresholds_sizes (s : Sys) (p : Nat) (v : List Byte) : (s.setThresholds p v).sizes = s.sizes := by simp [Sys.setThresholds]

@[simp] theorem Sys.reject_sizes (s : Sys) (k : Nat) (r : OdpReq) (v : List Byte) (code sub : Nat) : (s.reject k r v code sub).sizes = s.sizes := by
  simp [Sys.reject, Sys.noteReject]

@[simp] theorem Sys.clearBlock_sizes (s : Sys) (k : Nat) : (s.clearBlock k).sizes = s.sizes := by simp [Sys.clearBlock]

/-! ### The journal -/

@[simp] theorem Sys.journalReject_sizes (s : Sys) (j : JPending) (a : Nat) : (s.journalReject j a).sizes = s.sizes := by simp [Sys.journalReject]

@[simp] theorem Sys.flashFails_sizes (s : Sys) : s.flashFails.sizes = s.sizes := by simp [Sys.flashFails]

@[simp] theorem Sys.otherArea_sizes (s : Sys) : s.otherArea.sizes = s.sizes := by simp [Sys.otherArea]

end Sys2Proof.Machine
end

section
/-! PROOF. Sizes of the tables, part 6: the commands that may change them. -/

namespace Sys2Proof.Machine

open Sys2Proof

variable {s t u : Sys} {d : Dev}

theorem Sys.Keeps.sizes (h : s.Keeps t) (e : u.sizes = t.sizes) : s.Keeps u := h.trans (.of_sizes e)

theorem Sys.Keeps.ite {c : Prop} [Decidable c] {a b : Dev} (ha : s.Keeps a.sys) (hb : s.Keeps b.sys) :
    s.Keeps (if c then a else b).sys := by
  split
  · exact ha
  · exact hb

theorem Sys.Keeps.lift {f : Sys → Sys} (h : s.Keeps d.sys) (hf : ∀ x, (f x).sizes = x.sizes) : s.Keeps (liftSys f d).sys := h.sizes (hf _)

/-! ### Resets and the supply -/

theorem DictState.afterReset_sessions (x : DictState) (w : Bool) (n : Nat) : (x.afterReset w n).sessions = DictState.reset.sessions := by
  unfold DictState.afterReset
  dsimp only

/-- A device reset gives every table its reset size again; the assignment record is in flash. -/
theorem Dev.deviceReset_keeps (d : Dev) : d.sys.Keeps d.deviceReset.sys := by
  refine ⟨fun h => ?_, fun _ => PowerState.reset_stepsOk⟩
  obtain ⟨h1, h2, h3, h4, h5, h6, h7, h8, h9, h10, h11, h12, h13, h14, h15, h16, h17, h18, h19, h20, h21, h22, h23, h24⟩ := Sys.reset_sized
  obtain ⟨-, -, -, -, -, -, -, -, -, -, -, -, -, -, -, k16, -, -, k19, -, k21, k22, -, -⟩ := h
  exact ⟨h1, h2, h3, h4, h5, h6, h7, h8, h9, h10, h11, h12,
    (congrArg List.length (DictState.afterReset_sessions ..)).trans h13, h14, h15, k16, h17, h18, k19, rfl, k21, k22, h23, h24⟩

theorem Dev.powerLoss_keeps (d : Dev) : d.sys.Keeps d.powerLoss.sys := by
  refine ⟨fun h => ?_, fun _ => PowerState.reset_stepsOk⟩
  obtain ⟨h1, h2, h3, h4, h5, h6, h7, h8, h9, h10, h11, h12, h13, h14, h15, h16, h17, h18, -, -, -, h22, -, -⟩ := d.deviceReset_keeps.1 h
  exact ⟨h1, h2, h3, h4, h5, h6, h7, h8, h9, h10, h11, h12, h13, h14, h15, h16, h17, h18, rfl, rfl, rfl, h22, rfl, rfl⟩

theorem Dev.startUp_keeps (d : Dev) : d.sys.Keeps d.startUp.sys :=
  d.deviceReset_keeps.sizes (by simp [Dev.startUp])

theorem vin48Under_keeps (mv : Nat) : d.sys.Keeps (vin48Under mv d).sys := .ite d.powerLoss_keeps (.refl _)

theorem vin48Over_keeps (mv : Nat) : d.sys.Keeps (vin48Over mv d).sys := .ite (d.powerLoss_keeps.lift (by simp)) (.refl _)

theorem alwaysOn_keeps : d.sys.Keeps (alwaysOn d).sys := by
  have h : d.sys.Keeps (liftSys (fun s => s.onPower fun p => { p with rails := true }) d).sys := (Sys.Keeps.refl _).lift (by simp)
  exact .ite (.ite h (h.trans (Dev.startUp_keeps _))) (.refl _)

theorem resetNLow_keeps (ns : Nat) : d.sys.Keeps (resetNLow ns d).sys := by
  have h : d.sys.Keeps (liftSys (fun s => s.drew 1) d).sys := .of_sizes rfl
  exact .ite (.lift (.ite (h.trans (Dev.deviceReset_keeps _)) h) (by simp)) h

theorem resetNRise_keeps (slot boot : Nat) : d.sys.Keeps (resetNRise slot boot d).sys := by
  have h : d.sys.Keeps (liftSys (fun s => s.onPower fun p => { p with resetLow := false }) d).sys := (Sys.Keeps.refl _).lift (by simp)
  have k := h.lift (f := fun s => s.onPower fun p => p.sample slot boot) (by simp [PowerState.sample])
  exact .ite (.ite (.ite (k.trans (Dev.startUp_keeps _)) k) h) (.refl _)

/-! ### The throttle steps -/

theorem Sys.onPower_keeps {f : PowerState → PowerState} (hu : (f s.mgmt.power).lineUp.length = s.mgmt.power.lineUp.length)
    (hl : (f s.mgmt.power).laserLoss.length = s.mgmt.power.laserLoss.length)
    (hh : (f s.mgmt.power).laserHeld.length = s.mgmt.power.laserHeld.length)
    (hs : s.mgmt.power.StepsOk → (f s.mgmt.power).StepsOk) : s.Keeps (s.onPower f) := by
  refine ⟨fun h => ?_, hs⟩
  simpa only [Sys.Sized, Sys.onPower, hu, hl, hh] using h

theorem Sys.capSample_keeps (s : Sys) (mw : Nat) : s.Keeps (s.capSample mw) := by
  unfold Sys.capSample
  dsimp only
  split
  · exact .refl _
  · split
    next hc =>
      refine Sys.onPower_keeps rfl rfl rfl fun ⟨h1, h2, h3, h4⟩ => ⟨?_, ?_, h3, h4⟩
      · exact Nat.le_sub_one_of_lt hc
      · exact (Nat.sub_le _ _).trans h2
    · refine .of_sizes ?_
      split <;> simp

theorem powerSample_keeps (r : PowerReading) (s : Sys) : s.Keeps (powerSample r s) := by
  unfold powerSample
  split
  · refine Sys.Keeps.trans ?_ (Sys.capSample_keeps _ _)
    refine Sys.onPower_keeps rfl rfl rfl fun ⟨h1, h2, h3, h4⟩ => ⟨h1, h2, ?_, ?_⟩ <;> dsimp only <;> split <;> omega
  · exact .refl _

theorem raiseWindow_keeps (s : Sys) : s.Keeps (raiseWindow s) := by
  unfold raiseWindow
  extract_lets p cap hot low s1
  split
  · have h : s.Keeps s1 := by
      refine Sys.onPower_keeps rfl rfl rfl fun ⟨h1, h2, h3, h4⟩ => ⟨?_, ?_, ?_, ?_⟩ <;> dsimp only <;> split <;> omega
    split
    · exact h.sizes (by simp)
    · exact h
  · exact .refl _

/-! ### The assignment of numbers to sites -/

theorem Assign.keep_length (l : List Nat) (n : Nat) (a : Assign) : (a.keep l n).sites.length = a.sites.length := by
  simp only [Assign.keep]
  split <;> simp

theorem Assign.takeLow_length (a : Assign) (n : Nat) : (a.takeLow n).sites.length = a.sites.length := by
  simp [Assign.takeLow]

theorem Sys.fillNumber_keeps (l : Option (List Nat)) (n : Nat) (x : Assign × Sys) :
    (Sys.fillNumber l n x).1.sites.length = x.1.sites.length ∧ (Sys.fillNumber l n x).2.sizes = x.2.sizes := by
  unfold Sys.fillNumber
  split
  · exact ⟨rfl, rfl⟩
  · split
    · split <;> simp [Assign.takeLow_length]
    · split <;> simp [Assign.takeLow_length]

theorem Sys.siteResults_sizes (row c : Nat) (l : List SiteReading) (s : Sys) : (Sys.siteResults row c l s).sizes = s.sizes := by
  induction l generalizing c s with
  | nil => rfl
  | cons x l ih => exact (ih _ _).trans (by simp)

theorem Sys.onBring_keeps {f : BringUp → BringUp} (hr : (f s.mgmt.bring).results.length = s.mgmt.bring.results.length)
    (hc : s.mgmt.bring.coreMap.length = 144 → (f s.mgmt.bring).coreMap.length = 144)
    (ha : s.mgmt.bring.coreMap.length = 144 → (∀ l, s.mgmt.bring.assignment = some l → l.length = 144) →
      ∀ l, (f s.mgmt.bring).assignment = some l → l.length = 144)
    (hd : (f s.mgmt.bring).stackDone.length = s.mgmt.bring.stackDone.length)
    (hn : (f s.mgmt.bring).stackReason.length = s.mgmt.bring.stackReason.length) : s.Keeps (s.onBring f) := by
  refine ⟨fun h => ?_, id⟩
  obtain ⟨h1, h2, h3, h4, h5, h6, h7, h8, h9, h10, h11, h12, h13, h14, h15, h16, h17, h18, h19⟩ := h
  exact ⟨h1, h2, h3, h4, h5, h6, h7, h8, h9, h10, h11, h12, h13, hr.trans h14, hc h15, ha h15 h16, hd.trans h17, hn.trans h18, h19⟩

theorem Assign.keeps_length (o : Option (List Nat)) (a : Assign) :
    (match o with
      | some l => runAll (Assign.keep l) (List.range 144) a
      | none => a).sites.length = a.sites.length := by
  split
  · exact runAll_keeps _ (fun a : Assign => a.sites.length) (fun n a => a.keep_length _ n) _ _
  · rfl

theorem Sys.fillNumbers_keeps {o : Option (List Nat)} {ns : List Nat} {a : Assign} {s : Sys} {x : Assign × Sys}
    (h : x = runAll (Sys.fillNumber o) ns (a, s)) : x.1.sites.length = a.sites.length ∧ x.2.sizes = s.sizes :=
  h ▸ runAll_inv _ (fun y : Assign × Sys => y.1.sites.length = a.sites.length ∧ y.2.sizes = s.sizes)
    (fun n y hy => ⟨(Sys.fillNumber_keeps o n y).1.trans hy.1, (Sys.fillNumber_keeps o n y).2.trans hy.2⟩) _ _ ⟨rfl, rfl⟩

theorem Sys.assignNumbers_keeps (s : Sys) : s.Keeps s.assignNumbers := by
  unfold Sys.assignNumbers
  extract_lets again s1 rec_ passing a0 a x
  have h1 : s1.sizes = s.sizes := by
    simp only [s1]
    split <;> simp
  have ha : a.sites.length = 144 := (Assign.keeps_length rec_ a0).trans List.length_replicate
  obtain ⟨hn, hs⟩ := Sys.fillNumbers_keeps (x := x) rfl
  clear_value x
  exact (Sys.Keeps.of_sizes (hs.trans h1)).trans (Sys.onBring_keeps rfl (fun _ => hn.trans ha) (fun _ => id) rfl rfl)

theorem coreTestRow_keeps (row : Nat) (l : List SiteReading) (s : Sys) : s.Keeps (coreTestRow row l s) := by
  unfold coreTestRow
  split
  · extract_lets s1
    have h : s.Keeps s1 := .of_sizes (by simp [s1, Sys.siteResults_sizes])
    split
    · exact (h.trans s1.assignNumbers_keeps).sizes (by simp)
    · exact h
  · exact .refl _

theorem Sys.commitAssign_keeps (s : Sys) : s.Keeps s.commitAssign := by
  have h : s.Keeps (s.onBring fun b => { b with assignment := some b.coreMap }) :=
    Sys.onBring_keeps rfl id (fun hc _ l hl => Option.some.inj hl ▸ hc) rfl rfl
  refine h.sizes ?_
  unfold Sys.commitAssign
  dsimp only
  split <;> simp

/-- READY starts the counts again: the counts by unit get their reset size, all other tables keep theirs. -/
theorem Sys.startCounts_keeps (s : Sys) : s.Keeps s.startCounts := by
  refine ⟨fun h => ?_, id⟩
  obtain ⟨h1, h2, h3, h4, h5, h6, h7, h8, h9, h10, h11, h12, h13, h14, h15, h16, h17, h18, h19, h20, h21, h22, -, -⟩ := h
  refine ⟨h1, h2, (List.length_map _).trans h3, h4, (List.length_map _).trans h5, h6, h7, h8, h9, h10, h11, fun e he => ?_, h13, h14, h15, h16, h17,
    h18, h19, h20, h21, h22, rfl, rfl⟩
  obtain ⟨e', he', rfl⟩ := List.mem_map.mp he
  simpa using h12 e' he'

theorem coreAssign_keeps : d.sys.Keeps (coreAssign d).sys :=
  .ite ((d.sys.commitAssign_keeps.trans (Sys.startCounts_keeps _)).sizes (by simp)) (.refl _)

/-! ### The polls of a block manager -/

theorem Sys.onFab_missed_keeps {f : FabState → FabState} (hp : ∀ x, (f x).ports.length = x.ports.length)
    (hs : ∀ x, (f x).slots.length = x.slots.length) (he : ∀ x, (f x).epochs.length = x.epochs.length)
    (hr : ∀ x, (f x).replay.length = x.replay.length) (ho : ∀ x, (f x).observed.length = x.observed.length)
    (hm : ∀ x, x.missed.wf = true → (f x).missed.wf = true) : s.Keeps (s.onFab f) := by
  refine ⟨fun h => ?_, id⟩
  obtain ⟨h1, h2, h3, h4, h5, h6, h7, h8, h9, h10, h11⟩ := h
  exact ⟨h1, h2, h3, h4, (hp _).trans h5, (hs _).trans h6, (he _).trans h7, (hr _).trans h8, (ho _).trans h9, hm _ h10, h11⟩

theorem blockManagerPoll_keeps (member : Nat) (answer : Option PollAnswer) (s : Sys) : s.Keeps (blockManagerPoll member answer s) := by
  unfold blockManagerPoll
  split
  · split
    next a =>
      refine (Sys.onFab_missed_keeps (s := s) (f := fun f => { f with
          missed := NMap.set f.missed member 0, polls := assocSet f.polls member a, handled := f.handled.filter (fun m => m != member) })
        (fun _ => rfl) (fun _ => rfl) (fun _ => rfl) (fun _ => rfl) (fun _ => rfl) fun x => NMap.set_wf _ _).sizes ?_
      dsimp only
      split
      · split <;> simp
      · simp
    · refine (Sys.onFab_missed_keeps (s := s) (f := fun f => { f with
          missed := NMap.set f.missed member (NMap.get s.fab.missed member + 1) })
        (fun _ => rfl) (fun _ => rfl) (fun _ => rfl) (fun _ => rfl) (fun _ => rfl) fun x => NMap.set_wf _ _).sizes ?_
      dsimp only
      split <;> simp
  · exact .refl _

/-! ### Written objects -/

theorem Dev.debugOpening_keeps (d : Dev) (scope : Nat) (erased : Bool) : d.sys.Keeps (d.debugOpening scope erased).sys := by
  refine d.deviceReset_keeps.sizes ?_
  simp only [Dev.debugOpening, liftSys_sys, Sys.bringUpStart_sizes]
  split <;> simp

theorem Dev.requestReset_keeps (d : Dev) (k : Nat) : d.sys.Keeps (d.requestReset k).sys :=
  .lift (((Sys.Keeps.refl d.sys).lift (by simp)).trans (Dev.deviceReset_keeps _)) (by simp)

/-- A write to Reset starts the device again, an unlock token opens the debug port over a reset; no other write changes a size. -/
theorem Dev.objApply_keeps (d : Dev) (k : Nat) (r : OdpReq) (v : List Byte) (reading : Option AgeingReading) (erased : Bool) :
    d.sys.Keeps (d.objApply k r v reading erased).sys := by
  unfold Dev.objApply
  dsimp only
  split
  case h_8 =>
    split
    · exact .of_sizes (by simp)
    · exact .refl _
  case h_19 => exact Sys.Keeps.ite (d.requestReset_keeps k) (.refl _)
  case h_32 => exact ((Sys.Keeps.refl d.sys).lift (by simp)).trans (Dev.debugOpening_keeps _ _ _)
  all_goals exact .of_sizes (by simp)

theorem Dev.applyWrite_keeps (d : Dev) (k : Nat) (r : OdpReq) (v : List Byte) (reading : Option AgeingReading) (erased : Bool) :
    d.sys.Keeps (d.applyWrite k r v reading erased).sys := by
  unfold Dev.applyWrite
  extract_lets had d1 d2 d3 d4
  have h1 : d.sys.Keeps d1.sys := .ite (.of_sizes (by simp)) (.refl _)
  have h2 : d.sys.Keeps d2.sys := .ite (h1.lift (by simp)) h1
  have h3 : d.sys.Keeps d3.sys := .ite (h2.lift (by simp)) h2
  have h4 : d.sys.Keeps d4.sys := h3.trans (d3.objApply_keeps k r v reading erased)
  exact .ite (h4.lift (by simp)) h4

/-! ### Requests and the journal -/

theorem Dev.wholeWrite_keeps (d : Dev) (k : Nat) (r : OdpReq) (v : List Byte) (reading : Option AgeingReading) (erased : Bool) :
    d.sys.Keeps (d.wholeWrite k r v reading erased).sys := by
  have h := Sys.Keeps.refl d.sys
  unfold Dev.wholeWrite
  split
  · exact h.lift (by simp)
  · split
    · exact h.lift (by simp)
    · split
      · exact h.lift (by simp)
      · exact (h.lift (by simp)).trans (Dev.applyWrite_keeps ..)

theorem Dev.segmentIn_keeps (d : Dev) (k : Nat) (r : OdpReq) (off total : Nat) (reading : Option AgeingReading) (erased : Bool) :
    d.sys.Keeps (d.segmentIn k r off total reading erased).sys := by
  unfold Dev.segmentIn
  dsimp only
  split
  · exact (Sys.Keeps.refl d.sys).lift (by simp)
  · have h : d.sys.Keeps (Dev.sys (if off = 0 then liftSys (fun s => s.onSession k (fun x =>
        { x with wrKey := blockKey r.index r.sub, wrTotal := total, wrData := [] })) d else d)) := .ite (.of_sizes (by simp)) (.refl _)
    exact .ite (h.lift (by simp)) (.ite (h.lift (by simp)) ((h.lift (by simp)).trans (Dev.wholeWrite_keeps ..)))

theorem Dev.writeIn_keeps (r : OdpReq) (reading : Option AgeingReading) (erased : Bool) (d : Dev) :
    d.sys.Keeps (Dev.writeIn r reading erased d).sys := by
  unfold Dev.writeIn Dev.request
  dsimp only
  refine .ite ?_ (.refl _)
  split
  · exact .of_sizes (by simp)
  · refine .ite (.of_sizes (by simp)) (.ite (.of_sizes (by simp)) (.ite (.of_sizes (by simp)) (.ite ?_ (.of_sizes (by simp)))))
    split
    · exact d.wholeWrite_keeps ..
    · exact d.segmentIn_keeps ..

theorem Dev.execute_keeps (d : Dev) (g : Datagram) : d.sys.Keeps (d.execute g).sys := by
  cases g with
  | openReq o => exact .of_sizes (odpOpen_sizes ..)
  | prove p => exact .of_sizes (odpProve_sizes ..)
  | close r => exact .of_sizes (Dev.request_sizes (by simp) d)
  | read r => exact .of_sizes (Dev.request_sizes (by simp) d)
  | readBlock r => exact .of_sizes (Dev.request_sizes (by simp) d)
  | write r a e => exact Dev.writeIn_keeps r a e d

theorem Dev.arrive_keeps (g : Datagram) (d : Dev) : d.sys.Keeps (Dev.arrive g d).sys := by
  unfold Dev.arrive
  refine .ite ?_ (.refl _)
  split
  · exact (Sys.Keeps.lift (.refl _) (by simp)).trans (Dev.execute_keeps _ g)
  · exact .ite (.refl _) (.ite (.lift (.refl _) (by simp)) (.lift (.refl _) (by simp)))

theorem Dev.serveAll_keeps (l : List Datagram) (d : Dev) : d.sys.Keeps (Dev.serveAll l d).sys := by
  induction l generalizing d with
  | nil => exact .lift (.refl _) (by simp)
  | cons g l ih => exact .ite (.lift (.refl _) (by simp)) ((d.execute_keeps g).trans (ih _))

theorem Dev.writeRequest_keeps (w : WriteRow) (r : OdpReq) (a : Option AgeingReading) (e : Bool) (d : Dev) :
    d.sys.Keeps (Dev.writeRequest w r a e d).sys := .ite (Dev.arrive_keeps ..) (.refl _)

theorem Dev.recordEnds_keeps (n : Nat) (j : JPending) (d : Dev) : d.sys.Keeps (Dev.recordEnds n j d).sys := by
  have h := Sys.Keeps.refl d.sys
  refine .ite (h.lift (by simp)) (.ite (h.lift (by simp)) ((h.lift fun x => ?_).trans (Dev.applyWrite_keeps ..)))
  dsimp only
  split <;> simp

theorem journalValid_keeps (n : Nat) (d : Dev) : d.sys.Keeps (journalValid n d).sys := by
  unfold journalValid
  split
  · exact .refl _
  · exact .ite (.refl _) (((Sys.Keeps.lift (.refl _) (by simp)).trans (Dev.recordEnds_keeps ..)).trans (Dev.serveAll_keeps ..))

theorem journalCompaction_keeps (n : Nat) (d : Dev) : d.sys.Keeps (journalCompaction n d).sys := by
  have h := Sys.Keeps.refl d.sys
  unfold journalCompaction
  refine .ite (.ite ?_ (h.lift (by simp))) h
  split
  · exact (h.lift (by simp)).trans (Dev.serveAll_keeps ..)
  · exact h.lift (by simp)

end Sys2Proof.Machine
end

section
/-! PROOF. Sizes of the tables, part 7: every command (R52, R57). -/

namespace Sys2Proof.Machine

open Sys2Proof

variable {s t : State}

theorem onSys_keeps {f : Sys → Sys} (ht : onSys f s = .next t) (h : s.dev.sys.Keeps (f s.dev.sys)) : s.dev.sys.Keeps t.dev.sys := by
  cases ht
  exact h

theorem onDev_keeps {f : Dev → Dev} (ht : onDev f s = .next t) (h : s.dev.sys.Keeps (f s.dev).sys) : s.dev.sys.Keeps t.dev.sys := by
  cases ht
  exact h

theorem onRings_keeps {f : Dev → Dev} (ht : onRings f s = .next t) (h : s.dev.sys.Keeps (f s.dev).sys) : s.dev.sys.Keeps t.dev.sys :=
  onDev_keeps (f := fun d => (f d).syncRings) ht (h.sizes (Dev.syncRings_sizes _))

theorem onSys_sizes {f : Sys → Sys} (ht : onSys f s = .next t) (h : ∀ x, (f x).sizes = x.sizes) : s.dev.sys.Keeps t.dev.sys :=
  onSys_keeps ht (.of_sizes (h _))

theorem onDev_sizes {f : Dev → Dev} (ht : onDev f s = .next t) (h : ∀ d, (f d).sys.sizes = d.sys.sizes) : s.dev.sys.Keeps t.dev.sys :=
  onDev_keeps ht (.of_sizes (h _))

theorem onRings_sizes {f : Dev → Dev} (ht : onRings f s = .next t) (h : ∀ d, (f d).sys.sizes = d.sys.sizes) : s.dev.sys.Keeps t.dev.sys :=
  onRings_keeps ht (.of_sizes (h _))

/-- The instructions of the cores that change only their group, block and counters. -/
theorem issued_sizes {g : Gid} {run : Gid → Dev → Dev} (ht : onDev (issuePicked g run) s = .next t) (h : ∀ d, (run g d).sys.sizes = d.sys.sizes) :
    s.dev.sys.Keeps t.dev.sys :=
  onDev_sizes ht fun d => issuePicked_sizes (h d)

/-- Every command keeps the sizes and the range of the steps. The first cases are the commands that may change a size or a step; all others
leave every size as it was, but for the writes of objects, the last case. Where an effect is written out, `show` names its meaning. -/
theorem exec_keeps {c : Instr} (ht : exec c s = .next t) : s.dev.sys.Keeps t.dev.sys := by
  cases c with
  | vin48UndervoltageStop mv => exact onDev_keeps ht (vin48Under_keeps mv)
  | resetNLow ns => exact onDev_keeps ht (resetNLow_keeps ns)
  | resetNRise slot boot => exact onDev_keeps ht (resetNRise_keeps slot boot)
  | odpOpen | odpProve | odpClose | odpRead | odpReadBlock => exact onDev_keeps ht (Dev.arrive_keeps ..)
  | journalRecordValid => exact onRings_keeps ht (journalValid_keeps ..)
  | journalCompaction => exact onRings_keeps ht (journalCompaction_keeps ..)
  | alwaysOnRailsUp => exact onDev_keeps ht alwaysOn_keeps
  | coreAssignCommit => exact onDev_keeps ht coreAssign_keeps
  | coreTestRow => exact onSys_keeps ht (coreTestRow_keeps ..)
  | powerSample => exact onSys_keeps ht (powerSample_keeps ..)
  | raiseWindowEnd => exact onSys_keeps ht (raiseWindow_keeps _)
  | blockManagerPoll => exact onSys_keeps ht (blockManagerPoll_keeps ..)
  | vin48OvervoltageStop mv =>
    change (if 60000 < mv then _ else onDev (vin48Over mv) s) = _ at ht
    split at ht
    · cases ht
    · exact onDev_keeps ht (vin48Over_keeps mv)
  | sampleNow r a => exact onRings_keeps (show execSampleNow r a s = _ from ht) (.ite (Dev.writeRequest_keeps ..) (.refl _))
  | add | sub | mul | mulhi | mad | fma | min | max | and | or | xor | not | shl | shr | abs | neg | rcp | sqrt | div | ex2 | lg2 | sin | cos =>
    exact issued_sizes ht fun d => alu_sizes ..
  | popc | clz | cvt | setp | selp | plog | mov | movhi | rdsr | vote | shfl | bra | call | ret | exit | nop =>
    exact issued_sizes ht fun d => issueSys_sizes (by simp) _
  | fenceGrp | fenceBlk | fenceDev | fenceSys => exact issued_sizes ht fun d => fence_sizes ..
  | ldC | stC | blkJoin | atomC => exact issued_sizes ht fun d => issueDev_sizes (by simp) d
  | ldG | stG | atomG => exact issued_sizes ht fun d => issueG_sizes (by simp) d
  | dmaCs | arrWait | mxaIssue | mxaDrain | mxaWait | dqPush | dqTake | fabFence => exact issued_sizes ht fun d => issueCs_sizes (by simp) d
  | fabGet | fabPut | fabMput | fabRed | fabAtom | fabPutFlag => exact issued_sizes ht fun d => fab_sizes ..
  | helloReceive p x => exact onSys_sizes (show execHelloReceive p x s = _ from ht) (by simp)
  | ethPortState p up => exact onSys_sizes (show execEthPortState p up s = _ from ht) (by simp)
  | vin48Start | vin48OvervoltageClear | managementRailUp | thermalTrip | laserLineLoss | laserLineRestored
    | laserHoldExpiry | fwVerifyDone | clockStartDone | powerWave | odpDatagramDiscard | sessionIdleTimeout
    | operandRead | laneDispatch | resultWriteback | mxaOperationComplete | mxaDrainComplete | progressStalled | kettleTurnEnd
    | pushAccept | batchBudgetExpiry | voteBudgetExpiry | coordinatorBudgetExpiry | epochInDoubt | ctrlPacket | ctrlResend
    | lockComplete | alignComplete | negotiateComplete | verifyWindowEnd | trainingStateTimeout | dataFlitReceive | nullFlitReceive
    | trainFlitReceive | flitTransmit | linkReplayTimeout | signalLost | portDegraded | helloSend | fabricTimeout
    | collectiveStalled | frameReceive | pfcPauseReceive | pfcXoffRepeat | cnpReceive | rateIncrease | maskedSummary
    | remapTestComplete | ageingSample | tapBypass | samplePreload | tapExtest | mgmtHalt | mgmtMem | siteScan | stackTrainStepFailed
    | refclkValid | refclkLate | stackTrainTimeout | linkTrainDeadline | ownerVoteReceive | blockVoteReceive
    | spliceTrainingTimeout | mgmtStop | tapIdcode => exact onSys_sizes ht (by simp)
  | stackTrained | dmaCopyComplete | sliceMissFill | sliceStoreAccept | scrubLine | targetRed | targetAtom | takeClaim | getPacket | putPacket
    | flagPacket | mputPacket | redPacket | atomPacket | combinedPacket | eventRingPoll | rdmaWriteReceive | rdmaReadRequest | maskedFault
    | eventRecordWrite => exact onDev_sizes ht (by simp)
  | gemvDescriptorComplete id => exact onRings_sizes (show execGemvDescriptorComplete id s = _ from ht) (Dev.finishTask_sizes (by simp))
  | scalePassDescriptorComplete id => exact onRings_sizes (show execScalePassDescriptorComplete id s = _ from ht) (Dev.finishTask_sizes (by simp))
  | updateDescriptorComplete id => exact onRings_sizes (show execUpdateDescriptorComplete id s = _ from ht) (Dev.finishTask_sizes (by simp))
  | rootAttempt id => exact onRings_sizes (show execRootAttempt id s = _ from ht) (Dev.finishTask_sizes (by simp))
  | doorbellNotice r => exact onRings_sizes (show execDoorbellNotice r s = _ from ht) (by simp)
  | eventWaitSample r => exact onRings_sizes (show execEventWaitSample r s = _ from ht) (by simp)
  | launch | blockEnd | decodeClose | takeHeaderWrite | copyHostRead | publishComplete | invalidRequest | rdmaRetransmitTimeout
    | fenceRing | fencePartition | completionRecordWrite | blockPlace | killComplete | kettleDescriptorStart | gemvList | copyScalePass
    | decodeOpen | copyLocal | copyFabric | copyHostWrite | updateStep | updatePublish | updateStart | packetRoute | dataReply | ackReply
    | resultReply | nakReply | resendDelayExpiry | collective | collectiveStart | segmentSend | segmentIngress | allGatherSegment
    | stragglerBudgetExpiry | collectiveComplete | partitionResetApply | sendReceive | commandRead | commandStart | eventSignal | eventWait
    | detectedFault | rdmaResponseReceive | decisionReceive | doorbellPoll => exact onRings_sizes ht (by simp)
  | _ => exact onRings_keeps ht (Dev.writeRequest_keeps ..)

theorem step_keeps (ht : step s = .next t) : s.dev.sys.Keeps t.dev.sys := by
  unfold step at ht
  split at ht
  · cases ht
    exact .of_sizes (Sys.tick_sizes _)
  next rest _ => exact exec_keeps (s := { s with pending := rest }) ht

/-- Settles O34: every command, and an idle step, keeps the sizes of the tables and the range of both throttle steps (R52, R57). -/
theorem sizesAndStepsStay : Obligations.SizesAndStepsStay :=
  ⟨fun _ _ h ht => (step_keeps ht).1 h, fun _ _ h ht => (step_keeps ht).2 h⟩

end Sys2Proof.Machine
end

section
/-! PROOF. The core tests of bring-up, the power waves and the commit of the assignment (R103, R107, R108, R111, R120). -/

namespace Sys2Proof.Machine

open Sys2Proof

/-! ### A row's results (R103) -/

theorem nth_setNth (l : List Nat) (i j x : Nat) : nth (setNth l i x) j = if i = j ∧ j < l.length then x else nth l j :=
  setNth_getD l i j x 0

/-- The result recorded for a site: the one read, or 0 where the manufacturing record does not list the site as good. -/
def BringUp.siteResult (b : BringUp) (site : Nat) (x : SiteReading) : Nat := if b.good.getD site false then x.result else 0

theorem Sys.siteResult_unlogged (row c : Nat) (x : SiteReading) (s : Sys) : (s.siteResult row c x).unlogged =
    s.unlogged.onBring (fun b => { b with results := setNth b.results (10 * row + c) (b.siteResult (10 * row + c) x) }) := by
  simp only [Sys.siteResult, apply_ite Sys.unlogged, Sys.disc_unlogged, ite_self]
  rfl

/-- Discrepancies apart, a row's test changes the results alone, and of these the sites of the list from column `c`. -/
theorem Sys.siteResults_unlogged (row : Nat) (l : List SiteReading) (c : Nat) (s : Sys)
    (h : 10 * row + c + l.length ≤ s.mgmt.bring.results.length) :
    ∃ rs, (s.siteResults row c l).unlogged = s.unlogged.onBring (fun b => { b with results := rs })
      ∧ (∀ i, i < 10 * row + c ∨ 10 * row + c + l.length ≤ i → nth rs i = nth s.mgmt.bring.results i)
      ∧ ∀ k < l.length, nth rs (10 * row + c + k) = s.mgmt.bring.siteResult (10 * row + c + k) (l.getD k ⟨0, 0⟩) := by
  induction l generalizing c s with
  | nil => exact ⟨s.mgmt.bring.results, rfl, fun _ _ => rfl, fun k hk => absurd hk (Nat.not_lt_zero k)⟩
  | cons x l ih =>
    have hx := s.siteResult_unlogged row c x
    have hres : (s.siteResult row c x).mgmt.bring.results
        = setNth s.mgmt.bring.results (10 * row + c) (s.mgmt.bring.siteResult (10 * row + c) x) := (congrArg (·.mgmt.bring.results) hx :)
    have hgood : (s.siteResult row c x).mgmt.bring.siteResult = s.mgmt.bring.siteResult := (congrArg (·.mgmt.bring.siteResult) hx :)
    rw [List.length_cons] at h ⊢
    obtain ⟨rs, hrs, hout, hin⟩ := ih (c + 1) (s.siteResult row c x) (by rw [hres, setNth_length]; omega)
    refine ⟨rs, ?_, fun i hi => ?_, fun k hk => ?_⟩
    · rw [Sys.siteResults, hrs, hx]
      rfl
    · rw [hout i (by omega), hres, nth_setNth, if_neg (by omega)]
    · cases k with
      | zero => rw [hout _ (by omega), hres, nth_setNth, if_pos (by omega)]; rfl
      | succ k =>
        rw [show 10 * row + c + (k + 1) = 10 * row + (c + 1) + k by omega, hin k (by omega), hgood]
        rfl

/-! ### The numbers (R104 to R107) -/

theorem Sys.fillNumber_unlogged (l : Option (List Nat)) (n : Nat) (x : Assign × Sys) : (Sys.fillNumber l n x).2.unlogged = x.2.unlogged := by
  unfold Sys.fillNumber
  split
  · rfl
  · split <;> split <;> simp

theorem Sys.fillNumbers_unlogged {l : Option (List Nat)} {ns : List Nat} {a : Assign} {s : Sys} {x : Assign × Sys}
    (h : x = runAll (Sys.fillNumber l) ns (a, s)) : x.2.unlogged = s.unlogged :=
  h ▸ runAll_keeps _ (fun y : Assign × Sys => y.2.unlogged) (Sys.fillNumber_unlogged l) _ _

/-- Discrepancies apart, the assignment gives the numbers their sites and leaves spares. -/
theorem Sys.assignNumbers_unlogged (s : Sys) : ∃ sites spares,
    s.assignNumbers.unlogged = s.unlogged.onBring (fun b => { b with coreMap := sites, spares := spares }) := by
  unfold Sys.assignNumbers
  extract_lets again s1 rec_ passing a0 a x
  have h1 : s1.unlogged = s.unlogged := by simp [s1, apply_ite Sys.unlogged]
  have hx : x.2.unlogged = s1.unlogged := Sys.fillNumbers_unlogged (x := x) rfl
  clear_value x
  exact ⟨x.1.sites, x.1.free, congrArg (fun y : Sys => y.onBring fun b => { b with coreMap := x.1.sites, spares := x.1.free }) (hx.trans h1)⟩

/-! ### Rows and waves -/

theorem Sys.phase_of_inPhase {s : Sys} {ph : Nat} (h : s.inPhase ph = true) : s.mgmt.bring.phase = ph := by
  simp only [Sys.inPhase, Bool.and_eq_true, beq_iff_eq] at h
  exact h.2

/-- What a row's test leaves of bring-up's state, where `b` stood before: the results, the number of the next row and, after the last,
CORE_POWER. -/
structure BringUp.RowTested (row : Nat) (l : List SiteReading) (b b' : BringUp) : Prop where
  listed : ∀ c < 10, nth b'.results (10 * row + c) = b.siteResult (10 * row + c) (l.getD c ⟨0, 0⟩)
  others : ∀ i, i < 10 * row ∨ 10 * row + 10 ≤ i → nth b'.results i = nth b.results i
  rows : b'.rowsTested = row + 1
  phase : b'.phase = if row = 15 then 6 else 5

/-- Discrepancies apart, a row's test changes bring-up's state alone; after the last row the numbers are assigned. -/
theorem coreTestRow_unlogged {s : Sys} {row : Nat} {l : List SiteReading} (hrow : row < 16) (hp : s.inPhase 5 = true)
    (hr : s.mgmt.bring.rowsTested = row) (hl : l.length = 10) (hx : ∀ x ∈ l, 1 ≤ x.result ∧ x.result ≤ 5)
    (hlen : s.mgmt.bring.results.length = 160) :
    (coreTestRow row l s).unlogged = s.unlogged.onBring (fun _ => (coreTestRow row l s).unlogged.mgmt.bring)
      ∧ s.mgmt.bring.RowTested row l (coreTestRow row l s).unlogged.mgmt.bring := by
  have hgo : coreTestRow row l s = _ := if_pos (by simpa [hp, hr, hl] using hx)
  obtain ⟨rs, hrs, hout, hin⟩ := s.siteResults_unlogged row l 0 (by omega)
  rw [hl] at hout hin
  have hnext : ((s.siteResults row 0 l).onBring fun b => { b with rowsTested := b.rowsTested + 1 }).unlogged
      = s.unlogged.onBring fun b => { b with results := rs, rowsTested := b.rowsTested + 1 } :=
    congrArg (fun y : Sys => y.onBring fun b => { b with rowsTested := b.rowsTested + 1 }) hrs
  rw [hgo]
  dsimp only
  split
  next h15 =>
    obtain ⟨sites, spares, ha⟩ := ((s.siteResults row 0 l).onBring fun b => { b with rowsTested := b.rowsTested + 1 }).assignNumbers_unlogged
    rw [hnext] at ha
    rw [Sys.nextPhase_unlogged, ha]
    exact ⟨rfl, hin, hout, congrArg (· + 1) hr, (if_pos h15).symm⟩
  next h15 =>
    rw [hnext]
    exact ⟨rfl, hin, hout, congrArg (· + 1) hr, (Sys.phase_of_inPhase hp).trans (if_neg h15).symm⟩

theorem rowsTestedAndPowered : Claims.RowsTestedAndPowered := by
  refine fun s row l hrow => ⟨fun hp hr hl hx hlen => ?_, fun hp hw => ?_⟩
  · obtain ⟨hu, hb⟩ := coreTestRow_unlogged hrow hp hr hl hx hlen
    exact ⟨_, onSys_of (f := coreTestRow row l) rfl, rfl, rfl, congrArg (·.core) hu, congrArg (·.host) hu, congrArg (·.fab) hu,
      hb.listed, hb.others, hb.rows, hb.phase⟩
  · refine ⟨_, onSys_of (f := powerWave row) (if_pos (by simp [hp, hw])), rfl, rfl, ?_⟩
    split
    · exact ⟨rfl, rfl, rfl, rfl, congrArg (· + 1) hw, rfl⟩
    · exact ⟨rfl, rfl, rfl, rfl, congrArg (· + 1) hw, Sys.phase_of_inPhase hp⟩

/-! ### The commit (R107, R108, R120) -/

/-- Starting a stack's counts again changes no byte. -/
theorem Mem.startCounts_keeps (m : Mem) : m.KeepsBytes { m with dram := m.dram.map Stack.startCounts } := by
  intro st a
  have hk : Mem.stack { m with dram := m.dram.map Stack.startCounts } st = (m.stack st).startCounts :=
    List.getD_map (n := st) m.dram Stack.reset Stack.startCounts
  have hline : (Mem.lineOf { m with dram := m.dram.map Stack.startCounts } st (a / 64)).data = (m.lineOf st (a / 64)).data := by
    have hs : Mem.slice { m with dram := m.dram.map Stack.startCounts } st = m.slice st := rfl
    unfold Mem.lineOf
    rw [hk, hs]
    split <;> rfl
  exact congrArg (fun l : List Byte => l.getD (a % 64) 0) hline

theorem Sys.commitAssign_frame (s : Sys) : s.commitAssign.core = s.core ∧ s.commitAssign.host = s.host ∧ s.commitAssign.fab = s.fab
    ∧ s.commitAssign.mgmt.power = s.mgmt.power ∧ s.commitAssign.mgmt.bring = { s.mgmt.bring with assignment := some s.mgmt.bring.coreMap } := by
  unfold Sys.commitAssign
  dsimp only
  split <;> exact ⟨rfl, rfl, rfl, rfl, rfl⟩

/-- The store after the commit: without the reset this bring-up used, or as it was where one was written since (R107, R120). -/
theorem Sys.commitAssign_store (s : Sys) : s.commitAssign.mgmt.dict.store =
    if s.mgmt.bring.resetWritten = true then s.mgmt.dict.store else s.mgmt.dict.store.filter (fun v => v.1 != resetKey) := by
  unfold Sys.commitAssign
  dsimp only
  split <;> rename_i h <;> simp only [Sys.onBring_bring] at h
  · exact (if_pos h).symm
  · exact (if_neg h).symm

theorem assignmentCommitted : Claims.AssignmentCommitted := by
  intro s hp
  obtain ⟨hcore, hhost, hfab, hpower, hbring⟩ := s.dev.sys.commitAssign_frame
  have hstore := s.dev.sys.commitAssign_store
  refine ⟨_, onDev_of (f := coreAssign) (if_pos hp), rfl, s.dev.mem.startCounts_keeps, rfl, ?_, rfl, rfl, rfl, ?_, ?_, ?_, ?_, rfl, hpower,
    fun hw x hx => ?_, fun hw => ?_⟩
  · exact congrArg BringUp.assignment hbring
  · exact congrArg (fun c : CoreState => { c with cycles := 0, failed := [] }) hcore
  · rw [← hhost]
    rfl
  · rw [← hfab]
    rfl
  · intro p hp
    obtain ⟨q, -, rfl⟩ := List.mem_map.1 hp
    exact ⟨rfl, rfl⟩
  · have hkey : x ∈ s.dev.sys.mgmt.dict.store.filter (fun v => v.1 != resetKey) := by
      rw [if_neg (by simp [hw])] at hstore
      exact hstore ▸ hx
    exact bne_iff_ne.1 (List.mem_filter.1 hkey).2
  · exact hstore.trans (if_pos hw)

/-- Settles O38, from the claims on rows and waves and on the commit. -/
theorem coresAreTestedAndAssigned : Obligations.CoresAreTestedAndAssigned := ⟨rowsTestedAndPowered, assignmentCommitted⟩

end Sys2Proof.Machine
end

section
/-! PROOF. Accepted writes, part 1: the doorbell pages after a command, and the path of an accepted write to the object it acts on. -/

namespace Sys2Proof.Machine

open Sys2Proof

/-! ### What bringing the doorbell pages up to date leaves alone -/

/-- The parts that a write of memory does not change: all but the partitions' and rings' counts, the error log and the count of free values. -/
def Sys.offPages (s : Sys) : CoreState × FabState × DictState × BringUp × PowerState × SecState :=
  (s.core, s.fab, s.mgmt.dict, s.mgmt.bring, s.mgmt.power, s.mgmt.sec)

@[simp] theorem Sys.log_offPages (s : Sys) (k u p c : Nat) (b : List Byte) : (s.log k u p c b).offPages = s.offPages := by
  simp [Sys.offPages]

theorem Dev.writePiece_offPages (d : Dev) (st L : Nat) (bs : List Byte) : (d.writePiece st L bs).sys.offPages = d.sys.offPages := by
  unfold Dev.writePiece
  dsimp only
  split
  · exact Sys.log_offPages _ _ _ _ _ _
  · rfl

theorem Dev.writeRange_offPages (d : Dev) (p a : Nat) (bs : List Byte) : (d.writeRange p a bs).sys.offPages = d.sys.offPages :=
  runAll_keeps _ (fun x : Dev => x.sys.offPages) (fun _ x => x.writePiece_offPages _ _ _) _ d

theorem Dev.syncRing_offPages (r : Nat) (d : Dev) : (Dev.syncRing r d).sys.offPages = d.sys.offPages := by
  unfold Dev.syncRing
  dsimp only
  split
  · exact Dev.writeRange_offPages _ _ _ _
  · rfl

theorem Dev.syncRings_offPages (d : Dev) : d.syncRings.sys.offPages = d.sys.offPages :=
  runAll_keeps _ (fun x : Dev => x.sys.offPages) Dev.syncRing_offPages _ d

theorem Dev.syncRings_frame (d : Dev) : d.syncRings.sys.core = d.sys.core ∧ d.syncRings.sys.fab = d.sys.fab
    ∧ d.syncRings.sys.mgmt.dict = d.sys.mgmt.dict ∧ d.syncRings.sys.mgmt.bring = d.sys.mgmt.bring
    ∧ d.syncRings.sys.mgmt.power = d.sys.mgmt.power ∧ d.syncRings.sys.mgmt.sec = d.sys.mgmt.sec := by
  simpa only [Sys.offPages, Prod.mk.injEq] using d.syncRings_offPages

/-- With no ring in effect there is no page to write. -/
theorem Dev.syncRings_none {d : Dev} (h : ∀ r, (d.sys.ring r).inEffect = false) : d.syncRings = d := by
  have hr : ∀ r, Dev.syncRing r d = d := fun r => if_neg (by simp [h r])
  unfold Dev.syncRings
  generalize List.range 64 = l
  induction l with
  | nil => rfl
  | cons r l ih => rw [runAll, hr, ih]

theorem HostState.reset_ring {s : Sys} (h : s.host = HostState.reset) (r : Nat) : (s.ring r).inEffect = false := by
  unfold Sys.ring
  rw [h]
  exact congrArg Ring.inEffect (List.getElem?_getD_replicate_default_eq (d := Ring.reset) 64 r)

theorem onRings_of {f : Dev → Dev} {s : State} {d : Dev} (h : f s.dev = d) : onRings f s = .next { s with dev := d.syncRings } :=
  h ▸ rfl

/-- Where a ring's page lies rests on the partitions, the rings and the values in force. -/
theorem Dev.pageByte_of_eq {d d' : Dev} (hh : d'.sys.host = d.sys.host) (hv : d'.sys.mgmt.dict.values = d.sys.mgmt.dict.values) (st L : Nat) :
    d'.PageByte st L ↔ d.PageByte st L := by
  simp only [Dev.PageByte, Dev.locate, Dev.table, Sys.part, Sys.ring, Sys.ringPart, Sys.ringRec, Sys.cfg, hh, hv]

/-- A command on objects that leaves the hosts' part, the values in force and the cores' and bring-up's state alone. -/
theorem State.untouched_of {s : State} {d : Dev} (hm : d.mem = s.dev.mem) (hh : d.sys.host = s.dev.sys.host)
    (hv : d.sys.mgmt.dict.values = s.dev.sys.mgmt.dict.values) (hc : d.sys.core = s.dev.sys.core)
    (hp : d.sys.mgmt.power = s.dev.sys.mgmt.power) (hb : d.sys.mgmt.bring = s.dev.sys.mgmt.bring) :
    s.Untouched { s with dev := d.syncRings } := by
  obtain ⟨ec, -, -, eb, ep, -⟩ := d.syncRings_frame
  have hspec := Dev.syncRings_spec (d := d)
  generalize d.syncRings = e at ec eb ep hspec
  refine ⟨rfl, ec.trans hc, ep.trans hp, eb.trans hb, fun hco st L hn => ?_⟩
  obtain ⟨-, -, hbytes⟩ := hspec (hm ▸ hco)
  exact (hbytes st L fun hpage => hn ((Dev.pageByte_of_eq hh hv st L).1 hpage)).trans (by rw [hm])

/-! ### The rows of the writes (Table 4-4) -/

theorem objRow_mem {i sub : Nat} {o : ObjRow} (h : objRow i sub = some o) :
    o ∈ objTable ∧ o.ilo ≤ i ∧ i ≤ o.ihi ∧ o.lo ≤ sub ∧ sub ≤ o.hi :=
  ⟨List.mem_of_find?_eq_some h, by simpa using List.find?_some h⟩

/-- The indexes whose objects keep no value that is written and are not journalled: those of holds, resets and keys. -/
def volatileIndexes : List Nat := [0x2101, 0x8020, 0x8021, 0xB000, 0xB021, 0xB023, 0xB040, 0xB050]

theorem objTable_volatile : ∀ o ∈ objTable, ∀ i ∈ volatileIndexes, o.ilo ≤ i → i ≤ o.ihi →
    o.acc ≠ 2 ∧ o.persist = false ∧ 1 ≤ o.lo ∧ o.hi ≤ 16 := by decide +kernel

theorem objRow_volatile {i sub : Nat} {o : ObjRow} (hi : i ∈ volatileIndexes) (h : objRow i sub = some o) :
    o.acc ≠ 2 ∧ o.persist = false ∧ 1 ≤ sub ∧ sub ≤ 16 := by
  obtain ⟨hmem, hlo, hhi, hsub, hsub'⟩ := objRow_mem h
  obtain ⟨hacc, hper, h1, h16⟩ := objTable_volatile o hmem i hi hlo hhi
  exact ⟨hacc, hper, h1.trans hsub, hsub'.trans h16⟩

theorem keeps_volatile {i : Nat} (hi : i ∈ volatileIndexes) (sub : Nat) : keeps i sub = false := by
  unfold keeps
  split
  next o h =>
    obtain ⟨hacc, hper, -⟩ := objRow_volatile hi h
    simp [hacc, hper]
  next => rfl

/-- What a row that resets, releases, measures or seals says of the write that it takes (Table 4-4). -/
def WriteRow.Says (i sub : Nat) (v : List Byte) : WriteRow → Prop
  | .deviceReset => i = 0x8020
  | .holdRelease => i = 0x2101
  | .partReset => i = 0x8021
  | .image => i = 0xB021
  | .activate => i = 0xB023
  | .floor => i = 0xB022 ∧ sub = 1
  | .nonce => i = 0xB000
  | .wrap => i = 0xB040 ∧ v.take 1 = [1]
  | .unwrap => i = 0xB040 ∧ v.take 1 = [2]
  | .token => i = 0xB050
  | _ => True

theorem WriteRow.Says.ite {i sub : Nat} {v : List Byte} {c : Prop} [Decidable c] {a b : WriteRow} (ha : c → a.Says i sub v)
    (hb : b.Says i sub v) : (if c then a else b).Says i sub v := by
  split
  next h => exact ha h
  next => exact hb

theorem rowOf_says (i sub : Nat) (v : List Byte) : (rowOf i sub v).Says i sub v := by
  unfold rowOf
  split
  · trivial
  · dsimp only
    (repeat' refine .ite (fun _ => ?_) ?_) <;> simp_all only [WriteRow.Says, and_self]

/-! ### A request's turn (R153, R154, R158) -/

theorem modNth_modNth {α : Type} (l : List α) (i : Nat) (f g : α → α) : modNth (modNth l i f) i g = modNth l i (g ∘ f) := by
  induction l generalizing i with
  | nil => rfl
  | cons a l ih => cases i <;> simp [modNth, ih]

/-- An open session has a slot of the table. -/
theorem Sys.sessionOf_lt {s : Sys} {iface sid src sport k : Nat} (h : s.sessionOf 2 iface sid src sport = some k) :
    k < s.mgmt.dict.sessions.length := by
  have hk := List.find?_some h
  simp only [Bool.and_eq_true, beq_iff_eq] at hk
  by_contra hn
  have hfree : s.session k = Session.free := List.getD_eq_default _ _ (Nat.le_of_not_lt hn)
  rw [hfree] at hk
  exact absurd hk.1.1.1.1 (by decide)

theorem Sys.onSession_session {s : Sys} {k : Nat} (h : k < s.mgmt.dict.sessions.length) (f : Session → Session) :
    (s.onSession k f).session k = f (s.session k) :=
  (modNth_getD _ _ _ _ _).trans (if_pos ⟨rfl, h⟩)

/-- The next request of an open session is executed. -/
theorem Dev.request_takes {d : Dev} {r : OdpReq} {k op : Nat} (h : d.Takes r k op) (f : Nat → Dev → Dev) :
    d.heard.request r op f = f k d.heard := by
  obtain ⟨⟨htakes, -⟩, hsess, htag, hseq, hbad⟩ := h
  have hserves : d.heard.sys.odpServes r.iface = true := by
    simp only [Sys.odpTakes, Bool.and_eq_true] at htakes
    exact htakes.1.1
  have hop : reqOpcode r op = op := if_neg (by omega)
  have hlast : r.seq ≠ (d.sys.session k).lastSeq := by omega
  unfold Dev.request
  rw [if_pos hserves, show d.heard.sys.sessionOf 2 r.iface r.sid r.src r.sport = some k from hsess]
  dsimp only
  rw [hop, show d.heard.sys.session k = d.sys.session k from rfl, if_neg (not_not.2 htag), if_neg hlast, if_neg (not_not.2 hseq), if_pos hbad]

/-- A write in progress that begins here or goes on: what has arrived of it, and what then stands in its slot. -/
def Dev.begun (d : Dev) (k : Nat) (r : OdpReq) (off total : Nat) : Dev :=
  if off = 0 then liftSys (fun s => s.onSession k fun x => { x with wrKey := blockKey r.index r.sub, wrTotal := total, wrData := [] }) d else d

theorem Dev.begun_session {d : Dev} {r : OdpReq} {k off total : Nat} (hk : k < d.sys.mgmt.dict.sessions.length)
    (hf : d.sys.SegmentFits k r off total) :
    ((d.begun k r off total).sys.session k).wrKey = blockKey r.index r.sub ∧ ((d.begun k r off total).sys.session k).wrTotal = total
      ∧ ((d.begun k r off total).sys.session k).wrData = (if off = 0 then [] else (d.sys.session k).wrData)
      ∧ off = ((d.begun k r off total).sys.session k).wrData.length := by
  obtain ⟨-, -, -, -, hfirst⟩ := hf
  unfold Dev.begun
  by_cases h0 : off = 0
  · rw [if_pos h0, if_pos h0, liftSys_sys, Sys.onSession_session hk]
    exact ⟨rfl, rfl, rfl, h0⟩
  · obtain ⟨hkey, htotal, hoff⟩ := hfirst.resolve_left h0
    rw [if_neg h0, if_neg h0]
    exact ⟨hkey, htotal, rfl, hoff⟩

theorem Dev.begun_cleared (d : Dev) (k : Nat) (r : OdpReq) (off total : Nat) :
    liftSys (fun s => s.clearBlock k) (d.begun k r off total) = liftSys (fun s => s.clearBlock k) d := by
  unfold Dev.begun
  split
  · simp only [liftSys, Sys.clearBlock, Sys.onSession, Sys.onDict, modNth_modNth]
    rfl
  · rfl

/-- The segment that completes a write, with every segment before it in place, is that write. -/
theorem Dev.segmentIn_completes {d : Dev} {r : OdpReq} {k off total : Nat} (hb : r.block = some (off, total))
    (hs : d.sys.sessionOf 2 r.iface r.sid r.src r.sport = some k) (ht : off + r.data.length = total) (hf : d.sys.SegmentFits k r off total)
    (a : Option AgeingReading) (e : Bool) :
    d.segmentIn k r off total a e = (liftSys (fun s => s.clearBlock k) d).wholeWrite k r (d.sys.wholeData r) a e := by
  obtain ⟨hkey, htotal, hdata, hoff⟩ := d.begun_session (Sys.sessionOf_lt hs) hf
  have hclear := d.begun_cleared k r off total
  obtain ⟨-, hlen, hhead, hty, -⟩ := hf
  have hv : ((d.begun k r off total).sys.session k).wrData ++ r.data = d.sys.wholeData r := by
    rw [hdata]
    simp only [Sys.wholeData, hb, hs]
    split <;> rfl
  unfold Dev.segmentIn
  extract_lets refuse domain state key d1 x v
  have hdomain : domain = none := if_neg (not_not.2 hty)
  have hstate : state = none := if_neg (Nat.not_lt.2 ht.ge)
  change x.wrKey = key at hkey
  change x.wrTotal = total at htotal
  change off = x.wrData.length at hoff
  change v = d.sys.wholeData r at hv
  change liftSys (fun s => s.clearBlock k) d1 = _ at hclear
  have hvlen : v.length = total := by simp only [v, List.length_append, ← hoff, ht]
  rw [hhead, hdomain, hstate]
  dsimp only [firstAbort]
  rw [if_neg (by simp only [hkey, htotal, ← hoff]; omega), if_neg (by omega), hclear, hv]

/-- An accepted write acts on its object as a whole write. -/
theorem Dev.Accepts.writeRequest {d : Dev} {w : WriteRow} {r : OdpReq} {k : Nat} {v : List Byte} (h : d.Accepts w r k v)
    (a : Option AgeingReading) (e : Bool) : d.writeRequest w r a e = (d.settled r k).wholeWrite k r v a e := by
  obtain ⟨htakes, hcomp, hrow, rfl, -⟩ := h
  obtain ⟨hto, hidle⟩ := htakes.1
  have harrive : Dev.arrive (.write r a e) d = d.heard.writeIn r a e := by
    unfold Dev.arrive
    dsimp only
    rw [hidle]
    exact if_pos hto
  rw [show d.writeRequest w r a e = _ from if_pos hrow, harrive, Dev.writeIn, Dev.request_takes htakes]
  obtain ⟨-, hsess, -⟩ := htakes
  unfold Dev.Completes at hcomp
  unfold Dev.settled
  cases hb : r.block with
  | none => simp [Sys.wholeData, hb]
  | some b =>
    obtain ⟨off, total⟩ := b
    rw [hb] at hcomp
    exact Dev.segmentIn_completes (d := d.heard) hb hsess hcomp.1 hcomp.2 a e

/-! ### The response (R149, R158) -/

theorem modNth_id {α : Type} (l : List α) (i : Nat) : modNth l i (fun x => x) = l := by
  induction l generalizing i with
  | nil => rfl
  | cons a l ih => cases i <;> simp [modNth, ih]

/-- A session once a write has completed: nothing of a write in progress is left. -/
def Session.settled (r : OdpReq) (x : Session) : Session := if r.block.isSome then { x with wrKey := 0, wrTotal := 0, wrData := [] } else x

/-- A session once the response to an accepted write has left. -/
def Session.answered (r : OdpReq) (f : List Byte) (x : Session) : Session := { x.settled r with lastSeq := r.seq, lastResp := f }

theorem Session.settled_to (r : OdpReq) (x : Session) : (x.settled r).sid = x.sid ∧ (x.settled r).iface = x.iface ∧ (x.settled r).src = x.src
    ∧ (x.settled r).sport = x.sport ∧ (x.settled r).key = x.key := by
  unfold Session.settled
  split <;> exact ⟨rfl, rfl, rfl, rfl, rfl⟩

theorem Dev.settled_eq (d : Dev) (r : OdpReq) (k : Nat) :
    d.settled r k = liftSys (fun s => s.onDict fun x => { x with tx := [], sessions := modNth x.sessions k (Session.settled r) }) d := by
  unfold Dev.settled Session.settled
  split
  · rfl
  · simp only [modNth_id]
    rfl

/-- The device once the response to an accepted write has left, before the write acts. -/
def Dev.replied (d : Dev) (r : OdpReq) (k : Nat) : Dev := liftSys (fun s => s.respond k r (reqOp r) 0 r.sub) (d.settled r k)

/-- What the response to an accepted write leaves: its frame, for its client and to be sent again. -/
theorem Sys.respond_ok (s : Sys) (k : Nat) (r : OdpReq) : s.respond k r (reqOp r) 0 r.sub =
    (s.onSession k fun x => { x with lastSeq := r.seq, lastResp := (s.okFrame k r).bytes }).onDict fun x => { x with
      tx := x.tx ++ [s.okFrame k r] } := rfl

/-- The response goes to the session's client and is kept to be sent again; nothing else changes. -/
theorem Dev.replied_eq {d : Dev} {k : Nat} (hk : k < d.sys.mgmt.dict.sessions.length) (r : OdpReq) :
    d.replied r k = liftSys (fun s => s.onDict fun x => { x with
      tx := [d.sys.okFrame k r], sessions := modNth x.sessions k (Session.answered r (d.sys.okFrame k r).bytes) }) d := by
  have hf : (d.settled r k).sys.okFrame k r = d.sys.okFrame k r := by
    have hs : (d.settled r k).sys.session k = (d.sys.session k).settled r := by
      rw [Dev.settled_eq]
      exact (modNth_getD _ _ _ _ _).trans (if_pos ⟨rfl, hk⟩)
    obtain ⟨hsid, hiface, hsrc, hsport, hkey⟩ := (d.sys.session k).settled_to r
    simp only [Sys.okFrame, Session.frame, hs, hsid, hiface, hsrc, hsport, hkey]
  have hr : d.replied r k = liftSys (fun s => s.respond k r (reqOp r) 0 r.sub) (d.settled r k) := rfl
  rw [hr, liftSys, Sys.respond_ok, hf, Dev.settled_eq]
  simp only [liftSys, Sys.onSession, Sys.onDict, modNth_modNth]
  rfl

/-! ### From a write to its object -/

/-- The rows that act at once, without a journal record. -/
def directRows : List WriteRow := [.deviceReset, .holdRelease, .partReset, .nonce, .wrap, .unwrap, .token]

theorem directRows_volatile {i sub : Nat} {v : List Byte} {w : WriteRow} (hw : w ∈ directRows) (h : w.Says i sub v) :
    i ∈ volatileIndexes ∧ i ≠ 0xB023 := by
  simp only [directRows, List.mem_cons, List.not_mem_nil, or_false] at hw
  obtain rfl | rfl | rfl | rfl | rfl | rfl | rfl := hw <;> simp_all [WriteRow.Says, volatileIndexes]

theorem recordOf_direct {s : Sys} {r : OdpReq} {v : List Byte} (h : rowOf r.index r.sub v ∈ directRows) : s.recordOf r v = none := by
  have hper : ((objRow r.index r.sub).map ObjRow.persist).getD false = false := by
    cases ho : objRow r.index r.sub with
    | none => rfl
    | some o => exact (objRow_volatile (directRows_volatile h (rowOf_says _ _ v)).1 ho).2.1
  unfold Sys.recordOf
  split
  case h_3 hw => exact absurd (hw ▸ h) (by decide)
  case h_4 hw => exact absurd (hw ▸ h) (by decide)
  case h_5 => exact if_neg (by simp [hper])
  all_goals rfl

/-- A write of a direct row does what its object does, and no more. -/
theorem Dev.applyWrite_direct {d : Dev} {k : Nat} {r : OdpReq} {v : List Byte} (h : rowOf r.index r.sub v ∈ directRows)
    (a : Option AgeingReading) (e : Bool) : d.applyWrite k r v a e = d.objApply k r v a e := by
  obtain ⟨hi, hactive⟩ := directRows_volatile h (rowOf_says _ _ v)
  have hassign : r.index ≠ 0x2110 := fun he => absurd (he ▸ hi) (by decide)
  have hrole : rowOf r.index r.sub v ≠ .roleKey := fun he => absurd (he ▸ h) (by decide)
  unfold Dev.applyWrite
  simp only [keeps_volatile hi, Bool.false_eq_true, if_false, hassign, hactive, hrole, false_and]

theorem Dev.Accepts.row {d : Dev} {w : WriteRow} {r : OdpReq} {k : Nat} {v : List Byte} (h : d.Accepts w r k v) (hw : w ≠ .writeBlock) :
    rowOf r.index r.sub v = w := by
  obtain ⟨-, -, hrow, rfl, -⟩ := h
  unfold Sys.rowFor at hrow
  split at hrow
  · exact absurd hrow.symm hw
  · dsimp only at hrow
    split at hrow
    · exact absurd hrow.symm hw
    · exact hrow

theorem Dev.Accepts.slot {d : Dev} {w : WriteRow} {r : OdpReq} {k : Nat} {v : List Byte} (h : d.Accepts w r k v) :
    k < d.sys.mgmt.dict.sessions.length :=
  Sys.sessionOf_lt h.1.2.1

/-- An accepted write of a direct row is answered, and then acts on its object. -/
theorem Dev.Accepts.direct {d : Dev} {w : WriteRow} {r : OdpReq} {k : Nat} {v : List Byte} (h : d.Accepts w r k v) (hw : w ∈ directRows)
    (a : Option AgeingReading) (e : Bool) : d.writeRequest w r a e = (d.replied r k).objApply k r v a e := by
  obtain rfl := h.row (fun he => absurd (he ▸ hw) (by decide))
  have himage : rowOf r.index r.sub v ≠ .image := fun he => absurd (he ▸ hw) (by decide)
  rw [h.writeRequest, Dev.wholeWrite, h.2.2.2.2]
  dsimp only
  rw [if_neg himage, recordOf_direct hw]
  exact Dev.applyWrite_direct hw a e

end Sys2Proof.Machine
end

section
/-! PROOF. Accepted writes, part 2: images, attestation and sealed data (R663 to R669). -/

namespace Sys2Proof.Machine

open Sys2Proof

/-! ### Association lists -/

theorem assoc_assocSet_same {α : Type} (l : List (Nat × α)) (k : Nat) (y d : α) : assoc (assocSet l k y) k d = y := by
  induction l with
  | nil => simp [assocSet, assoc]
  | cons x l ih =>
    obtain ⟨i, z⟩ := x
    unfold assocSet
    split_ifs with hlt heq
    · simp [assoc]
    · simp [assoc]
    · simp [assoc, heq, ih]

/-! ### What the checks of an accepted write say -/

theorem firstAbort_none {l : List (Option Nat)} (h : firstAbort l = none) : ∀ x ∈ l, x = none := by
  induction l with
  | nil => exact fun x hx => absurd hx List.not_mem_nil
  | cons a l ih =>
    cases a with
    | none => exact List.forall_mem_cons.2 ⟨rfl, ih h⟩
    | some c => cases h

/-- The unit that an accepted write acts on has nothing against it (Table 4-4, steps 7 and 8). -/
theorem Dev.Accepts.unit {d : Dev} {w : WriteRow} {r : OdpReq} {k : Nat} {v : List Byte} (h : d.Accepts w r k v) :
    (d.settled r k).unitAbort k r v = none := by
  obtain ⟨-, -, -, -, habort⟩ := h
  unfold Dev.writeAbort at habort
  dsimp only at habort
  split at habort
  · cases habort
  next hfirst => exact firstAbort_none hfirst _ (by simp)

theorem Dev.settled_sec (d : Dev) (r : OdpReq) (k : Nat) : (d.settled r k).sys.mgmt.sec = d.sys.mgmt.sec := by
  rw [Dev.settled_eq]
  rfl

theorem Dev.settled_session {d : Dev} {k : Nat} (hk : k < d.sys.mgmt.dict.sessions.length) (r : OdpReq) :
    (d.settled r k).sys.session k = (d.sys.session k).settled r := by
  rw [Dev.settled_eq]
  exact (modNth_getD _ _ _ _ _).trans (if_pos ⟨rfl, hk⟩)

theorem Dev.Accepts.says {d : Dev} {w : WriteRow} {r : OdpReq} {k : Nat} {v : List Byte} (h : d.Accepts w r k v) (hw : w ≠ .writeBlock) :
    w.Says r.index r.sub v :=
  h.row hw ▸ rowOf_says r.index r.sub v

theorem Dev.Accepts.sealed {d : Dev} {w : WriteRow} {r : OdpReq} {k : Nat} {v : List Byte} (h : d.Accepts w r k v) (hi : r.index = 0xB040) :
    (d.settled r k).sys.sealAbort ((d.settled r k).sys.session k) { r with data := v } = none := by
  simpa [Dev.unitAbort, hi] using h.unit

/-! ### Attestation (R668) -/

theorem Dev.replied_session {d : Dev} {k : Nat} (hk : k < d.sys.mgmt.dict.sessions.length) (r : OdpReq) :
    (d.replied r k).sys.session k = (d.sys.session k).answered r (d.sys.okFrame k r).bytes := by
  rw [Dev.replied_eq hk]
  exact (modNth_getD _ _ _ _ _).trans (if_pos ⟨rfl, hk⟩)

theorem Dev.replied_slot {d : Dev} {k : Nat} (hk : k < d.sys.mgmt.dict.sessions.length) (r : OdpReq) :
    k < (d.replied r k).sys.mgmt.dict.sessions.length := by
  rw [Dev.replied_eq hk]
  exact hk.trans_eq (modNth_length _ _ _).symm

/-- A direct write that then changes its session alone, and may draw free values. -/
theorem Dev.Accepts.session {s : State} {w : WriteRow} {r : OdpReq} {k : Nat} {v : List Byte} (h : s.dev.Accepts w r k v)
    (hw : w ∈ directRows) {f : Session → Session} {n : Nat}
    (ho : (s.dev.replied r k).objApply k r v none false = liftSys (fun s => (s.drew n).onSession k f) (s.dev.replied r k)) :
    ∃ t, onRings (Dev.writeRequest w r none false) s = .next t ∧ s.Untouched t ∧ t.dev.sys.mgmt.sec = s.dev.sys.mgmt.sec
      ∧ t.dev.sys.session k = f ((s.dev.sys.session k).answered r (s.dev.sys.okFrame k r).bytes) := by
  have hgo := h.direct hw none false
  have hsess := (Sys.onSession_session (s := (s.dev.replied r k).sys.drew n) (s.dev.replied_slot h.slot r) f).trans
    (congrArg f (s.dev.replied_session h.slot r))
  rw [Dev.replied_eq h.slot] at ho hsess hgo
  rw [ho] at hgo
  refine ⟨_, onRings_of hgo, State.untouched_of rfl rfl rfl rfl rfl rfl, ?_⟩
  clear hgo ho
  generalize hd : liftSys (fun s => (s.drew n).onSession k f) _ = d at *
  obtain ⟨-, -, edict, -, -, esec⟩ := d.syncRings_frame
  generalize d.syncRings = e at *
  subst hd
  exact ⟨esec, (congrArg (fun x : DictState => x.sessions.getD k Session.free) edict).trans hsess⟩

theorem Dev.objApply_nonce {d : Dev} {k : Nat} {r : OdpReq} {v : List Byte} (h : rowOf r.index r.sub v = .nonce) :
    d.objApply k r v none false = liftSys (fun s => s.onSession k fun x => { x with nonce := v, report := d.sys.report v }) d := by
  unfold Dev.objApply
  dsimp only
  rw [h]
  simp only [liftSys]

theorem nonceBuildsReport {s : State} {r : OdpReq} {k : Nat} {v : List Byte} (h : s.dev.Accepts .nonce r k v) :
    ∃ t, exec (.attestationNonce r) s = .next t ∧ s.Untouched t ∧ (t.dev.sys.session k).nonce = v
      ∧ (t.dev.sys.session k).report = s.dev.sys.report v ∧ t.dev.sys.mgmt.sec = s.dev.sys.mgmt.sec := by
  have hreport : (s.dev.replied r k).sys.report v = s.dev.sys.report v := by
    rw [Dev.replied_eq h.slot]
    rfl
  obtain ⟨t, ht, hu, hsec, hsess⟩ := h.session (by decide) (n := 0)
    (f := fun x => { x with nonce := v, report := (s.dev.replied r k).sys.report v }) (Dev.objApply_nonce (h.row (by decide)))
  refine ⟨t, ht, hu, congrArg Session.nonce hsess, (congrArg Session.report hsess).trans hreport, hsec⟩

/-! ### Sealed data (R669) -/

/-- What a seal request is made from: the keys, the values in force, the free bytes and its session's key. -/
theorem Sys.sealResult_congr {s s' : Sys} {x x' : Session} (hsec : s'.mgmt.sec = s.mgmt.sec) (hval : s'.mgmt.dict.values = s.mgmt.dict.values)
    (hfree : s'.freeCtr = s.freeCtr) (hkey : x'.key = x.key) (q : OdpReq) : s'.sealResult x' q = s.sealResult x q := by
  simp only [Sys.sealResult, transferKey, Sys.cfg, Sys.freeBytes, hsec, hval, hfree, hkey]

theorem Dev.replied_sealResult {d : Dev} {k : Nat} (hk : k < d.sys.mgmt.dict.sessions.length) (r q : OdpReq) :
    (d.replied r k).sys.sealResult ((d.replied r k).sys.session k) q = d.sys.sealResult (d.sys.session k) q := by
  have hkey : ((d.replied r k).sys.session k).key = (d.sys.session k).key := by
    obtain ⟨-, -, -, -, hkey⟩ := (d.sys.session k).settled_to r
    rw [Dev.replied_session hk]
    exact hkey
  rw [Dev.replied_eq hk] at hkey ⊢
  exact Sys.sealResult_congr rfl rfl rfl hkey q

/-- A wrap request that passes its checks opens under the transfer key. -/
theorem Sys.sealAbort_wrap {s : Sys} {x : Session} {q : OdpReq} (h : s.sealAbort x q = none) (hf : field q.data 0 1 = 1) :
    ∃ plain, Config.gcmOpen (transferKey x) (transferNonce q.seq 0) [] (q.data.drop 16) = some plain := by
  unfold Sys.sealAbort at h
  dsimp only at h
  rw [if_pos hf] at h
  split_ifs at h with hwf hopen hnone
  exact Option.ne_none_iff_exists'.1 (by simpa using hnone)

/-- An unwrap request that passes its checks opens under the sealing key. -/
theorem Sys.sealAbort_unwrap {s : Sys} {x : Session} {q : OdpReq} (h : s.sealAbort x q = none) (hf : field q.data 0 1 = 2) :
    ∃ plain, Config.gcmOpen s.mgmt.sec.sealKey (((q.data.drop 16).drop 12).take 12) ((q.data.drop 16).take 24) ((q.data.drop 16).drop 24)
      = some plain := by
  unfold Sys.sealAbort at h
  dsimp only at h
  rw [if_neg (show ¬field q.data 0 1 = 1 by omega)] at h
  split_ifs at h with hwf hopen hgen hnone
  exact Option.ne_none_iff_exists'.1 (by simpa using hnone)

theorem field_zero_one {v : List Byte} {n : Byte} (h : v.take 1 = [n]) : field v 0 1 = leNat [n] := congrArg leNat h

theorem Sys.sealResult_wrap {s : Sys} {x : Session} {q : OdpReq} {plain : List Byte} (hf : field q.data 0 1 = 1)
    (hp : Config.gcmOpen (transferKey x) (transferNonce q.seq 0) [] (q.data.drop 16) = some plain) : s.sealResult x q
      = (natLe 2 1 ++ zeros 2 ++ s.cfg 0xB041 1 ++ (q.data.drop 4).take 4 ++ s.freeBytes 12) ++ Config.gcmSeal s.mgmt.sec.sealKey
        (s.freeBytes 12) (natLe 2 1 ++ zeros 2 ++ s.cfg 0xB041 1 ++ (q.data.drop 4).take 4 ++ s.freeBytes 12) plain := by
  unfold Sys.sealResult
  dsimp only
  rw [if_pos hf, hp]
  rfl

theorem Sys.sealResult_unwrap {s : Sys} {x : Session} {q : OdpReq} {plain : List Byte} (hf : field q.data 0 1 = 2)
    (hp : Config.gcmOpen s.mgmt.sec.sealKey (((q.data.drop 16).drop 12).take 12) ((q.data.drop 16).take 24) ((q.data.drop 16).drop 24)
      = some plain) : s.sealResult x q = Config.gcmSeal (transferKey x) (transferNonce q.seq 1) [] plain := by
  unfold Sys.sealResult
  dsimp only
  rw [if_neg (show ¬field q.data 0 1 = 1 by omega), hp]
  rfl

theorem Dev.objApply_wrap {d : Dev} {k : Nat} {r : OdpReq} {v : List Byte} (h : rowOf r.index r.sub v = .wrap) :
    d.objApply k r v none false = liftSys (fun s => (s.drew 12).onSession k fun x => { x with
      sealOut := d.sys.sealResult (d.sys.session k) { r with data := v } }) d := by
  unfold Dev.objApply
  dsimp only
  rw [h]
  simp only [liftSys]

theorem Dev.objApply_unwrap {d : Dev} {k : Nat} {r : OdpReq} {v : List Byte} (h : rowOf r.index r.sub v = .unwrap) :
    d.objApply k r v none false = liftSys (fun s => (s.drew 0).onSession k fun x => { x with
      sealOut := d.sys.sealResult (d.sys.session k) { r with data := v } }) d := by
  unfold Dev.objApply
  dsimp only
  rw [h]
  simp only [liftSys]
  rfl

theorem wrapSeals {s : State} {r : OdpReq} {k : Nat} {v : List Byte} (h : s.dev.Accepts .wrap r k v) :
    ∃ t, exec (.seal r) s = .next t ∧ s.Untouched t ∧ t.dev.sys.mgmt.sec = s.dev.sys.mgmt.sec
      ∧ ∃ iv plain, iv.length = 12
        ∧ Config.gcmOpen (transferKey (s.dev.sys.session k)) (transferNonce r.seq 0) [] (v.drop 16) = some plain
        ∧ (t.dev.sys.session k).sealOut
          = (natLe 2 1 ++ zeros 2 ++ s.dev.sys.cfg 0xB041 1 ++ (v.drop 4).take 4 ++ iv)
            ++ Config.gcmSeal s.dev.sys.mgmt.sec.sealKey iv
              (natLe 2 1 ++ zeros 2 ++ s.dev.sys.cfg 0xB041 1 ++ (v.drop 4).take 4 ++ iv) plain := by
  have hrow := h.row (by decide)
  obtain ⟨hi, hop⟩ := h.says (by decide)
  have hf : field v 0 1 = 1 := field_zero_one hop
  obtain ⟨-, -, -, -, hkey⟩ := (s.dev.sys.session k).settled_to r
  obtain ⟨plain, hplain⟩ := Sys.sealAbort_wrap (h.sealed hi) hf
  rw [Dev.settled_session h.slot, transferKey, hkey] at hplain
  obtain ⟨t, ht, hu, hsec, hsess⟩ := h.session (by decide) (Dev.objApply_wrap hrow)
  refine ⟨t, ht, hu, hsec, s.dev.sys.freeBytes 12, plain, by simp [Sys.freeBytes], hplain, (congrArg Session.sealOut hsess).trans ?_⟩
  exact (s.dev.replied_sealResult h.slot r _).trans (Sys.sealResult_wrap hf hplain)

theorem unwrapOpens {s : State} {r : OdpReq} {k : Nat} {v : List Byte} (h : s.dev.Accepts .unwrap r k v) :
    ∃ t, exec (.unseal r) s = .next t ∧ s.Untouched t ∧ t.dev.sys.mgmt.sec = s.dev.sys.mgmt.sec
      ∧ ∃ plain, Config.gcmOpen s.dev.sys.mgmt.sec.sealKey (((v.drop 16).drop 12).take 12) ((v.drop 16).take 24)
          ((v.drop 16).drop 24) = some plain
        ∧ (t.dev.sys.session k).sealOut = Config.gcmSeal (transferKey (s.dev.sys.session k)) (transferNonce r.seq 1) [] plain := by
  have hrow := h.row (by decide)
  obtain ⟨hi, hop⟩ := h.says (by decide)
  have hf : field v 0 1 = 2 := field_zero_one hop
  obtain ⟨plain, hplain⟩ := Sys.sealAbort_unwrap (h.sealed hi) hf
  rw [Dev.settled_sec] at hplain
  obtain ⟨t, ht, hu, hsec, hsess⟩ := h.session (by decide) (Dev.objApply_unwrap hrow)
  refine ⟨t, ht, hu, hsec, plain, hplain, (congrArg Session.sealOut hsess).trans ?_⟩
  exact (s.dev.replied_sealResult h.slot r _).trans (Sys.sealResult_unwrap hf hplain)

end Sys2Proof.Machine
end

section
/-! PROOF. Accepted writes, part 3: a device reset, the debug port's opening and the release of HOLD (R82, R93, R588, R672). -/

namespace Sys2Proof.Machine

open Sys2Proof

/-! ### A write that ends in a device reset -/

/-- A direct write after which no ring is in effect. -/
theorem Dev.Accepts.reset {s : State} {w : WriteRow} {r : OdpReq} {k : Nat} {v : List Byte} (h : s.dev.Accepts w r k v)
    (hw : w ∈ directRows) {a : Option AgeingReading} {e : Bool} {d : Dev} (ho : (s.dev.replied r k).objApply k r v a e = d)
    (hr : d.sys.host = HostState.reset) : onRings (Dev.writeRequest w r a e) s = .next { s with dev := d } := by
  rw [onRings_of ((h.direct hw a e).trans ho), Dev.syncRings_none (HostState.reset_ring hr)]

theorem Dev.objApply_token {d : Dev} {k : Nat} {r : OdpReq} {v : List Byte} (h : rowOf r.index r.sub v = .token) (e : Bool) :
    d.objApply k r v none e = (liftSys Sys.newChallenge d).debugOpening (field v 56 4) e := by
  unfold Dev.objApply
  dsimp only
  rw [h]

@[simp] theorem Sys.bringUpStart_sec (s : Sys) : s.bringUpStart.mgmt.sec = s.mgmt.sec := rfl
@[simp] theorem Sys.bringUpStart_host (s : Sys) : s.bringUpStart.host = s.host := rfl
@[simp] theorem Sys.detectedCount_sec (s : Sys) (u : Nat) : (s.detectedCount u).mgmt.sec = s.mgmt.sec := by
  simp [Sys.detectedCount, apply_ite]
@[simp] theorem Sys.detectedCount_host (s : Sys) (u : Nat) : (s.detectedCount u).host = s.host := by
  simp [Sys.detectedCount, apply_ite]

/-- What opening the debug port erases, whether the port then opens or not (Table 19-9). -/
theorem Dev.debugOpening_resets (d : Dev) (scope : Nat) (e : Bool) : (d.debugOpening scope e).mem = Mem.reset
    ∧ (d.debugOpening scope e).sys.host = HostState.reset ∧ (d.debugOpening scope e).sys.mgmt.bring.phase = 1 := by
  refine ⟨rfl, ?_, rfl⟩
  cases e
  · simp only [Dev.debugOpening, liftSys_sys, Sys.bringUpStart_host, Bool.false_eq_true, if_false, Sys.log_host, Sys.onDict_host, Sys.detectedCount_host]
    rfl
  · simp only [Dev.debugOpening, liftSys_sys, Sys.bringUpStart_host, if_true, Sys.log_host]
    rfl

theorem Dev.debugOpening_opens (d : Dev) (scope : Nat) : (d.debugOpening scope true).sys.mgmt.sec.debugOpen = true
    ∧ (d.debugOpening scope true).sys.mgmt.sec.scope = scope ∧ (d.debugOpening scope true).sys.mgmt.sec.salt = none
    ∧ (d.debugOpening scope true).sys.mgmt.sec.openings = d.sys.mgmt.sec.openings + 1 := by
  simp only [Dev.debugOpening, liftSys_sys, Sys.bringUpStart_sec, if_true, Sys.log_sec]
  exact ⟨rfl, rfl, rfl, rfl⟩

/-- With a salt that is not blank the port stays as it was, and the salt has lost its value. -/
theorem Dev.debugOpening_fails (d : Dev) (scope : Nat) : (d.debugOpening scope false).sys.mgmt.sec.debugOpen = d.sys.mgmt.sec.debugOpen
    ∧ (d.debugOpening scope false).sys.mgmt.sec.salt.isSome = true
    ∧ (d.debugOpening scope false).sys.mgmt.sec.openings = d.sys.mgmt.sec.openings := by
  simp only [Dev.debugOpening, liftSys_sys, Sys.bringUpStart_sec, Bool.false_eq_true, if_false, Sys.log_sec, Sys.onDict_sec, Sys.detectedCount_sec]
  exact ⟨rfl, rfl, rfl⟩

/-- A token that passes its checks finds the port closed. -/
theorem Sys.tokenAbort_closed {s : Sys} {v : List Byte} (h : s.tokenAbort v = none) : s.mgmt.sec.debugOpen = false := by
  unfold Sys.tokenAbort at h
  dsimp only at h
  split_ifs at h with hwf hchallenge hsign hopen
  exact Bool.eq_false_iff.2 hopen

theorem Dev.Accepts.closed {d : Dev} {r : OdpReq} {k : Nat} {v : List Byte} (h : d.Accepts .token r k v) : d.sys.mgmt.sec.debugOpen = false := by
  have hi : r.index = 0xB050 := h.says (by decide)
  have habort := h.unit
  simp only [Dev.unitAbort, hi, Nat.reduceEqDiff, Nat.reduceLeDiff, if_false, if_true, and_false] at habort
  exact d.settled_sec r k ▸ Sys.tokenAbort_closed habort

theorem tokenOpensDebug {s : State} {r : OdpReq} {k : Nat} {v : List Byte} (h : s.dev.Accepts .token r k v) :
    (∃ t, exec (.unlockToken r true) s = .next t ∧ t.pending = s.pending ∧ t.dev.mem = Mem.reset
        ∧ t.dev.sys.mgmt.sec.debugOpen = true ∧ t.dev.sys.mgmt.sec.scope = field v 56 4 ∧ t.dev.sys.mgmt.sec.salt = none
        ∧ t.dev.sys.mgmt.sec.openings = s.dev.sys.mgmt.sec.openings + 1 ∧ t.dev.sys.mgmt.bring.phase = 1)
    ∧ (∃ t, exec (.unlockToken r false) s = .next t ∧ t.pending = s.pending ∧ t.dev.mem = Mem.reset
        ∧ t.dev.sys.mgmt.sec.debugOpen = false ∧ t.dev.sys.mgmt.sec.salt.isSome = true
        ∧ t.dev.sys.mgmt.sec.openings = s.dev.sys.mgmt.sec.openings ∧ t.dev.sys.mgmt.bring.phase = 1) := by
  have hrow := h.row (by decide)
  have hsec : (s.dev.replied r k).sys.mgmt.sec = s.dev.sys.mgmt.sec := by
    rw [Dev.replied_eq h.slot]
    rfl
  have hclosed := h.closed
  rw [← hsec] at hclosed ⊢
  have hgo := fun e => h.reset (by decide) (Dev.objApply_token hrow e)
    ((liftSys Sys.newChallenge (s.dev.replied r k)).debugOpening_resets (field v 56 4) e).2.1
  generalize s.dev.replied r k = d at *
  constructor
  · obtain ⟨hmem, -, hphase⟩ := (liftSys Sys.newChallenge d).debugOpening_resets (field v 56 4) true
    obtain ⟨hopen, hscope, hsalt, hcount⟩ := (liftSys Sys.newChallenge d).debugOpening_opens (field v 56 4)
    exact ⟨_, hgo true, rfl, hmem, hopen, hscope, hsalt, hcount, hphase⟩
  · obtain ⟨hmem, -, hphase⟩ := (liftSys Sys.newChallenge d).debugOpening_resets (field v 56 4) false
    obtain ⟨hopen, hsalt, hcount⟩ := (liftSys Sys.newChallenge d).debugOpening_fails (field v 56 4)
    exact ⟨_, hgo false, rfl, hmem, hopen.trans hclosed, hsalt, hcount, hphase⟩

/-! ### The write to Reset (R82, R588) -/

theorem Dev.objApply_deviceReset {d : Dev} {k : Nat} {r : OdpReq} (h : rowOf r.index r.sub [1] = .deviceReset) :
    d.objApply k r [1] none false = d.requestReset k := by
  unfold Dev.objApply
  dsimp only
  rw [h]
  exact if_pos (by decide)

theorem DictState.afterReset_tx (x : DictState) (w : Bool) (n : Nat) : (x.afterReset w n).tx = x.tx := by
  unfold DictState.afterReset
  dsimp only
  split
  · split <;> rfl
  · rfl

theorem Dev.requestReset_session (d : Dev) (k j : Nat) : (d.requestReset k).sys.session j = Session.free := by
  have hsess : (d.requestReset k).sys.mgmt.dict.sessions = List.replicate 16 Session.free := rfl
  unfold Sys.session
  rw [hsess]
  exact List.getElem?_getD_replicate_default_eq (d := Session.free) 16 j

theorem Dev.requestReset_tx (d : Dev) (k : Nat) : (d.requestReset k).sys.mgmt.dict.tx = d.sys.mgmt.dict.tx :=
  (DictState.afterReset_tx _ _ _).trans (congrArg DictState.tx (Sys.log_dict _ _ _ _ _ _))

theorem Dev.requestReset_debugOpen (d : Dev) (k : Nat) : (d.requestReset k).sys.mgmt.sec.debugOpen = d.sys.mgmt.sec.debugOpen := by
  change (d.sys.action 5 0 k).mgmt.sec.debugOpen = _
  exact congrArg SecState.debugOpen (Sys.log_sec _ _ _ _ _ _)

theorem deviceResetStartsAgain {s : State} {r : OdpReq} {k : Nat} (h : s.dev.Accepts .deviceReset r k [1]) :
    ∃ t, exec (.deviceReset r) s = .next t ∧ t.pending = s.pending ∧ t.dev.mem = Mem.reset ∧ t.dev.sys.core = CoreState.reset
      ∧ t.dev.sys.host = HostState.reset ∧ t.dev.sys.mgmt.bring.phase = 1 ∧ t.dev.sys.mgmt.bring.status = 0
      ∧ (∀ j, t.dev.sys.session j = Session.free) ∧ t.dev.sys.mgmt.sec.debugOpen = s.dev.sys.mgmt.sec.debugOpen
      ∧ t.dev.sys.mgmt.dict.tx = [s.dev.sys.okFrame k r] := by
  have hsec : (s.dev.replied r k).sys.mgmt.sec = s.dev.sys.mgmt.sec := by
    rw [Dev.replied_eq h.slot]
    rfl
  have htx : (s.dev.replied r k).sys.mgmt.dict.tx = [s.dev.sys.okFrame k r] := by
    rw [Dev.replied_eq h.slot]
    rfl
  have hgo := h.reset (by decide) (Dev.objApply_deviceReset (h.row (by decide))) rfl
  generalize s.dev.replied r k = d at *
  exact ⟨_, hgo, rfl, rfl, rfl, rfl, rfl, rfl, d.requestReset_session k, (d.requestReset_debugOpen k).trans (congrArg SecState.debugOpen hsec),
    (d.requestReset_tx k).trans htx⟩

/-! ### The release of HOLD (R93) -/

theorem Dev.objApply_holdRelease {d : Dev} {k : Nat} {r : OdpReq} (h : rowOf r.index r.sub [1] = .holdRelease)
    (hp : d.sys.mgmt.bring.phase = 0x0F) : d.objApply k r [1] none false = liftSys Sys.beginStackTrain d := by
  unfold Dev.objApply
  dsimp only
  rw [h]
  exact if_pos ⟨by decide, hp⟩

theorem holdReleaseTrainsStacks {s : State} {r : OdpReq} {k : Nat} (h : s.dev.Accepts .holdRelease r k [1])
    (hp : s.dev.sys.mgmt.bring.phase = 0x0F) (hr : s.dev.sys.mgmt.bring.stackReason.length = 8)
    (hd : s.dev.sys.mgmt.bring.stackDone.length = 8) :
    let left (st : Nat) : Prop := nth s.dev.sys.mgmt.bring.stackReason st ≠ 5 ∧ s.dev.sys.mgmt.bring.stackDone.getD st false = false
    ∃ t, exec (.holdRelease r) s = .next t ∧ t.pending = s.pending ∧ t.dev.sys.core = s.dev.sys.core
      ∧ t.dev.sys.mgmt.power = s.dev.sys.mgmt.power ∧ t.dev.sys.mgmt.dict.tx = [s.dev.sys.okFrame k r]
      ∧ ((∃ st < 8, left st) → t.dev.sys.mgmt.bring.phase = 3 ∧ t.dev.sys.mgmt.bring.status = 0)
      ∧ ((∀ st < 8, ¬left st) → 4 ≤ t.dev.sys.mgmt.bring.phase) := by
  have hrep : (s.dev.replied r k).sys.core = s.dev.sys.core ∧ (s.dev.replied r k).sys.mgmt.power = s.dev.sys.mgmt.power
      ∧ (s.dev.replied r k).sys.mgmt.bring = s.dev.sys.mgmt.bring ∧ (s.dev.replied r k).sys.mgmt.dict.tx = [s.dev.sys.okFrame k r] := by
    rw [Dev.replied_eq h.slot]
    exact ⟨rfl, rfl, rfl, rfl⟩
  obtain ⟨hcore, hpower, hbring, htx⟩ := hrep
  rw [← hbring] at hp hr hd ⊢
  have hgo := onRings_of ((h.direct (by decide) none false).trans (Dev.objApply_holdRelease (h.row (by decide)) hp))
  generalize s.dev.replied r k = d at *
  obtain ⟨hoff, -, -, hleft, hnone⟩ := Sys.beginStackTrain_spec hd hr
  obtain ⟨ecore, edict, epower, -⟩ := Sys.offLinks_eq hoff
  obtain ⟨fcore, -, fdict, fbring, fpower, -⟩ := (liftSys Sys.beginStackTrain d).syncRings_frame
  rw [liftSys_sys] at fcore fdict fbring fpower
  generalize (liftSys Sys.beginStackTrain d).syncRings = e at *
  refine ⟨_, hgo, rfl, fcore.trans (ecore.trans hcore), fpower.trans (epower.trans hpower), ?_, ?_, ?_⟩
  · exact (congrArg DictState.tx (fdict.trans edict)).trans htx
  · exact fun hex => fbring ▸ hleft hex
  · refine fun hall => fbring ▸ hnone fun st hst => ?_
    exact (not_and_or.1 (hall st hst)).imp not_not.1 (Bool.eq_true_of_not_eq_false ·)

end Sys2Proof.Machine
end

section
/-! PROOF. Accepted writes, part 4: firmware images, their activation and the security version floor (R663 to R667). -/

namespace Sys2Proof.Machine

open Sys2Proof

/-! ### Programming an image (R663, R664) -/

theorem Sys.targetSlot_lt (s : Sys) : s.targetSlot < 2 := by
  unfold Sys.targetSlot
  split <;> omega

theorem Sys.programImage_target {s : Sys} (h : s.mgmt.sec.images.length = 2) (v : List Byte) :
    (s.programImage v).image s.targetSlot = { imageSlotOf v with valid := s.imageStep v == 0, failedStep := s.imageStep v } :=
  (modNth_getD _ _ _ _ _).trans (if_pos ⟨rfl, h.symm ▸ s.targetSlot_lt⟩)

theorem Sys.programImage_other {s : Sys} (v : List Byte) {i : Nat} (h : i ≠ s.targetSlot) : (s.programImage v).image i = s.image i :=
  (modNth_getD _ _ _ _ _).trans (if_neg fun hi => h hi.1.symm)

theorem Dev.Accepts.programs {d : Dev} {r : OdpReq} {k : Nat} {v : List Byte} (h : d.Accepts .image r k v) :
    ∃ code, d.writeRequest .image r none false = liftSys (fun s => (s.programImage v).respond k r (reqOp r) code r.sub) (d.settled r k) := by
  have hrow := h.row (by decide)
  rw [h.writeRequest, Dev.wholeWrite, h.2.2.2.2]
  dsimp only
  rw [if_pos hrow]
  exact ⟨_, rfl⟩

theorem imageIsProgrammed {s : State} {r : OdpReq} {k : Nat} {v : List Byte} (h : s.dev.Accepts .image r k v)
    (hl : s.dev.sys.mgmt.sec.images.length = 2) :
    ∃ t, exec (.imageWrite r) s = .next t ∧ s.Untouched t
      ∧ (t.dev.sys.image s.dev.sys.targetSlot).header = v.take 256
      ∧ (t.dev.sys.image s.dev.sys.targetSlot).valid = (s.dev.sys.imageStep v == 0)
      ∧ (t.dev.sys.image s.dev.sys.targetSlot).failedStep = s.dev.sys.imageStep v
      ∧ t.dev.sys.image (1 - s.dev.sys.targetSlot) = s.dev.sys.image (1 - s.dev.sys.targetSlot)
      ∧ t.dev.sys.mgmt.sec.floor = s.dev.sys.mgmt.sec.floor := by
  obtain ⟨code, hgo⟩ := h.programs
  rw [Dev.settled_eq] at hgo
  refine ⟨_, onRings_of hgo, State.untouched_of rfl rfl rfl rfl rfl rfl, ?_⟩
  clear hgo
  generalize hd : liftSys (fun s => (s.programImage v).respond k r (reqOp r) code r.sub) _ = d
  have hprog : d.sys.mgmt.sec = (s.dev.sys.programImage v).mgmt.sec := by
    subst hd
    rfl
  obtain ⟨-, -, -, -, -, esec⟩ := d.syncRings_frame
  generalize d.syncRings = e at *
  have himage : ∀ i, e.sys.image i = (s.dev.sys.programImage v).image i := fun i =>
    congrArg (fun x : SecState => x.images.getD i ImageSlot.factory) (esec.trans hprog)
  have hlt := s.dev.sys.targetSlot_lt
  dsimp only
  rw [himage, himage, Sys.programImage_target hl, Sys.programImage_other v (by omega)]
  exact ⟨rfl, rfl, rfl, rfl, (congrArg SecState.floor (esec.trans hprog)).trans rfl⟩

/-! ### Writes that wait for their journal record (R145, R665, R666) -/

/-- An accepted write whose value is journalled waits for its record, and changes nothing before it. -/
theorem Dev.Accepts.waits {s : State} {w : WriteRow} {r : OdpReq} {k : Nat} {v : List Byte} (h : s.dev.Accepts w r k v)
    (hw : w ∉ [.writeBlock, .image, .commit]) {vs : List (Nat × List Byte)} (hrec : ∀ x : Sys, x.recordOf r v = some vs) :
    ∃ t, onRings (Dev.writeRequest w r none false) s = .next t ∧ s.Untouched t
      ∧ t.dev.sys.mgmt.dict.jpending = some ⟨{ r with data := v }, k, vs, none⟩ ∧ t.dev.sys.mgmt.sec = s.dev.sys.mgmt.sec := by
  simp only [List.mem_cons, List.not_mem_nil, or_false, not_or] at hw
  obtain ⟨hblock, himage, hcommit⟩ := hw
  obtain rfl := h.row hblock
  have hgo : s.dev.writeRequest (rowOf r.index r.sub v) r none false
      = liftSys (fun s => s.onDict (fun x => { x with jpending := some ⟨{ r with data := v }, k, vs, none⟩ })) (s.dev.settled r k) := by
    rw [h.writeRequest, Dev.wholeWrite, h.2.2.2.2]
    dsimp only
    rw [if_neg himage, if_neg hcommit, hrec]
  rw [Dev.settled_eq] at hgo
  refine ⟨_, onRings_of hgo, State.untouched_of rfl rfl rfl rfl rfl rfl, ?_⟩
  clear hgo
  generalize hd : liftSys (fun s => s.onDict (fun x => { x with jpending := some ⟨{ r with data := v }, k, vs, none⟩ })) _ = d
  obtain ⟨-, -, edict, -, -, esec⟩ := d.syncRings_frame
  generalize d.syncRings = e at *
  subst hd
  exact ⟨congrArg DictState.jpending edict, esec⟩

theorem recordOf_activate {r : OdpReq} {v : List Byte} (h : rowOf r.index r.sub v = .activate) (s : Sys) :
    s.recordOf r v = some [(0xB020 * 256 + 1, v)] := by
  unfold Sys.recordOf
  rw [h]

theorem floor_persists : ((objRow 0xB022 1).map ObjRow.persist).getD false = true := by decide +kernel

theorem recordOf_floor {r : OdpReq} {v : List Byte} (h : rowOf r.index r.sub v = .floor) (s : Sys) :
    s.recordOf r v = some [(0xB022 * 256 + 1, v)] := by
  have hsays := rowOf_says r.index r.sub v
  rw [h] at hsays
  obtain ⟨hi, hsub⟩ := hsays
  unfold Sys.recordOf
  rw [h, hi, hsub]
  exact if_pos floor_persists

theorem floorWaits {s : State} {r : OdpReq} {k : Nat} {v : List Byte} (h : s.dev.Accepts .floor r k v) :
    ∃ t, exec (.floorCommit r) s = .next t ∧ s.Untouched t
      ∧ t.dev.sys.mgmt.dict.jpending = some ⟨{ r with data := v }, k, [(0xB022 * 256 + 1, v)], none⟩
      ∧ t.dev.sys.mgmt.sec.floor = s.dev.sys.mgmt.sec.floor := by
  obtain ⟨t, ht, hu, hp, hsec⟩ := h.waits (by decide) (recordOf_floor (h.row (by decide)))
  exact ⟨t, ht, hu, hp, congrArg SecState.floor hsec⟩

/-! ### The record that a write waits for (R145) -/

/-- What a device whose waiting write is recorded answers, before the write acts. -/
def Dev.recorded (d : Dev) (j : JPending) : Dev :=
  liftSys (fun s => ((s.onDict fun x => { x with tx := [] }).journal.onDict fun x => { x with
    store := storeAll x.store j.values, jpending := none }).respond j.slot j.req (reqOp j.req) 0 j.req.sub) d

/-- A record that fits ends its write; with no datagram held, nothing else follows. -/
theorem journalValid_fits {d : Dev} {j : JPending} (hj : d.sys.mgmt.dict.jpending = some j) (hup : d.sys.mgmtUp = true)
    (hfit : d.sys.mgmt.dict.RecordFits)
    (hheld : ((d.recorded j).applyWrite j.slot j.req j.req.data none false).sys.mgmt.dict.held = []) :
    journalValid 0 d = liftSys (fun s => s.onDict fun x => { x with held := [] })
      ((d.recorded j).applyWrite j.slot j.req j.req.data none false) := by
  obtain ⟨hfull, hroom, -⟩ := hfit
  have hrec : (liftSys (fun s => s.onDict (fun x => { x with tx := [] })) d).recordEnds 0 j
      = (d.recorded j).applyWrite j.slot j.req j.req.data none false := by
    unfold Dev.recordEnds
    rw [if_neg, if_neg (by decide)]
    · rfl
    · change ¬2 ^ 20 < d.sys.mgmt.dict.journalUsed + d.sys.freeNat % 4096 + 1
      omega
  unfold journalValid
  rw [hj]
  dsimp only
  rw [if_neg (by simp [hup, hfull]), hrec, Dev.serveHeld, hheld]
  rfl

/-! ### Activation (R665, R667) -/

theorem Dev.objApply_activate {d : Dev} {k : Nat} {r : OdpReq} {v : List Byte} (h : rowOf r.index r.sub v = .activate) :
    d.objApply k r v none false = liftSys (fun s => s.activateApply (leNat v) k) d := by
  unfold Dev.objApply
  dsimp only
  rw [h]

theorem Dev.applyWrite_activate {d : Dev} {k : Nat} {r : OdpReq} {v : List Byte} (h : rowOf r.index r.sub v = .activate) :
    d.applyWrite k r v none false = liftSys (fun s => (s.setCfg 0xB020 1 v).activateApply (leNat v) k) d := by
  have hi : r.index = 0xB023 := by
    have hsays := rowOf_says r.index r.sub v
    rwa [h] at hsays
  have hkeeps : keeps r.index r.sub = false := hi ▸ keeps_volatile (by decide) _
  unfold Dev.applyWrite
  dsimp only
  rw [Dev.objApply_activate h, h, hkeeps]
  simp only [hi, reduceCtorEq, false_and, Nat.reduceEqDiff, Bool.false_eq_true, if_false, if_true]
  rfl

/-- An activated slot is the selected one and is measured (R665, R667). -/
theorem Sys.activated (s : Sys) (v : List Byte) (k : Nat) :
    ((s.setCfg 0xB020 1 v).activateApply (leNat v) k).cfg 0xB020 1 = v
    ∧ ((s.setCfg 0xB020 1 v).activateApply (leNat v) k).mgmt.sec.measures
      = s.mgmt.sec.measures ++ [⟨9, leNat v, (s.image (leNat v)).digest⟩]
    ∧ ((s.setCfg 0xB020 1 v).activateApply (leNat v) k).mgmt.dict.held = s.mgmt.dict.held := by
  simp only [Sys.activateApply, Sys.cfg, Sys.raiseAll_dict, Sys.raiseAll_sec]
  exact ⟨assoc_assocSet_same _ _ _ _, rfl, rfl⟩

/-- The record of an activation that fits selects the slot and measures it. -/
theorem activation_recorded {s : State} {r : OdpReq} {k : Nat} {v : List Byte} {vs : List (Nat × List Byte)}
    (hrow : rowOf r.index r.sub v = .activate) (hj : s.dev.sys.mgmt.dict.jpending = some ⟨{ r with data := v }, k, vs, none⟩)
    (hup : s.dev.sys.mgmtUp = true) (hfit : s.dev.sys.mgmt.dict.RecordFits) :
    ∃ u, exec (.journalRecordValid 0) s = .next u ∧ u.dev.sys.cfg 0xB020 1 = v
      ∧ u.dev.sys.mgmt.sec.measures = s.dev.sys.mgmt.sec.measures ++ [⟨9, leNat v, (s.dev.sys.image (leNat v)).digest⟩] := by
  have happly := Dev.applyWrite_activate (d := s.dev.recorded ⟨{ r with data := v }, k, vs, none⟩) (k := k) (r := { r with data := v }) hrow
  have hbefore : (s.dev.recorded ⟨{ r with data := v }, k, vs, none⟩).sys.mgmt.dict.held = s.dev.sys.mgmt.dict.held
      ∧ (s.dev.recorded ⟨{ r with data := v }, k, vs, none⟩).sys.mgmt.sec = s.dev.sys.mgmt.sec := ⟨rfl, rfl⟩
  have hgo := journalValid_fits hj hup hfit
  dsimp only at hgo
  rw [happly] at hgo
  generalize s.dev.recorded ⟨{ r with data := v }, k, vs, none⟩ = d at *
  obtain ⟨hheld, hsec⟩ := hbefore
  obtain ⟨hcfg, hmeasures, hkept⟩ := d.sys.activated v k
  have hdone := hgo (hkept.trans (hheld.trans hfit.2.2))
  refine ⟨_, onRings_of hdone, ?_⟩
  clear hgo hdone happly
  generalize he : liftSys (fun s => s.onDict fun x => { x with held := [] }) _ = e
  obtain ⟨-, -, edict, -, -, esec⟩ := e.syncRings_frame
  generalize e.syncRings = e' at *
  subst he
  constructor
  · exact (congrArg (fun x : DictState => assoc x.values (0xB020 * 256 + 1) (objDefault 0xB020 1)) edict).trans hcfg
  · have himage : d.sys.image (leNat v) = s.dev.sys.image (leNat v) := congrArg (fun x : SecState => x.images.getD (leNat v) ImageSlot.factory) hsec
    rw [← himage, ← hsec, ← hmeasures]
    exact congrArg SecState.measures esec

theorem activationWaits {s : State} {r : OdpReq} {k : Nat} {v : List Byte} (h : s.dev.Accepts .activate r k v) :
    ∃ t, exec (.activate r) s = .next t ∧ s.Untouched t
      ∧ t.dev.sys.mgmt.dict.jpending = some ⟨{ r with data := v }, k, [(0xB020 * 256 + 1, v)], none⟩
      ∧ (t.dev.sys.mgmtUp = true → t.dev.sys.mgmt.dict.RecordFits →
        ∃ u, exec (.journalRecordValid 0) t = .next u ∧ u.dev.sys.cfg 0xB020 1 = v
          ∧ u.dev.sys.mgmt.sec.measures
            = s.dev.sys.mgmt.sec.measures ++ [⟨9, leNat v, (s.dev.sys.image (leNat v)).digest⟩]) := by
  have hrow := h.row (by decide)
  obtain ⟨t, ht, hu, hp, hsec⟩ := h.waits (by decide) (recordOf_activate hrow)
  refine ⟨t, ht, hu, hp, fun hup hfit => ?_⟩
  have himage : t.dev.sys.image (leNat v) = s.dev.sys.image (leNat v) := congrArg (fun x : SecState => x.images.getD (leNat v) ImageSlot.factory) hsec
  rw [← himage, ← hsec]
  exact activation_recorded hrow hp hup hfit

end Sys2Proof.Machine
end

section
/-! PROOF. A partition reset, part 1: what the partitions hold, and the functions that leave it as it is. Each lemma says so of one function of the
model, in the order of the model's files; a function that only one other calls is unfolded in its caller's lemma. -/

namespace Sys2Proof.Machine

open Sys2Proof

/-- What a reset takes from a partition, each thing with its owner, and how far the resets have come (Table 16-10). -/
structure Holdings where
  /-- the step and the count of each partition's resets -/
  resets : List (Nat × Nat)
  windows : List (Nat × Window)
  /-- number, partition and ring of each block -/
  blocks : List (Nat × Nat × Nat)
  /-- the partition of each descriptor -/
  tasks : List Nat
  /-- the partition of each fabric operation -/
  ops : List Nat

def Partition.resetting (q : Partition) : Nat × Nat := (q.resetStep, q.resets)
def Block.context (b : Block) : Nat × Nat × Nat := (b.id, b.part, b.ring)

def Sys.holdings (s : Sys) : Holdings where
  resets := s.host.parts.map Partition.resetting
  windows := s.fab.windows
  blocks := s.core.blocks.map Block.context
  tasks := s.host.tasks.map KTask.part
  ops := s.fab.ops.map FabOp.part

/-! ### Updates of one part of the state -/

section
variable {s : Sys}

@[simp] theorem Sys.onCore_holdings {f : CoreState → CoreState} (hb : ∀ x, (f x).blocks.map Block.context = x.blocks.map Block.context) :
    (s.onCore f).holdings = s.holdings := by
  simp only [Sys.holdings, Sys.onCore, hb]

@[simp] theorem Sys.onHost_holdings {f : HostState → HostState} (hp : ∀ x, (f x).parts.map Partition.resetting = x.parts.map Partition.resetting)
    (ht : ∀ x, (f x).tasks.map KTask.part = x.tasks.map KTask.part) : (s.onHost f).holdings = s.holdings := by
  simp only [Sys.holdings, Sys.onHost, hp, ht]

@[simp] theorem Sys.onFab_holdings {f : FabState → FabState} (hw : ∀ x, (f x).windows = x.windows)
    (ho : ∀ x, (f x).ops.map FabOp.part = x.ops.map FabOp.part) : (s.onFab f).holdings = s.holdings := by
  simp only [Sys.holdings, Sys.onFab, hw, ho]

/-- An update of a partition that leaves its reset where it is. -/
theorem Sys.onPart_holdings {f : Partition → Partition} (h : ∀ q, (f q).resetting = q.resetting) (p : Nat) : (s.onPart p f).holdings = s.holdings :=
  Sys.onHost_holdings (fun x => map_modNth h x.parts p) fun _ => rfl

/-- An update of a block that leaves it with its context. -/
theorem Sys.onBlock_holdings {f : Block → Block} (h : ∀ b, (f b).context = b.context) (id : Nat) : (s.onBlock id f).holdings = s.holdings := by
  refine Sys.onCore_holdings fun x => ?_
  simp only [List.map_map]
  refine List.map_congr_left fun b _ => ?_
  simp only [Function.comp_apply]
  split
  · exact h b
  · rfl

end

section
variable (s : Sys)

@[simp] theorem Sys.drew_holdings (n : Nat) : (s.drew n).holdings = s.holdings := rfl
@[simp] theorem Sys.onBring_holdings (f : BringUp → BringUp) : (s.onBring f).holdings = s.holdings := rfl
@[simp] theorem Sys.onRel_holdings (f : RelState → RelState) : (s.onRel f).holdings = s.holdings := rfl
@[simp] theorem Sys.onRing_holdings (r : Nat) (f : Ring → Ring) : (s.onRing r f).holdings = s.holdings := by simp [Sys.onRing]
@[simp] theorem Sys.onQp_holdings (i : Nat) (f : Qp → Qp) : (s.onQp i f).holdings = s.holdings := by simp [Sys.onQp]
@[simp] theorem Sys.onEpoch_holdings (g : Nat) (f : Epoch → Epoch) : (s.onEpoch g f).holdings = s.holdings := by simp [Sys.onEpoch]
@[simp] theorem Sys.onSlot_holdings (g : Nat) (f : Slot → Slot) : (s.onSlot g f).holdings = s.holdings := by simp [Sys.onSlot]

end

@[simp] theorem ite_holdings (c : Prop) [Decidable c] (s t : Sys) : (if c then s else t).holdings = if c then s.holdings else t.holdings :=
  apply_ite _ _ _ _

@[simp] theorem ite_sys_holdings (c : Prop) [Decidable c] (d e : Dev) :
    (if c then d else e).sys.holdings = if c then d.sys.holdings else e.sys.holdings := apply_ite (fun x : Dev => x.sys.holdings) _ _ _

@[simp] theorem runAll_holdings {β : Type} {f : β → Sys → Sys} (h : ∀ b x, (f b x).holdings = x.holdings) (l : List β) (s : Sys) :
    (runAll f l s).holdings = s.holdings := runAll_keeps f Sys.holdings h l s

@[simp] theorem runAll_sys_holdings {β : Type} {f : β → Dev → Dev} (h : ∀ b x, (f b x).sys.holdings = x.sys.holdings) (l : List β) (d : Dev) :
    (runAll f l d).sys.holdings = d.sys.holdings := runAll_keeps f (fun x => x.sys.holdings) h l d

/-! ### Logs, memory and the doorbell pages -/

@[simp] theorem Sys.log_holdings (s : Sys) (kind unit part cls : Nat) (detail : List Byte) : (s.log kind unit part cls detail).holdings = s.holdings := by
  simp [Sys.log]

@[simp] theorem Sys.raise_holdings (s : Sys) (p code source : Nat) (detail : List Byte) : (s.raise p code source detail).holdings = s.holdings := by
  simp [Sys.raise]

@[simp] theorem Sys.charge_holdings (s : Sys) (p n : Nat) : (s.charge p n).holdings = s.holdings := by
  refine Sys.onPart_holdings (fun q => ?_) p
  rfl

@[simp] theorem Dev.partialLost_holdings (d : Dev) (st line : Nat) : (d.partialLost st line).sys.holdings = d.sys.holdings := by
  simp [Dev.partialLost]

@[simp] theorem Dev.writePiece_holdings (d : Dev) (st L : Nat) (bs : List Byte) : (d.writePiece st L bs).sys.holdings = d.sys.holdings := by
  simp [Dev.writePiece]

@[simp] theorem Dev.writeRange_holdings (d : Dev) (p a : Nat) (bs : List Byte) : (d.writeRange p a bs).sys.holdings = d.sys.holdings := by
  simp [Dev.writeRange]

@[simp] theorem Dev.syncRings_holdings (d : Dev) : d.syncRings.sys.holdings = d.sys.holdings := by
  simp [Dev.syncRings, Dev.syncRing]

@[simp] theorem Dev.kettleWritePiece_holdings (d : Dev) (st L : Nat) (bs : List Byte) : (d.kettleWritePiece st L bs).sys.holdings = d.sys.holdings := by
  simp [Dev.kettleWritePiece]

@[simp] theorem ReadRes.kettleStep_holdings (p : Nat) (pc : Nat × Nat) (r : ReadRes) : (r.kettleStep p pc).dev.sys.holdings = r.dev.sys.holdings := by
  simp only [ReadRes.kettleStep]
  split <;> rfl

@[simp] theorem Dev.kettleRead_holdings (d : Dev) (p a n : Nat) : (d.kettleRead p a n).dev.sys.holdings = d.sys.holdings :=
  runAll_keeps (ReadRes.kettleStep p) (fun r => r.dev.sys.holdings) (ReadRes.kettleStep_holdings p) _ _

/-! ### Blocks -/

@[simp] theorem Sys.csWrite_holdings (s : Sys) (id a : Nat) (bs : List Byte) : (s.csWrite id a bs).holdings = s.holdings := by
  refine Sys.onBlock_holdings (fun b => ?_) id
  rfl

@[simp] theorem Sys.csStore_holdings (s : Sys) (id a : Nat) (bs : List Byte) : (s.csStore id a bs).holdings = s.holdings := by
  simp [Sys.csStore, Sys.wakeArr]

@[simp] theorem Sys.killContext_holdings (s : Sys) (p ring code source : Nat) (detail : List Byte) :
    (s.killContext p ring code source detail).holdings = s.holdings := by
  simp [Sys.killContext, CoreState.countFault, apply_ite]

@[simp] theorem Sys.lateFault_holdings (s : Sys) (gid : Gid) (block pc code : Nat) : (s.lateFault gid block pc code).holdings = s.holdings := by
  unfold Sys.lateFault
  split <;> simp

@[simp] theorem Sys.holdAtom_holdings (s : Sys) (gid : Gid) (w : AtomWork) (olds : List (Nat × Nat)) : (s.holdAtom gid w olds).holdings = s.holdings := by
  unfold Sys.holdAtom
  split <;> simp [Sys.hold]

@[simp] theorem Dev.atomDo_holdings (d : Dev) (x : PStore) (w : AtomWork) : (d.atomDo x w).sys.holdings = d.sys.holdings := by simp [Dev.atomDo]

@[simp] theorem copyWrite_holdings (p a : Nat) (bs : List Byte) (na : Bool) (d : Dev) : (copyWrite p a bs na d).sys.holdings = d.sys.holdings := by
  simp [copyWrite, releaseLines]

@[simp] theorem copyMove_holdings (c : Copy) (val : Nat → Byte) (offs : List Nat) (d : Dev) : (copyMove c val offs d).sys.holdings = d.sys.holdings := by
  simp [copyMove, copyPiece]

@[simp] theorem storeSome_holdings (x : PStore) (d : Dev) : (storeSome x d).sys.holdings = d.sys.holdings := by
  unfold storeSome
  (repeat' split) <;> simp

@[simp] theorem copySome_holdings (c : Copy) (d : Dev) : (copySome c d).sys.holdings = d.sys.holdings := by simp [copySome]

@[simp] theorem Sys.finishFailing_holdings (s : Sys) : s.finishFailing.holdings = s.holdings := by
  refine runAll_holdings (fun n x => ?_) _ s
  unfold Sys.coreFailedEvent
  dsimp only
  split <;> simp

@[simp] theorem Sys.reportKill_holdings (s : Sys) (k : Kill) (inReset : Bool) : (s.reportKill k inReset).holdings = s.holdings := by
  simp [Sys.reportKill]

/-! ### Rings, queue pairs and streams -/

@[simp] theorem Sys.stopRing_holdings (s : Sys) (r reason : Nat) : (s.stopRing r reason).holdings = s.holdings := by simp [Sys.stopRing]

@[simp] theorem Sys.completeUid_holdings (s : Sys) (r uid status detail : Nat) : (s.completeUid r uid status detail).holdings = s.holdings := by
  unfold Sys.completeUid
  split <;> simp

@[simp] theorem Sys.qpError_holdings (s : Sys) (i : Nat) : (s.qpError i).holdings = s.holdings := by simp [Sys.qpError]

@[simp] theorem Sys.discardReq_holdings (s : Sys) (r : FabReq) : (Sys.discardReq r s).holdings = s.holdings := by
  simp [Sys.discardReq, Sys.ackSeq, Sys.fencesDone, Sys.fenceDone, Sys.bumpCounter]

/-! ### Epochs -/

@[simp] theorem Sys.enterEpoch_holdings (s : Sys) (g st : Nat) : (s.enterEpoch g st).holdings = s.holdings := by simp [Sys.enterEpoch]

@[simp] theorem Sys.finishEpoch_holdings (s : Sys) (g status : Nat) : (s.finishEpoch g status).holdings = s.holdings := by simp [Sys.finishEpoch]

@[simp] theorem Sys.stepEnded_holdings (s : Sys) (g status : Nat) : (s.stepEnded g status).holdings = s.holdings := by
  simp [Sys.stepEnded, Sys.castVote, Sys.sendCtrl, Sys.inject]

@[simp] theorem Sys.resetEpoch_holdings (p g : Nat) (s : Sys) : (Sys.resetEpoch p g s).holdings = s.holdings := by simp [Sys.resetEpoch]

/-! ### Kettle's engines -/

@[simp] theorem Dev.kInput_holdings (d : Dev) (t : KTask) : (d.kInput t).dev.sys.holdings = d.sys.holdings :=
  runAll_keeps (KRead.step t.part) (fun k => k.dev.sys.holdings) (fun _ _ => Dev.kettleRead_holdings _ _ _ _) _ _

@[simp] theorem Dev.kPartial_holdings (t : KTask) (d : Dev) : (Dev.kPartial t d).sys.holdings = d.sys.holdings := by
  simp [Dev.kPartial, Dev.kettleWriteSome]

end Sys2Proof.Machine
end

section
/-! PROOF. A partition reset, part 2: what its steps take, and the write that starts it (R589 to R592, Table 16-10). -/

namespace Sys2Proof.Machine

open Sys2Proof

/-! ### The work of a context is freed (Table 5-7) -/

/-- Only blocks and fabric operations went. -/
def Holdings.Shrinks (h h' : Holdings) : Prop :=
  h'.resets = h.resets ∧ h'.windows = h.windows ∧ h'.tasks = h.tasks ∧ h'.blocks ⊆ h.blocks

theorem Holdings.Shrinks.refl (h : Holdings) : h.Shrinks h := ⟨rfl, rfl, rfl, List.Subset.refl _⟩

theorem Holdings.Shrinks.trans {a b c : Holdings} (h : a.Shrinks b) (h' : b.Shrinks c) : a.Shrinks c := by
  obtain ⟨hr, hw, ht, hb⟩ := h
  obtain ⟨hr', hw', ht', hb'⟩ := h'
  exact ⟨hr'.trans hr, hw'.trans hw, ht'.trans ht, List.Subset.trans hb' hb⟩

/-- No block of a context is left. -/
def Holdings.Free (p r : Nat) (h : Holdings) : Prop := ∀ b ∈ h.blocks, b.2 ≠ (p, r)

theorem Holdings.Free.shrinks {p r : Nat} {h h' : Holdings} (hf : h.Free p r) (hs : h.Shrinks h') : h'.Free p r :=
  fun b hb => hf b (hs.2.2.2 hb)

theorem Sys.endOps_holdings (s : Sys) (ends : FabOp → Bool) : (s.endOps ends).holdings.resets = s.holdings.resets
    ∧ (s.endOps ends).holdings.windows = s.holdings.windows ∧ (s.endOps ends).holdings.blocks = s.holdings.blocks
    ∧ (s.endOps ends).holdings.tasks = s.holdings.tasks := by
  unfold Sys.endOps
  dsimp only
  rw [runAll_holdings fun r x => x.discardReq_holdings r]
  exact ⟨rfl, rfl, rfl, rfl⟩

theorem Sys.mem_contextBlocks {s : Sys} {b : Nat × Nat × Nat} (hb : b ∈ s.holdings.blocks) {p r : Nat} (h : b.2 = (p, r)) :
    b.1 ∈ s.contextBlocks p r := by
  obtain ⟨x, hx, rfl⟩ := List.mem_map.1 hb
  obtain ⟨hp, hr⟩ := Prod.mk.inj h
  exact List.mem_map.2 ⟨x, List.mem_filter.2 ⟨hx, by simp [hp, hr]⟩, rfl⟩

/-- A freed context loses its blocks, and no partition loses anything else but fabric operations. -/
theorem Dev.freeContext_holdings (d : Dev) (p r : Nat) : (d.freeContext p r).sys.holdings.resets = d.sys.holdings.resets
    ∧ (d.freeContext p r).sys.holdings.windows = d.sys.holdings.windows
    ∧ (d.freeContext p r).sys.holdings.blocks = d.sys.holdings.blocks.filter (fun b => !(d.sys.contextBlocks p r).contains b.1)
    ∧ (d.freeContext p r).sys.holdings.tasks = d.sys.holdings.tasks := by
  unfold Dev.freeContext
  extract_lets ids gids d1 d2
  have hd : d2.sys.holdings = d.sys.holdings := by simp [d2, d1]
  rw [← hd]
  obtain ⟨hresets, hwindows, hblocks, htasks⟩ := Sys.endOps_holdings _ _
  have hfilter : (d2.sys.core.blocks.filter fun b => !ids.contains b.id).map Block.context
      = d2.sys.holdings.blocks.filter fun b => !ids.contains b.1 :=
    (List.filter_map (f := Block.context) (p := fun b => !ids.contains b.1) (l := d2.sys.core.blocks)).symm
  exact ⟨hresets, hwindows, hblocks.trans hfilter, htasks⟩

theorem Dev.freeContext_shrinks (d : Dev) (p r : Nat) : d.sys.holdings.Shrinks (d.freeContext p r).sys.holdings := by
  obtain ⟨hresets, hwindows, hblocks, htasks⟩ := d.freeContext_holdings p r
  exact ⟨hresets, hwindows, htasks, hblocks ▸ List.filter_subset_self _⟩

theorem Dev.freeContext_free (d : Dev) (p r : Nat) : (d.freeContext p r).sys.holdings.Free p r := by
  obtain ⟨-, -, hblocks, -⟩ := d.freeContext_holdings p r
  intro b hb he
  obtain ⟨hmem, hkept⟩ := List.mem_filter.1 (hblocks ▸ hb)
  simp [Sys.mem_contextBlocks hmem he] at hkept

/-- A run over rings frees each of their contexts. -/
theorem Dev.freeContexts (p : Nat) (rs : List Nat) (d : Dev) :
    d.sys.holdings.Shrinks (runAll (fun r d => d.freeContext p r) rs d).sys.holdings
      ∧ ∀ r ∈ rs, (runAll (fun r d => d.freeContext p r) rs d).sys.holdings.Free p r := by
  induction rs generalizing d with
  | nil => exact ⟨.refl _, fun r hr => absurd hr List.not_mem_nil⟩
  | cons r rs ih =>
    obtain ⟨hshrinks, hfree⟩ := ih (d.freeContext p r)
    refine ⟨(d.freeContext_shrinks p r).trans hshrinks, fun q hq => ?_⟩
    obtain rfl | hq := List.mem_cons.1 hq
    · exact (d.freeContext_free p q).shrinks hshrinks
    · exact hfree q hq

/-! ### The steps (R590) -/

theorem Sys.part_resetting (s : Sys) (p : Nat) : (s.part p).resetting = s.holdings.resets.getD p Partition.reset.resetting :=
  (List.getD_map ..).symm

/-- The partition's windows in state 1 enter state 2 (R465). -/
def closeWindow (p : Nat) (w : Nat × Window) : Nat × Window := if w.2.part == p && w.2.state == 1 then (w.1, { w.2 with state := 2 }) else w

theorem closeWindow_closed {p : Nat} {w : Nat × Window} (h : (closeWindow p w).2.part = p) : (closeWindow p w).2.state ≠ 1 := by
  unfold closeWindow at *
  split
  · exact (by decide : 2 ≠ 1)
  next hn =>
    rw [if_neg hn] at h
    simpa [h] using hn

/-- Step 1: the reset is counted, and the partition's windows are closed. -/
theorem Sys.resetStep1_holdings (s : Sys) (p : Nat) : (s.resetStep1 p).holdings
    = ⟨(modNth s.host.parts p fun q => { q with resetStep := 5, resets := (q.resets + 1) % 2 ^ 32 }).map Partition.resetting,
      s.fab.windows.map (closeWindow p), s.holdings.blocks, s.holdings.tasks, s.holdings.ops⟩ := by
  unfold Sys.resetStep1
  extract_lets s1 s2
  have hs : s2.holdings = s1.holdings := by simp [s2]
  clear_value s2
  change ({ s2.holdings with windows := s2.holdings.windows.map (closeWindow p) } : Holdings) = _
  rw [hs]
  rfl

theorem Sys.mem_ringsRunning {s : Sys} {b : Nat × Nat × Nat} (hb : b ∈ s.holdings.blocks) {p r : Nat} (hr : r < 64) (h : b.2 = (p, r)) :
    r ∈ s.ringsRunning p := by
  obtain ⟨x, hx, rfl⟩ := List.mem_map.1 hb
  obtain ⟨hp, hring⟩ := Prod.mk.inj h
  have hany : s.core.blocks.any (fun b => b.part == p && b.ring == r) = true := List.any_eq_true.2 ⟨x, hx, by simp [hp, hring]⟩
  exact List.mem_filter.2 ⟨List.mem_range.2 hr, by simp only [hany, Bool.true_or]⟩

/-- Step 2: no context of the partition is left. -/
theorem Dev.resetStep2_frees (d : Dev) (p : Nat) : d.sys.holdings.Shrinks (d.resetStep2 p).sys.holdings
    ∧ ∀ r < 64, (d.resetStep2 p).sys.holdings.Free p r := by
  obtain ⟨hshrinks, hfree⟩ := Dev.freeContexts p (d.sys.ringsRunning p) d
  have hkeep : (d.resetStep2 p).sys.holdings = (runAll (fun r d => d.freeContext p r) (d.sys.ringsRunning p) d).sys.holdings := by
    simp [Dev.resetStep2]
  rw [hkeep]
  refine ⟨hshrinks, fun r hr => ?_⟩
  by_cases hmem : r ∈ d.sys.ringsRunning p
  · exact hfree r hmem
  · exact Holdings.Free.shrinks (fun b hb he => hmem (Sys.mem_ringsRunning hb hr he)) hshrinks

/-- Step 3: no descriptor of the partition is left. -/
theorem Dev.resetStep3_holdings (d : Dev) (p : Nat) : (d.resetStep3 p).sys.holdings
    = { d.sys.holdings with tasks := d.sys.holdings.tasks.filter (fun q => q != p) } := by
  unfold Dev.resetStep3
  have hd : (runAll Dev.kPartial (d.sys.host.tasks.filter (fun t => t.part == p && (t.phase == 1 || t.phase == 2))) d).sys.holdings
      = d.sys.holdings := by simp
  rw [← hd]
  generalize runAll Dev.kPartial _ d = e
  have hfilter : (e.sys.host.tasks.filter fun t => t.part != p).map KTask.part = e.sys.holdings.tasks.filter fun q => q != p :=
    (List.filter_map (f := KTask.part) (p := fun q => q != p) (l := e.sys.host.tasks)).symm
  rw [← hfilter, liftSys_sys]
  dsimp only
  refine (runAll_holdings (fun g x => x.resetEpoch_holdings p g) _ _).trans ?_
  refine (runAll_holdings (fun g x => ?_) _ _).trans ?_
  · simp
  · rfl

/-- Step 4: no fabric operation of the partition is left. -/
theorem Sys.resetStep4_holdings (s : Sys) (p : Nat) : (s.resetStep4 p).holdings
    = { s.holdings with ops := s.holdings.ops.filter (fun q => q != p) } := by
  have hfilter : (s.fab.ops.filter fun o => o.part != p).map FabOp.part = s.holdings.ops.filter fun q => q != p :=
    (List.filter_map (f := FabOp.part) (p := fun q => q != p) (l := s.fab.ops)).symm
  rw [← hfilter]
  unfold Sys.resetStep4
  refine (runAll_holdings (fun i x => ?_) _ _).trans ?_
  · simp
  · rfl

/-- What steps 1 to 4 of a partition's reset leave of it (Table 16-10). -/
structure Holdings.Reset (p count : Nat) (h : Holdings) : Prop where
  counted : h.resets.getD p Partition.reset.resetting = (5, count)
  closed : ∀ w ∈ h.windows, w.2.part = p → w.2.state ≠ 1
  free : ∀ r < 64, h.Free p r
  tasks : p ∉ h.tasks
  ops : p ∉ h.ops

theorem Dev.startReset_resets {d : Dev} {p : Nat} (hp : p < d.sys.host.parts.length) (hn : d.sys.resetting p = false) :
    (d.startReset p).sys.holdings.Reset p (((d.sys.part p).resets + 1) % 2 ^ 32) := by
  have h1 := d.sys.resetStep1_holdings p
  obtain ⟨⟨hresets, hwindows, -, -⟩, hfree⟩ := Dev.resetStep2_frees (liftSys (fun s => s.resetStep1 p) d) p
  rw [liftSys_sys, h1] at hresets hwindows
  unfold Dev.startReset
  rw [if_neg (by simp [hn])]
  dsimp only
  rw [liftSys_sys, Sys.resetStep4_holdings, Dev.resetStep3_holdings]
  generalize (liftSys (fun s => s.resetStep1 p) d).resetStep2 p = e at *
  refine ⟨?_, fun w hw hpart => ?_, hfree, fun hmem => ?_, fun hmem => ?_⟩
  · dsimp only
    rw [hresets, List.getD_map, modNth_getD, if_pos ⟨rfl, hp⟩]
    rfl
  · dsimp only at hw
    rw [hwindows] at hw
    obtain ⟨x, -, rfl⟩ := List.mem_map.1 hw
    exact closeWindow_closed hpart
  · simpa using (List.mem_filter.1 hmem).2
  · simpa using (List.mem_filter.1 hmem).2

/-! ### The write to Partition reset (R589, R590) -/

theorem Dev.objApply_partReset {d : Dev} {k : Nat} {r : OdpReq} (h : rowOf r.index r.sub [1] = .partReset)
    (hn : d.sys.resetting (r.sub - 1) = false) :
    d.objApply k r [1] none false = (liftSys (fun s => s.actionOther k) d).startReset (r.sub - 1) := by
  unfold Dev.objApply
  dsimp only
  rw [h]
  dsimp only
  rw [if_pos (by decide), if_neg (by simp [hn])]

/-- The reset of a partition is written at a subindex of its own. -/
theorem Dev.Accepts.partition {d : Dev} {r : OdpReq} {k : Nat} {v : List Byte} (h : d.Accepts .partReset r k v) : r.sub - 1 < 16 := by
  have hi : r.index = 0x8021 := h.says (by decide)
  cases ho : objRow r.index r.sub with
  | none =>
    have hrow := h.row (by decide)
    rw [rowOf, ho] at hrow
    cases hrow
  | some o =>
    obtain ⟨-, -, h1, h16⟩ := objRow_volatile (hi ▸ by decide) ho
    omega

theorem partitionResetTakes {s : State} {r : OdpReq} {k : Nat} (h : s.dev.Accepts .partReset r k [1])
    (hl : s.dev.sys.host.parts.length = 16) (hn : s.dev.sys.resetting (r.sub - 1) = false) :
    ∃ t, exec (.partitionReset r) s = .next t ∧ t.pending = s.pending ∧ (t.dev.sys.part (r.sub - 1)).resetStep = 5
      ∧ (t.dev.sys.part (r.sub - 1)).resets = ((s.dev.sys.part (r.sub - 1)).resets + 1) % 2 ^ 32
      ∧ (∀ w ∈ t.dev.sys.fab.windows, w.2.part = r.sub - 1 → w.2.state ≠ 1)
      ∧ (∀ b ∈ t.dev.sys.core.blocks, b.ring < 64 → b.part ≠ r.sub - 1)
      ∧ (∀ x ∈ t.dev.sys.host.tasks, x.part ≠ r.sub - 1) ∧ (∀ o ∈ t.dev.sys.fab.ops, o.part ≠ r.sub - 1) := by
  have hlt := h.partition
  have hhost : ((s.dev.replied r k).sys.actionOther k).host = s.dev.sys.host := by
    rw [Dev.replied_eq h.slot]
    exact Sys.log_host _ _ _ _ _ _
  have hpart : ∀ p, ((s.dev.replied r k).sys.actionOther k).part p = s.dev.sys.part p := fun p =>
    congrArg (fun x : HostState => x.parts.getD p Partition.reset) hhost
  have hgo := onRings_of ((h.direct (by decide) none false).trans (Dev.objApply_partReset (h.row (by decide)) (by
    rw [Dev.replied_eq h.slot]
    exact hn)))
  have hreset := Dev.startReset_resets (d := liftSys (fun s => s.actionOther k) (s.dev.replied r k)) (p := r.sub - 1)
    (by rw [liftSys_sys, hhost, hl]; exact hlt) ((congrArg (fun q : Partition => q.resetStep != 0) (hpart _)).trans hn)
  rw [liftSys_sys, hpart, ← Dev.syncRings_holdings] at hreset
  generalize ((liftSys (fun s => s.actionOther k) (s.dev.replied r k)).startReset (r.sub - 1)).syncRings = e at *
  obtain ⟨hcounted, hclosed, hfree, htasks, hops⟩ := hreset
  rw [← Sys.part_resetting] at hcounted
  refine ⟨_, hgo, rfl, congrArg Prod.fst hcounted, congrArg Prod.snd hcounted, hclosed, fun b hb hr hp => ?_, fun x hx hp => ?_, fun o ho hp => ?_⟩
  · exact hfree b.ring hr b.context (List.mem_map_of_mem hb) (congrArg (·, b.ring) hp)
  · exact htasks (hp ▸ List.mem_map_of_mem hx)
  · exact hops (hp ▸ List.mem_map_of_mem ho)

/-- Settles O45, clause by clause: each write is answered and then does what its object does; a device reset and a debug opening leave no ring in
effect, and a partition reset is followed through its first four steps by what the partitions hold. -/
theorem resetImageAndSecurityWrites : Obligations.ResetImageAndSecurityWrites := by
  refine ⟨fun s r k v hv => ?_, fun s r k v => ⟨imageIsProgrammed, activationWaits, floorWaits⟩,
    fun s r k v _ => ⟨nonceBuildsReport, wrapSeals, unwrapOpens, tokenOpensDebug⟩⟩
  subst hv
  exact ⟨deviceResetStartsAgain, partitionResetTakes, holdReleaseTrainsStacks⟩

end Sys2Proof.Machine
end

section
/-! PROOF. Requests, part 1: a datagram's turn, the handshake and the end of a session (R128, R142, R149 to R162). -/

namespace Sys2Proof.Machine

open Sys2Proof

/-! ### Order of arrival (R128, R149 to R152, R162) -/

theorem Dev.arrive_elsewhere {d : Dev} {g : Datagram} (h : d.sys.odpTakes g.to.1 g.to.2.1 g.to.2.2 = false) : d.arrive g = d :=
  if_neg (by simp [h])

theorem Dev.arrive_turn {d : Dev} {g : Datagram} (h : d.Turn g.to.1 g.to.2.1 g.to.2.2) : d.arrive g = d.heard.execute g := by
  obtain ⟨hto, hidle⟩ := h
  unfold Dev.arrive
  dsimp only
  rw [if_pos hto, hidle]
  rfl

/-- While a request executes, another datagram is held, or discarded with 64 held. -/
theorem Dev.arrive_waits {d : Dev} {g : Datagram} {j : JPending} (hto : d.sys.odpTakes g.to.1 g.to.2.1 g.to.2.2 = true)
    (hj : d.sys.mgmt.dict.jpending = some j) (hr : j.repeats g = false) :
    d.arrive g = if d.sys.mgmt.dict.held.length < 64 then liftSys (fun s => s.onDict (fun x => { x with held := x.held ++ [g] })) d
      else liftSys Sys.discard d := by
  unfold Dev.arrive
  dsimp only
  rw [if_pos hto, hj]
  exact if_neg (by simp [hr])

theorem onDev_turn {s : State} {g : Datagram} {d : Dev} (h : s.dev.Turn g.to.1 g.to.2.1 g.to.2.2) (hd : s.dev.heard.execute g = d) :
    onDev (Dev.arrive g) s = .next { s with dev := d } := by
  rw [onDev, Dev.arrive_turn h, hd]

theorem datagramsWaitTheirTurn : Claims.DatagramsWaitTheirTurn := by
  intro s g c hc
  have hrun : exec c s = onDev (Dev.arrive g) s := by
    cases g with
    | write => exact hc.elim
    | _ => subst hc; rfl
  refine ⟨fun hto => ?_, fun j hto hj hr => ⟨fun hlt => ?_, fun hge => ?_⟩⟩
  · rw [hrun, onDev, Dev.arrive_elsewhere hto]
  · rw [hrun, onDev, Dev.arrive_waits hto hj hr, if_pos hlt]
    rfl
  · rw [hrun, onDev, Dev.arrive_waits hto hj hr, if_neg (Nat.not_lt.2 hge)]
    rfl

theorem Dev.Turn.serves {d : Dev} {iface : Nat} {dst : IpAddr} {dport : Nat} (h : d.Turn iface dst dport) : d.sys.odpServes iface = true := by
  obtain ⟨hto, -⟩ := h
  simp only [Sys.odpTakes, Bool.and_eq_true] at hto
  exact hto.1.1

/-! ### What a request leaves alone -/

/-- A state with its dictionary and its count of free values forgotten. -/
def Sys.offDict (s : Sys) : Sys := { s with mgmt.dict := DictState.reset, freeCtr := 0 }

@[simp] theorem Dev.heard_offDict (d : Dev) : d.heard.sys.offDict = d.sys.offDict := rfl
@[simp] theorem Dev.heard_session (d : Dev) (k : Nat) : d.heard.sys.session k = d.sys.session k := rfl
@[simp] theorem Dev.heard_values (d : Dev) : d.heard.sys.mgmt.dict.values = d.sys.mgmt.dict.values := rfl
@[simp] theorem Dev.heard_store (d : Dev) : d.heard.sys.mgmt.dict.store = d.sys.mgmt.dict.store := rfl
@[simp] theorem Dev.heard_tx (d : Dev) : d.heard.sys.mgmt.dict.tx = [] := rfl
@[simp] theorem Sys.onDict_offDict (s : Sys) (f : DictState → DictState) : (s.onDict f).offDict = s.offDict := rfl
@[simp] theorem Sys.onSession_offDict (s : Sys) (k : Nat) (f : Session → Session) : (s.onSession k f).offDict = s.offDict := rfl
@[simp] theorem Sys.drew_offDict (s : Sys) (n : Nat) : (s.drew n).offDict = s.offDict := rfl

theorem Sys.offDict_parts {s t : Sys} (h : t.offDict = s.offDict) :
    t.core = s.core ∧ t.host = s.host ∧ t.fab = s.fab ∧ t.mgmt.power = s.mgmt.power ∧ t.mgmt.bring = s.mgmt.bring
      ∧ t.mgmt.rel = s.mgmt.rel ∧ t.mgmt.sec = s.mgmt.sec :=
  ⟨(congrArg (fun x : Sys => x.core) h :), (congrArg (fun x : Sys => x.host) h :), (congrArg (fun x : Sys => x.fab) h :),
    (congrArg (fun x : Sys => x.mgmt.power) h :), (congrArg (fun x : Sys => x.mgmt.bring) h :), (congrArg (fun x : Sys => x.mgmt.rel) h :),
    (congrArg (fun x : Sys => x.mgmt.sec) h :)⟩

/-- A command that changes the dictionary alone, and brings no doorbell page up to date. -/
theorem State.untouched_offDict {s : State} {d : Dev} (hm : d.mem = s.dev.mem) (h : d.sys.offDict = s.dev.sys.offDict) :
    s.Untouched { s with dev := d } := by
  obtain ⟨hcore, -, -, hpower, hbring, -⟩ := Sys.offDict_parts h
  exact ⟨rfl, hcore, hpower, hbring, fun _ st L _ => by rw [hm]⟩

@[simp] theorem Sys.onSession_values (s : Sys) (k : Nat) (f : Session → Session) : (s.onSession k f).mgmt.dict.values = s.mgmt.dict.values := rfl
@[simp] theorem Sys.onSession_store (s : Sys) (k : Nat) (f : Session → Session) : (s.onSession k f).mgmt.dict.store = s.mgmt.dict.store := rfl
@[simp] theorem Sys.onSession_tx (s : Sys) (k : Nat) (f : Session → Session) : (s.onSession k f).mgmt.dict.tx = s.mgmt.dict.tx := rfl

theorem Sys.onSession_session_ne (s : Sys) {j k : Nat} (h : j ≠ k) (f : Session → Session) : (s.onSession k f).session j = s.session j :=
  (modNth_getD _ _ _ _ _).trans (if_neg fun hj => h hj.1.symm)

/-! ### Responses (R149, R158) -/

section
variable (s : Sys) {k : Nat} (seq op flags : Nat) (payload : List Byte)

@[simp] theorem Sys.answer_offDict : (s.answer k seq op flags payload).offDict = s.offDict := rfl

@[simp] theorem Sys.answer_values : (s.answer k seq op flags payload).mgmt.dict.values = s.mgmt.dict.values := rfl
@[simp] theorem Sys.answer_store : (s.answer k seq op flags payload).mgmt.dict.store = s.mgmt.dict.store := rfl

/-- The response leaves for the session's client, and is kept to be sent again. -/
theorem Sys.answer_dict : (s.answer k seq op flags payload).mgmt.dict = { s.mgmt.dict with
    tx := s.mgmt.dict.tx ++ [(s.session k).frame (odpFrame op (s.session k).sid seq flags payload)]
    sessions := modNth s.mgmt.dict.sessions k fun x => { x with
      lastSeq := seq, lastResp := ((s.session k).frame (odpFrame op (s.session k).sid seq flags payload)).bytes } } := rfl

theorem Sys.answer_tx : (s.answer k seq op flags payload).mgmt.dict.tx
    = s.mgmt.dict.tx ++ [(s.session k).frame (odpFrame op (s.session k).sid seq flags payload)] := rfl

theorem Sys.answer_session_ne {j : Nat} (h : j ≠ k) : (s.answer k seq op flags payload).session j = s.session j :=
  s.onSession_session_ne h _

theorem Sys.answer_session (h : k < s.mgmt.dict.sessions.length) : (s.answer k seq op flags payload).session k = { s.session k with
    lastSeq := seq, lastResp := ((s.session k).frame (odpFrame op (s.session k).sid seq flags payload)).bytes } :=
  Sys.onSession_session h _

end

/-! ### OPEN (R155, R160) -/

theorem find?_range_none {p : Nat → Bool} {n : Nat} (h : ∀ k < n, p k = false) : (List.range n).find? p = none := by
  simpa using h

theorem find?_range_first {p : Nat → Bool} {n k : Nat} (hk : k < n) (h : p k = true) (hb : ∀ j < k, p j = false) :
    (List.range n).find? p = some k := by
  rw [List.find?_range_eq_some]
  exact ⟨h, List.mem_range.2 hk, fun j hj => by simp [hb j hj]⟩

theorem odpOpen_lengths {s : Sys} {o : OpenReq} (hs : s.odpServes o.iface = true) (hl : openLengths o = false) :
    odpOpen o s = s.refuseOpen o 0x00010003 := by
  unfold odpOpen
  rw [if_pos hs, if_pos hl]

theorem odpOpen_full {s : Sys} {o : OpenReq} (hs : s.odpServes o.iface = true) (hl : openLengths o = true)
    (h : ∀ k < 16, (s.session k).phase ≠ 0) : odpOpen o s = s.refuseOpen o 0x00010005 := by
  unfold odpOpen
  rw [if_pos hs, if_neg (by simp [hl]), find?_range_none fun k hk => by simpa using h k hk]

/-- What an OPEN that finds slot `k` free gets: a challenge, a claim of an empty key table, or a refusal. -/
theorem odpOpen_free {s : Sys} {o : OpenReq} {k : Nat} (hs : s.odpServes o.iface = true) (hl : openLengths o = true) (hk : k < 16)
    (h : (s.session k).phase = 0) (hb : ∀ j < k, (s.session j).phase ≠ 0) :
    odpOpen o s = if o.keySlot ≠ 255 then s.challenge k o.keySlot o
      else if o.iface = 2 ∧ ∀ i < 16, s.roleKey i = [] then
        (((s.setCfg 0xF020 1 (natLe 1 2 ++ o.claimKey)).onDict fun d => { d with
          store := assocSet d.store (0xF020 * 256 + 1) (natLe 1 2 ++ o.claimKey) }).journal).challenge k 0 o
      else s.refuseOpen o 0x00070001 := by
  unfold odpOpen
  rw [if_pos hs, if_neg (by simp [hl]), find?_range_first hk (by simp [h]) fun j hj => by simpa using hb j hj]
  simp only [List.all_eq_true, List.mem_range, beq_iff_eq]

/-- Slot `k` holds a challenge for the client of an OPEN, with a session ID that is not 0. -/
def Session.Challenges (o : OpenReq) (keySlot : Nat) (x : Session) : Prop :=
  x.phase = 1 ∧ x.sid ≠ 0 ∧ x.sid < 2 ^ 32 ∧ x.role = o.role ∧ x.iface = o.iface ∧ x.src = o.src ∧ x.sport = o.sport
    ∧ x.unlocked = false ∧ x.keySlot = keySlot

/-- A challenge takes its slot, and leaves the other slots and the values in force alone. -/
theorem Sys.challenge_takes (s : Sys) {k : Nat} (hk : k < s.mgmt.dict.sessions.length) (keySlot : Nat) (o : OpenReq) :
    (s.challenge k keySlot o).offDict = s.offDict ∧ ((s.challenge k keySlot o).session k).Challenges o keySlot
      ∧ (∀ j, j ≠ k → (s.challenge k keySlot o).session j = s.session j)
      ∧ (s.challenge k keySlot o).mgmt.dict.values = s.mgmt.dict.values := by
  have hsid := Nat.mod_lt s.freeNat (show 0 < 2 ^ 32 - 1 by decide)
  have hsess := Sys.onSession_session (s := ((s.drew 1).drew 32).drew 56) hk
  have hother := fun j (hj : j ≠ k) => Sys.onSession_session_ne (((s.drew 1).drew 32).drew 56) hj
  refine ⟨rfl, ?_, fun j hj => hother j hj _, rfl⟩
  refine (congrArg (Session.Challenges o keySlot) (hsess _)).mpr ⟨rfl, Nat.succ_ne_zero _, ?_, rfl, rfl, rfl, rfl, rfl, rfl⟩
  dsimp only
  omega

/-- An OPEN that is answered with a challenge, drawn from a state with the device's own sessions. -/
theorem challengeOpens {s : State} {o : OpenReq} {k keySlot : Nat} {x : Sys} (hrun : exec (.odpOpen o) s = .next { s with
    dev.sys := x.challenge k keySlot o }) (hk : k < s.dev.sys.mgmt.dict.sessions.length) (hoff : x.offDict = s.dev.sys.offDict)
    (hsess : x.mgmt.dict.sessions = s.dev.sys.mgmt.dict.sessions) :
    ∃ t, exec (.odpOpen o) s = .next t ∧ s.Untouched t ∧ t.dev.mem = s.dev.mem ∧ t.dev.sys.host = s.dev.sys.host
      ∧ t.dev.sys.fab = s.dev.sys.fab ∧ (t.dev.sys.session k).Challenges o keySlot
      ∧ (∀ j, j ≠ k → t.dev.sys.session j = s.dev.sys.session j) ∧ t.dev.sys.mgmt.dict.values = x.mgmt.dict.values := by
  obtain ⟨hoff', hslot, hothers, hvalues⟩ := x.challenge_takes (hsess ▸ hk) keySlot o
  obtain ⟨-, hhost, hfab, -⟩ := Sys.offDict_parts (hoff'.trans hoff)
  exact ⟨_, hrun, State.untouched_offDict rfl (hoff'.trans hoff), rfl, hhost, hfab, hslot,
    fun j hj => (hothers j hj).trans (congrArg (fun l : List Session => l.getD j Session.free) hsess), hvalues⟩

theorem openTakesASlot : Claims.OpenTakesASlot := by
  intro s iface o noKeys refused
  refine ⟨fun hup hi => ?_, fun ht => ?_⟩
  · simp only [exec, execOdpDatagramDiscard, onSys, datagramDiscard, hup, hi, decide_true, Bool.and_self, if_true]
    rfl
  have hserves : s.dev.heard.sys.odpServes o.iface = true := ht.serves
  have hrun : ∀ x, odpOpen o s.dev.heard.sys = x → exec (.odpOpen o) s = .next { s with dev.sys := x } := by
    rintro x rfl
    exact onDev_turn (g := .openReq o) ht rfl
  refine ⟨fun hl => hrun _ (odpOpen_lengths hserves hl), fun hl hfull => hrun _ (odpOpen_full hserves hl hfull),
    fun hl hn k hk hfree hbefore => ?_⟩
  have hopen := odpOpen_free hserves hl hk hfree hbefore
  refine ⟨fun h255 hno => hrun _ (hopen.trans ?_), fun hyes => ?_⟩
  · rw [if_neg (not_not.2 h255), if_neg (show ¬(o.iface = 2 ∧ ∀ i < 16, s.dev.heard.sys.roleKey i = []) from hno)]
    rfl
  by_cases h255 : o.keySlot = 255
  · rw [if_neg (not_not.2 h255), if_pos (show o.iface = 2 ∧ ∀ i < 16, s.dev.heard.sys.roleKey i = [] from
      hyes.resolve_left (not_not.2 h255))] at hopen
    obtain ⟨t, ht, hu, hmem, hhost, hfab, ⟨h1, h2, h3, h4, h5, h6, h7, h8, hslot⟩, hothers, hvalues⟩ :=
      challengeOpens (hrun _ hopen) (hn.symm ▸ hk) rfl rfl
    refine ⟨t, ht, hu, hmem, hhost, hfab, h1, h2, h3, h4, h5, h6, h7, h8, hothers, fun hne => absurd h255 hne, fun _ => ⟨hslot, ?_⟩⟩
    rw [Sys.roleKey, Sys.cfg, hvalues]
    exact assoc_assocSet_same _ _ _ _
  · rw [if_pos h255] at hopen
    obtain ⟨t, ht, hu, hmem, hhost, hfab, ⟨h1, h2, h3, h4, h5, h6, h7, h8, hslot⟩, hothers, hvalues⟩ :=
      challengeOpens (hrun _ hopen) (hn.symm ▸ hk) rfl rfl
    exact ⟨t, ht, hu, hmem, hhost, hfab, h1, h2, h3, h4, h5, h6, h7, h8, hothers, fun _ => ⟨hslot, hvalues⟩, fun he => absurd he h255⟩

/-! ### PROVE (R156, R157) -/

theorem Sys.sessionOf_range {s : Sys} {phase iface sid src sport k : Nat} (h : s.sessionOf phase iface sid src sport = some k) : k < 16 :=
  List.mem_range.1 (List.mem_of_find?_eq_some h)

/-- The key of the challenged slot suffices for the role asked for, and verifies the client's signature. -/
def Sys.Proves (s : Sys) (p : ProveReq) (x : Session) : Prop :=
  s.roleKey x.keySlot ≠ [] ∧ 1 ≤ x.role ∧ x.role ≤ field (s.roleKey x.keySlot) 0 1
    ∧ Config.ed448Verify ((s.roleKey x.keySlot).drop 1) (txOdpCli ++ x.transcript) p.sig = true

/-- What a PROVE with its tag does to the challenged session. -/
theorem odpProve_tagged {s : Sys} {p : ProveReq} {k : Nat} (hs : s.odpServes p.iface = true)
    (hk : s.sessionOf 1 p.iface p.sid p.src p.sport = some k) (hseq : p.seq = 1) (htag : p.tag = proveTag (s.session k).key p) :
    (s.Proves p (s.session k) → odpProve p s = (s.onSession k fun x => { x with phase := 2 }).answer k 1 3 0 (natLe 4 0 ++ s.cfg 0xF000 5))
    ∧ (¬s.Proves p (s.session k) → odpProve p s
      = (s.onSession k fun _ => Session.free).sent p.iface p.src p.sport (odpFrame 3 p.sid 1 0 (natLe 4 0x00010006))) := by
  have hprove : odpProve p s = if (s.roleKey (s.session k).keySlot != []
        && decide (1 ≤ (s.session k).role ∧ (s.session k).role ≤ field (s.roleKey (s.session k).keySlot) 0 1)
        && Config.ed448Verify ((s.roleKey (s.session k).keySlot).drop 1) (txOdpCli ++ (s.session k).transcript) p.sig) = true
      then (s.onSession k fun x => { x with phase := 2 }).answer k 1 3 0 (natLe 4 0 ++ s.cfg 0xF000 5)
      else (s.onSession k fun _ => Session.free).sent p.iface p.src p.sport (odpFrame 3 p.sid 1 0 (natLe 4 0x00010006)) := by
    unfold odpProve
    rw [if_pos hs, hk]
    exact if_neg (not_or.2 ⟨not_not.2 hseq, not_not.2 htag⟩)
  simp only [Bool.and_eq_true, bne_iff_ne, decide_eq_true_eq, and_assoc] at hprove
  exact ⟨fun h => hprove.trans (if_pos h), fun h => hprove.trans (if_neg h)⟩

theorem proveOpensOrFrees : Claims.ProveOpensOrFrees := by
  intro s p k ht hsess hseq htag hn x key ok
  have hk : k < s.dev.heard.sys.mgmt.dict.sessions.length := hn.symm ▸ Sys.sessionOf_range hsess
  obtain ⟨hyes, hno⟩ := odpProve_tagged (s := s.dev.heard.sys) ht.serves hsess hseq htag
  have hrun : exec (.odpProve p) s = .next { s with dev.sys := odpProve p s.dev.heard.sys } :=
    onDev_turn (g := .prove p) ht rfl
  by_cases hok : s.dev.heard.sys.Proves p (s.dev.heard.sys.session k)
  · rw [hyes hok] at hrun
    have hopened : (s.dev.heard.sys.onSession k fun x => { x with phase := 2 }).session k = { x with phase := 2 } :=
      Sys.onSession_session hk _
    have hlen : k < (s.dev.heard.sys.onSession k fun x => { x with phase := 2 }).mgmt.dict.sessions.length :=
      hk.trans_eq (modNth_length _ _ _).symm
    have hothers := fun j (hj : j ≠ k) => s.dev.heard.sys.onSession_session_ne hj fun x => { x with phase := 2 }
    have htx : (s.dev.heard.sys.onSession k fun x => { x with phase := 2 }).mgmt.dict.tx = [] := rfl
    have hoff : (s.dev.heard.sys.onSession k fun x => { x with phase := 2 }).offDict = s.dev.sys.offDict := rfl
    generalize s.dev.heard.sys.onSession k _ = y at *
    obtain ⟨-, hhost, hfab, -⟩ := Sys.offDict_parts hoff
    refine ⟨_, hrun, State.untouched_offDict rfl hoff, rfl, hhost, hfab, fun j hj => (y.answer_session_ne _ _ _ _ hj).trans (hothers j hj),
      fun _ => ?_, fun h => absurd hok h⟩
    dsimp only
    rw [y.answer_session _ _ _ _ hlen, y.answer_tx, hopened, htx]
    exact ⟨rfl, rfl, rfl, rfl⟩
  · rw [hno hok] at hrun
    exact ⟨_, hrun, State.untouched_offDict rfl rfl, rfl, rfl, rfl, fun j hj => Sys.onSession_session_ne s.dev.heard.sys hj _,
      fun h => absurd h hok, fun _ => ⟨Sys.onSession_session hk _, rfl⟩⟩

/-! ### The end of a session (R142, R159) -/

theorem setNth_getD_ne {α : Type} (l : List α) {i j : Nat} (h : j ≠ i) (y d : α) : (setNth l i y).getD j d = l.getD j d :=
  (setNth_getD l i j y d).trans (if_neg fun hj => h hj.1.symm)

/-- A session's end frees its slot and empties the sets it owns, and changes nothing else. -/
theorem Sys.endSession_ends (s : Sys) {k : Nat} (hk : k < s.mgmt.dict.sessions.length) : (s.endSession k).offDict = s.offDict
    ∧ (s.endSession k).session k = Session.free ∧ (∀ j, j ≠ k → (s.endSession k).session j = s.session j)
    ∧ (s.endSession k).mgmt.dict.pending = s.mgmt.dict.pending.map (fun g => if g.2.owner = some k then (g.1, ⟨none, [], 4⟩) else g)
    ∧ (s.endSession k).mgmt.dict.values = s.mgmt.dict.values ∧ (s.endSession k).mgmt.dict.tx = s.mgmt.dict.tx :=
  ⟨rfl, setNth_getD_same hk _ _, fun _ hj => setNth_getD_ne _ hj _ _, rfl, rfl, rfl⟩

/-- A command that ends session `k` of a state whose other sessions, pending sets and values are the device's own. -/
theorem sessionEnds {s : State} {c : Instr} {k : Nat} {x : Sys} (hrun : exec c s = .next { s with dev.sys := x.endSession k })
    (hk : k < x.mgmt.dict.sessions.length) (hoff : x.offDict = s.dev.sys.offDict) (hothers : ∀ j, j ≠ k → x.session j = s.dev.sys.session j)
    (hpending : x.mgmt.dict.pending = s.dev.sys.mgmt.dict.pending) (hvalues : x.mgmt.dict.values = s.dev.sys.mgmt.dict.values)
    {P : State → Prop} (hP : P { s with dev.sys := x.endSession k }) :
    ∃ t, exec c s = .next t ∧ s.Untouched t ∧ t.dev.mem = s.dev.mem ∧ t.dev.sys.fab = s.dev.sys.fab ∧ t.dev.sys.host = s.dev.sys.host
      ∧ t.dev.sys.session k = Session.free ∧ (∀ j, j ≠ k → t.dev.sys.session j = s.dev.sys.session j)
      ∧ t.dev.sys.mgmt.dict.pending
        = s.dev.sys.mgmt.dict.pending.map (fun g => if g.2.owner = some k then (g.1, ⟨none, [], 4⟩) else g)
      ∧ t.dev.sys.mgmt.dict.values = s.dev.sys.mgmt.dict.values ∧ P t := by
  obtain ⟨hoff', hfree, hothers', hpending', hvalues', -⟩ := x.endSession_ends hk
  obtain ⟨-, hhost, hfab, -⟩ := Sys.offDict_parts (hoff'.trans hoff)
  exact ⟨_, hrun, State.untouched_offDict rfl (hoff'.trans hoff), rfl, hfab, hhost, hfree, fun j hj => (hothers' j hj).trans (hothers j hj),
    hpending'.trans (by rw [hpending]), hvalues'.trans hvalues, hP⟩

theorem sessionIdle_ends {s : Sys} {k : Nat} (hup : s.mgmtUp = true) (hopen : (s.session k).phase ≠ 0)
    (hidle : ∀ j, s.mgmt.dict.jpending = some j → j.slot ≠ k) : sessionIdle k s = s.endSession k := by
  refine if_pos ?_
  simp only [hup, Bool.true_and, Bool.and_eq_true, bne_iff_ne, ne_eq, hopen, not_false_iff, true_and, Bool.not_eq_true']
  split
  next j hj => simpa using hidle j hj
  next => rfl

theorem sessionEndDiscardsSets : Claims.SessionEndDiscardsSets := by
  refine fun s r k hn hk => ⟨fun h => ?_, fun hup hopen hidle => ?_⟩
  · have hrun : exec (.odpClose r) s = .next { s with dev.sys := (s.dev.heard.sys.respond k r 5 0 0).endSession k } :=
      onDev_turn (g := .close r) h.1 (Dev.request_takes h _)
    have hlen : k < (s.dev.heard.sys.respond k r 5 0 0).mgmt.dict.sessions.length := (hn.symm ▸ hk).trans_eq (modNth_length _ _ _).symm
    exact sessionEnds hrun hlen rfl (fun j hj => s.dev.heard.sys.answer_session_ne _ _ _ _ hj) rfl rfl rfl
  · have hrun : exec (.sessionIdleTimeout k) s = .next { s with dev.sys := s.dev.sys.endSession k } := by
      rw [← sessionIdle_ends hup hopen hidle]
      rfl
    exact sessionEnds hrun (hn.symm ▸ hk) rfl (fun _ _ => rfl) rfl rfl rfl

/-- Settles O39: an OPEN by the slot it finds, a PROVE by what it proves, and both ends of a session by the one update that ends it. -/
theorem sessionsOpenAndEnd : Obligations.SessionsOpenAndEnd := ⟨openTakesASlot, proveOpensOrFrees, sessionEndDiscardsSets⟩

end Sys2Proof.Machine
end

section
/-! PROOF. Requests, part 2: reads, and writes that a check rejects (R127 to R130, R154). -/

namespace Sys2Proof.Machine

open Sys2Proof

/-! ### READ (R129) -/

/-- A read that passes its checks is answered with the object's type and value. -/
theorem readRequest_passes {d : Dev} {r : OdpReq} {k : Nat} (h : d.sys.readAbort r.index r.sub = none)
    (hl : (d.readObject k r.index r.sub).length ≤ 1032) :
    readRequest r k d = liftSys (fun s => (s.answer k r.seq 0x10 0 (natLe 4 0 ++ natLe 1 (objType r.index r.sub) ++ zeros 3
      ++ d.readObject k r.index r.sub)).drew 3) d := by
  unfold readRequest
  rw [h]
  exact if_neg (Nat.not_lt.2 hl)

theorem readAnswers {s : State} {r : OdpReq} {k : Nat} {v : List Byte} (h : s.dev.Takes r k 0x10)
    (habort : s.dev.heard.sys.readAbort r.index r.sub = none) (hv : s.dev.heard.readObject k r.index r.sub = v) (hl : v.length ≤ 1032) :
    ∃ t, exec (.odpRead r) s = .next t ∧ s.Untouched t ∧ t.dev.mem = s.dev.mem
      ∧ t.dev.sys.host = s.dev.sys.host ∧ t.dev.sys.fab = s.dev.sys.fab ∧ t.dev.sys.mgmt.rel = s.dev.sys.mgmt.rel
      ∧ t.dev.sys.mgmt.sec = s.dev.sys.mgmt.sec ∧ t.dev.sys.mgmt.dict.values = s.dev.sys.mgmt.dict.values
      ∧ t.dev.sys.mgmt.dict.tx = [(s.dev.sys.session k).frame (odpFrame 0x10 (s.dev.sys.session k).sid r.seq 0
        (natLe 4 0 ++ natLe 1 (objType r.index r.sub) ++ zeros 3 ++ v))] := by
  have hgo : s.dev.heard.execute (.read r) = liftSys (fun y => (y.answer k r.seq 0x10 0
      (natLe 4 0 ++ natLe 1 (objType r.index r.sub) ++ zeros 3 ++ v)).drew 3) s.dev.heard := by
    rw [Dev.execute, Dev.request_takes h, readRequest_passes habort (hv ▸ hl), hv]
  have hoff : (liftSys (fun y => (y.answer k r.seq 0x10 0 (natLe 4 0 ++ natLe 1 (objType r.index r.sub) ++ zeros 3 ++ v)).drew 3)
      s.dev.heard).sys.offDict = s.dev.sys.offDict := by simp
  obtain ⟨-, hhost, hfab, -, -, hrel, hsec⟩ := Sys.offDict_parts hoff
  exact ⟨_, onDev_turn (g := .read r) h.1 hgo, State.untouched_offDict rfl hoff, rfl, hhost, hfab, hrel, hsec, rfl, rfl⟩

/-! ### READ_BLOCK (R130, R154) -/

/-- The state from which a segment of a snapshot goes out: one at offset 0 takes the snapshot. -/
def Dev.snapped (d : Dev) (k : Nat) (r : OdpReq) (off : Nat) : Dev :=
  if off = 0 then liftSys (fun s => (s.drew 3).onSession k fun x => { x with
    snapKey := blockKey r.index r.sub, snap := d.readObject k r.index r.sub }) d
  else d

theorem readBlockRequest_passes {d : Dev} {r : OdpReq} {k : Nat} (h : d.sys.readAbort r.index r.sub = none)
    (hty : objType r.index r.sub = 10) :
    readBlockRequest r k d = liftSys (fun s => s.segmentOut k r (r.block.getD (0, 0)).1) (d.snapped k r (r.block.getD (0, 0)).1) := by
  unfold readBlockRequest
  dsimp only
  rw [h]
  dsimp only
  rw [if_neg (not_not.2 hty)]
  unfold Dev.snapped
  by_cases h0 : (r.block.getD (0, 0)).1 = 0
  · rw [if_neg (not_not.2 h0), if_pos h0, h0]
    rfl
  · rw [if_pos h0, if_neg h0]

/-- The snapshot that segments go out from, once the one asked for has its checks passed. -/
theorem Dev.snapped_session {d : Dev} {k : Nat} (hk : k < d.sys.mgmt.dict.sessions.length) (r : OdpReq) {off : Nat}
    (h : off = 0 ∨ ((d.sys.session k).snapKey = blockKey r.index r.sub ∧ off ≤ (d.sys.session k).snap.length)) :
    (d.snapped k r off).sys.session k = { d.sys.session k with
      snapKey := blockKey r.index r.sub, snap := if off = 0 then d.readObject k r.index r.sub else (d.sys.session k).snap } := by
  unfold Dev.snapped
  by_cases h0 : off = 0
  · rw [if_pos h0, if_pos h0]
    exact Sys.onSession_session (s := d.sys.drew 3) hk _
  · obtain ⟨hkey, -⟩ := h.resolve_left h0
    rw [if_neg h0, if_neg h0, ← hkey]

theorem Dev.snapped_keeps (d : Dev) (k : Nat) (r : OdpReq) (off : Nat) : (d.snapped k r off).mem = d.mem
    ∧ (d.snapped k r off).sys.offDict = d.sys.offDict ∧ (d.snapped k r off).sys.mgmt.dict.values = d.sys.mgmt.dict.values
    ∧ (d.snapped k r off).sys.mgmt.dict.tx = d.sys.mgmt.dict.tx
    ∧ (d.snapped k r off).sys.mgmt.dict.sessions.length = d.sys.mgmt.dict.sessions.length := by
  unfold Dev.snapped
  split
  · exact ⟨rfl, rfl, rfl, rfl, modNth_length _ _ _⟩
  · exact ⟨rfl, rfl, rfl, rfl, rfl⟩

/-- A segment of a snapshot: what goes out, and whether the snapshot stays. -/
theorem Sys.segmentOut_sends {s : Sys} {k : Nat} {r : OdpReq} {off : Nat} (hk : k < s.mgmt.dict.sessions.length)
    (hkey : (s.session k).snapKey = blockKey r.index r.sub) (hoff : off ≤ (s.session k).snap.length) :
    let x := s.session k
    let seg := (x.snap.drop off).take 1024
    let last := decide (x.snap.length ≤ off + seg.length)
    (s.segmentOut k r off).offDict = s.offDict ∧ (s.segmentOut k r off).mgmt.dict.values = s.mgmt.dict.values
      ∧ (s.segmentOut k r off).mgmt.dict.tx = s.mgmt.dict.tx ++ [x.frame (odpFrame 0x12 x.sid r.seq (if last then 1 else 0)
        (natLe 4 0 ++ natLe 4 x.snap.length ++ seg))]
      ∧ ((s.segmentOut k r off).session k).snap = if last then [] else x.snap := by
  intro x seg last
  have hout : s.segmentOut k r off = if last then
      (s.answer k r.seq 0x12 (if last then 1 else 0) (natLe 4 0 ++ natLe 4 x.snap.length ++ seg)).onSession k
        fun x => { x with snapKey := 0, snap := [] }
      else s.answer k r.seq 0x12 (if last then 1 else 0) (natLe 4 0 ++ natLe 4 x.snap.length ++ seg) :=
    if_neg (not_or.2 ⟨not_not.2 hkey, Nat.not_lt.2 hoff⟩)
  have hsess := s.answer_session r.seq 0x12 (if last then 1 else 0) (natLe 4 0 ++ natLe 4 x.snap.length ++ seg) hk
  have hlen : k < (s.answer k r.seq 0x12 (if last then 1 else 0) (natLe 4 0 ++ natLe 4 x.snap.length ++ seg)).mgmt.dict.sessions.length :=
    hk.trans_eq (modNth_length _ _ _).symm
  rw [hout]
  clear_value last
  cases last
  · exact ⟨rfl, rfl, rfl, (congrArg Session.snap hsess :)⟩
  · exact ⟨rfl, rfl, rfl, (congrArg Session.snap (Sys.onSession_session hlen fun x => { x with snapKey := 0, snap := [] }) :)⟩

theorem readBlockAnswers {s : State} {r : OdpReq} {k off : Nat} {snap : List Byte} (h : s.dev.Takes r k 0x12)
    (habort : s.dev.heard.sys.readAbort r.index r.sub = none) (hty : objType r.index r.sub = 10) (ho : (r.block.getD (0, 0)).1 = off)
    (hv : (if off = 0 then s.dev.heard.readObject k r.index r.sub else (s.dev.sys.session k).snap) = snap)
    (hoff : off = 0 ∨ ((s.dev.sys.session k).snapKey = blockKey r.index r.sub ∧ off ≤ (s.dev.sys.session k).snap.length)) :
    let x := s.dev.sys.session k
    let seg := (snap.drop off).take 1024
    let last := decide (snap.length ≤ off + seg.length)
    ∃ t, exec (.odpReadBlock r) s = .next t ∧ s.Untouched t ∧ t.dev.mem = s.dev.mem
      ∧ t.dev.sys.host = s.dev.sys.host ∧ t.dev.sys.fab = s.dev.sys.fab ∧ t.dev.sys.mgmt.rel = s.dev.sys.mgmt.rel
      ∧ t.dev.sys.mgmt.sec = s.dev.sys.mgmt.sec ∧ t.dev.sys.mgmt.dict.values = s.dev.sys.mgmt.dict.values
      ∧ t.dev.sys.mgmt.dict.tx = [x.frame (odpFrame 0x12 x.sid r.seq (if last then 1 else 0) (natLe 4 0 ++ natLe 4 snap.length ++ seg))]
      ∧ (t.dev.sys.session k).snap = if last then [] else snap := by
  intro x seg last
  have hk : k < s.dev.heard.sys.mgmt.dict.sessions.length := Sys.sessionOf_lt h.2.1
  have hgo : s.dev.heard.execute (.readBlock r) = liftSys (fun y => y.segmentOut k r off) (s.dev.heard.snapped k r off) := by
    rw [Dev.execute, Dev.request_takes h, readBlockRequest_passes habort hty, ho]
  have hsess : (s.dev.heard.snapped k r off).sys.session k = { x with snapKey := blockKey r.index r.sub, snap := snap } :=
    hv ▸ Dev.snapped_session hk r hoff
  have hfits : off ≤ snap.length := by
    subst hv
    split
    next h0 => exact h0 ▸ Nat.zero_le _
    next h0 => exact (hoff.resolve_left h0).2
  obtain ⟨hmem, hdict, hvalues, htx, hlen⟩ := s.dev.heard.snapped_keeps k r off
  generalize s.dev.heard.snapped k r off = d at *
  obtain ⟨hoff', hvalues', htx', hsnap⟩ := Sys.segmentOut_sends (s := d.sys) (off := off) (hlen.symm ▸ hk) (by rw [hsess]) (by rw [hsess]; exact hfits)
  rw [hsess] at htx' hsnap
  rw [htx] at htx'
  obtain ⟨-, hhost, hfab, -, -, hrel, hsec⟩ := Sys.offDict_parts (hoff'.trans hdict)
  exact ⟨_, onDev_turn (g := .readBlock r) h.1 hgo, State.untouched_offDict hmem (hoff'.trans hdict), hmem, hhost, hfab, hrel, hsec,
    hvalues'.trans hvalues, htx', hsnap⟩

theorem readsAnswerTheValue : Claims.ReadsAnswerTheValue := by
  refine fun s r k habort => ⟨fun h hl => ?_, fun h hty hn hoff => readBlockAnswers h habort hty rfl rfl hoff⟩
  obtain ⟨t, ht, hu, hmem, hhost, hfab, hrel, hsec, hvalues, htx⟩ := readAnswers h habort rfl hl
  exact ⟨t, ht, hu, hmem, hhost, hfab, hrel, hsec, hvalues, htx, trivial⟩

/-! ### Writes that a check rejects (R127) -/

/-- The row of a command of the writes, with the readings it carries. -/
theorem WriteRow.Names.exec {w : WriteRow} {r : OdpReq} {a : AgeingReading} {e : Bool} {c : Instr} (h : w.Names r a e c)
    (ha : readingOk a = true) (s : State) : ∃ reading erased, exec c s = onRings (Dev.writeRequest w r reading erased) s := by
  cases w with
  | sampleNow =>
    subst h
    refine ⟨some a, false, ?_⟩
    change onRings (fun d => if readingOk a then d.writeRequest .sampleNow r (some a) false else d) s = _
    simp only [ha, if_true]
  | token => subst h; exact ⟨none, e, rfl⟩
  | _ => subst h; exact ⟨none, false, rfl⟩

/-- A write in one request whose first failing check has a code changes nothing but its rejection. -/
theorem Dev.Takes.rejects {d : Dev} {r : OdpReq} {k code sub : Nat} {w : WriteRow} (h : d.Takes r k 0x11) (hb : r.block = none)
    (hrow : d.sys.rowFor r = w) (habort : d.heard.writeAbort k r r.data = some (code, sub)) (a : Option AgeingReading) (e : Bool) :
    d.writeRequest w r a e = liftSys (fun s => s.reject k r r.data code sub) d.heard := by
  have hop : reqOp r = 0x11 := if_neg (by simp [hb])
  rw [show d.writeRequest w r a e = _ from if_pos hrow, Dev.arrive_turn (g := .write r a e) h.1, Dev.execute, Dev.writeIn,
    Dev.request_takes (hop.symm ▸ h), hb]
  dsimp only
  rw [Dev.wholeWrite, habort]

/-- A commit's failure is noted among the pending sets. -/
theorem Sys.noteReject_eq (s : Sys) (k i : Nat) (w : WriteRow) (code : Nat) :
    s.noteReject k i w code = s.onDict fun x => { x with pending := (s.noteReject k i w code).mgmt.dict.pending } := by
  unfold Sys.noteReject
  dsimp only
  split <;> rfl

/-- A rejection that draws no new challenge is answered with its code, and a commit's is noted in its set; it changes nothing else. -/
theorem Sys.reject_leaves {s : Sys} {k : Nat} {r : OdpReq} {v : List Byte} (hw : rowOf r.index r.sub v ≠ .token) (code sub : Nat) :
    (s.reject k r v code sub).offDict = s.offDict ∧ (s.reject k r v code sub).mgmt.dict.values = s.mgmt.dict.values
      ∧ (s.reject k r v code sub).mgmt.dict.store = s.mgmt.dict.store ∧ (s.reject k r v code sub).mgmt.dict.jpending = s.mgmt.dict.jpending
      ∧ (s.reject k r v code sub).mgmt.dict.held = s.mgmt.dict.held
      ∧ (s.reject k r v code sub).mgmt.dict.pending = (s.noteReject k r.index (rowOf r.index r.sub v) code).mgmt.dict.pending
      ∧ (s.reject k r v code sub).mgmt.dict.flashFailures = s.mgmt.dict.flashFailures
      ∧ (s.reject k r v code sub).mgmt.dict.tx = s.mgmt.dict.tx
        ++ [(s.session k).frame (odpFrame (reqOp r) (s.session k).sid r.seq 0 (abortPayload (reqOp r) code r.index sub))] := by
  have hreject : s.reject k r v code sub = (s.noteReject k r.index (rowOf r.index r.sub v) code).respond k r (reqOp r) code sub := by
    unfold Sys.reject
    dsimp only
    rw [if_neg fun h => hw h.1]
  rw [hreject]
  generalize hp : (s.noteReject k r.index (rowOf r.index r.sub v) code).mgmt.dict.pending = p
  rw [Sys.noteReject_eq, hp]
  exact ⟨by simp [Sys.respond], rfl, rfl, rfl, rfl, rfl, rfl, rfl⟩

theorem rowFor_row {s : Sys} {r : OdpReq} (hb : r.block = none) : s.rowFor r = rowOf r.index r.sub r.data := by
  simp [Sys.rowFor, reqPartial, Sys.wholeData, hb]

/-- A command of the writes that leaves memory alone and changes the dictionary, but for the values in force. -/
theorem State.written_offDict {s : State} {d : Dev} (hm : d.mem = s.dev.mem) (h : d.sys.offDict = s.dev.sys.offDict)
    (hv : d.sys.mgmt.dict.values = s.dev.sys.mgmt.dict.values) :
    s.Untouched { s with dev := d.syncRings } ∧ d.syncRings.sys.fab = s.dev.sys.fab
      ∧ d.syncRings.sys.mgmt.sec = s.dev.sys.mgmt.sec ∧ d.syncRings.sys.mgmt.dict = d.sys.mgmt.dict := by
  obtain ⟨hcore, hhost, hfab, hpower, hbring, -, hsec⟩ := Sys.offDict_parts h
  obtain ⟨-, efab, edict, -, -, esec⟩ := d.syncRings_frame
  exact ⟨State.untouched_of hm hhost hv hcore hpower hbring, efab.trans hfab, esec.trans hsec, edict⟩

theorem rejectedWriteChangesNoObject : Claims.RejectedWriteChangesNoObject := by
  intro s w r a e c k code sub h hb hrow hw ha habort hc
  obtain ⟨reading, erased, hexec⟩ := hc.exec ha s
  have hop : reqOp r = 0x11 := if_neg (by simp [hb])
  have hrun := hexec.trans (onRings_of (h.rejects hb hrow habort reading erased))
  rw [rowFor_row hb] at hrow
  obtain ⟨hoff, hvalues, hstore, hjpending, -, -, -, htx⟩ := s.dev.heard.sys.reject_leaves (k := k) (hrow ▸ hw) code sub
  obtain ⟨hu, hfab, hsec, hdict⟩ := State.written_offDict (s := s) (d := liftSys (fun s => s.reject k r r.data code sub) s.dev.heard)
    rfl hoff hvalues
  generalize (liftSys (fun s => s.reject k r r.data code sub) s.dev.heard).syncRings = e at *
  rw [liftSys_sys] at hdict
  refine ⟨_, hrun, hu, hfab, hsec, ?_⟩
  dsimp only
  rw [hdict, hvalues, hstore, hjpending, htx, hop, Dev.heard_session, Dev.heard_tx]
  exact ⟨rfl, rfl, rfl, rfl⟩

/-- Settles O40: a datagram by whether its turn has come, a read by the value it finds, and a rejected write by what a rejection leaves. -/
theorem requestsAreAnswered : Obligations.RequestsAreAnswered := ⟨datagramsWaitTheirTurn, readsAnswerTheValue, rejectedWriteChangesNoObject⟩

end Sys2Proof.Machine
end

section
/-! PROOF. Requests, part 3: accepted writes of objects without behaviour of their own, and the segments of a DOMAIN write (R131, R145, R154). -/

namespace Sys2Proof.Machine

open Sys2Proof

/-! ### The values in force -/

theorem assoc_assocSet_ne {α : Type} (l : List (Nat × α)) {k i : Nat} (h : i ≠ k) (y d : α) : assoc (assocSet l k y) i d = assoc l i d := by
  induction l with
  | nil => exact if_neg (Ne.symm h)
  | cons x l ih =>
    obtain ⟨j, z⟩ := x
    unfold assocSet
    split_ifs with hlt heq
    · exact if_neg (Ne.symm h)
    · subst heq
      simp only [assoc, if_neg (Ne.symm h)]
    · simp only [assoc, ih]

theorem Sys.setCfg_cfg (s : Sys) (i sub : Nat) (v : List Byte) : (s.setCfg i sub v).cfg i sub = v := assoc_assocSet_same _ _ _ _

theorem Sys.setCfg_cfg_ne (s : Sys) {i sub j x : Nat} (h : j * 256 + x ≠ i * 256 + sub) (v : List Byte) :
    (s.setCfg i sub v).cfg j x = s.cfg j x := assoc_assocSet_ne _ h _ _

/-- Sub-indexes have one byte, and the records of the rings are members of their group. -/
theorem objTable_rings : ∀ o ∈ objTable, o.hi ≤ 255 ∧ (o.ilo ≤ 0x9100 → 0x9100 ≤ o.ihi → o.acc = 4 ∨ 0xFE ≤ o.lo) := by decide +kernel

theorem keeps_row {i sub : Nat} (h : keeps i sub = true) : ∃ o, objRow i sub = some o ∧ o.acc ≠ 4 ∧ (o.acc = 2 ∨ o.persist = true) := by
  unfold keeps at h
  split at h
  next o ho =>
    simp only [Bool.and_eq_true, Bool.or_eq_true, beq_iff_eq, bne_iff_ne] at h
    obtain ⟨⟨⟨⟨hacc, hmember⟩, -⟩, -⟩, -⟩ := h
    exact ⟨o, ho, hmember, hacc⟩
  next => cases h

/-- No object that keeps what is written is the record of a ring. -/
theorem keeps_ring {i sub : Nat} (h : keeps i sub = true) {r : Nat} (hr : r < 64) : 0x9100 * 256 + (r + 1) ≠ i * 256 + sub := by
  obtain ⟨o, ho, hmember, -⟩ := keeps_row h
  obtain ⟨hmem, hlo, hhi, hsub, hsub'⟩ := objRow_mem ho
  obtain ⟨hbyte, hring⟩ := objTable_rings o hmem
  intro he
  have hi : i = 0x9100 := by omega
  subst hi
  have := hring hlo hhi
  omega

theorem Sys.setCfg_ringRec (s : Sys) {i sub : Nat} (h : keeps i sub = true) (v : List Byte) {r : Nat} (hr : r < 64) :
    (s.setCfg i sub v).ringRec r = s.ringRec r := s.setCfg_cfg_ne (keeps_ring h hr) v

/-! ### What a write leaves of memory -/

/-- Where a ring's page lies rests on the partitions, the rings and the records of the rings. -/
theorem Dev.pageByte_of_records {d d' : Dev} (hp : d'.sys.host.parts = d.sys.host.parts) (hg : d'.sys.host.rings = d.sys.host.rings)
    (hr : ∀ r < 64, d'.sys.ringRec r = d.sys.ringRec r) (st L : Nat) : d'.PageByte st L ↔ d.PageByte st L := by
  refine exists_congr fun r => and_congr_right fun hlt => ?_
  simp only [Dev.locate, Dev.table, Sys.part, Sys.ring, Sys.ringPart, hp, hg, hr r hlt]

/-- A command on objects that leaves the partitions, the rings with their records, and the cores' and power's state alone. -/
theorem State.keepsButPages_of_records {s : State} {d : Dev} (hm : d.mem = s.dev.mem) (hp : d.sys.host.parts = s.dev.sys.host.parts)
    (hg : d.sys.host.rings = s.dev.sys.host.rings) (hr : ∀ r < 64, d.sys.ringRec r = s.dev.sys.ringRec r) (hc : s.dev.mem.Coherent) :
    s.KeepsButPages { s with dev := d.syncRings } := by
  have hspec := Dev.syncRings_spec (d := d) (hm ▸ hc)
  generalize d.syncRings = e at hspec ⊢
  obtain ⟨-, -, hbytes⟩ := hspec
  intro st L hn
  exact (hbytes st L fun hpage => hn ((Dev.pageByte_of_records hp hg hr st L).1 hpage)).trans (by rw [hm])

theorem State.untouched_of_records {s : State} {d : Dev} (hm : d.mem = s.dev.mem) (hp : d.sys.host.parts = s.dev.sys.host.parts)
    (hg : d.sys.host.rings = s.dev.sys.host.rings) (hr : ∀ r < 64, d.sys.ringRec r = s.dev.sys.ringRec r) (hc : d.sys.core = s.dev.sys.core)
    (hw : d.sys.mgmt.power = s.dev.sys.mgmt.power) (hb : d.sys.mgmt.bring = s.dev.sys.mgmt.bring) :
    s.Untouched { s with dev := d.syncRings } := by
  obtain ⟨ec, -, -, eb, ew, -⟩ := d.syncRings_frame
  have hpages := State.keepsButPages_of_records hm hp hg hr
  generalize d.syncRings = e at *
  exact ⟨rfl, ec.trans hc, ew.trans hw, eb.trans hb, hpages⟩

/-! ### Accepted writes (R131, R145) -/

/-- What a write's record holds rests on the pending sets and the values in force. -/
theorem Sys.recordOf_congr {s s' : Sys} (hp : s'.mgmt.dict.pending = s.mgmt.dict.pending) (hv : s'.mgmt.dict.values = s.mgmt.dict.values)
    (r : OdpReq) (v : List Byte) : s'.recordOf r v = s.recordOf r v := by
  simp only [Sys.recordOf, Sys.commitValues, Sys.newVal, Sys.cfgN, Sys.pending, Sys.cfg, hp, hv]

theorem Dev.settled_recordOf (d : Dev) (r : OdpReq) (k : Nat) (v : List Byte) : (d.settled r k).sys.recordOf r v = d.sys.recordOf r v := by
  rw [Dev.settled_eq]
  exact Sys.recordOf_congr rfl rfl r v

/-- An accepted write that is not journalled is answered, and then its object acts. -/
theorem Dev.Accepts.atOnce {d : Dev} {w : WriteRow} {r : OdpReq} {k : Nat} {v : List Byte} (h : d.Accepts w r k v)
    (himage : rowOf r.index r.sub v ≠ .image) (hrec : d.sys.recordOf r v = none) (a : Option AgeingReading) (e : Bool) :
    d.writeRequest w r a e = (d.replied r k).applyWrite k r v a e := by
  rw [h.writeRequest, Dev.wholeWrite, h.2.2.2.2]
  dsimp only
  rw [if_neg himage, Dev.settled_recordOf, hrec]
  rfl

/-- A write whose values wait for their record, with its group where it commits one. -/
def JPending.ofWrite (r : OdpReq) (k : Nat) (v : List Byte) (vs : List (Nat × List Byte)) : JPending :=
  ⟨{ r with data := v }, k, vs, if rowOf r.index r.sub v = .commit then some r.index else none⟩

/-- An accepted write that is journalled waits for its record, unanswered. -/
theorem Dev.Accepts.journalled {d : Dev} {w : WriteRow} {r : OdpReq} {k : Nat} {v : List Byte} (h : d.Accepts w r k v)
    (himage : rowOf r.index r.sub v ≠ .image) {vs : List (Nat × List Byte)} (hrec : d.sys.recordOf r v = some vs)
    (a : Option AgeingReading) (e : Bool) : d.writeRequest w r a e
      = liftSys (fun s => s.onDict fun x => { x with jpending := some (.ofWrite r k v vs) }) (d.settled r k) := by
  rw [h.writeRequest, Dev.wholeWrite, h.2.2.2.2]
  dsimp only
  rw [if_neg himage, Dev.settled_recordOf, hrec]
  rfl

theorem Dev.Accepts.waiting {s : State} {w : WriteRow} {r : OdpReq} {k : Nat} {v : List Byte} (h : s.dev.Accepts w r k v)
    (himage : rowOf r.index r.sub v ≠ .image) {vs : List (Nat × List Byte)} (hrec : s.dev.sys.recordOf r v = some vs) :
    ∃ t, onRings (Dev.writeRequest w r none false) s = .next t ∧ s.Untouched t ∧ t.dev.sys.fab = s.dev.sys.fab
      ∧ t.dev.sys.mgmt.dict.jpending = some (.ofWrite r k v vs) ∧ t.dev.sys.mgmt.dict.values = s.dev.sys.mgmt.dict.values
      ∧ t.dev.sys.mgmt.dict.tx = [] ∧ t.dev.sys.mgmt.dict.store = s.dev.sys.mgmt.dict.store
      ∧ t.dev.sys.mgmt.dict.pending = s.dev.sys.mgmt.dict.pending
      ∧ t.dev.sys.mgmt.dict.sessions = modNth s.dev.sys.mgmt.dict.sessions k (Session.settled r) := by
  have hgo := h.journalled himage hrec none false
  rw [Dev.settled_eq] at hgo
  generalize hd : liftSys (fun s => s.onDict fun x => { x with jpending := some (.ofWrite r k v vs) }) _ = d at hgo
  have hrun := onRings_of hgo
  obtain ⟨hu, hfab, -, hdict⟩ := State.written_offDict (s := s) (d := d) (hd ▸ rfl) (hd ▸ rfl) (hd ▸ rfl)
  generalize d.syncRings = e at *
  refine ⟨_, hrun, hu, hfab, ?_⟩
  dsimp only
  rw [hdict, ← hd]
  exact ⟨rfl, rfl, rfl, rfl, rfl, rfl⟩

/-- What the response to an accepted write leaves. -/
theorem Dev.replied_leaves {d : Dev} {k : Nat} (hk : k < d.sys.mgmt.dict.sessions.length) (r : OdpReq) :
    (d.replied r k).mem = d.mem ∧ (d.replied r k).sys.offDict = d.sys.offDict
    ∧ (d.replied r k).sys.mgmt.dict.values = d.sys.mgmt.dict.values ∧ (d.replied r k).sys.mgmt.dict.pending = d.sys.mgmt.dict.pending
    ∧ (d.replied r k).sys.mgmt.dict.store = d.sys.mgmt.dict.store ∧ (d.replied r k).sys.mgmt.dict.tx = [d.sys.okFrame k r]
    ∧ (d.replied r k).sys.mgmt.dict.sessions = modNth d.sys.mgmt.dict.sessions k (Session.answered r (d.sys.okFrame k r).bytes)
    ∧ (d.replied r k).sys.mgmt.dict.unlockCount = d.sys.mgmt.dict.unlockCount := by
  rw [Dev.replied_eq hk]
  exact ⟨rfl, rfl, rfl, rfl, rfl, rfl, rfl, rfl⟩

/-! ### Plain objects (R131) -/

theorem Dev.objApply_plain {d : Dev} {k : Nat} {r : OdpReq} {v : List Byte} (h : rowOf r.index r.sub v = .write)
    (a : Option AgeingReading) (e : Bool) : d.objApply k r v a e = d := by
  unfold Dev.objApply
  dsimp only
  rw [h]

/-- A plain object keeps the value written, and Assignment reset is marked as written. -/
def Sys.keepPlain (r : OdpReq) (v : List Byte) (s : Sys) : Sys :=
  (s.setCfg r.index r.sub v).onBring fun b => { b with resetWritten := b.resetWritten || decide (r.index = 0x2110 ∧ r.sub = 2) }

theorem Dev.applyWrite_plain {d : Dev} {k : Nat} {r : OdpReq} {v : List Byte} (h : rowOf r.index r.sub v = .write)
    (hk : keeps r.index r.sub = true) (a : Option AgeingReading) (e : Bool) : d.applyWrite k r v a e = liftSys (Sys.keepPlain r v) d := by
  have hactive : r.index ≠ 0xB023 := fun hi => by
    rw [keeps_volatile (i := r.index) (hi ▸ by decide)] at hk
    cases hk
  unfold Dev.applyWrite Sys.keepPlain
  simp only [Dev.objApply_plain h, hk, h, hactive, if_true, if_false, reduceCtorEq, false_and]
  by_cases hassign : r.index = 0x2110 ∧ r.sub = 2
  · simp only [hassign, and_self, if_true, decide_true, Bool.or_true]
    rfl
  · simp only [hassign, if_false, decide_false, Bool.or_false]
    rfl

/-- A plain object's write, from a state whose dictionary alone may have changed. -/
theorem State.plainKept {s : State} {d : Dev} {r : OdpReq} (hk : keeps r.index r.sub = true) (v : List Byte) (hmem : d.mem = s.dev.mem)
    (hoff : d.sys.offDict = s.dev.sys.offDict) (hvalues : d.sys.mgmt.dict.values = s.dev.sys.mgmt.dict.values) :
    ∃ e, (liftSys (Sys.keepPlain r v) d).syncRings = e ∧ e.sys.core = s.dev.sys.core ∧ e.sys.mgmt.power = s.dev.sys.mgmt.power
      ∧ e.sys.fab = s.dev.sys.fab ∧ (s.dev.mem.Coherent → s.KeepsButPages { s with dev := e })
      ∧ (¬(r.index = 0x2110 ∧ r.sub = 2) → e.sys.mgmt.bring = s.dev.sys.mgmt.bring)
      ∧ e.sys.mgmt.dict = { d.sys.mgmt.dict with values := assocSet s.dev.sys.mgmt.dict.values (r.index * 256 + r.sub) v } := by
  obtain ⟨hcore, hhost, hfab, hpower, hbring, -⟩ := Sys.offDict_parts hoff
  have hrecords : ∀ n < 64, (liftSys (Sys.keepPlain r v) d).sys.ringRec n = s.dev.sys.ringRec n := fun n hn =>
    (Sys.setCfg_ringRec d.sys hk v hn).trans (congrArg (fun l => assoc l (0x9100 * 256 + (n + 1)) (objDefault 0x9100 (n + 1))) hvalues)
  have hpages := State.keepsButPages_of_records (d := liftSys (Sys.keepPlain r v) d) hmem (congrArg HostState.parts hhost)
    (congrArg HostState.rings hhost) hrecords
  obtain ⟨ecore, efab, edict, ebring, epower, -⟩ := (liftSys (Sys.keepPlain r v) d).syncRings_frame
  generalize (liftSys (Sys.keepPlain r v) d).syncRings = e at *
  refine ⟨e, rfl, ecore.trans hcore, epower.trans hpower, efab.trans hfab, hpages, fun hassign => ebring.trans (Eq.trans ?_ hbring), ?_⟩
  · simp only [liftSys_sys, Sys.keepPlain, Sys.onBring_bring, Sys.setCfg_bring, hassign, decide_false, Bool.or_false]
  · rw [edict, ← hvalues]
    rfl

theorem assignmentReset_persists : ((objRow 0x2110 2).map ObjRow.persist).getD false = true := by decide +kernel

/-- Assignment reset is journalled. -/
theorem recordOf_assignmentReset {s : Sys} {r : OdpReq} {v : List Byte} (h : rowOf r.index r.sub v = .write) (hrec : s.recordOf r v = none) :
    ¬(r.index = 0x2110 ∧ r.sub = 2) := by
  rintro ⟨hi, hsub⟩
  unfold Sys.recordOf at hrec
  rw [h, hi, hsub] at hrec
  dsimp only at hrec
  rw [if_pos assignmentReset_persists] at hrec
  cases hrec

theorem plainWriteTakesEffect {s : State} {w : WriteRow} {r : OdpReq} {k : Nat} {v : List Byte} (h : s.dev.Accepts w r k v)
    (hrow : rowOf r.index r.sub v = .write) (hk : keeps r.index r.sub = true) (hrec : s.dev.sys.recordOf r v = none) :
    ∃ t, onRings (Dev.writeRequest w r none false) s = .next t ∧ s.Untouched t ∧ t.dev.sys.fab = s.dev.sys.fab
      ∧ t.dev.sys.cfg r.index r.sub = v
      ∧ (∀ i sub, i * 256 + sub ≠ r.index * 256 + r.sub → t.dev.sys.cfg i sub = s.dev.sys.cfg i sub)
      ∧ t.dev.sys.mgmt.dict.tx = [s.dev.sys.okFrame k r] ∧ t.dev.sys.mgmt.dict.store = s.dev.sys.mgmt.dict.store := by
  have hgo := h.atOnce (by simp [hrow]) hrec none false
  obtain ⟨hmem, hoff, hvalues, -, hstore, htx, -⟩ := Dev.replied_leaves h.slot r
  rw [Dev.applyWrite_plain hrow hk] at hgo
  have hrun := onRings_of hgo
  obtain ⟨e, he, hcore, hpower, hfab, hpages, hbring, hdict⟩ := State.plainKept hk v hmem hoff hvalues
  rw [he] at hrun
  refine ⟨_, hrun, ⟨rfl, hcore, hpower, hbring (recordOf_assignmentReset hrow hrec), hpages⟩, hfab, ?_⟩
  dsimp only [Sys.cfg]
  rw [hdict]
  exact ⟨assoc_assocSet_same _ _ _ _, fun i sub hne => assoc_assocSet_ne _ hne _ _, htx, hstore⟩

theorem journalledWriteWaits {s : State} {w : WriteRow} {r : OdpReq} {k : Nat} {v : List Byte} (h : s.dev.Accepts w r k v)
    (hrow : rowOf r.index r.sub v = .write) {vs : List (Nat × List Byte)} (hrec : s.dev.sys.recordOf r v = some vs) :
    ∃ t, onRings (Dev.writeRequest w r none false) s = .next t ∧ s.Untouched t ∧ t.dev.sys.fab = s.dev.sys.fab
      ∧ t.dev.sys.mgmt.dict.jpending = some ⟨{ r with data := v }, k, vs, none⟩
      ∧ t.dev.sys.mgmt.dict.values = s.dev.sys.mgmt.dict.values ∧ t.dev.sys.mgmt.dict.tx = []
      ∧ t.dev.sys.mgmt.dict.store = s.dev.sys.mgmt.dict.store := by
  obtain ⟨t, ht, hu, hfab, hj, hvalues, htx, hstore, -⟩ := h.waiting (by simp [hrow]) hrec
  rw [JPending.ofWrite, if_neg (by simp [hrow])] at hj
  exact ⟨t, ht, hu, hfab, hj, hvalues, htx, hstore⟩

/-! ### Segments of a DOMAIN write (R154) -/

theorem modNth_congr {α : Type} (l : List α) (i : Nat) {f g : α → α} (d : α) (h : f (l.getD i d) = g (l.getD i d)) :
    modNth l i f = modNth l i g := by
  induction l generalizing i with
  | nil => rfl
  | cons a l ih =>
    cases i with
    | zero => exact congrArg (· :: l) h
    | succ i => exact congrArg (a :: ·) (ih i h)

/-- A session once a segment of a DOMAIN write of `total` bytes has arrived for it. -/
def Session.kept (r : OdpReq) (off total : Nat) (x : Session) : Session := { x with
  wrKey := blockKey r.index r.sub, wrTotal := total, wrData := (if off = 0 then [] else x.wrData) ++ r.data }

/-- What a segment that follows those before it leaves of its slot. -/
theorem Dev.begun_kept {d : Dev} {k : Nat} {r : OdpReq} {off total : Nat} (hk : k < d.sys.mgmt.dict.sessions.length)
    (hf : d.sys.SegmentFits k r off total) :
    liftSys (fun s => s.onSession k fun x => { x with wrData := ((d.begun k r off total).sys.session k).wrData ++ r.data })
      (d.begun k r off total) = liftSys (fun s => s.onSession k (Session.kept r off total)) d := by
  obtain ⟨-, -, hdata, -⟩ := d.begun_session hk hf
  obtain ⟨-, -, -, -, hfirst⟩ := hf
  rw [hdata]
  unfold Dev.begun
  by_cases h0 : off = 0
  · simp only [h0, if_true, liftSys, Sys.onSession, Sys.onDict, modNth_modNth]
    rfl
  · obtain ⟨hkey, htotal, -⟩ := hfirst.resolve_left h0
    have hsame : ({ d.sys.session k with wrData := (d.sys.session k).wrData ++ r.data } : Session) = (d.sys.session k).kept r off total := by
      simp only [Session.kept, if_neg h0, ← hkey, ← htotal]
    simp only [if_neg h0, liftSys, Sys.onSession, Sys.onDict]
    rw [modNth_congr d.sys.mgmt.dict.sessions k Session.free hsame]

/-- A segment that does not end its DOMAIN write is kept with those before it, and answered. -/
theorem Dev.segmentIn_kept {d : Dev} {k : Nat} {r : OdpReq} {off total : Nat} (hk : k < d.sys.mgmt.dict.sessions.length)
    (hf : d.sys.SegmentFits k r off total) (ht : off + r.data.length < total) (hphase : d.sys.phaseAbort r.index true = none)
    (himage : ¬(r.index = 0xB021 ∧ d.sys.imageBusy k = true)) (a : Option AgeingReading) (e : Bool) :
    d.segmentIn k r off total a e = liftSys (fun s => (s.onSession k (Session.kept r off total)).respond k r 0x13 0 r.sub) d := by
  have hkept := congrArg (liftSys fun s => s.respond k r 0x13 0 r.sub) (Dev.begun_kept hk hf)
  obtain ⟨hkey, htotal, hdata, hoff⟩ := d.begun_session hk hf
  obtain ⟨hle, hlen, hhead, hty, -⟩ := hf
  unfold Dev.segmentIn
  extract_lets refuse domain state key d1 x v
  have hdomain : domain = none := if_neg (not_not.2 hty)
  have hstate : state = none := by
    simp only [state, if_pos ht, hphase, if_neg himage]
    rfl
  change x.wrKey = key at hkey
  change x.wrTotal = total at htotal
  change off = x.wrData.length at hoff
  have hvlen : v.length = off + r.data.length := by simp only [v, List.length_append, ← hoff]
  rw [hhead, hdomain, hstate]
  dsimp only [firstAbort]
  rw [if_neg (by simp only [hkey, htotal, ← hoff]; omega), if_pos (by omega)]
  exact hkept

theorem segmentIsKept {s : State} {r : OdpReq} {k off total : Nat} (h : s.dev.Takes r k 0x13) (hb : r.block = some (off, total))
    (hf : s.dev.sys.SegmentFits k r off total) (ht : off + r.data.length < total) (hphase : s.dev.sys.phaseAbort r.index true = none)
    (himage : ¬(r.index = 0xB021 ∧ s.dev.sys.imageBusy k = true)) :
    ∃ t, exec (.odpWriteBlock r) s = .next t ∧ s.Untouched t ∧ t.dev.sys.fab = s.dev.sys.fab
      ∧ (t.dev.sys.session k).wrKey = blockKey r.index r.sub ∧ (t.dev.sys.session k).wrTotal = total
      ∧ (t.dev.sys.session k).wrData = (if off = 0 then [] else (s.dev.sys.session k).wrData) ++ r.data
      ∧ t.dev.sys.mgmt.dict.values = s.dev.sys.mgmt.dict.values ∧ t.dev.sys.mgmt.dict.store = s.dev.sys.mgmt.dict.store
      ∧ t.dev.sys.mgmt.dict.tx = [s.dev.sys.okFrame k r] := by
  have hk : k < s.dev.heard.sys.mgmt.dict.sessions.length := Sys.sessionOf_lt h.2.1
  have hop : reqOp r = 0x13 := if_pos (by simp [hb])
  have hrow : s.dev.sys.rowFor r = .writeBlock := if_pos (by simp [reqPartial, hb, ht])
  have hgo : s.dev.writeRequest .writeBlock r none false = liftSys (fun s => (s.onSession k (Session.kept r off total)).respond k r 0x13 0 r.sub)
      s.dev.heard := by
    rw [show s.dev.writeRequest .writeBlock r none false = _ from if_pos hrow, Dev.arrive_turn (g := .write r none false) h.1, Dev.execute,
      Dev.writeIn, Dev.request_takes (hop.symm ▸ h), hb]
    exact Dev.segmentIn_kept (d := s.dev.heard) hk hf ht hphase himage none false
  have hsess := Sys.onSession_session hk (Session.kept r off total)
  have hlen : k < (s.dev.heard.sys.onSession k (Session.kept r off total)).mgmt.dict.sessions.length := hk.trans_eq (modNth_length _ _ _).symm
  have hdone := (s.dev.heard.sys.onSession k (Session.kept r off total)).answer_session r.seq 0x13 0 (abortPayload 0x13 0 r.index r.sub) hlen
  have hsent := (s.dev.heard.sys.onSession k (Session.kept r off total)).answer_tx (k := k) r.seq 0x13 0 (abortPayload 0x13 0 r.index r.sub)
  rw [hsess] at hdone hsent
  have hrun := onRings_of hgo
  generalize hd : liftSys (fun s => (s.onSession k (Session.kept r off total)).respond k r 0x13 0 r.sub) s.dev.heard = d at hrun
  have hsys : d.sys = (s.dev.heard.sys.onSession k (Session.kept r off total)).answer k r.seq 0x13 0 (abortPayload 0x13 0 r.index r.sub) :=
    hd ▸ rfl
  rw [← hsys] at hdone hsent
  obtain ⟨hu, hfab, -, hdict⟩ := State.written_offDict (s := s) (d := d) (hd ▸ rfl) (by rw [hsys]; simp) (by rw [hsys]; simp)
  have hkept : d.sys.mgmt.dict.values = s.dev.sys.mgmt.dict.values ∧ d.sys.mgmt.dict.store = s.dev.sys.mgmt.dict.store := by
    rw [hsys]
    simp
  generalize d.syncRings = e at *
  have hslot := (congrArg (fun x : DictState => x.sessions.getD k Session.free) hdict).trans hdone
  refine ⟨_, hrun, hu, hfab, congrArg Session.wrKey hslot, congrArg Session.wrTotal hslot, congrArg Session.wrData hslot, ?_⟩
  dsimp only
  rw [hdict, hsent, hkept.1, hkept.2, Sys.onSession_tx, Dev.heard_tx, List.nil_append, Sys.okFrame, hop]
  exact ⟨rfl, rfl, rfl⟩

/-- Settles O8: a plain write by whether its object is journalled, and a segment by its place in the DOMAIN write. -/
theorem acceptedWriteTakesEffect : Obligations.AcceptedWriteTakesEffect := by
  refine fun s r k => ⟨fun v w c hc h hrow => ?_, fun off total h hb hf ht hphase himage _ => segmentIsKept h hb hf ht hphase himage⟩
  have hexec : exec c s = onRings (Dev.writeRequest w r none false) s := by
    obtain ⟨rfl, rfl⟩ | ⟨rfl, rfl⟩ := hc <;> rfl
  rw [hexec]
  exact ⟨plainWriteTakesEffect h hrow, fun vs => journalledWriteWaits h hrow⟩

end Sys2Proof.Machine
end

section
/-! PROOF. The journal: records, failures of the flash and compactions (R145 to R147). -/

namespace Sys2Proof.Machine

open Sys2Proof

/-! ### Held datagrams (R128) -/

theorem Dev.serveHeld_none {d : Dev} (h : d.sys.mgmt.dict.held = []) : d.serveHeld = d := by
  unfold Dev.serveHeld
  rw [h, Dev.serveAll, liftSys, Sys.onDict, ← h]

/-! ### A record that is written (R145) -/

/-- The record of a write is valid: after a failure in one area, in the other. -/
def Sys.record (s : Sys) (failures : Nat) (j : JPending) : Sys :=
  (if failures = 1 then s.otherArea else s).journal.onDict fun x => { x with store := storeAll x.store j.values, jpending := none }

theorem Sys.record_leaves (s : Sys) (n : Nat) (j : JPending) : (s.record n j).offDict = s.offDict
    ∧ (s.record n j).mgmt.dict.values = s.mgmt.dict.values ∧ (s.record n j).mgmt.dict.pending = s.mgmt.dict.pending
    ∧ (s.record n j).mgmt.dict.store = storeAll s.mgmt.dict.store j.values ∧ (s.record n j).mgmt.dict.jpending = none
    ∧ (s.record n j).mgmt.dict.held = s.mgmt.dict.held
    ∧ (s.record n j).mgmt.dict.journalSeq = (s.mgmt.dict.journalSeq + 1) % 2 ^ 32
    ∧ (s.record n j).mgmt.dict.sessions = s.mgmt.dict.sessions ∧ (s.record n j).mgmt.dict.tx = s.mgmt.dict.tx := by
  unfold Sys.record
  split
  · exact ⟨rfl, rfl, rfl, rfl, rfl, rfl, rfl, rfl, rfl⟩
  · exact ⟨rfl, rfl, rfl, rfl, rfl, rfl, rfl, rfl, rfl⟩

/-- The device once the record of write `j` is valid and the response has left, before the write acts. -/
def Dev.valid (d : Dev) (failures : Nat) (j : JPending) : Dev :=
  liftSys (fun s => (s.record failures j).respond j.slot j.req (reqOp j.req) 0 j.req.sub) d.heard

/-- A record that fits ends its write: the response leaves, and the write acts. -/
theorem journalValid_valid {d : Dev} {j : JPending} {n : Nat} (hj : d.sys.mgmt.dict.jpending = some j) (hup : d.sys.mgmtUp = true)
    (hfit : d.sys.mgmt.dict.RecordFits) (hn : n < 2) :
    journalValid n d = ((d.valid n j).applyWrite j.slot j.req j.req.data none false).serveHeld := by
  obtain ⟨hfull, hroom, -⟩ := hfit
  unfold journalValid
  rw [hj]
  dsimp only
  rw [if_neg (by simp [hup, hfull])]
  refine congrArg Dev.serveHeld ?_
  unfold Dev.recordEnds
  rw [if_neg, if_neg (by omega)]
  · rfl
  · change ¬2 ^ 20 < d.sys.mgmt.dict.journalUsed + d.sys.freeNat % 4096 + 1
    omega

/-- What a valid record leaves: the store has its values, the response has left for its client, and nothing waits. -/
theorem Dev.valid_leaves (d : Dev) (n : Nat) (j : JPending) : (d.valid n j).mem = d.mem ∧ (d.valid n j).sys.offDict = d.sys.offDict
    ∧ (d.valid n j).sys.mgmt.dict.values = d.sys.mgmt.dict.values ∧ (d.valid n j).sys.mgmt.dict.pending = d.sys.mgmt.dict.pending
    ∧ (d.valid n j).sys.mgmt.dict.store = storeAll d.sys.mgmt.dict.store j.values ∧ (d.valid n j).sys.mgmt.dict.jpending = none
    ∧ (d.valid n j).sys.mgmt.dict.held = d.sys.mgmt.dict.held
    ∧ (d.valid n j).sys.mgmt.dict.journalSeq = (d.sys.mgmt.dict.journalSeq + 1) % 2 ^ 32
    ∧ (d.valid n j).sys.mgmt.dict.sessions = modNth d.sys.mgmt.dict.sessions j.slot (fun x => { x with
      lastSeq := j.req.seq, lastResp := (d.sys.okFrame j.slot j.req).bytes })
    ∧ (d.valid n j).sys.mgmt.dict.tx = [d.sys.okFrame j.slot j.req] := by
  obtain ⟨hoff, hvalues, hpending, hstore, hnone, hheld, hseq, hsessions, htx⟩ := d.heard.sys.record_leaves n j
  have hsess : (d.heard.sys.record n j).session j.slot = d.sys.session j.slot :=
    congrArg (fun l : List Session => l.getD j.slot Session.free) hsessions
  unfold Dev.valid
  rw [liftSys_sys]
  generalize d.heard.sys.record n j = y at *
  rw [Sys.respond, Sys.answer_dict, Sys.answer_offDict, hsess, hsessions, htx]
  exact ⟨rfl, hoff, hvalues, hpending, hstore, hnone, hheld, hseq, rfl, rfl⟩

theorem plainRecordEnds {s : State} {j : JPending} {n : Nat} (hup : s.dev.sys.mgmtUp = true) (hfit : s.dev.sys.mgmt.dict.RecordFits)
    (hj : s.dev.sys.mgmt.dict.jpending = some j) (hrow : rowOf j.req.index j.req.sub j.req.data = .write)
    (hk : keeps j.req.index j.req.sub = true) (hn : n < 2) :
    ∃ t, exec (.journalRecordValid n) s = .next t ∧ t.pending = s.pending ∧ t.dev.sys.core = s.dev.sys.core
      ∧ t.dev.sys.mgmt.power = s.dev.sys.mgmt.power ∧ t.dev.sys.fab = s.dev.sys.fab
      ∧ (s.dev.mem.Coherent → s.KeepsButPages t) ∧ t.dev.sys.mgmt.dict.jpending = none
      ∧ t.dev.sys.mgmt.dict.store = storeAll s.dev.sys.mgmt.dict.store j.values
      ∧ t.dev.sys.mgmt.dict.journalSeq = (s.dev.sys.mgmt.dict.journalSeq + 1) % 2 ^ 32
      ∧ t.dev.sys.cfg j.req.index j.req.sub = j.req.data ∧ t.dev.sys.mgmt.dict.tx = [s.dev.sys.okFrame j.slot j.req] := by
  obtain ⟨hmem, hoff, hvalues, -, hstore, hnone, hheld, hseq, -, htx⟩ := s.dev.valid_leaves n j
  have hgo := journalValid_valid hj hup hfit hn
  obtain ⟨-, -, hempty⟩ := hfit
  rw [Dev.applyWrite_plain hrow hk] at hgo
  generalize s.dev.valid n j = d at *
  rw [Dev.serveHeld_none (d := liftSys (Sys.keepPlain j.req j.req.data) d) (hheld.trans hempty)] at hgo
  have hrun : exec (.journalRecordValid n) s = _ := onRings_of hgo
  obtain ⟨e, he, hcore, hpower, hfab, hpages, -, hdict⟩ := State.plainKept hk j.req.data hmem hoff hvalues
  rw [he] at hrun
  refine ⟨_, hrun, rfl, hcore, hpower, hfab, hpages, ?_⟩
  dsimp only [Sys.cfg]
  rw [hdict]
  exact ⟨hnone, hstore, hseq, assoc_assocSet_same _ _ _ _, htx⟩

/-! ### A failure of the flash in both areas (R147) -/

/-- A failure in both areas is counted, and enters the error log. -/
theorem Sys.flashFails_leaves (s : Sys) : s.flashFails.core = s.core ∧ s.flashFails.host = s.host ∧ s.flashFails.fab = s.fab
    ∧ s.flashFails.mgmt.power = s.mgmt.power ∧ s.flashFails.mgmt.bring = s.mgmt.bring
    ∧ s.flashFails.mgmt.dict = { s.mgmt.dict with flashFailures := (s.mgmt.dict.flashFailures + 1) % 2 ^ 32 } := by
  cases h : s.mgmt.rel.mgmtStopped <;> simp [Sys.flashFails, Sys.detectedCount, h]

/-- A failure in both areas rejects the write that waits, and leaves the store and the values in force as they were. -/
theorem Sys.flashReject_leaves (s : Sys) {j : JPending} (hrow : rowOf j.req.index j.req.sub j.req.data ≠ .token) :
    ∃ z, s.flashFails.journalReject j 0x00060002 = z ∧ z.core = s.core ∧ z.host = s.host ∧ z.fab = s.fab
      ∧ z.mgmt.power = s.mgmt.power ∧ z.mgmt.bring = s.mgmt.bring ∧ z.mgmt.dict.values = s.mgmt.dict.values
      ∧ z.mgmt.dict.store = s.mgmt.dict.store ∧ z.mgmt.dict.jpending = none ∧ z.mgmt.dict.held = s.mgmt.dict.held
      ∧ z.mgmt.dict.flashFailures = (s.mgmt.dict.flashFailures + 1) % 2 ^ 32
      ∧ z.mgmt.dict.tx = s.mgmt.dict.tx ++ [(s.session j.slot).frame (odpFrame (reqOp j.req) (s.session j.slot).sid
          j.req.seq 0 (abortPayload (reqOp j.req) 0x00060002 j.req.index j.req.sub))] := by
  obtain ⟨hcore, hhost, hfab, hpower, hbring, hdict⟩ := s.flashFails_leaves
  unfold Sys.journalReject
  generalize s.flashFails = y at *
  have hsess : (y.onDict fun x => { x with jpending := none }).session j.slot = s.session j.slot :=
    (congrArg (fun x : DictState => x.sessions.getD j.slot Session.free) hdict :)
  obtain ⟨hoff, hvalues, hstore, hnone, hheld, -, hfail, htx⟩ := Sys.reject_leaves (s := y.onDict fun x => { x with jpending := none })
    (k := j.slot) hrow 0x00060002 j.req.sub
  obtain ⟨zcore, zhost, zfab, zpower, zbring, -⟩ := Sys.offDict_parts hoff
  rw [hsess] at htx
  simp only [Sys.onDict_dict, hdict] at hvalues hstore hnone hheld hfail htx
  exact ⟨_, rfl, zcore.trans hcore, zhost.trans hhost, zfab.trans hfab, zpower.trans hpower, zbring.trans hbring, hvalues, hstore, hnone,
    hheld, hfail, htx⟩

/-- A record that fails in both areas: its write is rejected. -/
theorem journalValid_fails {d : Dev} {j : JPending} {n : Nat} (hj : d.sys.mgmt.dict.jpending = some j) (hup : d.sys.mgmtUp = true)
    (hfit : d.sys.mgmt.dict.RecordFits) (hn : 2 ≤ n) :
    journalValid n d = (liftSys (fun s => s.flashFails.journalReject j 0x00060002) d.heard).serveHeld := by
  obtain ⟨hfull, hroom, -⟩ := hfit
  unfold journalValid
  rw [hj]
  dsimp only
  rw [if_neg (by simp [hup, hfull])]
  refine congrArg Dev.serveHeld ?_
  unfold Dev.recordEnds
  rw [if_neg, if_pos hn]
  · rfl
  · change ¬2 ^ 20 < d.sys.mgmt.dict.journalUsed + d.sys.freeNat % 4096 + 1
    omega

theorem recordFails {s : State} {j : JPending} {n : Nat} (hup : s.dev.sys.mgmtUp = true) (hfit : s.dev.sys.mgmt.dict.RecordFits)
    (hj : s.dev.sys.mgmt.dict.jpending = some j) (hrow : rowOf j.req.index j.req.sub j.req.data ≠ .token) (hn : 2 ≤ n) :
    ∃ t, exec (.journalRecordValid n) s = .next t ∧ s.Untouched t ∧ t.dev.sys.mgmt.dict.jpending = none
      ∧ t.dev.sys.fab = s.dev.sys.fab
      ∧ t.dev.sys.mgmt.dict.store = s.dev.sys.mgmt.dict.store ∧ t.dev.sys.mgmt.dict.values = s.dev.sys.mgmt.dict.values
      ∧ t.dev.sys.mgmt.dict.flashFailures = (s.dev.sys.mgmt.dict.flashFailures + 1) % 2 ^ 32
      ∧ t.dev.sys.mgmt.dict.tx = [(s.dev.sys.session j.slot).frame (odpFrame (reqOp j.req) (s.dev.sys.session j.slot).sid
          j.req.seq 0 (abortPayload (reqOp j.req) 0x00060002 j.req.index j.req.sub))] := by
  have hgo := journalValid_fails hj hup hfit hn
  obtain ⟨-, -, hempty⟩ := hfit
  obtain ⟨z, hz, hcore, hhost, hfab, hpower, hbring, hvalues, hstore, hnone, hheld, hfail, htx⟩ := s.dev.heard.sys.flashReject_leaves hrow
  rw [liftSys, hz, Dev.serveHeld_none (hheld.trans hempty)] at hgo
  have hrun : exec (.journalRecordValid n) s = _ := onRings_of hgo
  have hu := State.untouched_of (s := s) (d := { s.dev.heard with sys := z }) rfl hhost hvalues hcore hpower hbring
  obtain ⟨-, efab, edict, -⟩ := Dev.syncRings_frame { s.dev.heard with sys := z }
  generalize Dev.syncRings _ = e at *
  refine ⟨_, hrun, hu, ?_⟩
  dsimp only
  rw [edict, efab]
  exact ⟨hnone, hfab, hstore, hvalues, hfail, htx⟩

theorem journalRecordEnds : Claims.JournalRecordEnds :=
  fun _ _ _ hup hfit hj => ⟨plainRecordEnds hup hfit hj, recordFails hup hfit hj⟩

/-! ### Compactions (R145, R147) -/

/-- A compaction makes the other area the active one, and leaves all that the journal holds. -/
theorem journalCompaction_compacts {d : Dev} {n : Nat} (hup : d.sys.mgmtUp = true) (hfull : d.sys.mgmt.dict.full = true) (hn : n < 2) :
    journalCompaction n d = liftSys (fun s => (s.drew 1).onDict fun x => { x with
      compactions := (x.compactions + 1) % 2 ^ 32, area := 1 - x.area, journalUsed := s.freeNat % 2 ^ 20, compacted := true }) d := by
  unfold journalCompaction
  dsimp only
  rw [if_pos (by simp [hup, hfull]), if_neg (Nat.not_le.2 hn)]

theorem journalCompaction_fails {d : Dev} {n : Nat} (hup : d.sys.mgmtUp = true) (hfull : d.sys.mgmt.dict.full = true) (hn : 2 ≤ n)
    (hj : d.sys.mgmt.dict.jpending = none) : journalCompaction n d = liftSys Sys.flashFails d := by
  unfold journalCompaction
  dsimp only
  rw [if_pos (by simp [hup, hfull]), if_pos hn, hj]

theorem compactionKeepsTheStore : Claims.CompactionKeepsTheStore := by
  refine fun s n hup hfull => ⟨{ s with dev := (journalCompaction n s.dev).syncRings }, rfl, rfl, fun hn => ?_, fun hn hj => ?_⟩
  · rw [journalCompaction_compacts hup hfull hn]
    generalize hd : liftSys _ s.dev = d
    have hleft : d.sys.mgmt.dict = { s.dev.sys.mgmt.dict with
        compactions := (s.dev.sys.mgmt.dict.compactions + 1) % 2 ^ 32, area := 1 - s.dev.sys.mgmt.dict.area
        journalUsed := s.dev.sys.freeNat % 2 ^ 20, compacted := true } := hd ▸ rfl
    obtain ⟨hu, hfab, hsec, hdict⟩ := State.written_offDict (s := s) (d := d) (hd ▸ rfl) (hd ▸ rfl) (hd ▸ rfl)
    rw [hleft] at hdict
    generalize d.syncRings = e at *
    refine ⟨hu, hfab, hsec, ?_⟩
    dsimp only
    rw [hdict]
    exact ⟨rfl, rfl, rfl, Nat.mod_lt _ (by decide), rfl, by simp [DictState.full], rfl⟩
  · rw [journalCompaction_fails hup hfull hn hj]
    obtain ⟨hcore, hhost, hfab, hpower, hbring, hdict⟩ := s.dev.sys.flashFails_leaves
    have hu := State.untouched_of (s := s) (d := liftSys Sys.flashFails s.dev) rfl hhost (by rw [liftSys_sys, hdict]) hcore hpower hbring
    obtain ⟨-, -, edict, -⟩ := (liftSys Sys.flashFails s.dev).syncRings_frame
    rw [liftSys_sys, hdict] at edict
    generalize (liftSys Sys.flashFails s.dev).syncRings = e at *
    refine ⟨hu, ?_⟩
    dsimp only
    rw [edict]
    exact ⟨rfl, rfl, rfl, rfl⟩

/-- Settles O41: a record by whether its program fails in both areas, and a compaction likewise. -/
theorem journalRecordIsAtomic : Obligations.JournalRecordIsAtomic := ⟨journalRecordEnds, compactionKeepsTheStore⟩

end Sys2Proof.Machine
end

section
/-! PROOF. The unlock and the role keys (R159, R161, R163). -/

namespace Sys2Proof.Machine

open Sys2Proof

/-! ### The rows of the unlock, the role keys and the groups (Table 4-4) -/

/-- What a row of the unlock, the role keys or a coupled group says of the write that it takes. -/
def WriteRow.Tells (i sub : Nat) : WriteRow → Prop
  | .member => ∃ o, objRow i sub = some o ∧ o.acc = 4
  | .commit | .discard => sub = 0xFE ∧ ∃ o, objRow i sub = some o
  | .unlock => i = 0xF010 ∧ sub = 1
  | .roleKey => i = 0xF020 ∧ ∃ o, objRow i sub = some o
  | _ => True

theorem WriteRow.Tells.ite {i sub : Nat} {c : Prop} [Decidable c] {a b : WriteRow} (ha : c → a.Tells i sub) (hb : b.Tells i sub) :
    (if c then a else b).Tells i sub := by
  split
  next h => exact ha h
  next => exact hb

theorem rowOf_tells (i sub : Nat) (v : List Byte) : (rowOf i sub v).Tells i sub := by
  unfold rowOf
  split
  · trivial
  next o ho =>
    dsimp only
    (repeat' refine .ite (fun _ => ?_) ?_) <;> simp_all [WriteRow.Tells]

/-! ### Expert unlock (R163) -/

theorem Sys.raise_pages (s : Sys) (p code source : Nat) (detail : List Byte) :
    ((s.raise p code source detail).host.parts, (s.raise p code source detail).host.rings) = (s.host.parts, s.host.rings) := by
  unfold Sys.raise
  split
  · rfl
  · split_ifs <;> simp [*]

theorem Sys.raiseAll_pages (s : Sys) (code source : Nat) (detail : List Byte) :
    (s.raiseAll code source detail).host.parts = s.host.parts ∧ (s.raiseAll code source detail).host.rings = s.host.rings := by
  refine Prod.mk.inj (?_ : (_, _) = (s.host.parts, s.host.rings))
  unfold Sys.raiseAll
  split
  · simp
  · exact runAll_keeps _ (fun x : Sys => (x.host.parts, x.host.rings)) (fun _ x => x.raise_pages _ _ _ _) _ _

theorem unlock_row : keeps 0xF010 1 = false ∧ ((objRow 0xF010 1).map ObjRow.persist).getD false = false := by decide +kernel

theorem recordOf_unlock {s : Sys} {r : OdpReq} {v : List Byte} (h : rowOf r.index r.sub v = .unlock) : s.recordOf r v = none := by
  have htells := rowOf_tells r.index r.sub v
  rw [h] at htells
  obtain ⟨hi, hsub⟩ := htells
  unfold Sys.recordOf
  rw [h, hi, hsub]
  exact if_neg (by simp [unlock_row.2])

/-- An object that keeps nothing and is no role key slot acts, and no more. -/
theorem Dev.applyWrite_acts {d : Dev} {k : Nat} {r : OdpReq} {v : List Byte} (hk : keeps r.index r.sub = false)
    (hassign : ¬(r.index = 0x2110 ∧ r.sub = 2)) (hactive : r.index ≠ 0xB023) (hrole : rowOf r.index r.sub v ≠ .roleKey)
    (a : Option AgeingReading) (e : Bool) : d.applyWrite k r v a e = d.objApply k r v a e := by
  unfold Dev.applyWrite
  simp only [hk, hassign, hactive, hrole, if_false, false_and, Bool.false_eq_true]

theorem Dev.objApply_unlock {d : Dev} {k : Nat} {r : OdpReq} {v : List Byte} (h : rowOf r.index r.sub v = .unlock)
    (a : Option AgeingReading) (e : Bool) : d.objApply k r v a e = if leNat v = 1 then liftSys (fun s => s.unlock k) d else d := by
  unfold Dev.objApply
  dsimp only
  rw [h]

theorem Dev.applyWrite_unlock {d : Dev} {k : Nat} {r : OdpReq} {v : List Byte} (h : rowOf r.index r.sub v = .unlock)
    (a : Option AgeingReading) (e : Bool) : d.applyWrite k r v a e = if leNat v = 1 then liftSys (fun s => s.unlock k) d else d := by
  have htells := rowOf_tells r.index r.sub v
  rw [h] at htells
  obtain ⟨hi, hsub⟩ := htells
  rw [Dev.applyWrite_acts (by rw [hi, hsub, unlock_row.1]) (by omega) (by omega) (by simp [h]), Dev.objApply_unlock h]

/-- What an unlock leaves: its session's mark, the count, and an event. -/
theorem Sys.unlock_leaves (s : Sys) (k : Nat) : (s.unlock k).core = s.core ∧ (s.unlock k).fab = s.fab
    ∧ (s.unlock k).mgmt.power = s.mgmt.power ∧ (s.unlock k).mgmt.bring = s.mgmt.bring
    ∧ (s.unlock k).host.parts = s.host.parts ∧ (s.unlock k).host.rings = s.host.rings
    ∧ (s.unlock k).mgmt.dict.values = s.mgmt.dict.values ∧ (s.unlock k).mgmt.dict.tx = s.mgmt.dict.tx
    ∧ (s.unlock k).mgmt.dict.sessions = modNth s.mgmt.dict.sessions k (fun x => { x with unlocked := true })
    ∧ (s.unlock k).mgmt.dict.unlockCount = (s.mgmt.dict.unlockCount + 1) % 2 ^ 32 := by
  unfold Sys.unlock
  simp only [Sys.raiseAll_core, Sys.raiseAll_fab, Sys.raiseAll_power, Sys.raiseAll_bring, Sys.raiseAll_dict, (Sys.raiseAll_pages _ _ _ _).1,
    (Sys.raiseAll_pages _ _ _ _).2]
  exact ⟨rfl, rfl, rfl, rfl, rfl, rfl, rfl, rfl, rfl, rfl⟩

theorem unlockMarksItsSession {s : State} {r : OdpReq} {k : Nat} {v : List Byte} (h : s.dev.Accepts .unlock r k v) :
    ∃ t, exec (.expertUnlock r) s = .next t ∧ s.Untouched t ∧ t.dev.sys.fab = s.dev.sys.fab
      ∧ t.dev.sys.mgmt.dict.tx = [s.dev.sys.okFrame k r]
      ∧ (v = [0] → t.dev.sys.mgmt.dict.unlockCount = s.dev.sys.mgmt.dict.unlockCount)
      ∧ (v = [1] → (t.dev.sys.session k).unlocked = true ∧ (∀ j, j ≠ k → t.dev.sys.session j = s.dev.sys.session j)
        ∧ t.dev.sys.mgmt.dict.unlockCount = (s.dev.sys.mgmt.dict.unlockCount + 1) % 2 ^ 32) := by
  have hrow := h.row (by decide)
  have hgo := h.atOnce (by simp [hrow]) (recordOf_unlock hrow) none false
  rw [Dev.applyWrite_unlock hrow] at hgo
  obtain ⟨hmem, hoff, hvalues, -, -, htx, hsessions, hcount⟩ := Dev.replied_leaves h.slot r
  obtain ⟨hcore, hhost, hfab, hpower, hbring, -⟩ := Sys.offDict_parts hoff
  generalize s.dev.replied r k = d at *
  by_cases h1 : leNat v = 1
  · have hzero : v ≠ [0] := fun hv => absurd (hv ▸ h1) (by decide)
    rw [if_pos h1, liftSys] at hgo
    obtain ⟨ucore, ufab, upower, ubring, uparts, urings, uvalues, utx, usessions, ucount⟩ := d.sys.unlock_leaves k
    generalize d.sys.unlock k = y at *
    have hrun : exec (.expertUnlock r) s = _ := onRings_of hgo
    have hrecords : ∀ n < 64, y.ringRec n = s.dev.sys.ringRec n := fun n _ =>
      congrArg (fun l => assoc l (0x9100 * 256 + (n + 1)) (objDefault 0x9100 (n + 1))) (uvalues.trans hvalues)
    have hu := State.untouched_of_records (d := { d with sys := y }) hmem (uparts.trans (congrArg HostState.parts hhost))
      (urings.trans (congrArg HostState.rings hhost)) hrecords (ucore.trans hcore) (upower.trans hpower) (ubring.trans hbring)
    obtain ⟨-, efab, edict, -⟩ := Dev.syncRings_frame { d with sys := y }
    generalize Dev.syncRings _ = e at *
    rw [hsessions, modNth_modNth] at usessions
    have hsess : ∀ j, e.sys.session j = _ := fun j =>
      (congrArg (fun x : DictState => x.sessions.getD j Session.free) edict).trans
        ((congrArg (fun l : List Session => l.getD j Session.free) usessions).trans (modNth_getD _ k j _ _))
    refine ⟨_, hrun, hu, efab.trans (ufab.trans hfab), ?_, fun hv => absurd hv hzero, fun _ => ⟨?_, fun j hj => ?_, ?_⟩⟩
    · exact (congrArg DictState.tx edict).trans (utx.trans htx)
    · exact congrArg Session.unlocked ((hsess k).trans (if_pos ⟨rfl, h.slot⟩))
    · exact (hsess j).trans (if_neg fun hk => hj hk.1.symm)
    · exact (congrArg DictState.unlockCount edict).trans (ucount.trans (by rw [hcount]))
  · have hone : v ≠ [1] := fun hv => h1 (hv ▸ rfl)
    rw [if_neg h1] at hgo
    have hrun : exec (.expertUnlock r) s = _ := onRings_of hgo
    obtain ⟨hu, efab, -, hdict⟩ := State.written_offDict hmem hoff hvalues
    generalize d.syncRings = e at *
    refine ⟨_, hrun, hu, efab, ?_⟩
    dsimp only
    rw [hdict]
    exact ⟨htx, fun _ => hcount, fun hv => absurd hv hone⟩

/-! ### Sessions that end together (R159) -/

/-- An open session that the test names ends, any other stays. -/
def Sys.endIf (p : Session → Bool) (k : Nat) (s : Sys) : Sys :=
  if (s.session k).phase != 0 && p (s.session k) then s.endSession k else s

theorem Sys.endSessions_eq (s : Sys) (p : Session → Bool) : s.endSessions p = runAll (Sys.endIf p) (List.range 16) s := rfl

/-- The parts of the dictionary that the end of a session leaves alone. -/
def DictState.offSessions (x : DictState) : DictState := { x with sessions := [], pending := [] }

theorem Sys.endIf_offSessions (p : Session → Bool) (k : Nat) (s : Sys) :
    (Sys.endIf p k s).offDict = s.offDict ∧ (Sys.endIf p k s).mgmt.dict.offSessions = s.mgmt.dict.offSessions
      ∧ (Sys.endIf p k s).mgmt.dict.sessions.length = s.mgmt.dict.sessions.length := by
  unfold Sys.endIf
  split
  · exact ⟨rfl, rfl, setNth_length _ _ _⟩
  · exact ⟨rfl, rfl, rfl⟩

theorem Sys.endIf_session_ne (p : Session → Bool) {j k : Nat} (h : j ≠ k) (s : Sys) : (Sys.endIf p k s).session j = s.session j := by
  unfold Sys.endIf
  split
  · exact setNth_getD_ne _ h _ _
  · rfl

theorem Sys.endIf_session {p : Session → Bool} {k : Nat} {s : Sys} (hk : k < s.mgmt.dict.sessions.length) (ho : (s.session k).phase ≠ 0)
    (hp : p (s.session k) = true) : (Sys.endIf p k s).session k = Session.free := by
  rw [Sys.endIf, if_pos (by simp [ho, hp])]
  exact setNth_getD_same hk _ _

theorem Sys.endIf_free (p : Session → Bool) (j k : Nat) {s : Sys} (h : s.session j = Session.free) :
    (Sys.endIf p k s).session j = Session.free := by
  by_cases hj : j = k
  · subst hj
    rw [Sys.endIf, if_neg (by simp [h, Session.free]), h]
  · rw [Sys.endIf_session_ne p hj, h]

/-- Every open session that the test names has ended. -/
theorem Sys.endSessions_free {p : Session → Bool} {j : Nat} (l : List Nat) {s : Sys} (hj : j ∈ l) (hlen : j < s.mgmt.dict.sessions.length)
    (ho : (s.session j).phase ≠ 0) (hp : p (s.session j) = true) : (runAll (Sys.endIf p) l s).session j = Session.free := by
  induction l generalizing s with
  | nil => cases hj
  | cons k l ih =>
    rw [runAll]
    by_cases hk : j = k
    · subst hk
      exact runAll_inv _ (fun x : Sys => x.session j = Session.free) (fun k x => Sys.endIf_free p j k) l _ (Sys.endIf_session hlen ho hp)
    · have hsame := Sys.endIf_session_ne p hk s
      refine ih ((List.mem_cons.1 hj).resolve_left hk) ?_ (hsame ▸ ho) (hsame ▸ hp)
      rwa [(Sys.endIf_offSessions p k s).2.2]

theorem Sys.endSessions_offSessions (s : Sys) (p : Session → Bool) :
    (s.endSessions p).offDict = s.offDict ∧ (s.endSessions p).mgmt.dict.offSessions = s.mgmt.dict.offSessions := by
  rw [Sys.endSessions_eq]
  exact ⟨runAll_keeps _ Sys.offDict (fun k x => (Sys.endIf_offSessions p k x).1) _ s,
    runAll_keeps _ (fun x : Sys => x.mgmt.dict.offSessions) (fun k x => (Sys.endIf_offSessions p k x).2.1) _ s⟩

/-! ### Role keys (R159, R161) -/

theorem objTable_roleKeys : ∀ o ∈ objTable, o.ilo ≤ 0xF020 → 0xF020 ≤ o.ihi → o.acc = 2 ∧ o.persist = true ∧ 1 ≤ o.lo := by decide +kernel

/-- A role key slot keeps what is written, and is journalled. -/
theorem roleKey_row {r : OdpReq} {v : List Byte} (h : rowOf r.index r.sub v = .roleKey) : r.index = 0xF020 ∧ 1 ≤ r.sub
    ∧ keeps r.index r.sub = true ∧ ∀ s : Sys, s.recordOf r v = some [(r.index * 256 + r.sub, v)] := by
  have htells := rowOf_tells r.index r.sub v
  rw [h] at htells
  obtain ⟨hi, o, ho⟩ := htells
  obtain ⟨hmem, hlo, hhi, hsub, -⟩ := objRow_mem ho
  obtain ⟨hacc, hpersist, hone⟩ := objTable_roleKeys o hmem (hi ▸ hlo) (hi ▸ hhi)
  refine ⟨hi, hone.trans hsub, ?_, fun s => ?_⟩
  · have hplain : r.index ≠ 0x5210 ∧ r.index ≠ 0x6502 ∧ ¬(0x9200 ≤ r.index ∧ r.index ≤ 0x92FF) := by omega
    simp [keeps, ho, hacc, hplain]
  · simp [Sys.recordOf, h, ho, hpersist]

/-- A role key slot takes its key, and the sessions opened with a key it held end. -/
def Sys.keepKey (r : OdpReq) (v : List Byte) (s : Sys) : Sys :=
  if s.roleKey (r.sub - 1) ≠ [] then (s.setCfg r.index r.sub v).endSessions fun x => x.keySlot == r.sub - 1 else s.setCfg r.index r.sub v

theorem Dev.applyWrite_roleKey {d : Dev} {k : Nat} {r : OdpReq} {v : List Byte} (h : rowOf r.index r.sub v = .roleKey)
    (a : Option AgeingReading) (e : Bool) : d.applyWrite k r v a e = liftSys (Sys.keepKey r v) d := by
  obtain ⟨hi, -, hkeeps, -⟩ := roleKey_row h
  unfold Dev.applyWrite
  have hact : ∀ x : Dev, x.objApply k r v a e = x := fun x => by
    unfold Dev.objApply
    dsimp only
    rw [h]
  have hplain : ¬(r.index = 0x2110 ∧ r.sub = 2) ∧ r.index ≠ 0xB023 := by omega
  simp only [hkeeps, hact, h, hplain, true_and, if_true, if_false, bne_iff_ne, Sys.keepKey, liftSys]
  split <;> rfl

theorem Sys.keepKey_offSessions (r : OdpReq) (v : List Byte) (s : Sys) :
    (s.keepKey r v).mgmt.dict.offSessions = (s.setCfg r.index r.sub v).mgmt.dict.offSessions := by
  unfold Sys.keepKey
  split
  · exact (Sys.endSessions_offSessions _ _).2
  · rfl

theorem Sys.keepKey_session {r : OdpReq} {v : List Byte} {s : Sys} {j : Nat} (hheld : s.roleKey (r.sub - 1) ≠ []) (hj : j < 16)
    (hlen : j < s.mgmt.dict.sessions.length) (ho : (s.session j).phase ≠ 0) (hslot : (s.session j).keySlot = r.sub - 1) :
    (s.keepKey r v).session j = Session.free := by
  rw [Sys.keepKey, if_pos hheld, Sys.endSessions_eq]
  exact Sys.endSessions_free (s := s.setCfg r.index r.sub v) (List.range 16) (List.mem_range.2 hj) hlen ho (beq_iff_eq.2 hslot)

/-- The role key slots are what the values in force say. -/
theorem Sys.roleKey_congr {s s' : Sys} (h : s'.mgmt.dict.values = s.mgmt.dict.values) (k : Nat) : s'.roleKey k = s.roleKey k :=
  congrArg (fun l => assoc l (0xF020 * 256 + (k + 1)) (objDefault 0xF020 (k + 1))) h

/-- A change of one session that leaves phase and key slot alone leaves those of every session alone. -/
theorem modNth_key {f : Session → Session} (hf : ∀ x, (f x).phase = x.phase ∧ (f x).keySlot = x.keySlot) (l : List Session) (k j : Nat) :
    ((modNth l k f).getD j Session.free).phase = (l.getD j Session.free).phase
      ∧ ((modNth l k f).getD j Session.free).keySlot = (l.getD j Session.free).keySlot := by
  rw [modNth_getD]
  split
  · exact hf _
  · exact ⟨rfl, rfl⟩

theorem Session.settled_key (r : OdpReq) (x : Session) : (x.settled r).phase = x.phase ∧ (x.settled r).keySlot = x.keySlot := by
  unfold Session.settled
  split <;> exact ⟨rfl, rfl⟩

theorem roleKeyWaits {s : State} {r : OdpReq} {k : Nat} {v : List Byte} (h : s.dev.Accepts .roleKey r k v) :
    ∃ t, exec (.roleKeyWrite r) s = .next t ∧ s.Untouched t
      ∧ t.dev.sys.mgmt.dict.jpending = some ⟨{ r with data := v }, k, [(r.index * 256 + r.sub, v)], none⟩
      ∧ t.dev.sys.mgmt.dict.values = s.dev.sys.mgmt.dict.values
      ∧ t.dev.sys.mgmt.dict.sessions = modNth s.dev.sys.mgmt.dict.sessions k (Session.settled r) := by
  have hrow := h.row (by decide)
  obtain ⟨-, -, -, hrec⟩ := roleKey_row hrow
  obtain ⟨t, ht, hu, -, hj, hvalues, -, -, -, hsessions⟩ := h.waiting (by simp [hrow]) (hrec s.dev.sys)
  rw [JPending.ofWrite, if_neg (by simp [hrow])] at hj
  exact ⟨t, ht, hu, hj, hvalues, hsessions⟩

/-- The record of a role key that fits gives its slot the key, and ends the sessions opened with the key it held. -/
theorem roleKeyRecorded {s : State} {r : OdpReq} {k : Nat} {v : List Byte} {vs : List (Nat × List Byte)}
    (hrow : rowOf r.index r.sub v = .roleKey) (hj : s.dev.sys.mgmt.dict.jpending = some ⟨{ r with data := v }, k, vs, none⟩)
    (hup : s.dev.sys.mgmtUp = true) (hfit : s.dev.sys.mgmt.dict.RecordFits) :
    ∃ u, exec (.journalRecordValid 0) s = .next u ∧ u.dev.sys.roleKey (r.sub - 1) = v
      ∧ (s.dev.sys.roleKey (r.sub - 1) ≠ [] → ∀ j < s.dev.sys.mgmt.dict.sessions.length, j < 16 → (s.dev.sys.session j).phase ≠ 0 →
        (s.dev.sys.session j).keySlot = r.sub - 1 → u.dev.sys.session j = Session.free) := by
  obtain ⟨-, -, hvalues, -, -, -, hheld, -, hsessions, -⟩ := s.dev.valid_leaves 0 ⟨{ r with data := v }, k, vs, none⟩
  have hgo := journalValid_valid hj hup hfit (by decide : 0 < 2)
  obtain ⟨-, -, hempty⟩ := hfit
  obtain ⟨hi, hsub, -⟩ := roleKey_row hrow
  rw [Dev.applyWrite_roleKey (r := { r with data := v }) hrow] at hgo
  generalize s.dev.valid 0 ⟨{ r with data := v }, k, vs, none⟩ = d at *
  have hoff := Sys.keepKey_offSessions { r with data := v } v d.sys
  have hfree := fun j => Sys.keepKey_session (r := { r with data := v }) (v := v) (s := d.sys) (j := j)
  have hkept := modNth_key (f := fun x => { x with lastSeq := r.seq, lastResp := (s.dev.sys.okFrame k { r with data := v }).bytes })
    (fun x => ⟨rfl, rfl⟩) s.dev.sys.mgmt.dict.sessions k
  rw [Dev.serveHeld_none ((congrArg DictState.held hoff).trans (hheld.trans hempty))] at hgo
  have hrun : exec (.journalRecordValid 0) s = _ := onRings_of hgo
  obtain ⟨-, -, edict, -⟩ := (liftSys (Sys.keepKey { r with data := v } v) d).syncRings_frame
  generalize Dev.syncRings _ = e at *
  have hslot : ∀ j, e.sys.session j = (d.sys.keepKey { r with data := v } v).session j := fun j =>
    congrArg (fun x : DictState => x.sessions.getD j Session.free) edict
  refine ⟨_, hrun, ?_, fun hhad j hlen hj16 hopen hkey => (hslot j).trans (hfree j ?_ hj16 ?_ ?_ ?_)⟩
  · have hval : e.sys.mgmt.dict.values = _ := (congrArg DictState.values edict).trans (congrArg DictState.values hoff :)
    rw [Sys.roleKey, Sys.cfg, hval, show r.sub - 1 + 1 = r.sub by omega, ← hi]
    exact assoc_assocSet_same _ _ _ _
  · rwa [Sys.roleKey_congr hvalues]
  · rwa [hsessions, modNth_length]
  · rw [Sys.session, hsessions, (hkept j).1]
    exact hopen
  · rw [Sys.session, hsessions, (hkept j).2]
    exact hkey

/-- Settles O9: an unlock by its value, and a role key by its record, which ends the sessions opened with the key before it. -/
theorem unlockAndRoleKeys : Obligations.UnlockAndRoleKeys := by
  refine fun s r k v hn => ⟨unlockMarksItsSession, fun h => ?_⟩
  obtain ⟨t, ht, hu, hj, hvalues, hsessions⟩ := roleKeyWaits h
  refine ⟨t, ht, hu, hj, fun hup hfit => ?_⟩
  obtain ⟨u, hv, hkey, hends⟩ := roleKeyRecorded (h.row (by decide)) hj hup hfit
  have hkept := modNth_key (Session.settled_key r) s.dev.sys.mgmt.dict.sessions k
  have hlen : t.dev.sys.mgmt.dict.sessions.length = 16 := by rw [hsessions, modNth_length, hn]
  refine ⟨u, hv, hkey, fun hheld j hj16 hopen hslot => hends ?_ j (hlen.symm ▸ hj16) hj16 ?_ ?_⟩
  · rwa [Sys.roleKey_congr hvalues]
  · rw [Sys.session, hsessions, (hkept j).1]
    exact hopen
  · rw [Sys.session, hsessions, (hkept j).2]
    exact hslot

end Sys2Proof.Machine
end

section
/-! PROOF. What the effects of a committed set leave of the dictionary (R139, R143). -/

namespace Sys2Proof.Machine

open Sys2Proof

theorem runAll_dict {β : Type} {f : β → Sys → Sys} (h : ∀ b x, (f b x).mgmt.dict = x.mgmt.dict) (l : List β) (s : Sys) :
    (runAll f l s).mgmt.dict = s.mgmt.dict := runAll_keeps f (fun x : Sys => x.mgmt.dict) h l s

theorem runAll_devDict {β : Type} {f : β → Dev → Dev} (h : ∀ b x, (f b x).sys.mgmt.dict = x.sys.mgmt.dict) (l : List β) (d : Dev) :
    (runAll f l d).sys.mgmt.dict = d.sys.mgmt.dict := runAll_keeps f (fun x : Dev => x.sys.mgmt.dict) h l d

/-! ### Ports and hellos (R519, R522) -/

@[simp] theorem Sys.onPort_dict (s : Sys) (i : Nat) (f : Port → Port) : (s.onPort i f).mgmt.dict = s.mgmt.dict := rfl

@[simp] theorem Sys.setPort_dict (s : Sys) (i st : Nat) : (s.setPort i st).mgmt.dict = s.mgmt.dict := rfl

@[simp] theorem Sys.portEvent_dict (s : Sys) (code i : Nat) (b : List Byte) : (s.portEvent code i b).mgmt.dict = s.mgmt.dict :=
  (Sys.offLinks_eq (s.portEvent_offLinks code i b)).2.1

@[simp] theorem Sys.portUp_dict (s : Sys) (i st : Nat) : (s.portUp i st).mgmt.dict = s.mgmt.dict := by simp [Sys.portUp]

@[simp] theorem Sys.quarantine_dict (s : Sys) (i : Nat) : (s.quarantine i).mgmt.dict = s.mgmt.dict := by simp [Sys.quarantine]

@[simp] theorem Sys.compare_dict (s : Sys) (i : Nat) : (s.compare i).mgmt.dict = s.mgmt.dict := by
  unfold Sys.compare
  extract_lets t status y
  have hy : y.mgmt.dict = s.mgmt.dict := rfl
  clear_value t status y
  split_ifs <;> simp [hy]

@[simp] theorem helloSend_dict (i : Nat) (s : Sys) : (helloSend i s).mgmt.dict = s.mgmt.dict := by
  unfold helloSend
  dsimp only
  split <;> simp

@[simp] theorem Sys.helloAll_dict (s : Sys) : s.helloAll.mgmt.dict = s.mgmt.dict := by
  unfold Sys.helloAll
  exact runAll_dict (fun i x => by split <;> simp) _ s

/-! ### Routes (R489 to R491, R516) -/

@[simp] theorem Sys.pathFailed_dict (s : Sys) (p : Pkt) : (s.pathFailed p).mgmt.dict = s.mgmt.dict := by
  unfold Sys.pathFailed
  split <;> rfl

@[simp] theorem Sys.dropMput_dict (s : Sys) (src part seq group : Nat) : (s.dropMput src part seq group).mgmt.dict = s.mgmt.dict := rfl

@[simp] theorem Sys.withdraw_dict (s : Sys) : s.withdraw.mgmt.dict = s.mgmt.dict := by
  refine runAll_dict (fun port x => ?_) _ s
  dsimp only
  split
  · rfl
  · refine (runAll_dict (fun w y => ?_) _ _).trans (Sys.onFab_dict _ _)
    split
    · rfl
    · split
      · split <;> simp
      · simp

@[simp] theorem Sys.killContext_dict (s : Sys) (p ring code source : Nat) (b : List Byte) :
    (s.killContext p ring code source b).mgmt.dict = s.mgmt.dict := rfl

@[simp] theorem Sys.poisonKill_dict (s : Sys) (r idx : Nat) (at_ : Nat × Nat) : (s.poisonKill r idx at_).mgmt.dict = s.mgmt.dict := rfl

@[simp] theorem Sys.sourcePoison_dict (s : Sys) (o : FabOp) (r : FabReq) (at_ : Nat × Nat) :
    (s.sourcePoison o r at_).mgmt.dict = s.mgmt.dict := by
  unfold Sys.sourcePoison
  dsimp only
  split <;> simp

@[simp] theorem Sys.transmit_dict (s : Sys) (r : FabReq) (flagR : Bool) (pay : List Byte) : (s.transmit r flagR pay).mgmt.dict = s.mgmt.dict := rfl

@[simp] theorem Sys.drew_dict (s : Sys) (n : Nat) : (s.drew n).mgmt.dict = s.mgmt.dict := rfl

@[simp] theorem ReadRes.step_sys (p : Nat) (pc : Nat × Nat) (r : ReadRes) : (r.step p pc).dev.sys = r.dev.sys := by
  unfold ReadRes.step
  dsimp only
  split <;> rfl

@[simp] theorem Dev.readRange_dict (d : Dev) (p a n : Nat) : (d.readRange p a n).dev.sys.mgmt.dict = d.sys.mgmt.dict := by
  simp [Dev.readRange, runAll_keeps (ReadRes.step p) (fun r => r.dev.sys) (ReadRes.step_sys p)]

@[simp] theorem Dev.sendReq_dict (d : Dev) (r : FabReq) (flagR : Bool) : (d.sendReq r flagR).sys.mgmt.dict = d.sys.mgmt.dict := by
  unfold Dev.sendReq
  dsimp only
  (repeat' split) <;> simp
  all_goals split <;> simp

@[simp] theorem Dev.resendReq_dict (d : Dev) (r : FabReq) (flagR : Bool) : (d.resendReq r flagR).sys.mgmt.dict = d.sys.mgmt.dict := by
  unfold Dev.resendReq
  dsimp only
  split
  · rfl
  · split <;> simp [Sys.pcount]

@[simp] theorem Dev.routesChanged_dict (d : Dev) : d.routesChanged.sys.mgmt.dict = d.sys.mgmt.dict :=
  (runAll_devDict (fun r x => x.resendReq_dict r false) _ _).trans (by simp)

/-! ### Partitions and rings (R575, R576, R609) -/

@[simp] theorem Dev.writeRange_dict (d : Dev) (p a : Nat) (bs : List Byte) : (d.writeRange p a bs).sys.mgmt.dict = d.sys.mgmt.dict :=
  congrArg (fun x : CoreState × FabState × DictState × BringUp × PowerState × SecState => x.2.2.1) (d.writeRange_offPages p a bs)

@[simp] theorem Sys.ringLeaves_dict (s : Sys) (r : Nat) : (s.ringLeaves r).mgmt.dict = s.mgmt.dict := rfl

@[simp] theorem Dev.ringTakes_dict (r : Nat) (d : Dev) : (d.ringTakes r).sys.mgmt.dict = d.sys.mgmt.dict := by
  unfold Dev.ringTakes
  dsimp only
  split
  · exact Dev.writeRange_dict _ _ _ _
  · rfl

@[simp] theorem Dev.ringEffects_dict (d : Dev) : d.ringEffects.sys.mgmt.dict = d.sys.mgmt.dict := by
  unfold Dev.ringEffects
  exact runAll_devDict (fun r x => by split_ifs <;> simp) _ d

@[simp] theorem Sys.releaseQps_dict (s : Sys) (p : Nat) : (s.releaseQps p).mgmt.dict = s.mgmt.dict := by
  unfold Sys.releaseQps
  exact runAll_dict (fun i x => x.onHost_dict _) _ s

@[simp] theorem Dev.takeSet_dict (d : Dev) (p : Nat) (set : PartSet) : (d.takeSet p set).sys.mgmt.dict = d.sys.mgmt.dict := by
  unfold Dev.takeSet
  simp only [Dev.ringEffects_dict, liftSys_sys, Sys.releaseQps_dict]
  split
  · split
    · exact Dev.writeRange_dict _ _ _ _
    · rfl
  · rfl

@[simp] theorem Dev.commitPart_dict (sets : List (Nat × PartSet)) (d : Dev) : (Dev.commitPart sets d).sys.mgmt.dict = d.sys.mgmt.dict :=
  runAll_devDict (fun x y => by split <;> simp) _ d

@[simp] theorem Dev.commitSlot_dict (old : List (List Byte)) (ranks : List (List Nat)) (g : Nat) (d : Dev) :
    (Dev.commitSlot old ranks g d).sys.mgmt.dict = d.sys.mgmt.dict := by
  unfold Dev.commitSlot
  dsimp only
  split <;> rfl

/-! ### Actions (R650) -/

@[simp] theorem Sys.actionOther_dict (s : Sys) (slot : Nat) : (s.actionOther slot).mgmt.dict = s.mgmt.dict := by simp [Sys.actionOther]

@[simp] theorem Sys.action_dict (s : Sys) (what core slot : Nat) : (s.action what core slot).mgmt.dict = s.mgmt.dict := by simp [Sys.action]

/-! ### The commit -/

/-- The members of a group have taken their values, and its set is empty. -/
def Sys.committed (s : Sys) (i : Nat) : Sys := (s.setPending i ⟨none, [], s.commitResult i⟩).takeValues (s.commitValues i)

/-- The values that an entry of the routing group takes with it when it changes: those of the routes (R507). -/
def DictState.offRoutes (x : DictState) : DictState := { x with values := x.values.filter fun v => v.1 / 256 != 0x6300 }

theorem Dev.commit6110_dict (d : Dev) (old : Nat) :
    (d.commit6110 old).sys.mgmt.dict = d.sys.mgmt.dict ∨ (d.commit6110 old).sys.mgmt.dict = d.sys.mgmt.dict.offRoutes := by
  unfold Dev.commit6110
  split
  · exact .inl rfl
  · exact .inr (Dev.routesChanged_dict _)

/-- What a commit makes of the dictionary once the members have their values: a change of fabric drops the routes, one of the
interfaces ends sessions, and any other group leaves it. -/
theorem Dev.commitApply_dict (d : Dev) (slot i : Nat) : (d.commitApply slot i).sys.mgmt.dict = (d.sys.committed i).mgmt.dict
    ∨ (i = 0x6110 ∧ (d.commitApply slot i).sys.mgmt.dict = (d.sys.committed i).mgmt.dict.offRoutes)
    ∨ (i = 0xF030 ∧ ∃ p, (d.commitApply slot i).sys = (d.sys.committed i).endSessions p) := by
  unfold Dev.commitApply
  extract_lets s vs sets ranks slots rings word leaves y
  have hy : y.sys = d.sys.committed i := rfl
  clear_value sets ranks slots rings word leaves y
  rw [← hy]
  split_ifs with h6100 h6110 h6300 hleaves h7000 h8000 h9100 ha400 hf030
  · refine .inl ?_
    rw [liftSys_sys, Sys.helloAll_dict]
    exact runAll_dict (fun p x => x.compare_dict p) _ _
  · rw [liftSys_sys, Sys.helloAll_dict]
    exact (y.commit6110_dict word).imp_right fun h => .inl ⟨h6110, h⟩
  · exact .inl (by simp)
  · exact .inl (by simp)
  · refine .inl ?_
    exact runAll_devDict (f := Dev.commitSlot slots ranks) (fun g x => x.commitSlot_dict slots ranks g) (List.range 8) y
  · exact .inl (Dev.commitPart_dict _ _)
  · refine .inl ?_
    rw [Dev.ringEffects_dict]
    exact runAll_dict (fun r x => x.ringLeaves_dict r) _ _
  · exact .inl (Sys.action_dict _ _ _ _)
  · refine .inr (.inr ⟨hf030, fun x => y.sys.cfgN 0xF030 (if x.iface = 2 then 2 else 1) != 1, ?_⟩)
    rw [liftSys_sys]
  · exact .inl rfl

/-- The groups whose chapters add nothing to a commit. -/
theorem Dev.commitApply_plain {d : Dev} {i : Nat} (h : [0x5000, 0x7100, 0x9001].contains i = true) (slot : Nat) :
    d.commitApply slot i = liftSys (fun s => s.committed i) d := by
  have hi : i = 0x5000 ∨ i = 0x7100 ∨ i = 0x9001 := by simpa using h
  unfold Dev.commitApply
  extract_lets s vs sets ranks slots rings word leaves y
  rw [if_neg (by omega), if_neg (by omega), if_neg (by omega), if_neg (by omega), if_neg (by omega), if_neg (by omega), if_neg (by omega),
    if_neg (by omega)]
  rfl

end Sys2Proof.Machine
end

section
/-! PROOF. Coupled groups: pending sets and their commits (R135 to R141, R145). -/

namespace Sys2Proof.Machine

open Sys2Proof

/-! ### Stored values -/

theorem assoc_storeAll_ne {key : Nat} {vs : List (Nat × List Byte)} (h : ∀ x ∈ vs, x.1 ≠ key) (l : List (Nat × List Byte)) (d : List Byte) :
    assoc (storeAll l vs) key d = assoc l key d := by
  induction vs generalizing l with
  | nil => rfl
  | cons x vs ih =>
    obtain ⟨hx, hvs⟩ := List.forall_mem_cons.1 h
    exact (ih hvs _).trans (assoc_assocSet_ne l hx.symm x.2 d)

/-- A key that values are stored for, all of them the same, has that value. -/
theorem assoc_storeAll {key : Nat} {y : List Byte} {vs : List (Nat × List Byte)} (hsame : ∀ x ∈ vs, x.1 = key → x.2 = y)
    (hsome : ∃ x ∈ vs, x.1 = key) (l : List (Nat × List Byte)) (d : List Byte) : assoc (storeAll l vs) key d = y := by
  induction vs generalizing l with
  | nil => obtain ⟨x, hx, -⟩ := hsome; cases hx
  | cons x vs ih =>
    obtain ⟨hx, hvs⟩ := List.forall_mem_cons.1 hsame
    by_cases hrest : ∃ z ∈ vs, z.1 = key
    · exact ih hvs hrest _
    · have hnone : ∀ z ∈ vs, z.1 ≠ key := fun z hz hk => hrest ⟨z, hz, hk⟩
      have hkey : x.1 = key := by
        obtain ⟨z, hz, hk⟩ := hsome
        obtain rfl | hz := List.mem_cons.1 hz
        · exact hk
        · exact absurd hk (hnone z hz)
      refine (assoc_storeAll_ne hnone _ d).trans ?_
      dsimp only
      rw [hkey, hx hkey]
      exact assoc_assocSet_same _ _ _ _

theorem assoc_filter {α : Type} {p : Nat × α → Bool} {key : Nat} (h : ∀ y, p (key, y) = true) (l : List (Nat × α)) (d : α) :
    assoc (l.filter p) key d = assoc l key d := by
  induction l with
  | nil => rfl
  | cons x l ih =>
    obtain ⟨i, y⟩ := x
    by_cases hi : i = key
    · subst hi
      rw [List.filter_cons_of_pos (h y), assoc, assoc, if_pos rfl, if_pos rfl]
    · by_cases hp : p (i, y) = true
      · rw [List.filter_cons_of_pos hp, assoc, assoc, if_neg hi, if_neg hi, ih]
      · rw [List.filter_cons_of_neg hp, assoc, if_neg hi, ih]

/-! ### Pending sets -/

theorem Sys.setPending_same (s : Sys) (i : Nat) (p : Pending) : (s.setPending i p).pending i = p := assoc_assocSet_same _ _ _ _

theorem Sys.setPending_ne (s : Sys) {i j : Nat} (h : j ≠ i) (p : Pending) : (s.setPending i p).pending j = s.pending j :=
  assoc_assocSet_ne _ h _ _

theorem Sys.pending_congr {s s' : Sys} (h : s'.mgmt.dict.pending = s.mgmt.dict.pending) (i : Nat) : s'.pending i = s.pending i :=
  congrArg (fun l => assoc l i Pending.none) h

theorem Sys.cfg_congr {s s' : Sys} (h : s'.mgmt.dict.values = s.mgmt.dict.values) (i sub : Nat) : s'.cfg i sub = s.cfg i sub :=
  congrArg (fun l => assoc l (i * 256 + sub) (objDefault i sub)) h

/-- The value a member would have rests on the pending sets and the values in force. -/
theorem Sys.newVal_congr {s s' : Sys} (hp : s'.mgmt.dict.pending = s.mgmt.dict.pending) (hv : s'.mgmt.dict.values = s.mgmt.dict.values)
    (i sub : Nat) : s'.newVal i sub = s.newVal i sub := by
  rw [Sys.newVal, Sys.newVal, Sys.pending_congr hp, Sys.cfg_congr hv]

theorem Sys.commitResult_congr {s s' : Sys} (hp : s'.mgmt.dict.pending = s.mgmt.dict.pending) (hv : s'.mgmt.dict.values = s.mgmt.dict.values)
    (hh : s'.host = s.host) (i : Nat) : s'.commitResult i = s.commitResult i := by
  have hchanges : s'.partChanges = s.partChanges := by
    funext p
    simp only [Sys.partChanges, Sys.changes, Sys.newVal_congr hp hv, Sys.cfg_congr hv]
  have henabled : s'.partEnabled = s.partEnabled := by
    funext p
    rw [Sys.partEnabled, Sys.partEnabled, Sys.part, Sys.part, hh]
  rw [Sys.commitResult, Sys.commitResult, hchanges, henabled]

/-- The end of a session leaves the sets of other owners. -/
theorem Sys.endIf_pending {p : Session → Bool} {k i : Nat} {s : Sys} (h : (s.pending i).owner = none) :
    (Sys.endIf p k s).pending i = s.pending i := by
  have hkeep : ∀ l : List (Nat × Pending), (assoc l i Pending.none).owner = none →
      assoc (l.map fun g => if g.2.owner = some k then (g.1, ⟨none, [], 4⟩) else g) i Pending.none = assoc l i Pending.none := by
    intro l
    induction l with
    | nil => exact fun _ => rfl
    | cons x l ih =>
      obtain ⟨j, q⟩ := x
      rw [List.map_cons, assoc]
      by_cases hj : j = i
      · rw [if_pos hj]
        intro hq
        rw [if_neg (by simp [hq]), assoc, if_pos hj]
      · rw [if_neg hj]
        intro hl
        rw [← ih hl]
        split <;> rw [assoc, if_neg hj]
  unfold Sys.endIf
  split
  · exact hkeep _ h
  · rfl

theorem Sys.endSessions_pending {p : Session → Bool} {i : Nat} {s : Sys} (h : (s.pending i).owner = none) :
    (s.endSessions p).pending i = s.pending i := by
  rw [Sys.endSessions_eq]
  exact runAll_inv _ (fun x : Sys => x.pending i = s.pending i) (fun k x hx => (Sys.endIf_pending (hx ▸ h)).trans hx) _ _ rfl

/-! ### What a commit leaves (R138, R139) -/

theorem groupMembers_byte {i x : Nat} (h : x ∈ groupMembers i) : x < 256 := by
  simp only [groupMembers, List.mem_flatMap, List.mem_filter, List.mem_map, List.mem_range] at h
  obtain ⟨o, ⟨ho, -⟩, k, hk, rfl⟩ := h
  have := (objTable_rings o ho).1
  omega

theorem Sys.committed_cfg (s : Sys) {i x : Nat} (hx : x ∈ groupMembers i) : (s.committed i).cfg i x = s.newVal i x := by
  have hbyte := groupMembers_byte hx
  refine assoc_storeAll (fun y hy hkey => ?_) ⟨_, List.mem_append_left _ (List.mem_map_of_mem hx), rfl⟩ _ _
  obtain hy | hy := List.mem_append.1 hy
  · obtain ⟨z, hz, rfl⟩ := List.mem_map.1 hy
    have hzx : z = x := Nat.add_left_cancel hkey
    rw [hzx]
  · split at hy
    next hi =>
      rw [List.mem_singleton.1 hy] at hkey
      dsimp only at hkey
      omega
    next => cases hy

theorem Sys.committed_pending (s : Sys) (i : Nat) : (s.committed i).pending i = ⟨none, [], s.commitResult i⟩ := s.setPending_same i _

theorem Sys.committed_rest (s : Sys) (i : Nat) : (s.committed i).offDict = s.offDict
    ∧ (s.committed i).mgmt.dict.store = s.mgmt.dict.store
    ∧ (s.committed i).mgmt.dict.held = s.mgmt.dict.held ∧ (s.committed i).mgmt.dict.tx = s.mgmt.dict.tx := by
  unfold Sys.committed
  generalize s.commitValues i = vs
  exact ⟨rfl, rfl, rfl, rfl⟩

/-- A commit gives the members of its group their values together and empties the set; the store, the held datagrams and the frames on
their way stay. -/
theorem Dev.commitApply_leaves (d : Dev) (slot i : Nat) :
    (∀ x ∈ groupMembers i, (d.commitApply slot i).sys.cfg i x = d.sys.newVal i x)
      ∧ (d.commitApply slot i).sys.pending i = ⟨none, [], d.sys.commitResult i⟩
      ∧ (d.commitApply slot i).sys.mgmt.dict.store = d.sys.mgmt.dict.store
      ∧ (d.commitApply slot i).sys.mgmt.dict.held = d.sys.mgmt.dict.held
      ∧ (d.commitApply slot i).sys.mgmt.dict.tx = d.sys.mgmt.dict.tx := by
  have hmembers := fun x => d.sys.committed_cfg (i := i) (x := x)
  have hset := d.sys.committed_pending i
  obtain ⟨-, hrest⟩ := d.sys.committed_rest i
  have hcases := d.commitApply_dict slot i
  generalize d.sys.committed i = y at *
  generalize (d.commitApply slot i).sys = z at *
  obtain h | ⟨hi, h⟩ | ⟨hi, p, h⟩ := hcases
  · refine ⟨fun x hx => ?_, ?_, ?_⟩
    · exact (Sys.cfg_congr (congrArg DictState.values h) i x).trans (hmembers x hx)
    · exact (Sys.pending_congr (congrArg DictState.pending h) i).trans hset
    · rwa [h]
  · refine ⟨fun x hx => ?_, ?_, ?_⟩
    · have hbyte := groupMembers_byte hx
      rw [← hmembers x hx, Sys.cfg, h]
      refine assoc_filter (fun v => ?_) _ _
      rw [bne_iff_ne]
      dsimp only
      omega
    · exact (Sys.pending_congr (congrArg DictState.pending h :) i).trans hset
    · rwa [h]
  · obtain ⟨-, hoff⟩ := y.endSessions_offSessions p
    rw [← h] at hoff
    refine ⟨fun x hx => ?_, ?_, ?_⟩
    · exact (Sys.cfg_congr (congrArg DictState.values hoff :) i x).trans (hmembers x hx)
    · rw [h, Sys.endSessions_pending (by rw [hset]), hset]
    · have hstore := (congrArg DictState.store hoff :)
      have hheld := (congrArg DictState.held hoff :)
      have htx := (congrArg DictState.tx hoff :)
      exact ⟨hstore.trans hrest.1, hheld.trans hrest.2.1, htx.trans hrest.2.2⟩

/-! ### The rows of the groups (Table 4-4) -/

/-- Sub-index 0xFE is no member and keeps nothing. -/
theorem objTable_groups : ∀ o ∈ objTable, (o.acc = 4 → ¬(o.ilo ≤ 0x2110 ∧ 0x2110 ≤ o.ihi) ∧ ¬(o.ilo ≤ 0xB023 ∧ 0xB023 ≤ o.ihi))
    ∧ (o.lo ≤ 0xFE → 0xFE ≤ o.hi → o.acc ≠ 2 ∧ o.persist = false ∧ ¬(o.ilo ≤ 0xB023 ∧ 0xB023 ≤ o.ihi)) := by decide +kernel

/-- The rows of the coupled groups. -/
def groupRows : List WriteRow := [.member, .commit, .discard]

/-- A write of a member, a commit or a discard acts, and its object keeps nothing. -/
theorem Dev.applyWrite_group {d : Dev} {k : Nat} {r : OdpReq} {v : List Byte} (h : rowOf r.index r.sub v ∈ groupRows)
    (a : Option AgeingReading) (e : Bool) : d.applyWrite k r v a e = d.objApply k r v a e := by
  have htells := rowOf_tells r.index r.sub v
  generalize hw : rowOf r.index r.sub v = w at *
  have hfe : r.sub = 0xFE ∧ (∃ o, objRow r.index r.sub = some o) → keeps r.index r.sub = false ∧ ¬(r.index = 0x2110 ∧ r.sub = 2)
      ∧ r.index ≠ 0xB023 := by
    rintro ⟨hsub, o, ho⟩
    obtain ⟨hmem, hlo, hhi, hslo, hshi⟩ := objRow_mem ho
    obtain ⟨-, hrow⟩ := objTable_groups o hmem
    obtain ⟨hacc, hpersist, hactive⟩ := hrow (hsub ▸ hslo) (hsub ▸ hshi)
    refine ⟨by simp [keeps, ho, hacc, hpersist], by omega, fun hi => hactive ⟨hi ▸ hlo, hi ▸ hhi⟩⟩
  have hacts : keeps r.index r.sub = false ∧ ¬(r.index = 0x2110 ∧ r.sub = 2) ∧ r.index ≠ 0xB023 := by
    simp only [groupRows, List.mem_cons, List.not_mem_nil, or_false] at h
    obtain rfl | rfl | rfl := h
    · obtain ⟨o, ho, hacc⟩ := htells
      obtain ⟨hmem, hlo, hhi, -⟩ := objRow_mem ho
      obtain ⟨hassign, hactive⟩ := (objTable_groups o hmem).1 hacc
      exact ⟨by simp [keeps, ho, hacc], fun hi => hassign ⟨hi.1 ▸ hlo, hi.1 ▸ hhi⟩, fun hi => hactive ⟨hi ▸ hlo, hi ▸ hhi⟩⟩
    · exact hfe htells
    · exact hfe htells
  obtain ⟨hkeeps, hassign, hactive⟩ := hacts
  refine Dev.applyWrite_acts hkeeps hassign hactive (fun hrole => ?_) a e
  rw [← hw, hrole] at h
  exact absurd h (by decide)

/-- A pending set with a member's new value, owned by the session that wrote it. -/
def Pending.takes (p : Pending) (k sub : Nat) (v : List Byte) : Pending := { p with owner := some k, values := assocSet p.values sub v }

theorem Dev.objApply_member {d : Dev} {k : Nat} {r : OdpReq} {v : List Byte} (h : rowOf r.index r.sub v = .member)
    (a : Option AgeingReading) (e : Bool) : d.objApply k r v a e
      = liftSys (fun s => s.setPending r.index ((s.pending r.index).takes k r.sub v)) d := by
  unfold Dev.objApply
  dsimp only
  rw [h]
  rfl

theorem Dev.objApply_discard {d : Dev} {k : Nat} {r : OdpReq} {v : List Byte} (h : rowOf r.index r.sub v = .discard)
    (a : Option AgeingReading) (e : Bool) : d.objApply k r v a e
      = liftSys (fun s => if (s.pending r.index).values = [] then s else s.setPending r.index ⟨none, [], 4⟩) d := by
  unfold Dev.objApply
  dsimp only
  rw [h]

theorem Dev.objApply_commit {d : Dev} {k : Nat} {r : OdpReq} {v : List Byte} (h : rowOf r.index r.sub v = .commit)
    (a : Option AgeingReading) (e : Bool) : d.objApply k r v a e = d.commitApply k r.index := by
  unfold Dev.objApply
  dsimp only
  rw [h]

/-! ### Members and discards (R135, R136, R141) -/

theorem Sys.recordOf_member {s : Sys} {r : OdpReq} {v : List Byte} (h : rowOf r.index r.sub v = .member) : s.recordOf r v = none := by
  unfold Sys.recordOf
  rw [h]

theorem Sys.recordOf_discard {s : Sys} {r : OdpReq} {v : List Byte} (h : rowOf r.index r.sub v = .discard) : s.recordOf r v = none := by
  unfold Sys.recordOf
  rw [h]

theorem Sys.recordOf_commit {s : Sys} {r : OdpReq} {v : List Byte} (h : rowOf r.index r.sub v = .commit) :
    s.recordOf r v = if groupPersists r.index then some (s.commitValues r.index) else none := by
  unfold Sys.recordOf
  rw [h]

/-- A command that changes one pending set, from a state whose dictionary alone may have changed. -/
theorem State.setChanged {s : State} {d : Dev} (i : Nat) (p : Pending) (hmem : d.mem = s.dev.mem) (hoff : d.sys.offDict = s.dev.sys.offDict)
    (hvalues : d.sys.mgmt.dict.values = s.dev.sys.mgmt.dict.values) (hpending : d.sys.mgmt.dict.pending = s.dev.sys.mgmt.dict.pending) :
    ∃ e, ({ d with sys := d.sys.setPending i p } : Dev).syncRings = e ∧ s.Untouched { s with dev := e } ∧ e.sys.fab = s.dev.sys.fab
      ∧ e.sys.pending i = p ∧ (∀ j, j ≠ i → e.sys.pending j = s.dev.sys.pending j)
      ∧ e.sys.mgmt.dict.values = s.dev.sys.mgmt.dict.values ∧ e.sys.mgmt.dict.tx = d.sys.mgmt.dict.tx := by
  obtain ⟨hu, hfab, -, hdict⟩ := State.written_offDict (s := s) (d := liftSys (fun s => s.setPending i p) d) hmem hoff hvalues
  have hsets : ∀ j, (liftSys (fun s => s.setPending i p) d).syncRings.sys.pending j = (d.sys.setPending i p).pending j :=
    Sys.pending_congr (congrArg DictState.pending hdict)
  have hval := (congrArg DictState.values hdict).trans hvalues
  have htx := congrArg DictState.tx hdict
  rw [liftSys] at hu hfab hsets hval htx
  generalize Dev.syncRings _ = e at *
  refine ⟨e, rfl, hu, hfab, (hsets i).trans (Sys.setPending_same _ _ _), fun j hj => (hsets j).trans ?_, hval, htx⟩
  rw [Sys.setPending_ne _ hj, Sys.pending_congr hpending]

theorem memberEntersTheSet {s : State} {r : OdpReq} {k : Nat} {v : List Byte} (h : s.dev.Accepts .member r k v) :
    ∃ t, exec (.coupledMemberWrite r) s = .next t ∧ s.Untouched t ∧ t.dev.sys.fab = s.dev.sys.fab
      ∧ (t.dev.sys.pending r.index).owner = some k ∧ t.dev.sys.newVal r.index r.sub = v
      ∧ (∀ x, x ≠ r.sub → t.dev.sys.newVal r.index x = s.dev.sys.newVal r.index x)
      ∧ (∀ i, i ≠ r.index → t.dev.sys.pending i = s.dev.sys.pending i)
      ∧ t.dev.sys.mgmt.dict.values = s.dev.sys.mgmt.dict.values ∧ t.dev.sys.mgmt.dict.tx = [s.dev.sys.okFrame k r] := by
  have hrow := h.row (by decide)
  have hgo := h.atOnce (by simp [hrow]) (Sys.recordOf_member hrow) none false
  obtain ⟨hmem, hoff, hvalues, hpending, -, htx, -⟩ := Dev.replied_leaves h.slot r
  rw [Dev.applyWrite_group (by rw [hrow]; decide), Dev.objApply_member hrow, liftSys, Sys.pending_congr hpending] at hgo
  generalize s.dev.replied r k = d at *
  have hrun : exec (.coupledMemberWrite r) s = _ := onRings_of hgo
  obtain ⟨e, he, hu, hfab, hset, hothers, hval, hsent⟩ := State.setChanged r.index
    ((s.dev.sys.pending r.index).takes k r.sub v) hmem hoff hvalues hpending
  rw [he] at hrun
  refine ⟨_, hrun, hu, hfab, congrArg Pending.owner hset, ?_, fun x hx => ?_, hothers, hval, hsent.trans htx⟩
  · rw [Sys.newVal, hset]
    exact assoc_assocSet_same _ _ _ _
  · rw [Sys.newVal, hset, Sys.newVal, ← Sys.cfg_congr hval]
    exact assoc_assocSet_ne _ hx _ _

theorem discardEmptiesTheSet {s : State} {r : OdpReq} {k : Nat} {v : List Byte} (h : s.dev.Accepts .discard r k v) :
    ∃ t, exec (.groupDiscard r) s = .next t ∧ s.Untouched t ∧ t.dev.sys.fab = s.dev.sys.fab
      ∧ t.dev.sys.pending r.index
        = (if (s.dev.sys.pending r.index).values = [] then s.dev.sys.pending r.index else ⟨none, [], 4⟩)
      ∧ (∀ i, i ≠ r.index → t.dev.sys.pending i = s.dev.sys.pending i)
      ∧ t.dev.sys.mgmt.dict.values = s.dev.sys.mgmt.dict.values ∧ t.dev.sys.mgmt.dict.tx = [s.dev.sys.okFrame k r] := by
  have hrow := h.row (by decide)
  have hgo := h.atOnce (by simp [hrow]) (Sys.recordOf_discard hrow) none false
  obtain ⟨hmem, hoff, hvalues, hpending, -, htx, -⟩ := Dev.replied_leaves h.slot r
  rw [Dev.applyWrite_group (by rw [hrow]; decide), Dev.objApply_discard hrow, liftSys, Sys.pending_congr hpending] at hgo
  generalize s.dev.replied r k = d at *
  by_cases hempty : (s.dev.sys.pending r.index).values = []
  · rw [if_pos hempty] at hgo
    have hrun : exec (.groupDiscard r) s = _ := onRings_of hgo
    obtain ⟨hu, hfab, -, hdict⟩ := State.written_offDict (s := s) (d := d) hmem hoff hvalues
    generalize d.syncRings = e at *
    have hsets := Sys.pending_congr ((congrArg DictState.pending hdict).trans hpending)
    refine ⟨_, hrun, hu, hfab, (hsets _).trans (if_pos hempty).symm, fun i _ => hsets i, ?_⟩
    dsimp only
    rw [hdict]
    exact ⟨hvalues, htx⟩
  · rw [if_neg hempty] at hgo
    have hrun : exec (.groupDiscard r) s = _ := onRings_of hgo
    obtain ⟨e, he, hu, hfab, hset, hothers, hval, hsent⟩ := State.setChanged r.index ⟨none, [], 4⟩ hmem hoff hvalues hpending
    rw [he] at hrun
    exact ⟨_, hrun, hu, hfab, hset.trans (if_neg hempty).symm, hothers, hval, hsent.trans htx⟩

theorem pendingSetsHoldMembers : Claims.PendingSetsHoldMembers := fun _ _ _ _ => ⟨memberEntersTheSet, discardEmptiesTheSet⟩

/-! ### Commits (R138 to R140, R145) -/

/-- What the command of a commit leaves, from a state with the pending sets and values of the device. -/
theorem State.committedAll {s : State} {d : Dev} (i slot : Nat) (hoff : d.sys.offDict = s.dev.sys.offDict)
    (hvalues : d.sys.mgmt.dict.values = s.dev.sys.mgmt.dict.values) (hpending : d.sys.mgmt.dict.pending = s.dev.sys.mgmt.dict.pending) :
    ∃ e, (d.commitApply slot i).syncRings = e ∧ (∀ x ∈ groupMembers i, e.sys.cfg i x = s.dev.sys.newVal i x)
      ∧ e.sys.pending i = ⟨none, [], s.dev.sys.commitResult i⟩ ∧ e.sys.mgmt.dict.store = d.sys.mgmt.dict.store
      ∧ e.sys.mgmt.dict.tx = d.sys.mgmt.dict.tx := by
  obtain ⟨hmembers, hset, hstore, -, htx⟩ := d.commitApply_leaves slot i
  obtain ⟨-, hhost, -⟩ := Sys.offDict_parts hoff
  obtain ⟨-, -, edict, -⟩ := (d.commitApply slot i).syncRings_frame
  generalize d.commitApply slot i = c at *
  generalize c.syncRings = e at *
  refine ⟨e, rfl, fun x hx => ?_, ?_, by rw [edict, hstore], by rw [edict, htx]⟩
  · rw [Sys.cfg_congr (congrArg DictState.values edict), hmembers x hx, Sys.newVal_congr hpending hvalues]
  · rw [Sys.pending_congr (congrArg DictState.pending edict), hset, Sys.commitResult_congr hpending hvalues hhost]

theorem commitTakesTheSet {s : State} {r : OdpReq} {k : Nat} {v : List Byte} (h : s.dev.Accepts .commit r k v) :
    ∃ t, exec (.groupCommit r) s = .next t ∧ t.pending = s.pending
      ∧ (groupPersists r.index = false →
        (∀ x ∈ groupMembers r.index, t.dev.sys.cfg r.index x = s.dev.sys.newVal r.index x)
        ∧ t.dev.sys.pending r.index = ⟨none, [], s.dev.sys.commitResult r.index⟩
        ∧ t.dev.sys.mgmt.dict.tx = [s.dev.sys.okFrame k r])
      ∧ (groupPersists r.index = true → s.Untouched t ∧ t.dev.sys.fab = s.dev.sys.fab
        ∧ t.dev.sys.mgmt.dict.jpending = some ⟨{ r with data := v }, k, s.dev.sys.commitValues r.index, some r.index⟩
        ∧ t.dev.sys.mgmt.dict.pending = s.dev.sys.mgmt.dict.pending
        ∧ t.dev.sys.mgmt.dict.values = s.dev.sys.mgmt.dict.values) := by
  have hrow := h.row (by decide)
  have hrec := Sys.recordOf_commit (s := s.dev.sys) hrow
  cases hp : groupPersists r.index with
  | false =>
    rw [hp, if_neg Bool.false_ne_true] at hrec
    have hgo := h.atOnce (by simp [hrow]) hrec none false
    obtain ⟨-, hoff, hvalues, hpending, -, htx, -⟩ := Dev.replied_leaves h.slot r
    rw [Dev.applyWrite_group (by rw [hrow]; decide), Dev.objApply_commit hrow] at hgo
    generalize s.dev.replied r k = d at *
    have hrun : exec (.groupCommit r) s = _ := onRings_of hgo
    obtain ⟨e, he, hmembers, hset, -, hsent⟩ := State.committedAll r.index k hoff hvalues hpending
    rw [he] at hrun
    exact ⟨_, hrun, rfl, fun _ => ⟨hmembers, hset, hsent.trans htx⟩, fun hp' => absurd hp' Bool.false_ne_true⟩
  | true =>
    rw [hp, if_pos rfl] at hrec
    obtain ⟨t, ht, hu, hfab, hj, hvalues, -, -, hpending, -⟩ := h.waiting (by simp [hrow]) hrec
    rw [JPending.ofWrite, if_pos hrow] at hj
    exact ⟨t, ht, hu.1, fun hp' => absurd hp' Bool.true_eq_false.mp, fun _ => ⟨hu, hfab, hj, hpending, hvalues⟩⟩

/-- Groups other than that of the rings leave the records of the rings. -/
theorem Sys.committed_ringRec {i : Nat} (h : [0x5000, 0x7100, 0x9001].contains i = true) (s : Sys) {n : Nat} (hn : n < 64) :
    (s.committed i).ringRec n = s.ringRec n := by
  have hi : i = 0x5000 ∨ i = 0x7100 ∨ i = 0x9001 := by simpa using h
  refine assoc_storeAll_ne (fun y hy hkey => ?_) _ _
  obtain hy | hy := List.mem_append.1 hy
  · obtain ⟨z, hz, rfl⟩ := List.mem_map.1 hy
    have hbyte := groupMembers_byte hz
    dsimp only at hkey
    omega
  · rw [if_neg (by omega)] at hy
    cases hy

theorem commitRecorded {s : State} {j : JPending} {n : Nat} (hup : s.dev.sys.mgmtUp = true) (hfit : s.dev.sys.mgmt.dict.RecordFits)
    (hj : s.dev.sys.mgmt.dict.jpending = some j) (hrow : rowOf j.req.index j.req.sub j.req.data = .commit) (hn : n < 2) :
    ∃ t, exec (.journalRecordValid n) s = .next t ∧ t.pending = s.pending
      ∧ (∀ x ∈ groupMembers j.req.index, t.dev.sys.cfg j.req.index x = s.dev.sys.newVal j.req.index x)
      ∧ t.dev.sys.pending j.req.index = ⟨none, [], s.dev.sys.commitResult j.req.index⟩
      ∧ t.dev.sys.mgmt.dict.store = storeAll s.dev.sys.mgmt.dict.store j.values
      ∧ ([0x5000, 0x7100, 0x9001].contains j.req.index = true → s.Untouched t ∧ t.dev.sys.fab = s.dev.sys.fab) := by
  obtain ⟨hmem, hoff, hvalues, hpending, hstore, -, hheld, -⟩ := s.dev.valid_leaves n j
  have hgo := journalValid_valid hj hup hfit hn
  obtain ⟨-, -, hempty⟩ := hfit
  rw [Dev.applyWrite_group (by rw [hrow]; decide), Dev.objApply_commit hrow] at hgo
  generalize s.dev.valid n j = d at *
  obtain ⟨-, -, -, hkept, -⟩ := d.commitApply_leaves j.slot j.req.index
  rw [Dev.serveHeld_none (hkept.trans (hheld.trans hempty))] at hgo
  have hrun : exec (.journalRecordValid n) s = _ := onRings_of hgo
  obtain ⟨e, he, hmembers, hset, hstored, -⟩ := State.committedAll j.req.index j.slot hoff hvalues hpending
  rw [he] at hrun
  refine ⟨_, hrun, rfl, hmembers, hset, hstored.trans hstore, fun hplain => ?_⟩
  rw [Dev.commitApply_plain hplain] at he
  obtain ⟨hrest, -⟩ := d.sys.committed_rest j.req.index
  obtain ⟨hcore, hhost, hfab, hpower, hbring, -⟩ := Sys.offDict_parts (hrest.trans hoff)
  have hrecords : ∀ m < 64, (d.sys.committed j.req.index).ringRec m = s.dev.sys.ringRec m := fun m hm =>
    (d.sys.committed_ringRec hplain hm).trans (Sys.cfg_congr hvalues 0x9100 (m + 1))
  have hu := State.untouched_of_records (d := liftSys (fun s => s.committed j.req.index) d) hmem (congrArg HostState.parts hhost)
    (congrArg HostState.rings hhost) hrecords hcore hpower hbring
  obtain ⟨-, efab, -⟩ := (liftSys (fun s => s.committed j.req.index) d).syncRings_frame
  rw [he] at hu efab
  exact ⟨hu, efab.trans hfab⟩

/-- A commit that breaks a rule of its set is marked there. -/
theorem Sys.noteReject_pending {s : Sys} {k i : Nat} (code : Nat) (hsome : (s.pending i).values ≠ []) (howner : (s.pending i).owner = some k) :
    (s.noteReject k i .commit code).pending i
      = if code / 65536 = 4 ∨ code / 65536 = 6 ∨ code = 0x00050003 then { s.pending i with last := 3 } else s.pending i := by
  unfold Sys.noteReject
  dsimp only
  by_cases hc : code / 65536 = 4 ∨ code / 65536 = 6 ∨ code = 0x00050003
  · rw [if_pos hc, if_pos ⟨rfl, hc, hsome, howner⟩, Sys.setPending_same]
  · rw [if_neg hc, if_neg fun hno => hc hno.2.1]

theorem commitRejected {s : State} {r : OdpReq} {k code sub : Nat} (h : s.dev.Takes r k 0x11) (hb : r.block = none)
    (hrow : s.dev.sys.rowFor r = .commit) (hsome : (s.dev.sys.pending r.index).values ≠ []) (howner : (s.dev.sys.pending r.index).owner = some k)
    (habort : s.dev.heard.writeAbort k r r.data = some (code, sub)) :
    ∃ t, exec (.groupCommit r) s = .next t ∧ s.Untouched t ∧ t.dev.sys.mgmt.dict.values = s.dev.sys.mgmt.dict.values
      ∧ t.dev.sys.pending r.index = (if code / 65536 = 4 ∨ code / 65536 = 6 ∨ code = 0x00050003 then
          { s.dev.sys.pending r.index with last := 3 } else s.dev.sys.pending r.index) := by
  have hrun : exec (.groupCommit r) s = _ := onRings_of (h.rejects hb hrow habort none false)
  rw [rowFor_row hb] at hrow
  obtain ⟨hoff, hvalues, -, -, -, hpending, -⟩ := s.dev.heard.sys.reject_leaves (k := k) (by rw [hrow]; decide) code sub
  rw [hrow] at hpending
  obtain ⟨hu, -, -, hdict⟩ := State.written_offDict (s := s) (d := liftSys (fun s => s.reject k r r.data code sub) s.dev.heard) rfl hoff hvalues
  generalize (liftSys (fun s => s.reject k r r.data code sub) s.dev.heard).syncRings = e at *
  rw [liftSys_sys] at hdict
  exact ⟨_, hrun, hu, (congrArg DictState.values hdict).trans hvalues,
    (Sys.pending_congr ((congrArg DictState.pending hdict).trans hpending) _).trans
      (Sys.noteReject_pending (s := s.dev.heard.sys) code hsome howner)⟩

theorem commitIsAllOrNothing : Claims.CommitIsAllOrNothing :=
  fun _ _ _ _ => ⟨commitTakesTheSet, fun _ _ hup hfit hj => commitRecorded hup hfit hj,
    fun _ _ h hb hrow hsome howner habort => commitRejected h hb hrow hsome howner habort⟩

/-- Settles O42: a member and a discard by what they make of the set, and a commit by whether its group is journalled. -/
theorem setsAreHeldAndCommitted : Obligations.SetsAreHeldAndCommitted := ⟨pendingSetsHoldMembers, commitIsAllOrNothing⟩

end Sys2Proof.Machine
end


section
/-! PROOF. Cores stay sound, part 1: what of a state the soundness of its cores depends on, and the updates of groups, blocks, collectors
and results that keep it (R178 to R191, R226 to R236). -/

namespace Sys2Proof.Machine

open Sys2Proof

/-! ### What soundness depends on

Most commands leave all that `CoreState.Ok` speaks of exactly as it is: of a group its place, registers, predicates, threads and awaited
registers, of a block its bytes and accumulators, of an instruction in flight its group and destinations. -/

def Group.body (g : Group) : Group :=
  { g with gidx := 0, pc := 0, stop := none, stack := [], parked := [], wait := .none, reported := false, lastIssue := 0, wpc := 0 }

def Block.body (b : Block) : Block :=
  { id := 0, uid := 0, part := 0, ring := 0, cmd := 0, core := 0, bidx := 0, threads := 0, regsPer := 0, csBytes := 0, accN := 0, code := []
    store := b.store, acc := b.acc, tags := [], sums := [], barrier := none }

def Collector.body (k : Collector) : Collector := { k with reads := [], unit := 0, vals := [] }

def Result.body (k : Result) : Result := { k with vals := [] }

def PStore.body (x : PStore) : PStore := { x with vis := 0 }

/-- What the soundness of the cores depends on; all else is blank. -/
def CoreState.body (c : CoreState) : CoreState :=
  { CoreState.reset with
    blocks := c.blocks.map Block.body
    groups := c.groups.map Group.body
    collectors := c.collectors.map Collector.body
    results := c.results.map Result.body
    stores := c.stores.map PStore.body
    copies := c.copies }

/-- The cores of a state, as far as their soundness depends on them. -/
def Sys.cores (s : Sys) : CoreState := s.core.body

theorem CoreState.body_flying (c : CoreState) : c.body.flying = c.flying := by
  simp [CoreState.flying, CoreState.body, Function.comp_def, Collector.body, Result.body]

theorem CoreState.body_ok (c : CoreState) : c.body.Ok ↔ c.Ok := by
  simp only [CoreState.Ok, CoreState.FlightOk, CoreState.body_flying]
  simp [CoreState.body, Group.Ok, Function.comp_def, Group.body, Block.body, PStore.body, Result.body]

/-- From `s` to `t` the cores stay sound. -/
def Sys.KeepsCores (s t : Sys) : Prop := s.core.Ok → t.core.Ok

namespace Sys.KeepsCores

variable {s t u : Sys} {d : Dev}

theorem refl (s : Sys) : s.KeepsCores s := id

theorem trans (h : s.KeepsCores t) (k : t.KeepsCores u) : s.KeepsCores u := k ∘ h

theorem of_cores (h : t.cores = s.cores) : s.KeepsCores t := fun hs => (CoreState.body_ok _).1 (by
  rw [Sys.cores, Sys.cores] at h
  rwa [h, CoreState.body_ok])

theorem cores (h : s.KeepsCores t) (e : u.cores = t.cores) : s.KeepsCores u := h.trans (.of_cores e)

theorem ite {c : Prop} [Decidable c] (ht : s.KeepsCores t) (hu : s.KeepsCores u) : s.KeepsCores (if c then t else u) := by
  split
  · exact ht
  · exact hu

theorem dite {c : Prop} [Decidable c] {a b : Dev} (ha : s.KeepsCores a.sys) (hb : s.KeepsCores b.sys) :
    s.KeepsCores (if c then a else b).sys := by
  split
  · exact ha
  · exact hb

theorem guarded {c : Bool} {f : Sys → Sys} (h : s.KeepsCores (f s)) : s.KeepsCores (guarded c f s) := .ite h (.refl s)

theorem dguarded {c : Bool} {f : Dev → Dev} (h : d.sys.KeepsCores (f d).sys) : d.sys.KeepsCores (Machine.guarded c f d).sys :=
  .dite h (.refl _)

theorem drunAll {β : Type} {f : β → Dev → Dev} (h : ∀ b x, Sys.KeepsCores x.sys (f b x).sys) (l : List β) (d : Dev) :
    d.sys.KeepsCores (Machine.runAll f l d).sys :=
  fun hs => runAll_inv f (fun x => x.sys.core.Ok) h l d hs

end Sys.KeepsCores

/-! ### The lifted updates -/

section
variable (s : Sys)

@[simp] theorem Sys.onHost_cores (f : HostState → HostState) : (s.onHost f).cores = s.cores := by rfl
@[simp] theorem Sys.onFab_cores (f : FabState → FabState) : (s.onFab f).cores = s.cores := by rfl
@[simp] theorem Sys.onDict_cores (f : DictState → DictState) : (s.onDict f).cores = s.cores := by rfl
@[simp] theorem Sys.onBring_cores (f : BringUp → BringUp) : (s.onBring f).cores = s.cores := by rfl
@[simp] theorem Sys.onPower_cores (f : PowerState → PowerState) : (s.onPower f).cores = s.cores := by rfl
@[simp] theorem Sys.onRel_cores (f : RelState → RelState) : (s.onRel f).cores = s.cores := by rfl
@[simp] theorem Sys.onSec_cores (f : SecState → SecState) : (s.onSec f).cores = s.cores := by rfl
@[simp] theorem Sys.drew_cores (n : Nat) : (s.drew n).cores = s.cores := by rfl
@[simp] theorem Sys.setCfg_cores (i sub : Nat) (v : List Byte) : (s.setCfg i sub v).cores = s.cores := by rfl
@[simp] theorem Sys.onPart_cores (p : Nat) (f : Partition → Partition) : (s.onPart p f).cores = s.cores := by rfl
@[simp] theorem Sys.charge_cores (p n : Nat) : (s.charge p n).cores = s.cores := by rfl
@[simp] theorem Sys.onRing_cores (r : Nat) (f : Ring → Ring) : (s.onRing r f).cores = s.cores := by rfl
@[simp] theorem Sys.onQp_cores (i : Nat) (f : Qp → Qp) : (s.onQp i f).cores = s.cores := by rfl
@[simp] theorem Sys.onEth_cores (i : Nat) (f : EthPort → EthPort) : (s.onEth i f).cores = s.cores := by rfl
@[simp] theorem Sys.onQueue_cores (q : Nat) (f : DecodeQueue → DecodeQueue) : (s.onQueue q f).cores = s.cores := by rfl
@[simp] theorem Sys.onPort_cores (i : Nat) (f : Port → Port) : (s.onPort i f).cores = s.cores := by rfl
@[simp] theorem Sys.onEpoch_cores (g : Nat) (f : Epoch → Epoch) : (s.onEpoch g f).cores = s.cores := by rfl
@[simp] theorem Sys.onSlot_cores (g : Nat) (f : Slot → Slot) : (s.onSlot g f).cores = s.cores := by rfl
@[simp] theorem Sys.onReplay_cores (q : Nat) (f : ReplayDir → ReplayDir) : (s.onReplay q f).cores = s.cores := by rfl
@[simp] theorem Sys.onImage_cores (k : Nat) (f : ImageSlot → ImageSlot) : (s.onImage k f).cores = s.cores := by rfl
@[simp] theorem Sys.onSession_cores (k : Nat) (f : Session → Session) : (s.onSession k f).cores = s.cores := by rfl

/-- An update of the cores that leaves what their soundness depends on. -/
@[simp] theorem Sys.onCore_cores {f : CoreState → CoreState} (hb : ∀ c, (f c).blocks.map Block.body = c.blocks.map Block.body)
    (hg : ∀ c, (f c).groups.map Group.body = c.groups.map Group.body) (hc : ∀ c, (f c).collectors.map Collector.body = c.collectors.map Collector.body)
    (hr : ∀ c, (f c).results.map Result.body = c.results.map Result.body) (hs : ∀ c, (f c).stores.map PStore.body = c.stores.map PStore.body)
    (hk : ∀ c, (f c).copies = c.copies) : (s.onCore f).cores = s.cores := by
  simp only [Sys.cores, CoreState.body, Sys.onCore, hb, hg, hc, hr, hs, hk]

@[simp] theorem ite_cores (c : Prop) [Decidable c] (s t : Sys) : (if c then s else t).cores = if c then s.cores else t.cores :=
  apply_ite _ _ _ _

@[simp] theorem ite_sys_cores (c : Prop) [Decidable c] (d e : Dev) : (if c then d else e).sys.cores = if c then d.sys.cores else e.sys.cores :=
  apply_ite (fun x : Dev => x.sys.cores) _ _ _

end

@[simp] theorem runAll_cores {β : Type} {f : β → Sys → Sys} (h : ∀ b x, (f b x).cores = x.cores) (l : List β) (s : Sys) :
    (runAll f l s).cores = s.cores := runAll_keeps f Sys.cores h l s

@[simp] theorem runAll_sys_cores {β : Type} {f : β → Dev → Dev} (h : ∀ b x, (f b x).sys.cores = x.sys.cores) (l : List β) (d : Dev) :
    (runAll f l d).sys.cores = d.sys.cores := runAll_keeps f (fun x => x.sys.cores) h l d

@[simp] theorem guarded_cores {c : Bool} {f : Sys → Sys} {s : Sys} (h : (f s).cores = s.cores) : (guarded c f s).cores = s.cores := by
  unfold guarded
  split
  · exact h
  · rfl

end Sys2Proof.Machine
end

section
/-! PROOF. Cores stay sound, part 2: updates of groups and blocks that leave what soundness depends on. -/

namespace Sys2Proof.Machine

open Sys2Proof

/-! ### Updates of the cores that leave what their soundness depends on -/

section
variable (s : Sys)

theorem CoreState.mapGroups_body (c : CoreState) {f : Group → Group} (h : ∀ x, (f x).body = x.body) :
    ({ c with groups := c.groups.map f } : CoreState).body = c.body := by
  simp [CoreState.body, Function.comp_def, h]

theorem CoreState.mapBlocks_body (c : CoreState) {f : Block → Block} (h : ∀ x, (f x).body = x.body) :
    ({ c with blocks := c.blocks.map f } : CoreState).body = c.body := by
  simp [CoreState.body, Function.comp_def, h]

theorem Sys.onGroup_cores {f : Group → Group} (h : ∀ x, (f x).body = x.body) (g : Gid) : (s.onGroup g f).cores = s.cores :=
  CoreState.mapGroups_body _ fun x => by
    split
    · exact h x
    · rfl

theorem Sys.onBlock_cores {f : Block → Block} (h : ∀ x, (f x).body = x.body) (id : Nat) : (s.onBlock id f).cores = s.cores :=
  CoreState.mapBlocks_body _ fun x => by
    split
    · exact h x
    · rfl

@[simp] theorem Sys.wakeArr_cores (id : Nat) : (s.wakeArr id).cores = s.cores :=
  CoreState.mapGroups_body _ fun x => by
    split
    · split <;> rfl
    · rfl

@[simp] theorem Sys.mxLeave_cores (id : Nat) : (s.mxLeave id).cores = s.cores :=
  (CoreState.mapGroups_body { s.core with mq := _ } fun x => by
    split
    · dsimp only
      split <;> rfl
    · rfl).trans rfl

@[simp] theorem Sys.hold_cores (gid : Gid) (dest : Nat) (vals : List (Nat × Nat)) : (s.hold gid dest vals).cores = s.cores := by
  have hc (k : Collector) : (if k.gid == gid && k.dests.contains dest then { k with vals := k.vals ++ vals } else k).body = k.body := by
    split <;> rfl
  have hr (k : Result) : (if k.gid == gid && k.dests.contains dest then { k with vals := k.vals ++ vals } else k).body = k.body := by
    split <;> rfl
  simp only [Sys.cores, Sys.hold, Sys.onCore_core, CoreState.body, List.map_map, Function.comp_def, hc, hr]

@[simp] theorem Sys.raiseVis_cores (gid : Gid) (lns : List Nat) (block vis : Nat) : (s.raiseVis gid lns block vis).cores = s.cores := by
  have h (x : PStore) : (if x.gid == gid && x.block == block && x.lanes.any (fun l => lns.contains l) then { x with vis := max x.vis vis }
      else x).body = x.body := by
    split <;> rfl
  simp only [Sys.cores, Sys.raiseVis, Sys.onCore_core, CoreState.body, List.map_map, Function.comp_def, h]

@[simp] theorem Sys.killContext_cores (p ring code source : Nat) (detail : List Byte) :
    (s.killContext p ring code source detail).cores = s.cores := by
  simp only [Sys.killContext, CoreState.countFault, Sys.cores, Sys.onCore_core]
  (repeat' split) <;> rfl

@[simp] theorem Sys.groupFault_cores (gr : Group) (code : Nat) : (s.groupFault gr code).cores = s.cores := by
  unfold Sys.groupFault
  split <;> simp

@[simp] theorem Sys.lateFault_cores (gid : Gid) (block pc code : Nat) : (s.lateFault gid block pc code).cores = s.cores := by
  unfold Sys.lateFault
  split <;> simp

theorem grantBank_body (core quarter bank : Nat) (l : List Collector) : (grantBank core quarter bank l).map Collector.body = l.map Collector.body := by
  induction l with
  | nil => rfl
  | cons c t ih =>
    simp only [grantBank]
    (repeat' split) <;> simp [Collector.body, ih]

@[simp] theorem operandRead_cores (core quarter : Nat) : (operandRead core quarter s).cores = s.cores := by
  simp only [Sys.cores, operandRead, Sys.onCore_core, CoreState.body,
    runAll_keeps (fun b l => grantBank core quarter b l) (List.map Collector.body) (grantBank_body core quarter)]

end

end Sys2Proof.Machine
end

section
/-! PROOF. Cores stay sound, part 3: logs, slices, rings, packets and queue pairs leave what soundness depends on. -/

namespace Sys2Proof.Machine

open Sys2Proof

/-! ### Logs, counts and time -/

@[simp] theorem Sys.log_cores (s : Sys) (kind unit part cls : Nat) (detail : List Byte) : (s.log kind unit part cls detail).cores = s.cores := by
  simp [Sys.log]

@[simp] theorem Sys.raise_cores (s : Sys) (p code source : Nat) (detail : List Byte) : (s.raise p code source detail).cores = s.cores := by
  simp [Sys.raise]

@[simp] theorem Sys.raiseAll_cores (s : Sys) (code source : Nat) (detail : List Byte) : (s.raiseAll code source detail).cores = s.cores := by
  simp [Sys.raiseAll]

@[simp] theorem Sys.actionOther_cores (s : Sys) (slot : Nat) : (s.actionOther slot).cores = s.cores := by simp [Sys.actionOther]

@[simp] theorem Sys.maskedCount_cores (s : Sys) (u : Nat) : (s.maskedCount u).cores = s.cores := by simp [Sys.maskedCount]

@[simp] theorem Sys.detectedCount_cores (s : Sys) (u : Nat) : (s.detectedCount u).cores = s.cores := by simp [Sys.detectedCount]

@[simp] theorem Sys.tick_cores (s : Sys) : s.tick.cores = s.cores := rfl

/-! ### Tensor statistics -/

@[simp] theorem Sys.statsAdd_cores (s : Sys) (p i : Nat) (counts : List Nat) (amax code source : Nat) :
    (s.statsAdd p i counts amax code source).cores = s.cores := by simp [Sys.statsAdd]

/-! ### Slices and stacks -/

@[simp] theorem Sys.transFault_cores (s : Sys) (p : Nat) : (s.transFault p).cores = s.cores := by rfl

@[simp] theorem Dev.partialLost_cores (d : Dev) (st line : Nat) : (d.partialLost st line).sys.cores = d.sys.cores := by simp [Dev.partialLost]

@[simp] theorem Dev.poisonNote_cores (d : Dev) (st line : Nat) : (d.poisonNote st line).sys.cores = d.sys.cores := by simp [Dev.poisonNote]

@[simp] theorem Dev.writePiece_cores (d : Dev) (st L : Nat) (bs : List Byte) : (d.writePiece st L bs).sys.cores = d.sys.cores := by
  simp [Dev.writePiece]

@[simp] theorem Dev.writeRange_cores (d : Dev) (p a : Nat) (bs : List Byte) : (d.writeRange p a bs).sys.cores = d.sys.cores := by
  simp [Dev.writeRange]

@[simp] theorem Dev.refuse_cores (d : Dev) (at_ : Nat × Nat) : (d.refuse at_).sys.cores = d.sys.cores := by simp [Dev.refuse]

@[simp] theorem Dev.kettleWritePiece_cores (d : Dev) (st L : Nat) (bs : List Byte) : (d.kettleWritePiece st L bs).sys.cores = d.sys.cores := by
  simp [Dev.kettleWritePiece]

@[simp] theorem ReadRes.step_cores (p : Nat) (pc : Nat × Nat) (r : ReadRes) : (r.step p pc).dev.sys.cores = r.dev.sys.cores := by
  simp only [ReadRes.step]
  split <;> rfl

@[simp] theorem Dev.readRange_cores (d : Dev) (p a n : Nat) : (d.readRange p a n).dev.sys.cores = d.sys.cores := by
  simp [Dev.readRange, runAll_keeps (ReadRes.step p) (fun r => r.dev.sys.cores) (ReadRes.step_cores p)]

@[simp] theorem ReadRes.kettleStep_cores (p : Nat) (pc : Nat × Nat) (r : ReadRes) : (r.kettleStep p pc).dev.sys.cores = r.dev.sys.cores := by
  simp only [ReadRes.kettleStep]
  split <;> rfl

@[simp] theorem Dev.kettleRead_cores (d : Dev) (p a n : Nat) : (d.kettleRead p a n).dev.sys.cores = d.sys.cores :=
  runAll_keeps (ReadRes.kettleStep p) (fun r => r.dev.sys.cores) (ReadRes.kettleStep_cores p) _ _

@[simp] theorem Dev.kettleWrite_cores (d : Dev) (p a : Nat) (bs : List Byte) : (d.kettleWrite p a bs).sys.cores = d.sys.cores := by
  simp [Dev.kettleWrite]

/-! ### Blocks and groups -/

@[simp] theorem perLane_cores (i : Issue) (f : Nat → Group → Group) (s : Sys) : (perLane i f s).cores = s.cores := by
  unfold perLane
  split <;> simp

/-! ### Core stores -/

@[simp] theorem Sys.holdAtom_cores (s : Sys) (gid : Gid) (w : AtomWork) (olds : List (Nat × Nat)) : (s.holdAtom gid w olds).cores = s.cores := by
  unfold Sys.holdAtom
  split <;> simp

/-! ### Arithmetic, operand collectors and results -/

@[simp] theorem aluBody_cores (f : Nat → Nat → Nat → Nat → Nat) (dn : Nat → Nat) (i : Issue) (s : Sys) : (aluBody f dn i s).cores = s.cores := by
  simp [aluBody]

/-! ### Failing cores and sites -/

@[simp] theorem Sys.coreFailedEvent_cores (s : Sys) (core : Nat) : (s.coreFailedEvent core).cores = s.cores := by
  unfold Sys.coreFailedEvent
  split <;> simp

@[simp] theorem Sys.finishFailing_cores (s : Sys) : s.finishFailing.cores = s.cores :=
  runAll_cores (fun n x => by simp) _ _

@[simp] theorem Sys.markFailed_cores (s : Sys) (core reason cause : Nat) : (s.markFailed core reason cause).cores = s.cores := by
  simp [Sys.markFailed]

@[simp] theorem Sys.siteError_cores (s : Sys) (core cause : Nat) : (s.siteError core cause).cores = s.cores := by simp [Sys.siteError]

@[simp] theorem Sys.datapathFault_cores (s : Sys) (part ring core cause : Nat) (detail : List Byte) :
    (s.datapathFault part ring core cause detail).cores = s.cores := by simp [Sys.datapathFault]

/-! ### The matrix units -/

@[simp] theorem Sys.mxFault_cores (s : Sys) (o : MxOp) (code : Nat) : (s.mxFault o code).cores = s.cores := by
  unfold Sys.mxFault
  split <;> simp

@[simp] theorem mxBody_cores (drain : Bool) (i : Issue) (s : Sys) : (mxBody drain i s).cores = s.cores := by simp [mxBody]

@[simp] theorem mxWaitBody_cores (i : Issue) (s : Sys) : (mxWaitBody i s).cores = s.cores := by
  unfold mxWaitBody
  dsimp only
  split
  · rfl
  · split
    · rfl
    · exact s.onGroup_cores (fun _ => by rfl) _

/-! ### Loads, stores, fences, atomics and copies of the cores -/

@[simp] theorem Dev.serve_cores (d : Dev) (ld : PLoad) : (d.serve ld).sys.cores = d.sys.cores := by
  unfold Dev.serve
  split <;> simp

@[simp] theorem ldGBody_cores (i : Issue) (d : Dev) : (ldGBody i d).sys.cores = d.sys.cores := by simp [ldGBody, loadPart]

@[simp] theorem Dev.atomDo_cores (d : Dev) (x : PStore) (w : AtomWork) : (d.atomDo x w).sys.cores = d.sys.cores := by simp [Dev.atomDo]

@[simp] theorem Dev.perform_cores (d : Dev) (x : PStore) : (d.perform x).sys.cores = d.sys.cores := by
  unfold Dev.perform
  split <;> simp

@[simp] theorem Dev.eccAt_cores (d : Dev) (st line ecc : Nat) : (d.eccAt st line ecc).sys.cores = d.sys.cores := by simp [Dev.eccAt]

@[simp] theorem missFill_cores (st line ecc : Nat) (d : Dev) : (missFill st line ecc d).sys.cores = d.sys.cores := by simp [missFill, serveLine]

@[simp] theorem scrubLine_cores (st ecc : Nat) (d : Dev) : (scrubLine st ecc d).sys.cores = d.sys.cores := by simp [scrubLine]

@[simp] theorem releaseLines_cores (ls : List (Nat × Nat)) (d : Dev) : (releaseLines ls d).sys.cores = d.sys.cores := by simp [releaseLines]

@[simp] theorem copyRead_cores (p a n : Nat) (na : Bool) (d : Dev) : (copyRead p a n na d).dev.sys.cores = d.sys.cores := by
  simp [copyRead]

@[simp] theorem copyWrite_cores (p a : Nat) (bs : List Byte) (na : Bool) (d : Dev) : (copyWrite p a bs na d).sys.cores = d.sys.cores := by
  simp [copyWrite]

@[simp] theorem poisonFault_cores (gid : Gid) (block pc : Nat) (d : Dev) : (poisonFault gid block pc d).sys.cores = d.sys.cores := by
  simp [poisonFault]

@[simp] theorem arrBody_cores (i : Issue) (s : Sys) : (arrBody i s).cores = s.cores := by
  unfold arrBody
  split
  · rfl
  · exact (Sys.wakeArr_cores ..).trans (s.onGroup_cores (fun _ => by rfl) _)

@[simp] theorem progressStalled_cores (gid : Gid) (s : Sys) : (progressStalled gid s).cores = s.cores := by
  have h (b : Bool) : (s.onGroup gid (fun g => { g with reported := b })).cores = s.cores := s.onGroup_cores (fun _ => by rfl) _
  unfold progressStalled
  (repeat' split) <;> simp [h]

/-! ### Command rings -/

@[simp] theorem Dev.syncRings_cores (d : Dev) : d.syncRings.sys.cores = d.sys.cores := by simp [Dev.syncRings, Dev.syncRing]

@[simp] theorem Sys.ringLeaves_cores (s : Sys) (r : Nat) : (s.ringLeaves r).cores = s.cores := by simp [Sys.ringLeaves]

@[simp] theorem Dev.ringEffects_cores (d : Dev) : d.ringEffects.sys.cores = d.sys.cores := by simp [Dev.ringEffects, Dev.ringTakes]

@[simp] theorem Sys.completeUid_cores (s : Sys) (r uid status detail : Nat) : (s.completeUid r uid status detail).cores = s.cores := by
  unfold Sys.completeUid
  split <;> simp

@[simp] theorem Sys.completeCmd_cores (s : Sys) (r idx status detail : Nat) : (s.completeCmd r idx status detail).cores = s.cores := by
  unfold Sys.completeCmd
  split <;> simp

@[simp] theorem Sys.dropCmd_cores (s : Sys) (r idx : Nat) : (s.dropCmd r idx).cores = s.cores := by simp [Sys.dropCmd]

@[simp] theorem Sys.stopRing_cores (s : Sys) (r reason : Nat) : (s.stopRing r reason).cores = s.cores := by simp [Sys.stopRing]

@[simp] theorem Sys.poisonKill_cores (s : Sys) (r idx : Nat) (at_ : Nat × Nat) : (s.poisonKill r idx at_).cores = s.cores := by simp [Sys.poisonKill]

@[simp] theorem Sys.qpError_cores (s : Sys) (i : Nat) : (s.qpError i).cores = s.cores := by simp [Sys.qpError]

@[simp] theorem Sys.unreadable_cores (s : Sys) (r : Nat) (poison : Option (Nat × Nat)) : (s.unreadable r poison).cores = s.cores := by
  unfold Sys.unreadable
  (repeat' split) <;> simp

@[simp] theorem Dev.restart_cores (r val : Nat) (d : Dev) : (Dev.restart r val d).sys.cores = d.sys.cores := by simp [Dev.restart]

@[simp] theorem Dev.sampleEvent_cores (r : Nat) (d : Dev) : (Dev.sampleEvent r d).sys.cores = d.sys.cores := by
  unfold Dev.sampleEvent
  split
  · rfl
  · dsimp only
    split
    · split
      · simp
      · split <;> simp
    · rfl

@[simp] theorem Dev.readPage_cores (r : Nat) (d : Dev) : (Dev.readPage r d).sys.cores = d.sys.cores := by
  simp only [Dev.readPage]
  split
  · split
    · split <;> simp
    · simp
  · simp

@[simp] theorem commandRead_cores (r : Nat) (d : Dev) : (commandRead r d).sys.cores = d.sys.cores := by
  simp only [commandRead]
  split
  · split
    · simp
    · split
      · rfl
      · split
        · simp
        · split
          · split <;> simp
          · simp
  · rfl

@[simp] theorem commandStart_cores (r : Nat) (d : Dev) : (commandStart r d).sys.cores = d.sys.cores := by
  unfold commandStart
  dsimp only
  (repeat' split) <;> simp

@[simp] theorem Sys.begin_cores (s : Sys) (r uid : Nat) : (s.begin r uid).cores = s.cores := by simp [Sys.begin]

@[simp] theorem fenceRow_cores (scope r idx : Nat) (s : Sys) : (fenceRow scope r idx s).cores = s.cores := by
  unfold fenceRow
  split <;> simp

@[simp] theorem eventSignal_cores (r idx : Nat) (d : Dev) : (eventSignal r idx d).sys.cores = d.sys.cores := by
  unfold eventSignal
  split <;> simp

@[simp] theorem eventWait_cores (r idx : Nat) (d : Dev) : (eventWait r idx d).sys.cores = d.sys.cores := by
  unfold eventWait
  split <;> simp

@[simp] theorem Sys.ethSend_cores (s : Sys) (port prio n : Nat) : (s.ethSend port prio n).cores = s.cores := by
  simp [Sys.ethSend]

@[simp] theorem Sys.qpSend_cores (s : Sys) (i : Nat) (m : QpReq) : (s.qpSend i m).cores = s.cores := by simp [Sys.qpSend]

@[simp] theorem completionRecordWrite_cores (r : Nat) (s : Sys) : (completionRecordWrite r s).cores = s.cores := by
  unfold completionRecordWrite
  dsimp only
  split <;> simp

@[simp] theorem copyLocal_cores (r idx : Nat) (d : Dev) : (copyLocal r idx d).sys.cores = d.sys.cores := by
  unfold copyLocal
  split
  · rfl
  · dsimp only
    split
    · split <;> simp
    · rfl

@[simp] theorem copyHostWrite_cores (r idx : Nat) (d : Dev) : (copyHostWrite r idx d).sys.cores = d.sys.cores := by
  unfold copyHostWrite
  split
  · rfl
  · dsimp only
    split
    · simp
    · split
      · split <;> simp
      · rfl

@[simp] theorem copyHostRead_cores (r idx : Nat) (s : Sys) : (copyHostRead r idx s).cores = s.cores := by
  unfold copyHostRead
  split <;> simp

/-! ### Ethernet and queue pairs -/

@[simp] theorem Sys.ethCount_cores (s : Sys) (i k n : Nat) : (s.ethCount i k n).cores = s.cores := by simp [Sys.ethCount]

@[simp] theorem ethPortState_cores (port : Nat) (up : Bool) (s : Sys) : (ethPortState port up s).cores = s.cores := by simp [ethPortState]

@[simp] theorem Sys.ethDrain_cores (s : Sys) (port prio : Nat) : (s.ethDrain port prio).cores = s.cores := by simp [Sys.ethDrain]

@[simp] theorem Sys.netAnswer_cores (s : Sys) (iface : Nat) (n : FrameNet) : (s.netAnswer iface n).cores = s.cores := by
  unfold Sys.netAnswer
  split <;> simp

@[simp] theorem frameReceive_cores (port : Nat) (f : FrameIn) (s : Sys) : (frameReceive port f s).cores = s.cores := by
  simp [frameReceive, Sys.t1sFrame]

@[simp] theorem pfcPause_cores (port prio quanta : Nat) (s : Sys) : (pfcPause port prio quanta s).cores = s.cores := by
  simp only [pfcPause]
  split_ifs <;> simp

@[simp] theorem pfcRepeat_cores (port prio : Nat) (s : Sys) : (pfcRepeat port prio s).cores = s.cores := by simp [pfcRepeat]

@[simp] theorem cnpReceive_cores (i : Nat) (s : Sys) : (cnpReceive i s).cores = s.cores := by simp [cnpReceive]

@[simp] theorem rateIncrease_cores (i : Nat) (s : Sys) : (rateIncrease i s).cores = s.cores := by simp [rateIncrease]

@[simp] theorem Sys.qpReply_cores (s : Sys) (i kind : Nat) (data : List Byte) : (s.qpReply i kind data).cores = s.cores := by simp [Sys.qpReply]

@[simp] theorem Sys.rdmaCount_cores (s : Sys) (p k : Nat) : (s.rdmaCount p k).cores = s.cores := by simp [Sys.rdmaCount]

@[simp] theorem Sys.qpTook_cores (s : Sys) (i n : Nat) : (s.qpTook i n).cores = s.cores := by simp [Sys.qpTook]

end Sys2Proof.Machine
end

section
/-! PROOF. Cores stay sound, part 4: Kettle's engines, updates, the router, the fabric's requests and replies, and the links
leave what soundness depends on. -/

namespace Sys2Proof.Machine

open Sys2Proof

/-! ### Ethernet and queue pairs -/

@[simp] theorem Sys.qpRefuse_cores (s : Sys) (i : Nat) : (s.qpRefuse i).cores = s.cores := by simp [Sys.qpRefuse]

@[simp] theorem rdmaWrite_cores (i addr rkey : Nat) (data : List Byte) (ce : Bool) (d : Dev) :
    (rdmaWrite i addr rkey data ce d).sys.cores = d.sys.cores := by simp [rdmaWrite, Sys.congestion]

@[simp] theorem rdmaRead_cores (i addr rkey len : Nat) (d : Dev) : (rdmaRead i addr rkey len d).sys.cores = d.sys.cores := by
  unfold rdmaRead
  dsimp only
  (repeat' split) <;> simp

@[simp] theorem invalidRequest_cores (i : Nat) (s : Sys) : (invalidRequest i s).cores = s.cores := by simp [invalidRequest]

@[simp] theorem sendReceive_cores (i : Nat) (data : List Byte) (d : Dev) : (sendReceive i data d).sys.cores = d.sys.cores := by
  unfold sendReceive
  dsimp only
  (repeat' split) <;> simp

@[simp] theorem Sys.qpAgain_cores (s : Sys) (i : Nat) : (s.qpAgain i).cores = s.cores := by simp [Sys.qpAgain]

@[simp] theorem retransmit_cores (i : Nat) (s : Sys) : (retransmit i s).cores = s.cores := by simp [retransmit]

@[simp] theorem rdmaResponse_cores (i kind : Nat) (data : List Byte) (d : Dev) : (rdmaResponse i kind data d).sys.cores = d.sys.cores := by
  unfold rdmaResponse
  dsimp only
  (repeat' split) <;> simp [receiverNotReady, Sys.qpAnswered]

@[simp] theorem Sys.qpWrite_cores (s : Sys) (i : Nat) (b : List Byte) : (s.qpWrite i b).cores = s.cores := by simp [Sys.qpWrite]

/-! ### Packets and streams -/

@[simp] theorem Sys.inject_cores (s : Sys) (p : Pkt) (vc : Nat) : (s.inject p vc).cores = s.cores := by simp [Sys.inject]

@[simp] theorem Sys.pcount_cores (s : Sys) (p k : Nat) : (s.pcount p k).cores = s.cores := by simp [Sys.pcount]

@[simp] theorem Sys.onOp_cores (s : Sys) (id : Nat) (g : FabOp → FabOp) : (s.onOp id g).cores = s.cores := by simp [Sys.onOp]

@[simp] theorem Sys.sendCtrl_cores (s : Sys) (dest ctype slot target attempt : Nat) (payload : List Byte) :
    (s.sendCtrl dest ctype slot target attempt payload).cores = s.cores := by simp [Sys.sendCtrl]

/-! ### Epochs -/

@[simp] theorem Sys.enterEpoch_cores (s : Sys) (g st : Nat) : (s.enterEpoch g st).cores = s.cores := by simp [Sys.enterEpoch]

@[simp] theorem Sys.finishEpoch_cores (s : Sys) (g status : Nat) : (s.finishEpoch g status).cores = s.cores := by simp [Sys.finishEpoch]

@[simp] theorem Sys.stepEnded_cores (s : Sys) (g status : Nat) : (s.stepEnded g status).cores = s.cores := by simp [Sys.stepEnded, Sys.castVote]

/-! ### Kettle's engines and their tasks -/

@[simp] theorem Sys.onTask_cores (s : Sys) (id : Nat) (f : KTask → KTask) : (s.onTask id f).cores = s.cores := by simp [Sys.onTask]

@[simp] theorem KRead.step_cores (p : Nat) (r : KRange) (k : KRead) : (k.step p r).dev.sys.cores = k.dev.sys.cores := by
  simp [KRead.step]

@[simp] theorem Dev.kSources_cores (d : Dev) (t : KTask) : (d.kSources t).dev.sys.cores = d.sys.cores :=
  runAll_keeps (KRead.step t.part) (fun k => k.dev.sys.cores) (fun r k => KRead.step_cores t.part r k) _ _

@[simp] theorem Dev.kInput_cores (d : Dev) (t : KTask) : (d.kInput t).dev.sys.cores = d.sys.cores := by
  simp [Dev.kInput]

@[simp] theorem Dev.kettleWriteSome_cores (p a : Nat) (bs : List Byte) (d : Dev) : (Dev.kettleWriteSome p a bs d).sys.cores = d.sys.cores := by
  simp [Dev.kettleWriteSome]

@[simp] theorem Dev.kPartial_cores (t : KTask) (d : Dev) : (Dev.kPartial t d).sys.cores = d.sys.cores := by simp [Dev.kPartial]

@[simp] theorem Dev.putStatus_cores (d : Dev) (p a code attempts detail : Nat) : (d.putStatus p a code attempts detail).sys.cores = d.sys.cores := by
  simp [Dev.putStatus]

@[simp] theorem Sys.tasksEnded_cores (s : Sys) (t : KTask) : (s.tasksEnded t).cores = s.cores := by
  unfold Sys.tasksEnded
  dsimp only
  (repeat' split) <;> simp

@[simp] theorem Dev.taskDone_cores (d : Dev) (t : KTask) (code attempts detail : Nat) :
    (d.taskDone t code attempts detail).sys.cores = d.sys.cores := by simp [Dev.taskDone]

@[simp] theorem Dev.taskPoisoned_cores (d : Dev) (t : KTask) (at_ : Nat × Nat) : (d.taskPoisoned t at_).sys.cores = d.sys.cores := by
  simp only [Dev.taskPoisoned]
  split
  · simp
  · rw [liftSys_sys]
    split <;> simp

@[simp] theorem kettleStart_cores (id : Nat) (d : Dev) : (kettleStart id d).sys.cores = d.sys.cores := by
  unfold kettleStart
  split
  · rfl
  · split
    · split
      · simp
      · dsimp only
        split <;> simp
    · rfl

@[simp] theorem kettleTurn_cores (stack engine : Nat) (s : Sys) : (kettleTurn stack engine s).cores = s.cores := by
  unfold kettleTurn
  split <;> simp

theorem Dev.finishTask_cores {id kind : Nat} {f : KTask → (Nat → Nat) → Dev → Dev}
    (h : ∀ t rd x, (f t rd x).sys.cores = x.sys.cores) (d : Dev) :
    (d.finishTask id kind f).sys.cores = d.sys.cores := by
  unfold Dev.finishTask
  split
  · rfl
  next t _ =>
    have hk := Dev.kInput_cores d t
    refine (ite_sys_cores _ _ _).trans (ite_eq_right_iff.mpr fun _ => ?_)
    dsimp only
    split
    · split
      · rw [Dev.taskPoisoned_cores, liftSys_sys, Sys.drew_cores, hk]
      · rw [h, liftSys_sys, Sys.drew_cores, hk]
    · rw [h, hk]

@[simp] theorem Dev.kWriteAll_cores (d : Dev) (t : KTask) (ws : List (Nat × List Byte)) : (d.kWriteAll t ws).sys.cores = d.sys.cores := by
  simp [Dev.kWriteAll]

@[simp] theorem gemvDone_cores (t : KTask) (rd : Nat → Nat) (d : Dev) : (gemvDone t rd d).sys.cores = d.sys.cores := by
  simp [gemvDone, Dev.kWriteChecked]

@[simp] theorem scaleDone_cores (t : KTask) (rd : Nat → Nat) (d : Dev) : (scaleDone t rd d).sys.cores = d.sys.cores := by simp [scaleDone]

@[simp] theorem updateDone_cores (t : KTask) (rd : Nat → Nat) (d : Dev) : (updateDone t rd d).sys.cores = d.sys.cores := by
  simp only [updateDone, Dev.taskDone_cores, liftSys_sys]
  split
  · split <;> simp
  · simp

@[simp] theorem rootHeld_cores (t : KTask) (attempts reason : Nat) (d : Dev) : (rootHeld t attempts reason d).sys.cores = d.sys.cores := by
  simp only [rootHeld, Dev.taskDone_cores, liftSys_sys, Sys.raise_cores]
  split <;> simp

@[simp] theorem rootStep_cores (t : KTask) (rd : Nat → Nat) (d : Dev) : (rootStep t rd d).sys.cores = d.sys.cores := by
  unfold rootStep
  dsimp only
  split <;> simp

@[simp] theorem Dev.malformed_cores (d : Dev) (p a : Nat) (bad : List (Nat × Nat)) : (d.malformed p a bad).sys.cores = d.sys.cores := by
  simp [Dev.malformed]

@[simp] theorem Sys.addTask_cores (s : Sys) (r : Nat) (c : RCmd) (target : Nat) (runRoots : Bool) (p a : Nat) (x : Nat × List Byte × KCheck) :
    (s.addTask r c target runRoots p a x).cores = s.cores := by simp [Sys.addTask]

theorem Dev.startList_cores (d : Dev) (r : Nat) (c : RCmd) (kinds : List Nat) (a n t : Nat) (roots : Bool) :
    (d.startList r c kinds a n t roots).dev.sys.cores = d.sys.cores := by
  unfold Dev.startList
  dsimp only
  split
  · simp [ListEnd.dev]
  · split
    · simp [ListEnd.dev]
    · split
      · simp [ListEnd.dev]
      · split <;> simp [ListEnd.dev]

@[simp] theorem listCommand_cores (r idx kind op n : Nat) (kinds : List Nat) (d : Dev) :
    (listCommand r idx kind op n kinds d).sys.cores = d.sys.cores := by
  unfold listCommand
  split
  · rfl
  next c _ =>
    have h := Dev.startList_cores (liftSys (fun s => s.begin r c.uid) d) r c kinds (field c.bytes 24 8)
      (field c.bytes n (if n = 32 then 4 else 8)) 0 true
    dsimp only
    split <;> simp_all [ListEnd.dev]

/-! ### Updates -/

@[simp] theorem Dev.publishOne_cores (g : Nat) (x : Nat × List Byte) (d : Dev) : (Dev.publishOne g x d).sys.cores = d.sys.cores := by
  unfold Dev.publishOne
  dsimp only
  split
  · rfl
  · exact Sys.onFab_cores ..

@[simp] theorem Dev.startPublish_cores (d : Dev) (g : Nat) : (d.startPublish g).sys.cores = d.sys.cores := by simp [Dev.startPublish]

@[simp] theorem publishComplete_cores (g : Nat) (s : Sys) : (publishComplete g s).cores = s.cores := by simp [publishComplete]

@[simp] theorem updateCheck_cores (mode r idx : Nat) (d : Dev) : (updateCheck mode r idx d).sys.cores = d.sys.cores := by
  unfold updateCheck
  dsimp only
  (repeat' split) <;> simp

@[simp] theorem Dev.beginStep_cores (d : Dev) (r g : Nat) (c : RCmd) : (d.beginStep r g c).sys.cores = d.sys.cores := by
  have h := Dev.startList_cores d r c [3, 4] (field c.bytes 32 8) (field c.bytes 40 4) (field c.bytes 24 8) c.roots
  unfold Dev.beginStep
  dsimp only
  split
  · simp_all [ListEnd.dev]
  · simp_all [ListEnd.dev]
  · dsimp only [liftSys]
    split <;> simp_all [ListEnd.dev]

@[simp] theorem Dev.beginPublish_cores (d : Dev) (r g : Nat) (c : RCmd) : (d.beginPublish r g c).sys.cores = d.sys.cores := by
  unfold Dev.beginPublish
  dsimp only
  split <;> simp

@[simp] theorem updateStart_cores (r idx : Nat) (d : Dev) : (updateStart r idx d).sys.cores = d.sys.cores := by
  unfold updateStart
  split <;> simp

@[simp] theorem Dev.takeDecision_cores (d : Dev) (g dec reason : Nat) : (d.takeDecision g dec reason).sys.cores = d.sys.cores := by
  simp [Dev.takeDecision]

@[simp] theorem epochInDoubt_cores (g : Nat) (s : Sys) : (epochInDoubt g s).cores = s.cores := by simp [epochInDoubt]

@[simp] theorem ctrlPacket_cores (p : Pkt) (s : Sys) : (ctrlPacket p s).cores = s.cores := by simp [ctrlPacket]

@[simp] theorem Sys.ctrlDiscard_cores (s : Sys) : s.ctrlDiscard.cores = s.cores := by simp [Sys.ctrlDiscard]

@[simp] theorem Sys.lateVote_cores (s : Sys) : s.lateVote.cores = s.cores := by simp [Sys.lateVote]

@[simp] theorem Sys.sendBlockVote_cores (s : Sys) (x : Gather) (vote : Nat) : (s.sendBlockVote x vote).cores = s.cores := by simp [Sys.sendBlockVote]

@[simp] theorem Sys.ctrlTake_cores (s : Sys) : s.ctrlTake.cores = s.cores := by simp [Sys.ctrlTake]

@[simp] theorem ownerVote_cores (s : Sys) : (ownerVote s).cores = s.cores := by
  unfold ownerVote
  dsimp only
  (repeat' split) <;> simp

@[simp] theorem voteBudget_cores (g : Nat) (s : Sys) : (voteBudget g s).cores = s.cores := by
  unfold voteBudget
  split <;> simp

@[simp] theorem Sys.coordDecide_cores (s : Sys) (x : Gather) (dec reason : Nat) : (s.coordDecide x dec reason).cores = s.cores := by
  simp [Sys.coordDecide]

@[simp] theorem blockVote_cores (s : Sys) : (blockVote s).cores = s.cores := by
  unfold blockVote
  dsimp only
  (repeat' split) <;> simp

@[simp] theorem coordBudget_cores (g : Nat) (s : Sys) : (coordBudget g s).cores = s.cores := by
  unfold coordBudget
  split <;> simp

@[simp] theorem decisionReceive_cores (d : Dev) : (decisionReceive d).sys.cores = d.sys.cores := by
  unfold decisionReceive
  split <;> simp

@[simp] theorem ctrlResend_cores (k : Nat) (s : Sys) : (ctrlResend k s).cores = s.cores := by
  unfold ctrlResend
  split <;> simp

/-! ### Requests over the fabric -/

@[simp] theorem Sys.enterOp_cores (s : Sys) (o : FabOp) (x : FabD) (read : Nat → Nat → List Byte) : (s.enterOp o x read).cores = s.cores :=
  Sys.onFab_cores ..

@[simp] theorem copyFabric_cores (r idx : Nat) (d : Dev) : (copyFabric r idx d).sys.cores = d.sys.cores := by
  unfold copyFabric
  dsimp only
  (repeat' split) <;> simp

/-! ### The router -/

@[simp] theorem Dev.sendReq_cores (d : Dev) (r : FabReq) (flagR : Bool) : (d.sendReq r flagR).sys.cores = d.sys.cores := by
  unfold Dev.sendReq
  dsimp only
  (repeat' split) <;> simp [Sys.sourcePoison, Sys.transmit]

@[simp] theorem Sys.pathFailed_cores (s : Sys) (p : Pkt) : (s.pathFailed p).cores = s.cores := by simp [Sys.pathFailed]

@[simp] theorem Sys.join_cores (s : Sys) (port i : Nat) (w : TxPkt) (p : Pkt) : (s.join port i w p).cores = s.cores := by simp [Sys.join]

@[simp] theorem Sys.toPort_cores (s : Sys) (port : Nat) (x : RPkt) (lane : Nat) : (s.toPort port x lane).cores = s.cores := by
  unfold Sys.toPort
  (repeat' split) <;> simp

@[simp] theorem Sys.unrouted_cores (s : Sys) : s.unrouted.cores = s.cores := by simp [Sys.unrouted]

@[simp] theorem Sys.route_cores (s : Sys) (x : RPkt) : (s.route x).cores = s.cores := by
  unfold Sys.route
  dsimp only
  (repeat' split) <;> simp

@[simp] theorem packetRoute_cores (k : Nat) (d : Dev) : (packetRoute k d).sys.cores = d.sys.cores := by
  unfold packetRoute
  dsimp only
  split
  · split
    · split <;> simp
    · split
      · rfl
      · split
        · rfl
        · split <;> simp
  · rfl

@[simp] theorem Sys.dropMput_cores (s : Sys) (src part seq group : Nat) : (s.dropMput src part seq group).cores = s.cores := by simp [Sys.dropMput]

@[simp] theorem Sys.mputEnd_cores (s : Sys) (m : MputRec) : (s.mputEnd m).cores = s.cores := by simp [Sys.mputEnd]

@[simp] theorem Sys.withdraw_cores (s : Sys) : s.withdraw.cores = s.cores := by
  refine runAll_cores (fun port x => ?_) _ _
  dsimp only
  split
  · rfl
  · refine (runAll_cores (fun w y => ?_) _ _).trans (by simp)
    split
    · rfl
    · split
      · split <;> simp
      · simp

@[simp] theorem Dev.resendReq_cores (d : Dev) (r : FabReq) (flagR : Bool) : (d.resendReq r flagR).sys.cores = d.sys.cores := by simp [Dev.resendReq]

@[simp] theorem Dev.routesChanged_cores (d : Dev) : d.routesChanged.sys.cores = d.sys.cores := by simp [Dev.routesChanged]

@[simp] theorem resendDelay_cores (k : Nat) (d : Dev) : (resendDelay k d).sys.cores = d.sys.cores := by
  unfold resendDelay
  split <;> simp

@[simp] theorem fabricTimeout_cores (op : Nat) (s : Sys) : (fabricTimeout op s).cores = s.cores := by
  unfold fabricTimeout
  (repeat' split) <;> simp

/-! ### Requests at their target -/

@[simp] theorem Sys.recordSlot_cores (s : Sys) (q src part group seq status value : Nat) :
    (s.recordSlot q src part group seq status value).cores = s.cores := by simp [Sys.recordSlot]

@[simp] theorem Sys.recordReply_cores (s : Sys) (q : Nat) (p : Pkt) (status value : Nat) : (s.recordReply q p status value).cores = s.cores := by
  simp [Sys.recordReply]

@[simp] theorem Sys.reply_cores (s : Sys) (p : Pkt) (status value : Nat) : (s.reply p status value).cores = s.cores := by simp [Sys.reply]

@[simp] theorem Sys.unmarkOp_cores (s : Sys) (o : ExecOp) : (s.unmarkOp o).cores = s.cores := by simp [Sys.unmarkOp, Sys.unmark]

theorem Sys.arrive_cores {s t : Sys} {p : Pkt} {kind : Nat} {x : RPkt} (h : s.arrive p kind = some (x, t)) : t.cores = s.cores := by
  unfold Sys.arrive at h
  split at h
  · split at h
    · split at h
      · cases h
        simp
      · cases h
    · cases h
  · cases h

@[simp] theorem Dev.windowCheck_cores (d : Dev) (p : Pkt) (n perm : Nat) (w : Bool) : (d.windowCheck p n perm w).2.sys.cores = d.sys.cores := by
  simp only [Dev.windowCheck]
  split
  · rfl
  · split
    · simp
    · split <;> simp

theorem Sys.replayOf_cores (s : Sys) (q : Nat) (p : Pkt) : ((s.replayOf q p).after s).cores = s.cores := by
  unfold Sys.replayOf
  dsimp only
  split
  · split
    · simp [Replay.after]
    · split
      · split <;> simp [Replay.after]
      · split <;> simp [Replay.after]
  · split
    · rfl
    · split
      · rfl
      · simp [Replay.after]

theorem Sys.replayOf_eq_cores {s : Sys} {q : Nat} {p : Pkt} {r : Replay} (h : s.replayOf q p = r) : (r.after s).cores = s.cores :=
  h ▸ s.replayOf_cores q p

@[simp] theorem Dev.remotePoison_cores (d : Dev) (at_ : Nat × Nat) (p : Pkt) : (d.remotePoison at_ p).sys.cores = d.sys.cores := by
  simp only [Dev.remotePoison]
  split <;> simp

theorem Dev.store_cores {d : Dev} {p : Pkt} {perm : Nat} {x : Nat × Dev} (h : d.store p perm = some x) : x.2.sys.cores = d.sys.cores := by
  have hr := Sys.replayOf_cores (d.windowCheck p p.len perm true).2.sys (d.sys.window p.window).part p
  unfold Dev.store at h
  dsimp only at h
  split at h
  · cases h
    simp
  · split at h
    · cases h
    · cases h
      simp_all [Replay.after]
    · cases h
      simp_all [Replay.after]
    · split at h <;> cases h
      simp_all [Replay.after]

@[simp] theorem storeRow_cores (p : Pkt) (kind perm : Nat) (d : Dev) : (storeRow p kind perm d).sys.cores = d.sys.cores := by
  unfold storeRow
  split
  · rfl
  next x s hs =>
    split
    · rfl
    · split
      · rfl
      next hx => simp [Dev.store_cores hx, Sys.arrive_cores hs]

@[simp] theorem getPacket_cores (p : Pkt) (d : Dev) : (getPacket p d).sys.cores = d.sys.cores := by
  unfold getPacket
  split
  · rfl
  next s hs =>
    dsimp only
    split
    · simp [Sys.arrive_cores hs]
    · split
      · split <;> simp [Sys.arrive_cores hs]
      · rfl

@[simp] theorem Dev.toExecutor_cores (d : Dev) (p : Pkt) (part base : Nat) : (d.toExecutor p part base).sys.cores = d.sys.cores := by
  simp [Dev.toExecutor]

@[simp] theorem executorRow_cores (p : Pkt) (kind n perm : Nat) (d : Dev) : (executorRow p kind n perm d).sys.cores = d.sys.cores := by
  unfold executorRow
  split
  · rfl
  next s hs =>
    have hr := Sys.replayOf_cores (Dev.windowCheck { d with sys := s } p n perm true).2.sys (s.window p.window).part p
    have := Sys.arrive_cores hs
    dsimp only
    split
    · simp_all
    · split
      · rfl
      · simp_all [Replay.after]
      · simp_all [Replay.after]
      · split <;> simp_all [Replay.after]

@[simp] theorem combinedPacket_cores (p : Pkt) (d : Dev) : (combinedPacket p d).sys.cores = d.sys.cores := by
  unfold combinedPacket
  split
  · rfl
  next s hs =>
    have hx := Sys.arrive_cores hs
    extract_lets w cs gets n c x d1
    have hc : c.2.sys.cores = d.sys.cores := (Dev.windowCheck_cores ..).trans hx
    clear_value c n
    split
    · simp [hc]
    · split
      · split
        · split <;> simp [x, hc]
        · rfl
      · refine (Dev.toExecutor_cores ..).trans ((runAll_cores (fun k y => ?_) _ _).trans hc)
        dsimp only
        split
        next h => exact (Sys.recordReply_cores ..).trans (Sys.replayOf_eq_cores h)
        next h => exact (Sys.recordReply_cores ..).trans (Sys.replayOf_eq_cores h)
        next h => exact (Sys.recordReply_cores ..).trans (Sys.replayOf_eq_cores h)
        · rfl

@[simp] theorem targetExec_cores (st : Nat) (atom : Bool) (d : Dev) : (targetExec st atom d).sys.cores = d.sys.cores := by
  unfold targetExec
  dsimp only
  (repeat' split) <;> simp

theorem mputLocal_cores {d0 : Dev} {p : Pkt} {a b : Bool} {y : Nat × List Nat × Dev}
    (h : (if a = false then some (0, [], d0)
      else if b then (Dev.store d0 p 2).map (fun y => (y.1, [], y.2)) else some (0, [16], liftSys Sys.unrouted d0)) = some y) :
    y.2.2.sys.cores = d0.sys.cores := by
  split at h
  · cases h
    rfl
  · split at h
    · obtain ⟨z, hz, rfl⟩ := Option.map_eq_some_iff.mp h
      exact Dev.store_cores hz
    · cases h
      simp

@[simp] theorem mputPacket_cores (p : Pkt) (d : Dev) : (mputPacket p d).sys.cores = d.sys.cores := by
  unfold mputPacket
  split
  · rfl
  next x s hs =>
    have hx := Sys.arrive_cores hs
    dsimp only
    split
    · simp [hx]
    · split
      · simp [hx]
      · split
        · rfl
        next h =>
          have h := mputLocal_cores h
          simp_all

@[simp] theorem ctrlRow_cores (p : Pkt) (s : Sys) : (ctrlRow p s).cores = s.cores := by
  unfold ctrlRow
  split
  next hs => split <;> simp [Sys.arrive_cores hs]
  · rfl

/-! ### Replies -/

theorem Sys.uncombine_cores {each : Pkt → Sys → Sys} (h : ∀ q x, (each q x).cores = x.cores) (s : Sys) (c : CombRec) :
    (s.uncombine c each).cores = s.cores := by
  simp [Sys.uncombine, h]

@[simp] theorem Sys.branchAnswer_cores (s : Sys) (x : RPkt) : (s.branchAnswer x).cores = s.cores := by
  unfold Sys.branchAnswer
  split <;> simp [Sys.mputAnswer]

@[simp] theorem Sys.waitResend_cores (s : Sys) (p : Pkt) (r : FabReq) : (s.waitResend p r).cores = s.cores := by simp [Sys.waitResend]

/-! ### Links -/

@[simp] theorem Sys.portEvent_cores (s : Sys) (code port : Nat) (detail : List Byte) : (s.portEvent code port detail).cores = s.cores := by
  simp [Sys.portEvent]

@[simp] theorem Sys.setPort_cores (s : Sys) (i st : Nat) : (s.setPort i st).cores = s.cores := by simp [Sys.setPort]

@[simp] theorem Sys.portDown_cores (s : Sys) (i reason train : Nat) : (s.portDown i reason train).cores = s.cores := by simp [Sys.portDown]

@[simp] theorem Sys.portUp_cores (s : Sys) (i st : Nat) : (s.portUp i st).cores = s.cores := by simp [Sys.portUp]

@[simp] theorem Sys.enterTrain_cores (s : Sys) (i st : Nat) : (s.enterTrain i st).cores = s.cores := by simp [Sys.enterTrain]

@[simp] theorem Sys.toLock_cores (s : Sys) (i : Nat) : (s.toLock i).cores = s.cores := by simp [Sys.toLock]

@[simp] theorem lockComplete_cores (i mask : Nat) (s : Sys) : (lockComplete i mask s).cores = s.cores := by simp [lockComplete]

@[simp] theorem alignComplete_cores (i mask : Nat) (s : Sys) : (alignComplete i mask s).cores = s.cores := by simp [alignComplete]

@[simp] theorem negotiateComplete_cores (i : Nat) (far : TrainFar) (s : Sys) : (negotiateComplete i far s).cores = s.cores := by
  simp [negotiateComplete]

@[simp] theorem verifyWindowEnd_cores (i failMask : Nat) (uncorrectable : Bool) (s : Sys) :
    (verifyWindowEnd i failMask uncorrectable s).cores = s.cores := by simp [verifyWindowEnd]

@[simp] theorem trainingTimeout_cores (i : Nat) (s : Sys) : (trainingTimeout i s).cores = s.cores := by simp [trainingTimeout]

@[simp] theorem Sys.quarantine_cores (s : Sys) (i : Nat) : (s.quarantine i).cores = s.cores := by simp [Sys.quarantine]

@[simp] theorem Sys.compare_cores (s : Sys) (i : Nat) : (s.compare i).cores = s.cores := by simp [Sys.compare]

@[simp] theorem helloReceive_cores (i : Nat) (h : Hello) (s : Sys) : (helloReceive i h s).cores = s.cores := by simp [helloReceive, Sys.settlePort]

@[simp] theorem helloSend_cores (i : Nat) (s : Sys) : (helloSend i s).cores = s.cores := by simp [helloSend]

@[simp] theorem Sys.helloAll_cores (s : Sys) : s.helloAll.cores = s.cores := by simp [Sys.helloAll]

@[simp] theorem Sys.codeword_cores (s : Sys) (i : Nat) (fecOk : Bool) : (s.codeword i fecOk).cores = s.cores := by simp [Sys.codeword]

@[simp] theorem Sys.flitBad_cores (s : Sys) (i : Nat) (f : Flit) (fecOk : Bool) (crc : Nat) : (s.flitBad i f fecOk crc).cores = s.cores := by
  simp [Sys.flitBad]

@[simp] theorem Sys.replayLimit_cores (s : Sys) (i : Nat) : (s.replayLimit i).cores = s.cores := by simp [Sys.replayLimit]

@[simp] theorem Sys.acceptFlit_cores (s : Sys) (i : Nat) (f : Flit) : (s.acceptFlit i f).cores = s.cores := by
  unfold Sys.acceptFlit
  dsimp only
  split <;> simp

@[simp] theorem Sys.headerIn_cores (s : Sys) (i : Nat) (f : Flit) : (s.headerIn i f).cores = s.cores := by simp [Sys.headerIn]

@[simp] theorem dataFlit_cores (i : Nat) (f : Flit) (fecOk : Bool) (crc : Nat) (s : Sys) : (dataFlit i f fecOk crc s).cores = s.cores := by
  simp [dataFlit]

@[simp] theorem nullFlitIn_cores (i : Nat) (f : Flit) (fecOk : Bool) (crc : Nat) (s : Sys) : (nullFlitIn i f fecOk crc s).cores = s.cores := by
  simp [nullFlitIn]

@[simp] theorem trainFlit_cores (i : Nat) (f : Flit) (fecOk : Bool) (crc : Nat) (s : Sys) : (trainFlit i f fecOk crc s).cores = s.cores := by
  simp [trainFlit]

@[simp] theorem flitTransmit_cores (i : Nat) (s : Sys) : (flitTransmit i s).cores = s.cores := by simp [flitTransmit]

@[simp] theorem replayTimeout_cores (i : Nat) (s : Sys) : (replayTimeout i s).cores = s.cores := by simp [replayTimeout]

end Sys2Proof.Machine
end

section
/-! PROOF. Cores stay sound, part 5: bring-up, events, decode queues, launches, collectives and faults leave what soundness
depends on. -/

namespace Sys2Proof.Machine

open Sys2Proof

/-! ### Links -/

@[simp] theorem signalLost_cores (i : Nat) (s : Sys) : (signalLost i s).cores = s.cores := by simp [signalLost]

@[simp] theorem portDegraded_cores (i : Nat) (ratio : F32) (s : Sys) : (portDegraded i ratio s).cores = s.cores := by simp [portDegraded]

@[simp] theorem Sys.acceptPort_cores (s : Sys) (i : Nat) : (s.acceptPort i).cores = s.cores := by simp [Sys.acceptPort]

@[simp] theorem Sys.startPort_cores (s : Sys) (i : Nat) : (s.startPort i).cores = s.cores := by simp [Sys.startPort]

@[simp] theorem Sys.enablePorts_cores (s : Sys) (mask : Nat) : (s.enablePorts mask).cores = s.cores := by simp [Sys.enablePorts, Sys.disablePort]

/-! ### Bring-up -/

@[simp] theorem Sys.disc_cores (s : Sys) (kind unit detail : Nat) : (s.disc kind unit detail).cores = s.cores := by simp [Sys.disc]

@[simp] theorem Sys.journal_cores (s : Sys) : s.journal.cores = s.cores := by simp [Sys.journal]

@[simp] theorem Sys.bringUpStart_cores (s : Sys) : s.bringUpStart.cores = s.cores := by simp [Sys.bringUpStart]

@[simp] theorem Sys.nextPhase_cores (s : Sys) (ph status : Nat) : (s.nextPhase ph status).cores = s.cores := by simp [Sys.nextPhase]

@[simp] theorem Sys.failUp_cores (s : Sys) : s.failUp.cores = s.cores := by simp [Sys.failUp]

@[simp] theorem Sys.measure_cores (s : Sys) (typ detail : Nat) (digest : List Byte) : (s.measure typ detail digest).cores = s.cores := by
  simp [Sys.measure]

@[simp] theorem Sys.takeFloor_cores (s : Sys) (tagOk : Bool) : (s.takeFloor tagOk).cores = s.cores := by simp [Sys.takeFloor]

@[simp] theorem Sys.makeSalt_cores (s : Sys) : s.makeSalt.cores = s.cores := by simp [Sys.makeSalt]

@[simp] theorem Sys.replayJournal_cores (s : Sys) : s.replayJournal.cores = s.cores := by
  unfold Sys.replayJournal
  dsimp only
  split <;> simp

@[simp] theorem Sys.tryImage_cores (s : Sys) (k : Nat) : (s.tryImage k).1.cores = s.cores := by
  simp only [Sys.tryImage]
  split <;> simp

/-- The state that FW_VERIFY leaves before the device identity and the manufacturing record are looked at. -/
theorem fwVerify_images_cores (s : Sys) (a b : Nat) :
    (if (s.tryImage a).2 then s.tryImage a else (s.tryImage a).1.tryImage b).1.cores = s.cores := by
  split <;> simp

@[simp] theorem fwVerify_cores (r : FwReading) (s : Sys) : (fwVerify r s).cores = s.cores := by
  unfold fwVerify
  split
  · extract_lets p s1 s2 active first x y s3 k s4 s5 s6
    have h1 : s1.cores = s.cores := by
      unfold s1
      split <;> simp
    have h3 : s3.cores = s.cores := by
      simp only [s3, Sys.makeSalt_cores, Sys.replayJournal_cores]
      exact (fwVerify_images_cores s2 _ _).trans (by simp [s2, h1])
    clear_value s3
    split
    · split
      · simp [s4, h3]
      · split <;> simp [s6, s5, s4, h3]
    · simp [h3]
  · rfl

@[simp] theorem Sys.endLinkTrain_cores (s : Sys) : s.endLinkTrain.cores = s.cores := by
  simp [Sys.endLinkTrain, Sys.notTrained, Sys.narrow, Sys.laserLow]

@[simp] theorem Sys.linkTrainCheck_cores (s : Sys) : s.linkTrainCheck.cores = s.cores := by simp [Sys.linkTrainCheck]

@[simp] theorem linkDeadline_cores (s : Sys) : (linkDeadline s).cores = s.cores := by simp [linkDeadline]

@[simp] theorem Sys.stacksCheck_cores (s : Sys) : s.stacksCheck.cores = s.cores := by simp [Sys.stacksCheck, Sys.beginLinkTrain]

@[simp] theorem Sys.untrained_cores (s : Sys) (st reason : Nat) : (s.untrained st reason).cores = s.cores := by simp [Sys.untrained]

@[simp] theorem Sys.beginStackTrain_cores (s : Sys) : s.beginStackTrain.cores = s.cores := by simp [Sys.beginStackTrain]

@[simp] theorem stackTrained_cores (st rows : Nat) (d : Dev) : (stackTrained st rows d).sys.cores = d.sys.cores := by simp [stackTrained]

@[simp] theorem stackFailed_cores (st reason : Nat) (s : Sys) : (stackFailed st reason s).cores = s.cores := by simp [stackFailed]

@[simp] theorem stackTimeout_cores (s : Sys) : (stackTimeout s).cores = s.cores := by simp [stackTimeout]

@[simp] theorem clockStart_cores (r : UncoreReading) (s : Sys) : (clockStart r s).cores = s.cores := by simp [clockStart]

@[simp] theorem Sys.siteResult_cores (row : Nat) (c : Nat) (x : SiteReading) (s : Sys) : (Sys.siteResult row c x s).cores = s.cores := by
  simp [Sys.siteResult]

@[simp] theorem powerWave_cores (w : Nat) (s : Sys) : (powerWave w s).cores = s.cores := by simp [powerWave]

/-! ### Events -/

@[simp] theorem Dev.evPut_cores (d : Dev) (p code source : Nat) (detail : List Byte) : (d.evPut p code source detail).sys.cores = d.sys.cores := by
  simp [Dev.evPut]

@[simp] theorem Sys.evLose_cores (s : Sys) (p : Nat) : (s.evLose p).cores = s.cores := by simp [Sys.evLose]

@[simp] theorem Dev.evCatchUp_cores (d : Dev) (p : Nat) (consumed : Option Nat) : (d.evCatchUp p consumed).sys.cores = d.sys.cores := by
  simp [Dev.evCatchUp, Dev.evTellLost]

@[simp] theorem Dev.evConsumed_cores (d : Dev) (p : Nat) : (d.evConsumed p).1.sys.cores = d.sys.cores := by
  simp only [Dev.evConsumed]
  split
  · split <;> simp
  · rfl

@[simp] theorem eventRecordWrite_cores (d : Dev) : (eventRecordWrite d).sys.cores = d.sys.cores := by
  unfold eventRecordWrite
  split
  · rfl
  · split
    · rfl
    · dsimp only
      split
      · split <;> simp
      · simp

@[simp] theorem eventRingPoll_cores (p : Nat) (d : Dev) : (eventRingPoll p d).sys.cores = d.sys.cores := by
  simp only [eventRingPoll]
  split <;> simp

@[simp] theorem Dev.takeSet_cores (d : Dev) (p : Nat) (set : PartSet) : (d.takeSet p set).sys.cores = d.sys.cores := by
  simp [Dev.takeSet, Sys.releaseQps]

/-! ### Decode queues -/

@[simp] theorem decodeOpen_cores (r idx : Nat) (d : Dev) : (decodeOpen r idx d).sys.cores = d.sys.cores := by
  unfold decodeOpen
  dsimp only
  (repeat' split) <;> simp

@[simp] theorem dqPushBody_cores (i : Issue) (s : Sys) : (dqPushBody i s).cores = s.cores := by simp [dqPushBody]

@[simp] theorem dqTakeBody_cores (i : Issue) (s : Sys) : (dqTakeBody i s).cores = s.cores := by simp [dqTakeBody]

@[simp] theorem batchBudget_cores (qn : Nat) (s : Sys) : (batchBudget qn s).cores = s.cores := by simp [batchBudget]

@[simp] theorem takeClaim_cores (qn : Nat) (d : Dev) : (takeClaim qn d).sys.cores = d.sys.cores := by
  unfold takeClaim
  dsimp only
  split <;> simp

/-! ### Issue -/

/-! ### Launches -/

@[simp] theorem launch_cores (r idx : Nat) (s : Sys) : (launch r idx s).cores = s.cores := by
  unfold launch
  split <;> simp

@[simp] theorem Sys.onGrid_cores (s : Sys) (uid : Nat) (f : Grid → Grid) : (s.onGrid uid f).cores = s.cores := by rfl

theorem Dev.imageOn_cores (d : Dev) (g : Grid) (core : Nat) : (d.imageOn g core).1.sys.cores = d.sys.cores := by
  unfold Dev.imageOn
  split <;> simp

/-! ### Power and its pins -/

@[simp] theorem vin48Start_cores (mv : Nat) (s : Sys) : (vin48Start mv s).cores = s.cores := by simp [vin48Start]

@[simp] theorem vin48Clear_cores (mv : Nat) (s : Sys) : (vin48Clear mv s).cores = s.cores := by simp [vin48Clear]

@[simp] theorem managementRail_cores (slot boot : Nat) (s : Sys) : (managementRail slot boot s).cores = s.cores := by
  simp only [managementRail]
  split <;> simp [PowerState.sample]

@[simp] theorem refclkValid_cores (s : Sys) : (refclkValid s).cores = s.cores := by simp [refclkValid]

@[simp] theorem refclkLate_cores (s : Sys) : (refclkLate s).cores = s.cores := by simp [refclkLate]

@[simp] theorem thermalTrip_cores (sensor : Nat) (celsius : F32) (s : Sys) : (thermalTrip sensor celsius s).cores = s.cores := by simp [thermalTrip]

@[simp] theorem Sys.laserLevel_cores (s : Sys) (e line uw : Nat) : (s.laserLevel e line uw).cores = s.cores := by simp [Sys.laserLevel]

@[simp] theorem laserLoss_cores (e line uw : Nat) (s : Sys) : (laserLoss e line uw s).cores = s.cores := by simp [laserLoss, Sys.engineDark]

@[simp] theorem laserRestored_cores (e line uw : Nat) (s : Sys) : (laserRestored e line uw s).cores = s.cores := by simp [laserRestored]

@[simp] theorem laserHold_cores (e : Nat) (s : Sys) : (laserHold e s).cores = s.cores := by simp [laserHold]

/-! ### Collectives -/

@[simp] theorem collective_cores (r idx : Nat) (d : Dev) : (collective r idx d).sys.cores = d.sys.cores := by
  unfold collective
  dsimp only
  (repeat' split) <;> simp

@[simp] theorem Sys.segReply_cores (s : Sys) (part : Nat) (x : Seg) (status : Nat) : (s.segReply part x status).cores = s.cores := by
  simp [Sys.segReply]

@[simp] theorem Sys.unstage_cores (s : Sys) (g : Nat) (x : Seg) : (s.unstage g x).cores = s.cores := by simp [Sys.unstage]

@[simp] theorem Sys.onColl_cores (s : Sys) (g : Nat) (f : Coll → Coll) : (s.onColl g f).cores = s.cores := by simp [Sys.onColl]

@[simp] theorem Sys.wcount_cores (s : Sys) (k n : Nat) : (s.wcount k n).cores = s.cores := by simp [Sys.wcount]

@[simp] theorem Sys.lateDrop_cores (s : Sys) (g rank seq : Nat) : (s.lateDrop g rank seq).cores = s.cores := by simp [Sys.lateDrop]

@[simp] theorem Dev.formSeg_cores (g j : Nat) (d : Dev) : (Dev.formSeg g j d).sys.cores = d.sys.cores := by
  unfold Dev.formSeg
  split <;> simp

@[simp] theorem Dev.formAll_cores (d : Dev) (g : Nat) : (d.formAll g).sys.cores = d.sys.cores := by
  unfold Dev.formAll
  split <;> simp

@[simp] theorem Sys.countLeaf_cores (s : Sys) (g : Nat) (c : Coll) (rank : Nat) (xs : List Nat) : (s.countLeaf g c rank xs).cores = s.cores := by
  simp [Sys.countLeaf]

@[simp] theorem Dev.ingest_cores (g : Nat) (x : Seg) (d : Dev) : (Dev.ingest g x d).sys.cores = d.sys.cores := by
  unfold Dev.ingest
  split <;> simp

@[simp] theorem Dev.segIn_cores (d : Dev) (g rank : Nat) (p : Pkt) : (d.segIn g rank p).sys.cores = d.sys.cores := by
  unfold Dev.segIn
  dsimp only
  (repeat' split) <;> simp [Sys.lateSeg]

@[simp] theorem segmentRow_cores (gather : Bool) (p : Pkt) (d : Dev) : (segmentRow gather p d).sys.cores = d.sys.cores := by
  unfold segmentRow
  split
  · rfl
  next s hs =>
    have hx := Sys.arrive_cores hs
    split
    · rfl
    · split
      · rfl
      · have hr := s.replayOf_cores (s.window p.window).part p
        dsimp only
        split
        · simp [hx]
        · split
          · simp [hx]
          · split
            · simp [hx]
            · split <;> simp_all [Replay.after]

@[simp] theorem Sys.useHeld_cores (s : Sys) (g e : Nat) : (s.useHeld g e).cores = s.cores := by simp [Sys.useHeld]

@[simp] theorem collectiveStart_cores (r idx : Nat) (d : Dev) : (collectiveStart r idx d).sys.cores = d.sys.cores := by
  unfold collectiveStart
  split
  · rfl
  · extract_lets a x g snap d1 d2
    have h1 : d1.sys.cores = d.sys.cores := (Sys.onSlot_cores ..).trans (Sys.begin_cores ..)
    clear_value d1
    have h2 : d2.sys.cores = d.sys.cores := by
      unfold d2
      split <;> simp [h1]
    split
    · exact (runAll_sys_cores (fun y e => Dev.ingest_cores ..) _ _).trans h2
    · rfl

@[simp] theorem Sys.dropColl_cores (s : Sys) (g : Nat) : (s.dropColl g).cores = s.cores := by simp [Sys.dropColl]

@[simp] theorem Sys.postSeg_cores (s : Sys) (g owner j : Nat) (c : Coll) (pay : List Byte) : (s.postSeg g owner j c pay).cores = s.cores :=
  (Sys.onColl_cores ..).trans (Sys.onFab_cores ..)

@[simp] theorem Dev.eitherOf_cores (d : Dev) (snap : List Byte) (off : Nat) (now : List Byte) :
    (d.eitherOf snap off now).1.sys.cores = d.sys.cores := by
  simp only [Dev.eitherOf]
  split <;> simp

@[simp] theorem Dev.errBlend_cores (d : Dev) (snap : List Byte) (off : Nat) (now new : List Byte) :
    (d.errBlend snap off now new).1.sys.cores = d.sys.cores := by
  simp only [Dev.errBlend]
  split <;> simp

@[simp] theorem segmentSend_cores (g owner : Nat) (d : Dev) : (segmentSend g owner d).sys.cores = d.sys.cores := by
  unfold segmentSend
  split
  · rfl
  · dsimp only
    split
    · split
      · split <;> simp
      · split
        · simp
        · split
          · split <;> simp
          · simp
    · rfl

@[simp] theorem budgetExpiry_cores (g : Nat) (d : Dev) : (budgetExpiry g d).sys.cores = d.sys.cores := by
  unfold budgetExpiry
  split <;> simp

@[simp] theorem collectiveStalled_cores (g : Nat) (s : Sys) : (collectiveStalled g s).cores = s.cores := by
  unfold collectiveStalled
  split <;> simp

@[simp] theorem collectiveComplete_cores (g : Nat) (d : Dev) : (collectiveComplete g d).sys.cores = d.sys.cores := by
  unfold collectiveComplete
  split <;> simp

/-! ### Resets of partitions -/

@[simp] theorem storeSome_cores (x : PStore) (d : Dev) : (storeSome x d).sys.cores = d.sys.cores := by
  unfold storeSome
  (repeat' split) <;> simp

@[simp] theorem Sys.reportKill_cores (s : Sys) (k : Kill) (inReset : Bool) : (s.reportKill k inReset).cores = s.cores := by simp [Sys.reportKill]

@[simp] theorem Sys.remapEvent_cores (s : Sys) (core action old new : Nat) : (s.remapEvent core action old new).cores = s.cores := by
  unfold Sys.remapEvent
  split <;> simp

@[simp] theorem Sys.action_cores (s : Sys) (what core slot : Nat) : (s.action what core slot).cores = s.cores := by simp [Sys.action]

@[simp] theorem Sys.takeSite_cores (s : Sys) (core : Nat) : (s.takeSite core).cores = s.cores := by
  simp [Sys.takeSite]

@[simp] theorem partitionResetApply_cores (p : Nat) (d : Dev) : (partitionResetApply p d).sys.cores = d.sys.cores := by
  unfold partitionResetApply
  dsimp only
  (repeat' split) <;> simp [Sys.zeroCounts]

/-! ### Faults and repairs -/

@[simp] theorem Sys.stopUnit_cores (s : Sys) (u inst : Nat) : (s.stopUnit u inst).cores = s.cores := by simp [Sys.stopUnit]

@[simp] theorem maskedFault_cores (u inst : Nat) (failed : Bool) (d : Dev) : (maskedFault u inst failed d).sys.cores = d.sys.cores := by
  simp [maskedFault]

@[simp] theorem maskedSummary_cores (u : Nat) (s : Sys) : (maskedSummary u s).cores = s.cores := by simp [maskedSummary]

@[simp] theorem mgmtStop_cores (s : Sys) : (mgmtStop s).cores = s.cores := by
  simp [mgmtStop]

@[simp] theorem Sys.datapathError_cores (s : Sys) (f : FaultIn) : (s.datapathError f).cores = s.cores := by
  unfold Sys.datapathError
  dsimp only
  split <;> simp

@[simp] theorem Sys.attributed_cores (s : Sys) (f : FaultIn) : (s.attributed f).cores = s.cores := by
  unfold Sys.attributed
  split <;> simp

@[simp] theorem Sys.packetLost_cores (s : Sys) (u inst : Nat) (p : Pkt) : (s.packetLost u inst p).cores = s.cores := by
  unfold Sys.packetLost
  split <;> simp

@[simp] theorem Sys.loseAtRouter_cores (s : Sys) (u k : Nat) : (s.loseAtRouter u k).cores = s.cores := by
  unfold Sys.loseAtRouter
  split <;> simp

@[simp] theorem Sys.loseAtExecutor_cores (s : Sys) (st : Nat) : (s.loseAtExecutor st).cores = s.cores := by
  unfold Sys.loseAtExecutor
  split <;> simp

@[simp] theorem Dev.memFault_cores (d : Dev) (f : FaultIn) : (d.memFault f).sys.cores = d.sys.cores := by
  unfold Dev.memFault
  (repeat' split) <;> simp

@[simp] theorem Sys.arrayFault_cores (s : Sys) (f : FaultIn) : (s.arrayFault f).cores = s.cores := by
  refine CoreState.mapBlocks_body _ fun x => ?_
  simp only [Block.body]
  split_ifs <;> rfl

@[simp] theorem detectedFault_cores (f : FaultIn) (d : Dev) : (detectedFault f d).sys.cores = d.sys.cores := by
  simp [detectedFault, Sys.railFault, Sys.clockFault]

end Sys2Proof.Machine
end

section
/-! PROOF. Cores stay sound, part 6: repairs, the debug port, ODP and the acts of written objects leave what soundness depends on. -/

namespace Sys2Proof.Machine

open Sys2Proof

/-! ### Faults and repairs -/

@[simp] theorem Sys.quarantineCore_cores (s : Sys) (core slot : Nat) : (s.quarantineCore core slot).cores = s.cores := by simp [Sys.quarantineCore]

@[simp] theorem Sys.setRemap_cores (s : Sys) (core : Nat) (r : Remap) : (s.setRemap core r).cores = s.cores := by simp [Sys.setRemap]

@[simp] theorem Sys.setRecord_cores (s : Sys) (core site : Nat) : (s.setRecord core site).cores = s.cores := by simp [Sys.setRecord]

@[simp] theorem Sys.power_cores (s : Sys) (site : Nat) (on : Bool) : (s.power site on).cores = s.cores := by simp [Sys.power]

@[simp] theorem Sys.remapReady_cores (s : Sys) (core : Nat) (r : Remap) : (s.remapReady core r).cores = s.cores := by simp [Sys.remapReady]

@[simp] theorem Sys.remapApply_cores (s : Sys) (b : List Byte) (slot : Nat) : (s.remapApply b slot).cores = s.cores := by simp [Sys.remapApply]

@[simp] theorem remapTest_cores (core result : Nat) (s : Sys) : (remapTest core result s).cores = s.cores := by
  unfold remapTest
  dsimp only
  (repeat' split) <;> simp

@[simp] theorem Sys.sampleAgeing_cores (s : Sys) (a : AgeingReading) : (s.sampleAgeing a).cores = s.cores := by simp [Sys.sampleAgeing]

@[simp] theorem ageingSample_cores (a : AgeingReading) (s : Sys) : (ageingSample a s).cores = s.cores := by simp [ageingSample]

/-! ### Images, sealing and the debug port -/

@[simp] theorem Sys.programImage_cores (s : Sys) (b : List Byte) : (s.programImage b).cores = s.cores := by simp [Sys.programImage]

@[simp] theorem Sys.activateApply_cores (s : Sys) (k slot : Nat) : (s.activateApply k slot).cores = s.cores := by simp [Sys.activateApply]

@[simp] theorem Sys.newChallenge_cores (s : Sys) : s.newChallenge.cores = s.cores := by simp [Sys.newChallenge]

@[simp] theorem Sys.bypass_cores (s : Sys) (tdi : Bool) : (s.bypass tdi).cores = s.cores := by simp [Sys.bypass]

@[simp] theorem tapBypass_cores (tdi : Bool) (s : Sys) : (tapBypass tdi s).cores = s.cores := by simp [tapBypass]

@[simp] theorem tapIdcode_cores (s : Sys) : (tapIdcode s).cores = s.cores := by simp [tapIdcode]

@[simp] theorem samplePreload_cores (pins preload : Nat) (s : Sys) : (samplePreload pins preload s).cores = s.cores := by simp [samplePreload]

@[simp] theorem tapExtest_cores (pins : Nat) (s : Sys) : (tapExtest pins s).cores = s.cores := by simp [tapExtest]

@[simp] theorem mgmtHalt_cores (halt : Bool) (s : Sys) : (mgmtHalt halt s).cores = s.cores := by simp [mgmtHalt]

@[simp] theorem mgmtMem_cores (wr : Bool) (addr data : Nat) (s : Sys) : (mgmtMem wr addr data s).cores = s.cores := by simp [mgmtMem]

@[simp] theorem siteScan_cores (site segment : Nat) (s : Sys) : (siteScan site segment s).cores = s.cores := by simp [siteScan]

/-! ### ODP sessions -/

@[simp] theorem Sys.sent_cores (s : Sys) (iface dst dport : Nat) (frame : List Byte) : (s.sent iface dst dport frame).cores = s.cores := by
  simp [Sys.sent]

@[simp] theorem Sys.answer_cores (s : Sys) (k seq op flags : Nat) (payload : List Byte) : (s.answer k seq op flags payload).cores = s.cores := by
  simp [Sys.answer]

@[simp] theorem Sys.respond_cores (s : Sys) (k : Nat) (r : OdpReq) (op a sub : Nat) : (s.respond k r op a sub).cores = s.cores := by
  simp [Sys.respond]

@[simp] theorem Sys.discard_cores (s : Sys) : s.discard.cores = s.cores := by simp [Sys.discard]

theorem Dev.request_cores {r : OdpReq} {op : Nat} {f : Nat → Dev → Dev} (h : ∀ k x, (f k x).sys.cores = x.sys.cores) (d : Dev) :
    (d.request r op f).sys.cores = d.sys.cores := by
  unfold Dev.request
  dsimp only
  split
  · split
    · simp
    · split_ifs <;> simp [h]
  · rfl

@[simp] theorem Sys.endSession_cores (k : Nat) (s : Sys) : (Sys.endSession k s).cores = s.cores := by simp [Sys.endSession]

@[simp] theorem Sys.endSessions_cores (s : Sys) (p : Session → Bool) : (s.endSessions p).cores = s.cores := by simp [Sys.endSessions]

@[simp] theorem Sys.challenge_cores (s : Sys) (k keySlot : Nat) (o : OpenReq) : (s.challenge k keySlot o).cores = s.cores := by simp [Sys.challenge]

@[simp] theorem odpOpen_cores (o : OpenReq) (s : Sys) : (odpOpen o s).cores = s.cores := by
  unfold odpOpen
  (repeat' split) <;> simp [Sys.refuseOpen]

@[simp] theorem odpProve_cores (p : ProveReq) (s : Sys) : (odpProve p s).cores = s.cores := by
  unfold odpProve
  (repeat' split) <;> simp

@[simp] theorem closeRequest_cores (r : OdpReq) (k : Nat) (d : Dev) : (closeRequest r k d).sys.cores = d.sys.cores := by simp [closeRequest]

@[simp] theorem sessionIdle_cores (k : Nat) (s : Sys) : (sessionIdle k s).cores = s.cores := by simp [sessionIdle]

@[simp] theorem datagramDiscard_cores (iface : Nat) (s : Sys) : (datagramDiscard iface s).cores = s.cores := by simp [datagramDiscard]

/-! ### The block manager's acts -/

@[simp] theorem Sys.bmAct_cores (s : Sys) (code member port abort : Nat) : (s.bmAct code member port abort).cores = s.cores := by
  simp [Sys.bmAct]

@[simp] theorem Sys.ask_cores (s : Sys) (r : BmReq) : (s.ask r).1.cores = s.cores := by
  simp [Sys.ask]

@[simp] theorem Sys.askAll_cores (s : Sys) (l : List BmReq) : (s.askAll l).1.cores = s.cores := by
  induction l generalizing s with
  | nil => rfl
  | cons r l ih =>
    simp only [Sys.askAll]
    split <;> simp [ih]

@[simp] theorem Sys.onView_cores (s : Sys) (member port : Nat) (g : PortView → PortView) : (s.onView member port g).cores = s.cores := by
  simp [Sys.onView]

@[simp] theorem Sys.acceptNarrow_cores (member : Nat) (a : PollAnswer) (s : Sys) : (Sys.acceptNarrow member a s).cores = s.cores := by
  simp [Sys.acceptNarrow]

@[simp] theorem Sys.withdrawPort_cores (member : Nat) (p : Nat) (s : Sys) : (Sys.withdrawPort member p s).cores = s.cores := by
  unfold Sys.withdrawPort
  dsimp only
  (repeat' split) <;> simp

@[simp] theorem Sys.withdrawFailed_cores (member : Nat) (a : PollAnswer) (s : Sys) : (Sys.withdrawFailed member a s).cores = s.cores := by
  simp [Sys.withdrawFailed]

@[simp] theorem Sys.remapFailed_cores (member : Nat) (a : PollAnswer) (s : Sys) : (Sys.remapFailed member a s).cores = s.cores := by
  simp only [Sys.remapFailed]
  split
  · rfl
  · refine runAll_cores (fun c x => ?_) _ _
    split
    · split <;> split <;> simp
    · rfl

@[simp] theorem Sys.masksWritten_cores (s : Sys) (masks : List ((Nat × Nat) × (Nat × Nat))) : (s.masksWritten masks).cores = s.cores := by
  simp [Sys.masksWritten]

@[simp] theorem Sys.spliceFails_cores (s : Sys) (member abort : Nat) : (s.spliceFails member abort).cores = s.cores := by simp [Sys.spliceFails]

@[simp] theorem Sys.postCircuits_cores (s : Sys) (ends : List ((Nat × Nat × Nat) × (Nat × Nat × Nat))) :
    (s.postCircuits ends).1.cores = s.cores :=
  List.foldlRecOn (motive := fun x : Sys × List Nat => x.1.cores = s.cores) ends _ rfl fun x hx e _ => by simp [hx]

@[simp] theorem Sys.deviceFailed_cores (member : Nat) (s : Sys) : (Sys.deviceFailed member s).cores = s.cores := by
  unfold Sys.deviceFailed
  split
  · rfl
  · split
    · rfl
    · dsimp only
      split <;> simp

@[simp] theorem Sys.spliceEnds_cores (s : Sys) : s.spliceEnds.cores = s.cores := by
  simp [Sys.spliceEnds]

@[simp] theorem Sys.spliceConnect_cores (s : Sys) (sp : Splice) : (s.spliceConnect sp).cores = s.cores := by
  unfold Sys.spliceConnect
  dsimp only
  split <;> simp

@[simp] theorem Sys.spliceRoutes_cores (s : Sys) (sp : Splice) : (s.spliceRoutes sp).cores = s.cores := by
  unfold Sys.spliceRoutes
  dsimp only
  split <;> simp

@[simp] theorem Sys.circuitAck_cores (s : Sys) (seq status : Nat) : (s.circuitAck seq status).cores = s.cores := by
  unfold Sys.circuitAck
  dsimp only
  split <;> simp

@[simp] theorem Sys.spliceGoOn_cores (s : Sys) (sp : Splice) : (s.spliceGoOn sp).cores = s.cores := by simp [Sys.spliceGoOn]

@[simp] theorem spliceTimeout_cores (s : Sys) : (spliceTimeout s).cores = s.cores := by
  unfold spliceTimeout
  split <;> simp

/-! ### Objects as read -/

@[simp] theorem readRequest_cores (r : OdpReq) (k : Nat) (d : Dev) : (readRequest r k d).sys.cores = d.sys.cores := by
  unfold readRequest
  split <;> simp

@[simp] theorem readBlockRequest_cores (r : OdpReq) (k : Nat) (d : Dev) : (readBlockRequest r k d).sys.cores = d.sys.cores := by
  unfold readBlockRequest
  split <;> simp [Sys.segmentOut]

/-! ### Commits -/

@[simp] theorem Sys.setPending_cores (s : Sys) (i : Nat) (p : Pending) : (s.setPending i p).cores = s.cores := by simp [Sys.setPending]

@[simp] theorem Sys.takeValues_cores (s : Sys) (vs : List (Nat × List Byte)) : (s.takeValues vs).cores = s.cores := by simp [Sys.takeValues]

@[simp] theorem Dev.commit6110_cores (d : Dev) (old : Nat) : (d.commit6110 old).sys.cores = d.sys.cores := by simp [Dev.commit6110]

@[simp] theorem Dev.commitSlot_cores (old : List (List Byte)) (ranks : List (List Nat)) (g : Nat) (d : Dev) :
    (Dev.commitSlot old ranks g d).sys.cores = d.sys.cores := by simp [Dev.commitSlot]

@[simp] theorem Dev.commitPart_cores (sets : List (Nat × PartSet)) (d : Dev) : (Dev.commitPart sets d).sys.cores = d.sys.cores := by
  simp [Dev.commitPart]

@[simp] theorem Dev.commitApply_cores (d : Dev) (slot i : Nat) : (d.commitApply slot i).sys.cores = d.sys.cores := by simp [Dev.commitApply]

/-! ### Acts of written objects -/

@[simp] theorem Sys.unlock_cores (s : Sys) (k : Nat) : (s.unlock k).cores = s.cores := by simp [Sys.unlock]

@[simp] theorem Sys.clearSets_cores (s : Sys) (p mask : Nat) : (s.clearSets p mask).cores = s.cores := by simp [Sys.clearSets]

@[simp] theorem Sys.setThresholds_cores (s : Sys) (p : Nat) (v : List Byte) : (s.setThresholds p v).cores = s.cores := by simp [Sys.setThresholds]

@[simp] theorem Sys.reject_cores (s : Sys) (k : Nat) (r : OdpReq) (v : List Byte) (code sub : Nat) : (s.reject k r v code sub).cores = s.cores := by
  simp [Sys.reject, Sys.noteReject]

@[simp] theorem Sys.clearBlock_cores (s : Sys) (k : Nat) : (s.clearBlock k).cores = s.cores := by simp [Sys.clearBlock]

/-! ### The journal -/

@[simp] theorem Sys.journalReject_cores (s : Sys) (j : JPending) (a : Nat) : (s.journalReject j a).cores = s.cores := by simp [Sys.journalReject]

@[simp] theorem Sys.flashFails_cores (s : Sys) : s.flashFails.cores = s.cores := by simp [Sys.flashFails]

@[simp] theorem Sys.otherArea_cores (s : Sys) : s.otherArea.cores = s.cores := by simp [Sys.otherArea]

end Sys2Proof.Machine
end

section
/-! PROOF. Cores stay sound, part 7: writes of core store bytes keep all but the bytes of a block, which stay canonical (R220 to R222,
R226, R229). -/

namespace Sys2Proof.Machine

open Sys2Proof

/-! ### Writes of core store bytes

A write of core store bytes, with the waits it ends, keeps all but the bytes of its block, and those in canonical form. -/

/-- The blocks' bytes and accumulators are in canonical form. -/
def CoreState.BlocksOk (c : CoreState) : Prop := ∀ b ∈ c.blocks, cellsWf b.store = true ∧ b.acc.wf = true

/-- What the soundness of the cores depends on, the blocks apart. -/
def Sys.flow (s : Sys) : CoreState := { s.cores with blocks := [] }

/-- From `s` to `t` of all that soundness depends on only the blocks' bytes have changed, and they stay canonical. -/
structure Sys.OnlyBytes (s t : Sys) : Prop where
  flow : t.flow = s.flow
  blocks : s.core.BlocksOk → t.core.BlocksOk

theorem CoreState.blocksOk_body (c : CoreState) : c.body.BlocksOk ↔ c.BlocksOk := by
  simp [CoreState.BlocksOk, CoreState.body, Block.body]

theorem CoreState.ok_iff (c : CoreState) : c.Ok ↔ ({ c with blocks := [] } : CoreState).Ok ∧ c.BlocksOk := by
  simp only [CoreState.Ok, CoreState.BlocksOk, CoreState.FlightOk, CoreState.flying, List.not_mem_nil, false_implies, implies_true, true_and]
  tauto

theorem Sys.flow_ok (s : Sys) : s.core.Ok ↔ s.flow.Ok ∧ s.core.BlocksOk := by
  rw [← CoreState.body_ok, CoreState.ok_iff, CoreState.blocksOk_body]
  rfl

namespace Sys.OnlyBytes

variable {s t u : Sys} {d : Dev}

theorem keeps (h : s.OnlyBytes t) : s.KeepsCores t := fun hs => by
  rw [Sys.flow_ok] at hs ⊢
  exact ⟨h.flow ▸ hs.1, h.blocks hs.2⟩

theorem of_cores (h : t.cores = s.cores) : s.OnlyBytes t where
  flow := by rw [Sys.flow, Sys.flow, h]
  blocks hs := (CoreState.blocksOk_body _).1 (by
    rw [Sys.cores, Sys.cores] at h
    rwa [h, CoreState.blocksOk_body])

theorem refl (s : Sys) : s.OnlyBytes s := ⟨rfl, id⟩

theorem trans (h : s.OnlyBytes t) (k : t.OnlyBytes u) : s.OnlyBytes u := ⟨k.flow.trans h.flow, k.blocks ∘ h.blocks⟩

theorem cores (h : s.OnlyBytes t) (e : u.cores = t.cores) : s.OnlyBytes u := h.trans (.of_cores e)

theorem ite {c : Prop} [Decidable c] (ht : s.OnlyBytes t) (hu : s.OnlyBytes u) : s.OnlyBytes (if c then t else u) := by
  split
  · exact ht
  · exact hu

theorem dite {c : Prop} [Decidable c] {a b : Dev} (ha : s.OnlyBytes a.sys) (hb : s.OnlyBytes b.sys) :
    s.OnlyBytes (if c then a else b).sys := by
  split
  · exact ha
  · exact hb

theorem runAll {β : Type} {f : β → Sys → Sys} (h : ∀ b x, Sys.OnlyBytes x (f b x)) (l : List β) (s : Sys) : s.OnlyBytes (runAll f l s) :=
  runAll_inv f (fun x => s.OnlyBytes x) (fun b x hx => hx.trans (h b x)) l s (refl s)

theorem drunAll {β : Type} {f : β → Dev → Dev} (h : ∀ b x, Sys.OnlyBytes x.sys (f b x).sys) (l : List β) (d : Dev) :
    d.sys.OnlyBytes (Machine.runAll f l d).sys :=
  runAll_inv f (fun x => d.sys.OnlyBytes x.sys) (fun b x hx => hx.trans (h b x)) l d (refl _)

end Sys.OnlyBytes

section
variable (s : Sys)

theorem Sys.csWrite_onlyBytes (id a : Nat) (bs : List Byte) : s.OnlyBytes (s.csWrite id a bs) where
  flow := rfl
  blocks h b hb := by
    obtain ⟨x, hx, rfl⟩ := List.mem_map.1 hb
    obtain ⟨hst, hacc⟩ := h x hx
    split
    · exact ⟨cellsWrite_wf a bs hst, hacc⟩
    · exact ⟨hst, hacc⟩

theorem Sys.csStore_onlyBytes (id a : Nat) (bs : List Byte) : s.OnlyBytes (s.csStore id a bs) :=
  (s.csWrite_onlyBytes id a bs).cores (Sys.wakeArr_cores ..)

theorem Sys.bumpCounter_onlyBytes (id a : Nat) : s.OnlyBytes (s.bumpCounter id a) := s.csStore_onlyBytes ..

theorem csDo_onlyBytes (a : CsAcc) : s.OnlyBytes (csDo a s) := by
  unfold csDo
  dsimp only
  split
  · exact .of_cores (Sys.hold_cores ..)
  · exact s.csStore_onlyBytes ..
  · exact (s.csStore_onlyBytes ..).cores (Sys.holdAtom_cores ..)

theorem Sys.csRun_onlyBytes (p : Nat → CsAcc → Bool) : s.OnlyBytes (s.csRun p) :=
  (Sys.OnlyBytes.of_cores (by simp)).trans (.runAll (fun a x => csDo_onlyBytes x a) _ _)

theorem Sys.csOwn_onlyBytes (gid : Gid) (lns : List Nat) (block : Nat) : s.OnlyBytes (s.csOwn gid lns block) := s.csRun_onlyBytes _

theorem Sys.csPend_onlyBytes (f : List CsAcc → List CsAcc) : s.OnlyBytes (s.onCore (fun c => { c with csPend := f c.csPend })) :=
  .of_cores (by rfl)

theorem Sys.csFence_onlyBytes (gid : Gid) (lns : List Nat) (block scope : Nat) : s.OnlyBytes (s.csFence gid lns block scope) :=
  .ite ((s.csRun_onlyBytes _).trans (Sys.csPend_onlyBytes _ (List.map _))) (s.csOwn_onlyBytes ..)

theorem Sys.csEnter_onlyBytes (block : Nat) (now : Bool) (as : List CsAcc) : s.OnlyBytes (s.csEnter block now as) :=
  (Sys.OnlyBytes.of_cores (by simp)).trans (Sys.csRun_onlyBytes _ _)

theorem Sys.csSome_onlyBytes (core : Nat) : s.OnlyBytes (s.csSome core) := (Sys.OnlyBytes.of_cores (by simp)).trans (Sys.csRun_onlyBytes _ _)

theorem Sys.csResult_onlyBytes (gid : Gid) (dests : List Nat) : s.OnlyBytes (s.csResult gid dests) := s.csRun_onlyBytes _

theorem Sys.drainWrite_onlyBytes (o : MxOp) (ws : List (Nat × Byte)) : s.OnlyBytes (s.drainWrite o ws) := by
  unfold Sys.drainWrite
  extract_lets ctr out later s1
  have h : s.OnlyBytes s1 := (Sys.OnlyBytes.of_cores (s.drew_cores _)).trans (.runAll (fun w x => x.csWrite_onlyBytes ..) _ _)
  refine h.cores ?_
  simp

theorem Sys.drainProgress_onlyBytes (id : Nat) : s.OnlyBytes (s.drainProgress id) := by
  unfold Sys.drainProgress
  split
  · exact .refl s
  · split
    · exact .refl s
    · refine .ite (.refl s) ?_
      dsimp only
      split
      · exact .refl s
      · refine .ite ((Sys.OnlyBytes.of_cores ?_).trans (Sys.drainWrite_onlyBytes ..)) (.refl s)
        simp

theorem enterCs_onlyBytes (i : Issue) (now : Bool) (as : List CsAcc) : s.OnlyBytes (enterCs i now as s) :=
  (s.drainProgress_onlyBytes _).trans (Sys.csEnter_onlyBytes ..)

theorem stCBody_onlyBytes (i : Issue) : s.OnlyBytes (stCBody i s) :=
  (Sys.OnlyBytes.of_cores (Sys.drew_cores ..)).trans (enterCs_onlyBytes ..)

theorem atomRelease_onlyBytes (core : Bool) (i : Issue) : s.OnlyBytes (atomRelease core i s) :=
  .ite ((s.csFence_onlyBytes ..).cores (Sys.raiseVis_cores ..)) (.refl s)

theorem atomCBody_onlyBytes (i : Issue) : s.OnlyBytes (atomCBody i s) := (atomRelease_onlyBytes s ..).trans (enterCs_onlyBytes ..)

theorem fenceBody_onlyBytes (scope : Nat) (i : Issue) : s.OnlyBytes (fenceBody scope i s) :=
  .ite ((s.csFence_onlyBytes ..).cores (Sys.raiseVis_cores ..)) (s.csFence_onlyBytes ..)

end

theorem copyMove_onlyBytes (c : Copy) (val : Nat → Byte) (offs : List Nat) (d : Dev) : d.sys.OnlyBytes (copyMove c val offs d).sys := by
  refine .dite (.of_cores ?_) (.runAll (fun o x => x.csWrite_onlyBytes ..) _ _)
  simp [copyPiece]

/-! ### Fabric operations and decode queues that end in core store -/

section
variable (s : Sys)

theorem Sys.opDone_onlyBytes (o : FabOp) : s.OnlyBytes (s.opDone o) := by
  unfold Sys.opDone
  extract_lets dead s1
  have h : s.OnlyBytes s1 := .of_cores (Sys.onFab_cores ..)
  refine .ite (.ite h ?_) (.ite (h.cores ?_) (.ite (h.cores ?_) (h.cores ?_)))
  case refine_1 => exact ((h.trans (Sys.csWrite_onlyBytes ..)).trans (Sys.bumpCounter_onlyBytes ..)).cores (Sys.pcount_cores ..)
  all_goals simp [Sys.segAnswered]

theorem Sys.fenceDone_onlyBytes (x : FabFence) : s.OnlyBytes (Sys.fenceDone x s) :=
  .ite (.refl s) ((Sys.OnlyBytes.of_cores (Sys.onFab_cores ..)).trans (Sys.bumpCounter_onlyBytes ..))

theorem Sys.ackSeq_onlyBytes (part key seq : Nat) : s.OnlyBytes (s.ackSeq part key seq) :=
  (Sys.OnlyBytes.of_cores (Sys.onFab_cores ..)).trans (.runAll (fun x y => y.fenceDone_onlyBytes x) _ _)

@[simp] theorem Sys.opStatus_cores (o : FabOp) (r : FabReq) (status : Nat) : (s.opStatus o r status).cores = s.cores := by
  simp [Sys.opStatus]

theorem Sys.discardReq_onlyBytes (r : FabReq) : s.OnlyBytes (Sys.discardReq r s) := by
  have h : s.OnlyBytes (s.onFab (fun f =>
    { f with reqs := f.reqs.filter (fun x => x.uid != r.uid), queue := f.queue.filter (fun u => u != r.uid) })) := .of_cores (Sys.onFab_cores ..)
  exact .ite (h.trans (Sys.ackSeq_onlyBytes ..)) h

theorem Sys.answered_onlyBytes (r : FabReq) (status : Nat) : s.OnlyBytes (s.answered r status) := by
  have h : s.OnlyBytes (Sys.discardReq r s) := s.discardReq_onlyBytes r
  unfold Sys.answered
  change s.OnlyBytes (match (Sys.discardReq r s).op? r.op with
    | none => Sys.discardReq r s
    | some o => _)
  split
  · exact h
  · have h2 {o : FabOp} : s.OnlyBytes (((Sys.discardReq r s).opStatus o r status).onOp o.id (fun x => { x with left := x.left - 1 })) :=
      h.cores (by simp)
    dsimp only
    split
    · exact h2
    · exact .ite (h2.trans (Sys.opDone_onlyBytes ..)) h2

theorem Sys.endOps_onlyBytes (ends : FabOp → Bool) : s.OnlyBytes (s.endOps ends) :=
  (Sys.OnlyBytes.of_cores (Sys.onFab_cores ..)).trans (.runAll (fun r x => x.discardReq_onlyBytes r) _ _)

theorem Sys.deliver_onlyBytes (t : Take) (hdr : List Byte) : s.OnlyBytes (s.deliver t hdr) :=
  (s.csWrite_onlyBytes ..).trans (Sys.bumpCounter_onlyBytes ..)

theorem decodeClose_onlyBytes (r idx : Nat) : s.OnlyBytes (decodeClose r idx s) := by
  unfold decodeClose
  split
  · exact .refl s
  next c _ =>
    extract_lets qn q s1 s2 s3
    have h1 : s.OnlyBytes s1 := .of_cores (s.begin_cores ..)
    have h3 : s.OnlyBytes s3 := (h1.trans (.runAll (fun t x => x.deliver_onlyBytes ..) _ _)).cores (Sys.onQueue_cores ..)
    exact .ite (.ite (.ite (h3.cores (Sys.completeUid_cores ..)) (h3.cores (Sys.onQueue_cores ..))) (h1.cores (Sys.completeUid_cores ..)))
      (h1.cores (Sys.completeUid_cores ..))

theorem pushAccept_onlyBytes (qn : Nat) : s.OnlyBytes (pushAccept qn s) := by
  unfold pushAccept
  dsimp only
  split
  · exact .refl s
  · refine .ite (Sys.OnlyBytes.trans (.of_cores ?_) (Sys.bumpCounter_onlyBytes ..)) (.refl s)
    simp

theorem takeHeaderWrite_onlyBytes (qn take : Nat) : s.OnlyBytes (takeHeaderWrite qn take s) := by
  unfold takeHeaderWrite
  extract_lets q mine
  split
  · exact .refl s
  · extract_lets b n hdr s1 s2
    refine .ite ?_ (.refl s)
    have h1 : s.OnlyBytes s1 := .runAll (fun r x => x.csWrite_onlyBytes ..) _ _
    have h2 : s.OnlyBytes s2 := h1.trans (s1.deliver_onlyBytes ..)
    refine h2.cores ?_
    simp [Sys.closeDone]

theorem fabFenceBody_onlyBytes (i : Issue) : s.OnlyBytes (fabFenceBody i s) :=
  .ite (.refl s) ((Sys.OnlyBytes.of_cores (Sys.onFab_cores ..)).trans (.runAll (fun x y => y.fenceDone_onlyBytes x) _ _))

end

@[simp] theorem fabBody_cores (i : Issue) (d : Dev) : (fabBody i d).sys.cores = d.sys.cores := by simp [fabBody]

/-! ### Replies -/

section
variable (d : Dev)

theorem Dev.answered_onlyBytes (r : FabReq) (status : Nat) : d.sys.OnlyBytes (d.answered r status).sys := by
  have h : d.sys.OnlyBytes (liftSys (fun s => s.answered r status) d).sys := d.sys.answered_onlyBytes r status
  unfold Dev.answered
  dsimp only
  split
  · exact h
  · exact .dite (h.cores (Dev.writeRange_cores ..)) h

theorem Dev.deliverLocal_onlyBytes (r : FabReq) (bs : List Byte) : d.sys.OnlyBytes (d.deliverLocal r bs).sys := by
  unfold Dev.deliverLocal
  split
  · exact .refl _
  · exact .dite (.refl _) (.dite (.of_cores (Dev.writeRange_cores ..)) (Sys.csStore_onlyBytes ..))

theorem dataReply_onlyBytes (p : Pkt) : d.sys.OnlyBytes (dataReply p d).sys := by
  unfold dataReply
  split
  · exact .refl _
  next s hs =>
    have h : d.sys.OnlyBytes s := .of_cores (Sys.arrive_cores hs)
    split
    · exact h.cores (Sys.uncombine_cores (by simp) ..)
    · split
      · exact h
      · exact .dite ((h.trans (Dev.deliverLocal_onlyBytes { d with sys := s } ..)).trans (Dev.answered_onlyBytes ..)) (.refl _)

theorem resultReply_onlyBytes (p : Pkt) : d.sys.OnlyBytes (resultReply p d).sys := by
  unfold resultReply
  split
  · exact .refl _
  next s hs =>
    have h : d.sys.OnlyBytes s := .of_cores (Sys.arrive_cores hs)
    split
    · refine h.cores (Sys.uncombine_cores (fun q x => ?_) ..)
      split <;> simp
    · split
      · exact h
      · exact .dite (h.trans (Dev.answered_onlyBytes { d with sys := s } ..))
          (.dite ((h.trans (Dev.deliverLocal_onlyBytes { d with sys := s } ..)).trans (Dev.answered_onlyBytes ..)) (.refl _))

theorem ackReply_onlyBytes (p : Pkt) : d.sys.OnlyBytes (ackReply p d).sys := by
  unfold ackReply
  split
  · exact .refl _
  next x s hs =>
    have h : d.sys.OnlyBytes s := .of_cores (Sys.arrive_cores hs)
    refine .dite (h.cores (Sys.branchAnswer_cores ..)) (.dite ?_ ?_)
    · split
      · exact h.cores (Sys.onFab_cores ..)
      · exact h
    · split
      · exact h.trans (Dev.answered_onlyBytes { d with sys := s } ..)
      · exact h

theorem nakReply_onlyBytes (p : Pkt) : d.sys.OnlyBytes (nakReply p d).sys := by
  unfold nakReply
  split
  · exact .refl _
  next x s hs =>
    have h : d.sys.OnlyBytes s := .of_cores (Sys.arrive_cores hs)
    refine .dite (h.cores (Sys.branchAnswer_cores ..)) ?_
    split
    · exact h.cores (Sys.uncombine_cores (by simp) ..)
    · split
      · exact h
      · exact .dite (h.cores (Sys.waitResend_cores ..)) (h.trans (Dev.answered_onlyBytes { d with sys := s } ..))

end

end Sys2Proof.Machine
end

section
/-! PROOF. Cores stay sound, part 8: masks of threads, paths, awaited registers and what an issue books (R178, R179, R185, R189 to R194). -/

namespace Sys2Proof.Machine

open Sys2Proof

/-! ### Masks of threads -/

theorem BitVec.andNot_eq_zero_iff {w : Nat} (m l : BitVec w) : m &&& ~~~l = 0 ↔ ∀ i < w, m.getLsbD i = true → l.getLsbD i = true := by
  constructor
  · intro h i hi hm
    have := congrArg (fun x : BitVec w => x.getLsbD i) h
    simpa [hi, hm] using this
  · intro h
    refine BitVec.eq_of_getLsbD_eq fun i hi => ?_
    have := h i hi
    simp only [BitVec.getLsbD_and, BitVec.getLsbD_not, hi, decide_true, Bool.true_and, BitVec.ofNat_eq_ofNat, BitVec.getLsbD_zero]
    cases hm : m.getLsbD i <;> simp_all

/-- Threads of a mask within the living ones are still within them, some of both having left. -/
theorem BitVec.andNot_and {w : Nat} {m l : BitVec w} (h : m &&& ~~~l = 0) (x : BitVec w) : (m &&& ~~~x) &&& ~~~(l &&& ~~~x) = 0 := by
  rw [andNot_eq_zero_iff] at h ⊢
  intro i hi hm
  simp only [BitVec.getLsbD_and, BitVec.getLsbD_not, hi, decide_true, Bool.true_and, Bool.and_eq_true] at hm ⊢
  exact ⟨h i hi hm.1, hm.2⟩

theorem BitVec.andNot_mono {w : Nat} {m l : BitVec w} (h : m &&& ~~~l = 0) (x : BitVec w) : (m &&& x) &&& ~~~l = 0 := by
  rw [andNot_eq_zero_iff] at h ⊢
  intro i hi hm
  simp only [BitVec.getLsbD_and, Bool.and_eq_true] at hm
  exact h i hi hm.1

/-! ### Paths of a group (R189 to R194) -/

theorem findEntry_alive {parked live : BitVec 32} {l : List Path} {e : Path} {t : List Path} (h : findEntry parked live l = some (e, t)) :
    e.mask &&& ~~~live = 0 := by
  induction l generalizing e t with
  | nil => cases h
  | cons x l ih =>
    simp only [findEntry] at h
    split at h
    · cases h
      rw [BitVec.andNot_eq_zero_iff]
      intro i hi hm
      simp only [BitVec.getLsbD_and, Bool.and_eq_true] at hm
      exact hm.1.2
    · split at h
      · cases h
      next hx =>
        cases h
        exact ih hx

/-- What a group's pops change: its place, its path and what it waits for. -/
theorem Group.settleN_eq (n : Nat) (g : Group) : ∃ pc m st stk w,
    Group.settleN n g = { g with pc := pc, mask := m, stop := st, stack := stk, wait := w } := by
  induction n generalizing g with
  | zero => exact ⟨_, _, _, _, _, rfl⟩
  | succ n ih =>
    simp only [Group.settleN]
    split
    · exact ⟨_, _, _, _, _, rfl⟩
    · split
      next e t _ =>
        obtain ⟨pc, m, st, stk, w, h⟩ := ih { g with pc := e.addr, mask := e.mask, stop := e.stop, stack := t }
        exact ⟨pc, m, st, stk, w, h⟩
      · split <;> exact ⟨_, _, _, _, _, rfl⟩

section
variable (g : Group)

theorem Group.settle_eq : ∃ pc m st stk w, g.settle = { g with pc := pc, mask := m, stop := st, stack := stk, wait := w } :=
  Group.settleN_eq _ g

@[simp] theorem Group.settle_gid : g.settle.gid = g.gid := by
  obtain ⟨pc, m, st, stk, w, h⟩ := g.settle_eq
  rw [h]

@[simp] theorem Group.settle_block : g.settle.block = g.block := by
  obtain ⟨pc, m, st, stk, w, h⟩ := g.settle_eq
  rw [h]

@[simp] theorem Group.settle_busy : g.settle.busy = g.busy := by
  obtain ⟨pc, m, st, stk, w, h⟩ := g.settle_eq
  rw [h]

@[simp] theorem Group.settle_regs : g.settle.regs = g.regs := by
  obtain ⟨pc, m, st, stk, w, h⟩ := g.settle_eq
  rw [h]

@[simp] theorem Group.settle_preds : g.settle.preds = g.preds := by
  obtain ⟨pc, m, st, stk, w, h⟩ := g.settle_eq
  rw [h]

@[simp] theorem Group.settle_live : g.settle.live = g.live := by
  obtain ⟨pc, m, st, stk, w, h⟩ := g.settle_eq
  rw [h]

@[simp] theorem Group.settle_parked : g.settle.parked = g.parked := by
  obtain ⟨pc, m, st, stk, w, h⟩ := g.settle_eq
  rw [h]

/-- A group on a path that has not ended stays on it. -/
theorem Group.settle_of_path (hm : g.mask ≠ 0) (hs : g.stop ≠ some g.pc) : g.settle = g := by
  rw [Group.settle, Group.settleN, if_pos ⟨hm, hs⟩]

variable {g}

theorem Group.Ok.settle (h : g.Ok) : g.settle.Ok := by
  unfold Group.settle
  generalize g.stack.length + 1 = n
  induction n generalizing g with
  | zero => exact h
  | succ n ih =>
    simp only [Group.settleN]
    split
    · exact h
    · obtain ⟨hregs, hpreds, -⟩ := id h
      split
      next e t he => exact ih ⟨hregs, hpreds, findEntry_alive he⟩
      · split <;> exact h

@[simp] theorem Group.resume_gid : g.resume.gid = g.gid := by
  unfold Group.resume
  split <;> simp

@[simp] theorem Group.resume_busy : g.resume.busy = g.busy := by
  unfold Group.resume
  split <;> simp

theorem Group.Ok.resume (h : g.Ok) : g.resume.Ok := by
  unfold Group.resume
  split
  · exact h
  · obtain ⟨hregs, hpreds, -⟩ := h
    exact Group.Ok.settle ⟨hregs, hpreds, by simp⟩

theorem Group.take_rest (vals : List (Nat × Nat)) (g : Group) :
    ∃ regs preds, g.take vals = { g with regs := regs, preds := preds } ∧ (g.Ok → regs.wf = true ∧ preds.length = 7) := by
  refine runAll_inv _ (fun x : Group => ∃ regs preds, x = { g with regs := regs, preds := preds } ∧ (g.Ok → NMap.wf regs = true ∧ preds.length = 7))
    (fun kv x hx => ?_) vals g ⟨g.regs, g.preds, rfl, fun h => ⟨h.1, h.2.1⟩⟩
  obtain ⟨regs, preds, rfl, hx⟩ := hx
  split
  · exact ⟨_, _, rfl, fun h => ⟨NMap.set_wf _ _ (hx h).1, (hx h).2⟩⟩
  · exact ⟨_, _, rfl, fun h => ⟨(hx h).1, (modNth_length _ _ _).trans (hx h).2⟩⟩

end

/-! ### Groups, awaited registers and instructions in flight (R179, R185 to R188) -/

/-- Two instructions in flight of one group write no register both. -/
def Apart (x y : Gid × List Nat) : Prop := x.1 = y.1 → ∀ r ∈ x.2, r ∉ y.2

theorem Apart.symm {x y : Gid × List Nat} (h : Apart x y) : Apart y x := fun e r hr hx => h e.symm r hx hr

/-- The registers an instruction in flight will write are awaited in its group. -/
def Awaited (groups : List Group) (x : Gid × List Nat) : Prop := ∀ r ∈ x.2, ∃ g ∈ groups, g.gid = x.1 ∧ r ∈ g.busy

/-- The instructions in flight are awaited in their groups, each by itself. -/
def Flight (groups : List Group) (flying : List (Gid × List Nat)) : Prop := (∀ x ∈ flying, Awaited groups x) ∧ flying.Pairwise Apart

theorem CoreState.flightOk_iff (c : CoreState) : c.FlightOk ↔ Flight c.groups c.flying ∧ ∀ k ∈ c.results, k.dests ≠ [] := and_assoc.symm

theorem Flight.perm {groups : List Group} {l l' : List (Gid × List Nat)} (hp : l.Perm l') (h : Flight groups l) : Flight groups l' :=
  ⟨fun x hx => h.1 x (hp.mem_iff.2 hx), (hp.pairwise_iff Apart.symm).1 h.2⟩

theorem Flight.sublist {groups : List Group} {l l' : List (Gid × List Nat)} (hs : l'.Sublist l) (h : Flight groups l) : Flight groups l' :=
  ⟨fun x hx => h.1 x (hs.subset hx), h.2.sublist hs⟩

/-- Groups that keep their places and what they await keep their instructions in flight. -/
theorem Flight.groups {groups groups' : List Group} {l : List (Gid × List Nat)} (h : Flight groups l)
    (hg : ∀ x ∈ groups, ∀ r ∈ x.busy, ∃ y ∈ groups', y.gid = x.gid ∧ r ∈ y.busy) : Flight groups' l :=
  ⟨fun x hx r hr => by
    obtain ⟨g, hm, hgid, hbusy⟩ := h.1 x hx r hr
    obtain ⟨y, hy, hyg, hyb⟩ := hg g hm r hbusy
    exact ⟨y, hy, hyg.trans hgid, hyb⟩, h.2⟩

section
variable {c : CoreState} {s : Sys}

theorem CoreState.Ok.mapGroups (h : c.Ok) {f : Group → Group}
    (hf : ∀ x ∈ c.groups, (f x).gid = x.gid ∧ (f x).busy = x.busy ∧ (f x).Ok) : ({ c with groups := c.groups.map f } : CoreState).Ok := by
  obtain ⟨hn, -, hb, hst, hcp, hfl⟩ := h
  rw [CoreState.flightOk_iff] at hfl
  have hmap : (c.groups.map f).map Group.gid = c.groups.map Group.gid := by
    rw [List.map_map]
    exact List.map_congr_left fun x hx => (hf x hx).1
  refine ⟨hmap ▸ hn, fun y hy => ?_, hb, hst, hcp, (CoreState.flightOk_iff _).2 ⟨hfl.1.groups fun x hx r hr => ?_, hfl.2⟩⟩
  · obtain ⟨x, hx, rfl⟩ := List.mem_map.1 hy
    exact (hf x hx).2.2
  · exact ⟨f x, List.mem_map_of_mem hx, (hf x hx).1, (hf x hx).2.1 ▸ hr⟩

/-- An update of a group that keeps its place and what it awaits. -/
theorem Sys.onGroup_ok (h : s.core.Ok) {gid : Gid} {f : Group → Group}
    (hf : ∀ x ∈ s.core.groups, x.gid = gid → (f x).gid = x.gid ∧ (f x).busy = x.busy ∧ (f x).Ok) : (s.onGroup gid f).core.Ok := by
  obtain ⟨-, hg, -⟩ := id h
  refine h.mapGroups fun x hx => ?_
  split
  next e => exact hf x hx (by simpa using e)
  · exact ⟨rfl, rfl, hg x hx⟩

/-- Groups that await no register may leave. -/
theorem Sys.reap_keepsCores (s : Sys) (gid : Gid) : s.KeepsCores (s.reap gid) := by
  rintro ⟨hn, hg, hb, hst, hcp, hfl⟩
  rw [CoreState.flightOk_iff] at hfl
  refine ⟨hn.sublist (List.filter_sublist.map _), fun x hx => hg x (List.mem_filter.1 hx).1, hb, hst, hcp,
    (CoreState.flightOk_iff _).2 ⟨hfl.1.groups fun x hx r hr => ⟨x, List.mem_filter.2 ⟨hx, ?_⟩, rfl, hr⟩, hfl.2⟩⟩
  have : (x.busy == []) = false := beq_eq_false_iff_ne.2 (List.ne_nil_of_mem hr)
  simp [this]

theorem Sys.settle_keepsCores (s : Sys) (gid : Gid) : s.KeepsCores (s.settle gid) := fun h =>
  (Sys.reap_keepsCores _ gid) (Sys.onGroup_ok h fun x hx _ => ⟨x.settle_gid, x.settle_busy, (h.2.1 x hx).settle⟩)

/-- What a group is once an instruction has issued: further on, and awaiting its destinations too. -/
def Group.booked (g : Group) (dests : List Nat) (n : Nat) : Group :=
  { g with pc := g.pc + 1, busy := g.busy ++ dests.filter (fun r => !g.busy.contains r), lastIssue := n }

theorem Group.mem_booked_busy (g : Group) (dests : List Nat) (n r : Nat) : r ∈ (g.booked dests n).busy ↔ r ∈ g.busy ∨ r ∈ dests := by
  simp only [Group.booked, List.mem_append, List.mem_filter, Bool.not_eq_true', List.contains_eq_mem, decide_eq_false_iff_not]
  tauto

theorem Sys.book_groups (s : Sys) (i : Issue) :
    (s.book i).core.groups = s.core.groups.map (fun x => if x.gid == i.grp.gid then x.booked i.info.dests (s.core.nextId + 1) else x) := rfl

/-- An instruction of a group that awaits none of its destinations enters a collector (R178, R179, R185). -/
theorem Sys.book_ok (h : s.core.Ok) {i : Issue} (hex : ∃ x ∈ s.core.groups, x.gid = i.grp.gid)
    (hfree : ∀ x ∈ s.core.groups, x.gid = i.grp.gid → ∀ r ∈ i.info.dests, r ∉ x.busy) : (s.book i).core.Ok := by
  obtain ⟨hn, hg, hb, hst, hcp, hfl⟩ := h
  rw [CoreState.flightOk_iff] at hfl
  obtain ⟨⟨hfl, hpw⟩, hres⟩ := hfl
  have hmap : (s.book i).core.groups.map Group.gid = s.core.groups.map Group.gid := by
    rw [Sys.book_groups, List.map_map]
    refine List.map_congr_left fun x _ => ?_
    simp only [Function.comp_apply]
    split <;> rfl
  have hflying : Flight s.core.groups s.core.flying := ⟨hfl, hpw⟩
  have hbooked : Flight (s.book i).core.groups s.core.flying := hflying.groups fun x hx r hr => by
    refine ⟨_, List.mem_map_of_mem hx, ?_⟩
    split
    · exact ⟨rfl, (x.mem_booked_busy _ _ _).2 (.inl hr)⟩
    · exact ⟨rfl, hr⟩
  have hnew : Awaited (s.book i).core.groups (i.grp.gid, i.info.dests) := fun r hr => by
    obtain ⟨x, hx, hgid⟩ := hex
    refine ⟨_, List.mem_map_of_mem hx, ?_⟩
    rw [if_pos (by simpa using hgid)]
    exact ⟨hgid, (x.mem_booked_busy _ _ _).2 (.inr hr)⟩
  have hall : Flight (s.book i).core.groups ((i.grp.gid, i.info.dests) :: s.core.flying) := by
    refine ⟨fun x hx => ?_, List.pairwise_cons.2 ⟨fun x hx e r hr hrx => ?_, hpw⟩⟩
    · obtain rfl | hx := List.mem_cons.1 hx
      · exact hnew
      · exact hbooked.1 x hx
    · obtain ⟨g, hm, hgid, hbusy⟩ := hfl x hx r hrx
      exact hfree g hm (hgid.trans e.symm) r hr hbusy
  have hperm : (s.book i).core.flying.Perm ((i.grp.gid, i.info.dests) :: s.core.flying) := by
    simp only [CoreState.flying, Sys.book, Sys.onCore_core, Sys.onGroup, List.map_append, List.map_cons, List.map_nil]
    simp
  refine ⟨hmap ▸ hn, fun y hy => ?_, hb, hst, hcp, (CoreState.flightOk_iff _).2 ⟨hall.perm hperm.symm, hres⟩⟩
  obtain ⟨x, hx, rfl⟩ := List.mem_map.1 hy
  split <;> exact hg x hx

end

end Sys2Proof.Machine
end

section
/-! PROOF. Cores stay sound, part 9: from collectors to results, and from results to registers (R187, R188). -/

namespace Sys2Proof.Machine

open Sys2Proof

/-! ### From collectors to results, and from results to registers (R187, R188) -/

/-- An instruction that leaves its collector stays in flight where it has a result. -/
theorem laneDispatch_keepsCores (s : Sys) (gid : Gid) : s.KeepsCores (laneDispatch gid s) := by
  unfold laneDispatch
  split
  · exact .refl s
  next c hc =>
    refine Sys.KeepsCores.trans ?_ (Sys.reap_keepsCores _ gid)
    have hmem : c ∈ s.core.collectors := List.mem_of_find?_eq_some hc
    obtain ⟨hgid, -⟩ : c.gid = gid ∧ _ := by simpa using List.find?_some hc
    subst hgid
    rintro ⟨hn, hg, hb, hst, hcp, hfl⟩
    rw [CoreState.flightOk_iff] at hfl
    obtain ⟨hfl, hres⟩ := hfl
    have hout := hfl.perm (((List.perm_cons_erase hmem).map (fun k : Collector => (k.gid, k.dests))).append_right _)
    refine ⟨hn, hg, hb, hst, hcp, (CoreState.flightOk_iff _).2 ?_⟩
    simp only [Sys.onCore_core, CoreState.flying]
    by_cases hd : c.dests = []
    · rw [if_pos hd]
      exact ⟨hout.sublist (List.sublist_cons_self ..), hres⟩
    · rw [if_neg hd]
      refine ⟨hout.perm ?_, fun k hk => ?_⟩
      · simp only [List.map_append, List.map_cons, List.map_nil, List.cons_append, ← List.append_assoc]
        exact (List.perm_append_singleton _ _).symm
      · obtain hk | hk := List.mem_append.1 hk
        · exact hres k hk
        · rw [List.mem_singleton.1 hk]
          exact hd

/-- The results on their way, by group and destinations. -/
def CoreState.heads (c : CoreState) : List (Gid × List Nat) := c.results.map (fun k => (k.gid, k.dests))

/-- Results on their way differ in their groups or in their destinations. -/
theorem CoreState.Ok.heads_nodup {c : CoreState} (h : c.Ok) : c.heads.Nodup := by
  obtain ⟨-, -, -, -, -, -, hpw, hres⟩ := h
  have h2 : c.heads.Pairwise Apart := (List.pairwise_append.1 hpw).2.1
  refine h2.imp_of_mem fun {x y} hx _ hap hxy => ?_
  obtain ⟨k, hk, rfl⟩ := List.mem_map.1 hx
  obtain ⟨r, hr⟩ := List.exists_mem_of_ne_nil _ (hres k hk)
  exact hap (congrArg Prod.fst hxy) r hr (congrArg Prod.snd hxy ▸ hr)

/-- What the bytes of blocks leave of the results. -/
theorem Sys.OnlyBytes.heads {s t : Sys} (h : s.OnlyBytes t) : t.core.heads = s.core.heads := by
  have := congrArg (fun c : CoreState => c.results.map (fun k => (k.gid, k.dests))) h.flow
  simpa [Sys.flow, Sys.cores, CoreState.body, Result.body, Function.comp_def, CoreState.heads] using this

/-- What the bytes of blocks leave of the groups. -/
theorem Sys.OnlyBytes.groups {s t : Sys} (h : s.OnlyBytes t) : t.core.groups.map Group.body = s.core.groups.map Group.body := by
  simpa [Sys.flow, Sys.cores, CoreState.body] using congrArg CoreState.groups h.flow

/-- What a group is once a result has been written: with its values, which it no longer awaits. -/
def Group.written (g : Group) (vals : List (Nat × Nat)) (dests : List Nat) : Group :=
  { g.take vals with busy := g.busy.filter (fun x => !dests.contains x) }

theorem Group.written_gid (g : Group) (vals : List (Nat × Nat)) (dests : List Nat) : (g.written vals dests).gid = g.gid := by
  obtain ⟨regs, preds, e, -⟩ := g.take_rest vals
  rw [Group.written, e]

theorem Group.Ok.written {g : Group} (h : g.Ok) (vals : List (Nat × Nat)) (dests : List Nat) : (g.written vals dests).Ok := by
  obtain ⟨regs, preds, e, hok⟩ := g.take_rest vals
  rw [Group.written, e]
  exact ⟨(hok h).1, (hok h).2, h.2.2⟩

/-- The result has reached its registers, which no longer await it; no other result has changed. -/
theorem writeResult_ok {s : Sys} (h : s.core.Ok) {r : Result} (hr : (r.gid, r.dests) ∈ s.core.heads) :
    (writeResult r s).core.Ok ∧ (writeResult r s).core.heads = s.core.heads.filter (fun x => !(x.1 == r.gid && x.2 == r.dests)) := by
  have hb := s.csResult_onlyBytes r.gid r.dests
  have h' := hb.keeps h
  rw [← hb.heads] at hr ⊢
  unfold writeResult
  generalize s.csResult r.gid r.dests = t at *
  extract_lets t' vals
  refine ⟨Sys.reap_keepsCores _ _ ?_, ?_⟩
  · obtain ⟨hn, hg, hbl, hst, hcp, hfl⟩ := h'
    rw [CoreState.flightOk_iff] at hfl
    obtain ⟨⟨hfl, hpw⟩, hres⟩ := hfl
    obtain ⟨-, hpr, happ⟩ := List.pairwise_append.1 hpw
    let left := t.core.results.filter (fun x => !(x.gid == r.gid && x.dests == r.dests))
    have hapart (x : Gid × List Nat) (hx : x ∈ CoreState.flying { t.core with results := left }) : Apart x (r.gid, r.dests) := by
      obtain hx | hx := List.mem_append.1 hx
      · exact happ x hx _ hr
      · obtain ⟨k, hk, rfl⟩ := List.mem_map.1 hx
        obtain ⟨hk, hne⟩ := List.mem_filter.1 hk
        have : Std.Symm Apart := ⟨fun _ _ hab => hab.symm⟩
        refine List.Pairwise.forall hpr (List.mem_map_of_mem hk) hr fun e => ?_
        simp [(Prod.mk.inj e).1, (Prod.mk.inj e).2] at hne
    have hrest : Flight t.core.groups (CoreState.flying { t.core with results := left }) :=
      Flight.sublist ((List.Sublist.refl _).append (List.filter_sublist.map _)) ⟨hfl, hpw⟩
    refine ⟨?_, fun y hy => ?_, hbl, hst, hcp, (CoreState.flightOk_iff _).2 ⟨⟨fun x hx q hq => ?_, hrest.2⟩, fun k hk => hres k (List.mem_filter.1 hk).1⟩⟩
    · have hmap : (t.core.groups.map (fun x => if x.gid == r.gid then x.written vals r.dests else x)).map Group.gid = t.core.groups.map Group.gid := by
        rw [List.map_map]
        refine List.map_congr_left fun x _ => ?_
        simp only [Function.comp_apply]
        split
        · exact x.written_gid ..
        · rfl
      exact hmap ▸ hn
    · obtain ⟨x, hx, rfl⟩ := List.mem_map.1 hy
      split
      · exact (hg x hx).written ..
      · exact hg x hx
    · obtain ⟨g, hm, hgid, hbusy⟩ := hrest.1 x hx q hq
      refine ⟨_, List.mem_map_of_mem hm, ?_⟩
      split
      next e =>
        refine ⟨(g.written_gid vals r.dests).trans hgid, List.mem_filter.2 ⟨hbusy, ?_⟩⟩
        simpa using hapart x hx (hgid.symm.trans (by simpa using e)) q hq
      · exact ⟨hgid, hbusy⟩
  · simp only [CoreState.heads, Sys.reap, Sys.onGroup, Sys.onCore_core, List.filter_map]
    rfl

/-- The results of a list, each on its way and no two alike, reach their registers. -/
theorem writeResults_ok (l : List Result) {s : Sys} (h : s.core.Ok) (hn : (l.map (fun r => (r.gid, r.dests))).Nodup)
    (hl : ∀ r ∈ l, (r.gid, r.dests) ∈ s.core.heads) : (runAll writeResult l s).core.Ok := by
  induction l generalizing s with
  | nil => exact h
  | cons r l ih =>
    obtain ⟨hr, hn⟩ := List.nodup_cons.1 hn
    obtain ⟨hok, hheads⟩ := writeResult_ok h (hl r List.mem_cons_self)
    refine ih hok hn fun x hx => ?_
    rw [hheads, List.mem_filter]
    refine ⟨hl x (List.mem_cons_of_mem _ hx), ?_⟩
    have hne : (x.gid, x.dests) ≠ (r.gid, r.dests) := fun e => hr (List.mem_map.2 ⟨x, hx, e⟩)
    simpa [Prod.mk.injEq, imp_iff_not_or] using hne

theorem writers_sublist (s : Sys) (core quarter : Nat) (banks : List Nat) (l : List Result) : (writers s core quarter banks l).Sublist l := by
  induction l generalizing banks with
  | nil => exact List.Sublist.refl _
  | cons r t ih =>
    simp only [writers]
    split
    · split
      · exact (ih _).cons r
      · exact (ih _).cons_cons r
    · exact (ih _).cons r

theorem resultWriteback_keepsCores (s : Sys) (core quarter : Nat) : s.KeepsCores (resultWriteback core quarter s) := fun h => by
  have hsub := (writers_sublist s core quarter [] s.core.results).map (fun r : Result => (r.gid, r.dests))
  exact (Sys.csSome_onlyBytes _ core).keeps
    (writeResults_ok _ h (h.heads_nodup.sublist hsub) fun r hr => hsub.subset (List.mem_map_of_mem hr))

end Sys2Proof.Machine
end

section
/-! PROOF. Cores stay sound, part 10: issue, barriers and control (R178, R189 to R195, R702). -/

namespace Sys2Proof.Machine

open Sys2Proof

/-! ### What an issue keeps (R178, R179, R185) -/

/-- A group that issues awaits none of its instruction's destinations. -/
theorem Sys.prepare_free {s : Sys} {op : Nat} {gid : Gid} {i : Issue} (h : s.prepare op gid = .go i) : ∀ r ∈ i.info.dests, r ∉ i.grp.busy := by
  obtain ⟨-, hc, hb, hx, hop, hd, hinfo, -⟩ := Sys.prepare_go h
  have hnext : s.nextInfo i.grp = some i.info := by
    simp only [Sys.nextInfo, hx, Sys.limitOf, hb, hop, hd, if_true, hinfo]
  simp only [Sys.canIssue, hnext, Bool.and_eq_true] at hc
  obtain ⟨-, hfree⟩ := hc
  intro r hr
  have := List.all_eq_true.1 hfree r (by simp [hr])
  simpa using this

/-- The instruction's group is resident and awaits none of its destinations. -/
def Issue.Free (i : Issue) (s : Sys) : Prop :=
  (∃ x ∈ s.core.groups, x.gid = i.grp.gid) ∧ ∀ x ∈ s.core.groups, x.gid = i.grp.gid → ∀ r ∈ i.info.dests, r ∉ x.busy

section
variable {s t : Sys} {op : Nat} {gid : Gid} {i : Issue}

/-- The group of an instruction that issues, as it stands. -/
theorem Sys.prepare_grp (h : s.prepare op gid = .go i) : i.grp ∈ s.core.groups ∧ i.grp.gid = gid :=
  CoreState.mem_of_group? (Sys.prepare_go h).1

theorem Sys.prepare_group_eq (hs : s.core.Ok) (h : s.prepare op gid = .go i) {x : Group} (hx : x ∈ s.core.groups) (e : x.gid = i.grp.gid) :
    x = i.grp := CoreState.group_unique hs.1 hx (Sys.prepare_grp h).1 e

theorem Sys.prepare_issueFree (hs : s.core.Ok) (h : s.prepare op gid = .go i) : i.Free s :=
  ⟨⟨_, (Sys.prepare_grp h).1, rfl⟩, fun _ hx e => Sys.prepare_group_eq hs h hx e ▸ Sys.prepare_free h⟩

theorem Issue.Free.onlyBytes (hf : i.Free s) (h : s.OnlyBytes t) : i.Free t := by
  have hmap := h.groups
  obtain ⟨⟨x, hx, e⟩, hfree⟩ := hf
  constructor
  · obtain ⟨y, hy, hyx⟩ := List.mem_map.1 (hmap ▸ List.mem_map_of_mem hx)
    exact ⟨y, hy, (congrArg Group.gid hyx).trans e⟩
  · intro y hy ey
    obtain ⟨x, hx, hxy⟩ := List.mem_map.1 (hmap.symm ▸ List.mem_map_of_mem (f := Group.body) hy)
    have hbusy : x.body.busy = y.body.busy := congrArg Group.busy hxy
    have hgid : x.body.gid = y.body.gid := congrArg Group.gid hxy
    exact (show x.busy = y.busy from hbusy) ▸ hfree x hx (hgid.trans ey)

theorem Issue.Free.book_ok (hf : i.Free s) (h : s.core.Ok) : (s.book i).core.Ok := Sys.book_ok h hf.1 hf.2

/-- The group of an instruction that has issued. -/
theorem Sys.book_group_eq (hs : s.core.Ok) (h : s.prepare op gid = .go i) {x : Group} (hx : x ∈ (s.book i).core.groups)
    (e : x.gid = i.grp.gid) : x = i.grp.booked i.info.dests (s.core.nextId + 1) := by
  rw [Sys.book_groups] at hx
  obtain ⟨y, hy, rfl⟩ := List.mem_map.1 hx
  have hyg : y.gid = i.grp.gid := by
    split at e
    · exact e
    · exact e
  rw [if_pos (by simpa using hyg), Sys.prepare_group_eq hs h hy hyg]

theorem issueSys_keepsCores {body : Issue → Sys → Sys}
    (hb : ∀ i, s.core.Ok → s.prepare op gid = .go i → (s.book i).KeepsCores (body i (s.book i))) : s.KeepsCores (issueSys op gid body s) := by
  intro hs
  obtain ⟨-, e⟩ | ⟨g, -, e⟩ | ⟨i, h, e⟩ := issueSys_cases op gid body s <;> rw [e]
  · exact hs
  · exact Sys.KeepsCores.of_cores (Sys.groupFault_cores ..) hs
  · exact Sys.settle_keepsCores _ gid (hb i hs h ((Sys.prepare_issueFree hs h).book_ok hs))

end

section
variable {d : Dev} {op : Nat} {gid : Gid} {ok : Issue → Dev → Bool} {check : Issue → Dev → Option Nat} {body : Issue → Dev → Dev}

theorem issueDev_keepsCores (hb : ∀ i, d.sys.core.Ok → d.sys.prepare op gid = .go i → check i d = none →
      (d.sys.book i).KeepsCores (body i (liftSys (fun s => s.book i) d)).sys) : d.sys.KeepsCores (issueDev op gid ok check body d).sys := by
  intro hs
  unfold issueDev
  split
  · exact hs
  · exact Sys.KeepsCores.of_cores (Sys.groupFault_cores ..) hs
  next i h =>
    split
    · split
      · exact Sys.KeepsCores.of_cores (Sys.groupFault_cores ..) hs
      next hc => exact Sys.settle_keepsCores _ gid (hb i hs h hc ((Sys.prepare_issueFree hs h).book_ok hs))
    · exact hs

theorem issueCs_keepsCores (hb : ∀ i x, Sys.KeepsCores x.sys (body i x).sys) : d.sys.KeepsCores (issueCs op gid ok check body d).sys := by
  intro hs
  unfold issueCs
  split
  · exact hs
  · exact Sys.KeepsCores.of_cores (Sys.groupFault_cores ..) hs
  next i h =>
    split
    · extract_lets d' i'
      have hbytes : d.sys.OnlyBytes d'.sys := (Sys.csOwn_onlyBytes ..).trans (Sys.drainProgress_onlyBytes ..)
      have hs' := hbytes.keeps hs
      split
      · exact Sys.KeepsCores.of_cores (Sys.groupFault_cores ..) hs'
      · exact Sys.settle_keepsCores _ gid (hb _ _ (((Sys.prepare_issueFree hs h).onlyBytes hbytes).book_ok hs'))
    · exact hs

theorem issuePicked_keepsCores {run : Gid → Dev → Dev} (h : d.sys.KeepsCores (run gid d).sys) : d.sys.KeepsCores (issuePicked gid run d).sys :=
  .dite h (.refl _)

end

/-! ### Barriers (R192 to R195, R702) -/

section
variable (s : Sys)

theorem Sys.completeBarrier_keepsCores (id : Nat) : s.KeepsCores (s.completeBarrier id) := by
  unfold Sys.completeBarrier
  refine .ite (.refl s) ?_
  split
  · exact .of_cores (Sys.groupFault_cores ..)
  · refine Sys.KeepsCores.cores (fun hs => ?_) (Sys.onBlock_cores _ (fun _ => by rfl) _)
    have hg := hs.2.1
    refine CoreState.Ok.mapGroups hs fun x hx => ?_
    split
    · exact ⟨x.resume_gid, x.resume_busy, (hg x hx).resume⟩
    · exact ⟨rfl, rfl, hg x hx⟩

/-- Arriving threads leave the executing path (R194). -/
theorem arrive_keepsCores (id : Nat) (m : BitVec 32) (i : Issue) : s.KeepsCores (joinBody.arrive id m i s) := by
  unfold joinBody.arrive
  extract_lets s1 s2
  refine Sys.KeepsCores.trans ?_ (Sys.completeBarrier_keepsCores _ _)
  have h1 : s.KeepsCores s1 := (s.csOwn_onlyBytes ..).keeps.cores (Sys.raiseVis_cores ..)
  refine (h1.trans fun hs => Sys.onGroup_ok hs fun x hx _ => ?_).cores (Sys.onBlock_cores _ (fun _ => by rfl) _)
  obtain ⟨-, hg, -⟩ := hs
  obtain ⟨hregs, hpreds, hmask⟩ := hg x hx
  exact ⟨by simp, by simp, Group.Ok.settle ⟨hregs, hpreds, BitVec.andNot_mono hmask _⟩⟩

theorem joinBody_keepsCores (i : Issue) : s.KeepsCores (joinBody i s) := by
  unfold joinBody
  extract_lets id m
  refine .ite (.refl s) ?_
  split
  · exact .ite (arrive_keepsCores s id m i) (.of_cores (Sys.groupFault_cores ..))
  · exact arrive_keepsCores s id m i

/-! ### Control (Table 5-11) -/

theorem exitBody_keepsCores (i : Issue) : s.KeepsCores (exitBody i s) := by
  refine Sys.KeepsCores.trans (fun hs => Sys.onGroup_ok hs fun x hx _ => ?_) (Sys.completeBarrier_keepsCores _ _)
  obtain ⟨-, hg, -⟩ := hs
  obtain ⟨hregs, hpreds, hmask⟩ := hg x hx
  exact ⟨by simp, by simp, Group.Ok.settle ⟨hregs, hpreds, BitVec.andNot_and hmask _⟩⟩

theorem retBody_keepsCores (i : Issue) : s.KeepsCores (retBody i s) := by
  unfold retBody
  split
  · exact .refl s
  · refine .ite ?_ (.of_cores (Sys.groupFault_cores ..))
    exact .of_cores (Sys.onGroup_cores _ (fun _ => by rfl) _)

theorem callBody_keepsCores (i : Issue) : s.KeepsCores (callBody i s) := by
  unfold callBody
  refine .ite (.refl s) (.ite (.of_cores (Sys.groupFault_cores ..)) ?_)
  exact .of_cores ((Sys.onGroup_cores _ (fun _ => by rfl) _).trans (perLane_cores ..))

variable {s}

/-- The threads that a branch sends to its target are of the executing path. -/
theorem braBody_keepsCores {op : Nat} {gid : Gid} {i : Issue} (h : s.core.Ok) (hp : s.prepare op gid = .go i) :
    (s.book i).KeepsCores (braBody i (s.book i)) := by
  unfold braBody
  extract_lets taken
  refine .ite (.refl _) (.ite (.of_cores (Sys.groupFault_cores ..)) (.ite (.of_cores (Sys.onGroup_cores _ (fun _ => by rfl) _))
    (.ite (.of_cores (Sys.groupFault_cores ..)) fun hb => Sys.onGroup_ok hb fun x hx e => ?_)))
  obtain ⟨hregs, hpreds, hmask⟩ := h.2.1 i.grp (Sys.prepare_grp hp).1
  rw [Sys.book_group_eq h hp hx e]
  exact ⟨rfl, rfl, hregs, hpreds, BitVec.andNot_mono hmask _⟩

end

end Sys2Proof.Machine
end

section
/-! PROOF. Cores stay sound, part 11: the matrix array, pending stores and atomics, and copies (R226 to R230, R239 to R245, R254 to R276). -/

namespace Sys2Proof.Machine

open Sys2Proof

/-! ### The matrix array's totals (R254 to R258) -/

theorem clearWords_wf {m : NMap} (first count : Nat) (h : m.wf = true) : (clearWords m first count).wf = true := by
  rw [NMap.wf_iff] at h ⊢
  exact ⟨fun c hc => h.1 c (List.mem_filter.1 hc).1, h.2.sublist List.filter_sublist⟩

theorem Block.applyIssue_store (b : Block) (x : IssueD) (rd : Nat → Nat) (c : Nat) : (b.applyIssue x rd c).1.store = b.store := by
  unfold Block.applyIssue
  dsimp only
  split <;> rfl

theorem Block.applyIssue_acc (b : Block) (x : IssueD) (rd : Nat → Nat) (c : Nat) (h : b.acc.wf = true) :
    (b.applyIssue x rd c).1.acc.wf = true := by
  have h0 : (if x.init then clearWords b.acc x.tile x.granules else b.acc).wf = true := by
    split
    · exact clearWords_wf _ _ h
    · exact h
  unfold Block.applyIssue
  extract_lets fresh acc0 b0 old cells
  split
  · exact List.foldlRecOn (motive := fun a : NMap => a.wf = true) cells _ h0 fun a ha mn _ => NMap.set_wf _ _ ha
  · refine List.foldlRecOn (motive := fun p : NMap × Nat => p.1.wf = true) cells _ h0 fun p hp mn _ => ?_
    dsimp only
    split
    · exact NMap.set_wf _ _ (NMap.set_wf _ _ hp)
    · exact NMap.set_wf _ _ hp

section
variable (s : Sys)

/-- An update of a block that keeps its bytes and accumulators canonical. -/
theorem Sys.onBlock_onlyBytes {id : Nat} {f : Block → Block}
    (hf : s.core.BlocksOk → ∀ b ∈ s.core.blocks, cellsWf (f b).store = true ∧ (f b).acc.wf = true) : s.OnlyBytes (s.onBlock id f) where
  flow := rfl
  blocks h b hb := by
    obtain ⟨x, hx, rfl⟩ := List.mem_map.1 hb
    split
    · exact hf h x hx
    · exact h x hx

theorem mxOpComplete_keepsCores (core : Nat) : s.KeepsCores (mxOpComplete core s) := by
  unfold mxOpComplete
  split
  · exact .refl s
  next o _ =>
    split
    · exact .of_cores (Sys.mxLeave_cores ..)
    next b hb =>
      refine .ite (.of_cores (Sys.mxLeave_cores ..)) (.ite (.refl s) ?_)
      refine .ite (.of_cores (by simp)) ?_
      refine Sys.KeepsCores.cores (Sys.KeepsCores.trans (.of_cores (s.drew_cores 524288)) (Sys.OnlyBytes.keeps
        (Sys.onBlock_onlyBytes _ (id := o.block) fun hs _ _ => ?_))) ((Sys.mxLeave_cores ..).trans rfl)
      obtain ⟨hst, hacc⟩ := hs b (CoreState.mem_of_block? hb).1
      exact ⟨(b.applyIssue_store ..).symm ▸ hst, b.applyIssue_acc _ _ _ hacc⟩

theorem mxDrainComplete_keepsCores (core : Nat) : s.KeepsCores (mxDrainComplete core s) := by
  unfold mxDrainComplete
  split
  · exact .refl s
  next o _ =>
    split
    · exact .of_cores (Sys.mxLeave_cores ..)
    next b hb =>
      refine .ite (.of_cores (Sys.mxLeave_cores ..)) ?_
      split
      · exact .refl s
      · refine .ite (.of_cores (by simp)) ?_
        extract_lets bad badCols outs s1 s2 s3 fl cs s4 s5 s6
        have h1 : s.OnlyBytes s1 := (Sys.OnlyBytes.of_cores (s.drew_cores _)).trans (Sys.drainWrite_onlyBytes ..)
        have h2 : s.OnlyBytes s2 := h1.cores (by simp only [s2]; split <;> rfl)
        refine .ite (h2.keeps.cores (by simp [s3])) ?_
        have h4 : s.OnlyBytes s4 := h2.cores (Sys.statsAdd_cores ..)
        have h5 : s4.OnlyBytes s5 := Sys.onBlock_onlyBytes s4 fun hs x hx => by
          split
          · exact ⟨(hs x hx).1, clearWords_wf _ _ (hs x hx).2⟩
          · exact hs x hx
        exact (h4.trans h5).keeps.cores (by simp [s6])

end

/-! ### Stores and atomics that wait at their slice (R226, R230) -/

/-- The pending stores may be any, each within one line. -/
theorem CoreState.Ok.stores {c : CoreState} (h : c.Ok) {l : List PStore} (hl : ∀ x ∈ l, x.addr % 64 + x.data.length ≤ 64) :
    ({ c with stores := l } : CoreState).Ok := by
  obtain ⟨hn, hg, hb, -, hcp, hfl⟩ := h
  exact ⟨hn, hg, hb, hl, hcp, hfl⟩

theorem CoreState.Ok.pending {c : CoreState} (h : c.Ok) : ∀ x ∈ c.stores, x.addr % 64 + x.data.length ≤ 64 := by
  obtain ⟨-, -, -, hst, -⟩ := h
  exact hst

/-- A run of updates of which each keeps the cores for the members of its list. -/
theorem runAll_keepsCores_mem {β : Type} {f : β → Dev → Dev} (l : List β) (h : ∀ b ∈ l, ∀ x : Dev, x.sys.KeepsCores (f b x).sys) (d : Dev) :
    d.sys.KeepsCores (runAll f l d).sys := fun hs => runAll_mem (P := fun x : Dev => x.sys.core.Ok) h hs

theorem issueG_keepsCores {op : Nat} {gid : Gid} {addr : Issue → Nat → Nat} {size : Issue → Nat} {w : Bool} {ready : Issue → Dev → Bool}
    {body : Issue → Dev → Dev} {d : Dev}
    (hb : ∀ i (x : Dev), i.inst.op = op → opInfo i.blk.regsPer i.inst = some i.info → (∀ l ∈ i.act, addr i l % size i = 0) →
      x.sys.KeepsCores (body i x).sys) : d.sys.KeepsCores (issueG op gid addr size w ready body d).sys := by
  refine issueDev_keepsCores fun i _ hp _ => ?_
  obtain ⟨-, -, -, -, hop, -, hinfo, -⟩ := Sys.prepare_go hp
  split
  next h =>
    refine hb i (liftSys (fun s => s.book i) d) hop hinfo fun l hl => ?_
    have := List.all_eq_true.1 h l hl
    simp only [Bool.and_eq_true, beq_iff_eq] at this
    exact this.1
  · exact .of_cores ((runAll_cores (fun _ _ => by simp) _ _).trans (Sys.groupFault_cores ..))

/-- An aligned access of 1, 2, 4 or 8 bytes, or a half of one of 16, lies in one line. -/
theorem Dev.locate_line (d : Dev) (p : Nat) {a n : Nat} (hn : n ∣ 64) (h : a % n = 0) : (d.locate p a).2 % 64 + n ≤ 64 := by
  rw [(d.locate_add p a 0 (by omega)).2]
  obtain ⟨k, hk⟩ := hn
  have hpos : 0 < n := Nat.pos_of_ne_zero fun e => by simp [e] at hk
  have hmod : a % 64 % n = 0 := (Nat.mod_mod_of_dvd a ⟨k, hk⟩).trans h
  obtain ⟨q, hq⟩ := Nat.dvd_of_mod_eq_zero hmod
  have hlt : n * q < n * k := hk ▸ hq ▸ Nat.mod_lt a (by omega)
  have : q + 1 ≤ k := Nat.lt_of_mul_lt_mul_left hlt
  calc a % 64 + n = n * (q + 1) := by rw [hq]; ring
    _ ≤ n * k := Nat.mul_le_mul_left _ this
    _ = 64 := hk.symm

theorem opInfo_mem_size {limit : Nat} {x : CoreInst} {o : OpInfo} (h : opInfo limit x = some o) (hx : x.op = 0x62 ∨ x.op = 0x63) :
    accBytes (bits x.mod 2 0) ∣ 16 := by
  have hm : ∃ r, memInfo limit x = some r := by
    obtain hx | hx := hx <;> simp [opInfo, aluRow, hx] at h <;> exact ⟨h.choose, h.choose_spec.1⟩
  obtain ⟨r, hr⟩ := hm
  simp only [memInfo, Option.ite_none_right_eq_some, Bool.and_eq_true, decide_eq_true_eq] at hr
  obtain ⟨⟨⟨⟨⟨⟨hsz, -⟩, -⟩, -⟩, -⟩, -⟩, -⟩ := hr
  exact Nat.pow_dvd_pow 2 (show bits x.mod 2 0 ≤ 4 by omega)

theorem storeParts_line (i : Issue) (d : Dev) (lane : Nat) (hn : accSize i.inst ∣ 16) (h : i.grp.effAddr i.inst lane % accSize i.inst = 0) :
    ∀ x ∈ storeParts i d lane, x.addr % 64 + x.data.length ≤ 64 := by
  have hline := Dev.locate_line d i.blk.part (hn.trans (by decide)) h
  have hlen : (storeData i lane).length = accSize i.inst := natLe_length ..
  simp only [storeParts, gPlace, newStore]
  split
  next h16 =>
    simp only [List.mem_cons, List.not_mem_nil, or_false]
    rw [h16] at hline hlen
    rintro x (rfl | rfl)
    · simp [hlen]
      omega
    · simp [hlen]
      omega
  · simp only [List.mem_cons, List.not_mem_nil, or_false]
    rintro x rfl
    rw [hlen]
    exact hline

theorem stG_keepsCores (g : Gid) (d : Dev) : d.sys.KeepsCores (runStG g d).sys :=
  issueG_keepsCores fun i x hop hinfo hal hs => hs.stores fun y hy => by
    obtain hy | hy := List.mem_append.1 hy
    · exact hs.pending y hy
    · obtain ⟨l, hl, hyl⟩ := List.mem_flatten.1 hy
      obtain ⟨k, hk, rfl⟩ := List.mem_map.1 hl
      exact storeParts_line i x k (opInfo_mem_size hinfo (.inr hop)) (hal k hk) y hyl

theorem mem_of_mem_dropNth {α : Type} {l : List α} {k : Nat} {x : α} (h : x ∈ dropNth l k) : x ∈ l := by
  induction l generalizing k with
  | nil => exact h
  | cons y l ih =>
    cases k with
    | zero => exact List.mem_cons_of_mem _ h
    | succ k =>
      obtain rfl | h := List.mem_cons.1 h
      · exact List.mem_cons_self
      · exact List.mem_cons_of_mem _ (ih h)

theorem storeAccept_keepsCores (k : Nat) (d : Dev) : d.sys.KeepsCores (storeAccept k d).sys := by
  unfold storeAccept
  split
  · exact .refl _
  · refine .dite (.refl _) ?_
    exact (Sys.KeepsCores.of_cores (Dev.perform_cores ..)).trans fun hs =>
      hs.stores fun y hy => hs.pending y (mem_of_mem_dropNth hy)

/-- The locations of an atomic are places that its lanes name. -/
theorem byPlace_place {α : Type} [DecidableEq α] (place : Nat → α) (lns : List Nat) : ∀ x ∈ byPlace place lns, ∃ l ∈ lns, x.1 = place l :=
  List.foldlRecOn (motive := fun acc : List (α × List Nat) => ∀ x ∈ acc, ∃ l ∈ lns, x.1 = place l) lns _ (by simp) fun acc h l hl x hx => by
    split at hx
    · exact h x hx
    · obtain hx | hx := List.mem_append.1 hx
      · exact h x hx
      · rw [List.mem_singleton.1 hx]
        exact ⟨l, hl, rfl⟩

theorem atomSize_dvd (x : CoreInst) : atomSize x ∣ 64 := by
  unfold atomSize atomRegs
  split <;> decide

theorem atomGPlace_keepsCores (i : Issue) (x : (Nat × Nat) × List Nat) (hx : x.1.2 % 64 + atomSize i.inst ≤ 64) (d : Dev) :
    d.sys.KeepsCores (atomGPlace i x d).sys := by
  unfold atomGPlace
  extract_lets p now d'
  have h' : d.sys.KeepsCores d'.sys := .of_cores (Sys.drew_cores ..)
  refine .dite (h'.cores (Dev.perform_cores ..)) (h'.trans fun hs => hs.stores fun y hy => ?_)
  obtain hy | hy := List.mem_append.1 hy
  · exact hs.pending y hy
  · rw [List.mem_singleton.1 hy]
    simpa [p, newStore, zeros] using hx

theorem atomG_keepsCores (g : Gid) (d : Dev) : d.sys.KeepsCores (runAtomG g d).sys :=
  issueG_keepsCores fun i x _ _ hal => by
    refine Sys.KeepsCores.trans (atomRelease_onlyBytes ..).keeps
      (runAll_keepsCores_mem _ (fun q hq => ?_) (liftSys (atomRelease false i) x))
    refine atomGPlace_keepsCores i q ?_
    obtain ⟨l, hl, e⟩ := byPlace_place _ _ q hq
    rw [e]
    exact Dev.locate_line _ _ (atomSize_dvd _) (hal l hl)

/-! ### Asynchronous copies (R239 to R245) -/

/-- A copy with bytes of its own left to move and its counter outside its core store bytes. -/
def Copy.Sound (x : Copy) : Prop := x.len ≤ 524288 ∧ (∀ o ∈ x.todo, o < x.len) ∧ (x.len = 0 ∨ overlaps x.counter 4 x.cs x.len = false)

theorem CoreState.Ok.copies {c : CoreState} (h : c.Ok) {l : List Copy} (hl : ∀ x ∈ l, x.Sound) : ({ c with copies := l } : CoreState).Ok := by
  obtain ⟨hn, hg, hb, hst, -, hfl⟩ := h
  exact ⟨hn, hg, hb, hst, hl, hfl⟩

theorem CoreState.Ok.copying {c : CoreState} (h : c.Ok) : ∀ x ∈ c.copies, x.Sound := by
  obtain ⟨-, -, -, -, hcp, -⟩ := h
  exact hcp

theorem copyOk_len {i : Issue} {d : Dev} {l : Nat} (h : copyOk i d l = true) :
    copyLen i l ≤ 524288 ∧ (copyLen i l = 0 ∨ overlaps (copyCounter i l) 4 (copyCs i l) (copyLen i l) = false) := by
  simp only [copyOk, Bool.and_eq_true, Bool.or_eq_true, beq_iff_eq, decide_eq_true_eq, Bool.not_eq_true'] at h
  obtain ⟨-, h0 | ⟨⟨⟨⟨_, hn⟩, -⟩, -⟩, hov⟩⟩ := h
  · exact ⟨by omega, .inl h0⟩
  · exact ⟨hn, .inr hov⟩

theorem startCopy_keepsCores (i : Issue) (l : Nat)
    (h : copyLen i l ≤ 524288 ∧ (copyLen i l = 0 ∨ overlaps (copyCounter i l) 4 (copyCs i l) (copyLen i l) = false)) (d : Dev) :
    d.sys.KeepsCores (startCopy i l d).sys := by
  unfold startCopy
  extract_lets n id tos noAlloc ctr r d1 d2 bad now c d3
  have h1 : d1.sys.cores = d.sys.cores := by
    simp only [d1, r]
    split
    · rfl
    · exact copyRead_cores ..
  have h2 : d.sys.KeepsCores d2.sys := (Sys.KeepsCores.of_cores h1).cores (by rfl)
  refine .dite (h2.cores (poisonFault_cores ..)) ?_
  have h3 : d2.sys.KeepsCores d3.sys := (copyMove_onlyBytes ..).keeps
  refine (h2.trans h3).trans fun hs => hs.copies fun y hy => ?_
  obtain hy | hy := List.mem_append.1 hy
  · exact hs.copying y hy
  · rw [List.mem_singleton.1 hy]
    exact ⟨h.1, fun o ho => List.mem_range.1 (List.mem_filter.1 ho).1, h.2⟩

theorem dmaBody_keepsCores (i : Issue) (d : Dev) : d.sys.KeepsCores (dmaBody i d).sys := by
  unfold dmaBody
  extract_lets bad
  split
  · exact .of_cores ((Sys.groupFault_cores ..).symm ▸ rfl)
  next hb =>
    refine runAll_keepsCores_mem _ (fun l hl => startCopy_keepsCores i l ?_) d
    refine copyOk_len (d := d) ?_
    have := List.filter_eq_nil_iff.1 (not_not.1 hb) l hl
    simpa using this

theorem copyComplete_keepsCores (id : Nat) (d : Dev) : d.sys.KeepsCores (copyComplete id d).sys := by
  unfold copyComplete
  split
  · exact .refl _
  next c _ =>
    refine .dite (.refl _) ?_
    extract_lets d1 r d2 drop vals d3
    have hdrop (s : Sys) : s.KeepsCores (drop s) := fun hs => hs.copies fun y hy => hs.copying y (List.mem_filter.1 hy).1
    have h1 : d.sys.KeepsCores d1.sys := (Sys.drainProgress_onlyBytes ..).keeps
    have h2 : d.sys.KeepsCores d2.sys := h1.cores (by
      simp only [d2, r]
      split
      · rfl
      · split
        · rfl
        · exact copyRead_cores ..)
    refine .dite ((h2.trans (hdrop _)).cores (poisonFault_cores ..)) ?_
    have h3 : d2.sys.KeepsCores d3.sys := (copyMove_onlyBytes c _ _ { d2 with sys := d2.sys.drew c.len }).keeps
    exact ((h2.trans h3).trans (hdrop _)).trans (Sys.bumpCounter_onlyBytes ..).keeps

end Sys2Proof.Machine
end

section
/-! PROOF. Cores stay sound, part 12: the end of a context, resets, and blocks that come and go (R42 to R44, R170 to R177, R204 to R209,
R590). -/

namespace Sys2Proof.Machine

open Sys2Proof

/-! ### The end of a context, and of a partition's contexts (R204 to R209, R590) -/

/-- The blocks of a context go with their groups, what those have in flight and what those have pending. -/
theorem CoreState.Ok.freed {c : CoreState} (h : c.Ok) {ids : List Nat} {gids : List Gid} {st : PStore → Bool}
    (hg : ∀ x ∈ c.groups, ids.contains x.block = true → gids.contains x.gid = true) :
    CoreState.Ok { c with
      blocks := c.blocks.filter (fun b => !ids.contains b.id)
      groups := c.groups.filter (fun g => !ids.contains g.block)
      collectors := c.collectors.filter (fun x => !gids.contains x.gid)
      results := c.results.filter (fun x => !gids.contains x.gid)
      stores := c.stores.filter st
      copies := c.copies.filter (fun x => !ids.contains x.block) } := by
  obtain ⟨hn, hgr, hb, hst, hcp, hfl⟩ := h
  rw [CoreState.flightOk_iff] at hfl
  obtain ⟨hfl, hres⟩ := hfl
  refine ⟨hn.sublist (List.filter_sublist.map _), fun x hx => hgr x (List.mem_filter.1 hx).1, fun x hx => hb x (List.mem_filter.1 hx).1,
    fun x hx => hst x (List.mem_filter.1 hx).1, fun x hx => hcp x (List.mem_filter.1 hx).1,
    (CoreState.flightOk_iff _).2 ⟨⟨fun x hx r hr => ?_, hfl.2.sublist ?_⟩, fun k hk => hres k (List.mem_filter.1 hk).1⟩⟩
  · have hx' : x ∈ c.flying ∧ gids.contains x.1 = false := by
      obtain hx | hx := List.mem_append.1 hx
      · obtain ⟨k, hk, rfl⟩ := List.mem_map.1 hx
        obtain ⟨hk, hkg⟩ := List.mem_filter.1 hk
        exact ⟨List.mem_append_left _ (List.mem_map_of_mem hk), by simpa using hkg⟩
      · obtain ⟨k, hk, rfl⟩ := List.mem_map.1 hx
        obtain ⟨hk, hkg⟩ := List.mem_filter.1 hk
        exact ⟨List.mem_append_right _ (List.mem_map_of_mem hk), by simpa using hkg⟩
    obtain ⟨hx, hout⟩ := hx'
    obtain ⟨g, hm, hgid, hbusy⟩ := hfl.1 x hx r hr
    refine ⟨g, List.mem_filter.2 ⟨hm, ?_⟩, hgid, hbusy⟩
    by_contra hin
    have := hg g hm (by simpa using hin)
    rw [hgid, hout] at this
    cases this
  · exact (List.filter_sublist.map _).append (List.filter_sublist.map _)

theorem copySome_onlyBytes (c : Copy) (d : Dev) : d.sys.OnlyBytes (copySome c d).sys :=
  .dite ((Sys.OnlyBytes.of_cores (by rfl)).trans (copyMove_onlyBytes ..)) (.refl _)

/-- What the bytes of blocks leave of the groups: each is of its block. -/
theorem Sys.OnlyBytes.group_block {s t : Sys} (h : s.OnlyBytes t) {x : Group} (hx : x ∈ t.core.groups) :
    ∃ y ∈ s.core.groups, y.gid = x.gid ∧ y.block = x.block := by
  obtain ⟨y, hy, hyx⟩ := List.mem_map.1 (h.groups ▸ List.mem_map_of_mem (f := Group.body) hx)
  have hgid : y.body.gid = x.body.gid := congrArg Group.gid hyx
  have hblock : y.body.block = x.body.block := congrArg Group.block hyx
  exact ⟨y, hy, hgid, hblock⟩

theorem Dev.freeContext_keepsCores (d : Dev) (p r : Nat) : d.sys.KeepsCores (d.freeContext p r).sys := by
  unfold Dev.freeContext
  extract_lets ids gids d1 d2
  have h1 : d.sys.OnlyBytes d1.sys := .of_cores (runAll_sys_cores (fun _ _ => by simp) _ _)
  have h2 : d.sys.OnlyBytes d2.sys := h1.trans (.drunAll copySome_onlyBytes _ d1)
  refine Sys.KeepsCores.trans (h2.keeps.trans fun hs => ?_) (Sys.endOps_onlyBytes _ _).keeps
  refine CoreState.Ok.freed (gids := gids) hs fun x hx hblock => ?_
  obtain ⟨y, hy, hgid, hyb⟩ := h2.group_block hx
  rw [List.contains_iff_mem, ← hgid]
  exact List.mem_map_of_mem (List.mem_filter.2 ⟨hy, hyb ▸ hblock⟩)

theorem killComplete_keepsCores (r : Nat) (d : Dev) : d.sys.KeepsCores (killComplete r d).sys := by
  unfold killComplete
  split
  · exact .refl _
  next k _ =>
    extract_lets d1
    have h1 : d.sys.KeepsCores d1.sys := Dev.freeContext_keepsCores d k.part r
    refine h1.cores ?_
    simp [Sys.killEpoch]

theorem Dev.resetStep2_keepsCores (d : Dev) (p : Nat) : d.sys.KeepsCores (d.resetStep2 p).sys := by
  unfold Dev.resetStep2
  extract_lets rs fresh d1
  have h1 : d.sys.KeepsCores d1.sys := .drunAll (fun r x => x.freeContext_keepsCores p r) rs d
  refine h1.cores ?_
  simp

theorem Sys.resetStep1_cores (s : Sys) (p : Nat) : (s.resetStep1 p).cores = s.cores := by simp [Sys.resetStep1]

theorem Dev.resetStep3_cores (d : Dev) (p : Nat) : (d.resetStep3 p).sys.cores = d.sys.cores := by simp [Dev.resetStep3, Sys.resetEpoch]

theorem Sys.resetStep4_cores (s : Sys) (p : Nat) : (s.resetStep4 p).cores = s.cores := by simp [Sys.resetStep4]

theorem Dev.startReset_keepsCores (d : Dev) (p : Nat) : d.sys.KeepsCores (d.startReset p).sys := by
  unfold Dev.startReset
  refine .dite (.refl _) ?_
  extract_lets d1
  have h1 : d.sys.KeepsCores d1.sys := Sys.KeepsCores.trans (t := d.sys.resetStep1 p) (.of_cores (Sys.resetStep1_cores ..))
    (Dev.resetStep2_keepsCores (liftSys (fun s => s.resetStep1 p) d) p)
  have h3 : d1.sys.KeepsCores (d1.resetStep3 p).sys := .of_cores (Dev.resetStep3_cores ..)
  rw [liftSys_sys]
  exact (h1.trans h3).cores (Sys.resetStep4_cores ..)

/-! ### Blocks come and go (R170 to R177, R620) -/

theorem initialRegs_wf (gidx bidx arg core : Nat) : (initialRegs gidx bidx arg core).wf = true :=
  List.foldlRecOn (motive := fun m : NMap => m.wf = true) _ _ rfl fun _ hm _ _ =>
    List.foldlRecOn (motive := fun m : NMap => m.wf = true) _ _ hm fun _ hm _ _ => NMap.set_wf _ _ hm

theorem newGroup_ok (block threads bidx arg : Nat) (gid : Gid) (j : Nat) : (newGroup block threads bidx arg gid j).Ok := by
  have hmask : liveMask threads j &&& ~~~liveMask threads j = 0 := (BitVec.andNot_eq_zero_iff _ _).2 fun _ _ h => h
  have hregs := initialRegs_wf j bidx arg gid.core
  simp only [Group.Ok, newGroup, hmask, hregs, List.length_replicate, and_self]

/-- The groups of a placed block stand in the places named. -/
theorem newGroups_gids (block threads bidx arg : Nat) (places : List Gid) (x : Gid) :
    ((List.range places.length).map (fun j => newGroup block threads bidx arg (places.getD j x) j)).map Group.gid = places := by
  rw [List.map_map]
  refine List.ext_getElem (by simp) fun j hj hj' => ?_
  simp [newGroup, List.getElem?_eq_getElem hj']

theorem place_ok {s : Sys} (h : s.core.Ok) {g : Grid} {core : Nat} {slots : List Nat} {code : List DWord} (hn : (placeOf core slots).Nodup)
    (hfree : ∀ x ∈ placeOf core slots, ∀ k ∈ s.core.groups, k.gid ≠ x) : (s.place g core slots code).core.Ok := by
  unfold Sys.place
  extract_lets id b places gs
  refine Sys.KeepsCores.of_cores (Sys.onGrid_cores ..) ?_
  obtain ⟨hgn, hgr, hb, hst, hcp, hfl⟩ := h
  rw [CoreState.flightOk_iff] at hfl
  have hgids : gs.map Group.gid = places := newGroups_gids ..
  refine ⟨?_, fun x hx => ?_, fun x hx => ?_, hst, hcp, (CoreState.flightOk_iff _).2 ⟨hfl.1.groups fun x hx r hr =>
    ⟨x, List.mem_append_left _ hx, rfl, hr⟩, hfl.2⟩⟩
  · simp only [Sys.onCore_core, List.map_append, hgids]
    refine List.nodup_append.2 ⟨hgn, hn, fun x hx y hy e => ?_⟩
    obtain ⟨k, hk, rfl⟩ := List.mem_map.1 hx
    exact hfree y hy k hk e
  · obtain hx | hx := List.mem_append.1 hx
    · exact hgr x hx
    · obtain ⟨j, _, rfl⟩ := List.mem_map.1 hx
      exact newGroup_ok ..
  · obtain hx | hx := List.mem_append.1 hx
    · exact hb x hx
    · rw [List.mem_singleton.1 hx]
      exact ⟨rfl, rfl⟩

/-- A place with room has distinct free slots. -/
theorem roomFor_free {s : Sys} {g : Grid} {core : Nat} {slots : List Nat} (h : s.roomFor g core slots = true) :
    (placeOf core slots).Nodup ∧ ∀ x ∈ placeOf core slots, ∀ k ∈ s.core.groups, k.gid ≠ x := by
  simp only [Sys.roomFor, Bool.and_eq_true, decide_eq_true_eq] at h
  obtain ⟨⟨⟨⟨⟨⟨⟨-, hn⟩, hfree⟩, -⟩, -⟩, -⟩, -⟩, -⟩ := h
  refine ⟨hn, fun x hx k hk => ?_⟩
  have := List.all_eq_true.1 hfree x hx
  simp only [Bool.not_eq_true', List.any_eq_false, beq_iff_eq] at this
  exact this k hk

theorem blockPlace_keepsCores (uid core : Nat) (slots : List Nat) (d : Dev) : d.sys.KeepsCores (blockPlace uid core slots d).sys := by
  unfold blockPlace
  split
  · exact .refl _
  next g _ =>
    dsimp only
    split
    next hroom =>
      have himage := d.imageOn_cores g core
      simp only [Bool.and_eq_true] at hroom
      obtain ⟨⟨-, hroom⟩, -⟩ := hroom
      obtain ⟨hn, hfree⟩ := roomFor_free hroom
      split
      next e at_ _ he =>
        rw [he] at himage
        exact (Sys.KeepsCores.of_cores himage).cores (Sys.poisonKill_cores ..)
      next e code he =>
        rw [he] at himage
        have hgids : e.sys.core.groups.map Group.gid = d.sys.core.groups.map Group.gid := by
          have := congrArg (fun c : CoreState => c.groups.map Group.gid) himage
          simpa [Sys.cores, CoreState.body, Function.comp_def, Group.body] using this
        refine (Sys.KeepsCores.of_cores himage).trans fun hs => place_ok hs hn fun x hx k hk hkx => ?_
        obtain ⟨y, hy, hyk⟩ := List.mem_map.1 (hgids ▸ List.mem_map_of_mem (f := Group.gid) hk)
        exact hfree x hx y hy (hyk.trans hkx)
    · exact .refl _

theorem blockEnd_keepsCores (id : Nat) (s : Sys) : s.KeepsCores (blockEnd id s) := by
  unfold blockEnd
  split
  · exact .refl s
  next b _ =>
    refine .ite ?_ (.refl s)
    extract_lets s1
    have h1 : s.KeepsCores s1 := Sys.KeepsCores.cores (fun hs => by
      obtain ⟨hn, hg, hb, hst, hcp, hfl⟩ := hs
      exact (⟨hn, hg, fun x hx => hb x (List.mem_filter.1 hx).1, hst, hcp, hfl⟩ :
        CoreState.Ok { s.core with blocks := s.core.blocks.filter (fun x => x.id != id), csPend := s.core.csPend.filter (fun x => x.block != id) }))
      (u := s1) (t := s.onCore (fun c => { c with
        blocks := c.blocks.filter (fun x => x.id != id), csPend := c.csPend.filter (fun x => x.block != id) })) (Sys.onGrid_cores ..)
    split
    · exact h1
    · refine .ite (h1.cores ?_) h1
      simp

/-! ### Resets of the device (R42 to R44, R70 to R74) -/

section
variable {s : Sys} {d : Dev}

theorem Sys.KeepsCores.of_reset (h : d.sys.core = CoreState.reset) : s.KeepsCores d.sys := fun _ => by
  rw [h]
  exact ⟨by decide, by simp [CoreState.reset], by simp [CoreState.reset], by simp [CoreState.reset], by simp [CoreState.reset],
    by simp [CoreState.FlightOk, CoreState.flying, CoreState.reset]⟩

theorem Dev.deviceReset_keepsCores (d : Dev) : s.KeepsCores d.deviceReset.sys := .of_reset rfl

theorem Dev.powerLoss_keepsCores (d : Dev) : s.KeepsCores d.powerLoss.sys := .of_reset rfl

theorem Dev.startUp_keepsCores (d : Dev) : s.KeepsCores d.startUp.sys := (Dev.deviceReset_keepsCores d).cores (by simp [Dev.startUp])

theorem vin48Under_keepsCores (mv : Nat) (d : Dev) : d.sys.KeepsCores (vin48Under mv d).sys := .dite d.powerLoss_keepsCores (.refl _)

theorem vin48Over_keepsCores (mv : Nat) (d : Dev) : d.sys.KeepsCores (vin48Over mv d).sys :=
  .dite (d.powerLoss_keepsCores.cores (by simp)) (.refl _)

theorem alwaysOn_keepsCores (d : Dev) : d.sys.KeepsCores (alwaysOn d).sys := by
  have h : d.sys.KeepsCores (liftSys (fun s => s.onPower fun p => { p with rails := true }) d).sys := .of_cores (by simp)
  exact .dite (.dite h (Dev.startUp_keepsCores _)) (.refl _)

theorem resetNLow_keepsCores (ns : Nat) (d : Dev) : d.sys.KeepsCores (resetNLow ns d).sys := by
  have h : d.sys.KeepsCores (liftSys (fun s => s.drew 1) d).sys := .of_cores (by simp)
  unfold resetNLow
  refine .dite (Sys.KeepsCores.cores (t := (if d.sys.mgmt.power.mgmtRail then (liftSys (fun s => s.drew 1) d).deviceReset
    else liftSys (fun s => s.drew 1) d).sys) (.dite (Dev.deviceReset_keepsCores _) h) (Sys.onPower_cores ..)) h

theorem resetNRise_keepsCores (slot boot : Nat) (d : Dev) : d.sys.KeepsCores (resetNRise slot boot d).sys := by
  have h : d.sys.KeepsCores (liftSys (fun s => s.onPower fun p => { p with resetLow := false }) d).sys := .of_cores (by simp)
  have k := h.cores (u := (liftSys (fun s => s.onPower fun p => p.sample slot boot)
    (liftSys (fun s => s.onPower fun p => { p with resetLow := false }) d)).sys) (by simp)
  exact .dite (.dite (.dite (Dev.startUp_keepsCores _) k) h) (.refl _)

end

end Sys2Proof.Machine
end

section
/-! PROOF. Cores stay sound, part 13: written objects, requests and the journal. -/

namespace Sys2Proof.Machine

open Sys2Proof

variable {s t u : Sys} {d : Dev}

theorem Sys.KeepsCores.lift {f : Sys → Sys} (h : s.KeepsCores d.sys) (hf : ∀ x, (f x).cores = x.cores) : s.KeepsCores (liftSys f d).sys :=
  h.cores (hf _)

/-! ### Power samples, core tests and polls -/

@[simp] theorem powerSample_cores (r : PowerReading) (s : Sys) : (powerSample r s).cores = s.cores := by
  simp [powerSample, Sys.capSample]

@[simp] theorem raiseWindow_cores (s : Sys) : (raiseWindow s).cores = s.cores := by simp [raiseWindow]

theorem Sys.fillNumber_cores (l : Option (List Nat)) (n : Nat) (x : Assign × Sys) : (Sys.fillNumber l n x).2.cores = x.2.cores := by
  unfold Sys.fillNumber
  split
  · rfl
  · split <;> split <;> simp

@[simp] theorem Sys.assignNumbers_cores (s : Sys) : s.assignNumbers.cores = s.cores := by
  unfold Sys.assignNumbers
  extract_lets again s1 rec_ passing a0 a x
  have hx : x.2.cores = s1.cores := runAll_keeps _ (fun y : Assign × Sys => y.2.cores) (Sys.fillNumber_cores rec_) _ _
  rw [Sys.onBring_cores, hx]
  simp [s1]

theorem Sys.siteResults_cores (row c : Nat) (l : List SiteReading) (s : Sys) : (Sys.siteResults row c l s).cores = s.cores := by
  induction l generalizing c s with
  | nil => rfl
  | cons x l ih => exact (ih _ _).trans (by simp)

@[simp] theorem coreTestRow_cores (row : Nat) (l : List SiteReading) (s : Sys) : (coreTestRow row l s).cores = s.cores := by
  unfold coreTestRow
  simp [Sys.siteResults_cores]

@[simp] theorem Sys.commitAssign_cores (s : Sys) : s.commitAssign.cores = s.cores := by
  unfold Sys.commitAssign
  dsimp only
  split <;> simp

@[simp] theorem Sys.startCounts_cores (s : Sys) : s.startCounts.cores = s.cores := by simp [Sys.startCounts]

@[simp] theorem coreAssign_cores (d : Dev) : (coreAssign d).sys.cores = d.sys.cores := by simp [coreAssign]

@[simp] theorem blockManagerPoll_cores (member : Nat) (answer : Option PollAnswer) (s : Sys) : (blockManagerPoll member answer s).cores = s.cores := by
  unfold blockManagerPoll
  dsimp only
  (repeat' split) <;> simp

/-! ### Written objects -/

theorem Dev.debugOpening_keepsCores (d : Dev) (scope : Nat) (erased : Bool) : s.KeepsCores (d.debugOpening scope erased).sys := by
  refine d.deviceReset_keepsCores.cores ?_
  simp only [Dev.debugOpening, liftSys_sys, Sys.bringUpStart_cores]
  split <;> simp

theorem Dev.requestReset_keepsCores (d : Dev) (k : Nat) : s.KeepsCores (d.requestReset k).sys := (Dev.deviceReset_keepsCores _).lift (by simp)

/-- A write to Reset, to a partition's Reset or of a token ends work of the cores; no other write touches it. -/
theorem Dev.objApply_keepsCores (d : Dev) (k : Nat) (r : OdpReq) (v : List Byte) (reading : Option AgeingReading) (erased : Bool) :
    d.sys.KeepsCores (d.objApply k r v reading erased).sys := by
  unfold Dev.objApply
  dsimp only
  split
  case h_8 =>
    split
    · exact .of_cores (by simp)
    · exact .refl _
  case h_19 => exact .dite (d.requestReset_keepsCores k) (.refl _)
  case h_20 => exact .dite (.dite (.refl _) (((Sys.KeepsCores.refl d.sys).lift (by simp)).trans (Dev.startReset_keepsCores _ _))) (.refl _)
  case h_32 => exact Dev.debugOpening_keepsCores _ _ _
  all_goals exact .of_cores (by simp)

theorem Dev.applyWrite_keepsCores (d : Dev) (k : Nat) (r : OdpReq) (v : List Byte) (reading : Option AgeingReading) (erased : Bool) :
    d.sys.KeepsCores (d.applyWrite k r v reading erased).sys := by
  unfold Dev.applyWrite
  extract_lets had d1 d2 d3 d4
  have h3 : d.sys.KeepsCores d3.sys := .of_cores (by simp [d3, d2, d1])
  have h4 : d.sys.KeepsCores d4.sys := h3.trans (d3.objApply_keepsCores k r v reading erased)
  exact .dite (h4.lift (by simp)) h4

/-! ### Requests and the journal -/

theorem Dev.wholeWrite_keepsCores (d : Dev) (k : Nat) (r : OdpReq) (v : List Byte) (reading : Option AgeingReading) (erased : Bool) :
    d.sys.KeepsCores (d.wholeWrite k r v reading erased).sys := by
  have h := Sys.KeepsCores.refl d.sys
  unfold Dev.wholeWrite
  split
  · exact h.lift (by simp)
  · split
    · exact h.lift (by simp)
    · split
      · exact h.lift (by simp)
      · exact (h.lift (by simp)).trans (Dev.applyWrite_keepsCores _ _ _ _ _ _)

theorem Dev.segmentIn_keepsCores (d : Dev) (k : Nat) (r : OdpReq) (off total : Nat) (reading : Option AgeingReading) (erased : Bool) :
    d.sys.KeepsCores (d.segmentIn k r off total reading erased).sys := by
  unfold Dev.segmentIn
  dsimp only
  split
  · exact (Sys.KeepsCores.refl d.sys).lift (by simp)
  · have h : d.sys.KeepsCores (Dev.sys (if off = 0 then liftSys (fun s => s.onSession k (fun x =>
        { x with wrKey := blockKey r.index r.sub, wrTotal := total, wrData := [] })) d else d)) := .of_cores (by simp)
    exact .dite (h.lift (by simp)) (.dite (h.lift (by simp)) ((h.lift (by simp)).trans (Dev.wholeWrite_keepsCores _ _ _ _ _ _)))

theorem Dev.writeIn_keepsCores (r : OdpReq) (reading : Option AgeingReading) (erased : Bool) (d : Dev) :
    d.sys.KeepsCores (Dev.writeIn r reading erased d).sys := by
  unfold Dev.writeIn Dev.request
  dsimp only
  refine .dite ?_ (.refl _)
  split
  · exact .of_cores (by simp)
  · refine .dite (.of_cores (by simp)) (.dite (.of_cores (by simp)) (.dite (.of_cores (by simp)) (.dite ?_ (.of_cores (by simp)))))
    split
    · exact d.wholeWrite_keepsCores _ _ _ _ _
    · exact d.segmentIn_keepsCores _ _ _ _ _ _

theorem Dev.execute_keepsCores (d : Dev) (g : Datagram) : d.sys.KeepsCores (d.execute g).sys := by
  cases g with
  | openReq o => exact .of_cores (odpOpen_cores ..)
  | prove p => exact .of_cores (odpProve_cores ..)
  | close r => exact .of_cores (Dev.request_cores (by simp) d)
  | read r => exact .of_cores (Dev.request_cores (by simp) d)
  | readBlock r => exact .of_cores (Dev.request_cores (by simp) d)
  | write r a e => exact Dev.writeIn_keepsCores r a e d

theorem Dev.arrive_keepsCores (g : Datagram) (d : Dev) : d.sys.KeepsCores (Dev.arrive g d).sys := by
  unfold Dev.arrive
  refine .dite ?_ (.refl _)
  split
  · exact (Sys.KeepsCores.lift (.refl _) (by simp)).trans (Dev.execute_keepsCores _ g)
  · exact .dite (.refl _) (.dite (.lift (.refl _) (by simp)) (.lift (.refl _) (by simp)))

theorem Dev.serveAll_keepsCores (l : List Datagram) (d : Dev) : d.sys.KeepsCores (Dev.serveAll l d).sys := by
  induction l generalizing d with
  | nil => exact .lift (.refl _) (by simp)
  | cons g l ih => exact .dite (.lift (.refl _) (by simp)) ((d.execute_keepsCores g).trans (ih _))

theorem Dev.writeRequest_keepsCores (w : WriteRow) (r : OdpReq) (a : Option AgeingReading) (e : Bool) (d : Dev) :
    d.sys.KeepsCores (Dev.writeRequest w r a e d).sys := .dite (Dev.arrive_keepsCores _ _) (.refl _)

theorem Dev.recordEnds_keepsCores (n : Nat) (j : JPending) (d : Dev) : d.sys.KeepsCores (Dev.recordEnds n j d).sys := by
  have h := Sys.KeepsCores.refl d.sys
  exact .dite (h.lift (by simp)) (.dite (h.lift (by simp)) ((h.lift fun x => by simp).trans (Dev.applyWrite_keepsCores _ _ _ _ _ _)))

theorem journalValid_keepsCores (n : Nat) (d : Dev) : d.sys.KeepsCores (journalValid n d).sys := by
  unfold journalValid
  split
  · exact .refl _
  · exact .dite (.refl _) (((Sys.KeepsCores.lift (.refl _) (by simp)).trans (Dev.recordEnds_keepsCores _ _ _)).trans (Dev.serveAll_keepsCores _ _))

theorem journalCompaction_keepsCores (n : Nat) (d : Dev) : d.sys.KeepsCores (journalCompaction n d).sys := by
  have h := Sys.KeepsCores.refl d.sys
  unfold journalCompaction
  refine .dite (.dite ?_ (h.lift (by simp))) h
  split
  · exact (h.lift (by simp)).trans (Dev.serveAll_keepsCores _ _)
  · exact h.lift (by simp)

end Sys2Proof.Machine
end

section
/-! PROOF. Cores stay sound, part 14: every command. -/

namespace Sys2Proof.Machine

open Sys2Proof

variable {s t : State}

theorem onSys_keepsCores {f : Sys → Sys} (ht : onSys f s = .next t) (h : s.dev.sys.KeepsCores (f s.dev.sys)) : s.dev.sys.KeepsCores t.dev.sys := by
  cases ht
  exact h

theorem onDev_keepsCores {f : Dev → Dev} (ht : onDev f s = .next t) (h : s.dev.sys.KeepsCores (f s.dev).sys) : s.dev.sys.KeepsCores t.dev.sys := by
  cases ht
  exact h

theorem onRings_keepsCores {f : Dev → Dev} (ht : onRings f s = .next t) (h : s.dev.sys.KeepsCores (f s.dev).sys) :
    s.dev.sys.KeepsCores t.dev.sys :=
  onDev_keepsCores (f := fun d => (f d).syncRings) ht (h.cores (Dev.syncRings_cores _))

theorem onSys_cores {f : Sys → Sys} (ht : onSys f s = .next t) (h : ∀ x, (f x).cores = x.cores) : s.dev.sys.KeepsCores t.dev.sys :=
  onSys_keepsCores ht (.of_cores (h _))

theorem onDev_cores {f : Dev → Dev} (ht : onDev f s = .next t) (h : ∀ d, (f d).sys.cores = d.sys.cores) : s.dev.sys.KeepsCores t.dev.sys :=
  onDev_keepsCores ht (.of_cores (h _))

theorem onRings_cores {f : Dev → Dev} (ht : onRings f s = .next t) (h : ∀ d, (f d).sys.cores = d.sys.cores) : s.dev.sys.KeepsCores t.dev.sys :=
  onRings_keepsCores ht (.of_cores (h _))

/-- An instruction that issues keeps the cores sound. -/
theorem issued_keepsCores {g : Gid} {run : Gid → Dev → Dev} (ht : onDev (issuePicked g run) s = .next t)
    (h : s.dev.sys.KeepsCores (run g s.dev).sys) : s.dev.sys.KeepsCores t.dev.sys :=
  onDev_keepsCores ht (issuePicked_keepsCores h)

/-- An instruction whose effect waits for its result to be written. -/
theorem issued_body_cores {g : Gid} {op : Nat} {body : Issue → Sys → Sys}
    (ht : onDev (issuePicked g fun g => liftSys (issueSys op g body)) s = .next t) (h : ∀ i x, (body i x).cores = x.cores) :
    s.dev.sys.KeepsCores t.dev.sys :=
  issued_keepsCores ht (issueSys_keepsCores fun i _ _ => .of_cores (h i _))

/-- An instruction that reaches the core store with its group's own accesses. -/
theorem issued_dev_keepsCores {g : Gid} {op : Nat} {ok : Issue → Dev → Bool} {check : Issue → Dev → Option Nat} {body : Issue → Sys → Sys}
    (ht : onDev (issuePicked g fun g => issueDev op g ok check fun i => liftSys (body i)) s = .next t) (h : ∀ i x, Sys.KeepsCores x (body i x)) :
    s.dev.sys.KeepsCores t.dev.sys :=
  issued_keepsCores ht (issueDev_keepsCores fun i _ _ _ => h i (s.dev.sys.book i))

/-- An instruction that reaches the core store behind its group's own accesses. -/
theorem issued_cs_keepsCores {g : Gid} {op : Nat} {ok : Issue → Dev → Bool} {check : Issue → Dev → Option Nat} {body : Issue → Dev → Dev}
    (ht : onDev (issuePicked g fun g => issueCs op g ok check body) s = .next t) (h : ∀ i x, Sys.KeepsCores x.sys (body i x).sys) :
    s.dev.sys.KeepsCores t.dev.sys :=
  issued_keepsCores ht (issueCs_keepsCores h)

theorem fence_keepsCores (scope : Nat) (g : Gid) (d : Dev) : d.sys.KeepsCores (fence scope g d).sys :=
  issueDev_keepsCores fun i _ _ _ => (fenceBody_onlyBytes (d.sys.book i) scope i).keeps

/-- Every command keeps the cores sound. The first cases are the commands of the cores, of what ends their work and of resets; all others
leave what the cores' soundness depends on, but for the writes of objects, the last case. Where an effect is written out, `show` names its
meaning. -/
theorem exec_keepsCores {c : Instr} (ht : exec c s = .next t) : s.dev.sys.KeepsCores t.dev.sys := by
  cases c with
  | vin48UndervoltageStop mv => exact onDev_keepsCores ht (vin48Under_keepsCores mv _)
  | resetNLow ns => exact onDev_keepsCores ht (resetNLow_keepsCores ns _)
  | resetNRise slot boot => exact onDev_keepsCores ht (resetNRise_keepsCores slot boot _)
  | odpOpen | odpProve | odpClose | odpRead | odpReadBlock => exact onDev_keepsCores ht (Dev.arrive_keepsCores _ _)
  | journalRecordValid => exact onRings_keepsCores ht (journalValid_keepsCores _ _)
  | journalCompaction => exact onRings_keepsCores ht (journalCompaction_keepsCores _ _)
  | alwaysOnRailsUp => exact onDev_keepsCores ht (alwaysOn_keepsCores _)
  | vin48OvervoltageStop mv =>
    change (if 60000 < mv then _ else onDev (vin48Over mv) s) = _ at ht
    split at ht
    · cases ht
    · exact onDev_keepsCores ht (vin48Over_keepsCores mv _)
  | sampleNow r a => exact onRings_keepsCores (show execSampleNow r a s = _ from ht) (.dite (Dev.writeRequest_keepsCores _ _ _ _ _) (.refl _))
  | add | sub | mul | mulhi | mad | fma | min | max | and | or | xor | not | shl | shr | abs | neg | rcp | sqrt | div | ex2 | lg2 | sin | cos
    | popc | clz => exact issued_body_cores ht (aluBody_cores _ _)
  | cvt | setp | selp | plog | mov | movhi | rdsr | vote | shfl => exact issued_body_cores ht fun _ _ => perLane_cores ..
  | nop => exact issued_body_cores ht fun _ _ => rfl
  | bra => exact issued_keepsCores ht (issueSys_keepsCores fun i => braBody_keepsCores)
  | call => exact issued_keepsCores ht (issueSys_keepsCores fun i _ _ => callBody_keepsCores _ i)
  | ret => exact issued_keepsCores ht (issueSys_keepsCores fun i _ _ => retBody_keepsCores _ i)
  | exit => exact issued_keepsCores ht (issueSys_keepsCores fun i _ _ => exitBody_keepsCores _ i)
  | fenceGrp | fenceBlk | fenceDev | fenceSys => exact issued_keepsCores ht (fence_keepsCores _ _ _)
  | ldC => exact issued_dev_keepsCores ht fun i x => (enterCs_onlyBytes x i _ _).keeps
  | stC => exact issued_dev_keepsCores ht fun i x => (stCBody_onlyBytes x i).keeps
  | atomC => exact issued_dev_keepsCores ht fun i x => (atomCBody_onlyBytes x i).keeps
  | blkJoin => exact issued_dev_keepsCores ht fun i x => joinBody_keepsCores x i
  | ldG => exact issued_keepsCores ht (issueG_keepsCores fun i x _ _ _ => .of_cores (ldGBody_cores i x))
  | stG => exact issued_keepsCores ht (stG_keepsCores _ _)
  | atomG => exact issued_keepsCores ht (atomG_keepsCores _ _)
  | dmaCs => exact issued_cs_keepsCores ht dmaBody_keepsCores
  | arrWait | mxaIssue | mxaDrain | mxaWait | dqPush | dqTake => exact issued_cs_keepsCores ht fun i x => .of_cores (by simp)
  | fabGet | fabPut | fabMput | fabRed | fabAtom | fabPutFlag => exact issued_cs_keepsCores ht fun i x => .of_cores (fabBody_cores ..)
  | fabFence => exact issued_cs_keepsCores ht fun i x => (fabFenceBody_onlyBytes x.sys i).keeps
  | laneDispatch g => exact onSys_keepsCores ht (.guarded (laneDispatch_keepsCores _ g))
  | resultWriteback core quarter => exact onSys_keepsCores ht (.guarded (resultWriteback_keepsCores _ core quarter))
  | mxaOperationComplete core => exact onSys_keepsCores ht (.guarded (mxOpComplete_keepsCores _ core))
  | mxaDrainComplete core => exact onSys_keepsCores ht (.guarded (mxDrainComplete_keepsCores _ core))
  | dmaCopyComplete copy => exact onDev_keepsCores ht (.dguarded (copyComplete_keepsCores copy _))
  | sliceStoreAccept k => exact onDev_keepsCores ht (storeAccept_keepsCores k _)
  | blockPlace grid core slots => exact onRings_keepsCores ht (blockPlace_keepsCores grid core slots _)
  | blockEnd block => exact onRings_keepsCores ht (blockEnd_keepsCores block _)
  | killComplete ring => exact onRings_keepsCores ht (killComplete_keepsCores ring _)
  | pushAccept queue => exact onSys_keepsCores ht (pushAccept_onlyBytes _ queue).keeps
  | decodeClose ring idx => exact onRings_keepsCores ht (decodeClose_onlyBytes s.dev.sys ring idx).keeps
  | takeHeaderWrite queue take => exact onRings_keepsCores ht (takeHeaderWrite_onlyBytes s.dev.sys queue take).keeps
  | dataReply p => exact onRings_keepsCores ht (dataReply_onlyBytes s.dev p).keeps
  | resultReply p => exact onRings_keepsCores ht (resultReply_onlyBytes s.dev p).keeps
  | ackReply p => exact onRings_keepsCores ht (ackReply_onlyBytes s.dev p).keeps
  | nakReply p => exact onRings_keepsCores ht (nakReply_onlyBytes s.dev p).keeps
  | helloReceive p x => exact onSys_cores (show execHelloReceive p x s = _ from ht) (by simp)
  | ethPortState p up => exact onSys_cores (show execEthPortState p up s = _ from ht) (by simp)
  | vin48Start | vin48OvervoltageClear | managementRailUp | thermalTrip | laserLineLoss | laserLineRestored
    | laserHoldExpiry | fwVerifyDone | clockStartDone | powerWave | odpDatagramDiscard | sessionIdleTimeout
    | operandRead | progressStalled | kettleTurnEnd
    | batchBudgetExpiry | voteBudgetExpiry | coordinatorBudgetExpiry | epochInDoubt | ctrlPacket | ctrlResend
    | lockComplete | alignComplete | negotiateComplete | verifyWindowEnd | trainingStateTimeout | dataFlitReceive | nullFlitReceive
    | trainFlitReceive | flitTransmit | linkReplayTimeout | signalLost | portDegraded | helloSend | fabricTimeout
    | collectiveStalled | frameReceive | pfcPauseReceive | pfcXoffRepeat | cnpReceive | rateIncrease | maskedSummary
    | remapTestComplete | ageingSample | tapBypass | samplePreload | tapExtest | mgmtHalt | mgmtMem | siteScan | stackTrainStepFailed
    | refclkValid | refclkLate | stackTrainTimeout | linkTrainDeadline | ownerVoteReceive | blockVoteReceive
    | spliceTrainingTimeout | mgmtStop | tapIdcode | coreTestRow | powerSample | raiseWindowEnd | blockManagerPoll =>
    exact onSys_cores ht (by simp)
  | stackTrained | sliceMissFill | scrubLine | targetRed | targetAtom | takeClaim | getPacket | putPacket | coreAssignCommit
    | flagPacket | mputPacket | redPacket | atomPacket | combinedPacket | eventRingPoll | rdmaWriteReceive | rdmaReadRequest | maskedFault
    | eventRecordWrite => exact onDev_cores ht (by simp)
  | gemvDescriptorComplete id => exact onRings_cores (show execGemvDescriptorComplete id s = _ from ht) (Dev.finishTask_cores (by simp))
  | scalePassDescriptorComplete id => exact onRings_cores (show execScalePassDescriptorComplete id s = _ from ht) (Dev.finishTask_cores (by simp))
  | updateDescriptorComplete id => exact onRings_cores (show execUpdateDescriptorComplete id s = _ from ht) (Dev.finishTask_cores (by simp))
  | rootAttempt id => exact onRings_cores (show execRootAttempt id s = _ from ht) (Dev.finishTask_cores (by simp))
  | doorbellNotice r => exact onRings_cores (show execDoorbellNotice r s = _ from ht) (by simp)
  | eventWaitSample r => exact onRings_cores (show execEventWaitSample r s = _ from ht) (by simp)
  | launch | copyHostRead | publishComplete | invalidRequest | rdmaRetransmitTimeout
    | fenceRing | fencePartition | completionRecordWrite | kettleDescriptorStart | gemvList | copyScalePass
    | decodeOpen | copyLocal | copyFabric | copyHostWrite | updateStep | updatePublish | updateStart | packetRoute
    | resendDelayExpiry | collective | collectiveStart | segmentSend | segmentIngress | allGatherSegment
    | stragglerBudgetExpiry | collectiveComplete | partitionResetApply | sendReceive | commandRead | commandStart | eventSignal | eventWait
    | detectedFault | rdmaResponseReceive | decisionReceive | doorbellPoll => exact onRings_cores ht (by simp)
  | _ => exact onRings_keepsCores ht (Dev.writeRequest_keepsCores _ _ _ _ _)

theorem step_keepsCores (ht : step s = .next t) : s.dev.sys.KeepsCores t.dev.sys := by
  unfold step at ht
  split at ht
  · cases ht
    exact .of_cores (Sys.tick_cores _)
  next rest _ => exact exec_keepsCores (s := { s with pending := rest }) ht

/-- Settles O4: every command, and an idle step, keeps the groups, stores, copies and instructions in flight sound (R178, R191, R226). -/
theorem coresStaySound : Obligations.CoresStaySound := fun _ _ h ht => step_keepsCores ht h

end Sys2Proof.Machine
end


section
/-! PROOF. What an instruction that issues does: its collector, its group, and values that wait for its destinations (R178, R185, R188). -/

namespace Sys2Proof.Machine

open Sys2Proof

/-! ### Groups after an update -/

section
variable (s : Sys)

/-- A group after an update that keeps the groups' places. -/
theorem Sys.onGroup_group? {gid : Gid} {f : Group → Group} (hf : ∀ x, (f x).gid = x.gid) (h : Gid) :
    (s.onGroup gid f).core.group? h = (s.core.group? h).map (fun x => if x.gid == gid then f x else x) := by
  have hp : ((fun x : Group => x.gid == h) ∘ fun x => if x.gid == gid then f x else x) = fun x => x.gid == h := by
    funext x
    simp only [Function.comp_apply]
    split
    · rw [hf]
    · rfl
  simp only [CoreState.group?, Sys.onGroup, Sys.onCore_core]
  rw [List.find?_map, hp]

theorem Sys.onGroup_group?_same {gid : Gid} {f : Group → Group} (hf : ∀ x, (f x).gid = x.gid) {x : Group} (hx : s.core.group? gid = some x) :
    (s.onGroup gid f).core.group? gid = some (f x) := by
  rw [s.onGroup_group? hf, hx]
  simp [(CoreState.mem_of_group? hx).2]

theorem Sys.onGroup_group?_other {gid h : Gid} {f : Group → Group} (hf : ∀ x, (f x).gid = x.gid) (hne : h ≠ gid) :
    (s.onGroup gid f).core.group? h = s.core.group? h := by
  rw [s.onGroup_group? hf]
  cases hx : s.core.group? h with
  | none => rfl
  | some x => simp [(CoreState.mem_of_group? hx).2, hne]

/-- A group with an instruction in a collector stays (R191). -/
theorem Sys.reap_of_collecting {gid : Gid} (h : ∃ k ∈ s.core.collectors, k.gid = gid) : s.reap gid = s := by
  have hany : s.core.collectors.any (fun k => k.gid == gid) = true := by simpa using h
  have hf : s.core.groups.filter (fun g =>
      !(g.gid == gid && g.live == 0 && g.busy == [] && !s.core.collectors.any (fun k => k.gid == gid))) = s.core.groups :=
    List.filter_eq_self.2 fun g _ => by simp [hany]
  simp only [Sys.reap, Sys.onCore, hf]

end

/-! ### An instruction that has issued (R178, R185) -/

/-- The instruction waits in a collector with `vals`, and its group has gone on. -/
def Sys.bookWith (s : Sys) (i : Issue) (vals : List (Nat × Nat)) : Sys :=
  { s.book i with core := { (s.book i).core with
    collectors := s.core.collectors ++ [⟨i.grp.gid, dedup i.info.reads, i.info.dests, i.info.unit, vals⟩] } }

/-- The instruction waits in a collector with `vals`, and its group has gone on and then done `f`. -/
def Sys.issued (s : Sys) (i : Issue) (vals : List (Nat × Nat)) (f : Group → Group) : Sys :=
  ((s.bookWith i vals).onGroup i.grp.gid f).settle i.grp.gid

def State.issued (s : State) (i : Issue) (vals : List (Nat × Nat)) (f : Group → Group) : State :=
  { s with dev := { s.dev with sys := s.dev.sys.issued i vals f } }

/-- A change of a group's path alone. -/
def Group.PathOnly (f : Group → Group) : Prop :=
  ∀ x, (f x).gid = x.gid ∧ (f x).regs = x.regs ∧ (f x).preds = x.preds ∧ (f x).busy = x.busy

theorem Group.PathOnly.id : Group.PathOnly id := fun _ => ⟨rfl, rfl, rfl, rfl⟩

section
variable {s : Sys} {i : Issue} {vals : List (Nat × Nat)} {f : Group → Group}

theorem Sys.issued_eq : s.issued i vals f = ((s.bookWith i vals).onGroup i.grp.gid f).onGroup i.grp.gid Group.settle :=
  Sys.reap_of_collecting _ ⟨_, List.mem_append_right _ (List.mem_singleton.2 rfl), rfl⟩

theorem Sys.bookWith_group? (h : s.core.group? i.grp.gid = some i.grp) :
    (s.bookWith i vals).core.group? i.grp.gid = some (i.grp.booked i.info.dests (s.core.nextId + 1)) :=
  s.onGroup_group?_same (f := fun x => x.booked i.info.dests (s.core.nextId + 1)) (fun _ => rfl) h

theorem Sys.bookWith_group?_other {h : Gid} (hne : h ≠ i.grp.gid) : (s.bookWith i vals).core.group? h = s.core.group? h :=
  s.onGroup_group?_other (f := fun x => x.booked i.info.dests (s.core.nextId + 1)) (fun _ => rfl) hne

theorem Sys.issued_group? (hf : Group.PathOnly f) (h : s.core.group? i.grp.gid = some i.grp) :
    (s.issued i vals f).core.group? i.grp.gid = some (f (i.grp.booked i.info.dests (s.core.nextId + 1))).settle := by
  rw [Sys.issued_eq]
  exact Sys.onGroup_group?_same _ (fun x => x.settle_gid) (Sys.onGroup_group?_same _ (fun x => (hf x).1) (Sys.bookWith_group? h))

theorem Sys.issued_group?_other (hf : Group.PathOnly f) {h : Gid} (hne : h ≠ i.grp.gid) :
    (s.issued i vals f).core.group? h = s.core.group? h := by
  rw [Sys.issued_eq, Sys.onGroup_group?_other _ (fun x => x.settle_gid) hne, Sys.onGroup_group?_other _ (fun x => (hf x).1) hne,
    Sys.bookWith_group?_other hne]

theorem Sys.onGroup_id (s : Sys) (gid : Gid) : s.onGroup gid id = s := by
  simp only [Sys.onGroup, Sys.onCore, id_eq, ite_self, List.map_id']

/-- Values held for a fresh destination wait with the new instruction alone. -/
theorem Sys.book_hold (hc : ∀ k ∈ s.core.flying, k.1 = i.grp.gid → ∀ r ∈ i.info.dests, r ∉ k.2) {r : Nat} (hr : r ∈ i.info.dests) :
    (s.book i).hold i.grp.gid r vals = s.bookWith i vals := by
  have hcoll : s.core.collectors.map (fun k => if k.gid == i.grp.gid && k.dests.contains r then { k with vals := k.vals ++ vals } else k)
      = s.core.collectors :=
    (List.map_congr_left fun k hk => if_neg (by
      simp only [Bool.and_eq_true, beq_iff_eq, List.contains_iff_mem]
      exact fun h => hc (k.gid, k.dests) (List.mem_append_left _ (List.mem_map_of_mem hk)) h.1 r hr h.2)).trans (List.map_id' _)
  have hres : s.core.results.map (fun k => if k.gid == i.grp.gid && k.dests.contains r then { k with vals := k.vals ++ vals } else k)
      = s.core.results :=
    (List.map_congr_left fun k hk => if_neg (by
      simp only [Bool.and_eq_true, beq_iff_eq, List.contains_iff_mem]
      exact fun h => hc (k.gid, k.dests) (List.mem_append_right _ (List.mem_map_of_mem hk)) h.1 r hr h.2)).trans (List.map_id' _)
  simp only [Sys.bookWith, Sys.hold, Sys.book, Sys.onGroup, Sys.onCore, List.map_append, hcoll, hres, List.map_cons, List.map_nil]
  simp [hr]

end

section
variable {s : State} {op : Nat} {g : Gid} {i : Issue}

/-- The one outcome of an instruction of the picked group that issues. -/
theorem Dev.Goes.exec_issued {body : Issue → Sys → Sys} (h : s.dev.Goes op g i) :
    onDev (issuePicked g (fun g => liftSys (issueSys op g body))) s
      = .next { s with dev := { s.dev with sys := (body i (s.dev.sys.book i)).settle i.grp.gid } } := by
  simp only [onDev, issuePicked_of h.1, liftSys, issueSys, h.2, h.group.2]

/-- No instruction in flight of the group has one of the new one's destinations. -/
theorem Dev.Goes.flying (h : s.dev.Goes op g i) (hok : s.dev.sys.core.Ok) :
    ∀ k ∈ s.dev.sys.core.flying, k.1 = i.grp.gid → ∀ r ∈ i.info.dests, r ∉ k.2 := by
  intro k hk e r hr hkr
  obtain ⟨-, hfree⟩ := Sys.prepare_issueFree hok h.2
  obtain ⟨-, -, -, -, -, hfl, -⟩ := hok
  obtain ⟨x, hx, hgid, hbusy⟩ := hfl k hk r hkr
  exact hfree x hx (hgid.trans e) r hr hbusy

theorem State.issued_onlyGroup (s : State) (i : Issue) (vals : List (Nat × Nat)) {f : Group → Group} (hf : Group.PathOnly f) :
    s.OnlyGroup (s.issued i vals f) i.grp.gid :=
  ⟨rfl, rfl, rfl, rfl, rfl, rfl, rfl, rfl, rfl, rfl, rfl, rfl, fun _ hne => Sys.issued_group?_other hf hne⟩

theorem Dev.Goes.issued_booked (h : s.dev.Goes op g i) (vals : List (Nat × Nat)) {f : Group → Group} (hf : Group.PathOnly f) :
    s.Booked (s.issued i vals f) i (f (i.grp.booked i.info.dests (s.dev.sys.core.nextId + 1))).settle vals := by
  obtain ⟨hgid, hregs, hpreds, hbusy⟩ := hf (i.grp.booked i.info.dests (s.dev.sys.core.nextId + 1))
  have hgrp : s.dev.sys.core.group? i.grp.gid = some i.grp := h.group.2 ▸ (Sys.prepare_go h.2).1
  refine ⟨Sys.issued_group? hf hgrp, ?_, ?_, fun r => ?_, ?_, ?_⟩
  · rw [Group.settle_regs, hregs]
    rfl
  · rw [Group.settle_preds, hpreds]
    rfl
  · rw [Group.settle_busy, hbusy]
    exact i.grp.mem_booked_busy _ _ r
  · show (s.dev.sys.issued i vals f).core.collectors = _
    rw [Sys.issued_eq]
    rfl
  · show (s.dev.sys.issued i vals f).core.results = _
    rw [Sys.issued_eq]
    rfl

/-- The group that issues is on a path (R179). -/
theorem Dev.Goes.mask_ne (h : s.dev.Goes op g i) : i.grp.mask ≠ 0 := by
  obtain ⟨-, hc, -⟩ := Sys.prepare_go h.2
  simp only [Sys.canIssue, Bool.and_eq_true, bne_iff_ne] at hc
  obtain ⟨⟨⟨⟨-, hm⟩, -⟩, -⟩, -⟩ := hc
  exact hm

theorem Dev.Goes.issued_nextAt (h : s.dev.Goes op g i) (n : Nat) : i.NextAt (i.grp.booked i.info.dests n).settle := by
  refine ⟨Group.settle_live _, Group.settle_parked _, fun hstop => ?_⟩
  rw [Group.settle_of_path (i.grp.booked i.info.dests n) h.mask_ne hstop]
  exact ⟨rfl, rfl, rfl⟩

end

/-! ### The values of lanes (R188) -/

/-- What an instruction's effect on its group, lane by lane, leaves for its destinations. -/
def Issue.laneVals (i : Issue) (f : Nat → Group → Group) : List (Nat × Nat) :=
  i.info.dests.flatMap (fun d =>
    if d < 256 then i.act.map (fun l => (l * 256 + d, (runAll f i.act i.grp).reg l d))
    else [(8192 + (d - 256), ((runAll f i.act i.grp).preds.getD (d - 256) 0).toNat)])

/-- An instruction's effect on its group lane by lane waits for its destinations. -/
theorem Dev.Goes.perLane_eq {s : State} {op : Nat} {g : Gid} {i : Issue} (h : s.dev.Goes op g i) (hok : s.dev.sys.core.Ok)
    (f : Nat → Group → Group) : perLane i f (s.dev.sys.book i) = s.dev.sys.bookWith i (i.laneVals f) := by
  unfold perLane
  dsimp only
  split
  next hd =>
    rw [show i.laneVals f = [] by simp [Issue.laneVals, hd]]
    rfl
  next r ds hd => rw [← Issue.laneVals, Sys.book_hold (h.flying hok) (hd ▸ List.mem_cons_self)]

/-- The one outcome of an instruction that does `f` to its group, `vals` waiting for its destinations. -/
theorem Dev.Goes.exec_onGroup {s : State} {op : Nat} {g : Gid} {i : Issue} {body : Issue → Sys → Sys} {vals : List (Nat × Nat)}
    {f : Group → Group} (h : s.dev.Goes op g i) (hb : body i (s.dev.sys.book i) = (s.dev.sys.bookWith i vals).onGroup i.grp.gid f) :
    onDev (issuePicked g (fun g => liftSys (issueSys op g body))) s = .next (s.issued i vals f) := by
  rw [h.exec_issued, hb]
  rfl

end Sys2Proof.Machine
end

section
/-! PROOF. The values that lanes give D, and which registers those are (R183, R188, Tables 5-8 and 5-9). -/

namespace Sys2Proof.Machine

open Sys2Proof

/-! ### Writing a lane's registers -/

section
variable (g : Group) (lane r : Nat)

/-- An operand's write changes the registers alone, and keeps them canonical. -/
theorem Group.setRegN_rest (n v : Nat) : ∃ rs, g.setRegN lane r n v = { g with regs := rs } ∧ (g.regs.wf = true → rs.wf = true) := by
  induction n generalizing g r v with
  | zero => exact ⟨g.regs, rfl, id⟩
  | succ n ih =>
    obtain ⟨rs, h, hwf⟩ := ih { g with regs := NMap.set g.regs (lane * 256 + r) (v % 2 ^ 32) } (r + 1) (v / 2 ^ 32)
    exact ⟨rs, h, fun hg => hwf (NMap.set_wf _ _ hg)⟩

/-- The registers of an operand after its write, low register first, and all others as before. -/
theorem Group.setRegN_get (h : g.regs.wf = true) (n v k : Nat) : NMap.get (g.setRegN lane r n v).regs k
    = if lane * 256 + r ≤ k ∧ k < lane * 256 + r + n then v / 2 ^ (32 * (k - (lane * 256 + r))) % 2 ^ 32 else NMap.get g.regs k := by
  induction n generalizing g r v with
  | zero => rw [if_neg (by omega)]; rfl
  | succ n ih =>
    rw [Group.setRegN, ih _ _ (NMap.set_wf _ _ h), NMap.get_set _ _ _ h]
    by_cases hk : k = lane * 256 + r
    · subst hk
      rw [if_neg (by omega), if_pos rfl, if_pos (by omega), Nat.sub_self]
      simp
    · rw [if_neg hk]
      by_cases hin : lane * 256 + r ≤ k ∧ k < lane * 256 + r + (n + 1)
      · rw [if_pos (by omega), if_pos hin, Nat.div_div_eq_div_mul, ← pow_add]
        congr 3
        omega
      · rw [if_neg (by omega), if_neg hin]

end

/-- `x` is group `g` but for registers in places before `n`. -/
structure Group.From (g x : Group) (n : Nat) : Prop where
  rest : x = { g with regs := x.regs }
  wf : x.regs.wf = true
  regs : ∀ k, n ≤ k → NMap.get x.regs k = NMap.get g.regs k

namespace Group.From

variable {g x : Group} {l n : Nat}

theorem refl (h : g.regs.wf = true) (n : Nat) : g.From g n := ⟨rfl, h, fun _ _ => rfl⟩

theorem mono {m : Nat} (h : g.From x n) (hm : n ≤ m) : g.From x m := ⟨h.rest, h.wf, fun k hk => h.regs k (le_trans hm hk)⟩

theorem preds (h : g.From x n) : x.preds = g.preds := by
  rw [h.rest]

theorem regN (h : g.From x (l * 256)) (r n : Nat) : x.regN l r n = g.regN l r n := by
  induction n generalizing r with
  | zero => rfl
  | succ n ih => rw [Group.regN, Group.regN, ih, Group.reg, Group.reg, h.regs _ (by omega)]

theorem reg (h : g.From x (l * 256)) (r : Nat) : x.reg l r = g.reg l r := h.regs _ (by omega)

theorem predBit (h : g.From x n) (l p : Nat) : x.predBit l p = g.predBit l p := by
  rw [Group.predBit, Group.predBit, h.preds]

theorem srcB (h : g.From x (l * 256)) (i : CoreInst) : x.srcB i l = g.srcB i l := by
  rw [Group.srcB, Group.srcB, h.regN]

/-- A write of a lane's registers leaves those of the lanes after it. -/
theorem setRegN (h : g.From x (l * 256)) {d w : Nat} (hd : d + w ≤ 256) (v : Nat) : g.From (x.setRegN l d w v) ((l + 1) * 256) := by
  obtain ⟨rs, e, hwf⟩ := x.setRegN_rest l d w v
  refine ⟨?_, ?_, fun k hk => ?_⟩
  · rw [e]
    exact congrArg (fun y : Group => { y with regs := rs }) h.rest
  · rw [e]
    exact hwf h.wf
  · have hl : l * 256 ≤ k := le_trans (Nat.mul_le_mul_right _ (Nat.le_succ l)) hk
    rw [x.setRegN_get l d h.wf, if_neg (by omega)]
    exact h.regs k hl

end Group.From

/-- Lanes in rising order, each of which takes a value from the group as it stood: each holds its value after all of them. -/
theorem runAll_lanes {g : Group} {f : Nat → Group → Group} {v : Nat → Nat} {d w : Nat} (hd : d + w ≤ 256) (ls : List Nat)
    (hs : ls.Pairwise (· < ·)) (hf : ∀ l ∈ ls, ∀ x, g.From x (l * 256) → f l x = x.setRegN l d w (v l)) (x : Group)
    (hx : x.regs.wf = true) (hfrom : ∀ l ∈ ls, g.From x (l * 256)) :
    (∀ l ∈ ls, ∀ j < w, (runAll f ls x).reg l (d + j) = v l / 2 ^ (32 * j) % 2 ^ 32)
      ∧ ∀ k, (∀ l ∈ ls, k < l * 256) → NMap.get (runAll f ls x).regs k = NMap.get x.regs k := by
  induction ls generalizing x with
  | nil => exact ⟨nofun, fun _ _ => rfl⟩
  | cons l ls ih =>
    obtain ⟨hl, hs⟩ := List.pairwise_cons.1 hs
    have hlx := hfrom l List.mem_cons_self
    have hset := hlx.setRegN hd (v l)
    have hget := x.setRegN_get l d hx w (v l)
    obtain ⟨hvals, hkeep⟩ := ih hs (fun m hm => hf m (List.mem_cons_of_mem _ hm)) (x.setRegN l d w (v l)) hset.wf
      (fun m hm => hset.mono (Nat.mul_le_mul_right _ (hl m hm)))
    rw [runAll, hf l List.mem_cons_self x hlx]
    refine ⟨fun m hm j hj => ?_, fun k hk => ?_⟩
    · obtain rfl | hm := List.mem_cons.1 hm
      · rw [Group.reg, hkeep _ fun n hn => by have := hl n hn; omega, hget, if_pos (by omega)]
        congr 4
        omega
      · exact hvals m hm j hj
    · have := hk l List.mem_cons_self
      rw [hkeep k fun n hn => hk n (List.mem_cons_of_mem _ hn), hget, if_neg (by omega)]

theorem lanes_sorted (m : BitVec 32) : (lanes m).Pairwise (· < ·) := List.pairwise_lt_range.filter _

theorem mem_lanes {m : BitVec 32} {l : Nat} : l ∈ lanes m ↔ l < 32 ∧ m.getLsbD l = true := by
  simp [lanes]

section
variable {s : State} {op : Nat} {g : Gid} {i : Issue} {f : Nat → Group → Group}

/-- The executing lanes, in rising order. -/
theorem Dev.Goes.act_eq (h : s.dev.Goes op g i) : i.act = lanes (i.grp.actMask i.inst) := by
  obtain ⟨-, -, -, -, -, -, -, hact⟩ := Sys.prepare_go h.2
  exact hact

theorem Dev.Goes.grp_ok (h : s.dev.Goes op g i) (hok : s.dev.sys.core.Ok) : i.grp.Ok := hok.2.1 _ h.group.1

/-- D of each executing lane takes the lane's value. -/
theorem Dev.Goes.laneVals_are (h : s.dev.Goes op g i) (hok : s.dev.sys.core.Ok) {d w : Nat} {v : Nat → Nat} (hdests : i.info.dests = regRun d w)
    (hd : d + w ≤ 256) (hf : ∀ l ∈ i.act, ∀ x, i.grp.From x (l * 256) → f l x = x.setRegN l d w (v l)) :
    ValsAre (i.laneVals f) i.act d w v := by
  obtain ⟨hregs, -⟩ := h.grp_ok hok
  obtain ⟨hvals, -⟩ := runAll_lanes hd i.act (h.act_eq ▸ lanes_sorted _) hf i.grp hregs fun l _ => .refl hregs _
  intro kv
  simp only [Issue.laneVals, hdests, List.mem_flatMap, regRun, List.mem_map, List.mem_range]
  constructor
  · rintro ⟨_, ⟨j, hj, rfl⟩, hkv⟩
    rw [if_pos (by omega)] at hkv
    obtain ⟨l, hl, rfl⟩ := List.mem_map.1 hkv
    exact ⟨l, hl, j, hj, by rw [hvals l hl j hj, Nat.add_assoc]⟩
  · rintro ⟨l, hl, j, hj, rfl⟩
    refine ⟨d + j, ⟨j, hj, rfl⟩, ?_⟩
    rw [if_pos (by omega)]
    exact List.mem_map.2 ⟨l, hl, by rw [hvals l hl j hj, Nat.add_assoc]⟩

/-! ### The registers of D (R183, Table 5-3) -/

theorem Dev.Goes.d_lt (h : s.dev.Goes op g i) : i.inst.d < 256 := by
  obtain ⟨-, -, -, hx, -⟩ := Sys.prepare_go h.2
  unfold Sys.nextInst at hx
  split at hx
  · obtain ⟨w, -, e⟩ := Option.map_eq_some_iff.1 hx
    rw [← e]
    exact Nat.mod_lt _ (by decide)
  · cases hx

theorem tyRegs_le (t : Nat) : tyRegs t = 1 ∨ tyRegs t = 2 := by
  unfold tyRegs
  split <;> simp

/-- A register or an even pair within the first 256. -/
theorem regOk_le {limit r n : Nat} (hr : r < 256) (hn : n = 1 ∨ n = 2) (h : regOk limit r n = true) : r + n ≤ 256 := by
  simp only [regOk, Bool.and_eq_true, beq_iff_eq] at h
  obtain ⟨-, hmod⟩ := h
  obtain rfl | rfl := hn <;> omega

/-- What an instruction of Table 5-8 writes: D, a single register for a count of bits. -/
def aluWidth (op t : Nat) : Nat := if op = 0x0E ∨ op = 0x0F then 1 else tyRegs t

theorem opInfo_alu {limit : Nat} {x : CoreInst} {o : OpInfo} {row : AluRow} (h : opInfo limit x = some o) (hrow : aluRow x.op = some row) :
    o.dests = regRun x.d (aluWidth x.op x.ty) ∧ regOk limit x.d (aluWidth x.op x.ty) = true := by
  simp only [opInfo, hrow, Option.map_eq_some_iff] at h
  obtain ⟨r, hr, rfl⟩ := h
  simp only [aluInfo, Option.ite_none_right_eq_some, Bool.and_eq_true, Option.some.injEq] at hr
  obtain ⟨⟨⟨⟨⟨-, hd⟩, -⟩, -⟩, -⟩, rfl⟩ := hr
  exact ⟨rfl, hd⟩

theorem aluWidth_le (op t : Nat) : aluWidth op t = 1 ∨ aluWidth op t = 2 := by
  unfold aluWidth
  split
  · exact .inl rfl
  · exact tyRegs_le t

theorem aluRow_move {op : Nat} (h : 0x48 ≤ op ∧ op ≤ 0x5C) : aluRow op = none := by
  obtain ⟨h1, h2⟩ := h
  interval_cases op <;> rfl

theorem opInfo_move {limit : Nat} {x : CoreInst} {o : OpInfo} (h : opInfo limit x = some o) (hx : 0x48 ≤ x.op ∧ x.op ≤ 0x5C) :
    ∃ r, moveInfo limit x = some r ∧ o.dests = r.dests := by
  rw [opInfo, aluRow_move hx] at h
  simp only [hx] at h
  obtain ⟨r, hr, rfl⟩ := Option.map_eq_some_iff.1 h
  exact ⟨r, hr, rfl⟩

end

end Sys2Proof.Machine
end

section
/-! PROOF. Lanes take values and predicates (R178 to R180, R185, R188, R210, Tables 5-8, 5-9 and 5-11). -/

namespace Sys2Proof.Machine

open Sys2Proof

section
variable {s : State} {op : Nat} {g : Gid} {i : Issue} {f : Nat → Group → Group} {body : Issue → Sys → Sys} {c : Instr}

/-- The group an instruction that issues leaves: gone on, with its destinations awaited. -/
def Issue.after (i : Issue) (s : State) : Group := (i.grp.booked i.info.dests (s.dev.sys.core.nextId + 1)).settle

/-- An instruction whose effect waits lane by lane for its destinations leaves all but its group's place as it was. -/
theorem Dev.Goes.perLane_ends (h : s.dev.Goes op g i) (hok : s.dev.sys.core.Ok)
    (hc : exec c s = onDev (issuePicked g (fun g => liftSys (issueSys op g body))) s)
    (hb : body i (s.dev.sys.book i) = perLane i f (s.dev.sys.book i)) {P : List (Nat × Nat) → Prop} (hP : P (i.laneVals f)) :
    ∃ t g' vals, exec c s = .next t ∧ s.OnlyGroup t g ∧ s.Booked t i g' vals ∧ i.NextAt g' ∧ P vals :=
  ⟨_, i.after s, _, hc.trans (h.exec_onGroup (hb.trans ((h.perLane_eq hok f).trans (Sys.onGroup_id _ _).symm))), h.group.2 ▸ s.issued_onlyGroup i _ Group.PathOnly.id,
    h.issued_booked _ Group.PathOnly.id, h.issued_nextAt _, hP⟩

/-- A row whose effect gives each executing lane a value in D. -/
theorem Dev.Goes.lane_ends (h : s.dev.Goes op g i) (hok : s.dev.sys.core.Ok)
    (hc : exec c s = onDev (issuePicked g (fun g => liftSys (issueSys op g body))) s)
    (hb : body i (s.dev.sys.book i) = perLane i f (s.dev.sys.book i)) {w : Nat} {v : Nat → Nat}
    (hd : i.info.dests = regRun i.inst.d w ∧ i.inst.d + w ≤ 256)
    (hf : ∀ l x, i.grp.From x (l * 256) → f l x = x.setRegN l i.inst.d w (v l)) :
    ∃ t g' vals, exec c s = .next t ∧ s.OnlyGroup t g ∧ s.Booked t i g' vals ∧ i.NextAt g' ∧ ValsAre vals i.act i.inst.d w v :=
  h.perLane_ends hok hc hb (h.laneVals_are hok hd.1 hd.2 fun l _ => hf l)

/-- The rows of Table 5-8. -/
theorem Dev.Goes.alu_ends {r : AluRow} {o : Nat → Nat → Nat → Nat → Nat} {w : Nat → Nat} (h : s.dev.Goes op g i) (hok : s.dev.sys.core.Ok)
    (hc : exec c s = onDev (issuePicked g (fun g => liftSys (issueSys op g (aluBody o w)))) s) (hrow : aluRow op = some r)
    (hw : ∀ t, w t = aluWidth op t) :
    ∃ t g' vals, exec c s = .next t ∧ s.OnlyGroup t g ∧ s.Booked t i g' vals ∧ i.NextAt g'
      ∧ ValsAre vals i.act i.inst.d ((LaneRow.alu g op o w).width i.inst) ((LaneRow.alu g op o w).value s.dev.sys.core.cycles i) := by
  obtain ⟨rfl, hinfo⟩ := h.opInfo
  obtain ⟨hdests, hd⟩ := opInfo_alu hinfo hrow
  rw [← hw] at hdests hd
  have hw' : w i.inst.ty = 1 ∨ w i.inst.ty = 2 := hw _ ▸ aluWidth_le _ _
  refine h.lane_ends hok hc rfl ⟨hdests, regOk_le h.d_lt hw' hd⟩ fun l x hx => ?_
  simp only [aluLane, hx.regN, hx.srcB, LaneRow.alu]

end

/-! ### The rows of Table 5-9 -/

section
variable {limit : Nat} {x : CoreInst} {r : OpInfo}

theorem cvtRegs_le {c n : Nat} (h : cvtRegs c = some n) : n = 1 ∨ n = 2 := by
  unfold cvtRegs at h
  split_ifs at h <;> cases h <;> simp

theorem cvtWidth_of {c n : Nat} (h : cvtRegs c = some n) : cvtWidth c = n := by
  simp only [cvtWidth, h]

theorem moveInfo_cvt (h : moveInfo limit x = some r) (hx : x.op = 0x48) :
    r.dests = regRun x.d (cvtWidth (bits x.mod 7 4)) ∧ regOk limit x.d (cvtWidth (bits x.mod 7 4)) = true
      ∧ (cvtWidth (bits x.mod 7 4) = 1 ∨ cvtWidth (bits x.mod 7 4) = 2) := by
  simp only [moveInfo, hx] at h
  split at h
  next sn dn _ hdn =>
    simp only [Option.ite_none_right_eq_some, Bool.and_eq_true, Option.some.injEq] at h
    obtain ⟨⟨-, hd⟩, rfl⟩ := h
    rw [cvtWidth_of hdn]
    exact ⟨rfl, hd, cvtRegs_le hdn⟩
  · cases h

theorem moveInfo_typed (h : moveInfo limit x = some r) (hx : x.op = 0x51 ∨ x.op = 0x58 ∨ x.op = 0x5C) :
    r.dests = regRun x.d (tyRegs x.ty) ∧ regOk limit x.d (tyRegs x.ty) = true := by
  obtain hx | hx | hx := hx
  · simp only [moveInfo, hx, Option.ite_none_right_eq_some, Bool.and_eq_true, Option.some.injEq] at h
    obtain ⟨⟨⟨⟨-, hd⟩, -⟩, -⟩, rfl⟩ := h
    exact ⟨rfl, hd⟩
  · simp only [moveInfo, hx, Option.ite_none_right_eq_some, Bool.and_eq_true, Option.some.injEq] at h
    obtain ⟨⟨⟨-, hd⟩, -⟩, rfl⟩ := h
    exact ⟨rfl, hd⟩
  · simp only [moveInfo, hx, Option.ite_none_right_eq_some, Bool.and_eq_true, Option.some.injEq] at h
    obtain ⟨⟨⟨⟨-, hd⟩, -⟩, -⟩, rfl⟩ := h
    exact ⟨rfl, hd⟩

theorem moveInfo_single (h : moveInfo limit x = some r) (hx : x.op = 0x59 ∨ x.op = 0x5A ∨ x.op = 0x5B) : r.dests = regRun x.d 1 := by
  obtain hx | hx | hx := hx <;> simp only [moveInfo, hx, Option.ite_none_right_eq_some, Option.some.injEq] at h <;>
    obtain ⟨-, rfl⟩ := h <;> rfl

theorem moveInfo_pred (h : moveInfo limit x = some r) (hx : x.op = 0x50 ∨ x.op = 0x52) : r.dests = [256 + x.d] ∧ x.d < 7 := by
  obtain hx | hx := hx
  · simp only [moveInfo, hx, Option.ite_none_right_eq_some, Bool.and_eq_true, decide_eq_true_eq, Option.some.injEq] at h
    obtain ⟨⟨⟨⟨⟨⟨hd, -⟩, -⟩, -⟩, -⟩, -⟩, rfl⟩ := h
    exact ⟨rfl, hd⟩
  · simp only [moveInfo, hx, Option.ite_none_right_eq_some, Bool.and_eq_true, decide_eq_true_eq, Option.some.injEq] at h
    obtain ⟨⟨⟨⟨⟨hd, -⟩, -⟩, -⟩, -⟩, rfl⟩ := h
    exact ⟨rfl, hd⟩

end

section
variable {s : State} {op : Nat} {g : Gid} {i : Issue}

theorem Dev.Goes.move_dests (h : s.dev.Goes op g i) (ho : 0x48 ≤ op ∧ op ≤ 0x5C) :
    ∃ r, moveInfo i.blk.regsPer i.inst = some r ∧ i.info.dests = r.dests ∧ i.inst.op = op := by
  obtain ⟨rfl, hinfo⟩ := h.opInfo
  obtain ⟨r, hr, hd⟩ := opInfo_move hinfo ho
  exact ⟨r, hr, hd, rfl⟩

theorem Dev.Goes.typed_dests (h : s.dev.Goes op g i) (ho : op = 0x51 ∨ op = 0x58 ∨ op = 0x5C) :
    i.info.dests = regRun i.inst.d (tyRegs i.inst.ty) ∧ i.inst.d + tyRegs i.inst.ty ≤ 256 := by
  obtain ⟨r, hr, hd, rfl⟩ := h.move_dests (by omega)
  obtain ⟨hdests, hok⟩ := moveInfo_typed hr ho
  exact ⟨hd.trans hdests, regOk_le h.d_lt (tyRegs_le _) hok⟩

theorem Dev.Goes.single_dests (h : s.dev.Goes op g i) (ho : op = 0x59 ∨ op = 0x5A ∨ op = 0x5B) :
    i.info.dests = regRun i.inst.d 1 ∧ i.inst.d + 1 ≤ 256 := by
  obtain ⟨r, hr, hd, rfl⟩ := h.move_dests (by omega)
  exact ⟨hd.trans (moveInfo_single hr ho), h.d_lt⟩

theorem Dev.Goes.cvt_dests (h : s.dev.Goes 0x48 g i) :
    i.info.dests = regRun i.inst.d (cvtWidth (bits i.inst.mod 7 4)) ∧ i.inst.d + cvtWidth (bits i.inst.mod 7 4) ≤ 256 := by
  obtain ⟨r, hr, hd, hop⟩ := h.move_dests (by decide)
  obtain ⟨hdests, hok, hw⟩ := moveInfo_cvt hr hop
  exact ⟨hd.trans hdests, regOk_le h.d_lt hw hok⟩

theorem Dev.Goes.pred_dests (h : s.dev.Goes op g i) (ho : op = 0x50 ∨ op = 0x52) : i.info.dests = [256 + i.inst.d] ∧ i.inst.d < 7 := by
  obtain ⟨r, hr, hd, rfl⟩ := h.move_dests (by omega)
  obtain ⟨hdests, hlt⟩ := moveInfo_pred hr ho
  exact ⟨hd.trans hdests, hlt⟩

end

/-! ### Votes -/

theorem lanes_injective {m n : BitVec 32} (h : lanes m = lanes n) : m = n :=
  BitVec.eq_of_getLsbD_eq fun l hl => by
    have := congrArg (fun x => decide (l ∈ x)) h
    simpa [mem_lanes, hl] using this

theorem lanes_inj {m n : BitVec 32} : lanes m = lanes n ↔ m = n := ⟨lanes_injective, fun h => h ▸ rfl⟩

theorem lanes_eq_nil {m : BitVec 32} : lanes m = [] ↔ m = 0 := lanes_inj (n := 0)

theorem sum_testBits (x n : Nat) : (((List.range n).filter x.testBit).map (fun l => 2 ^ l)).sum = x % 2 ^ n := by
  induction n with
  | zero => simp [Nat.mod_one]
  | succ n ih =>
    rw [List.range_succ, List.filter_append, List.map_append, List.sum_append, ih, Nat.mod_pow_succ]
    obtain h | h := Nat.mod_two_eq_zero_or_one (x / 2 ^ n) <;> simp [Nat.testBit_eq_decide_div_mod_eq, h]

/-- The number whose bits are those of a list of lanes. -/
theorem sum_lanes (m : BitVec 32) : ((lanes m).map (fun l => 2 ^ l)).sum = m.toNat :=
  (sum_testBits m.toNat 32).trans (Nat.mod_eq_of_lt m.isLt)

/-- The active threads whose predicate holds. -/
theorem Group.voting (g : Group) (p : Nat) : (lanes g.mask).filter (fun l => g.predBit l p)
    = lanes (g.mask &&& (if p ≥ 7 then BitVec.allOnes 32 else g.preds.getD p 0)) := by
  simp only [lanes, List.filter_filter, Group.predBit]
  refine List.filter_congr fun l hl => ?_
  rw [List.mem_range] at hl
  rw [BitVec.getLsbD_and, Bool.and_comm]
  congr 1
  split
  · rw [BitVec.getLsbD_allOnes]
    simp [hl]
  · rfl

/-! ### Predicates (R188) -/

theorem laneBit_getLsbD {l : Nat} (hl : l < 32) (k : Nat) : (1#32 <<< l).getLsbD k = decide (k = l) := by
  rw [BitVec.getLsbD_shiftLeft, BitVec.getLsbD_one]
  by_cases hk : k = l
  · simp [hk, hl]
  · rw [decide_eq_false hk]
    simp
    omega

/-- A predicate after the write of one lane's bit, and all others as before. -/
theorem Group.setPred_predBit {x : Group} (hx : x.preds.length = 7) {p : Nat} (hp : p < 7) {l : Nat} (hl : l < 32) (b : Bool) (k q : Nat) :
    (x.setPred l p b).predBit k q = if q = p ∧ k = l then b else x.predBit k q := by
  unfold Group.predBit Group.setPred
  by_cases hq : q ≥ 7
  · rw [if_pos hq, if_pos hq, if_neg (by omega)]
  · rw [if_neg hq, if_neg hq, modNth_getD]
    by_cases hqp : p = q
    · subst hqp
      rw [if_pos ⟨rfl, by omega⟩]
      cases b
      · simp only [Bool.false_eq_true, if_false, BitVec.getLsbD_and, BitVec.getLsbD_not, laneBit_getLsbD hl, true_and]
        by_cases hk : k = l
        · simp [hk]
        · simpa [hk] using BitVec.lt_of_getLsbD
      · simp only [if_true, BitVec.getLsbD_or, laneBit_getLsbD hl, true_and]
        by_cases hk : k = l <;> simp [hk]
    · rw [if_neg (fun h => hqp h.1), if_neg (fun h => hqp h.1.symm)]

/-- `x` is group `g` but for predicates of lanes before `n`. -/
structure Group.PredsFrom (g x : Group) (n : Nat) : Prop where
  rest : x = { g with preds := x.preds }
  length : x.preds.length = 7
  bits : ∀ k, n ≤ k → ∀ q, x.predBit k q = g.predBit k q

namespace Group.PredsFrom

variable {g x : Group} {l n : Nat}

theorem refl (h : g.preds.length = 7) (n : Nat) : g.PredsFrom g n := ⟨rfl, h, fun _ _ _ => rfl⟩

theorem mono {m : Nat} (h : g.PredsFrom x n) (hm : n ≤ m) : g.PredsFrom x m := ⟨h.rest, h.length, fun k hk => h.bits k (le_trans hm hk)⟩

theorem regN (h : g.PredsFrom x n) (l r n : Nat) : x.regN l r n = g.regN l r n := by
  rw [h.rest]
  induction n generalizing r with
  | zero => rfl
  | succ n ih => rw [Group.regN, Group.regN, ih, Group.reg, Group.reg]

theorem srcB (h : g.PredsFrom x n) (i : CoreInst) (l : Nat) : x.srcB i l = g.srcB i l := by
  rw [Group.srcB, Group.srcB, h.regN]

/-- The write of a lane's bit leaves those of the lanes after it. -/
theorem setPred (h : g.PredsFrom x l) (hl : l < 32) {p : Nat} (hp : p < 7) (b : Bool) : g.PredsFrom (x.setPred l p b) (l + 1) where
  rest := congrArg (fun y : Group => { y with preds := (x.setPred l p b).preds }) h.rest
  length := (modNth_length ..).trans h.length
  bits k hk q := by
    rw [Group.setPred_predBit h.length hp hl, if_neg (by omega)]
    exact h.bits k (by omega) q

end Group.PredsFrom

/-- Lanes in rising order, each of which gives a predicate its bit from the group as it stood. -/
theorem runAll_bits {g : Group} {f : Nat → Group → Group} {v : Nat → Bool} {p : Nat} (hp : p < 7) (ls : List Nat)
    (hs : ls.Pairwise (· < ·)) (h32 : ∀ l ∈ ls, l < 32) (hf : ∀ l ∈ ls, ∀ x, g.PredsFrom x l → f l x = x.setPred l p (v l)) (x : Group)
    (hfrom : ∀ l ∈ ls, g.PredsFrom x l) (k : Nat) : (runAll f ls x).predBit k p = if k ∈ ls then v k else x.predBit k p := by
  induction ls generalizing x with
  | nil => rfl
  | cons l ls ih =>
    obtain ⟨hl, hs⟩ := List.pairwise_cons.1 hs
    have hlx := hfrom l List.mem_cons_self
    have hset := hlx.setPred (h32 l List.mem_cons_self) hp (v l)
    rw [runAll, hf l List.mem_cons_self x hlx, ih hs (fun m hm => h32 m (List.mem_cons_of_mem _ hm))
      (fun m hm => hf m (List.mem_cons_of_mem _ hm)) _ fun m hm => hset.mono (hl m hm),
      Group.setPred_predBit hlx.length hp (h32 l List.mem_cons_self)]
    by_cases hk : k = l
    · subst hk
      rw [if_neg fun hm => lt_irrefl _ (hl k hm)]
      simp
    · simp [hk]

/-- A row whose effect gives each executing lane a bit of predicate D. -/
theorem Dev.Goes.bit_ends {s : State} {op : Nat} {g : Gid} {i : Issue} {f : Nat → Group → Group} {body : Issue → Sys → Sys} {c : Instr}
    (h : s.dev.Goes op g i) (hok : s.dev.sys.core.Ok) (hc : exec c s = onDev (issuePicked g (fun g => liftSys (issueSys op g body))) s)
    (hb : body i (s.dev.sys.book i) = perLane i f (s.dev.sys.book i)) (ho : op = 0x50 ∨ op = 0x52) {v : Nat → Bool}
    (hf : ∀ l x, i.grp.PredsFrom x l → f l x = x.setPred l i.inst.d (v l)) :
    ∃ t g' vals, exec c s = .next t ∧ s.OnlyGroup t g ∧ s.Booked t i g' vals ∧ i.NextAt g' ∧ ∃ m : BitVec 32, vals = [(8192 + i.inst.d, m.toNat)]
      ∧ ∀ l < 32, m.getLsbD l = if l ∈ i.act then v l else i.grp.predBit l i.inst.d := by
  obtain ⟨hd, hlt⟩ := h.pred_dests ho
  obtain ⟨-, hpreds, -⟩ := h.grp_ok hok
  have hact : i.act.Pairwise (· < ·) ∧ ∀ l ∈ i.act, l < 32 := by
    rw [h.act_eq]
    exact ⟨lanes_sorted _, fun l hl => (mem_lanes.1 hl).1⟩
  refine h.perLane_ends hok hc hb ⟨(runAll f i.act i.grp).preds.getD i.inst.d 0, ?_, fun l _ => ?_⟩
  · simp [Issue.laneVals, hd]
  · have hbit := runAll_bits hlt i.act hact.1 hact.2 (fun l _ => hf l) i.grp (fun l _ => .refl hpreds l) l
    rwa [Group.predBit, if_neg (by omega)] at hbit

/-! ### The claims -/

/-- The rows that give each lane a value in D. -/
theorem lanesTakeTheirValues : Claims.LanesTakeTheirValues := by
  intro s c row i hok hrow h
  cases c with
  | add g | sub g | mul g | mulhi g | mad g | fma g | min g | max g | and g | or g | xor g | not g | shl g | shr g | popc g | clz g | abs g
    | neg g | rcp g | sqrt g | div g | ex2 g | lg2 g | sin g | cos g =>
    obtain rfl := Option.some.inj hrow
    exact h.alu_ends hok rfl rfl fun t => rfl
  | cvt g =>
    obtain rfl := Option.some.inj hrow
    exact h.lane_ends hok rfl rfl h.cvt_dests fun l x hx => by simp only [cvtLane, hx.regN]
  | selp g =>
    obtain rfl := Option.some.inj hrow
    exact h.lane_ends hok rfl rfl (h.typed_dests (by simp)) fun l x hx => by simp only [selpLane, hx.regN, hx.srcB, hx.predBit]
  | mov g =>
    obtain rfl := Option.some.inj hrow
    exact h.lane_ends hok rfl rfl (h.typed_dests (by simp)) fun l x hx => by simp only [movLane, hx.regN]
  | movhi g =>
    obtain rfl := Option.some.inj hrow
    exact h.lane_ends hok rfl rfl (h.single_dests (by simp)) fun l x hx => by simp only [movhiLane, hx.reg]
  | rdsr g =>
    obtain rfl := Option.some.inj hrow
    refine h.lane_ends (f := rdsrLane s.dev.sys.core.cycles i) hok rfl rfl (h.single_dests (by simp)) fun l x hx => ?_
    rw [rdsrLane, hx.rest]
    rfl
  | vote g =>
    obtain rfl := Option.some.inj hrow
    refine h.lane_ends hok rfl rfl (h.single_dests (by simp)) fun l x hx => ?_
    simp only [voteLane, voteValue, Group.voting, sum_lanes, lanes_inj, lanes_eq_nil] <;> rfl
  | shfl g =>
    obtain rfl := Option.some.inj hrow
    refine h.lane_ends hok rfl rfl (h.typed_dests (by simp)) fun l x hx => ?_
    simp only [shflLane, BitVec.getLsbD_and, Bool.and_eq_true]
  | _ => cases hrow

theorem predicatesAreWritten : Claims.PredicatesAreWritten := by
  intro s g i hok ends writes
  refine ⟨fun h => ?_, fun h => ?_, fun h => ?_⟩
  · exact h.bit_ends hok rfl rfl (.inl rfl) fun l x hx => by simp only [setpLane, hx.regN, hx.srcB]
  · refine h.bit_ends hok rfl rfl (.inr rfl) fun l x hx => ?_
    simp only [plogLane, plogOp, hx.bits l le_rfl] <;> rfl
  · exact ⟨_, i.after s, [], h.exec_onGroup (Sys.onGroup_id _ _).symm, h.group.2 ▸ s.issued_onlyGroup i _ Group.PathOnly.id,
      h.issued_booked _ Group.PathOnly.id, h.issued_nextAt _, rfl⟩

/-- Settles O47: the rows of lane values, and those of predicates and `nop`. -/
theorem lanesTakeValuesAndPredicates : Obligations.LanesTakeValuesAndPredicates := ⟨lanesTakeTheirValues, predicatesAreWritten⟩

end Sys2Proof.Machine
end

section
/-! PROOF. Control moves the path (R189 to R191, Table 5-11). -/

namespace Sys2Proof.Machine

open Sys2Proof

/-! ### A path that moves (R189, Table 5-11) -/

/-- A group on another path. -/
def Group.movedTo (pc : Nat) (mask : BitVec 32) (stop : Option Nat) (stack : List Path) (x : Group) : Group :=
  { x with pc := pc, mask := mask, stop := stop, stack := stack }

section
variable {s : State} {op : Nat} {g : Gid} {i : Issue} {c : Instr} {body : Issue → Sys → Sys}

/-- An instruction that moves its group's path leaves all else but its own collector as it was. -/
theorem Dev.Goes.path_moves (h : s.dev.Goes op g i) (hc : exec c s = onDev (issuePicked g (fun g => liftSys (issueSys op g body))) s)
    {vals : List (Nat × Nat)} {f : Group → Group} (hb : body i (s.dev.sys.book i) = (s.dev.sys.bookWith i vals).onGroup i.grp.gid f)
    (hf : Group.PathOnly f) (hlive : ∀ x, (f x).live = x.live ∧ (f x).parked = x.parked) {pc : Nat} {mask : BitVec 32} {stop : Option Nat}
    {stack : List Path} (hpath : ∀ n, f (i.grp.booked i.info.dests n) = (i.grp.booked i.info.dests n).movedTo pc mask stop stack)
    (hm : mask ≠ 0) (hv : (i.inst.op ≠ 0xA1 → vals = []) ∧ (i.inst.op = 0xA1 → ValsAre vals i.act i.inst.d 1 (fun _ => i.grp.pc + 1))) :
    ∃ t g' vals, exec c s = .next t ∧ s.OnlyGroup t g ∧ s.Booked t i g' vals ∧ g'.live = i.grp.live ∧ g'.parked = i.grp.parked
      ∧ (stop ≠ some pc → g'.pc = pc ∧ g'.mask = mask ∧ g'.stop = stop ∧ g'.stack = stack)
      ∧ (i.inst.op ≠ 0xA1 → vals = []) ∧ (i.inst.op = 0xA1 → ValsAre vals i.act i.inst.d 1 (fun _ => i.grp.pc + 1)) := by
  refine ⟨_, (f (i.grp.booked i.info.dests (s.dev.sys.core.nextId + 1))).settle, vals, hc.trans (h.exec_onGroup hb),
    h.group.2 ▸ s.issued_onlyGroup i _ hf, h.issued_booked _ hf, ?_, ?_, fun hstop => ?_, hv⟩
  · rw [Group.settle_live, (hlive _).1]
    rfl
  · rw [Group.settle_parked, (hlive _).2]
    rfl
  · rw [hpath, Group.settle_of_path _ hm hstop]
    exact ⟨rfl, rfl, rfl, rfl⟩

/-- A fault of the issuing instruction starts the kill of its context (R203). -/
theorem Dev.Goes.book_groupFault (h : s.dev.Goes op g i) (code : Nat) : (s.dev.sys.book i).groupFault i.grp code
    = (s.dev.sys.book i).onCore (fun c => { c.countFault code with kills := c.kills ++ [i.kill code], nKills := c.nKills + 1 }) := by
  have hk : ((s.dev.sys.book i).core.countFault code).kills = (s.dev.sys.book i).core.kills
      ∧ ((s.dev.sys.book i).core.countFault code).nKills = (s.dev.sys.book i).core.nKills := by
    unfold CoreState.countFault
    split <;> exact ⟨rfl, rfl⟩
  have hblock : (s.dev.sys.book i).core.block? i.grp.block = some i.blk := h.block
  have hdying : (s.dev.sys.book i).dying i.blk.part i.blk.ring = false := h.canIssue.1
  simp only [Sys.groupFault, hblock, Sys.killContext, hdying, Sys.onCore, hk.1, hk.2]
  rfl

theorem Dev.Goes.path_killed (h : s.dev.Goes op g i) (hc : exec c s = onDev (issuePicked g (fun g => liftSys (issueSys op g body))) s) {code : Nat}
    (hb : body i (s.dev.sys.book i) = (s.dev.sys.book i).groupFault i.grp code) :
    ∃ t, exec c s = .next t ∧ t.pending = s.pending ∧ t.dev.mem = s.dev.mem ∧ t.dev.sys.fab = s.dev.sys.fab ∧ t.dev.sys.host = s.dev.sys.host
      ∧ t.dev.sys.mgmt = s.dev.sys.mgmt ∧ t.dev.sys.core.blocks = s.dev.sys.core.blocks
      ∧ t.dev.sys.core.nKills = s.dev.sys.core.nKills + 1 ∧ t.dev.sys.core.kills = s.dev.sys.core.kills ++ [i.kill code] := by
  refine ⟨_, hc.trans h.exec_issued, rfl, rfl, ?_⟩
  have hblocks : ((s.dev.sys.book i).core.countFault code).blocks = s.dev.sys.core.blocks := by
    unfold CoreState.countFault
    split <;> rfl
  rw [hb, h.book_groupFault]
  exact ⟨rfl, rfl, rfl, hblocks, rfl, rfl⟩

end

/-! ### Branches, calls and returns -/

section
variable {s : State} {g : Gid} {i : Issue}

theorem targetOk_iff (i : Issue) (t : Int) : targetOk i t = true ↔ 0 ≤ t ∧ t < i.blk.code.length := by simp [targetOk]

theorem targetOk_false (i : Issue) (t : Int) : targetOk i t = false ↔ ¬(0 ≤ t ∧ t < i.blk.code.length) := by
  rw [← targetOk_iff, Bool.not_eq_true]

/-- Whether a target lies in the code image (R210). -/
def Issue.Inside (i : Issue) (t : Int) : Prop := 0 ≤ t ∧ t < i.blk.code.length

theorem targetOk_of_inside {i : Issue} {t : Int} (h : i.Inside t) : ¬targetOk i t = false := fun e => (targetOk_false i t).1 e h

/-! A branch, by who takes it and where to (R189, R190). -/

theorem braBody_none (ht : i.grp.actMask i.inst = 0) (u : Sys) : braBody i u = u := if_pos ht

theorem braBody_outside (h0 : i.grp.actMask i.inst ≠ 0) (hin : ¬i.Inside (branchTarget i)) (u : Sys) :
    braBody i u = u.groupFault i.grp 0x0103 := by
  unfold braBody
  rw [if_neg h0, if_pos ((targetOk_false i _).2 hin)]

theorem braBody_all (h0 : i.grp.actMask i.inst ≠ 0) (hin : i.Inside (branchTarget i)) (ht : i.grp.actMask i.inst = i.grp.mask) (u : Sys) :
    braBody i u = u.onGroup i.grp.gid (fun x => { x with pc := (branchTarget i).toNat }) := by
  unfold braBody
  rw [if_neg h0, if_neg (targetOk_of_inside hin), if_pos ht]

theorem braBody_deep (h0 : i.grp.actMask i.inst ≠ 0) (hin : i.Inside (branchTarget i)) (ht : i.grp.actMask i.inst ≠ i.grp.mask)
    (hst : 32 < i.grp.stack.length + 2) (u : Sys) : braBody i u = u.groupFault i.grp 0x0107 := by
  unfold braBody
  rw [if_neg h0, if_neg (targetOk_of_inside hin), if_neg ht, if_pos (show stackDepth < _ from hst)]

theorem braBody_some (h0 : i.grp.actMask i.inst ≠ 0) (hin : i.Inside (branchTarget i)) (ht : i.grp.actMask i.inst ≠ i.grp.mask)
    (hst : i.grp.stack.length + 2 ≤ 32) (u : Sys) : braBody i u = u.onGroup i.grp.gid
      (fun x => x.diverge (i.grp.actMask i.inst) (branchTarget i).toNat x.pc (i.inst.d * 256 + i.inst.a)) := by
  unfold braBody
  rw [if_neg h0, if_neg (targetOk_of_inside hin), if_neg ht, if_neg (show ¬stackDepth < _ from not_lt.2 hst)]

theorem callBody_outside (hact : i.act ≠ []) (hin : ¬i.Inside (branchTarget i)) (u : Sys) : callBody i u = u.groupFault i.grp 0x0103 := by
  unfold callBody
  rw [if_neg hact, if_pos ((targetOk_false i _).2 hin)]

theorem callBody_inside (hact : i.act ≠ []) (hin : i.Inside (branchTarget i)) (u : Sys) : callBody i u
    = (perLane i (fun lane g => g.setRegN lane i.inst.d 1 (i.grp.pc + 1)) u).onGroup i.grp.gid
      (fun x => { x with pc := (branchTarget i).toNat }) := by
  unfold callBody
  rw [if_neg hact, if_neg (targetOk_of_inside hin)]

theorem retBody_inside {x : Nat} (hact : i.act ≠ []) (hx : ∀ l ∈ i.act, i.grp.reg l i.inst.a = x) (hin : i.Inside x) (u : Sys) :
    retBody i u = u.onGroup i.grp.gid (fun y => { y with pc := x }) := by
  unfold retBody
  split
  next e => exact absurd e hact
  next l ls e =>
    have hl : i.grp.reg l i.inst.a = x := hx l (e ▸ List.mem_cons_self)
    have hall : ls.all (fun y => i.grp.reg y i.inst.a == x) = true :=
      List.all_eq_true.2 fun y hy => beq_iff_eq.2 (hx y (e ▸ List.mem_cons_of_mem _ hy))
    simp only [hl, hall, (targetOk_iff i x).2 hin, Bool.and_self, if_true]

theorem retBody_outside (hact : i.act ≠ []) (hx : ¬∃ x : Nat, (∀ l ∈ i.act, i.grp.reg l i.inst.a = x) ∧ i.Inside x) (u : Sys) :
    retBody i u = u.groupFault i.grp 0x0103 := by
  unfold retBody
  split
  next e => exact absurd e hact
  next l ls e =>
    refine if_neg fun hok => hx ⟨i.grp.reg l i.inst.a, fun y hy => ?_, ?_⟩
    · rw [Bool.and_eq_true, List.all_eq_true] at hok
      obtain rfl | hy := List.mem_cons.1 (e ▸ hy)
      · rfl
      · exact beq_iff_eq.1 (hok.1 y hy)
    · rw [Bool.and_eq_true] at hok
      exact (targetOk_iff i _).1 hok.2

theorem opInfo_call {limit : Nat} {x : CoreInst} {o : OpInfo} (h : opInfo limit x = some o) (hx : x.op = 0xA1) : o.dests = regRun x.d 1 := by
  have hrow : aluRow 0xA1 = none := by decide
  simp only [opInfo, hx, hrow, asyncInfo, Option.map_eq_some_iff] at h
  simp at h
  obtain ⟨-, rfl⟩ := h
  rfl

/-- `call` leaves the next index for D of each executing thread. -/
theorem Dev.Goes.call_vals (h : s.dev.Goes 0xA1 g i) (hok : s.dev.sys.core.Ok) :
    ValsAre (i.laneVals (fun lane g => g.setRegN lane i.inst.d 1 (i.grp.pc + 1))) i.act i.inst.d 1 (fun _ => i.grp.pc + 1) := by
  obtain ⟨hop, hinfo⟩ := h.opInfo
  exact h.laneVals_are hok (opInfo_call hinfo hop) h.d_lt fun _ _ _ _ => rfl

end

/-! ### exit (R191, R193) -/

/-- What the groups of a block may have done when a barrier completes. -/
structure Group.Resumed (id : Nat) (x y : Group) : Prop where
  gid : y.gid = x.gid
  block : y.block = x.block
  regs : y.regs = x.regs
  preds : y.preds = x.preds
  busy : y.busy = x.busy
  live : y.live = x.live
  other : x.block ≠ id → y = x

theorem Group.Resumed.refl (id : Nat) (x : Group) : Group.Resumed id x x := ⟨rfl, rfl, rfl, rfl, rfl, rfl, fun _ => rfl⟩

theorem Group.resume_resumed (x : Group) : Group.Resumed x.block x x.resume := by
  unfold Group.resume
  split
  · exact .refl _ _
  · exact ⟨by simp, by simp, by simp, by simp, by simp, by simp, fun h => absurd rfl h⟩

/-- A fault of a context changes its kills and counts alone (R203, R207). -/
theorem Sys.killContext_eq (s : Sys) (p ring code source : Nat) (detail : List Byte) : ∃ ks m n l,
    s.killContext p ring code source detail = s.onCore (fun c => { c with kills := ks, nKills := m, nSuppressed := n, nFaults := l }) := by
  unfold Sys.killContext CoreState.countFault
  dsimp only [Sys.onCore]
  split
  · split <;> exact ⟨_, _, _, _, rfl⟩
  · split <;> exact ⟨_, _, _, _, rfl⟩

theorem Sys.groupFault_eq (s : Sys) (x : Group) (code : Nat) : ∃ ks m n l,
    s.groupFault x code = s.onCore (fun c => { c with kills := ks, nKills := m, nSuppressed := n, nFaults := l }) := by
  unfold Sys.groupFault
  split
  · exact Sys.killContext_eq ..
  · exact ⟨s.core.kills, s.core.nKills, s.core.nSuppressed, s.core.nFaults, rfl⟩

/-- A barrier that may complete leaves all but the paths of its block's groups, the block's barrier and the context's kill (R192, R193, R702). -/
theorem Sys.completeBarrier_resumes (s : Sys) (id : Nat) : ∃ F : Group → Group, (∀ x, Group.Resumed id x (F x))
    ∧ (s.completeBarrier id).core.groups = s.core.groups.map F ∧ (s.completeBarrier id).host = s.host ∧ (s.completeBarrier id).fab = s.fab
    ∧ (s.completeBarrier id).mgmt = s.mgmt ∧ (s.completeBarrier id).core.stores = s.core.stores
    ∧ (s.completeBarrier id).core.csPend = s.core.csPend ∧ (s.completeBarrier id).core.collectors = s.core.collectors
    ∧ (s.completeBarrier id).core.results = s.core.results := by
  unfold Sys.completeBarrier
  split
  · exact ⟨_, Group.Resumed.refl id, (List.map_id' _).symm, rfl, rfl, rfl, rfl, rfl, rfl, rfl⟩
  · split
    next x _ =>
      obtain ⟨ks, m, n, l, e⟩ := s.groupFault_eq x 0x0107
      rw [e]
      exact ⟨_, Group.Resumed.refl id, (List.map_id' _).symm, rfl, rfl, rfl, rfl, rfl, rfl, rfl⟩
    · refine ⟨fun x => if x.block == id then x.resume else x, fun x => ?_, rfl, rfl, rfl, rfl, rfl, rfl, rfl, rfl⟩
      dsimp only
      split
      next e => exact (beq_iff_eq.1 e) ▸ x.resume_resumed
      · exact .refl _ _

section
variable {s : State} {g : Gid} {i : Issue}

theorem find?_map_gid {F : Group → Group} (hF : ∀ x, (F x).gid = x.gid) (l : List Group) (h : Gid) :
    (l.map F).find? (fun x => x.gid == h) = (l.find? (fun x => x.gid == h)).map F := by
  have hp : ((fun x : Group => x.gid == h) ∘ F) = fun x => x.gid == h := funext fun x => by simp only [Function.comp_apply, hF]
  rw [List.find?_map, hp]

/-- The threads of a mask leave their group's path and live no more. -/
def Group.exits (m : BitVec 32) (x : Group) : Group := Group.settle { x with live := x.live &&& ~~~m, mask := x.mask &&& ~~~m }

/-- What `exit` makes of a group of its quarter and slot, `F` being what a barrier that completes does. -/
def Issue.exited (i : Issue) (n : Nat) (F : Group → Group) (x : Group) : Group :=
  if x.gid = i.grp.gid then (F ((x.booked i.info.dests n).exits (i.grp.actMask i.inst))).settle else F x

theorem Issue.exited_self (i : Issue) (n : Nat) {F : Group → Group} (hF : ∀ x, Group.Resumed i.grp.block x (F x)) :
    (i.exited n F i.grp).regs = i.grp.regs ∧ (i.exited n F i.grp).preds = i.grp.preds
      ∧ (∀ r, r ∈ (i.exited n F i.grp).busy ↔ r ∈ i.grp.busy ∨ r ∈ i.info.dests)
      ∧ (i.exited n F i.grp).live = i.grp.live &&& ~~~i.grp.actMask i.inst ∧ (i.exited n F i.grp).block = i.grp.block := by
  have hx := hF ((i.grp.booked i.info.dests n).exits (i.grp.actMask i.inst))
  rw [Issue.exited, if_pos rfl]
  refine ⟨?_, ?_, fun r => ?_, ?_, ?_⟩
  · rw [Group.settle_regs, hx.regs]
    exact Group.settle_regs _
  · rw [Group.settle_preds, hx.preds]
    exact Group.settle_preds _
  · rw [Group.settle_busy, hx.busy, Group.exits, Group.settle_busy]
    exact i.grp.mem_booked_busy _ n r
  · rw [Group.settle_live, hx.live]
    exact Group.settle_live _
  · rw [Group.settle_block, hx.block]
    exact Group.settle_block _

theorem Dev.Goes.exit_groups (h : s.dev.Goes 0xA3 g i) : ∃ F : Group → Group, (∀ x, Group.Resumed i.grp.block x (F x)) ∧
    ∃ t, exec (.exit g) s = .next t ∧ t.pending = s.pending ∧ t.dev.mem = s.dev.mem ∧ t.dev.sys.host = s.dev.sys.host
      ∧ t.dev.sys.fab = s.dev.sys.fab ∧ t.dev.sys.mgmt = s.dev.sys.mgmt ∧ t.dev.sys.core.stores = s.dev.sys.core.stores
      ∧ t.dev.sys.core.csPend = s.dev.sys.core.csPend
      ∧ t.dev.sys.core.collectors = s.dev.sys.core.collectors ++ [⟨i.grp.gid, dedup i.info.reads, i.info.dests, i.info.unit, []⟩]
      ∧ t.dev.sys.core.results = s.dev.sys.core.results
      ∧ ∀ h, t.dev.sys.core.group? h = (s.dev.sys.core.group? h).map (i.exited (s.dev.sys.core.nextId + 1) F) := by
  let u := (s.dev.sys.book i).onGroup i.grp.gid (Group.exits (i.grp.actMask i.inst))
  obtain ⟨F, hF, hgroups, hhost, hfab, hmgmt, hstores, hcs, hcoll, hres⟩ := u.completeBarrier_resumes i.grp.block
  have hreap : (exitBody i (s.dev.sys.book i)).settle i.grp.gid = (u.completeBarrier i.grp.block).onGroup i.grp.gid Group.settle := by
    refine Sys.reap_of_collecting _ ⟨⟨i.grp.gid, dedup i.info.reads, i.info.dests, i.info.unit, []⟩, ?_, rfl⟩
    show _ ∈ (u.completeBarrier i.grp.block).core.collectors
    rw [hcoll]
    exact List.mem_append_right _ (List.mem_singleton.2 rfl)
  refine ⟨F, hF, _, h.exec_issued, rfl, rfl, ?_⟩
  rw [hreap]
  refine ⟨hhost, hfab, hmgmt, hstores, hcs, hcoll, hres, fun k => ?_⟩
  have hbook : (s.dev.sys.book i).core.group? k = (s.dev.sys.core.group? k).map
      (fun x => if x.gid == i.grp.gid then x.booked i.info.dests (s.dev.sys.core.nextId + 1) else x) :=
    s.dev.sys.onGroup_group? (f := fun x => x.booked i.info.dests (s.dev.sys.core.nextId + 1)) (fun _ => rfl) k
  have hu := (s.dev.sys.book i).onGroup_group? (gid := i.grp.gid) (f := Group.exits (i.grp.actMask i.inst)) (fun x => Group.settle_gid _) k
  rw [Sys.onGroup_group? _ (fun x => x.settle_gid), CoreState.group?, hgroups, find?_map_gid fun x => (hF x).gid, ← CoreState.group?]
  rw [hu, hbook]
  cases hk : s.dev.sys.core.group? k with
  | none => rfl
  | some x =>
    have hFgid (y : Group) : (F y).gid = y.gid := (hF y).gid
    by_cases hx : x.gid = i.grp.gid
    · simp [Issue.exited, hx, Group.booked, Group.exits, hFgid]
    · simp [Issue.exited, hx, hFgid]

end

/-- Settles O13: a branch, call or return does one change of path to its booked group or starts the kill of its context; `exit` is what
a barrier that completes makes of it. -/
theorem controlMovesThePath : Obligations.ControlMovesThePath := by
  intro s g i hok target inside taken goes killed
  have hA1 {op : Nat} (h : s.dev.Goes op g i) (hop : op ≠ 0xA1) : (i.inst.op ≠ 0xA1 → ([] : List (Nat × Nat)) = [])
      ∧ (i.inst.op = 0xA1 → ValsAre [] i.act i.inst.d 1 (fun _ => i.grp.pc + 1)) :=
    ⟨fun _ => rfl, fun e => absurd (h.opInfo.1.symm.trans e) hop⟩
  have hbook : s.dev.sys.book i = (s.dev.sys.bookWith i []).onGroup i.grp.gid id := (Sys.onGroup_id _ _).symm
  refine ⟨fun h => ⟨fun ht => ?_, fun ht hin => ?_, fun h0 ht hin hst => ?_, fun h0 ht hin hst => ?_, fun h0 hin => ?_⟩,
    fun h => ⟨fun hact => ?_, fun hact hin => ?_, fun hact hin => ?_⟩,
    fun h => ⟨fun hact => ?_, fun x hact hx hin => ?_, fun hact hin => ?_⟩, fun h => ?_⟩
  · exact h.path_moves rfl ((braBody_none ht _).trans hbook) Group.PathOnly.id (fun _ => ⟨rfl, rfl⟩) (fun _ => rfl) h.mask_ne
      (hA1 h (by decide))
  · exact h.path_moves rfl (braBody_all (fun e => h.mask_ne (ht.symm.trans e)) hin ht _) (fun _ => ⟨rfl, rfl, rfl, rfl⟩) (fun _ => ⟨rfl, rfl⟩)
      (fun _ => rfl) h.mask_ne (hA1 h (by decide))
  · exact h.path_moves rfl (braBody_some h0 hin ht hst _) (fun _ => ⟨rfl, rfl, rfl, rfl⟩) (fun _ => ⟨rfl, rfl⟩) (fun _ => rfl) h0
      (hA1 h (by decide))
  · exact h.path_killed rfl (braBody_deep h0 hin ht hst _)
  · exact h.path_killed rfl (braBody_outside h0 hin _)
  · refine h.path_moves rfl ((if_pos hact : callBody i (s.dev.sys.book i) = _).trans hbook) Group.PathOnly.id (fun _ => ⟨rfl, rfl⟩)
      (fun _ => rfl) h.mask_ne ⟨fun _ => rfl, fun _ kv => ?_⟩
    simp [hact]
  · refine h.path_moves rfl ((callBody_inside hact hin _).trans (congrArg (fun u : Sys => u.onGroup _ _) (h.perLane_eq hok _)))
      (fun _ => ⟨rfl, rfl, rfl, rfl⟩) (fun _ => ⟨rfl, rfl⟩) (fun _ => rfl) h.mask_ne ⟨fun e => absurd h.opInfo.1 e, fun _ => h.call_vals hok⟩
  · exact h.path_killed rfl (callBody_outside hact hin _)
  · have hb : retBody i (s.dev.sys.book i) = s.dev.sys.book i := by
      unfold retBody
      rw [hact]
    exact h.path_moves rfl (hb.trans hbook) Group.PathOnly.id (fun _ => ⟨rfl, rfl⟩) (fun _ => rfl) h.mask_ne (hA1 h (by decide))
  · exact h.path_moves rfl (retBody_inside hact hx hin _) (fun _ => ⟨rfl, rfl, rfl, rfl⟩) (fun _ => ⟨rfl, rfl⟩) (fun _ => rfl) h.mask_ne
      (hA1 h (by decide))
  · exact h.path_killed rfl (retBody_outside hact hin _)
  · obtain ⟨F, hF, t, ht, hpend, hmem, hhost, hfab, hmgmt, hstores, hcs, hcoll, hres, hgroup⟩ := h.exit_groups
    have hgrp : s.dev.sys.core.group? i.grp.gid = some i.grp := h.group.2 ▸ (Sys.prepare_go h.2).1
    obtain ⟨hregs, hpreds, hbusy, hlive, hblock⟩ := i.exited_self (s.dev.sys.core.nextId + 1) hF
    refine ⟨t, i.exited (s.dev.sys.core.nextId + 1) F i.grp, ht, hpend, hmem, hhost, hfab, hmgmt, hstores, hcs,
      ⟨by rw [hgroup, hgrp]; rfl, hregs, hpreds, hbusy, hcoll, hres⟩, hlive, fun k y hy hne => ?_⟩
    rw [hgroup] at hy
    obtain ⟨x, hk, rfl⟩ := Option.map_eq_some_iff.1 hy
    by_cases hxg : x.gid = i.grp.gid
    · obtain rfl : x = i.grp := CoreState.group_unique hok.1 (CoreState.mem_of_group? hk).1 h.group.1 hxg
      exact absurd hblock hne
    · rw [Issue.exited, if_neg hxg] at hne ⊢
      rw [(hF x).other fun e => hne ((hF x).block.trans e)]
      exact hk

end Sys2Proof.Machine
end


section
/-! PROOF. Grids and blocks (O19): what a LAUNCH, a placement and the end of a block leave in their ring and in the cores. -/

namespace Sys2Proof.Machine

open Sys2Proof

/-! ### A ring's commands and records -/

theorem Dev.writePiece_rings (d : Dev) (st L : Nat) (bs : List Byte) : (d.writePiece st L bs).sys.host.rings = d.sys.host.rings := by
  unfold Dev.writePiece
  dsimp only
  split
  · exact congrArg HostState.rings (Sys.log_host ..)
  · rfl

theorem Dev.writeRange_rings (d : Dev) (p a : Nat) (bs : List Byte) : (d.writeRange p a bs).sys.host.rings = d.sys.host.rings :=
  runAll_keeps _ (fun x : Dev => x.sys.host.rings) (fun _ x => x.writePiece_rings _ _ _) _ d

/-- A change of rings that a field does not follow leaves that field of every ring. -/
theorem Sys.onRing_field {α : Type} (s : Sys) (r q : Nat) {f : Ring → Ring} (p : Ring → α) (h : ∀ g, p (f g) = p g) :
    p ((s.onRing r f).ring q) = p (s.ring q) := by
  simp only [Sys.ring, Sys.onRing, Sys.onHost, modNth_getD]
  split <;> simp only [h]

/-- Where a ring has a command, a change of the ring is what it then reads. -/
theorem Sys.onRing_ring_same {s : Sys} {r : Nat} {c : RCmd} (h : c ∈ (s.ring r).cmds) (f : Ring → Ring) :
    (s.onRing r f).ring r = f (s.ring r) := by
  have hr : r < s.host.rings.length := by
    by_contra hr
    rw [Sys.ring, List.getD_eq_default _ _ (Nat.le_of_not_lt hr)] at h
    cases h
  simp only [Sys.ring, Sys.onRing, Sys.onHost, modNth_getD, hr, and_self, if_true]

/-- Bringing the doorbell pages up to date leaves a field that the shown values are no part of. -/
theorem Dev.syncRings_field {α : Type} (d : Dev) (q : Nat) (p : Ring → α) (h : ∀ g l, p { g with shown := l } = p g) :
    p (d.syncRings.sys.ring q) = p (d.sys.ring q) := by
  refine runAll_keeps Dev.syncRing (fun x : Dev => p (x.sys.ring q)) (fun r x => ?_) _ d
  unfold Dev.syncRing
  dsimp only
  split
  · simp only [Sys.ring, Dev.writeRange_rings]
    exact Sys.onRing_field x.sys r q p fun g => h g _
  · rfl

/-- A change of rings that takes none into effect or out of it moves no page. -/
theorem Sys.onRing_alike (s : Sys) (r : Nat) {f : Ring → Ring} (h : ∀ g, (f g).inEffect = g.inEffect) : s.RingsAlike (s.onRing r f) :=
  ⟨rfl, fun q => Sys.onRing_field s r q Ring.inEffect h, fun _ => rfl⟩

theorem Sys.completeUid_alike (s : Sys) (r uid status detail : Nat) : s.RingsAlike (s.completeUid r uid status detail) := by
  unfold Sys.completeUid
  split
  · exact .refl s
  · exact s.onRing_alike r fun _ => rfl

theorem Sys.completeUid_core (s : Sys) (r uid status detail : Nat) :
    (s.completeUid r uid status detail).core = s.core ∧ (s.completeUid r uid status detail).fab = s.fab := by
  unfold Sys.completeUid
  split <;> exact ⟨rfl, rfl⟩

/-- A command of a ring that completes leaves the ring, and its record stands last (R626). -/
theorem Sys.completeUid_ring {s : Sys} {r uid : Nat} {c : RCmd} (hc : c ∈ (s.ring r).cmds) (hu : c.uid = uid) (status detail : Nat) :
    ((s.completeUid r uid status detail).ring r).cmds = (s.ring r).cmds.filter (fun x => x.uid != uid)
    ∧ ∃ d, ((s.completeUid r uid status detail).ring r).records = (s.ring r).records ++ [d] ∧ d.status = status ∧ d.uid = uid := by
  unfold Sys.completeUid
  split
  next hnone => exact absurd (List.find?_eq_none.1 hnone c hc) (by simp [hu])
  next =>
    rw [Sys.onRing_ring_same hc]
    exact ⟨rfl, _, rfl, rfl, rfl⟩

theorem Sys.startedCmd_mem {s : Sys} {r idx kind op : Nat} {c : RCmd} (h : s.startedCmd r idx kind op = some c) : c ∈ (s.ring r).cmds := by
  unfold Sys.startedCmd at h
  split at h
  next x hx =>
    split at h
    · exact Option.some.inj h ▸ List.mem_of_find?_eq_some hx
    · cases h
  next => cases h

/-- What a command on rings leaves whose device keeps every byte and moves no page: only bytes of the pages differ. -/
theorem onRings_next {f : Dev → Dev} {s : State} {d : Dev} (hf : f s.dev = d) (hco : d.mem.Coherent) (hm : s.dev.mem.KeepsBytes d.mem)
    (ha : s.dev.sys.RingsAlike d.sys) :
    ∃ t, onRings f s = .next t ∧ t.pending = s.pending ∧ s.KeepsButPages t ∧ t.dev.sys.core = d.sys.core ∧ t.dev.sys.fab = d.sys.fab
      ∧ ∀ r, (t.dev.sys.ring r).cmds = (d.sys.ring r).cmds ∧ (t.dev.sys.ring r).records = (d.sys.ring r).records := by
  obtain ⟨-, -, hbytes⟩ := Dev.syncRings_spec hco
  obtain ⟨hcore, hfab, -⟩ := d.syncRings_frame
  have hcmds := fun r => d.syncRings_field r Ring.cmds fun _ _ => rfl
  have hrec := fun r => d.syncRings_field r Ring.records fun _ _ => rfl
  refine ⟨_, onRings_of hf, ?_⟩
  generalize d.syncRings = e at *
  exact ⟨rfl, fun st L hn => (hbytes st L fun hpage => hn ((ha.pageByte st L).1 hpage)).trans (hm st L), hcore, hfab,
    fun r => ⟨hcmds r, hrec r⟩⟩

/-! ### LAUNCH (R174, R175) -/

section
variable {s : State} {r idx : Nat} {c : RCmd}

theorem execLaunch_next {u : Sys} (hco : s.dev.mem.Coherent) (hl : launch r idx s.dev.sys = u) (ha : s.dev.sys.RingsAlike u) :
    ∃ t, exec (.launch r idx) s = .next t ∧ t.pending = s.pending ∧ s.KeepsButPages t ∧ t.dev.sys.core = u.core ∧ t.dev.sys.fab = u.fab
      ∧ ∀ r, (t.dev.sys.ring r).cmds = (u.ring r).cmds ∧ (t.dev.sys.ring r).records = (u.ring r).records :=
  onRings_next (f := liftSys (launch r idx)) (d := ⟨s.dev.mem, u⟩) (congrArg (Dev.mk s.dev.mem) hl) hco (fun _ _ => rfl) ha

/-- A LAUNCH that its checks end completes with their status, and the cores stay as they are. -/
theorem State.launch_completes (hco : s.dev.mem.Coherent) (hc : s.dev.sys.startedCmd r idx 1 0 = some c) {status : Nat}
    (hl : launch r idx s.dev.sys = s.dev.sys.completeUid r c.uid status 0) :
    ∃ t, exec (.launch r idx) s = .next t ∧ t.pending = s.pending ∧ t.dev.sys.core = s.dev.sys.core
      ∧ t.dev.sys.fab = s.dev.sys.fab ∧ s.KeepsButPages t ∧ (t.dev.sys.ring r).cmds = (s.dev.sys.ring r).cmds.filter (fun x => x.uid != c.uid)
      ∧ ∃ d, (t.dev.sys.ring r).records = (s.dev.sys.ring r).records ++ [d] ∧ d.status = status ∧ d.uid = c.uid := by
  obtain ⟨hcore, hfab⟩ := s.dev.sys.completeUid_core r c.uid status 0
  obtain ⟨hcmds, d, hrec, hst, hu⟩ := Sys.completeUid_ring (Sys.startedCmd_mem hc) rfl status 0
  obtain ⟨t, ht, hp, hk, htcore, htfab, hring⟩ := execLaunch_next hco hl (Sys.completeUid_alike ..)
  obtain ⟨hrcmds, hrrec⟩ := hring r
  exact ⟨t, ht, hp, htcore.trans hcore, htfab.trans hfab, hk, hrcmds.trans hcmds, d, hrrec.trans hrec, hst, hu⟩

theorem Sys.begin_alike (s : Sys) (r uid : Nat) : s.RingsAlike (s.begin r uid) := s.onRing_alike r fun _ => rfl

/-- A LAUNCH that fits makes its grid. -/
theorem State.launch_grid (hco : s.dev.mem.Coherent) {gr : Grid}
    (hl : launch r idx s.dev.sys = (s.dev.sys.begin r c.uid).onCore (fun k => { k with grids := k.grids ++ [gr] })) :
    ∃ t, exec (.launch r idx) s = .next t ∧ t.pending = s.pending ∧ t.dev.sys.fab = s.dev.sys.fab ∧ s.KeepsButPages t
      ∧ t.dev.sys.core = { s.dev.sys.core with grids := s.dev.sys.core.grids ++ [gr] } := by
  obtain ⟨t, ht, hp, hk, hcore, hfab, -⟩ := execLaunch_next hco hl ((s.dev.sys.begin_alike r c.uid).trans ⟨rfl, fun _ => rfl, fun _ => rfl⟩)
  exact ⟨t, ht, hp, hfab, hk, hcore⟩

end

/-! ### BLOCK_PLACE (R171, R176, R221, R620) -/

/-- After a run of writes of distinct numbers each reads as written, and every other as before. -/
theorem NMap.get_foldl_set (l : List (Nat × Nat)) (m : NMap) (hm : m.wf = true) (hn : (l.map Prod.fst).Nodup) :
    (∀ x ∈ l, NMap.get (l.foldl (fun m x => NMap.set m x.1 x.2) m) x.1 = x.2)
    ∧ ∀ i, i ∉ l.map Prod.fst → NMap.get (l.foldl (fun m x => NMap.set m x.1 x.2) m) i = NMap.get m i := by
  induction l generalizing m with
  | nil => exact ⟨fun _ h => (List.not_mem_nil h).elim, fun _ _ => rfl⟩
  | cons y l ih =>
    obtain ⟨hy, hl⟩ := List.nodup_cons.1 hn
    obtain ⟨hin, hout⟩ := ih (NMap.set m y.1 y.2) (NMap.set_wf _ _ hm) hl
    refine ⟨fun x hx => ?_, fun i hi => ?_⟩
    · obtain rfl | hx := List.mem_cons.1 hx
      · exact (hout _ hy).trans (NMap.get_set_same _ _ hm)
      · exact hin x hx
    · obtain ⟨hiy, hil⟩ := not_or.1 (mt List.mem_cons.2 hi)
      exact (hout i hil).trans (NMap.get_set_other _ _ hiy)

/-- The registers that a thread's first instruction finds set (R620). -/
def launchRegs (gidx bidx arg core l : Nat) : List (Nat × Nat) :=
  [(l * 256 + 0, 32 * gidx + l), (l * 256 + 1, bidx), (l * 256 + 2, arg % 2 ^ 32), (l * 256 + 3, arg / 2 ^ 32), (l * 256 + 4, core)]

theorem initialRegs_eq (gidx bidx arg core : Nat) : initialRegs gidx bidx arg core =
    ((List.range 32).flatMap (launchRegs gidx bidx arg core)).foldl (fun m x => NMap.set m x.1 x.2) [] := by
  rw [List.foldl_flatMap]
  rfl

theorem launchRegs_nodup (gidx bidx arg core : Nat) : (((List.range 32).flatMap (launchRegs gidx bidx arg core)).map Prod.fst).Nodup := by
  have hkeys : ((List.range 32).flatMap (launchRegs gidx bidx arg core)).map Prod.fst
      = (List.range 32).flatMap (fun l => (List.range 5).map (fun r => l * 256 + r)) := by
    rw [List.map_flatMap]
    rfl
  rw [hkeys]
  decide +kernel

/-- A thread's registers at its first instruction: its numbers in r0 to r4, and no other set (R620). -/
theorem newGroup_reg (block threads bidx arg : Nat) (gid : Gid) (j l : Nat) (hl : l < 32) :
    let x := newGroup block threads bidx arg gid j
    x.reg l 0 = 32 * j + l ∧ x.reg l 1 = bidx ∧ x.reg l 2 = arg % 2 ^ 32 ∧ x.reg l 3 = arg / 2 ^ 32 ∧ x.reg l 4 = gid.core
      ∧ ∀ r, 5 ≤ r → r < 256 → x.reg l r = 0 := by
  have hreg : ∀ r, (newGroup block threads bidx arg gid j).reg l r = NMap.get (initialRegs j bidx arg gid.core) (l * 256 + r) := fun _ => by
    rw [Group.reg, newGroup]
  obtain ⟨hset, hout⟩ := NMap.get_foldl_set _ [] rfl (launchRegs_nodup j bidx arg gid.core)
  rw [← initialRegs_eq] at hset hout
  have hmem : ∀ x ∈ launchRegs j bidx arg gid.core l, NMap.get (initialRegs j bidx arg gid.core) x.1 = x.2 := fun x hx =>
    hset x (List.mem_flatMap.2 ⟨l, List.mem_range.2 hl, hx⟩)
  simp only [launchRegs, List.mem_cons, List.not_mem_nil, or_false, forall_eq_or_imp, forall_eq] at hmem
  obtain ⟨h0, h1, h2, h3, h4⟩ := hmem
  simp only [hreg]
  refine ⟨h0, h1, h2, h3, h4, fun r hr hr' => hout (l * 256 + r) fun hin => ?_⟩
  obtain ⟨y, hy, hyr⟩ := List.mem_map.1 hin
  obtain ⟨k, -, hk⟩ := List.mem_flatMap.1 hy
  simp only [launchRegs, List.mem_cons, List.not_mem_nil, or_false] at hk
  obtain rfl | rfl | rfl | rfl | rfl := hk <;> dsimp only at hyr <;> omega

theorem liveMask_getLsbD (threads j l : Nat) (hl : l < 32) : (liveMask threads j).getLsbD l = decide (32 * j + l < threads) := by
  rw [liveMask, BitVec.getLsbD_ofNat, Nat.testBit_two_pow_sub_one]
  by_cases h : 32 * j + l < threads <;> simp only [h, hl, decide_true, decide_false, Bool.true_and] <;> simp <;> omega

/-- The words of an image read from `n` bytes. -/
theorem codeWords_range (n : Nat) (f : Nat → Byte) : codeWords ((List.range n).map f)
    = (List.range (n / 8)).map (fun k => BitVec.ofNat 64 (leNat ((List.range 8).map (fun j => f (8 * k + j))))) := by
  unfold codeWords field
  rw [List.length_map, List.length_range]
  refine List.map_congr_left fun k hk => ?_
  have hk8 : 8 * k + 8 ≤ n := by have := List.mem_range.1 hk; omega
  congr 2
  refine List.ext_getElem (by simp; omega) fun i hi hi' => ?_
  simp

/-- An image that a core holds, or one whose lines are clean, is at hand, and no byte moves. -/
theorem Dev.imageOn_clean {d : Dev} (hco : d.mem.Coherent) {gr : Grid} {core : Nat} {code : List DWord}
    (h : gr.images.find? (fun x => x.1 == core) = some (core, code)
      ∨ gr.images.find? (fun x => x.1 == core) = none ∧ d.CleanRange gr.part gr.codeAddr gr.codeBytes
        ∧ code = (List.range (gr.codeBytes / 8)).map (fun k => BitVec.ofNat 64 (leNat ((List.range 8).map (fun j =>
            d.byteOf gr.part (gr.codeAddr + 8 * k + j)))))) :
    ∃ e, d.imageOn gr core = (e, none, code) ∧ e.mem.Coherent ∧ d.mem.KeepsBytes e.mem ∧ d.sys.RingsAlike e.sys
      ∧ e.sys.core = d.sys.core ∧ e.sys.fab = d.sys.fab := by
  unfold Dev.imageOn
  obtain hheld | ⟨hnone, hclean, rfl⟩ := h
  · simp only [hheld]
    exact ⟨d, rfl, hco, fun _ _ => rfl, .refl _, rfl, rfl⟩
  · obtain ⟨hsys, hsame, hread⟩ := Dev.readRange_spec hco gr.part gr.codeAddr gr.codeBytes
    obtain ⟨hpoison, hdata⟩ := hread hclean
    simp only [hnone, hpoison, hdata, codeWords_range, Nat.add_assoc]
    refine ⟨_, rfl, hsame.coherent, hsame.keeps, ?_, ?_, ?_⟩ <;> rw [hsys]
    · exact ⟨rfl, fun _ => rfl, fun _ => Sys.charge_inForce _ _ _ _⟩
    · rfl
    · rfl

section
variable {s : Sys} {gr : Grid} {core : Nat} {slots : List Nat} {code : List DWord}

theorem place_alike : s.RingsAlike (s.place gr core slots code) := ⟨rfl, fun _ => rfl, fun _ => rfl⟩

theorem roomFor_slots (h : s.roomFor gr core slots = true) : slots.length = (gr.threads + 31) / 32 := by
  simp only [Sys.roomFor, Bool.and_eq_true] at h
  obtain ⟨⟨⟨⟨⟨⟨⟨⟨hlen, -⟩, -⟩, -⟩, -⟩, -⟩, -⟩, -⟩, -⟩ := h
  exact beq_iff_eq.1 hlen

/-- What a placement adds: the block with zero core store and empty granules, and its groups at instruction 0. -/
theorem place_adds (hlen : slots.length = (gr.threads + 31) / 32) :
    ∃ (b : Block) (new : List Group), (s.place gr core slots code).core.blocks = s.core.blocks ++ [b]
      ∧ (s.place gr core slots code).core.groups = s.core.groups ++ new
      ∧ b.part = gr.part ∧ b.ring = gr.ring ∧ b.core = core ∧ b.bidx = gr.nextBlock ∧ b.code = code ∧ b.store = []
      ∧ b.acc = [] ∧ b.tags = [] ∧ b.regsPer = gr.regsPer ∧ b.csBytes = gr.csBytes ∧ b.accN = gr.accN
      ∧ new.length = (gr.threads + 31) / 32
      ∧ ∀ j x, new[j]? = some x → x.gid = ⟨core, j % 4, slots.getD j 0⟩ ∧ x.block = b.id ∧ x.pc = 0 ∧ x.wait = .none
          ∧ x.live = x.mask ∧ (∀ l < 32, x.live.getLsbD l = decide (32 * j + l < gr.threads))
          ∧ ∀ l < 32, x.reg l 0 = 32 * j + l ∧ x.reg l 1 = gr.nextBlock ∧ x.reg l 2 = gr.argAddr % 2 ^ 32
              ∧ x.reg l 3 = gr.argAddr / 2 ^ 32 ∧ x.reg l 4 = core ∧ ∀ r, 5 ≤ r → r < 256 → x.reg l r = 0 := by
  have hplaces : (placeOf core slots).length = (gr.threads + 31) / 32 := by rw [← hlen]; simp [placeOf]
  refine ⟨_, _, rfl, rfl, rfl, rfl, rfl, rfl, rfl, rfl, rfl, rfl, rfl, rfl, rfl, by simp [hplaces], fun j x hx => ?_⟩
  obtain ⟨hj, rfl⟩ := List.getElem?_eq_some_iff.1 hx
  have hj' : j < (placeOf core slots).length := by simpa using hj
  have hjs : j < slots.length := by rw [hlen, ← hplaces]; exact hj'
  have hgid : (placeOf core slots).getD j ⟨core, 0, 0⟩ = ⟨core, j % 4, slots.getD j 0⟩ := by
    simp [placeOf, nth, hjs]
  simp only [List.getElem_map, List.getElem_range, hgid]
  exact ⟨rfl, rfl, rfl, rfl, rfl, fun l hl => liveMask_getLsbD _ _ _ hl, fun l hl => newGroup_reg _ _ _ _ ⟨core, j % 4, slots.getD j 0⟩ _ l hl⟩

end

/-- A placement on a core with room, with its image at hand, is what the placement's part of the device does. -/
theorem blockPlace_eq {d e : Dev} {uid core : Nat} {slots : List Nat} {gr : Grid} {code : List DWord}
    (hg : d.sys.core.grids.find? (fun x => x.uid == uid) = some gr) (hrun : d.sys.coreRuns = true) (hstop : d.sys.unitStopped 0x0F 0 = false)
    (hres : d.sys.resetting gr.part = false) (hdy : d.sys.dying gr.part gr.ring = false) (hnext : gr.nextBlock < gr.blocks)
    (huse : d.sys.coreUsable gr.part core = true) (hroom : d.sys.roomFor gr core slots = true)
    (hcode : d.rangeOk gr.part gr.codeAddr gr.codeBytes false = true) (hi : d.imageOn gr core = (e, none, code)) :
    blockPlace uid core slots d = ⟨e.mem, e.sys.place gr core slots code⟩ := by
  unfold blockPlace
  simp only [hg, hrun, hstop, hres, hdy, hnext, huse, hroom, hcode, hi, Bool.not_false, decide_true, Bool.and_self, if_true]
  rfl

/-! ### BLOCK_END (R177) -/

/-- What becomes of a grid's entry when the entry is changed in place. -/
theorem find?_map_uid {gs : List Grid} {uid : Nat} {gr : Grid} {f : Grid → Grid} (hf : ∀ x, (f x).uid = x.uid)
    (h : gs.find? (fun x => x.uid == uid) = some gr) :
    (gs.map (fun x => if x.uid == uid then f x else x)).find? (fun x => x.uid == uid) = some (f gr) := by
  have hkey : (fun x : Grid => x.uid == uid) ∘ (fun x : Grid => if x.uid == uid then f x else x) = fun x => x.uid == uid := by
    funext x
    simp only [Function.comp_apply]
    split <;> simp only [hf]
  have huid := List.find?_some (p := fun x : Grid => x.uid == uid) h
  rw [List.find?_map, hkey, h, Option.map_some, if_pos huid]

/-- The state after a block's resources are free and its end is counted. -/
def Sys.blockFreed (s : Sys) (b : Block) (id : Nat) : Sys :=
  (s.onCore (fun c => { c with
    blocks := c.blocks.filter (fun x => x.id != id), csPend := c.csPend.filter (fun x => x.block != id) })).onGrid b.uid
    (fun g => { g with ended := g.ended + 1 })

section
variable {s : Sys} {id : Nat} {b : Block} {gr : Grid}

theorem Sys.blockFreed_grid (hg : s.core.grids.find? (fun x => x.uid == b.uid) = some gr) :
    (s.blockFreed b id).core.grids.find? (fun x => x.uid == b.uid) = some { gr with ended := gr.ended + 1 } :=
  find?_map_uid (fun _ => rfl) hg

/-- The end of a block whose threads have exited: its grid goes on, or with the last block the LAUNCH completes. -/
theorem blockEnd_eq (hb : s.blk id = some b) (hrun : s.coreRuns = true) (hdy : s.dying b.part b.ring = false) (hdone : s.blockDone b = true)
    (hg : s.core.grids.find? (fun x => x.uid == b.uid) = some gr) :
    blockEnd id s = if gr.ended + 1 = gr.blocks then
        ((s.blockFreed b id).onCore (fun c => { c with grids := c.grids.filter (fun x => x.uid != b.uid) })).completeUid b.ring b.uid 0 0
      else s.blockFreed b id := by
  have hfreed := Sys.blockFreed_grid (id := id) hg
  unfold Sys.blockFreed at hfreed ⊢
  have hb' : s.core.block? id = some b := hb
  unfold blockEnd
  simp only [hb', hrun, hdy, hdone, Bool.not_false, Bool.and_self, if_true, hfreed]

end

theorem execBlockEnd_next {s : State} {id : Nat} {u : Sys} (hco : s.dev.mem.Coherent) (hl : blockEnd id s.dev.sys = u)
    (ha : s.dev.sys.RingsAlike u) :
    ∃ t, exec (.blockEnd id) s = .next t ∧ t.pending = s.pending ∧ s.KeepsButPages t ∧ t.dev.sys.core = u.core ∧ t.dev.sys.fab = u.fab
      ∧ ∀ r, (t.dev.sys.ring r).cmds = (u.ring r).cmds ∧ (t.dev.sys.ring r).records = (u.ring r).records :=
  onRings_next (f := liftSys (blockEnd id)) (d := ⟨s.dev.mem, u⟩) (congrArg (Dev.mk s.dev.mem) hl) hco (fun _ _ => rfl) ha

theorem Sys.blockFreed_alike (s : Sys) (b : Block) (id : Nat) : s.RingsAlike (s.blockFreed b id) := ⟨rfl, fun _ => rfl, fun _ => rfl⟩

/-- Settles O19: a LAUNCH by its checks, a placement by what it adds, the end of a block by whether it is its grid's last. -/
theorem gridsPlaceAndEndBlocks : Obligations.GridsPlaceAndEndBlocks := by
  unfold Obligations.GridsPlaceAndEndBlocks
  intro s hco
  refine ⟨fun r idx c hc => ⟨fun h0 => ?_, fun h0 hno => ?_, fun h0 hfits ⟨k, hk, huse⟩ => ?_⟩,
    fun uid core slots gr code hg hrun hstop hres hdy hnext huse hroom hcode himage => ?_,
    fun id b gr hb hrun hdy hdone hg => ?_⟩
  · refine State.launch_completes hco hc ?_
    simp only [launch, hc, if_pos h0]
  · refine State.launch_completes hco hc ?_
    simp only [launch, hc, if_neg h0]
    refine if_pos (hno.imp_right fun h => ?_)
    simpa using h
  · refine State.launch_grid hco (c := c) ?_
    simp only [launch, hc, if_neg h0]
    refine if_neg ?_
    simp only [hfits, Bool.true_eq_false, false_or, Bool.not_eq_false, List.any_eq_true]
    exact ⟨k, List.mem_range.2 hk, huse⟩
  · obtain ⟨e, hi, heco, hkeep, ha, hecore, hefab⟩ := Dev.imageOn_clean hco himage
    obtain ⟨b, new, hblocks, hgroups, hrest⟩ := place_adds (s := e.sys) (core := core) (code := code) (roomFor_slots hroom)
    obtain ⟨t, ht, hp, hk, hcore, hfab, -⟩ := onRings_next (f := blockPlace uid core slots)
      (blockPlace_eq hg hrun hstop hres hdy hnext huse hroom hcode hi) heco hkeep (ha.trans place_alike)
    rw [← hcore, hecore] at hblocks hgroups
    exact ⟨t, b, new, ht, hp, hfab.trans hefab, hk, hblocks, hgroups, hrest⟩
  · have heq := blockEnd_eq hb hrun hdy hdone hg
    have halike := s.dev.sys.blockFreed_alike b id
    by_cases hlast : gr.ended + 1 = gr.blocks
    · rw [if_pos hlast] at heq
      generalize hu : (s.dev.sys.blockFreed b id).onCore (fun c => { c with grids := c.grids.filter (fun x => x.uid != b.uid) }) = u at heq
      have hua : s.dev.sys.RingsAlike u := hu ▸ halike
      obtain ⟨t, ht, hp, hk, hcore, hfab, hring⟩ := execBlockEnd_next hco heq (hua.trans (Sys.completeUid_alike ..))
      obtain ⟨hccore, hcfab⟩ := u.completeUid_core b.ring b.uid 0 0
      rw [hccore, ← hu] at hcore
      rw [hcfab, ← hu] at hfab
      refine ⟨t, ht, hp, hfab, hk, hcore ▸ rfl, hcore ▸ rfl, fun h => absurd hlast h, fun _ => ⟨fun x hx => ?_, fun c hc => ?_⟩⟩
      · rw [hcore] at hx
        exact bne_iff_ne.1 (List.mem_filter.1 hx).2
      · have hrings : u.ring b.ring = s.dev.sys.ring b.ring := hu ▸ rfl
        obtain ⟨-, d, hrec, hst, hd⟩ := Sys.completeUid_ring (s := u) (hrings.symm ▸ List.mem_of_find?_eq_some hc)
          (beq_iff_eq.1 (List.find?_some (p := fun x : RCmd => x.uid == b.uid) hc)) 0 0
        exact ⟨d, (hring b.ring).2.trans (hrec.trans (hrings ▸ rfl)), hst, hd⟩
    · rw [if_neg hlast] at heq
      obtain ⟨t, ht, hp, hk, hcore, hfab, -⟩ := execBlockEnd_next hco heq halike
      refine ⟨t, ht, hp, hfab, hk, hcore ▸ rfl, hcore ▸ rfl, fun _ => ?_, fun h => absurd h hlast⟩
      rw [hcore, Sys.blockFreed_grid hg]
      rfl

end Sys2Proof.Machine
end

section
/-! PROOF. An atomic on Shofel memory that releases (O15): the release lets the thread's waiting load of core store take effect, and the
load's value joins those that wait with its own instruction. The statement's `Holds` asks that no collector but the atomic's has changed,
and for `atom.g` it supposes no quiet core store. -/

namespace Sys2Proof.Machine

open Sys2Proof

/-- `atom.g` on 32-bit words: add, acquire and release at device scope, D register 2, the address in registers 4 and 5, B register 6. -/
def releasingAdd : CoreInst := ⟨0x78, false, 7, 2, 4, 6, 0, 3 * 2 ^ 7 + 2 * 2 ^ 9⟩

/-- Its thread, register 4 holding the address 64, awaits register 10 of an `ld.c` before it. -/
def releasingGroup : Group where
  gid := ⟨0, 0, 0⟩
  block := 0
  gidx := 0
  pc := 0
  mask := 1
  live := 1
  stop := none
  stack := []
  parked := []
  wait := .none
  reported := false
  regs := [(4, 64)]
  preds := List.replicate 7 0
  busy := [10]
  lastIssue := 0
  wpc := 0

def releasingBlock : Block :=
  { id := 0, uid := 9, part := 0, ring := 0, cmd := 0, core := 0, bidx := 0, threads := 1, regsPer := 16, csBytes := 65536, accN := 64,
    code := [releasingAdd.word], store := [], acc := [], tags := [], sums := [], barrier := none }

/-- The `ld.c` waits in a collector. -/
def waitingLoad : Collector := ⟨⟨0, 0, 0⟩, [4], [10], 2, []⟩

/-- A READY device with stack 0 trained and partition 0 enabled with its first gibibyte there; the load of the word at 0 of core store is
still to take effect. -/
def releasingState : State := { State.reset with
  dev.mem := wideLoadMem
  dev.sys.mgmt.power := { PowerState.reset with stages := true, mgmtRail := true, rails := true, pgood := true, refclk := true }
  dev.sys.mgmt.bring.phase := 8
  dev.sys.host.parts := setNth (List.replicate 16 Partition.reset) 0
    { Partition.reset with inForce := ⟨natLe 1 1 ++ natLe 1 2 ++ natLe 2 4 ++ natLe 2 64 ++ zeros 2 ++ natLe 8 3 ++ zeros 48,
        [(0, 3 + 1024 * 2 ^ 30)]⟩ }
  dev.sys.core.blocks := [releasingBlock]
  dev.sys.core.groups := [releasingGroup]
  dev.sys.core.collectors := [waitingLoad]
  dev.sys.core.csPend := [⟨⟨0, 0, 0⟩, [0], 0, 0, 4, .load false 10, false⟩] }

def releasingIssue : Issue := ⟨releasingGroup, releasingBlock, releasingAdd, ⟨[4, 5, 6], [2], [7], 2⟩, [0]⟩

theorem releasingState_goes : releasingState.dev.Goes 0x78 ⟨0, 0, 0⟩ releasingIssue := by
  constructor
  · decide +kernel
  · decide +kernel

theorem releasingState_ok : releasingState.dev.sys.core.Ok := by
  refine ⟨List.nodup_singleton _, ?_, ?_, nofun, nofun, ?_, List.pairwise_singleton _ _, nofun⟩
  · intro g hg
    obtain rfl := List.mem_singleton.1 hg
    exact ⟨rfl, rfl, rfl⟩
  · intro b hb
    obtain rfl := List.mem_singleton.1 hb
    exact ⟨rfl, rfl⟩
  · intro x hx r hr
    obtain rfl := List.mem_singleton.1 hx
    exact ⟨releasingGroup, List.mem_singleton.2 rfl, rfl, hr⟩

theorem releasingState_clean : releasingState.dev.CleanRange 0 64 4 := by
  have hlines : ∀ j < 4, (releasingState.dev.mem.stack (releasingState.dev.locate 0 (64 + j)).1).isPoisoned
      ((releasingState.dev.locate 0 (64 + j)).2 / 64) = false
      ∧ (releasingState.dev.mem.lineOf (releasingState.dev.locate 0 (64 + j)).1 ((releasingState.dev.locate 0 (64 + j)).2 / 64)).poison = false := by
    decide +kernel
  intro j hj st L hl
  have := hlines j hj
  rwa [hl] at this

/-- The atomic is applied at once, and the load's word 0 has joined the first collector's values. -/
theorem releasingState_after :
    let c := (issuePicked ⟨0, 0, 0⟩ runAtomG releasingState.dev).sys.core
    c.stores = [] ∧ c.collectors.head? = some { waitingLoad with vals := [(10, 0)] } := by
  decide +kernel

/-- Refutes O15: where a thread's load of core store is still to take effect, an `atom.g` that releases changes the load's collector
besides its own, so no value it leaves for D stands behind the collectors as they were. -/
theorem not_atomicsUpdateOnce : ¬ Obligations.AtomicsUpdateOnce := by
  intro h
  obtain ⟨-, hatomG⟩ := h releasingState ⟨0, 0, 0⟩ releasingIssue releasingState_ok wideLoadMem_coherent
  obtain ⟨-, -, hissues⟩ := hatomG releasingState_goes
  obtain ⟨t, ht, -, -, -, -, hvalues⟩ := hissues (by decide +kernel) (by decide +kernel)
  have hdev : t.dev = issuePicked ⟨0, 0, 0⟩ runAtomG releasingState.dev := by
    cases ht
    rfl
  obtain ⟨hstores, hcollectors⟩ := releasingState_after
  rw [← hdev] at hstores hcollectors
  have hclean : ∀ l ∈ releasingIssue.act, releasingState.dev.CleanRange 0 (releasingIssue.grp.regN l 4 2) 4 := fun l hl => by
    obtain rfl := List.mem_singleton.1 hl
    exact releasingState_clean
  obtain ⟨⟨x, hx, -⟩, -⟩ | ⟨-, hheld⟩ := hvalues hclean 0 (List.mem_singleton.2 rfl)
  · rw [hstores] at hx
    cases hx
  · obtain ⟨c, hc, -⟩ := hheld (by decide) 0 0 (by decide +kernel)
    have hhead : t.dev.sys.core.collectors.head? = some waitingLoad := congrArg List.head? hc
    rw [hcollectors] at hhead
    revert hhead
    decide

end Sys2Proof.Machine
end
